-- ==== Sys2Proof/Word.lean ====
section
/-! DEFINITION. Words, bytes and the plainest arithmetic on them, and the sparse tables the state is made of. -/

namespace Sys2Proof

/-- One byte of storage. -/
abbrev Byte := BitVec 8

/-- A general register, a program address or a control register. -/
abbrev Word := BitVec 64

/-- One 512-bit vector register. -/
abbrev VReg := BitVec 512

/-- A sparse table: entries by rising key; what is not listed is the table's default. -/
abbrev Tbl (α : Type) := List (Nat × α)

/-- The entry at `k`, if it is listed. -/
def Tbl.look {α : Type} : Tbl α → Nat → Option α
  | [], _ => none
  | (j, a) :: r, k => if j = k then some a else Tbl.look r k

/-- The entry at `k`, or the default `d`. -/
def Tbl.get {α : Type} (d : α) (t : Tbl α) (k : Nat) : α := (Tbl.look t k).getD d

/-- Write the entry at `k`, keeping the keys rising. -/
def Tbl.set {α : Type} : Tbl α → Nat → α → Tbl α
  | [], k, a => [(k, a)]
  | (j, b) :: r, k, a =>
    if j < k then (j, b) :: Tbl.set r k a
    else if j = k then (k, a) :: r
    else (k, a) :: (j, b) :: r

/-- Remove the entry at `k`. -/
def Tbl.erase {α : Type} (t : Tbl α) (k : Nat) : Tbl α := t.filter (fun e => e.1 != k)

/-- Change every listed entry. -/
def Tbl.mapV {α : Type} (f : α → α) : Tbl α → Tbl α
  | [] => []
  | (k, a) :: r => (k, f a) :: Tbl.mapV f r

/-- The bytes of a value, lowest first (R9). -/
def bytesOf : Nat → Nat → List Byte
  | 0, _ => []
  | n + 1, v => BitVec.ofNat 8 v :: bytesOf n (v / 256)

/-- The value of little-endian bytes (R9). -/
def ofBytes : List Byte → Nat
  | [] => 0
  | b :: r => b.toNat + 256 * ofBytes r

/-- The 64-bit value of little-endian bytes. -/
def word64 (bs : List Byte) : Word := BitVec.ofNat 64 (ofBytes bs)

/-- Bits `hi` to `lo` of a number, as a number. -/
def bits (v hi lo : Nat) : Nat := (v >>> lo) % 2 ^ (hi - lo + 1)

/-- Bit `n` of a number. -/
def bit (v n : Nat) : Bool := v.testBit n

/-- One bit as a number. -/
def b2n (b : Bool) : Nat := if b then 1 else 0

/-- The low `w` bits of a number read as two's complement. -/
def sintN (w v : Nat) : Int := if v % 2 ^ w < 2 ^ (w - 1) then (v % 2 ^ w : Nat) else ((v % 2 ^ w : Nat) : Int) - (2 ^ w : Nat)

/-- Take the list in pieces of `n`, `fuel` at most. -/
def chunks {α : Type} (n : Nat) : Nat → List α → List (List α)
  | 0, _ => []
  | _ + 1, [] => []
  | f + 1, l => l.take n :: chunks n f (l.drop n)

/-- Write position `k` of a list (no effect past its end). -/
def setAt {α : Type} (l : List α) (k : Nat) (a : α) : List α := l.set k a

end Sys2Proof
end

