-- ==== Sys2Proof/Syntax.lean ====
section
/-! DEFINITION. The syntax: ONE constructor per row of the opcode table.

The first part of the rows are the instruction words of chapters 11 to 16; a constructor holds the word's fields
with the widths of the formats of R289 and R290 (the pair bit P belongs to the bundle, R282, and is kept beside the
instruction, in `Sys2Proof.decodeWord`).  The other rows are the part's own steps (an engine taking a command, a packet moving
one item, a register write that has a row of its own, an action of the host or of firmware); they have no
word, and their constructors hold nothing: the unit, core and slot, the packet in flight or the value written that the
step acts on stand in the state (`EvArgs`). -/

namespace Sys2Proof

/-- A thread's place: the unit (beds 0 to 11, rim dies 16 to 21), the core in it and the slot (R8, R170). -/
structure Place where
  unit : Nat
  core : Nat
  slot : Nat
deriving DecidableEq, Repr, Inhabited

/-- One Spire link end that firmware trains at start-up: its die and number, and what training learns (R101, R471). -/
structure LinkSetup where
  die : Nat
  link : Nat
  farmod : BitVec 12
  fardie : BitVec 1
  farlink : BitVec 4
  lat : BitVec 16
deriving DecidableEq, Repr, Inhabited

/-- What the control node supplies for the bring-up of R471, step by step. -/
structure Bringup where
  ts : BitVec 64
  moduleNo : BitVec 12
  links : List LinkSetup
  regions : List (BitVec 64 × BitVec 64)
  turnmask : BitVec 64
  trellis : List (BitVec 8)
deriving DecidableEq, Repr, Inhabited

/-- What an event acts on: the unit, core and slot, an index of its own kind, and the value or payload that comes with it.
An event reads only what its meaning names. -/
structure EvArgs where
  unit : Nat
  core : Nat
  slot : Nat
  index : Nat
  aux : Nat
  flag : Bool
  flag2 : Bool
  v : BitVec 64
  wide : BitVec 320
  bytes : List Byte
  words : List (BitVec 64)
  setup : Option Bringup
deriving DecidableEq, Repr, Inhabited

/-- Every instruction word and every step of the part, one constructor per row of the opcode table. -/
inductive Instr where
  /-- B (R316): Unconditional relative branch. -/
  | b (o : BitVec 24)
  /-- BL (R316): Relative call that writes the link to g1. -/
  | bl (o : BitVec 24)
  /-- BR (R316): Indirect branch to g[A] plus IMM. -/
  | br (a : BitVec 5) (i : BitVec 14)
  /-- BRL (R316): Indirect call that writes the link to g[D]. -/
  | brl (d : BitVec 5) (a : BitVec 5) (i : BitVec 14)
  /-- BEQ (R315): Branch if the registers are equal. -/
  | beq (a : BitVec 5) (b : BitVec 5) (o : BitVec 14)
  /-- BNE (R315): Branch if the registers are not equal. -/
  | bne (a : BitVec 5) (b : BitVec 5) (o : BitVec 14)
  /-- BLT (R315): Branch if less than, signed. -/
  | blt (a : BitVec 5) (b : BitVec 5) (o : BitVec 14)
  /-- BGE (R315): Branch if greater than or equal, signed. -/
  | bge (a : BitVec 5) (b : BitVec 5) (o : BitVec 14)
  /-- BLTN (R315): Branch if less than, unsigned. -/
  | bltn (a : BitVec 5) (b : BitVec 5) (o : BitVec 14)
  /-- BGEN (R315): Branch if greater than or equal, unsigned. -/
  | bgen (a : BitVec 5) (b : BitVec 5) (o : BitVec 14)
  /-- BZ (R315): Branch if the register is zero. -/
  | bz (a : BitVec 5) (o : BitVec 14)
  /-- BNZ (R315): Branch if the register is not zero. -/
  | bnz (a : BitVec 5) (o : BitVec 14)
  /-- LD_B (R320): Load one byte, zero-extended. -/
  | ldB (t : BitVec 5) (a : BitVec 5) (d : BitVec 11)
  /-- LD_H (R320): Load two bytes, zero-extended. -/
  | ldH (t : BitVec 5) (a : BitVec 5) (d : BitVec 11)
  /-- LD_W (R320): Load four bytes, zero-extended. -/
  | ldW (t : BitVec 5) (a : BitVec 5) (d : BitVec 11)
  /-- LD_D (R320): Load eight bytes. -/
  | ldD (t : BitVec 5) (a : BitVec 5) (d : BitVec 11)
  /-- LD_BX (R320): Load one byte, sign-extended. -/
  | ldBx (t : BitVec 5) (a : BitVec 5) (d : BitVec 11)
  /-- LD_HX (R320): Load two bytes, sign-extended. -/
  | ldHx (t : BitVec 5) (a : BitVec 5) (d : BitVec 11)
  /-- LD_WX (R320): Load four bytes, sign-extended. -/
  | ldWx (t : BitVec 5) (a : BitVec 5) (d : BitVec 11)
  /-- ST_B (R320): Store one byte. -/
  | stB (t : BitVec 5) (a : BitVec 5) (d : BitVec 11)
  /-- ST_H (R320): Store two bytes. -/
  | stH (t : BitVec 5) (a : BitVec 5) (d : BitVec 11)
  /-- ST_W (R320): Store four bytes. -/
  | stW (t : BitVec 5) (a : BitVec 5) (d : BitVec 11)
  /-- ST_D (R320): Store eight bytes. -/
  | stD (t : BitVec 5) (a : BitVec 5) (d : BitVec 11)
  /-- LD_ACQ (R321): 8-byte acquire load at a scope. -/
  | ldAcq (t : BitVec 5) (a : BitVec 5) (s : BitVec 2) (d : BitVec 11)
  /-- ST_REL (R321): 8-byte release store at a scope. -/
  | stRel (t : BitVec 5) (a : BitVec 5) (s : BitVec 2) (d : BitVec 11)
  /-- ST_NT (R322): Streaming store that bypasses the store buffer. -/
  | stNt (t : BitVec 5) (a : BitVec 5) (z : BitVec 2) (d : BitVec 11)
  /-- AMO_ADD (R325): Atomic add that returns the old value. -/
  | amoAdd (d : BitVec 5) (a : BitVec 5) (b : BitVec 5) (z : BitVec 1)
  /-- AMO_AND (R325): Atomic AND. -/
  | amoAnd (d : BitVec 5) (a : BitVec 5) (b : BitVec 5) (z : BitVec 1)
  /-- AMO_OR (R325): Atomic OR. -/
  | amoOr (d : BitVec 5) (a : BitVec 5) (b : BitVec 5) (z : BitVec 1)
  /-- AMO_XOR (R325): Atomic XOR. -/
  | amoXor (d : BitVec 5) (a : BitVec 5) (b : BitVec 5) (z : BitVec 1)
  /-- AMO_MIN (R325): Atomic signed minimum. -/
  | amoMin (d : BitVec 5) (a : BitVec 5) (b : BitVec 5) (z : BitVec 1)
  /-- AMO_MAX (R325): Atomic signed maximum. -/
  | amoMax (d : BitVec 5) (a : BitVec 5) (b : BitVec 5) (z : BitVec 1)
  /-- AMO_MINN (R325): Atomic unsigned minimum. -/
  | amoMinn (d : BitVec 5) (a : BitVec 5) (b : BitVec 5) (z : BitVec 1)
  /-- AMO_MAXN (R325): Atomic unsigned maximum. -/
  | amoMaxn (d : BitVec 5) (a : BitVec 5) (b : BitVec 5) (z : BitVec 1)
  /-- AMO_SWAP (R325): Atomic swap. -/
  | amoSwap (d : BitVec 5) (a : BitVec 5) (b : BitVec 5) (z : BitVec 1)
  /-- AMO_CAS (R325): Atomic compare-and-swap against the old g[D]. -/
  | amoCas (d : BitVec 5) (a : BitVec 5) (b : BitVec 5) (z : BitVec 1)
  /-- LD_RES (R326): Load and place a reservation. -/
  | ldRes (d : BitVec 5) (a : BitVec 5)
  /-- ST_COND (R326): Store if the reservation is still valid. -/
  | stCond (d : BitVec 5) (a : BitVec 5) (b : BitVec 5)
  /-- WRES (R326): Wait until the reservation may have been lost. -/
  | wres (d : BitVec 5)
  /-- FGET (R329): Read a full future word, waiting while it is empty. -/
  | fget (d : BitVec 5) (a : BitVec 5)
  /-- FPUT (R329): Fill a future word and wake its waiters. -/
  | fput (d : BitVec 5) (a : BitVec 5) (b : BitVec 5)
  /-- FTAKE (R329): Read a full future word and empty it. -/
  | ftake (d : BitVec 5) (a : BitVec 5)
  /-- RED_ADD (R330): Integer add reduction sent to the home. -/
  | redAdd (a : BitVec 5) (b : BitVec 5) (z : BitVec 1)
  /-- RED_MIN (R330): Signed minimum reduction. -/
  | redMin (a : BitVec 5) (b : BitVec 5) (z : BitVec 1)
  /-- RED_MAX (R330): Signed maximum reduction. -/
  | redMax (a : BitVec 5) (b : BitVec 5) (z : BitVec 1)
  /-- RED_FADD (R330): Floating-point add reduction, rounded RNE at the home. -/
  | redFadd (a : BitVec 5) (b : BitVec 5) (z : BitVec 1)
  /-- RED_FADD_GROUP (R330): Contribution to a reduction group. -/
  | redFaddGroup (d : BitVec 5) (a : BitVec 5) (b : BitVec 5)
  /-- FENCE (R334): Order the thread's accesses at a scope. -/
  | fence (s : BitVec 2)
  /-- XFENCE (R202): Fence, then wait until observed writes on path P are performed for path Q. -/
  | xfence (x : BitVec 3) (y : BitVec 3) (s : BitVec 2)
  /-- ISYNC (R335): Wait for stores, invalidate the instruction cache and refetch. -/
  | isync
  /-- BAR_INIT (R337): Configure a barrier. -/
  | barInit (a : BitVec 5) (n : BitVec 11)
  /-- BAR_ARRIVE (R339): Arrive on a barrier and return the phase token. -/
  | barArrive (d : BitVec 5) (n : BitVec 11)
  /-- BAR_WAIT (R340): Wait until a barrier phase is complete. -/
  | barWait (a : BitVec 5) (n : BitVec 11)
  /-- BAR_TRY (R340): Test without waiting whether a barrier phase is complete. -/
  | barTry (d : BitVec 5) (a : BitVec 5) (n : BitVec 11)
  /-- SLOT_TAKE (R341): Decrement a slot counter, waiting in turn. -/
  | slotTake (d : BitVec 5) (a : BitVec 5) (c : BitVec 6)
  /-- SLOT_GIVE (R341): Increment a slot counter. -/
  | slotGive (a : BitVec 5) (c : BitVec 6)
  /-- SLOT_TRY (R341): Decrement a slot counter without waiting. -/
  | slotTry (d : BitVec 5) (a : BitVec 5) (c : BitVec 6)
  /-- BB_INIT (R343): Start the bit buffer at a byte address. -/
  | bbInit (a : BitVec 5)
  /-- BB_PEEK_IMM (R343): Read n bits, with n an immediate. -/
  | bbPeekImm (d : BitVec 5) (n : BitVec 6)
  /-- BB_PEEK_REG (R343): Read g[A] bits. -/
  | bbPeekReg (d : BitVec 5) (a : BitVec 5)
  /-- BB_TAKE_IMM (R343): Read and consume n bits, with n an immediate. -/
  | bbTakeImm (d : BitVec 5) (n : BitVec 6)
  /-- BB_TAKE_REG (R343): Read and consume g[A] bits. -/
  | bbTakeReg (d : BitVec 5) (a : BitVec 5)
  /-- BB_DEC (R344): Decode one prefix code through a table. -/
  | bbDec (d : BitVec 5) (a : BitVec 5) (l : BitVec 4)
  /-- BB_COPY (R345): Back-reference copy of a sliding-window decoder. -/
  | bbCopy (d : BitVec 5) (a : BitVec 5) (b : BitVec 5)
  /-- BB_LIT (R345): Write n literal bytes from the bit buffer. -/
  | bbLit (d : BitVec 5) (n : BitVec 4)
  /-- CPY (R392): Issue a copy command with no checksum. -/
  | cpy (a : BitVec 5)
  /-- CPY_CK (R392): Issue a copy command with its checksum fields. -/
  | cpyCk (a : BitVec 5)
  /-- CPY_Q (R394): Read channel word 2, waiting for PEND 0 with .w. -/
  | cpyQ (d : BitVec 5) (w : BitVec 1) (c : BitVec 4)
  /-- CPY_QUENCH (R395): Start a quench of a context. -/
  | cpyQuench (a : BitVec 5)
  /-- STASH_OPEN (R396): Queue a stash.open that writes a region header. -/
  | stashOpen (a : BitVec 5)
  /-- STASH (R396): Queue a stash from memory or a FIFO. -/
  | stash (a : BitVec 5)
  /-- STASH_REG (R397): Stash from two vector registers. -/
  | stashReg (v : BitVec 4) (a : BitVec 5)
  /-- RESTORE (R396): Probe, then queue a restore. -/
  | restore (a : BitVec 5)
  /-- STASH_STAT (R398): Probe a region header and return counts or a header word. -/
  | stashStat (d : BitVec 5) (a : BitVec 5) (s : BitVec 2)
  /-- GRAFT_CFG (R399): Load a population descriptor into a ranker slot. -/
  | graftCfg (a : BitVec 5) (s : BitVec 4)
  /-- GRAFT_GO (R400): Queue a go of a population slot. -/
  | graftGo (s : BitVec 4)
  /-- GRAFT_STAT (R400): Read a POPST word of a slot. -/
  | graftStat (d : BitVec 5) (w : BitVec 2) (s : BitVec 4)
  /-- PSEND_OPEN (R402): Open an explicit packet from a head block. -/
  | psendOpen (a : BitVec 5)
  /-- PSEND_APPEND (R402): Append a payload flit to the open packet. -/
  | psendAppend (a : BitVec 5)
  /-- PSEND_E_OPEN (R402): Open and close a packet with no payload. -/
  | psendEOpen (a : BitVec 5)
  /-- PSEND_E_APPEND (R402): Append a flit, then close and inject. -/
  | psendEAppend (a : BitVec 5)
  /-- PSEND_E_CLOSE (R402): Close and inject the open packet. -/
  | psendEClose
  /-- SPAWN (R404): Send a spawn to a named core and wait for its answer. -/
  | spawn (d : BitVec 5) (a : BitVec 5) (h : BitVec 1)
  /-- DQ_PUSH (R405): Push a task record onto the core's deque. -/
  | dqPush (d : BitVec 5) (a : BitVec 5)
  /-- DQ_POP (R405): Pop a task, stealing when the deque is empty. -/
  | dqPop (d : BitVec 5)
  /-- LAUNCH (R406): Copy a gang record into a bed's launch queue. -/
  | launch (a : BitVec 5) (b : BitVec 4)
  /-- PLOT_ALLOC (R407): Allocate a plot and return its handle. -/
  | plotAlloc (d : BitVec 5) (a : BitVec 5)
  /-- PLOT_PASS (R407): Pass a plot to another slot of the core. -/
  | plotPass (a : BitVec 5) (s : BitVec 3)
  /-- PLOT_FREE (R407): Free a plot. -/
  | plotFree (a : BitVec 5)
  /-- XBEGIN (R288): Open a timed exchange block after an aligned barrier completion. -/
  | xbegin
  /-- XPUT (R409): Send an 8-byte exchange store on a block route slot. -/
  | xput (d : BitVec 5) (a : BitVec 5) (r : BitVec 8)
  /-- XEND (R408): End the timed block. -/
  | xend
  /-- FOLLOW (R225): Join the row leader's instruction stream. -/
  | follow
  /-- UNFOLLOW (R410): Leave follow mode, or stop the leader's stream. -/
  | unfollow
  /-- HOME (R410): Migrate an away light thread back to its home slot. -/
  | home
  /-- YIELD (R411): Make the slot ineligible for issue for n cycles. -/
  | yield (n : BitVec 11)
  /-- TRAP (R412): Raise the user trap with SUB n. -/
  | trap (n : BitVec 11)
  /-- SYS (R412): Raise the system call with SUB n. -/
  | sys (n : BitVec 11)
  /-- ERET (R254): Return from a trap to epc. -/
  | eret
  /-- HALT (R413): Wait for the thread's accesses and end the thread. -/
  | halt
  /-- MFSR (R414): Read a special register. -/
  | mfsr (d : BitVec 5) (s : BitVec 8)
  /-- MTSR (R414): Write a special register. -/
  | mtsr (a : BitVec 5) (s : BitVec 8)
  /-- VLD (R351): Load 64 bytes into a vector register. -/
  | vld (t : BitVec 5) (a : BitVec 5) (d : BitVec 11)
  /-- VLD_W (R351): Vector load that decodes through the format window. -/
  | vldW (t : BitVec 5) (a : BitVec 5) (d : BitVec 11)
  /-- VST (R351): Store 64 bytes from a vector register. -/
  | vst (t : BitVec 5) (a : BitVec 5) (d : BitVec 11)
  /-- VLD_S (R354): Strided masked vector load. -/
  | vldS (d : BitVec 5) (a : BitVec 5) (b : BitVec 5)
  /-- VST_S (R354): Strided masked vector store. -/
  | vstS (d : BitVec 5) (a : BitVec 5) (b : BitVec 5)
  /-- MRING_CFG (R372): Configure an operand ring and reset its counters. -/
  | mringCfg (a : BitVec 5) (b : BitVec 5)
  /-- RING_PUT_RESERVE (R373): ring.put with RESV 1: wait for room and return TAIL. -/
  | ringPutReserve (d : BitVec 5) (a : BitVec 5) (b : BitVec 5)
  /-- RING_PUT_PUBLISH (R373): ring.put with RESV 0: publish COUNT tiles once the stores are performed for MX. -/
  | ringPutPublish (d : BitVec 5) (a : BitVec 5) (b : BitVec 5)
  /-- RING_POP (R373): Claim tiles without computing. -/
  | ringPop (d : BitVec 5) (a : BitVec 5) (b : BitVec 5)
  /-- MACC_LD (R381): Load an accumulator from local memory. -/
  | maccLd (c : BitVec 2) (a : BitVec 5) (b : BitVec 5)
  /-- MACC_ST (R381): Store an accumulator to local memory. -/
  | maccSt (c : BitVec 2) (a : BitVec 5) (b : BitVec 5)
  /-- MCAP (R383): Issue or revoke a matrix capability. -/
  | mcap (d : BitVec 5) (a : BitVec 5) (n : BitVec 4)
  /-- MCMD (R384): Send a remote matrix command. -/
  | mcmd (a : BitVec 5)
  /-- MSTAT (R386): Read MSTAT, draining first when asked, and clear OVF by mask. -/
  | mstat (d : BitVec 5) (a : BitVec 5) (r : BitVec 1)
  /-- MSAVE (R387): Freeze the matrix unit into an image. -/
  | msave (a : BitVec 5)
  /-- MLOAD (R387): Load a frozen image into the matrix unit. -/
  | mload (a : BitVec 5)
  /-- OR (R303): Bitwise OR. -/
  | or (d : BitVec 5) (a : BitVec 5) (b : BitVec 5)
  /-- AND (R303): Bitwise AND. -/
  | and (d : BitVec 5) (a : BitVec 5) (b : BitVec 5)
  /-- XOR (R303): Bitwise XOR. -/
  | xor (d : BitVec 5) (a : BitVec 5) (b : BitVec 5)
  /-- ANDN (R303): AND with the complement. -/
  | andn (d : BitVec 5) (a : BitVec 5) (b : BitVec 5)
  /-- ADD (R303): Add. -/
  | add (d : BitVec 5) (a : BitVec 5) (b : BitVec 5)
  /-- SUB (R303): Subtract. -/
  | sub (d : BitVec 5) (a : BitVec 5) (b : BitVec 5)
  /-- MUL (R303): Multiply, low 64 bits. -/
  | mul (d : BitVec 5) (a : BitVec 5) (b : BitVec 5)
  /-- MULH (R303): Signed multiply, high 64 bits. -/
  | mulh (d : BitVec 5) (a : BitVec 5) (b : BitVec 5)
  /-- MULHN (R303): Unsigned multiply, high 64 bits. -/
  | mulhn (d : BitVec 5) (a : BitVec 5) (b : BitVec 5)
  /-- DIV (R304): Signed divide. -/
  | div (d : BitVec 5) (a : BitVec 5) (b : BitVec 5)
  /-- DIVN (R304): Unsigned divide. -/
  | divn (d : BitVec 5) (a : BitVec 5) (b : BitVec 5)
  /-- REM (R304): Signed remainder. -/
  | rem (d : BitVec 5) (a : BitVec 5) (b : BitVec 5)
  /-- REMN (R304): Unsigned remainder. -/
  | remn (d : BitVec 5) (a : BitVec 5) (b : BitVec 5)
  /-- SHL (R303): Shift left by a register. -/
  | shl (d : BitVec 5) (a : BitVec 5) (b : BitVec 5)
  /-- SHR (R303): Logical shift right by a register. -/
  | shr (d : BitVec 5) (a : BitVec 5) (b : BitVec 5)
  /-- SHA (R303): Arithmetic shift right by a register. -/
  | sha (d : BitVec 5) (a : BitVec 5) (b : BitVec 5)
  /-- ROT (R303): Rotate right. -/
  | rot (d : BitVec 5) (a : BitVec 5) (b : BitVec 5)
  /-- MIN (R303): Signed minimum. -/
  | min (d : BitVec 5) (a : BitVec 5) (b : BitVec 5)
  /-- MAX (R303): Signed maximum. -/
  | max (d : BitVec 5) (a : BitVec 5) (b : BitVec 5)
  /-- MINN (R303): Unsigned minimum. -/
  | minn (d : BitVec 5) (a : BitVec 5) (b : BitVec 5)
  /-- MAXN (R303): Unsigned maximum. -/
  | maxn (d : BitVec 5) (a : BitVec 5) (b : BitVec 5)
  /-- CLZ (R303): Count leading zeros. -/
  | clz (d : BitVec 5) (a : BitVec 5)
  /-- CTZ (R303): Count trailing zeros. -/
  | ctz (d : BitVec 5) (a : BitVec 5)
  /-- POPC (R303): Count one bits. -/
  | popc (d : BitVec 5) (a : BitVec 5)
  /-- EXT_B (R303): Sign-extend bits 7:0. -/
  | extB (d : BitVec 5) (a : BitVec 5)
  /-- EXT_H (R303): Sign-extend bits 15:0. -/
  | extH (d : BitVec 5) (a : BitVec 5)
  /-- EXT_W (R303): Sign-extend bits 31:0. -/
  | extW (d : BitVec 5) (a : BitVec 5)
  /-- CMP_EQ (R303): 1 if equal. -/
  | cmpEq (d : BitVec 5) (a : BitVec 5) (b : BitVec 5)
  /-- CMP_NE (R303): 1 if not equal. -/
  | cmpNe (d : BitVec 5) (a : BitVec 5) (b : BitVec 5)
  /-- CMP_LT (R303): 1 if less than, signed. -/
  | cmpLt (d : BitVec 5) (a : BitVec 5) (b : BitVec 5)
  /-- CMP_LE (R303): 1 if less than or equal, signed. -/
  | cmpLe (d : BitVec 5) (a : BitVec 5) (b : BitVec 5)
  /-- CMP_LTN (R303): 1 if less than, unsigned. -/
  | cmpLtn (d : BitVec 5) (a : BitVec 5) (b : BitVec 5)
  /-- CMP_LEN (R303): 1 if less than or equal, unsigned. -/
  | cmpLen (d : BitVec 5) (a : BitVec 5) (b : BitVec 5)
  /-- ADDI (R306): Add a signed immediate. -/
  | addi (d : BitVec 5) (a : BitVec 5) (i : BitVec 14)
  /-- ANDI (R306): AND with an unsigned immediate. -/
  | andi (d : BitVec 5) (a : BitVec 5) (i : BitVec 14)
  /-- ORI (R306): OR with an unsigned immediate. -/
  | ori (d : BitVec 5) (a : BitVec 5) (i : BitVec 14)
  /-- XORI (R306): XOR with an unsigned immediate. -/
  | xori (d : BitVec 5) (a : BitVec 5) (i : BitVec 14)
  /-- SHLI (R306): Shift left by an immediate. -/
  | shli (d : BitVec 5) (a : BitVec 5) (n : BitVec 6)
  /-- SHRI (R306): Logical shift right by an immediate. -/
  | shri (d : BitVec 5) (a : BitVec 5) (n : BitVec 6)
  /-- SHAI (R306): Arithmetic shift right by an immediate. -/
  | shai (d : BitVec 5) (a : BitVec 5) (n : BitVec 6)
  /-- LIA (R307): Form a bundle-relative address. -/
  | lia (d : BitVec 5) (i : BitVec 14)
  /-- LEA (R307): Form a self-alias address. -/
  | lea (d : BitVec 5) (a : BitVec 5) (i : BitVec 14)
  /-- LIH (R307): Load a 20-bit immediate shifted left by 14. -/
  | lih (j : BitVec 1) (d : BitVec 5) (k : BitVec 5) (i : BitVec 14)
  /-- SEL (R308): Select g[A] or g[B] by g[X]. -/
  | sel (d : BitVec 5) (a : BitVec 5) (b : BitVec 5) (x : BitVec 5)
  /-- FADD (R310): Floating-point add. -/
  | fadd (d : BitVec 5) (a : BitVec 5) (b : BitVec 5) (t : BitVec 2) (r : BitVec 2)
  /-- FSUB (R310): Floating-point subtract. -/
  | fsub (d : BitVec 5) (a : BitVec 5) (b : BitVec 5) (t : BitVec 2) (r : BitVec 2)
  /-- FMUL (R310): Floating-point multiply. -/
  | fmul (d : BitVec 5) (a : BitVec 5) (b : BitVec 5) (t : BitVec 2) (r : BitVec 2)
  /-- FDIV (R310): Floating-point divide. -/
  | fdiv (d : BitVec 5) (a : BitVec 5) (b : BitVec 5) (t : BitVec 2) (r : BitVec 2)
  /-- FSQRT (R310): Floating-point square root. -/
  | fsqrt (d : BitVec 5) (a : BitVec 5) (t : BitVec 2) (r : BitVec 2)
  /-- FMA (R310): Fused multiply-add with one rounding. -/
  | fma (d : BitVec 5) (a : BitVec 5) (b : BitVec 5) (t : BitVec 2) (r : BitVec 2) (x : BitVec 5)
  /-- FMIN (R311): Floating-point minimum. -/
  | fmin (d : BitVec 5) (a : BitVec 5) (b : BitVec 5) (t : BitVec 2)
  /-- FMAX (R311): Floating-point maximum. -/
  | fmax (d : BitVec 5) (a : BitVec 5) (b : BitVec 5) (t : BitVec 2)
  /-- FCMP (R311): Floating-point compare under the relation eq, lt, le or un. -/
  | fcmp (d : BitVec 5) (a : BitVec 5) (b : BitVec 5) (t : BitVec 2) (e : BitVec 2)
  /-- FCVT (R312): Convert between floating-point types. -/
  | fcvt (d : BitVec 5) (a : BitVec 5) (t : BitVec 2) (r : BitVec 2) (s : BitVec 2)
  /-- FCVI (R312): Convert floating point to integer. -/
  | fcvi (d : BitVec 5) (a : BitVec 5) (t : BitVec 2) (r : BitVec 2) (i : BitVec 3)
  /-- FICV (R312): Convert integer to floating point. -/
  | ficv (d : BitVec 5) (a : BitVec 5) (t : BitVec 2) (r : BitVec 2) (i : BitVec 3)
  /-- FCLASS (R313): Classify a floating-point value. -/
  | fclass (d : BitVec 5) (a : BitVec 5) (t : BitVec 2)
  /-- FNEG (R313): Invert the sign. -/
  | fneg (d : BitVec 5) (a : BitVec 5) (t : BitVec 2)
  /-- FABS (R313): Clear the sign. -/
  | fabs (d : BitVec 5) (a : BitVec 5) (t : BitVec 2)
  /-- VADD (R356): Lane-wise integer add. -/
  | vadd (d : BitVec 5) (a : BitVec 5) (b : BitVec 5) (m : BitVec 3) (t : BitVec 4)
  /-- VSUB (R356): Lane-wise integer subtract. -/
  | vsub (d : BitVec 5) (a : BitVec 5) (b : BitVec 5) (m : BitVec 3) (t : BitVec 4)
  /-- VMUL (R356): Lane-wise integer multiply. -/
  | vmul (d : BitVec 5) (a : BitVec 5) (b : BitVec 5) (m : BitVec 3) (t : BitVec 4)
  /-- VMLA (R356): Lane-wise multiply-accumulate. -/
  | vmla (d : BitVec 5) (a : BitVec 5) (b : BitVec 5) (m : BitVec 3) (t : BitVec 4)
  /-- VAND (R356): Lane-wise AND. -/
  | vand (d : BitVec 5) (a : BitVec 5) (b : BitVec 5) (m : BitVec 3) (t : BitVec 4)
  /-- VOR (R356): Lane-wise OR. -/
  | vor (d : BitVec 5) (a : BitVec 5) (b : BitVec 5) (m : BitVec 3) (t : BitVec 4)
  /-- VXOR (R356): Lane-wise XOR. -/
  | vxor (d : BitVec 5) (a : BitVec 5) (b : BitVec 5) (m : BitVec 3) (t : BitVec 4)
  /-- VSHL (R356): Lane-wise shift left. -/
  | vshl (d : BitVec 5) (a : BitVec 5) (b : BitVec 5) (m : BitVec 3) (t : BitVec 4)
  /-- VSHR (R356): Lane-wise logical shift right. -/
  | vshr (d : BitVec 5) (a : BitVec 5) (b : BitVec 5) (m : BitVec 3) (t : BitVec 4)
  /-- VSHA (R356): Lane-wise arithmetic shift right. -/
  | vsha (d : BitVec 5) (a : BitVec 5) (b : BitVec 5) (m : BitVec 3) (t : BitVec 4)
  /-- VMIN (R356): Lane-wise integer minimum. -/
  | vmin (d : BitVec 5) (a : BitVec 5) (b : BitVec 5) (m : BitVec 3) (t : BitVec 4)
  /-- VMAX (R356): Lane-wise integer maximum. -/
  | vmax (d : BitVec 5) (a : BitVec 5) (b : BitVec 5) (m : BitVec 3) (t : BitVec 4)
  /-- VFADD (R357): Lane-wise floating-point add. -/
  | vfadd (d : BitVec 5) (a : BitVec 5) (b : BitVec 5) (m : BitVec 3) (t : BitVec 4)
  /-- VFSUB (R357): Lane-wise floating-point subtract. -/
  | vfsub (d : BitVec 5) (a : BitVec 5) (b : BitVec 5) (m : BitVec 3) (t : BitVec 4)
  /-- VFMUL (R357): Lane-wise floating-point multiply. -/
  | vfmul (d : BitVec 5) (a : BitVec 5) (b : BitVec 5) (m : BitVec 3) (t : BitVec 4)
  /-- VFMA (R357): Lane-wise fused multiply-add into v[D]. -/
  | vfma (d : BitVec 5) (a : BitVec 5) (b : BitVec 5) (m : BitVec 3) (t : BitVec 4)
  /-- VFMIN (R357): Lane-wise floating-point minimum. -/
  | vfmin (d : BitVec 5) (a : BitVec 5) (b : BitVec 5) (m : BitVec 3) (t : BitVec 4)
  /-- VFMAX (R357): Lane-wise floating-point maximum. -/
  | vfmax (d : BitVec 5) (a : BitVec 5) (b : BitVec 5) (m : BitVec 3) (t : BitVec 4)
  /-- VCMP (R358): Lane-wise compare into a mask, relation in OP. -/
  | vcmp (d : BitVec 3) (a : BitVec 5) (b : BitVec 5) (m : BitVec 3) (t : BitVec 4) (o : BitVec 2)
  /-- VSEL (R358): Select lanes by a mask. -/
  | vsel (d : BitVec 5) (a : BitVec 5) (b : BitVec 5) (m : BitVec 3) (t : BitVec 4)
  /-- VCVT (R359): Lane-wise type conversion, including coded and MX types. -/
  | vcvt (d : BitVec 5) (a : BitVec 5) (s : BitVec 4) (m : BitVec 3) (t : BitVec 4)
  /-- VPERM (R363): Permute lanes by index. -/
  | vperm (d : BitVec 5) (a : BitVec 5) (b : BitVec 5) (m : BitVec 3) (t : BitVec 4)
  /-- VBCAST (R363): Broadcast a g register into lanes. -/
  | vbcast (d : BitVec 5) (a : BitVec 5) (m : BitVec 3) (t : BitVec 4)
  /-- VINS (R363): Insert a g register into one lane. -/
  | vins (d : BitVec 5) (a : BitVec 5) (b : BitVec 5) (t : BitVec 4)
  /-- VEXT (R363): Extract one lane into a g register. -/
  | vext (d : BitVec 5) (a : BitVec 5) (b : BitVec 5) (t : BitVec 4)
  /-- VMOV (R363): Copy active lanes. -/
  | vmov (d : BitVec 5) (a : BitVec 5) (m : BitVec 3) (t : BitVec 4)
  /-- VMOV_G_TO_M (R363): Copy a g register into a mask. -/
  | vmovGToM (d : BitVec 3) (a : BitVec 5)
  /-- VMOV_M_TO_G (R363): Copy a mask into a g register. -/
  | vmovMToG (d : BitVec 5) (a : BitVec 3)
  /-- VRED_ADD (R364): Integer sum of the active lanes. -/
  | vredAdd (d : BitVec 5) (a : BitVec 5) (m : BitVec 3) (t : BitVec 4)
  /-- VRED_MIN (R364): Minimum of the active lanes. -/
  | vredMin (d : BitVec 5) (a : BitVec 5) (m : BitVec 3) (t : BitVec 4)
  /-- VRED_MAX (R364): Maximum of the active lanes. -/
  | vredMax (d : BitVec 5) (a : BitVec 5) (m : BitVec 3) (t : BitVec 4)
  /-- VRED_FADD (R364): Floating-point sum of the lanes in the fixed tree. -/
  | vredFadd (d : BitVec 5) (a : BitVec 5) (m : BitVec 3) (t : BitVec 4)
  /-- MAND (R365): AND of two masks. -/
  | mand (d : BitVec 3) (a : BitVec 3) (b : BitVec 3)
  /-- MOR (R365): OR of two masks. -/
  | mor (d : BitVec 3) (a : BitVec 3) (b : BitVec 3)
  /-- MNOT (R365): Complement of a mask. -/
  | mnot (d : BitVec 3) (a : BitVec 3)
  /-- MCNT (R365): Count the set mask bits below L. -/
  | mcnt (d : BitVec 5) (a : BitVec 3) (t : BitVec 4)
  /-- MMA (R377): Claim, fetch and accumulate a dense tile product. -/
  | mma (c : BitVec 2) (a : BitVec 3) (b : BitVec 3) (z : BitVec 1) (k : BitVec 3)
  /-- MMA_SP (R377): Structured-sparse tile product with a mask ring. -/
  | mmaSp (c : BitVec 2) (a : BitVec 3) (b : BitVec 3) (n : BitVec 1) (r : BitVec 3) (z : BitVec 1) (k : BitVec 3)
  /-- MMA_MX (R377): Block-scaled MX tile product. -/
  | mmaMx (c : BitVec 2) (a : BitVec 3) (b : BitVec 3) (z : BitVec 1) (k : BitVec 3)
  /-- MACC_ZERO (R380): Set an accumulator to +0. -/
  | maccZero (c : BitVec 2)
  /-- MACC_MV (R380): Copy one accumulator to another. -/
  | maccMv (c : BitVec 2) (e : BitVec 2)
  /-- START_UP (R470): The module starts with no stored firmware, and the link die 0 boot ROM waits for an image on the Lantern management channel. -/
  | startUp
  /-- FIRMWARE_IMAGE (R470): An image arriving in link die 0 staging is checked for magic, IMPL, key digest and ML-DSA-65 signature; it then runs or is refused, and BOOTST reports the outcome. -/
  | firmwareImage
  /-- FIRMWARE_BRINGUP (R471): Verified firmware loads the timestamp, writes MODULE, trains links, writes region tables, TURNMASK and the Trellis map, and then negotiates features. -/
  | firmwareBringup
  /-- FEATACC_WRITE (R472): The one accepted write of the accepted feature subset on channel 2, copied into the feature register; a later write is ignored and reported. -/
  | feataccWrite
  /-- ATTESTATION_REQUEST (R473): For a nonce, link die 0 returns a 160-byte report signed with the module identity key. -/
  | attestationRequest
  /-- STREAM_FAULT_ARM (R456): The management channel arms a one-shot fault that XORs a mask into the next read of one word by one engine. -/
  | streamFaultArm
  /-- LAUNCH_SUBMISSION (R466): A gang record submitted on channel 1 is answered QUEUED, INVALID, FULL or RESETTING, and is queued only when QUEUED. -/
  | launchSubmission
  /-- EVRB_WRITE (R467): A store to the event ring base register; it is ignored whole for LOG outside 6-20, and ignored while EN is 1 unless it writes EN 0. -/
  | evrbWrite
  /-- EVENT_DELIVERY (R468): Link die 0 writes the next queued event record into the host ring, advances PROD and writes the producer word. -/
  | eventDelivery
  /-- EVENT_DRAIN (R263): A staging buffer passes its oldest event record to the link die 0 queue when that queue has room. -/
  | eventDrain
  /-- HP_WRITE (R465): A control-node write on channel 0 is performed on path HP in order, placed through the region cache, or refused with RANGE. -/
  | hpWrite
  /-- HP_READ (R465): A control-node read on channel 0 is served, resent after REHOME, or refused with RANGE. -/
  | hpRead
  /-- HOST_ACCESS_TIMEOUT (R464): A host-window load or atomic not answered within 1 ms is answered with a LINKDOWN NACK. -/
  | hostAccessTimeout
  /-- BED_RESET_REQUEST (R476): A control- or management-plane reset request starts DRAIN of a bed, or is merged into a reset already running. -/
  | bedResetRequest
  /-- RESET_CLEAR (R476): After DRAIN, CLEAR zeroes the bed's state, reloads TURNMASK, brings the links up and sets STATE READY. -/
  | resetClear
  /-- CHECKPOINT_RESTORE (R478): Firmware copies the qualifying checkpoint with the greatest STAMP into the reset bed and reports that STAMP on channel 1. -/
  | checkpointRestore
  /-- CLOCK_REDUCTION (R479): The management controller lowers a whole bed's clock one step to hold the power or temperature limit, outside timed blocks. -/
  | clockReduction
  /-- OVERTEMPERATURE_RESET (R479): Above 105 °C every bed is reset by the management plane and held until the temperature falls below 85 °C. -/
  | overtemperatureReset
  /-- REGISTER_WRITE (R10): A write to a register that has no row of its own, obeying its access code. -/
  | registerWrite
  /-- CTLOAD_REFILL (R54): Writing GO with KIND 0 or 1 starts a refill of the 8-bit code table from a default table and sets BUSY. -/
  | ctloadRefill
  /-- CTLOAD_REFILL_COMPLETE (R54): After 64 cycles the refill has written entries 0 to 255 and BUSY clears. -/
  | ctloadRefillComplete
  /-- SCRUB_READ (R64): The scrubber reads a word of local, rim-core, vault or HBM memory, corrects single-bit errors and reports uncorrectable ones. -/
  | scrubRead
  /-- ICACHE_REFILL (R58): An instruction-cache miss is refilled, locally or by a remote read; fetch traps and parity errors are taken here. -/
  | icacheRefill
  /-- STORE_BUFFER_DRAIN (R192): The oldest store leaves the core's store buffer and is performed or injected, waiting for acknowledgements on a route change. -/
  | storeBufferDrain
  /-- REGION_TABLE_WRITE (R179): A store to region table word 1 commits the held word 0, or takes the protection trap for a bad mode, frame or footprint. -/
  | regionTableWrite
  /-- REGION_MOVE (R183): Firmware freezes region A, copies it to spare X, and exchanges their placements in all six table copies. -/
  | regionMove
  /-- ROUTER_STEP (R75): A request head at a panel router consumes its leading item to move, change lane, leave or deliver, or is NACKed. -/
  | routerStep
  /-- GATEWAY_STEP (R76): A request at a gateway is delivered, changes lane, leaves on a Spire link or enters the panel, or is NACKed. -/
  | gatewayStep
  /-- RESPONSE_STEP (R80): A response consumes a reversed item at a router or gateway, is delivered, or is discarded at a down link. -/
  | responseStep
  /-- LINK_FLIT_ERROR (R70): A flit double-bit error makes the sender resend once, and a second failure marks the link down. -/
  | linkFlitError
  /-- SPIRE_FRAME_RECEIVE (R72): A Spire frame is accepted in SLOT order or discarded on a CRC failure; its ACK and credits are taken. -/
  | spireFrameReceive
  /-- SPIRE_REPLAY_TIMEOUT (R72): After 512 ns without an acknowledgement the sender replays from its oldest unacknowledged frame, and marks the link down at the 8th resend. -/
  | spireReplayTimeout
  /-- SPIRE_SIGNAL_LOSS (R72): A Spire link that loses signal is marked down, and an event is raised. -/
  | spireSignalLoss
  /-- SPIRE_TRAIN (R101): Writing 1 to SPST.STATE while it is 0 starts training. -/
  | spireTrain
  /-- SPIRE_DISABLE (R101): Writing 3 to SPST.STATE disables the link. -/
  | spireDisable
  /-- SPIRE_MARK_DOWN (R101): Writing 0 to SPST.STATE marks the link down. -/
  | spireMarkDown
  /-- SPIRE_TRAINING_COMPLETE (R101): Training completes; STATE becomes up, and FARMOD, FARDIE, FARLINK and LAT are written. -/
  | spireTrainingComplete
  /-- SPIRE_TRAINING_TIMEOUT (R101): Training not complete after 10 ms returns STATE to down. -/
  | spireTrainingTimeout
  /-- TURNMASK_WRITE (R86): Firmware's one accepted TURNMASK write after start-up; a write with an unsafe lane is refused and reported. -/
  | turnmaskWrite
  /-- LOAD_REQUEST (R79): A load, fetch or remote-read request at its home is checked, for the HBM stamp among others, and answered with data or a NACK. -/
  | loadRequest
  /-- STORE_REQUEST (R79): A store request at its home is performed and acknowledged, or NACKed, or REHOMEd. -/
  | storeRequest
  /-- ATOMIC_REQUEST (R323): An atomic or future request is performed at the home atomic unit and answered. -/
  | atomicRequest
  /-- REDUCTION_UPDATE (R330): A reduction update is applied by the home atomic unit, including a group contribution, and acknowledged. -/
  | reductionUpdate
  /-- MIGRATION_ARRIVAL (R173): A migration image at its landing point is placed in a slot or queue and acknowledged, or answered BUSY, REHOME or REJECT. -/
  | migrationArrival
  /-- SAVE_IMAGE_ARRIVAL (R176): A SAVE migration packet writes a pre-empted light thread into its home save area, or is rejected. -/
  | saveImageArrival
  /-- LANDING_QUEUE_PLACE (R173): When a slot frees, the oldest queued migration image is placed in it. -/
  | landingQueuePlace
  /-- MIGRATION_ANSWER (R171): The source receives ACK, BUSY or REHOME for a migration; after ACK it frees its slot or marks it AWAY. -/
  | migrationAnswer
  /-- MIGRATION_BACKOFF (R171): The wait after a BUSY migration answer expires, and the migration is sent again. -/
  | migrationBackoff
  /-- ENGINE_COMMAND (R103): A command packet arrives at a copy engine and is queued, refused BUSY, or refused REJECT under a quench. -/
  | engineCommand
  /-- ENGINE_COMMAND_EXECUTE (R108): An engine takes its next queued command and moves its elements over its legs, folding the checksum. -/
  | engineCommandExecute
  /-- ENGINE_DATA_WRITE (R123): An engine data write is performed at its bank with its byte and nibble masks, and acknowledged. -/
  | engineDataWrite
  /-- ENGINE_READ (R123): An engine read request is answered with up to 64 bytes of data. -/
  | engineRead
  /-- ENGINE_TLB_MISS (R121): An engine TLB miss goes to the issuing core, which sends a miss message with ENG set. -/
  | engineTlbMiss
  /-- ENGINE_RESPONSE_TIMEOUT (R122): A response not received within 1 ms ends the engine's command with status ROUTE. -/
  | engineResponseTimeout
  /-- COMMAND_SEND (R106): The command at the head of a channel is sent once two mailbox entries are reserved; a zero-extent command completes instead. -/
  | commandSend
  /-- BUSY_RETRY_TIMER (R106): A request refused BUSY is sent again after 256 cycles. -/
  | busyRetryTimer
  /-- PROGRESS_RESPONSE (R112): A progress response raises the channel watermark, releasing stalled loads and advancing fed rings. -/
  | progressResponse
  /-- COMMAND_COMPLETION (R114): A completion posts any mailbox entry, sets STATUS and CHCK, arrives on BAR, and on error cancels the channel's queue. -/
  | commandCompletion
  /-- FIFOCTL_WRITE (R120): A FIFOCTL store is ignored while a producer or consumer is active; otherwise a change of EN empties the FIFO. -/
  | fifoctlWrite
  /-- QUENCH_ARRIVAL (R124): A quench reaches an engine, encoder, graft unit, channel or gateway, which refuses, drops and waits as set, and then acknowledges. -/
  | quenchArrival
  /-- QUENCH_MESSAGE (R124): A quench message on a named route reaches another module and is applied there, and is acknowledged on the reversed route. -/
  | quenchMessage
  /-- QUENCH_ACK (R125): A local or peer acknowledgement reduces the outstanding counts of QST, and DONE is set when none remain. -/
  | quenchAck
  /-- STASH_COMMAND (R134): An encoder checks the region header and runs stash.open, stash or restore, encoding or decoding blocks. -/
  | stashCommand
  /-- PROBE (R135): An encoder answers a probe ahead of its queue with header words 0-2, and word 5 for stash.stat. -/
  | probe
  /-- PROBE_ANSWER (R135): The probe answer reaches the issuing thread, which takes the stash-bound trap or queues its restore. -/
  | probeAnswer
  /-- RANKER_SLOT_WRITE (R399): The ranker writes a population slot from a graft.cfg image and completes the instruction. -/
  | rankerSlotWrite
  /-- GO_START (R142): The ranker starts its next queued go, sets T and sends snapshot requests. -/
  | goStart
  /-- SNAPSHOT_REQUEST (R142): A snapshot request reaches a member core; if it arrives after T it is served at once and counted in LATE. -/
  | snapshotRequest
  /-- SNAPSHOT_CAPTURE (R142): In the first cycle with timestamp at least T, a member captures SCORE, TAG and RDY. -/
  | snapshotCapture
  /-- RANKING (R144): With every snapshot in, the ranker orders members, forms pairs, skips unready losers, clears RDY and gives lineage slots. -/
  | ranking
  /-- GRAFT_PAIR (R148): The loser bed's graft unit reads the winner's weights, writes the perturbed loser weights, reports and arrives on BAR. -/
  | graftPair
  /-- PAIR_REPORT (R149): A pair report reaches the ranker, which writes the lineage record. -/
  | pairReport
  /-- PAIR_TIMEOUT (R150): A pair with no report within 1 ms is given status ROUTE. -/
  | pairTimeout
  /-- GO_END (R149): With every record performed, the ranker updates POPST and makes the IBAR arrival. -/
  | goEnd
  /-- MISS_MESSAGE (R158): A miss message at MISSIN is appended to the service core's miss queue, or answered BUSY. -/
  | missMessage
  /-- TLB_FILL (R161): A commit store to TLBFILL invalidates overlapping entries, writes entry INDEX and releases the waiting slot. -/
  | tlbFill
  /-- TLB_FILL_NP (R166): A commit with NP releases the slot into a page-not-present trap, or ships a light thread to the pager. -/
  | tlbFillNp
  /-- TLB_FILL_ENGINE (R162): A commit with ENG forwards the fill to the named engine, which ends its command with PAGE for NP or bad alignment. -/
  | tlbFillEngine
  /-- TLBINV_PAGE (R163): A TLBINV commit with SCOPE 0 invalidates the entries of CTX that hold IVA. -/
  | tlbinvPage
  /-- TLBINV_CONTEXT (R163): A TLBINV commit with SCOPE 1 invalidates every entry of CTX. -/
  | tlbinvContext
  /-- TLBINV_ALL (R163): A TLBINV commit with SCOPE 2 invalidates every entry. -/
  | tlbinvAll
  /-- WFZ_RETRY_TIMER (R182): A write to a frozen region is resent after each 1 µs wait. -/
  | wfzRetryTimer
  /-- NACK_RECEIVED (R92): A NACK reaches its issuer; the request is reinjected, refreshed on REHOME, parked with VALID cleared, or posted to the mailbox. -/
  | nackReceived
  /-- ACKNOWLEDGEMENT (R80): An acknowledgement or data response reaches its issuer and completes the waiting access, packet or update. -/
  | acknowledgement
  /-- PACKET_OPEN_TIMEOUT (R95): A packet open for 4,096 cycles is discarded, and the thread takes the route-fault trap. -/
  | packetOpenTimeout
  /-- EXCHANGE_STORE_ARRIVAL (R204): An exchange store is written at its bank in its fixed cycle; conflicts take the bank-conflict trap. -/
  | exchangeStoreArrival
  /-- EXCHANGE_ABORT_REPORT (R260): A fault in a timed block reaches the barrier fabric 8 cycles after it is detected. -/
  | exchangeAbortReport
  /-- EXCHANGE_ABORT_APPLY (R260): The abort is applied in one cycle on every member core, whose slots take exchange-abort. -/
  | exchangeAbortApply
  /-- EXPLICIT_MESSAGE (R403): A KIND 0x10 packet writes a type-1 mailbox entry, or is answered BUSY. -/
  | explicitMessage
  /-- EXPLICIT_STORE (R403): A KIND 0x11 packet writes its payload at DEST and is acknowledged. -/
  | explicitStore
  /-- SPAWN_ARRIVAL (R247): A spawn packet claims a free slot, writes its save area and answers ACK, or answers BUSY. -/
  | spawnArrival
  /-- SPAWN_ANSWER (R247): The spawn answer reaches the issuer, which completes, turns the spawn into a call, or schedules a resend. -/
  | spawnAnswer
  /-- REMOTE_MATRIX_COMMAND (R385): A remote matrix command is checked on arrival and queued, or answered REJECT or BUSY. -/
  | remoteMatrixCommand
  /-- REMOTE_COMMAND_START (R385): At the head of the remote queue a command is rechecked, rejected or left to wait for its claims. -/
  | remoteCommandStart
  /-- MMA_FETCH_END (R377): A product's operand fetch ends, and the operation is accepted into the unit's order. -/
  | mmaFetchEnd
  /-- MATRIX_OP_START (R379): An accepted matrix operation starts after its fetch and the previous operation's last chunk have ended. -/
  | matrixOpStart
  /-- MATRIX_OP_RETIRE (R379): An operation retires 12 cycles after its last chunk, and the ring HEADs advance. -/
  | matrixOpRetire
  /-- SLOT_START (R216): A system store of READY to a FREE slot's SLST starts the slot from its save area. -/
  | slotStart
  /-- SLOT_RESUME (R216): A store of READY to a PARK slot resumes it, and a route park retries its access. -/
  | slotResume
  /-- SLOT_HOLD (R216): A store of PARK to a READY slot holds it with PARKWHY 0. -/
  | slotHold
  /-- SLOT_DISCARD (R216): A store of FREE to a READY or PARK slot discards its thread, which ends for its gang. -/
  | slotDiscard
  /-- SLOT_RELEASE_LOST (R216): A store of FREE to a LOST slot releases the home slot. -/
  | slotReleaseLost
  /-- SLOT_RESUME_HELD (R216): A store of READY to a READY slot with HELD 1 resumes it and clears HELD. -/
  | slotResumeHeld
  /-- PREEMPT_REQUEST (R255): Writing 1 to SLST.PREQ requests pre-emption of the slot, or of its away light thread. -/
  | preemptRequest
  /-- PREEMPTION (R255): A pending pre-emption is honoured at its boundary; the slot is saved and becomes READY with HELD 1. -/
  | preemption
  /-- FREEZE_IMAGE_WRITTEN (R257): The freeze image is written, or not written, and the pre-empted slot reaches READY or PARK. -/
  | freezeImageWritten
  /-- DOM_WRITE (R217): A store to DOMn takes the protection trap while a domain barrier of that level is configured. -/
  | domWrite
  /-- DTAB_WRITE (R220): A store to a barrier fabric DTAB entry, ignored when it would break the entry's rules. -/
  | dtabWrite
  /-- BARRIER_REPORT (R220): A core's share report reaches the bed's barrier fabric, which counts it, holds it, or reports onward when complete. -/
  | barrierReport
  /-- LINK_DIE_BARRIER_REPORT (R220): A SPAN 1 bed report reaches link die 0, which sends the release when every bed of the mask has reported. -/
  | linkDieBarrierReport
  /-- DOMAIN_RELEASE (R219): A domain phase release is applied on every member core of a bed, setting DONETS and releasing waiters. -/
  | domainRelease
  /-- FOLLOW_JOIN_TIMEOUT (R225): A join that sees no matching leader pair within 65,536 cycles ends with REASON 6. -/
  | followJoinTimeout
  /-- YIELD_EXPIRY (R411): The n cycles of a yield have passed, and the slot becomes eligible for issue again. -/
  | yieldExpiry
  /-- WAITER_POLL_TIMER (R207): A tester that found the waiter table full re-executes after its back-off of 16 to 4,096 cycles. -/
  | waiterPollTimer
  /-- RESERVATION_PROTECT_EXPIRY (R328): The 64-cycle protection of a reservation entry ends, and waiting ld.res requests proceed. -/
  | reservationProtectExpiry
  /-- CONTEXT_TABLE_WRITE (R236): A store to a context table entry takes the protection trap with SUB 7 if a valid entry would not name a record in a vault of the bed. -/
  | contextTableWrite
  /-- CTX_KILL (R238): A CTXCTL KILL carries the kill to every unit, which ends the context's threads, records and state. -/
  | ctxKill
  /-- CTX_CREATE (R237): A CTXCTL CREATE ends quench refusals of the context and unfreezes its images, or is ignored while threads remain. -/
  | ctxCreate
  /-- CTX_OP_COMPLETE (R238): Every unit has reported a KILL or CREATE, and DONE is set. -/
  | ctxOpComplete
  /-- LQCTL_WRITE (R240): A store to LQCTL sets the ageing interval and HOLD, and clearing HOLD starts a placement step. -/
  | lqctlWrite
  /-- PLACEMENT_STEP (R241): The placer tries queue heads by effective priority and starts the first gang that fits, or displaces for a PRE head. -/
  | placementStep
  /-- STEAL_REQUEST (R246): A victim answers a steal request with its top record or with empty. -/
  | stealRequest
  /-- STEAL_ANSWER (R246): A steal answer reaches the thief, which pops the stolen record or tries its next victim. -/
  | stealAnswer
  /-- GLOBAL_TIMESTAMP_ADVANCE (R219): The global timestamp advances past a value being waited for, letting a deferred phase completion, a plot.alloc or an mcap with V 1 proceed. -/
  | globalTimestampAdvance
  /-- PERFORMED_FOR_PATH (R200): A write performed on one path becomes performed for another path. -/
  | performedForPath
  /-- SOFT_ERROR (R61): A soft error flips bits of a stored word in local, rim-core, vault or HBM memory, or in an instruction cache. -/
  | softError
  /-- OVERTEMPERATURE_RELEASE (R479): The die temperature falls below 85 °C, and the beds held after an over-temperature reset are released. -/
  | overtemperatureRelease
  /-- GRAFT_STAT_ANSWER (R400): The POPST read of a graft.stat returns over the control plane, writes g[D] and ends the slot's wait. -/
  | graftStatAnswer
  /-- LAUNCH_RECORD_ARRIVAL (R406): A gang record sent by launch on route 0x6C0 + b reaches the bed, is stamped with ARRTS and queued, or waits while the queue is full. -/
  | launchRecordArrival
  /-- MACC_LD_READ_END (R381): The row read of a macc.ld ends, and the operation is accepted into the matrix unit's order. -/
  | maccLdReadEnd
deriving DecidableEq, Repr, Inhabited

/-- One turn of the machine: a slot issues, or an event of the part happens. -/
inductive Turn where
  /-- The slot at the place issues its next bundle; `part` names the pieces of a long access that this turn makes, 0 for all (R190). -/
  | issue (p : Place) (part : Nat := 0)
  /-- The slot at the place issues its next bundle, and goes on past it if that is a load under release order whose value has still to come (R195). -/
  | ahead (p : Place)
  /-- The event happens, with what it acts on. -/
  | event (i : Instr) (a : EvArgs)
deriving DecidableEq, Repr, Inhabited

end Sys2Proof
end

