-- ==== Sys2Proof/WellFormed.lean ====
section
/-! DEFINITION. Which instruction words are well formed: the field values that the instructions' own descriptions
reserve beyond the fixed bits of their rows (R290, R295).  A word with one of them takes the illegal-instruction trap with
SUB 1.  The events have no word, so nothing is reserved in them. -/

namespace Sys2Proof

/-- The assigned special register numbers (R415); every other number is reserved (R414). -/
def srAssigned (n : BitVec 8) : Bool :=
  let k := n.toNat
  k ≤ 3 || (8 ≤ k && k ≤ 11) || k = 0x10 || k = 0x11 || (0x18 ≤ k && k ≤ 0x1A) || (0x20 ≤ k && k ≤ 0x30)

/-- TYPE codes 0 to 7, the integer lane types (R291). -/
def tyInt (t : BitVec 4) : Bool := t.toNat < 8

/-- TYPE codes 8 to 11, the floating-point lane types (R291). -/
def tyFloat (t : BitVec 4) : Bool := 8 ≤ t.toNat && t.toNat < 12

/-- TYPE codes 0 to 11 (R355). -/
def tyLane (t : BitVec 4) : Bool := t.toNat < 12

/-- The `vcvt` pairs of R360, an MX form with M other than 0 being reserved (R361). -/
def vcvtPair (dst src : BitVec 4) (m : BitVec 3) : Bool :=
  if tyInt dst then tyLane src || src = 13
  else if tyFloat dst then src.toNat < 14 || ((dst = 8 || dst = 9) && m = 0)
  else if dst = 12 then tyFloat src
  else if dst = 13 then tyLane src
  else (src = 8 || src = 9) && m = 0

/-- No field of the instruction holds a value its description reserves (R290, R295). -/
def Instr.wf : Instr → Bool
  | .xfence x y _ => x != 7 && y != 7
  | .bbPeekImm _ n => n.toNat ≤ 32
  | .bbTakeImm _ n => n.toNat ≤ 32
  | .bbPeekReg _ a => a != 0
  | .bbTakeReg _ a => a != 0
  | .bbDec _ _ l => l != 0
  | .bbLit _ n => n != 0 && n.toNat ≤ 8
  | .stashStat _ _ s => s != 3
  | .dqPop d => !(4 ≤ d.toNat && d.toNat ≤ 7)
  | .mfsr _ s => srAssigned s
  | .mtsr _ s => srAssigned s
  | .vadd _ _ _ _ t => tyInt t
  | .vsub _ _ _ _ t => tyInt t
  | .vmul _ _ _ _ t => tyInt t
  | .vmla _ _ _ _ t => tyInt t
  | .vand _ _ _ _ t => tyInt t
  | .vor _ _ _ _ t => tyInt t
  | .vxor _ _ _ _ t => tyInt t
  | .vshl _ _ _ _ t => tyInt t
  | .vshr _ _ _ _ t => tyInt t
  | .vsha _ _ _ _ t => tyInt t
  | .vmin _ _ _ _ t => tyInt t
  | .vmax _ _ _ _ t => tyInt t
  | .vfadd _ _ _ _ t => tyFloat t
  | .vfsub _ _ _ _ t => tyFloat t
  | .vfmul _ _ _ _ t => tyFloat t
  | .vfma _ _ _ _ t => tyFloat t
  | .vfmin _ _ _ _ t => tyFloat t
  | .vfmax _ _ _ _ t => tyFloat t
  | .vcmp d _ _ _ t _ => d != 0 && tyLane t
  | .vsel _ _ _ _ t => tyLane t
  | .vcvt _ _ s m t => vcvtPair t s m
  | .vperm _ _ _ _ t => tyLane t
  | .vbcast _ _ _ t => tyLane t
  | .vins _ _ _ t => tyLane t
  | .vext _ _ _ t => tyLane t
  | .vmov _ _ _ t => tyLane t
  | .vmovGToM d _ => d != 0
  | .vredAdd _ _ _ t => tyInt t
  | .vredMin _ _ _ t => tyLane t
  | .vredMax _ _ _ t => tyLane t
  | .vredFadd _ _ _ t => tyFloat t
  | .mand d _ _ => d != 0
  | .mor d _ _ => d != 0
  | .mnot d _ => d != 0
  | .mcnt _ _ t => tyLane t
  | _ => true

end Sys2Proof
end

