-- ==== Sys2Proof/Decode.lean ====
section
/-! DEFINITION. From bits to instructions: one word, the framing of a bundle, and after it the encoder. -/

namespace Sys2Proof

/-- What a word is, before any check of the slot that would issue it (R295). -/
inductive Decoded where
  /-- A legal instruction word. -/
  | instr (i : Instr)
  /-- An unassigned major: illegal-instruction, SUB 0. -/
  | unassigned
  /-- A reserved major, value or bit: illegal-instruction, SUB 1. -/
  | reserved
deriving DecidableEq, Repr

/-- The `w` bits of a word from bit `lo` on. -/
def fld (w lo n : Nat) : BitVec w := BitVec.ofNat w (n / 2 ^ lo)

/-- Majors 0x38 to 0x3F of either class are reserved; any other that no row assigns is unassigned (R292, R293). -/
def majorReserved (m : Nat) : Bool := m % 64 ≥ 0x38

/-- The fields of a word by its class and major opcode (R289, R290, R292, R293), each field with the bits of the row; a value of
MINOR, SUB, OP or an unused field that no row lists is reserved.  The word is taken as a number; bit 31, P, is not read here. -/
def decodeRaw (n : Nat) : Decoded :=
  match n / 16777216 % 128 with
  | 0x01 =>
    .instr (.b (fld 24 0 n))
  | 0x02 =>
    .instr (.bl (fld 24 0 n))
  | 0x03 =>
    if n / 524288 % 32 = 0 then .instr (.br (fld 5 14 n) (fld 14 0 n))
    else .reserved
  | 0x04 =>
    .instr (.brl (fld 5 19 n) (fld 5 14 n) (fld 14 0 n))
  | 0x08 =>
    .instr (.beq (fld 5 19 n) (fld 5 14 n) (fld 14 0 n))
  | 0x09 =>
    .instr (.bne (fld 5 19 n) (fld 5 14 n) (fld 14 0 n))
  | 0x0a =>
    .instr (.blt (fld 5 19 n) (fld 5 14 n) (fld 14 0 n))
  | 0x0b =>
    .instr (.bge (fld 5 19 n) (fld 5 14 n) (fld 14 0 n))
  | 0x0c =>
    .instr (.bltn (fld 5 19 n) (fld 5 14 n) (fld 14 0 n))
  | 0x0d =>
    .instr (.bgen (fld 5 19 n) (fld 5 14 n) (fld 14 0 n))
  | 0x0e =>
    if n / 16384 % 32 = 0 then .instr (.bz (fld 5 19 n) (fld 14 0 n))
    else .reserved
  | 0x0f =>
    if n / 16384 % 32 = 0 then .instr (.bnz (fld 5 19 n) (fld 14 0 n))
    else .reserved
  | 0x10 =>
    if n / 2048 % 8 = 0 then .instr (.ldB (fld 5 19 n) (fld 5 14 n) (fld 11 0 n))
    else if n / 2048 % 8 = 1 then .instr (.ldH (fld 5 19 n) (fld 5 14 n) (fld 11 0 n))
    else if n / 2048 % 8 = 2 then .instr (.ldW (fld 5 19 n) (fld 5 14 n) (fld 11 0 n))
    else if n / 2048 % 8 = 3 then .instr (.ldD (fld 5 19 n) (fld 5 14 n) (fld 11 0 n))
    else if n / 2048 % 8 = 4 then .instr (.ldBx (fld 5 19 n) (fld 5 14 n) (fld 11 0 n))
    else if n / 2048 % 8 = 5 then .instr (.ldHx (fld 5 19 n) (fld 5 14 n) (fld 11 0 n))
    else if n / 2048 % 8 = 6 then .instr (.ldWx (fld 5 19 n) (fld 5 14 n) (fld 11 0 n))
    else .reserved
  | 0x11 =>
    if n / 2048 % 8 = 0 then .instr (.stB (fld 5 19 n) (fld 5 14 n) (fld 11 0 n))
    else if n / 2048 % 8 = 1 then .instr (.stH (fld 5 19 n) (fld 5 14 n) (fld 11 0 n))
    else if n / 2048 % 8 = 2 then .instr (.stW (fld 5 19 n) (fld 5 14 n) (fld 11 0 n))
    else if n / 2048 % 8 = 3 then .instr (.stD (fld 5 19 n) (fld 5 14 n) (fld 11 0 n))
    else .reserved
  | 0x12 =>
    if n / 8192 % 2 = 0 then .instr (.ldAcq (fld 5 19 n) (fld 5 14 n) (fld 2 11 n) (fld 11 0 n))
    else .reserved
  | 0x13 =>
    if n / 8192 % 2 = 0 then .instr (.stRel (fld 5 19 n) (fld 5 14 n) (fld 2 11 n) (fld 11 0 n))
    else .reserved
  | 0x14 =>
    if n / 8192 % 2 = 0 then .instr (.stNt (fld 5 19 n) (fld 5 14 n) (fld 2 11 n) (fld 11 0 n))
    else .reserved
  | 0x15 =>
    if n / 1 % 16 = 0 ∧ n / 32 % 16 = 0 then .instr (.amoAdd (fld 5 19 n) (fld 5 14 n) (fld 5 9 n) (fld 1 4 n))
    else if n / 1 % 16 = 0 ∧ n / 32 % 16 = 1 then .instr (.amoAnd (fld 5 19 n) (fld 5 14 n) (fld 5 9 n) (fld 1 4 n))
    else if n / 1 % 16 = 0 ∧ n / 32 % 16 = 2 then .instr (.amoOr (fld 5 19 n) (fld 5 14 n) (fld 5 9 n) (fld 1 4 n))
    else if n / 1 % 16 = 0 ∧ n / 32 % 16 = 3 then .instr (.amoXor (fld 5 19 n) (fld 5 14 n) (fld 5 9 n) (fld 1 4 n))
    else if n / 1 % 16 = 0 ∧ n / 32 % 16 = 4 then .instr (.amoMin (fld 5 19 n) (fld 5 14 n) (fld 5 9 n) (fld 1 4 n))
    else if n / 1 % 16 = 0 ∧ n / 32 % 16 = 5 then .instr (.amoMax (fld 5 19 n) (fld 5 14 n) (fld 5 9 n) (fld 1 4 n))
    else if n / 1 % 16 = 0 ∧ n / 32 % 16 = 6 then .instr (.amoMinn (fld 5 19 n) (fld 5 14 n) (fld 5 9 n) (fld 1 4 n))
    else if n / 1 % 16 = 0 ∧ n / 32 % 16 = 7 then .instr (.amoMaxn (fld 5 19 n) (fld 5 14 n) (fld 5 9 n) (fld 1 4 n))
    else if n / 1 % 16 = 0 ∧ n / 32 % 16 = 8 then .instr (.amoSwap (fld 5 19 n) (fld 5 14 n) (fld 5 9 n) (fld 1 4 n))
    else if n / 1 % 16 = 0 ∧ n / 32 % 16 = 9 then .instr (.amoCas (fld 5 19 n) (fld 5 14 n) (fld 5 9 n) (fld 1 4 n))
    else .reserved
  | 0x16 =>
    if n / 1 % 16384 = 0 then .instr (.ldRes (fld 5 19 n) (fld 5 14 n))
    else if n / 1 % 512 = 1 then .instr (.stCond (fld 5 19 n) (fld 5 14 n) (fld 5 9 n))
    else if n / 1 % 524288 = 2 then .instr (.wres (fld 5 19 n))
    else .reserved
  | 0x17 =>
    if n / 1 % 16384 = 0 then .instr (.fget (fld 5 19 n) (fld 5 14 n))
    else if n / 1 % 512 = 1 then .instr (.fput (fld 5 19 n) (fld 5 14 n) (fld 5 9 n))
    else if n / 1 % 16384 = 2 then .instr (.ftake (fld 5 19 n) (fld 5 14 n))
    else .reserved
  | 0x18 =>
    if n / 1 % 16 = 0 ∧ n / 32 % 16 = 0 ∧ n / 524288 % 32 = 0 then .instr (.redAdd (fld 5 14 n) (fld 5 9 n) (fld 1 4 n))
    else if n / 1 % 16 = 0 ∧ n / 32 % 16 = 2 ∧ n / 524288 % 32 = 0 then .instr (.redMin (fld 5 14 n) (fld 5 9 n) (fld 1 4 n))
    else if n / 1 % 16 = 0 ∧ n / 32 % 16 = 4 ∧ n / 524288 % 32 = 0 then .instr (.redMax (fld 5 14 n) (fld 5 9 n) (fld 1 4 n))
    else if n / 1 % 16 = 0 ∧ n / 32 % 16 = 6 ∧ n / 524288 % 32 = 0 then .instr (.redFadd (fld 5 14 n) (fld 5 9 n) (fld 1 4 n))
    else if n / 1 % 512 = 224 then .instr (.redFaddGroup (fld 5 19 n) (fld 5 14 n) (fld 5 9 n))
    else .reserved
  | 0x19 =>
    if n / 1 % 32 = 0 ∧ n / 128 % 131072 = 0 then .instr (.fence (fld 2 5 n))
    else if n / 1 % 32 = 0 ∧ n / 128 % 128 = 1 ∧ n / 131072 % 4 = 0 ∧ n / 4194304 % 4 = 0 then .instr (.xfence (fld 3 19 n) (fld 3 14 n) (fld 2 5 n))
    else if n / 1 % 16777216 = 256 then .instr (.isync)
    else .reserved
  | 0x1a =>
    if n / 2048 % 8 = 0 ∧ n / 524288 % 32 = 0 then .instr (.barInit (fld 5 14 n) (fld 11 0 n))
    else if n / 2048 % 256 = 1 then .instr (.barArrive (fld 5 19 n) (fld 11 0 n))
    else if n / 2048 % 8 = 2 ∧ n / 524288 % 32 = 0 then .instr (.barWait (fld 5 14 n) (fld 11 0 n))
    else if n / 2048 % 8 = 3 then .instr (.barTry (fld 5 19 n) (fld 5 14 n) (fld 11 0 n))
    else .reserved
  | 0x1b =>
    if n / 64 % 256 = 0 then .instr (.slotTake (fld 5 19 n) (fld 5 14 n) (fld 6 0 n))
    else if n / 64 % 256 = 32 ∧ n / 524288 % 32 = 0 then .instr (.slotGive (fld 5 14 n) (fld 6 0 n))
    else if n / 64 % 256 = 64 then .instr (.slotTry (fld 5 19 n) (fld 5 14 n) (fld 6 0 n))
    else .reserved
  | 0x1c =>
    if n / 1 % 16384 = 0 ∧ n / 524288 % 32 = 0 then .instr (.bbInit (fld 5 14 n))
    else if n / 64 % 8192 = 32 then .instr (.bbPeekImm (fld 5 19 n) (fld 6 0 n))
    else if n / 1 % 16384 = 2048 then .instr (.bbPeekReg (fld 5 19 n) (fld 5 14 n))
    else if n / 64 % 8192 = 64 then .instr (.bbTakeImm (fld 5 19 n) (fld 6 0 n))
    else if n / 1 % 16384 = 4096 then .instr (.bbTakeReg (fld 5 19 n) (fld 5 14 n))
    else if n / 16 % 1024 = 384 then .instr (.bbDec (fld 5 19 n) (fld 5 14 n) (fld 4 0 n))
    else if n / 32 % 512 = 256 then .instr (.bbCopy (fld 5 19 n) (fld 5 14 n) (fld 5 0 n))
    else if n / 16 % 32768 = 640 then .instr (.bbLit (fld 5 19 n) (fld 4 0 n))
    else .reserved
  | 0x20 =>
    if n / 1 % 16384 = 0 ∧ n / 524288 % 32 = 0 then .instr (.cpy (fld 5 14 n))
    else if n / 1 % 16384 = 2048 ∧ n / 524288 % 32 = 0 then .instr (.cpyCk (fld 5 14 n))
    else if n / 32 % 16384 = 128 then .instr (.cpyQ (fld 5 19 n) (fld 1 4 n) (fld 4 0 n))
    else if n / 1 % 16384 = 6144 ∧ n / 524288 % 32 = 0 then .instr (.cpyQuench (fld 5 14 n))
    else .reserved
  | 0x21 =>
    if n / 1 % 16384 = 0 ∧ n / 524288 % 32 = 0 then .instr (.stashOpen (fld 5 14 n))
    else if n / 1 % 16384 = 2048 ∧ n / 524288 % 32 = 0 then .instr (.stash (fld 5 14 n))
    else if n / 1 % 16384 = 4096 ∧ n / 524288 % 2 = 0 then .instr (.stashReg (fld 4 20 n) (fld 5 14 n))
    else if n / 1 % 16384 = 6144 ∧ n / 524288 % 32 = 0 then .instr (.restore (fld 5 14 n))
    else if n / 4 % 4096 = 2048 then .instr (.stashStat (fld 5 19 n) (fld 5 14 n) (fld 2 0 n))
    else .reserved
  | 0x22 =>
    if n / 16 % 1024 = 0 ∧ n / 524288 % 32 = 0 then .instr (.graftCfg (fld 5 14 n) (fld 4 0 n))
    else if n / 16 % 1048576 = 128 then .instr (.graftGo (fld 4 0 n))
    else if n / 64 % 8192 = 64 then .instr (.graftStat (fld 5 19 n) (fld 2 4 n) (fld 4 0 n))
    else .reserved
  | 0x23 =>
    if n / 1 % 16384 = 0 ∧ n / 524288 % 32 = 0 then .instr (.psendOpen (fld 5 14 n))
    else if n / 1 % 16384 = 1 ∧ n / 524288 % 32 = 0 then .instr (.psendAppend (fld 5 14 n))
    else if n / 1 % 16384 = 2048 ∧ n / 524288 % 32 = 0 then .instr (.psendEOpen (fld 5 14 n))
    else if n / 1 % 16384 = 2049 ∧ n / 524288 % 32 = 0 then .instr (.psendEAppend (fld 5 14 n))
    else if n / 1 % 16777216 = 2050 then .instr (.psendEClose)
    else .reserved
  | 0x24 =>
    if n / 2 % 8192 = 0 then .instr (.spawn (fld 5 19 n) (fld 5 14 n) (fld 1 0 n))
    else if n / 1 % 16384 = 2048 then .instr (.dqPush (fld 5 19 n) (fld 5 14 n))
    else if n / 1 % 524288 = 4096 then .instr (.dqPop (fld 5 19 n))
    else if n / 16 % 1024 = 384 ∧ n / 524288 % 32 = 0 then .instr (.launch (fld 5 14 n) (fld 4 0 n))
    else .reserved
  | 0x25 =>
    if n / 1 % 16384 = 0 then .instr (.plotAlloc (fld 5 19 n) (fld 5 14 n))
    else if n / 8 % 2048 = 256 ∧ n / 524288 % 32 = 0 then .instr (.plotPass (fld 5 14 n) (fld 3 0 n))
    else if n / 1 % 16384 = 4096 ∧ n / 524288 % 32 = 0 then .instr (.plotFree (fld 5 14 n))
    else .reserved
  | 0x26 =>
    if n / 1 % 16777216 = 0 then .instr (.xbegin)
    else if n / 256 % 64 = 8 then .instr (.xput (fld 5 19 n) (fld 5 14 n) (fld 8 0 n))
    else if n / 1 % 16777216 = 4096 then .instr (.xend)
    else .reserved
  | 0x27 =>
    if n / 1 % 16777216 = 0 then .instr (.follow)
    else if n / 1 % 16777216 = 2048 then .instr (.unfollow)
    else if n / 1 % 16777216 = 4096 then .instr (.home)
    else .reserved
  | 0x28 =>
    if n / 2048 % 8192 = 0 then .instr (.yield (fld 11 0 n))
    else if n / 2048 % 8192 = 1 then .instr (.trap (fld 11 0 n))
    else if n / 2048 % 8192 = 2 then .instr (.sys (fld 11 0 n))
    else if n / 1 % 16777216 = 6144 then .instr (.eret)
    else if n / 1 % 16777216 = 8192 then .instr (.halt)
    else .reserved
  | 0x29 =>
    if n / 256 % 2048 = 0 then .instr (.mfsr (fld 5 19 n) (fld 8 0 n))
    else if n / 256 % 64 = 1 ∧ n / 524288 % 32 = 0 then .instr (.mtsr (fld 5 14 n) (fld 8 0 n))
    else .reserved
  | 0x2a =>
    if n / 2048 % 8 = 0 then .instr (.vld (fld 5 19 n) (fld 5 14 n) (fld 11 0 n))
    else if n / 2048 % 8 = 1 then .instr (.vldW (fld 5 19 n) (fld 5 14 n) (fld 11 0 n))
    else if n / 2048 % 8 = 2 then .instr (.vst (fld 5 19 n) (fld 5 14 n) (fld 11 0 n))
    else .reserved
  | 0x2b =>
    if n / 1 % 512 = 0 then .instr (.vldS (fld 5 19 n) (fld 5 14 n) (fld 5 9 n))
    else if n / 1 % 512 = 1 then .instr (.vstS (fld 5 19 n) (fld 5 14 n) (fld 5 9 n))
    else .reserved
  | 0x30 =>
    if n / 1 % 512 = 0 ∧ n / 524288 % 32 = 0 then .instr (.mringCfg (fld 5 14 n) (fld 5 9 n))
    else if n / 1 % 512 = 1 then .instr (.ringPutPublish (fld 5 19 n) (fld 5 14 n) (fld 5 9 n))
    else if n / 1 % 512 = 2 then .instr (.ringPop (fld 5 19 n) (fld 5 14 n) (fld 5 9 n))
    else .reserved
  | 0x31 =>
    if n / 1 % 512 = 0 ∧ n / 2097152 % 8 = 0 then .instr (.maccLd (fld 2 19 n) (fld 5 14 n) (fld 5 9 n))
    else if n / 1 % 512 = 1 ∧ n / 2097152 % 8 = 0 then .instr (.maccSt (fld 2 19 n) (fld 5 14 n) (fld 5 9 n))
    else .reserved
  | 0x32 =>
    if n / 16 % 1024 = 0 then .instr (.mcap (fld 5 19 n) (fld 5 14 n) (fld 4 0 n))
    else if n / 1 % 16384 = 2048 ∧ n / 524288 % 32 = 0 then .instr (.mcmd (fld 5 14 n))
    else if n / 2 % 8192 = 2048 then .instr (.mstat (fld 5 19 n) (fld 5 14 n) (fld 1 0 n))
    else if n / 1 % 16384 = 6144 ∧ n / 524288 % 32 = 0 then .instr (.msave (fld 5 14 n))
    else if n / 1 % 16384 = 8192 ∧ n / 524288 % 32 = 0 then .instr (.mload (fld 5 14 n))
    else .reserved
  | 0x40 =>
    if n / 1 % 512 = 0 then .instr (.or (fld 5 19 n) (fld 5 14 n) (fld 5 9 n))
    else if n / 1 % 512 = 1 then .instr (.and (fld 5 19 n) (fld 5 14 n) (fld 5 9 n))
    else if n / 1 % 512 = 2 then .instr (.xor (fld 5 19 n) (fld 5 14 n) (fld 5 9 n))
    else if n / 1 % 512 = 3 then .instr (.andn (fld 5 19 n) (fld 5 14 n) (fld 5 9 n))
    else if n / 1 % 512 = 4 then .instr (.add (fld 5 19 n) (fld 5 14 n) (fld 5 9 n))
    else if n / 1 % 512 = 5 then .instr (.sub (fld 5 19 n) (fld 5 14 n) (fld 5 9 n))
    else if n / 1 % 512 = 6 then .instr (.mul (fld 5 19 n) (fld 5 14 n) (fld 5 9 n))
    else if n / 1 % 512 = 7 then .instr (.mulh (fld 5 19 n) (fld 5 14 n) (fld 5 9 n))
    else if n / 1 % 512 = 8 then .instr (.mulhn (fld 5 19 n) (fld 5 14 n) (fld 5 9 n))
    else if n / 1 % 512 = 9 then .instr (.div (fld 5 19 n) (fld 5 14 n) (fld 5 9 n))
    else if n / 1 % 512 = 10 then .instr (.divn (fld 5 19 n) (fld 5 14 n) (fld 5 9 n))
    else if n / 1 % 512 = 11 then .instr (.rem (fld 5 19 n) (fld 5 14 n) (fld 5 9 n))
    else if n / 1 % 512 = 12 then .instr (.remn (fld 5 19 n) (fld 5 14 n) (fld 5 9 n))
    else if n / 1 % 512 = 13 then .instr (.shl (fld 5 19 n) (fld 5 14 n) (fld 5 9 n))
    else if n / 1 % 512 = 14 then .instr (.shr (fld 5 19 n) (fld 5 14 n) (fld 5 9 n))
    else if n / 1 % 512 = 15 then .instr (.sha (fld 5 19 n) (fld 5 14 n) (fld 5 9 n))
    else if n / 1 % 512 = 16 then .instr (.rot (fld 5 19 n) (fld 5 14 n) (fld 5 9 n))
    else if n / 1 % 512 = 17 then .instr (.min (fld 5 19 n) (fld 5 14 n) (fld 5 9 n))
    else if n / 1 % 512 = 18 then .instr (.max (fld 5 19 n) (fld 5 14 n) (fld 5 9 n))
    else if n / 1 % 512 = 19 then .instr (.minn (fld 5 19 n) (fld 5 14 n) (fld 5 9 n))
    else if n / 1 % 512 = 20 then .instr (.maxn (fld 5 19 n) (fld 5 14 n) (fld 5 9 n))
    else if n / 1 % 16384 = 21 then .instr (.clz (fld 5 19 n) (fld 5 14 n))
    else if n / 1 % 16384 = 22 then .instr (.ctz (fld 5 19 n) (fld 5 14 n))
    else if n / 1 % 16384 = 23 then .instr (.popc (fld 5 19 n) (fld 5 14 n))
    else if n / 1 % 16384 = 24 then .instr (.extB (fld 5 19 n) (fld 5 14 n))
    else if n / 1 % 16384 = 25 then .instr (.extH (fld 5 19 n) (fld 5 14 n))
    else if n / 1 % 16384 = 26 then .instr (.extW (fld 5 19 n) (fld 5 14 n))
    else if n / 1 % 512 = 27 then .instr (.cmpEq (fld 5 19 n) (fld 5 14 n) (fld 5 9 n))
    else if n / 1 % 512 = 28 then .instr (.cmpNe (fld 5 19 n) (fld 5 14 n) (fld 5 9 n))
    else if n / 1 % 512 = 29 then .instr (.cmpLt (fld 5 19 n) (fld 5 14 n) (fld 5 9 n))
    else if n / 1 % 512 = 30 then .instr (.cmpLe (fld 5 19 n) (fld 5 14 n) (fld 5 9 n))
    else if n / 1 % 512 = 31 then .instr (.cmpLtn (fld 5 19 n) (fld 5 14 n) (fld 5 9 n))
    else if n / 1 % 512 = 32 then .instr (.cmpLen (fld 5 19 n) (fld 5 14 n) (fld 5 9 n))
    else .reserved
  | 0x41 =>
    .instr (.addi (fld 5 19 n) (fld 5 14 n) (fld 14 0 n))
  | 0x42 =>
    .instr (.andi (fld 5 19 n) (fld 5 14 n) (fld 14 0 n))
  | 0x43 =>
    .instr (.ori (fld 5 19 n) (fld 5 14 n) (fld 14 0 n))
  | 0x44 =>
    .instr (.xori (fld 5 19 n) (fld 5 14 n) (fld 14 0 n))
  | 0x45 =>
    if n / 64 % 256 = 0 then .instr (.shli (fld 5 19 n) (fld 5 14 n) (fld 6 0 n))
    else if n / 64 % 256 = 64 then .instr (.shri (fld 5 19 n) (fld 5 14 n) (fld 6 0 n))
    else if n / 64 % 256 = 128 then .instr (.shai (fld 5 19 n) (fld 5 14 n) (fld 6 0 n))
    else .reserved
  | 0x46 =>
    if n / 16384 % 32 = 0 then .instr (.lia (fld 5 19 n) (fld 14 0 n))
    else .reserved
  | 0x47 =>
    .instr (.lea (fld 5 19 n) (fld 5 14 n) (fld 14 0 n))
  | 0x48 =>
    .instr (.lih (fld 1 24 n) (fld 5 19 n) (fld 5 14 n) (fld 14 0 n))
  | 0x49 =>
    .instr (.lih (fld 1 24 n) (fld 5 19 n) (fld 5 14 n) (fld 14 0 n))
  | 0x4a =>
    if n / 32 % 16 = 0 then .instr (.sel (fld 5 19 n) (fld 5 14 n) (fld 5 9 n) (fld 5 0 n))
    else .reserved
  | 0x50 =>
    if n / 1 % 32 = 0 then .instr (.fadd (fld 5 19 n) (fld 5 14 n) (fld 5 9 n) (fld 2 7 n) (fld 2 5 n))
    else .reserved
  | 0x51 =>
    if n / 1 % 32 = 0 then .instr (.fsub (fld 5 19 n) (fld 5 14 n) (fld 5 9 n) (fld 2 7 n) (fld 2 5 n))
    else .reserved
  | 0x52 =>
    if n / 1 % 32 = 0 then .instr (.fmul (fld 5 19 n) (fld 5 14 n) (fld 5 9 n) (fld 2 7 n) (fld 2 5 n))
    else .reserved
  | 0x53 =>
    if n / 1 % 32 = 0 then .instr (.fdiv (fld 5 19 n) (fld 5 14 n) (fld 5 9 n) (fld 2 7 n) (fld 2 5 n))
    else .reserved
  | 0x54 =>
    if n / 1 % 32 = 0 ∧ n / 512 % 32 = 0 then .instr (.fsqrt (fld 5 19 n) (fld 5 14 n) (fld 2 7 n) (fld 2 5 n))
    else .reserved
  | 0x55 =>
    .instr (.fma (fld 5 19 n) (fld 5 14 n) (fld 5 9 n) (fld 2 7 n) (fld 2 5 n) (fld 5 0 n))
  | 0x56 =>
    if n / 1 % 128 = 0 then .instr (.fmin (fld 5 19 n) (fld 5 14 n) (fld 5 9 n) (fld 2 7 n))
    else .reserved
  | 0x57 =>
    if n / 1 % 128 = 0 then .instr (.fmax (fld 5 19 n) (fld 5 14 n) (fld 5 9 n) (fld 2 7 n))
    else .reserved
  | 0x58 =>
    if n / 4 % 32 = 0 then .instr (.fcmp (fld 5 19 n) (fld 5 14 n) (fld 5 9 n) (fld 2 7 n) (fld 2 0 n))
    else .reserved
  | 0x59 =>
    if n / 4 % 8 = 0 ∧ n / 512 % 32 = 0 then .instr (.fcvt (fld 5 19 n) (fld 5 14 n) (fld 2 7 n) (fld 2 5 n) (fld 2 0 n))
    else .reserved
  | 0x5a =>
    if n / 8 % 4 = 0 ∧ n / 512 % 32 = 0 then .instr (.fcvi (fld 5 19 n) (fld 5 14 n) (fld 2 7 n) (fld 2 5 n) (fld 3 0 n))
    else .reserved
  | 0x5b =>
    if n / 8 % 4 = 0 ∧ n / 512 % 32 = 0 then .instr (.ficv (fld 5 19 n) (fld 5 14 n) (fld 2 7 n) (fld 2 5 n) (fld 3 0 n))
    else .reserved
  | 0x5c =>
    if n / 1 % 128 = 0 ∧ n / 512 % 32 = 0 then .instr (.fclass (fld 5 19 n) (fld 5 14 n) (fld 2 7 n))
    else if n / 1 % 128 = 1 ∧ n / 512 % 32 = 0 then .instr (.fneg (fld 5 19 n) (fld 5 14 n) (fld 2 7 n))
    else if n / 1 % 128 = 2 ∧ n / 512 % 32 = 0 then .instr (.fabs (fld 5 19 n) (fld 5 14 n) (fld 2 7 n))
    else .reserved
  | 0x60 =>
    if n / 1 % 4 = 0 then .instr (.vadd (fld 5 19 n) (fld 5 14 n) (fld 5 9 n) (fld 3 6 n) (fld 4 2 n))
    else if n / 1 % 4 = 1 then .instr (.vsub (fld 5 19 n) (fld 5 14 n) (fld 5 9 n) (fld 3 6 n) (fld 4 2 n))
    else if n / 1 % 4 = 2 then .instr (.vmul (fld 5 19 n) (fld 5 14 n) (fld 5 9 n) (fld 3 6 n) (fld 4 2 n))
    else if n / 1 % 4 = 3 then .instr (.vmla (fld 5 19 n) (fld 5 14 n) (fld 5 9 n) (fld 3 6 n) (fld 4 2 n))
    else .reserved
  | 0x61 =>
    if n / 1 % 4 = 0 then .instr (.vand (fld 5 19 n) (fld 5 14 n) (fld 5 9 n) (fld 3 6 n) (fld 4 2 n))
    else if n / 1 % 4 = 1 then .instr (.vor (fld 5 19 n) (fld 5 14 n) (fld 5 9 n) (fld 3 6 n) (fld 4 2 n))
    else if n / 1 % 4 = 2 then .instr (.vxor (fld 5 19 n) (fld 5 14 n) (fld 5 9 n) (fld 3 6 n) (fld 4 2 n))
    else .reserved
  | 0x62 =>
    if n / 1 % 4 = 0 then .instr (.vshl (fld 5 19 n) (fld 5 14 n) (fld 5 9 n) (fld 3 6 n) (fld 4 2 n))
    else if n / 1 % 4 = 1 then .instr (.vshr (fld 5 19 n) (fld 5 14 n) (fld 5 9 n) (fld 3 6 n) (fld 4 2 n))
    else if n / 1 % 4 = 2 then .instr (.vsha (fld 5 19 n) (fld 5 14 n) (fld 5 9 n) (fld 3 6 n) (fld 4 2 n))
    else .reserved
  | 0x63 =>
    if n / 1 % 4 = 0 then .instr (.vmin (fld 5 19 n) (fld 5 14 n) (fld 5 9 n) (fld 3 6 n) (fld 4 2 n))
    else if n / 1 % 4 = 1 then .instr (.vmax (fld 5 19 n) (fld 5 14 n) (fld 5 9 n) (fld 3 6 n) (fld 4 2 n))
    else .reserved
  | 0x64 =>
    if n / 1 % 4 = 0 then .instr (.vfadd (fld 5 19 n) (fld 5 14 n) (fld 5 9 n) (fld 3 6 n) (fld 4 2 n))
    else if n / 1 % 4 = 1 then .instr (.vfsub (fld 5 19 n) (fld 5 14 n) (fld 5 9 n) (fld 3 6 n) (fld 4 2 n))
    else if n / 1 % 4 = 2 then .instr (.vfmul (fld 5 19 n) (fld 5 14 n) (fld 5 9 n) (fld 3 6 n) (fld 4 2 n))
    else if n / 1 % 4 = 3 then .instr (.vfma (fld 5 19 n) (fld 5 14 n) (fld 5 9 n) (fld 3 6 n) (fld 4 2 n))
    else .reserved
  | 0x65 =>
    if n / 1 % 4 = 0 then .instr (.vfmin (fld 5 19 n) (fld 5 14 n) (fld 5 9 n) (fld 3 6 n) (fld 4 2 n))
    else if n / 1 % 4 = 1 then .instr (.vfmax (fld 5 19 n) (fld 5 14 n) (fld 5 9 n) (fld 3 6 n) (fld 4 2 n))
    else .reserved
  | 0x66 =>
    if n / 4194304 % 4 = 0 then .instr (.vcmp (fld 3 19 n) (fld 5 14 n) (fld 5 9 n) (fld 3 6 n) (fld 4 2 n) (fld 2 0 n))
    else .reserved
  | 0x67 =>
    if n / 1 % 4 = 0 then .instr (.vsel (fld 5 19 n) (fld 5 14 n) (fld 5 9 n) (fld 3 6 n) (fld 4 2 n))
    else .reserved
  | 0x68 =>
    if n / 1 % 4 = 0 ∧ n / 8192 % 2 = 0 then .instr (.vcvt (fld 5 19 n) (fld 5 14 n) (fld 4 9 n) (fld 3 6 n) (fld 4 2 n))
    else .reserved
  | 0x69 =>
    if n / 1 % 4 = 0 then .instr (.vperm (fld 5 19 n) (fld 5 14 n) (fld 5 9 n) (fld 3 6 n) (fld 4 2 n))
    else if n / 1 % 4 = 1 ∧ n / 512 % 32 = 0 then .instr (.vbcast (fld 5 19 n) (fld 5 14 n) (fld 3 6 n) (fld 4 2 n))
    else if n / 1 % 4 = 2 ∧ n / 64 % 8 = 0 then .instr (.vins (fld 5 19 n) (fld 5 14 n) (fld 5 9 n) (fld 4 2 n))
    else if n / 1 % 4 = 3 ∧ n / 64 % 8 = 0 then .instr (.vext (fld 5 19 n) (fld 5 14 n) (fld 5 9 n) (fld 4 2 n))
    else .reserved
  | 0x6a =>
    if n / 1 % 4 = 0 ∧ n / 512 % 32 = 0 then .instr (.vmov (fld 5 19 n) (fld 5 14 n) (fld 3 6 n) (fld 4 2 n))
    else if n / 1 % 16384 = 1 ∧ n / 4194304 % 4 = 0 then .instr (.vmovGToM (fld 3 19 n) (fld 5 14 n))
    else if n / 1 % 16384 = 2 ∧ n / 131072 % 4 = 0 then .instr (.vmovMToG (fld 5 19 n) (fld 3 14 n))
    else .reserved
  | 0x6b =>
    if n / 1 % 4 = 0 ∧ n / 512 % 32 = 0 then .instr (.vredAdd (fld 5 19 n) (fld 5 14 n) (fld 3 6 n) (fld 4 2 n))
    else if n / 1 % 4 = 1 ∧ n / 512 % 32 = 0 then .instr (.vredMin (fld 5 19 n) (fld 5 14 n) (fld 3 6 n) (fld 4 2 n))
    else if n / 1 % 4 = 2 ∧ n / 512 % 32 = 0 then .instr (.vredMax (fld 5 19 n) (fld 5 14 n) (fld 3 6 n) (fld 4 2 n))
    else if n / 1 % 4 = 3 ∧ n / 512 % 32 = 0 then .instr (.vredFadd (fld 5 19 n) (fld 5 14 n) (fld 3 6 n) (fld 4 2 n))
    else .reserved
  | 0x6c =>
    if n / 1 % 512 = 0 ∧ n / 4096 % 4 = 0 ∧ n / 131072 % 4 = 0 ∧ n / 4194304 % 4 = 0 then .instr (.mand (fld 3 19 n) (fld 3 14 n) (fld 3 9 n))
    else if n / 1 % 512 = 1 ∧ n / 4096 % 4 = 0 ∧ n / 131072 % 4 = 0 ∧ n / 4194304 % 4 = 0 then .instr (.mor (fld 3 19 n) (fld 3 14 n) (fld 3 9 n))
    else if n / 1 % 16384 = 2 ∧ n / 131072 % 4 = 0 ∧ n / 4194304 % 4 = 0 then .instr (.mnot (fld 3 19 n) (fld 3 14 n))
    else if n / 1 % 4 = 3 ∧ n / 64 % 256 = 0 ∧ n / 131072 % 4 = 0 then .instr (.mcnt (fld 5 19 n) (fld 3 14 n) (fld 4 2 n))
    else .reserved
  | 0x70 =>
    if n / 16 % 32 = 0 ∧ n / 4096 % 4 = 0 ∧ n / 131072 % 4 = 0 ∧ n / 2097152 % 8 = 0 then .instr (.mma (fld 2 19 n) (fld 3 14 n) (fld 3 9 n) (fld 1 3 n) (fld 3 0 n))
    else .reserved
  | 0x71 =>
    if n / 256 % 2 = 0 ∧ n / 4096 % 4 = 0 ∧ n / 131072 % 4 = 0 ∧ n / 2097152 % 8 = 0 then .instr (.mmaSp (fld 2 19 n) (fld 3 14 n) (fld 3 9 n) (fld 1 7 n) (fld 3 4 n) (fld 1 3 n) (fld 3 0 n))
    else .reserved
  | 0x72 =>
    if n / 16 % 32 = 0 ∧ n / 4096 % 4 = 0 ∧ n / 131072 % 4 = 0 ∧ n / 2097152 % 8 = 0 then .instr (.mmaMx (fld 2 19 n) (fld 3 14 n) (fld 3 9 n) (fld 1 3 n) (fld 3 0 n))
    else .reserved
  | 0x73 =>
    if n / 1 % 524288 = 0 ∧ n / 2097152 % 8 = 0 then .instr (.maccZero (fld 2 19 n))
    else if n / 1 % 16384 = 1 ∧ n / 65536 % 8 = 0 ∧ n / 2097152 % 8 = 0 then .instr (.maccMv (fld 2 19 n) (fld 2 14 n))
    else .reserved
  | m => if majorReserved m then .reserved else .unassigned

/-- One word by R292 and R293 with the reserved field values of the instruction's own description (R295, `CheckWord`). -/
def decodeNat (n : Nat) : Decoded :=
  match decodeRaw n with
  | .instr i => if i.wf then .instr i else .reserved
  | d => d

/-- P, bit 31: the word begins a pair (R281). -/
def wordP (w : BitVec 32) : Bool := w.getLsbD 31

/-- K, bit 30: the word is A-class (R281). -/
def wordK (w : BitVec 32) : Bool := w.getLsbD 30

/-- One word. -/
def decodeWord (w : BitVec 32) : Decoded := decodeNat w.toNat

/-- A bundle as R282 and R283 form it. -/
inductive Bundle where
  /-- A lone word of either class. -/
  | lone (w : BitVec 32)
  /-- A C word and its A word. -/
  | pair (c a : BitVec 32)
  /-- The framing is broken: illegal-instruction, SUB 1, at the first word or, when set, at the second (AWORD). -/
  | broken (second : Bool)
deriving DecidableEq, Repr

/-- The framing of R282, R283 and R295 at bundle address `a`, from the word there and the word after it. -/
def frame (a : BitVec 64) (w v : BitVec 32) : Bundle :=
  if wordP w then
    if a.getLsbD 2 || wordK w then .broken false
    else if wordP v || !wordK v then .broken true
    else .pair w v
  else .lone w

/-- The bits of an instruction word with P = 0 (R289, R292, R293); an event has no word. -/
def encodeNat : Instr → Option Nat
  | .b o => some (0x01000000 + o.toNat * 1)
  | .bl o => some (0x02000000 + o.toNat * 1)
  | .br a i => some (0x03000000 + a.toNat * 16384 + i.toNat * 1)
  | .brl d a i => some (0x04000000 + d.toNat * 524288 + a.toNat * 16384 + i.toNat * 1)
  | .beq a b o => some (0x08000000 + a.toNat * 524288 + b.toNat * 16384 + o.toNat * 1)
  | .bne a b o => some (0x09000000 + a.toNat * 524288 + b.toNat * 16384 + o.toNat * 1)
  | .blt a b o => some (0x0a000000 + a.toNat * 524288 + b.toNat * 16384 + o.toNat * 1)
  | .bge a b o => some (0x0b000000 + a.toNat * 524288 + b.toNat * 16384 + o.toNat * 1)
  | .bltn a b o => some (0x0c000000 + a.toNat * 524288 + b.toNat * 16384 + o.toNat * 1)
  | .bgen a b o => some (0x0d000000 + a.toNat * 524288 + b.toNat * 16384 + o.toNat * 1)
  | .bz a o => some (0x0e000000 + a.toNat * 524288 + o.toNat * 1)
  | .bnz a o => some (0x0f000000 + a.toNat * 524288 + o.toNat * 1)
  | .ldB t a d => some (0x10000000 + t.toNat * 524288 + a.toNat * 16384 + d.toNat * 1)
  | .ldH t a d => some (0x10000800 + t.toNat * 524288 + a.toNat * 16384 + d.toNat * 1)
  | .ldW t a d => some (0x10001000 + t.toNat * 524288 + a.toNat * 16384 + d.toNat * 1)
  | .ldD t a d => some (0x10001800 + t.toNat * 524288 + a.toNat * 16384 + d.toNat * 1)
  | .ldBx t a d => some (0x10002000 + t.toNat * 524288 + a.toNat * 16384 + d.toNat * 1)
  | .ldHx t a d => some (0x10002800 + t.toNat * 524288 + a.toNat * 16384 + d.toNat * 1)
  | .ldWx t a d => some (0x10003000 + t.toNat * 524288 + a.toNat * 16384 + d.toNat * 1)
  | .stB t a d => some (0x11000000 + t.toNat * 524288 + a.toNat * 16384 + d.toNat * 1)
  | .stH t a d => some (0x11000800 + t.toNat * 524288 + a.toNat * 16384 + d.toNat * 1)
  | .stW t a d => some (0x11001000 + t.toNat * 524288 + a.toNat * 16384 + d.toNat * 1)
  | .stD t a d => some (0x11001800 + t.toNat * 524288 + a.toNat * 16384 + d.toNat * 1)
  | .ldAcq t a s d => some (0x12000000 + t.toNat * 524288 + a.toNat * 16384 + s.toNat * 2048 + d.toNat * 1)
  | .stRel t a s d => some (0x13000000 + t.toNat * 524288 + a.toNat * 16384 + s.toNat * 2048 + d.toNat * 1)
  | .stNt t a z d => some (0x14000000 + t.toNat * 524288 + a.toNat * 16384 + z.toNat * 2048 + d.toNat * 1)
  | .amoAdd d a b z => some (0x15000000 + d.toNat * 524288 + a.toNat * 16384 + b.toNat * 512 + z.toNat * 16)
  | .amoAnd d a b z => some (0x15000020 + d.toNat * 524288 + a.toNat * 16384 + b.toNat * 512 + z.toNat * 16)
  | .amoOr d a b z => some (0x15000040 + d.toNat * 524288 + a.toNat * 16384 + b.toNat * 512 + z.toNat * 16)
  | .amoXor d a b z => some (0x15000060 + d.toNat * 524288 + a.toNat * 16384 + b.toNat * 512 + z.toNat * 16)
  | .amoMin d a b z => some (0x15000080 + d.toNat * 524288 + a.toNat * 16384 + b.toNat * 512 + z.toNat * 16)
  | .amoMax d a b z => some (0x150000a0 + d.toNat * 524288 + a.toNat * 16384 + b.toNat * 512 + z.toNat * 16)
  | .amoMinn d a b z => some (0x150000c0 + d.toNat * 524288 + a.toNat * 16384 + b.toNat * 512 + z.toNat * 16)
  | .amoMaxn d a b z => some (0x150000e0 + d.toNat * 524288 + a.toNat * 16384 + b.toNat * 512 + z.toNat * 16)
  | .amoSwap d a b z => some (0x15000100 + d.toNat * 524288 + a.toNat * 16384 + b.toNat * 512 + z.toNat * 16)
  | .amoCas d a b z => some (0x15000120 + d.toNat * 524288 + a.toNat * 16384 + b.toNat * 512 + z.toNat * 16)
  | .ldRes d a => some (0x16000000 + d.toNat * 524288 + a.toNat * 16384)
  | .stCond d a b => some (0x16000001 + d.toNat * 524288 + a.toNat * 16384 + b.toNat * 512)
  | .wres d => some (0x16000002 + d.toNat * 524288)
  | .fget d a => some (0x17000000 + d.toNat * 524288 + a.toNat * 16384)
  | .fput d a b => some (0x17000001 + d.toNat * 524288 + a.toNat * 16384 + b.toNat * 512)
  | .ftake d a => some (0x17000002 + d.toNat * 524288 + a.toNat * 16384)
  | .redAdd a b z => some (0x18000000 + a.toNat * 16384 + b.toNat * 512 + z.toNat * 16)
  | .redMin a b z => some (0x18000040 + a.toNat * 16384 + b.toNat * 512 + z.toNat * 16)
  | .redMax a b z => some (0x18000080 + a.toNat * 16384 + b.toNat * 512 + z.toNat * 16)
  | .redFadd a b z => some (0x180000c0 + a.toNat * 16384 + b.toNat * 512 + z.toNat * 16)
  | .redFaddGroup d a b => some (0x180000e0 + d.toNat * 524288 + a.toNat * 16384 + b.toNat * 512)
  | .fence s => some (0x19000000 + s.toNat * 32)
  | .xfence x y s => some (0x19000080 + x.toNat * 524288 + y.toNat * 16384 + s.toNat * 32)
  | .isync => some (0x19000100)
  | .barInit a n => some (0x1a000000 + a.toNat * 16384 + n.toNat * 1)
  | .barArrive d n => some (0x1a000800 + d.toNat * 524288 + n.toNat * 1)
  | .barWait a n => some (0x1a001000 + a.toNat * 16384 + n.toNat * 1)
  | .barTry d a n => some (0x1a001800 + d.toNat * 524288 + a.toNat * 16384 + n.toNat * 1)
  | .slotTake d a c => some (0x1b000000 + d.toNat * 524288 + a.toNat * 16384 + c.toNat * 1)
  | .slotGive a c => some (0x1b000800 + a.toNat * 16384 + c.toNat * 1)
  | .slotTry d a c => some (0x1b001000 + d.toNat * 524288 + a.toNat * 16384 + c.toNat * 1)
  | .bbInit a => some (0x1c000000 + a.toNat * 16384)
  | .bbPeekImm d n => some (0x1c000800 + d.toNat * 524288 + n.toNat * 1)
  | .bbPeekReg d a => some (0x1c000800 + d.toNat * 524288 + a.toNat * 16384)
  | .bbTakeImm d n => some (0x1c001000 + d.toNat * 524288 + n.toNat * 1)
  | .bbTakeReg d a => some (0x1c001000 + d.toNat * 524288 + a.toNat * 16384)
  | .bbDec d a l => some (0x1c001800 + d.toNat * 524288 + a.toNat * 16384 + l.toNat * 1)
  | .bbCopy d a b => some (0x1c002000 + d.toNat * 524288 + a.toNat * 16384 + b.toNat * 1)
  | .bbLit d n => some (0x1c002800 + d.toNat * 524288 + n.toNat * 1)
  | .cpy a => some (0x20000000 + a.toNat * 16384)
  | .cpyCk a => some (0x20000800 + a.toNat * 16384)
  | .cpyQ d w c => some (0x20001000 + d.toNat * 524288 + w.toNat * 16 + c.toNat * 1)
  | .cpyQuench a => some (0x20001800 + a.toNat * 16384)
  | .stashOpen a => some (0x21000000 + a.toNat * 16384)
  | .stash a => some (0x21000800 + a.toNat * 16384)
  | .stashReg v a => some (0x21001000 + v.toNat * 1048576 + a.toNat * 16384)
  | .restore a => some (0x21001800 + a.toNat * 16384)
  | .stashStat d a s => some (0x21002000 + d.toNat * 524288 + a.toNat * 16384 + s.toNat * 1)
  | .graftCfg a s => some (0x22000000 + a.toNat * 16384 + s.toNat * 1)
  | .graftGo s => some (0x22000800 + s.toNat * 1)
  | .graftStat d w s => some (0x22001000 + d.toNat * 524288 + w.toNat * 16 + s.toNat * 1)
  | .psendOpen a => some (0x23000000 + a.toNat * 16384)
  | .psendAppend a => some (0x23000001 + a.toNat * 16384)
  | .psendEOpen a => some (0x23000800 + a.toNat * 16384)
  | .psendEAppend a => some (0x23000801 + a.toNat * 16384)
  | .psendEClose => some (0x23000802)
  | .spawn d a h => some (0x24000000 + d.toNat * 524288 + a.toNat * 16384 + h.toNat * 1)
  | .dqPush d a => some (0x24000800 + d.toNat * 524288 + a.toNat * 16384)
  | .dqPop d => some (0x24001000 + d.toNat * 524288)
  | .launch a b => some (0x24001800 + a.toNat * 16384 + b.toNat * 1)
  | .plotAlloc d a => some (0x25000000 + d.toNat * 524288 + a.toNat * 16384)
  | .plotPass a s => some (0x25000800 + a.toNat * 16384 + s.toNat * 1)
  | .plotFree a => some (0x25001000 + a.toNat * 16384)
  | .xbegin => some (0x26000000)
  | .xput d a r => some (0x26000800 + d.toNat * 524288 + a.toNat * 16384 + r.toNat * 1)
  | .xend => some (0x26001000)
  | .follow => some (0x27000000)
  | .unfollow => some (0x27000800)
  | .home => some (0x27001000)
  | .yield n => some (0x28000000 + n.toNat * 1)
  | .trap n => some (0x28000800 + n.toNat * 1)
  | .sys n => some (0x28001000 + n.toNat * 1)
  | .eret => some (0x28001800)
  | .halt => some (0x28002000)
  | .mfsr d s => some (0x29000000 + d.toNat * 524288 + s.toNat * 1)
  | .mtsr a s => some (0x29000100 + a.toNat * 16384 + s.toNat * 1)
  | .vld t a d => some (0x2a000000 + t.toNat * 524288 + a.toNat * 16384 + d.toNat * 1)
  | .vldW t a d => some (0x2a000800 + t.toNat * 524288 + a.toNat * 16384 + d.toNat * 1)
  | .vst t a d => some (0x2a001000 + t.toNat * 524288 + a.toNat * 16384 + d.toNat * 1)
  | .vldS d a b => some (0x2b000000 + d.toNat * 524288 + a.toNat * 16384 + b.toNat * 512)
  | .vstS d a b => some (0x2b000001 + d.toNat * 524288 + a.toNat * 16384 + b.toNat * 512)
  | .mringCfg a b => some (0x30000000 + a.toNat * 16384 + b.toNat * 512)
  | .ringPutReserve d a b => some (0x30000001 + d.toNat * 524288 + a.toNat * 16384 + b.toNat * 512)
  | .ringPutPublish d a b => some (0x30000001 + d.toNat * 524288 + a.toNat * 16384 + b.toNat * 512)
  | .ringPop d a b => some (0x30000002 + d.toNat * 524288 + a.toNat * 16384 + b.toNat * 512)
  | .maccLd c a b => some (0x31000000 + c.toNat * 524288 + a.toNat * 16384 + b.toNat * 512)
  | .maccSt c a b => some (0x31000001 + c.toNat * 524288 + a.toNat * 16384 + b.toNat * 512)
  | .mcap d a n => some (0x32000000 + d.toNat * 524288 + a.toNat * 16384 + n.toNat * 1)
  | .mcmd a => some (0x32000800 + a.toNat * 16384)
  | .mstat d a r => some (0x32001000 + d.toNat * 524288 + a.toNat * 16384 + r.toNat * 1)
  | .msave a => some (0x32001800 + a.toNat * 16384)
  | .mload a => some (0x32002000 + a.toNat * 16384)
  | .or d a b => some (0x40000000 + d.toNat * 524288 + a.toNat * 16384 + b.toNat * 512)
  | .and d a b => some (0x40000001 + d.toNat * 524288 + a.toNat * 16384 + b.toNat * 512)
  | .xor d a b => some (0x40000002 + d.toNat * 524288 + a.toNat * 16384 + b.toNat * 512)
  | .andn d a b => some (0x40000003 + d.toNat * 524288 + a.toNat * 16384 + b.toNat * 512)
  | .add d a b => some (0x40000004 + d.toNat * 524288 + a.toNat * 16384 + b.toNat * 512)
  | .sub d a b => some (0x40000005 + d.toNat * 524288 + a.toNat * 16384 + b.toNat * 512)
  | .mul d a b => some (0x40000006 + d.toNat * 524288 + a.toNat * 16384 + b.toNat * 512)
  | .mulh d a b => some (0x40000007 + d.toNat * 524288 + a.toNat * 16384 + b.toNat * 512)
  | .mulhn d a b => some (0x40000008 + d.toNat * 524288 + a.toNat * 16384 + b.toNat * 512)
  | .div d a b => some (0x40000009 + d.toNat * 524288 + a.toNat * 16384 + b.toNat * 512)
  | .divn d a b => some (0x4000000a + d.toNat * 524288 + a.toNat * 16384 + b.toNat * 512)
  | .rem d a b => some (0x4000000b + d.toNat * 524288 + a.toNat * 16384 + b.toNat * 512)
  | .remn d a b => some (0x4000000c + d.toNat * 524288 + a.toNat * 16384 + b.toNat * 512)
  | .shl d a b => some (0x4000000d + d.toNat * 524288 + a.toNat * 16384 + b.toNat * 512)
  | .shr d a b => some (0x4000000e + d.toNat * 524288 + a.toNat * 16384 + b.toNat * 512)
  | .sha d a b => some (0x4000000f + d.toNat * 524288 + a.toNat * 16384 + b.toNat * 512)
  | .rot d a b => some (0x40000010 + d.toNat * 524288 + a.toNat * 16384 + b.toNat * 512)
  | .min d a b => some (0x40000011 + d.toNat * 524288 + a.toNat * 16384 + b.toNat * 512)
  | .max d a b => some (0x40000012 + d.toNat * 524288 + a.toNat * 16384 + b.toNat * 512)
  | .minn d a b => some (0x40000013 + d.toNat * 524288 + a.toNat * 16384 + b.toNat * 512)
  | .maxn d a b => some (0x40000014 + d.toNat * 524288 + a.toNat * 16384 + b.toNat * 512)
  | .clz d a => some (0x40000015 + d.toNat * 524288 + a.toNat * 16384)
  | .ctz d a => some (0x40000016 + d.toNat * 524288 + a.toNat * 16384)
  | .popc d a => some (0x40000017 + d.toNat * 524288 + a.toNat * 16384)
  | .extB d a => some (0x40000018 + d.toNat * 524288 + a.toNat * 16384)
  | .extH d a => some (0x40000019 + d.toNat * 524288 + a.toNat * 16384)
  | .extW d a => some (0x4000001a + d.toNat * 524288 + a.toNat * 16384)
  | .cmpEq d a b => some (0x4000001b + d.toNat * 524288 + a.toNat * 16384 + b.toNat * 512)
  | .cmpNe d a b => some (0x4000001c + d.toNat * 524288 + a.toNat * 16384 + b.toNat * 512)
  | .cmpLt d a b => some (0x4000001d + d.toNat * 524288 + a.toNat * 16384 + b.toNat * 512)
  | .cmpLe d a b => some (0x4000001e + d.toNat * 524288 + a.toNat * 16384 + b.toNat * 512)
  | .cmpLtn d a b => some (0x4000001f + d.toNat * 524288 + a.toNat * 16384 + b.toNat * 512)
  | .cmpLen d a b => some (0x40000020 + d.toNat * 524288 + a.toNat * 16384 + b.toNat * 512)
  | .addi d a i => some (0x41000000 + d.toNat * 524288 + a.toNat * 16384 + i.toNat * 1)
  | .andi d a i => some (0x42000000 + d.toNat * 524288 + a.toNat * 16384 + i.toNat * 1)
  | .ori d a i => some (0x43000000 + d.toNat * 524288 + a.toNat * 16384 + i.toNat * 1)
  | .xori d a i => some (0x44000000 + d.toNat * 524288 + a.toNat * 16384 + i.toNat * 1)
  | .shli d a n => some (0x45000000 + d.toNat * 524288 + a.toNat * 16384 + n.toNat * 1)
  | .shri d a n => some (0x45001000 + d.toNat * 524288 + a.toNat * 16384 + n.toNat * 1)
  | .shai d a n => some (0x45002000 + d.toNat * 524288 + a.toNat * 16384 + n.toNat * 1)
  | .lia d i => some (0x46000000 + d.toNat * 524288 + i.toNat * 1)
  | .lea d a i => some (0x47000000 + d.toNat * 524288 + a.toNat * 16384 + i.toNat * 1)
  | .lih j d k i => some (0x48000000 + j.toNat * 16777216 + d.toNat * 524288 + k.toNat * 16384 + i.toNat * 1)
  | .sel d a b x => some (0x4a000000 + d.toNat * 524288 + a.toNat * 16384 + b.toNat * 512 + x.toNat * 1)
  | .fadd d a b t r => some (0x50000000 + d.toNat * 524288 + a.toNat * 16384 + b.toNat * 512 + t.toNat * 128 + r.toNat * 32)
  | .fsub d a b t r => some (0x51000000 + d.toNat * 524288 + a.toNat * 16384 + b.toNat * 512 + t.toNat * 128 + r.toNat * 32)
  | .fmul d a b t r => some (0x52000000 + d.toNat * 524288 + a.toNat * 16384 + b.toNat * 512 + t.toNat * 128 + r.toNat * 32)
  | .fdiv d a b t r => some (0x53000000 + d.toNat * 524288 + a.toNat * 16384 + b.toNat * 512 + t.toNat * 128 + r.toNat * 32)
  | .fsqrt d a t r => some (0x54000000 + d.toNat * 524288 + a.toNat * 16384 + t.toNat * 128 + r.toNat * 32)
  | .fma d a b t r x => some (0x55000000 + d.toNat * 524288 + a.toNat * 16384 + b.toNat * 512 + t.toNat * 128 + r.toNat * 32 + x.toNat * 1)
  | .fmin d a b t => some (0x56000000 + d.toNat * 524288 + a.toNat * 16384 + b.toNat * 512 + t.toNat * 128)
  | .fmax d a b t => some (0x57000000 + d.toNat * 524288 + a.toNat * 16384 + b.toNat * 512 + t.toNat * 128)
  | .fcmp d a b t e => some (0x58000000 + d.toNat * 524288 + a.toNat * 16384 + b.toNat * 512 + t.toNat * 128 + e.toNat * 1)
  | .fcvt d a t r s => some (0x59000000 + d.toNat * 524288 + a.toNat * 16384 + t.toNat * 128 + r.toNat * 32 + s.toNat * 1)
  | .fcvi d a t r i => some (0x5a000000 + d.toNat * 524288 + a.toNat * 16384 + t.toNat * 128 + r.toNat * 32 + i.toNat * 1)
  | .ficv d a t r i => some (0x5b000000 + d.toNat * 524288 + a.toNat * 16384 + t.toNat * 128 + r.toNat * 32 + i.toNat * 1)
  | .fclass d a t => some (0x5c000000 + d.toNat * 524288 + a.toNat * 16384 + t.toNat * 128)
  | .fneg d a t => some (0x5c000001 + d.toNat * 524288 + a.toNat * 16384 + t.toNat * 128)
  | .fabs d a t => some (0x5c000002 + d.toNat * 524288 + a.toNat * 16384 + t.toNat * 128)
  | .vadd d a b m t => some (0x60000000 + d.toNat * 524288 + a.toNat * 16384 + b.toNat * 512 + m.toNat * 64 + t.toNat * 4)
  | .vsub d a b m t => some (0x60000001 + d.toNat * 524288 + a.toNat * 16384 + b.toNat * 512 + m.toNat * 64 + t.toNat * 4)
  | .vmul d a b m t => some (0x60000002 + d.toNat * 524288 + a.toNat * 16384 + b.toNat * 512 + m.toNat * 64 + t.toNat * 4)
  | .vmla d a b m t => some (0x60000003 + d.toNat * 524288 + a.toNat * 16384 + b.toNat * 512 + m.toNat * 64 + t.toNat * 4)
  | .vand d a b m t => some (0x61000000 + d.toNat * 524288 + a.toNat * 16384 + b.toNat * 512 + m.toNat * 64 + t.toNat * 4)
  | .vor d a b m t => some (0x61000001 + d.toNat * 524288 + a.toNat * 16384 + b.toNat * 512 + m.toNat * 64 + t.toNat * 4)
  | .vxor d a b m t => some (0x61000002 + d.toNat * 524288 + a.toNat * 16384 + b.toNat * 512 + m.toNat * 64 + t.toNat * 4)
  | .vshl d a b m t => some (0x62000000 + d.toNat * 524288 + a.toNat * 16384 + b.toNat * 512 + m.toNat * 64 + t.toNat * 4)
  | .vshr d a b m t => some (0x62000001 + d.toNat * 524288 + a.toNat * 16384 + b.toNat * 512 + m.toNat * 64 + t.toNat * 4)
  | .vsha d a b m t => some (0x62000002 + d.toNat * 524288 + a.toNat * 16384 + b.toNat * 512 + m.toNat * 64 + t.toNat * 4)
  | .vmin d a b m t => some (0x63000000 + d.toNat * 524288 + a.toNat * 16384 + b.toNat * 512 + m.toNat * 64 + t.toNat * 4)
  | .vmax d a b m t => some (0x63000001 + d.toNat * 524288 + a.toNat * 16384 + b.toNat * 512 + m.toNat * 64 + t.toNat * 4)
  | .vfadd d a b m t => some (0x64000000 + d.toNat * 524288 + a.toNat * 16384 + b.toNat * 512 + m.toNat * 64 + t.toNat * 4)
  | .vfsub d a b m t => some (0x64000001 + d.toNat * 524288 + a.toNat * 16384 + b.toNat * 512 + m.toNat * 64 + t.toNat * 4)
  | .vfmul d a b m t => some (0x64000002 + d.toNat * 524288 + a.toNat * 16384 + b.toNat * 512 + m.toNat * 64 + t.toNat * 4)
  | .vfma d a b m t => some (0x64000003 + d.toNat * 524288 + a.toNat * 16384 + b.toNat * 512 + m.toNat * 64 + t.toNat * 4)
  | .vfmin d a b m t => some (0x65000000 + d.toNat * 524288 + a.toNat * 16384 + b.toNat * 512 + m.toNat * 64 + t.toNat * 4)
  | .vfmax d a b m t => some (0x65000001 + d.toNat * 524288 + a.toNat * 16384 + b.toNat * 512 + m.toNat * 64 + t.toNat * 4)
  | .vcmp d a b m t o => some (0x66000000 + d.toNat * 524288 + a.toNat * 16384 + b.toNat * 512 + m.toNat * 64 + t.toNat * 4 + o.toNat * 1)
  | .vsel d a b m t => some (0x67000000 + d.toNat * 524288 + a.toNat * 16384 + b.toNat * 512 + m.toNat * 64 + t.toNat * 4)
  | .vcvt d a s m t => some (0x68000000 + d.toNat * 524288 + a.toNat * 16384 + s.toNat * 512 + m.toNat * 64 + t.toNat * 4)
  | .vperm d a b m t => some (0x69000000 + d.toNat * 524288 + a.toNat * 16384 + b.toNat * 512 + m.toNat * 64 + t.toNat * 4)
  | .vbcast d a m t => some (0x69000001 + d.toNat * 524288 + a.toNat * 16384 + m.toNat * 64 + t.toNat * 4)
  | .vins d a b t => some (0x69000002 + d.toNat * 524288 + a.toNat * 16384 + b.toNat * 512 + t.toNat * 4)
  | .vext d a b t => some (0x69000003 + d.toNat * 524288 + a.toNat * 16384 + b.toNat * 512 + t.toNat * 4)
  | .vmov d a m t => some (0x6a000000 + d.toNat * 524288 + a.toNat * 16384 + m.toNat * 64 + t.toNat * 4)
  | .vmovGToM d a => some (0x6a000001 + d.toNat * 524288 + a.toNat * 16384)
  | .vmovMToG d a => some (0x6a000002 + d.toNat * 524288 + a.toNat * 16384)
  | .vredAdd d a m t => some (0x6b000000 + d.toNat * 524288 + a.toNat * 16384 + m.toNat * 64 + t.toNat * 4)
  | .vredMin d a m t => some (0x6b000001 + d.toNat * 524288 + a.toNat * 16384 + m.toNat * 64 + t.toNat * 4)
  | .vredMax d a m t => some (0x6b000002 + d.toNat * 524288 + a.toNat * 16384 + m.toNat * 64 + t.toNat * 4)
  | .vredFadd d a m t => some (0x6b000003 + d.toNat * 524288 + a.toNat * 16384 + m.toNat * 64 + t.toNat * 4)
  | .mand d a b => some (0x6c000000 + d.toNat * 524288 + a.toNat * 16384 + b.toNat * 512)
  | .mor d a b => some (0x6c000001 + d.toNat * 524288 + a.toNat * 16384 + b.toNat * 512)
  | .mnot d a => some (0x6c000002 + d.toNat * 524288 + a.toNat * 16384)
  | .mcnt d a t => some (0x6c000003 + d.toNat * 524288 + a.toNat * 16384 + t.toNat * 4)
  | .mma c a b z k => some (0x70000000 + c.toNat * 524288 + a.toNat * 16384 + b.toNat * 512 + z.toNat * 8 + k.toNat * 1)
  | .mmaSp c a b n r z k => some (0x71000000 + c.toNat * 524288 + a.toNat * 16384 + b.toNat * 512 + n.toNat * 128 + r.toNat * 16 + z.toNat * 8 + k.toNat * 1)
  | .mmaMx c a b z k => some (0x72000000 + c.toNat * 524288 + a.toNat * 16384 + b.toNat * 512 + z.toNat * 8 + k.toNat * 1)
  | .maccZero c => some (0x73000000 + c.toNat * 524288)
  | .maccMv c e => some (0x73000001 + c.toNat * 524288 + e.toNat * 16384)
  | _ => none

/-- The word of an instruction, beginning a pair when `p` is set; none for an event, for an A word or `xbegin` that would
begin a pair (R283, R288), and for an instruction that is not well formed. -/
def encode (p : Bool) (i : Instr) : Option (BitVec 32) :=
  match encodeNat i with
  | none => none
  | some n =>
    if !i.wf then none
    else if p then (if n / 1073741824 % 2 = 1 ∨ n = 0x26000000 then none else some (BitVec.ofNat 32 (n + 2147483648)))
    else some (BitVec.ofNat 32 n)

/-- The instruction the decoder reads from one table word: `nbits` bits of it are given, bit 0 the least significant of the
first byte.  A word with P = 1 is read as the C word of a pair; an A word and `xbegin` stand only with P = 0. -/
def decodeTableWord (nbits w : Nat) : Option Instr :=
  if nbits ≠ 32 ∨ w ≥ 4294967296 then none
  else if w / 2147483648 = 1 ∧ (w / 1073741824 % 2 = 1 ∨ w % 2147483648 = 0x26000000) then none
  else match decodeNat w with
    | .instr i => some i
    | _ => none

end Sys2Proof
end

