-- ==== Sys2Proof/Config.lean ====
section
/-! DEFINITION. What the implementation fixes, and the free values: what the spec leaves open.  A constant without a body
is free: no proof can see its value. -/

namespace Sys2Proof.Config

/-- IMPL of the identity register on the ZJ-1536 (R33). -/
def impl : Nat := 0x01

/-- FEATOFF: the ZJ-1536 offers bits 0 to 10 (R472). -/
def featOff : BitVec 256 := 0x7FF

/-- Which turn the part takes next when the agenda is empty: the order in which slots issue, packets move, engines work and
the outside acts is left open by the spec, so the `n`-th choice is free (DESIGN CHOICE, assumption 3). -/
opaque arbiter (n : Nat) : Turn

/-- SHAKE256 with `out` bytes of output (R469, R470, R473): a function the manual names and does not define. -/
opaque shake256 (message : List Byte) (out : Nat) : List Byte

/-- ML-DSA-65 verification with the empty context string (R469, R470). -/
opaque mldsaVerify (key message signature : List Byte) : Bool

/-- The public part of the module's identity key (R473): its value is made at manufacture. -/
opaque identityKey : List Byte

/-- The 3,309 bytes of the hedged ML-DSA-65 signature made with the module's identity key, the first byte lowest; `n` is the hedge (R473). -/
opaque mldsaSign (n : Nat) (message : List Byte) : BitVec 26472

/-- The four key digests fused at manufacture, each with whether its revocation fuse is intact (R470). -/
opaque keyDigests : List (List Byte × Bool)

/-- The module at the end of a route that leaves module `own` (R105): which links join which modules is not part of one module's spec. -/
opaque routeEnd (own : Nat) (route : BitVec 256) : Nat

/-- The `n`-th value the spec leaves open: nothing constrains it. -/
opaque freeWord (n : Nat) : Word

/-- The `i`-th word of the `n`-th open value that is longer than a word. -/
opaque freeAt (n i : Nat) : Word

end Sys2Proof.Config
end

