-- ==== Sys2Proof/Machine/Number.lean ====
section
/-! DEFINITION. Number formats and arithmetic (chapter 10): exact values, their rounding into the formats of R264, the code
tables, the MX blocks and the fixed summation orders. -/

namespace Sys2Proof.Machine

/-- An exact value as R264 and R265 give it: a NaN, an infinity, or `±m·2^e` (a signed zero when `m = 0`). -/
inductive Val where
  | nan
  | inf (neg : Bool)
  | fin (neg : Bool) (m : Nat) (e : Int)
deriving DecidableEq, Repr, Inhabited

/-- A floating-point format of R264: exponent and fraction widths, bias, whether it has infinities (then its NaNs are as
FP64), and its largest finite value `maxM·2^maxE`. -/
structure Fmt where
  eb : Nat
  fb : Nat
  bias : Nat
  ieee : Bool
  maxM : Nat
  maxE : Int
deriving DecidableEq, Repr, Inhabited

/-- The formats of R264. -/
def fp64 : Fmt := ⟨11, 52, 1023, true, 2 ^ 53 - 1, 971⟩
def fp32 : Fmt := ⟨8, 23, 127, true, 2 ^ 24 - 1, 104⟩
def fp16 : Fmt := ⟨5, 10, 15, true, 2 ^ 11 - 1, 5⟩
def bf16 : Fmt := ⟨8, 7, 127, true, 255, 120⟩
def e8m10 : Fmt := ⟨8, 10, 127, true, 2 ^ 11 - 1, 117⟩
def e5m2 : Fmt := ⟨5, 2, 15, true, 7, 13⟩
def e4m3 : Fmt := ⟨4, 3, 7, false, 14, 5⟩
def e2m1 : Fmt := ⟨2, 1, 1, false, 3, 1⟩

/-- The width of a format's code. -/
def Fmt.width (f : Fmt) : Nat := 1 + f.eb + f.fb

/-- `emin`, 1 − bias (R267). -/
def Fmt.emin (f : Fmt) : Int := 1 - (f.bias : Int)

/-- The canonical NaN of R266; E2M1 has none, so +0 stands there (R269). -/
def Fmt.nanCode (f : Fmt) : Nat :=
  if f.ieee then (2 ^ f.eb - 1) * 2 ^ f.fb + 2 ^ (f.fb - 1)
  else if f.eb = 4 then 0x7F else 0

/-- The code of an infinity, or of the largest finite value in a format without infinities (R267). -/
def Fmt.infCode (f : Fmt) (neg : Bool) : Nat :=
  b2n neg * 2 ^ (f.eb + f.fb) +
    (if f.ieee then (2 ^ f.eb - 1) * 2 ^ f.fb else if f.eb = 4 then 0x7E else 7)

/-- The code of the largest finite value (R264). -/
def Fmt.maxCode (f : Fmt) (neg : Bool) : Nat :=
  b2n neg * 2 ^ (f.eb + f.fb) +
    (if f.ieee then (2 ^ f.eb - 1) * 2 ^ f.fb - 1 else if f.eb = 4 then 0x7E else 7)

/-- The value of a code (R265); the E5M2 tables name 0x7D to 0x7F as NaNs, which is FP64's rule. -/
def Fmt.decode (f : Fmt) (c : Nat) : Val :=
  let neg := c.testBit (f.eb + f.fb)
  let e := bits c (f.eb + f.fb - 1) f.fb
  let m := c % 2 ^ f.fb
  if f.ieee ∧ e = 2 ^ f.eb - 1 then (if m = 0 then .inf neg else .nan)
  else if f.eb = 4 ∧ f.ieee = false ∧ e = 15 ∧ m = 7 then .nan
  else if e = 0 then .fin neg m (f.emin - f.fb)
  else .fin neg (2 ^ f.fb + m) ((e : Int) - f.bias - f.fb)

/-- The rounding modes of R267. -/
inductive Mode where
  | rne | rz | rd | ru
deriving DecidableEq, Repr, Inhabited

/-- The mode of an RM field (R267, R291). -/
def Mode.ofCode (c : BitVec 2) : Mode :=
  if c = 0 then .rne else if c = 1 then .rz else if c = 2 then .rd else .ru

/-- Whether a mode takes a value of this sign towards zero (R267). -/
def Mode.truncates (mode : Mode) (neg : Bool) : Bool :=
  match mode with
  | .rne => false
  | .rz => true
  | .rd => !neg
  | .ru => neg

/-- `m / 2^sh` rounded to an integer in the mode (R267). -/
def roundShift (mode : Mode) (neg : Bool) (m sh : Nat) : Nat :=
  let q := m / 2 ^ sh
  let r := m % 2 ^ sh
  if r = 0 then q
  else
    match mode with
    | .rne => if 2 * r < 2 ^ sh then q else if 2 ^ sh < 2 * r then q + 1 else q + q % 2
    | _ => if mode.truncates neg then q else q + 1

/-- `m·2^e` over `2^u` as an integer in the mode. -/
def scaleTo (mode : Mode) (neg : Bool) (m : Nat) (e u : Int) : Nat :=
  if u ≤ e then m * 2 ^ (e - u).toNat else roundShift mode neg m (u - e).toNat

/-- `RoundF` of R267 on a finite value: the code of `±m·2^e` in the format. -/
def Fmt.roundFin (f : Fmt) (mode : Mode) (neg : Bool) (m : Nat) (e : Int) : Nat :=
  let sign := b2n neg * 2 ^ (f.eb + f.fb)
  if m = 0 then sign
  else
    let top : Int := (Nat.log2 m : Int) + e
    let ex := max top f.emin
    let u := ex - f.fb
    let k := scaleTo mode neg m e u
    let past := u > f.maxE ∨ (u = f.maxE ∧ k > f.maxM)
    if past then (if mode.truncates neg then f.maxCode neg else f.infCode neg)
    else sign + (ex - f.emin).toNat * 2 ^ f.fb + k

/-- The code of a value in a format, by `RoundF` (R267) and the conversion table of R269. -/
def Fmt.round (f : Fmt) (mode : Mode) : Val → Nat
  | .nan => f.nanCode
  | .inf neg => f.infCode neg
  | .fin neg m e => f.roundFin mode neg m e

/-- `RoundRNE32` (R267). -/
def roundRNE32 (v : Val) : Nat := fp32.round .rne v

/-- The value with its sign turned. -/
def Val.neg : Val → Val
  | .nan => .nan
  | .inf s => .inf (!s)
  | .fin s m e => .fin (!s) m e

/-- The absolute value. -/
def Val.abs : Val → Val
  | .nan => .nan
  | .inf _ => .inf false
  | .fin _ m e => .fin false m e

/-- The sign; a NaN carries none. -/
def Val.sign : Val → Bool
  | .nan => false
  | .inf s => s
  | .fin s _ _ => s

/-- Whether the value is a NaN. -/
def Val.isNan : Val → Bool
  | .nan => true
  | _ => false

/-- Whether the value is finite. -/
def Val.isFin : Val → Bool
  | .fin _ _ _ => true
  | _ => false

/-- Whether the value is a zero of either sign. -/
def Val.isZero : Val → Bool
  | .fin _ m _ => m = 0
  | _ => false

/-- A signed mantissa at the exponent `u ≤ e`. -/
def mantAt (neg : Bool) (m : Nat) (e u : Int) : Int :=
  let k : Int := (m * 2 ^ (e - u).toNat : Nat)
  if neg then -k else k

/-- An integer times a power of two, as a value; zero takes the sign given. -/
def Val.ofInt (i : Int) (e : Int) (zneg : Bool) : Val :=
  if i = 0 then .fin zneg 0 0 else .fin (decide (i < 0)) i.natAbs e

/-- An exact integer, +0 when it is zero. -/
def Val.int (i : Int) : Val := Val.ofInt i 0 false

/-- The exact sum of two values; an exact zero takes the sign of R267 in the mode. -/
def Val.add (mode : Mode) : Val → Val → Val
  | .nan, _ => .nan
  | _, .nan => .nan
  | .inf s, .inf t => if s = t then .inf s else .nan
  | .inf s, _ => .inf s
  | _, .inf t => .inf t
  | .fin s m e, .fin t n d =>
    let u := min e d
    let zneg := if m = 0 ∧ n = 0 ∧ s = t then s else decide (mode = .rd)
    Val.ofInt (mantAt s m e u + mantAt t n d u) u zneg

/-- The exact product; a sign is the exclusive OR of the signs (R267), ∞ × 0 is a NaN. -/
def Val.mul : Val → Val → Val
  | .nan, _ => .nan
  | _, .nan => .nan
  | .inf s, .inf t => .inf (s != t)
  | .inf s, .fin t n _ => if n = 0 then .nan else .inf (s != t)
  | .fin s m _, .inf t => if m = 0 then .nan else .inf (s != t)
  | .fin s m e, .fin t n d => .fin (s != t) (m * n) (e + d)

/-- The product with a power of two. -/
def Val.scale (v : Val) (k : Int) : Val :=
  match v with
  | .fin s m e => .fin s m (e + k)
  | w => w

/-- A quotient carried far enough that every rounding of it is the rounding of the exact quotient: the last bit is set when
a remainder is left.  0 / 0 and ∞ / ∞ are NaNs, a finite value over zero an infinity. -/
def Val.div : Val → Val → Val
  | .nan, _ => .nan
  | _, .nan => .nan
  | .inf _, .inf _ => .nan
  | .inf s, .fin t _ _ => .inf (s != t)
  | .fin s _ _, .inf t => .fin (s != t) 0 0
  | .fin s m e, .fin t n d =>
    if n = 0 then (if m = 0 then .nan else .inf (s != t))
    else if m = 0 then .fin (s != t) 0 0
    else
      let k := 128 + Nat.log2 n
      let q := (m * 2 ^ k) / n
      let r := (m * 2 ^ k) % n
      .fin (s != t) (2 * q + b2n (decide (r ≠ 0))) (e - d - k - 1)

/-- Integer square root by `fuel` halvings. -/
def isqrtAux : Nat → Nat → Nat → Nat → Nat
  | 0, _, lo, _ => lo
  | f + 1, n, lo, hi =>
    if lo + 1 ≥ hi then lo
    else
      let mid := (lo + hi) / 2
      if mid * mid ≤ n then isqrtAux f n mid hi else isqrtAux f n lo mid

/-- The largest `r` with `r·r ≤ n`. -/
def isqrt (n : Nat) : Nat :=
  let b := Nat.log2 n / 2 + 2
  isqrtAux (b + 1) n 0 (2 ^ b)

/-- A square root carried far enough for every rounding; −0 keeps its sign, a negative value gives a NaN. -/
def Val.sqrt : Val → Val
  | .nan => .nan
  | .inf s => if s then .nan else .inf false
  | .fin s m e =>
    if m = 0 then .fin s 0 0
    else if s then .nan
    else
      let odd := e % 2 != 0
      let m' := (if odd then 2 * m else m) * 2 ^ 256
      let e' := (if odd then e - 1 else e) - 256
      let r := isqrt m'
      .fin false (2 * r + b2n (decide (r * r ≠ m'))) (e' / 2 - 1)

/-- Order of two values that are not NaNs, −0 and +0 equal. -/
def Val.lt : Val → Val → Bool
  | .nan, _ => false
  | _, .nan => false
  | .inf s, .inf t => s && !t
  | .inf s, .fin _ _ _ => s
  | .fin _ _ _, .inf t => !t
  | .fin s m e, .fin t n d =>
    let u := min e d
    decide (mantAt s m e u < mantAt t n d u)

/-- Equality of values that are not NaNs, −0 and +0 equal (R266). -/
def Val.eq (a b : Val) : Bool := !a.isNan && !b.isNan && !a.lt b && !b.lt a

/-- Order of reals with −0 below +0 (R266, `Key` of R272). -/
def Val.keyLe (a b : Val) : Bool :=
  if a.isZero && b.isZero then a.sign || !b.sign else !b.lt a

/-- `Key` equality (R272). -/
def Val.keyEq (a b : Val) : Bool := a.keyLe b && b.keyLe a

/-- Minimum by R266. -/
def Val.min (a b : Val) : Val :=
  if a.isNan then b else if b.isNan then a else if a.keyLe b then a else b

/-- Maximum by R266. -/
def Val.max (a b : Val) : Val :=
  if a.isNan then b else if b.isNan then a else if b.keyLe a then a else b

/-- A finite value rounded to an integer in the mode. -/
def roundToInt (mode : Mode) (neg : Bool) (m : Nat) (e : Int) : Int :=
  let k : Int := (scaleTo mode neg m e 0 : Nat)
  if neg then -k else k

/-- Least and greatest of an integer type of `w` bits (R268). -/
def intMin (signed : Bool) (w : Nat) : Int := if signed then -(2 ^ (w - 1) : Nat) else 0
def intMax (signed : Bool) (w : Nat) : Int := if signed then (2 ^ (w - 1) : Nat) - 1 else (2 ^ w : Nat) - 1

/-- Clamp into an interval. -/
def clampInt (lo hi i : Int) : Int := if i < lo then lo else if hi < i then hi else i

/-- Conversion to an integer type (R269): the value, and whether the outcome is listed. -/
def Val.toIntTy (mode : Mode) (signed : Bool) (w : Nat) : Val → Int × Bool
  | .nan => (0, true)
  | .inf neg => (if neg then intMin signed w else intMax signed w, false)
  | .fin neg m e => (clampInt (intMin signed w) (intMax signed w) (roundToInt mode neg m e), false)

/-- An integer as a `w`-bit number (R268). -/
def wrap (w : Nat) (i : Int) : Nat := (i % (2 ^ w : Nat)).toNat

/-! ### Code tables (R272, R273) -/

/-- The binary search of `EncodeTable`: the last position whose key is not above the input's, as `i + 1`. -/
def searchTable (l : List (Nat × Val)) (x : Val) : Nat → Nat → Nat → Nat → Nat
  | 0, _, _, i => i
  | f + 1, lo, hi, i =>
    if hi < lo + 1 then i
    else
      let mid := (lo + (hi - 1)) / 2
      match l[mid]? with
      | none => i
      | some (_, v) => if v.keyLe x then searchTable l x f (mid + 1) hi (mid + 1) else searchTable l x f lo mid i

/-- `EncodeTable` of R272 over codes in ascending rank with their values: the code, and whether the outcome is listed. -/
def encodeTable (tab : List (Nat × Val)) (x0 : Val) : Nat × Bool :=
  let nans := (tab.filter fun p => p.2.isNan).map (·.1)
  let l := tab.filter fun p => !p.2.isNan
  let n := l.length
  if x0.isNan ∧ nans ≠ [] then (nans.foldl min 255, false)
  else
    let x := if x0.isNan then Val.fin false 0 0 else x0
    let listed := x0.isNan
    let i := searchTable l x (n + 1) 0 n 0
    let at' : Nat → Nat × Val := fun k => (l[k]?).getD (0, .nan)
    if n = 0 then (0, listed)
    else if i = 0 then ((at' 0).1, listed)
    else
      let a := at' (i - 1)
      let b := at' i
      if a.2.keyEq x ∨ i = n then (a.1, listed)
      else
        let da := Val.add .rne x a.2.neg
        let db := Val.add .rne b.2 x.neg
        if da.lt db then (a.1, listed)
        else if db.lt da then (b.1, listed)
        else if a.1 % 2 ≠ b.1 % 2 then (if a.1 % 2 = 0 then a.1 else b.1, listed)
        else if b.2.sign = x.sign then (b.1, listed)
        else (a.1, listed)

/-- The 256 codes in ascending rank: 0xFF down to 0x80, then 0 up to 0x7F (R272). -/
def codesByRank8 : List Nat := (List.range 128).map (fun k => 255 - k) ++ List.range 128

/-- The 16 codes in ascending rank, `c XOR 8` (R273). -/
def codesByRank4 : List Nat := (List.range 8).map (· + 8) ++ List.range 8

/-- The default code-table entry of R272: KIND 0 is E4M3, KIND 1 is E5M2. -/
def defaultCode (kind : Nat) (c : Nat) : Nat :=
  let f := if kind = 1 then e5m2 else e4m3
  match f.decode c with
  | .nan => 0x3FE00 + (c / 128) * 2 ^ 18
  | v => e8m10.round .rne v

/-- The default 4-bit integer table (R53). -/
def defaultInt4 (c : Nat) : Nat := if c < 8 then c else 240 + c

/-! ### MX blocks (R274) -/

/-- The format of an MX window's element. -/
def mxFmt (mx8 : Bool) : Fmt := if mx8 then e4m3 else e2m1

/-- `EncodeMX` of R274: the scale byte and the element codes; the largest of no finite input is 0 (assumption 189). -/
def encodeMX (mx8 : Bool) (x : List Val) : Nat × List Nat :=
  let f := mxFmt mx8
  let emax : Int := if mx8 then 8 else 2
  if x.any (·.isNan) then (0xFF, x.map fun _ => 0)
  else
    let mx := x.foldl (fun a v => if v.isFin then Val.max a v.abs else a) (.fin false 0 0)
    let s : Int :=
      match mx with
      | .fin _ m e => if m = 0 then 127 else clampInt 0 254 ((Nat.log2 m : Int) + e - emax + 127)
      | _ => 127
    (s.toNat, x.map fun v => f.round .rne (v.scale (127 - s)))

/-- The value of an MX element: a scale of 0xFF is a NaN (R274). -/
def mxValue (mx8 : Bool) (c s : Nat) : Val :=
  if s = 0xFF then .nan else ((mxFmt mx8).decode c).scale ((s : Int) - 127)

/-! ### Sums (R275, R276, R279) -/

/-- The exact sum of finite values over a common exponent `u`. -/
def sumAt (u : Int) : List Val → Int
  | [] => 0
  | .fin s m e :: r => mantAt s m e u + sumAt u r
  | _ :: r => sumAt u r

/-- The least exponent of a list of finite values. -/
def minExp : List Val → Int
  | [] => 0
  | .fin _ _ e :: r => min e (minExp r)
  | _ :: r => minExp r

/-- `AccumulateChunk` of R275: the accumulator's new code and whether a finite sum overflowed. -/
def accumulateChunk (acc : Nat) (terms : List Val) (sat : Bool) : Nat × Bool :=
  let all := fp32.decode acc :: terms
  let pos := all.any (fun v => v == .inf false)
  let neg := all.any (fun v => v == .inf true)
  if all.any (·.isNan) ∨ (pos ∧ neg) then (0x7FC00000, false)
  else if pos then (fp32.infCode false, false)
  else if neg then (fp32.infCode true, false)
  else
    let u := minExp all
    let sum := sumAt u all
    if sum = 0 then (if all.all (fun v => v.isZero && v.sign) then 0x80000000 else 0, false)
    else
      let y := roundRNE32 (Val.ofInt sum u false)
      if fp32.decode y == .inf false ∨ fp32.decode y == .inf true then
        (if sat then fp32.maxCode (decide (sum < 0)) else y, true)
      else (y, false)

/-- A rounded addition in a format, RNE (R279). -/
def addRound (f : Fmt) (a b : Nat) : Nat := f.round .rne (Val.add .rne (f.decode a) (f.decode b))

/-- One level of `Tree` (R279). -/
def treeLevel (f : Fmt) : List Nat → List Nat
  | a :: b :: r => addRound f a b :: treeLevel f r
  | l => l

/-- `Tree` of R279, by levels. -/
def tree (f : Fmt) : Nat → List Nat → Nat
  | 0, l => l.headD 0
  | n + 1, l => match l with
    | [] => 0
    | [a] => a
    | l => tree f n (treeLevel f l)

end Sys2Proof.Machine
end

