-- ==== Sys2Proof/Machine/State.lean ====
section
/-! DEFINITION. The state of one module, as plain data: everything the spec gives the machine, and the few fields of the
model's own (the agenda, the current bundle, the arguments of an event, the counter of free values), marked as such. -/

namespace Sys2Proof.Machine

/-- Why a run stops with a fault. -/
inductive Fault where
  /-- Raised by `step` when a turn names a slot that no module has (a unit that is neither a bed nor a rim die, a core or slot
  past the end, R8, R214).  Safe: no such turn exists. -/
  | noSuchSlot
deriving DecidableEq, Repr

/-- Why a run is refused. -/
inductive Refusal where
  /-- An instruction that has no meaning yet.  Raised by `exec` only.  Safe. -/
  | notModelled (mnemonic : String)
deriving DecidableEq, Repr

/-! ### Names of chapter 7 to 9 -/

/-- The access paths (R188); the code of a path is its place in R291. -/
inductive Path where
  | ls | ce | mx | se | ge | xp | hp
deriving DecidableEq, Repr, Inhabited

/-- The kinds of access of R32 and R155; `future` is a future operation (R323, R329), `fetch` an instruction fetch (R58), `red` a
reduction (R330). -/
inductive Kind where
  | load | store | atomic | future | vector | matrix | fetch | red
deriving DecidableEq, Repr, Inhabited

/-- SLST.STATE (R215). -/
inductive SlotState where
  | free | ready | run | wait | park | away | lost
deriving DecidableEq, Repr, Inhabited

/-- A range of R17 with its fields; a bed core and a rim core share `core` and `page`, `unit` telling them apart. -/
inductive Rng where
  /-- A core's local memory through a window. -/
  | core (unit core win off : Nat)
  /-- A core control page. -/
  | page (unit core off : Nat)
  | vault (bed v off : Nat)
  | bedCtl (bed block off : Nat)
  | hbm (off : Nat)
  | rimDie (die block off : Nat)
  | linkDie (die block off : Nat)
  | host (pa : Nat)
  | hole
deriving DecidableEq, Repr, Inhabited

/-! ### Threads and slots -/

/-- The registers of a thread (R36, R270, R342, R415, R416). -/
structure Thread where
  g : Vector Word 32
  v : Vector VReg 32
  m : Vector Word 8
  pc : Word
  mode : Bool
  pm : Bool
  td : Bool
  ctx : BitVec 12
  tvec : Word
  epc : Word
  ecause : Word
  eaddr : Word
  xlb : Word
  xll : Word
  xlc : Word
  bbData : BitVec 128
  bbCount : Nat
  bbPtr : Word
deriving DecidableEq, Repr

/-- All registers zero, m0 all ones (R242). -/
def Thread.zero : Thread :=
  { g := Vector.replicate 32 0, v := Vector.replicate 32 0, m := (Vector.replicate 8 0).set 0 (BitVec.allOnes 64), pc := 0,
    mode := false, pm := false, td := false, ctx := 0, tvec := 0, epc := 0, ecause := 0, eaddr := 0, xlb := 0, xll := 0, xlc := 0,
    bbData := 0, bbCount := 0, bbPtr := 0 }

/-- What a slot that cannot issue is waiting for. -/
inductive Wait where
  /-- The answer to a request of its own, by its number; `keep` when a pre-emption waits for it (an atomic, future or counter operation, a
  spawn: R247, R255).  An interlock, not a hardware wait. -/
  | answer (id : Nat) (keep : Bool)
  /-- Stores of its core, or its own streaming stores, reductions and packets, to be performed (R324, R334). -/
  | drain
  /-- A barrier of its core (R339, R340). -/
  | barrier (n : Nat)
  /-- A FUTURE word (R207). -/
  | future (key : Nat)
  /-- A reservation's end (R326). -/
  | reserve (key : Nat)
  /-- A slot counter (R229). -/
  | counter
  /-- A TLB fill (R158): the program address and the access kind. -/
  | fill (va : Word) (kind : Kind)
  /-- The answer to a migration (R174). -/
  | migrate
  /-- A route entry whose VALID is 0 (R92): the table index. -/
  | route (entry : Nat)
  /-- A channel to arm, a watermark to pass, or PEND to reach 0 (R111, R113, R394). -/
  | channel (n : Nat)
  /-- An instruction-cache refill: the address of the line's first byte (R58). -/
  | refill (line : Nat)
  /-- The matrix unit: ownership, claims, space, order or drain (R256, R377, R386). -/
  | matrix
  /-- A queue, a mailbox entry or a unit's answer to make room (R117, R240, R400). -/
  | queue
  /-- An entry for the event its action would raise (R263). -/
  | event
  /-- The global timestamp to advance (R219, R233, R383). -/
  | time
  /-- A leader's stream (R225). -/
  | follow
  /-- Its turn, after `yield n` (R411). -/
  | yield
  /-- Nothing: the pieces of an access still to be made, at its next turn (R190). -/
  | again
  /-- A freeze image to be written (R257, R387). -/
  | freeze
deriving DecidableEq, Repr, Inhabited

/-- Answers a slot has received and not yet used. -/
inductive Resp where
  /-- Bytes read for a load. -/
  | data (key : Nat) (bytes : List Byte)
  /-- The value of an atomic, reservation, future or counter operation. -/
  | value (v : Word)
  /-- The request has been done. -/
  | done
  /-- The command has had to wait for its channel to become idle (R111). -/
  | late
  /-- The target had no room (R247). -/
  | busy
  /-- An uncorrectable word (R63). -/
  | bad
  /-- The page of the access to a program address is not present, with the pager's rim die, 0 to 5 (R160). -/
  | notPresent (pager : Nat) (va : Word)
  /-- The fill for the access to a program address has been refused for its page fields (R161). -/
  | noFill (va : Word)
  /-- The translation of an access of the bundle, once a request of the bundle has gone out: a lookup of its program address for its kind that hit (R155). -/
  | page (va : Word) (kind : Kind) (sa : Word)
  /-- A probe's answer: header words (R135, R398). -/
  | probe (w0 w1 w2 w5 : Word)
  /-- A steal's record, or none (R246). -/
  | stolen (rec : Option (List Word))
  /-- The matrix unit is done with the slot's C or A word: accepted, written or frozen, or the trap its read met (R377, R381, R387). -/
  | matrix (half : Bool) (err : Option (Nat × Nat × Word))
  /-- How many operations the unit had accepted when the slot's `mstat` was first executed (R386). -/
  | accepted (n : Nat)
deriving DecidableEq, Repr, Inhabited

/-- An explicit packet being assembled (R95, R402). -/
structure OpenPkt where
  route : BitVec 256
  lane : Nat
  kind : Nat
  dest : Nat
  dmod : Nat
  info : Word
  flits : List (List Byte)
deriving DecidableEq, Repr, Inhabited

/-- A timed block in progress (R287, R288, R204). -/
structure Block where
  xb : Word
  count : Nat
  len : Nat
  bar : Nat
  level : Nat
  dom : Nat
  rbase : Nat
  /-- The block cycle at which the slot issues next. -/
  cyc : Nat
  /-- Block cycles at which general and vector registers become usable (register number, 32 up for v, 64 up for m). -/
  ready : List (Nat × Nat)
  /-- The core's own bank accesses of the block: bank cycle and bank (R204). -/
  acc : List (Nat × Nat)
deriving DecidableEq, Repr, Inhabited

/-- Why the hardware has parked a slot, or what software did (PARKWHY, R215). -/
abbrev ParkWhy := Nat

/-- A load that its thread has gone on past (R195): the thread as it stood before it, its word, the number of its request, the register it loads, what has come
back, whether it has to be taken up again, and the location with its length. -/
structure Ahead where
  th : Thread
  word : BitVec 32
  id : Nat
  reg : BitVec 5
  got : List Resp
  due : Bool
  key : Nat
  len : Nat
deriving DecidableEq, Repr

/-- One slot of a core: SLST (R215), the live thread of RUN and WAIT, and what the slot keeps beside it. -/
structure Slot where
  st : SlotState
  parkWhy : ParkWhy
  held : Bool
  /-- A pre-emption request not yet honoured (R255). -/
  preq : Bool
  th : Thread
  /-- The loaded reach descriptor (R27, R30). -/
  reach : Vector Word 4
  /-- The refault record (R168). -/
  refault : Word
  /-- The thread's name (R170). -/
  name : BitVec 15
  /-- The thread's entry or its handler's entry has still to pass the target check (R286), and its thread has not run yet (R168). -/
  entry : Bool
  fresh : Bool
  /-- The reservation's location (R326). -/
  resv : Option Nat
  /-- The location a waiting `ld.res` is in turn for, with its ticket (R328). -/
  resTurn : Option (Nat × Nat)
  wait : Option Wait
  resp : List Resp
  /-- Unacknowledged reductions, streaming stores and closed packets (R332, R334). -/
  redOut : Nat
  ntOut : List (Nat × Nat × Word)
  expOut : Nat
  pkt : Option OpenPkt
  blk : Option Block
  /-- The barrier whose aligned completion the slot has just seen (R223), and the block its thread has ended but not yet
  closed (R259): the `xbegin` address, level and domain. -/
  aligned : Option Nat
  lastBlk : Option (Word × Nat × Nat)
  /-- The barrier and the phase, by the DONETS before it, of a `bar.wait` that a pre-emption, a park or a trap has interrupted (R223). -/
  cut : Option (Nat × Word)
  /-- Registers whose results are still to come, and in how many cycles at most (R302): what a block may open with. -/
  late : List (Nat × Nat)
  /-- FOLST (R227) and the follower's queue of bundle addresses with their words and the next address (R224). -/
  folState : Nat
  folReason : Nat
  folLeave : Word
  folQueue : List (Word × BitVec 32 × Option (BitVec 32) × Word)
  folLeft : Bool
  /-- Gang priority and gang (R243, R244). -/
  gangPrio : Nat
  gang : Option (Nat × Nat)
  /-- The arrival record ARVREC (R338). -/
  arvBar : Nat
  arvV : Bool
  arvName : Word
  /-- A trap already decided that is taken at the next bundle boundary (R251). -/
  pend : Option (Nat × Nat × Word × Word × Word)
  /-- The block cycle after which that trap is taken, for one met on a link (R96, R251). -/
  pendAt : Nat
  /-- The route entry on which the slot parks at its next bundle boundary (R332). -/
  parkAt : Option Nat
  /-- The next wait of a back-off in cycles (R171, R207). -/
  backoff : Nat
  /-- Exception-list entries still to be written, offset and entry: they follow the store their word is paired with (R271). -/
  owed : List (Nat × Nat)
  /-- Loads under release order that the thread has gone on past, oldest first (R195). -/
  ahead : List Ahead
deriving DecidableEq, Repr

/-- A slot that holds no thread, at the reset values of its registers. -/
def Slot.empty : Slot :=
  { st := .free, parkWhy := 0, held := false, preq := false, th := Thread.zero, reach := Vector.replicate 4 0, refault := 0,
    name := 0, entry := false, fresh := false, resv := none, resTurn := none, wait := none, resp := [], redOut := 0, ntOut := [], expOut := 0, pkt := none,
    blk := none, aligned := none, lastBlk := none, cut := none, late := [], folState := 0, folReason := 0, folLeave := 0, folQueue := [], folLeft := false,
    gangPrio := 3, gang := none, arvBar := 0, arvV := false, arvName := 0, pend := none, pendAt := 0, parkAt := none, backoff := 0, owed := [], ahead := [] }

/-! ### Packets (chapter 3) -/

/-- An atomic, reservation, future or slot-counter operation at its home (R325, R326, R329, R341). -/
inductive Rmw where
  | amo (op : Nat) (bytes : Nat) (x c : Word)
  | ldRes
  | stCond (x : Word)
  | wres
  | fget
  | fput (x : Word)
  | ftake
  | take (n : Nat)
  | give (n : Nat)
  | try (n : Nat)
deriving DecidableEq, Repr, Inhabited

/-- A tensor descriptor (R107). -/
structure Tensor where
  base : Word
  ty : Nat
  rank : Nat
  clip : Nat
  nib0 : Bool
  xmod : Option Nat
  dim : List Nat
  str : List Nat
  box : List Nat
  org : List Int
deriving DecidableEq, Repr, Inhabited

/-- What a command does (R104, R133). -/
inductive CmdOp where
  | copy | stashOpen | stash | restore
  /-- A pair of a go, as its graft unit holds it (R148). -/
  | graft
deriving DecidableEq, Repr, Inhabited

/-- A command of a channel, as the instruction read it (R104, R133) and as the engine holds it (R123). -/
structure Cmd where
  op : CmdOp
  /-- Words 2 and 3 of its block (R123). -/
  words : Word × Word
  place : Place
  ownMod : Nat
  ctx : Nat
  chan : Nat
  engUnit : Nat
  engIx : Nat
  src : Option Tensor
  dst : Option Tensor
  sfifo : Option Nat
  dfifo : Option (Nat × Nat)
  ddesc : Word
  bar : Option Nat
  ck : Nat
  first : Bool
  last : Bool
  expect : Nat
  dleg : Option Nat
  legBase : Option Nat
  cmdEntry : Nat
  region : Word
  loc : Word
  firstEl : Nat
  count : Nat
  ofmt : Bool
  regData : Option (List Byte)
  image : Word × Word
  range : Option (Word × Word)
  carry : Nat
  /-- The route strings of the legs as the core read them when it sent the command: leg number, string, lane. -/
  legs : List (Nat × BitVec 256 × Nat)
  /-- The engine's module where the source or the command route settles it at issue; else it is the one at the end of the command route (R105). -/
  mod : Option Nat
deriving DecidableEq, Repr, Inhabited

/-- A gang thread image or spawn as it travels (R172, R247). -/
structure SpawnRec where
  pc : Word
  args : List Word
  ctx : BitVec 12
  mode : Bool
  tvec : Word
  reach : Vector Word 4
  prio : Nat
  heavy : Bool
deriving DecidableEq, Repr

/-- The body of a packet, by KIND (R79). -/
inductive Body where
  | none
  | load (bytes : Nat) (fetch : Bool)
  | store (bytes : List Byte) (streaming : Bool)
  | rmw (op : Rmw)
  /-- A light thread's image (R172); `words` is the model's: the words of the bundle a shipped thread faulted in, and whether its second did,
  for the frame its landing writes (R253), and whether its entry has still to pass the target check (R286). -/
  | image (bytes : List Byte) (refault : Word) (ship save : Bool) (reach : Vector Word 4) (gangPrio : Nat) (gang : Option (Nat × Nat)) (words : Word × Bool × Bool)
  | red (op : Nat) (dbl group : Bool) (contributor : Nat) (x : Word)
  | cmd (c : Cmd)
  | quench (ctx ownMod : Nat)
  /-- An engine's write: offset from DEST's 64-byte block, mask and value of each byte (R123), its owner and path. -/
  | engWrite (bytes : List (Nat × Byte × Byte)) (ctx ownMod : Nat) (path : Path)
  | engRead (bytes : Nat) (ctx ownMod : Nat) (path : Path)
  /-- A quench carried between modules (R124) or a region-table entry of another module (R105). -/
  | entry (w0 w1 : Word)
  | message (payload : List Byte)
  | bulk (payload : List Byte)
  | spawn (r : SpawnRec)
  | mcmd (word : BitVec 32) (token : Word) (bar : Option Nat)
  /-- A probe (R135), with the legs its encoder reads a header on another module over. -/
  | probe (region : Word) (ctx ownMod : Nat) (legs : List (Nat × BitVec 256 × Nat))
  /-- The counts of a stash command for the header at DEST (R132): exceeding blocks, non-finite elements, largest error; its owner. -/
  | counts (sums : Nat × Nat × Nat) (ctx ownMod : Nat)
  /-- An engine's miss on its way back to the issuing core, and the fill on its way to the engine (R121, R162): the control word, entry words and owner. -/
  | missed (words : List Word)
  | fill (ctl w0 w1 : Word) (ownMod : Nat)
  /-- A snapshot request to a member on another module, with T (R142); a pair handed to its loser's module: header, winner, loser, the loser's member index
  and the pair's number (R152). -/
  | snap (t : Word) (member : BitVec 32)
  | pair (header : List Word) (winner loser : BitVec 32) (ix i ctx ownMod : Nat)
  | miss (words : List Word)
  | record (words : List Word)
  | data (bytes : List Byte)
  | value (v : Word)
  | ack
  | bad
  | progress (wm : Word) (status : Nat) (done : Bool) (ck : Nat) (faddr : Word) (nackInfo : Word) (clip : Option (List Nat × List Nat)) (chan : Nat)
  /-- A NACK (R90), with the unit that sent it. -/
  | nack (reason hopix rkind : Nat) (unit : Nat)
deriving DecidableEq, Repr

/-- Where a packet's head stands. -/
inductive Loc where
  /-- At the rim die that injects it: its first item enters the panel (R77). -/
  | rim (die : Nat)
  /-- At a panel router (R68). -/
  | router (x y : Nat)
  /-- At a link die's gateway; `spire`: just arrived over a Spire link; `changed`: it has changed lane since (R76). -/
  | gateway (die : Nat) (spire changed : Bool)
  /-- Delivered at the core or vault port of a router, at a rim die or at a link die. -/
  | atCore (x y : Nat)
  | atVault (x y : Nat)
  /-- `left`: the router it left the panel at; none for a request that never entered the fabric (R77). -/
  | atRim (die : Nat) (left : Option (Nat × Nat))
  | atLink (die : Nat)
  /-- On the other module's side of a Spire link. -/
  | left (die link : Nat)
deriving DecidableEq, Repr, Inhabited

/-- A packet in flight (R78). -/
structure Pkt where
  route : BitVec 256
  lane : Nat
  resp : Bool
  kind : Nat
  len : Nat
  hop : Nat
  last : Nat
  lastv : Bool
  xpl : Bool
  src : Nat
  slot : Nat
  iport : Nat
  dest : Nat
  dmod : Nat
  stamp : Word
  info : Word
  body : Body
  loc : Loc
  /-- The string and lane at injection, which name the route of R81. -/
  route0 : BitVec 256
  lane0 : Nat
  /-- The route-table index of an implicit request, with the value of the head entry it was injected with (R92). -/
  entry : Option (Nat × Nat)
  /-- The model's number of the request, which its answer carries back. -/
  id : Nat
  /-- Whether it has changed lane since it last arrived over a Spire link, if it has arrived over one (R76). -/
  hopped : Option Bool
  /-- The region stamp of an HBM request (R181). -/
  rstamp : Word
  /-- The pieces of a store already written at its home, as a mask (R190), and the pieces of a load already read there, by number. -/
  gone : Nat
  got : List (Nat × List Byte)
  /-- In a response, what its request was: KIND, LEN and body, which the issuer keeps until the answer. -/
  req : Nat × Nat × Body
deriving DecidableEq, Repr

/-! ### A core -/

/-- An entry of a store buffer (R192). -/
structure SbEntry where
  slot : Nat
  /-- The program address of the store. -/
  pa : Word
  rng : Rng
  key : Nat
  bytes : List Byte
  /-- The route index it was sent on and that entry's value, once it has been sent. -/
  sent : Option (Nat × Nat)
  /-- The number of the request it was sent as. -/
  id : Nat
  /-- The scope of a `st.rel`, for its write. -/
  rel : Option Nat
  /-- The 16-byte pieces already written at its home, as a mask (R190). -/
  gone : Nat
  /-- The context of the thread that stored (R238). -/
  ctx : BitVec 12
deriving DecidableEq, Repr, Inhabited

/-- A TLB entry (R154). -/
structure TlbE where
  vpn : Nat
  size : Bool
  ctx : BitVec 12
  valid : Bool
  spn : Nat
  rd : Bool
  wr : Bool
  ex : Bool
  usr : Bool
  hot : Nat
  /-- The owner's module, in an engine's TLB (R121). -/
  own : Nat
deriving DecidableEq, Repr, Inhabited

/-- A barrier of a core: BARST (R218). -/
structure Bar where
  count : Nat
  arrived : Nat
  kind : Nat
  level : Nat
  xalign : Bool
  cdone : Bool
  donets : Word
  /-- A completion that waits for the timestamp to advance (R219). -/
  owed : Bool
deriving DecidableEq, Repr, Inhabited

/-- A channel (R110) with its queued commands (R111). -/
structure Chan where
  lo : Word
  hi : Word
  sent : Bool
  status : Nat
  ck : Nat
  wm : Word
  cmds : List Cmd
  /-- The number of the command packet sent for the head command. -/
  id : Nat
  /-- How often the channel has been armed (R111). -/
  arm : Nat
deriving DecidableEq, Repr, Inhabited

/-- An operand ring (R369 to R371): its configuration word and counters, and the claims not yet freed (first tile, count). -/
structure Ring where
  cfg : Word
  tail : BitVec 32
  head : BitVec 32
  claim : BitVec 32
  claims : List (BitVec 32 × Nat × Bool)
  /-- The arming of its channel that last fed it, and the end of the slot last fed (R375). -/
  fed : Nat × Nat
deriving DecidableEq, Repr, Inhabited

/-- One fetched chunk of a product: the A tile's rows with their depth positions, and the B tile's columns (R377, R378). -/
structure Chunk where
  /-- Both tiles hold integers: their products are exact integers, whose zero has no sign (R378). -/
  int : Bool
  a : List (List (Nat × Val))
  b : List (List Val)
deriving DecidableEq, Repr, Inhabited

/-- What an accepted operation does when its turn comes (R378, R380, R381, R373). -/
inductive MAct where
  | mma (acc : Nat) (acz sat : Bool) (chunks : List Chunk)
  | zero (acc : Nat)
  | move (dst src : Nat)
  | load (acc : Nat) (vals : List Nat)
  | store (acc : Nat) (rows : List Nat) (fmt : Nat)
  | pop
deriving DecidableEq, Repr, Inhabited

/-- An accepted operation of a matrix unit (R367). -/
structure MOp where
  act : MAct
  claims : List (Nat × BitVec 32)
  /-- The slot that waits for a `macc.st`, and whether the word is its A word. -/
  slot : Option (Nat × Bool)
  /-- For a remote command: the request to answer, and its capability entry. -/
  remote : Option (Pkt × Nat)
  started : Bool
  /-- The rows a `macc.st` has written, bit by bit (R381). -/
  gone : Nat
  /-- Its number in the unit's order of acceptance (R386). -/
  num : Nat
deriving DecidableEq, Repr

/-- A product as its word gives it (R376): form 0 dense, 1 and 2 sparse at N 16 and 8, 3 MX. -/
structure Prod where
  form : Nat
  acc : Nat
  acz : Bool
  a : Nat
  b : Nat
  m : Nat
  kch : Nat
deriving DecidableEq, Repr, Inhabited

/-- What a slot's fetch reads: the tiles of a product, by their first tile numbers, or the rows of a `macc.ld` (R377, R381). -/
inductive MJob where
  | product (p : Prod) (tA tB tM : BitVec 32)
  | rows (acc : Nat) (offs : List Nat) (fmt : Nat)
deriving DecidableEq, Repr, Inhabited

/-- A fetch under way for a slot's C or A word (R377). -/
structure MFetch where
  slot : Nat
  half : Bool
  job : MJob
  /-- The 16-byte granules of the core's memory read so far, by key (R41, R50). -/
  got : List (Nat × List Byte)
  /-- The remote command that fetches, with its capability entry (R385); its `slot` is 8. -/
  remote : Option (Pkt × Nat)
  /-- Whether its word is one of a pair, and then what it has read, until the pair completes (R284). -/
  pair : Bool
  act : Option MAct
deriving DecidableEq, Repr, Inhabited

/-- The remote command at the head of the queue once it has passed its start checks (R385): its capability entry, the product it asks for or its action, and the
claims of a product once they are met. -/
structure Begun where
  entry : Nat
  prod : Option Prod
  act : Option MAct
  job : Option MJob
deriving DecidableEq, Repr

/-- Where an image stands: the keys and lengths of its pieces, in ascending address (R387). -/
abbrev Img := List (Nat × Nat)

/-- A core's matrix unit (R256, R367, R368). -/
structure Matrix where
  own : Option (BitVec 12)
  /-- Where the image being loaded stands (MXOWN.LOAD). -/
  loading : Option Img
  ovf : Bool
  acc : Vector (List Nat) 4
  rings : Vector Ring 8
  ops : List MOp
  /-- Fetches under way, and the freeze under way: its slot, and the place of the image for `msave` (R256, R377, R387). -/
  fetches : List MFetch
  freezing : Option (Nat × Option Img)
  remq : List Pkt
  begun : Option Begun
  /-- The unit started a remote operation last (R234). -/
  lastRemote : Bool
  /-- Operations accepted so far (R386). -/
  taken : Nat
deriving DecidableEq, Repr

/-- A ring that is not configured. -/
def Ring.empty : Ring := { cfg := 0, tail := 0, head := 0, claim := 0, claims := [], fed := (0, 0) }

/-- An ownerless unit: zero accumulators, no ring configured (R256). -/
def Matrix.empty : Matrix :=
  { own := none, loading := none, ovf := false, acc := Vector.replicate 4 (List.replicate 1024 0),
    rings := Vector.replicate 8 Ring.empty, ops := [], fetches := [], freezing := none, remq := [], begun := none, lastRemote := false, taken := 0 }

/-- A steal request of a core's deque unit, by the number its `dq.pop` waits on (R246): the victim being tried, and its answer. -/
structure Steal where
  id : Nat
  slot : Nat
  ctx : BitVec 12
  j : Nat
  ans : Option (Option (List Word))
deriving DecidableEq, Repr, Inhabited

/-- A core of a bed or a rim die: its control-page registers and units. -/
structure Core where
  /-- The slot that issued last (R248); 7 at reset (DESIGN CHOICE, assumption 156). -/
  lastSlot : Nat
  mxbase : Word
  cecnt : Nat
  uecnt : Nat
  lastErr : Nat
  ctBusy : Option (Nat × Nat)
  txctl : Word
  txMiss : Nat
  txRefault : Nat
  fw0 : Word
  fw1 : Word
  iva : Word
  mqhead : BitVec 32
  mqtail : BitVec 32
  missq : Tbl (List Word)
  tlb : Tbl TlbE
  /-- TLB entries by hit, least recent first, and the misses outstanding: entry and slot (R156). -/
  tlbUse : List Nat
  tlbMiss : List (Nat × Nat)
  /-- Misses of engines on other modules that this core has sent on: engine unit, index and kind, with
  the route entry and module the fill goes back by, then the TLB entry and the program address (R121, R162). -/
  farMiss : List ((Nat × Nat × Nat × Nat × Nat) × Nat × Word)
  doms : Tbl Word
  bars : Tbl Bar
  scnt : Tbl (BitVec 32)
  scntWait : Tbl (List (Nat × Nat))
  dqbot : BitVec 32
  dqtop : BitVec 32
  stealord : Word
  spret : Word
  dqRsv : Nat
  steals : List Steal
  mbhead : BitVec 32
  mbtail : BitVec 32
  mbrsv : Nat
  chans : Tbl Chan
  qBusy : Bool
  qDone : Bool
  qCtx : BitVec 12
  qPeers : Nat
  qLocal : Bool
  fit : Word
  grdy : Bool
  sbuf : List SbEntry
  icache : Tbl (List Byte)
  /-- The one vector register set of a rim core (R214). -/
  rv : Vector VReg 32
  rm : Vector Word 8
  mx : Matrix
deriving DecidableEq, Repr

/-- A core at the reset values of its registers. -/
def Core.empty : Core :=
  { mxbase := 0, cecnt := 0, uecnt := 0, lastErr := 0, ctBusy := none, txctl := 0, txMiss := 0, txRefault := 0, fw0 := 0, fw1 := 0,
    iva := 0, mqhead := 0, mqtail := 0, missq := [], tlb := [], tlbUse := [], tlbMiss := [], farMiss := [], doms := [], bars := [], scnt := [],
    scntWait := [], dqbot := 0, dqtop := 0, stealord := 0, spret := 0, dqRsv := 0, steals := [], mbhead := 0, mbtail := 0, mbrsv := 0,
    chans := [], qBusy := false, qDone := false, qCtx := 0, qPeers := 0, qLocal := false, fit := 0x7FC00000, grdy := false,
    sbuf := [], lastSlot := 7, icache := [], rv := Vector.replicate 32 0, rm := (Vector.replicate 8 0).set 0 (BitVec.allOnes 64),
    mx := Matrix.empty }

/-! ### Engines, FIFOs, events, beds and dies -/

/-- A region-table entry (R179). -/
structure Region where
  mode : Nat
  die : Nat
  stk : Nat
  frame : Nat
  wfz : Bool
  stamp : Word
deriving DecidableEq, Repr

/-- MODE 3, NONE: every entry from reset until it is written (R179). -/
def Region.none : Region := { mode := 3, die := 0, stk := 0, frame := 0, wfz := false, stamp := 0 }

/-- A header on another module being read for a probe (R105, R135). -/
structure Peek where
  probe : Nat
  /-- The read in flight: its number. -/
  rd : Nat
  /-- The region entry of the other module, once read (R105), and the header words, once read. -/
  entry : Option Region
  words : Option (List Word)
deriving DecidableEq, Repr

/-- An engine: a copy engine, a stash encoder or a graft unit (R103, R121, R124, R138). -/
structure Engine where
  queue : List Pkt
  active : Option Pkt
  /-- Elements moved, the running checksum, and whether the header was read, of the active command. -/
  pos : Nat
  ck : Nat
  /-- Stream bits not yet folded or given on: how many, and their value (R108, R119). -/
  rest : Nat × Nat
  /-- The miss the active command waits on: program address, whether it writes, and the TLB entry its message named once sent (R162). -/
  miss : Option (Word × Bool × Option Nat)
  /-- Misses sent for probes: the probe's number, the TLB entry named, and whether the page was not present (R135, R162). -/
  probes : List (Nat × Nat × Bool)
  tlb : Tbl TlbE
  /-- Quench refusals: owner module and context. -/
  refuse : List (Nat × Nat)
  /-- The armed stream fault: system address and mask (R456). -/
  armed : Option (Word × BitVec 32)
  /-- Region entries of another module read for the active command: module, region, entry (R105). -/
  foreign : List (Nat × Nat × Region)
  /-- The read of such an entry in flight: its number, the module and the region. -/
  ent : Option (Nat × Nat × Nat)
  /-- Bytes read for the work in hand, by system address, and the read in flight: its number and system address. -/
  got : List (Nat × List Byte)
  rd : Option (Nat × Nat)
  /-- Writes not yet acknowledged: their number, the position they stand at, and their program address. -/
  outs : List (Nat × Nat × Word)
  /-- What has ended the active command: status, FADDR and NACK INFO (R122). -/
  err : Option (Nat × Word × Word)
  /-- A stash region's header as read, and the command's counts: exceeding blocks, non-finite elements, largest error (R132). -/
  hdr : List Byte
  sums : Nat × Nat × Nat
  /-- The watermark last reported (R112). -/
  wm : Word
  /-- Module and range of each tensor's first translated byte (R122). -/
  sKey : Option (Nat × Rng)
  dKey : Option (Nat × Rng)
  /-- The engine has work of the active command to finish before it acknowledges a quench (R124). -/
  quenched : Bool
  /-- Headers on other modules being read for probes (R135). -/
  peeks : List Peek
deriving DecidableEq, Repr

/-- An idle engine. -/
def Engine.empty : Engine :=
  { queue := [], active := none, pos := 0, ck := 0, rest := (0, 0), miss := none, probes := [], tlb := [], refuse := [], armed := none, foreign := [], ent := none,
    got := [], rd := none, outs := [], err := none, hdr := [], sums := (0, 0, 0), wm := 0, sKey := none, dKey := none, quenched := false, peeks := [] }

/-- A named FIFO (R119, R120). -/
structure Fifo where
  en : Bool
  ctx : BitVec 12
  ownMod : BitVec 12
  bytes : List Byte
  /-- Producers and consumers in order of arrival, by the number of their command packets; the first is active (R119). -/
  prod : List Nat
  cons : List Nat
deriving DecidableEq, Repr, Inhabited

/-- An event record (R261). -/
structure EvRec where
  stamp : Word
  src : Nat
  slot : Nat
  fatal : Bool
  ty : Nat
  ctx : Nat
  d0 : Word
  d1 : Word
deriving DecidableEq, Repr, Inhabited

/-- An event staging buffer (R263), with the events whose sources it holds, and those that have entered since while the action that raised them is still
stopped. -/
structure Staging where
  recs : List EvRec
  held : List EvRec
  owed : List EvRec
deriving DecidableEq, Repr, Inhabited

/-- A launch-queue record with its ARRTS, whether it was found unplaceable, and the slots it has displaced threads from (R239, R240, R243). -/
structure LaunchRec where
  words : List Word
  arrts : Word
  blk : Bool
  victims : List Nat
deriving DecidableEq, Repr, Inhabited

/-- A running gang: what its end needs and how many threads live (R244). -/
structure Gang where
  alive : Nat
  cbar : Option (Nat × Nat)
  evt : Bool
  tag : BitVec 32
  ctx : BitVec 12
deriving DecidableEq, Repr, Inhabited

/-- An entry of a bed's barrier fabric (R220). -/
structure DomE where
  w0 : Word
  bcmp : BitVec 32
  /-- Reports in, by barrier: barrier and core. -/
  reps : List (Nat × Nat)
deriving DecidableEq, Repr, Inhabited

/-- A report on its way to a fabric or held there: core, barrier, level and DOM value at the report (R220, R221). -/
structure BarRep where
  bed : Nat
  core : Nat
  bar : Nat
  level : Nat
  dom : Word
  atFabric : Bool
deriving DecidableEq, Repr, Inhabited

/-- RSTST and the reset under way (R475, R476). -/
structure Reset where
  state : Nat
  reqc : Bool
  reqm : Bool
  count : BitVec 32
  rstts : Word
  readyts : Word
  /-- Firmware has still to rewrite the bed's Trellis copy and restore the bed (R476, R478). -/
  owed : Bool
deriving DecidableEq, Repr, Inhabited

/-- A bed: its control blocks, units and landing queues. -/
structure Bed where
  ctxTab : Tbl Word
  opCtx : BitVec 12
  opBusy : Option Nat
  opDone : Bool
  /-- The units that have carried out the operation (R238). -/
  opUnits : List Nat
  lq : Tbl (List LaunchRec)
  lqctl : Word
  /-- A placement step is due (R241). -/
  placing : Bool
  dtab : Tbl DomE
  reps : List BarRep
  stage : Staging
  vce : Tbl Nat
  vue : Tbl Nat
  vlast : Tbl Nat
  rst : Reset
  gangs : Tbl Gang
  engines : Tbl Engine
  fifos : Tbl Fifo
  graft : Engine
  rcache : Tbl Region
  landing : Tbl (List Pkt)
  clock : Nat
deriving DecidableEq, Repr

/-- A bed at its reset values. -/
def Bed.empty : Bed :=
  { ctxTab := [], opCtx := 0, opBusy := none, opDone := false, opUnits := [], lq := [], lqctl := 0, placing := false, dtab := [], reps := [],
    stage := { recs := [], held := [], owed := [] }, vce := [], vue := [], vlast := [],
    rst := { state := 0, reqc := false, reqm := false, count := 0, rstts := 0, readyts := 0, owed := false }, gangs := [], engines := [],
    fifos := [], graft := Engine.empty, rcache := [], landing := [], clock := 0 }

/-- A rim die: its control blocks and units. -/
structure Rim where
  regions : Tbl Region
  /-- Word 0 of an entry, held until word 1 is stored (R179). -/
  heldW0 : Tbl Word
  stage : Staging
  engines : Tbl Engine
  encs : Tbl Engine
  fifos : Tbl Fifo
  hce : Tbl Nat
  hue : Tbl Nat
  hlast : Tbl Nat
  landing : List Pkt
deriving DecidableEq, Repr

/-- A rim die at its reset values. -/
def Rim.empty : Rim :=
  { regions := [], heldW0 := [], stage := { recs := [], held := [], owed := [] }, engines := [], encs := [], fifos := [], hce := [], hue := [],
    hlast := [], landing := [] }

/-- A Spire link end: SPST (R101), the replay and reassembly state of R71 to R73. -/
structure Spire where
  state : Nat
  farmod : BitVec 12
  fardie : BitVec 1
  farlink : BitVec 4
  resent : Nat
  lat : BitVec 16
  trained : Bool
  /-- The replay slot of the next frame, and the frames not yet acknowledged, oldest first, each with the times it has been sent again (R72). -/
  txSlot : Nat
  txBuf : List (BitVec 320 × Nat)
  /-- Every frame put on the line so far, newest last (R71). -/
  line : List (BitVec 320)
  /-- Credits to return to the sender, by lane and class (R71, R73). -/
  owed : Tbl Nat
  /-- The replay slot last accepted, whether frames are being discarded, and flits received so far by lane and class. -/
  rxSlot : Nat
  /-- A frame has been accepted since the link came up. -/
  rxAny : Bool
  rxDiscard : Bool
  rx : Tbl (List (BitVec 256))
  credits : Tbl Nat
deriving DecidableEq, Repr

/-- A link that is down and has never trained. -/
def Spire.down : Spire :=
  { state := 0, farmod := 0, fardie := 0, farlink := 0, resent := 0, lat := 0, trained := false, txSlot := 0, txBuf := [], line := [], owed := [],
    rxSlot := 255, rxAny := false, rxDiscard := false, rx := [], credits := [] }

/-- A population slot of the ranker (R140, R141, R152). -/
structure PopSlot where
  valid : Bool
  gobusy : Bool
  ctx : BitVec 12
  ownMod : BitVec 12
  place : Place
  header : List Word
  members : List (BitVec 32)
  legs : Tbl (BitVec 256 × Nat)
  snapts : Word
  grafted : Nat
  skipped : Nat
  failed : Nat
  late : Nat
  lnext : BitVec 32
deriving DecidableEq, Repr, Inhabited

/-- One pair of a running go (R144, R148). -/
structure Pair where
  i : Nat
  winner : Nat
  loser : Nat
  lslot : BitVec 32
  taken : Bool
  /-- Its reported status, whether it has been handed to a graft unit, the number of its record's write and whether that has been performed. -/
  status : Option Nat
  started : Bool
  record : Option Nat
  recorded : Bool
  /-- The number of the packet that handed it to its loser's module (R152). -/
  handed : Option Nat
deriving DecidableEq, Repr, Inhabited

/-- A region move of the firmware (R183): the regions, their placements when it began, the step, its STAMP once drawn, and the rim dies it has still to write. -/
structure Move where
  a : Nat
  x : Nat
  ea : Region
  ex : Region
  step : Nat
  stamp : Option Word
  left : List Nat
deriving DecidableEq, Repr

/-- The running go (R142): the slot, T, the requests sent and the snapshots captured by member. -/
structure Go where
  slot : Nat
  /-- Where the `graft.go` was issued: IBAR is a barrier of that core. -/
  place : Place
  t : Word
  /-- The model's number of the go. -/
  id : Nat
  asked : List Nat
  snaps : Tbl (Word × Bool)
  late : Nat
  ranked : Bool
  pairs : List Pair
  quenched : Bool
deriving DecidableEq, Repr, Inhabited

/-- The ranker of link die 1 (R142, R152). -/
structure Ranker where
  slots : Tbl PopSlot
  /-- Goes queued: the population slot, and where `graft.go` was issued. -/
  queue : List (Nat × Place)
  go : Option Go
  refuse : List (Nat × Nat)
  /-- Slot images of `graft.cfg` and reads of `graft.stat` on the control plane, by the number the instruction waits on (R399, R400). -/
  cfgs : List (Nat × Place × Nat × PopSlot)
  stats : List (Nat × Place × Nat × Nat)
  /-- Reports of graft units on their way: the go's number, the pair and its status. -/
  reports : List (Nat × Nat × Nat)
  /-- Pages of a lineage ring that the ranker has been given, and the pair whose record waits for one (R121, R149). -/
  tlb : Tbl TlbE
  asked : Option Nat
deriving DecidableEq, Repr

/-- An exchange store in flight (R204, R409): the block cycle at which it reaches its bank. -/
structure XStore where
  place : Place
  unit : Nat
  core : Nat
  off : Nat
  data : Word
  due : Nat
  xb : Word
  /-- The address of its word. -/
  pc : Word
  links : List (Nat × Nat × Nat × Nat)
deriving DecidableEq, Repr, Inhabited

/-- An abort on its way to or held by a barrier fabric (R260). -/
structure XAbort where
  bed : Nat
  level : Nat
  dom : Nat
  span : Bool
  src : Nat
  slot : Nat
  cause : Nat
  sub : Nat
  /-- The block cycle in which the fault was detected. -/
  cyc : Nat
  reported : Bool
deriving DecidableEq, Repr, Inhabited

/-- A request that is sent again after a wait (R106, R158, R171, R182, R247). -/
structure Retry where
  pkt : Pkt
  /-- 0: BUSY, after 256 cycles; 1: FROZEN, after 1 µs; 2: the route entry has to be valid again (R92); 3: a region entry of another module has to come
  (R105); 4: a migration answered BUSY, after its back-off (R171). -/
  why : Nat
deriving DecidableEq, Repr

/-- A read or write of module memory that the control node has asked for (R465): its address, its length and what a write writes. -/
structure HpReq where
  write : Bool
  addr : Nat
  n : Nat
  bytes : List Byte
deriving DecidableEq, Repr, Inhabited

/-- The management plane's own state (chapter 22). -/
structure Boot where
  /-- BOOTST (R470). -/
  state : Nat
  cause : Nat
  image : List Byte
  fwDigest : List Byte
  bootts : Word
  started : Bool
  broughtUp : Bool
  /-- FEATACC and whether its one write has been accepted (R5, R472). -/
  featAcc : BitVec 256
  featWritten : Bool
  /-- The first context has been created: a context table entry has been made valid (R5). -/
  ctxMade : Bool
  /-- TURNMASK's one write has been accepted (R86). -/
  turnWritten : Bool
  /-- Refusals reported in the management status. -/
  refused : Nat
  /-- Every bed is held in reset for temperature (R479). -/
  hot : Bool
  /-- The last answers given to the control node: kind and value. -/
  answers : List (Nat × List Byte)
deriving DecidableEq, Repr

/-- What made a write (R201): a thread, by name; a command on its way, by its packet's number; a command that its channel reports complete, by core and channel; or
nothing that a thread could learn of but by reading it. -/
inductive Maker where
  | other
  | thread (name : Nat)
  | command (id : Nat)
  | channel (core n : Nat)
deriving DecidableEq, Repr, Inhabited

/-- A write not yet performed for another path (R200): reader path, writer path, byte, what stood there before it, its number in the order in which writes
are performed at their homes, the cores for whose own LS reads it is performed already (R203), and what made it (R201). -/
structure Lag where
  reader : Path
  writer : Path
  key : Nat
  old : Byte
  id : Nat
  done : List Nat
  maker : Maker
deriving DecidableEq, Repr, Inhabited

/-- The half of a bundle in execution (R284). -/
inductive Half where
  | lone | c | a
deriving DecidableEq, Repr, Inhabited

/-- How a word ended its slot's turn before the bundle was complete. -/
inductive Ended where
  | no | trap | wait | gone
deriving DecidableEq, Repr, Inhabited

/-- The bundle in execution: the model's own, rewritten at each issue.  `snap` holds the thread as it stood before the bundle,
for the operands of the second word (R284 rule 1). -/
structure Cur where
  place : Place
  pc : Word
  cword : BitVec 32
  aword : Option (BitVec 32)
  next : Word
  half : Half
  snap : Option Thread
  ended : Ended
  jumped : Bool
  /-- A trap taken once the bundle is complete: cause and SUB (R251). -/
  pend : Option (Nat × Nat)
  /-- The slot sits out some cycles once the bundle is complete (R411). -/
  rest : Bool
  /-- Both words of the pair have passed their checks, made on what stood before it: the second one's effect follows (R251, R284); `fault` is a trap it
  still meets, cause, SUB, `eaddr` and details, which cancels both. -/
  commit : Bool
  fault : Option (Nat × Nat × Word × Word × Word)
  /-- The trap of the word was caused by a timed block though none is open (R223, R250). -/
  xfault : Bool
  /-- The pieces of a long access that this turn makes, as a mask; 0 for all of them (R190). -/
  part : Nat
  /-- The latency of the result where the operands decide it; 0 where its table gives it (R302, R345, R350). -/
  lat : Nat
  /-- The hit counts of the core's TLB before the bundle: a bundle that waits has made no access yet (R155). -/
  hot : List (Nat × Nat)
  /-- The translations the bundle's accesses have made in this turn: program address, kind and system address (R155). -/
  hits : List (Word × Kind × Word)
deriving DecidableEq, Repr

/-- No bundle. -/
def Cur.none : Cur :=
  { place := ⟨0, 0, 0⟩, pc := 0, cword := 0, aword := Option.none, next := 0, half := .lone, snap := Option.none, ended := .no,
    jumped := false, pend := Option.none, rest := false, commit := false, fault := Option.none, xfault := false, part := 0, lat := 0, hot := [], hits := [] }

/-! ### The module -/

/-- One module. -/
structure State where
  /-- Every byte of storage, in canonical form. -/
  mem : List Host.Cell
  /-- The FUTURE words that are full (R51), by byte key over 8. -/
  tags : List Nat
  /-- Soft errors by the first byte their code covers, an 8-byte word or an HBM granule: the bit or symbol hit, or none for an uncorrectable one (R61 to R63,
  R186). -/
  errs : List (Nat × Option Nat)
  /-- Writes not yet performed for other paths, in coherence order (R200), the number of the next write, and by thread name the numbers of the writes a
  thread has observed (R201). -/
  lag : List Lag
  writes : Nat
  seen : Tbl (List Nat)
  /-- What makes the writes of this turn; by word or by what threads synchronise on, the numbers of the writes that its releases have observed; and by thread name those
  that its loads have met and that a fence lets it observe (R197, R201). -/
  maker : Maker
  rels : Tbl (List Nat)
  heard : Tbl (List Nat)
  /-- Slots by `(unit · 128 + core) · 8 + slot`, and cores by `unit · 128 + core`. -/
  slots : Tbl Slot
  cores : Tbl Core
  beds : Tbl Bed
  rims : Tbl Rim
  /-- Spire links by `die · 12 + link`. -/
  spires : Tbl Spire
  /-- Region caches of the two link dies (R181). -/
  linkCache : Tbl (Tbl Region)
  turnmask : Word
  /-- Panel links and ports marked down: router X and Y, and direction 0 to 3, 4 vault port or 5 edge port (R70, R102). -/
  down : List (Nat × Nat × Nat)
  /-- Flits that have failed once and were resent (R70). -/
  flitErr : List (Nat × Nat × Nat)
  /-- The link die 0 event queue and the event ring's registers (R263, R467). -/
  evq : List EvRec
  linkHeld : List EvRec
  linkOwed : List EvRec
  /-- The region move of the firmware under way (R183). -/
  move : Option Move
  evrb : Word
  evpw : Word
  evcons : Word
  evprod : Word
  /-- Reservation and waiter tables by bank, oldest first (R207, R326): the slot and the word's key, plus 1 while a reservation is
  protected (R328). -/
  resvs : Tbl (List (Nat × Nat))
  waiters : Tbl (List (Nat × Nat))
  ranker : Ranker
  pkts : List Pkt
  retries : List Retry
  /-- Packets that have left over a Spire link, newest last. -/
  outbox : List Pkt
  /-- SPAN 1 reports at link die 0: bed, level, domain, barrier, mask (R220). -/
  ld0 : List (Nat × Nat × Nat × Nat × Nat)
  /-- SPAN 1 releases on their way: bed, level, domain, barrier. -/
  releases : List (Nat × Nat × Nat × Nat)
  xstores : List XStore
  xaborts : List XAbort
  /-- Host-window writes performed at the Lantern port that have not left it yet, oldest first, with the name of the thread that stored (R187, R208): the control
  node sees a write once it has left. -/
  hostOut : List (Pkt × BitVec 15)
  /-- Accesses of the control node that have been received and not yet served, oldest first (R465). -/
  hpq : List HpReq
  /-- Quench refusals of the gateways: owner module and context (R124). -/
  gateRefuse : List (Nat × Nat)
  /-- Quenches under way: owner module, context, and the core (unit, core) that asked. -/
  quenches : List (Nat × Nat × Nat × Nat × List Nat)
  boot : Boot
  /-- The feature register that decode reads (R5). -/
  feat : BitVec 256
  moduleNo : BitVec 12
  /-- The global timestamp (R6): one copy, since the copies' differences bound nothing a program can rely on. -/
  ts : Word
  /-- Frozen matrix units by the number their image's body carries (R257). -/
  frozen : Tbl Matrix
  /-- The model's own: the counter of free values, the turns to come, the bundle in execution, the event's arguments. -/
  free : Nat
  agenda : List Turn
  cur : Cur
  arg : EvArgs
deriving DecidableEq, Repr

/-- The module right after reset: no thread, nothing written, every register at its reset value (R179, R215, R472 and the
Reset columns). -/
def State.reset : State :=
  { mem := [], tags := [], errs := [], lag := [], writes := 0, seen := [], maker := .other, rels := [], heard := [], slots := [], cores := [], beds := [], rims := [], spires := [], linkCache := [],
    turnmask := 0xD471D471D471D471, down := [], flitErr := [], evq := [], linkHeld := [], linkOwed := [], move := none, evrb := 0, evpw := 0, evcons := 0,
    evprod := 0, resvs := [], waiters := [], ranker := { slots := [], queue := [], go := none, refuse := [], cfgs := [], stats := [], reports := [], tlb := [], asked := none }, pkts := [],
    retries := [], outbox := [], ld0 := [], releases := [], xstores := [], xaborts := [], hostOut := [], hpq := [], gateRefuse := [],
    quenches := [],
    boot := { state := 0, cause := 0, image := [], fwDigest := [], bootts := 0, started := false, broughtUp := false, featAcc := 0,
              featWritten := false, ctxMade := false, turnWritten := false, refused := 0, hot := false, answers := [] },
    feat := 0, moduleNo := 0, ts := 0, frozen := [], free := 0, agenda := [], cur := Cur.none, arg := default }

end Sys2Proof.Machine
end

