-- ==== Sys2Proof/Machine/Mem.lean ====
section
/-! DEFINITION. Storage: what a byte of memory reads as, the canonical list of the bytes that differ from it, and the writes
and reads that every other operation goes through.  A byte's key is its home address: the bed-space or rim-core address of a core's
byte through window 0, the vault's or the host window's module-local address, and for HBM the stack and stack-local address of R180. -/

namespace Sys2Proof.Machine

/-- Key of a byte of a bed core's or rim core's local memory (R17, R19, R23). -/
def coreKey (unit core off : Nat) : Nat :=
  if unit < 12 then unit * 2 ^ 36 + core * 2 ^ 24 + off
  else 0x1F * 2 ^ 44 + (unit - 16) * 2 ^ 28 + core * 2 ^ 20 + off

/-- Key of a vault byte (R17). -/
def vaultKey (bed v off : Nat) : Nat := bed * 2 ^ 36 + 2 ^ 31 + v * 2 ^ 26 + off

/-- Key of an HBM byte: its stack and stack-local address (R180). -/
def hbmKey (stack a : Nat) : Nat := 2 ^ 48 + stack * 2 ^ 36 + a

/-- Key of a host byte (R17). -/
def hostKey (pa : Nat) : Nat := 2 ^ 51 + pa

/-- Whether a key names a byte of a bed core's local memory. -/
def isBedCore (k : Nat) : Bool := k < 12 * 2 ^ 36 && k % 2 ^ 36 < 2 ^ 31

/-- Whether a key names a byte of a rim core's memory. -/
def isRimCore (k : Nat) : Bool := 0x1F * 2 ^ 44 ≤ k && k < 0x20 * 2 ^ 44

/-- Whether a key names a vault byte. -/
def isVault (k : Nat) : Bool := k < 12 * 2 ^ 36 && 2 ^ 31 ≤ k % 2 ^ 36

/-- Whether a key names an HBM byte. -/
def isHbm (k : Nat) : Bool := 2 ^ 48 ≤ k && k < 0x1F * 2 ^ 44

/-- What an unlisted byte reads as: the default tables of R52 and R53 in a bed core's system area, else zero (R67; for rim cores, HBM
and the host the spec gives no power-on contents: DESIGN CHOICE, assumption 1). -/
def memDefault (k : Nat) : Byte :=
  let off := k % 2 ^ 24
  if isBedCore k then
    if 0xFC800 ≤ off ∧ off < 0xFCC00 then BitVec.ofNat 8 (defaultCode 0 ((off - 0xFC800) / 4) / 256 ^ (off % 4))
    else if 0xFCC00 ≤ off ∧ off < 0xFCC10 then BitVec.ofNat 8 (defaultInt4 (off - 0xFCC00))
    else 0
  else 0

/-- The byte at a key. -/
def memGet : List Host.Cell → Nat → Byte
  | [], k => memDefault k
  | (a, b) :: r, k => if a = k then b else memGet r k

/-- Insert a byte that differs from the default, keeping the addresses rising. -/
def memInsert : List Host.Cell → Nat → Byte → List Host.Cell
  | [], k, b => [(k, b)]
  | (a, c) :: r, k, b =>
    if a < k then (a, c) :: memInsert r k b
    else if a = k then (k, b) :: r
    else (k, b) :: (a, c) :: r

/-- Drop a byte's entry. -/
def memErase : List Host.Cell → Nat → List Host.Cell
  | [], _ => []
  | (a, c) :: r, k => if a = k then r else (a, c) :: memErase r k

/-- Write one byte, keeping the canonical form. -/
def memSet (m : List Host.Cell) (k : Nat) (b : Byte) : List Host.Cell :=
  if b = memDefault k then memErase m k else memInsert m k b

/-- The canonical form: addresses strictly rising, no entry equal to what an unlisted address reads as. -/
def Memory.wf : List Host.Cell → Bool
  | [] => true
  | (a, b) :: r => b != memDefault a && r.all (fun e => a < e.1) && Memory.wf r

/-- Write bytes at rising keys. -/
def memSetMany (m : List Host.Cell) (k : Nat) : List Byte → List Host.Cell
  | [] => m
  | b :: r => memSetMany (memSet m k b) (k + 1) r

/-- Read `n` bytes at rising keys. -/
def memGetMany (m : List Host.Cell) (k n : Nat) : List Byte := (List.range n).map fun i => memGet m (k + i)

/-- Insert into a rising list. -/
def setInsert : List Nat → Nat → List Nat
  | [], k => [k]
  | a :: r, k => if a < k then a :: setInsert r k else if a = k then a :: r else k :: a :: r

/-- Whether the FUTURE word that holds a key is full (R51). -/
def tagFull (s : State) (k : Nat) : Bool := s.tags.contains (k / 8)

/-- Set or clear the tag of the FUTURE word that holds a key. -/
def setTag (s : State) (k : Nat) (full : Bool) : State :=
  { s with tags := if full then setInsert s.tags (k / 8) else s.tags.filter (· != k / 8) }

/-- The table a reservation on a location stands in: its core memory, vault bank or pseudo-channel (R326). -/
def resBank (k : Nat) : Nat :=
  if isBedCore k || isRimCore k then k / 2 ^ 20 * 2 ^ 20
  else if isVault k then k / 2 ^ 26 * 2 ^ 26 + k / 64 % 16
  else k / 2 ^ 36 * 2 ^ 36 + k / 256 % 512

/-- The bank whose waiter table a slot registers in (R41, R57, R207, R326). -/
def waitBank (k : Nat) : Nat :=
  if isBedCore k then resBank k + k / 16 % 32
  else if isRimCore k then resBank k + k / 16 % 16
  else resBank k

/-- Key of the slot at a place, and of its core. -/
def slotKey (p : Place) : Nat := (p.unit * 128 + p.core) * 8 + p.slot
def unitKey (unit core : Nat) : Nat := unit * 128 + core

/-- The slot at a place, and writing it. -/
def State.slot (s : State) (p : Place) : Slot := Tbl.get Slot.empty s.slots (slotKey p)
def State.setSlot (s : State) (p : Place) (x : Slot) : State := { s with slots := Tbl.set s.slots (slotKey p) x }
def State.modSlot (s : State) (p : Place) (f : Slot → Slot) : State := s.setSlot p (f (s.slot p))

/-- The core `core` of `unit`, and writing it. -/
def State.core (s : State) (unit core : Nat) : Core := Tbl.get Core.empty s.cores (unitKey unit core)
def State.setCore (s : State) (unit core : Nat) (x : Core) : State := { s with cores := Tbl.set s.cores (unitKey unit core) x }
def State.modCore (s : State) (unit core : Nat) (f : Core → Core) : State := s.setCore unit core (f (s.core unit core))

/-- A bed, and writing it. -/
def State.bed (s : State) (b : Nat) : Bed := Tbl.get Bed.empty s.beds b
def State.setBed (s : State) (b : Nat) (x : Bed) : State := { s with beds := Tbl.set s.beds b x }
def State.modBed (s : State) (b : Nat) (f : Bed → Bed) : State := s.setBed b (f (s.bed b))

/-- A rim die by its number 0 to 5, and writing it. -/
def State.rim (s : State) (k : Nat) : Rim := Tbl.get Rim.empty s.rims k
def State.setRim (s : State) (k : Nat) (x : Rim) : State := { s with rims := Tbl.set s.rims k x }
def State.modRim (s : State) (k : Nat) (f : Rim → Rim) : State := s.setRim k (f (s.rim k))

/-- A Spire link end, and writing it. -/
def State.spire (s : State) (die link : Nat) : Spire := Tbl.get Spire.down s.spires (die * 12 + link)
def State.setSpire (s : State) (die link : Nat) (x : Spire) : State := { s with spires := Tbl.set s.spires (die * 12 + link) x }

/-! ### Events (R261 to R263) -/

/-- The source number of a unit's core on this module (R8). -/
def State.srcNum (s : State) (unit core : Nat) : Nat := s.moduleNo.toNat * 4096 + unit * 128 + core

/-- Room for a record in a 64-entry staging buffer, of which four entries take only fatal records (R263); every record counts towards the other 60
(assumption 186). -/
def stagingRoom (recs : List EvRec) (fatal : Bool) : Bool := decide (recs.length < if fatal then 64 else 60)

/-- Room in the 1,024-entry queue of link die 0 (R263). -/
def queueRoom (q : List EvRec) : Bool := decide (q.length < 1024)

/-- Whether a new record enters a buffer that has room as `room` says, with these held records: a fatal one passes held records of other sources (R263). -/
def entersNow (room : Bool → Bool) (held : List EvRec) (e : EvRec) : Bool :=
  room e.fatal && held.all fun h => e.fatal && h.src != e.src

/-- The held record that enters next, and those still held: the first for which an entry is free, records of one source in order (R263). -/
def nextHeld (room : Bool → Bool) : List EvRec → List EvRec → Option (EvRec × List EvRec)
  | _, [] => none
  | b, e :: rest =>
    if room e.fatal && b.all fun h => h.src != e.src then some (e, b ++ rest) else nextHeld room (b ++ [e]) rest

/-- Whether two records tell the same event, whenever each was raised: the outcome code of a CTX event, which is free, tells nothing (R238). -/
def EvRec.same (e f : EvRec) : Bool := decide ({ e with stamp := f.stamp, d1 := if e.ty = 0xD then f.d1 else e.d1 } = f)

/-- Add a record to a staging buffer, or to the held events of its unit while no entry is free; a record that entered while its action was stopped is in
already (R263). -/
def Staging.add (g : Staging) (e : EvRec) : Staging :=
  match g.owed.findIdx? e.same with
  | some i => { g with owed := g.owed.eraseIdx i }
  | none =>
    if entersNow (stagingRoom g.recs) g.held e then { g with recs := g.recs ++ [e] } else { g with held := g.held ++ [e] }

/-- The oldest waiting event of a buffer enters it when an entry is free for it (R263). -/
def Staging.letIn (g : Staging) : Staging :=
  match nextHeld (stagingRoom g.recs) [] g.held with
  | none => g
  | some (e, rest) => { recs := g.recs ++ [e], held := rest, owed := g.owed ++ [e] }

/-- The staging buffer of a bed or rim die, and writing it. -/
def State.stage (s : State) (unit : Nat) : Staging := if unit < 12 then (s.bed unit).stage else (s.rim (unit - 16)).stage
def State.setStage (s : State) (unit : Nat) (g : Staging) : State :=
  if unit < 12 then s.modBed unit fun b => { b with stage := g } else s.modRim (unit - 16) fun r => { r with stage := g }

/-- Add a record to the link die 0 queue, or to the held events of the link dies (R263). -/
def State.addLink (s : State) (e : EvRec) : State :=
  match s.linkOwed.findIdx? e.same with
  | some i => { s with linkOwed := s.linkOwed.eraseIdx i }
  | none => if entersNow (fun _ => queueRoom s.evq) s.linkHeld e then { s with evq := s.evq ++ [e] } else { s with linkHeld := s.linkHeld ++ [e] }

/-- Put a record where its source's events go: a bed's or rim die's staging buffer, or the link die 0 queue (R263). -/
def State.pushEvent (s : State) (unit : Nat) (e : EvRec) : State :=
  if unit < 24 then s.setStage unit ((s.stage unit).add e) else s.addLink e

/-- Raise an event of R262 (`fatal` is the table's third column). -/
def State.raise (s : State) (unit core slot : Nat) (ty ctx : Nat) (d0 d1 : Word) : State :=
  s.pushEvent unit
    { stamp := s.ts, src := s.srcNum unit core, slot := slot, fatal := ty = 7 ∨ ty = 0xA ∨ ty = 0xB, ty := ty, ctx := ctx, d0 := d0,
      d1 := d1 }

/-- Whether a source of a unit waits for an entry: an action that is stopped, or a thread (R263, ESTAT.HELD). -/
def State.eventHeld (s : State) (unit : Nat) : Bool :=
  (if unit < 24 then decide ((s.stage unit).held ≠ []) else decide (s.linkHeld ≠ [])) ||
  s.slots.any fun e => e.1 / 1024 == unit && e.2.wait == some .event

/-- How many events wait for an entry on the module. -/
def State.heldCount (s : State) : Nat :=
  (s.beds.map fun e => e.2.stage.held.length).sum + (s.rims.map fun e => e.2.stage.held.length).sum + s.linkHeld.length

/-- Held records with those new ones among `now` that are not among them. -/
def heldMore (was now : List EvRec) : List EvRec :=
  (now.drop was.length).foldl (fun l e => if l.any e.same then l else l ++ [e]) was

/-- AN ACTION WHOSE EVENT FINDS NO ENTRY (R263): `r` is what it would leave.  A source that is no thread holds its event and the action does not happen; it
does when it is tried again after the event has entered. -/
def stopForEvent (s r : State) : State :=
  if r.heldCount ≤ s.heldCount then r
  else
    let t := [0, 1, 2, 3, 4, 5, 6, 7, 8, 9, 10, 11, 16, 17, 18, 19, 20, 21].foldl (fun t u =>
      if (r.stage u).held.length ≤ (s.stage u).held.length then t
      else t.setStage u { (s.stage u) with held := heldMore (s.stage u).held (r.stage u).held }) s
    { t with linkHeld := heldMore s.linkHeld r.linkHeld }

/-! ### Soft errors (R61 to R63, R66, R186) -/

/-- Add one, saturating at 0xFFFF. -/
def sat16 (n : Nat) : Nat := min (n + 1) 0xFFFF

/-- Bytes under one code: an 8-byte word, or a 64-byte granule of HBM (R61, R186). -/
def codeLen (k : Nat) : Nat := if isHbm k then 64 else 8

/-- The first byte under the code that covers a byte. -/
def codeBase (k : Nat) : Nat := k / codeLen k * codeLen k

/-- The soft error under the code that covers a byte: `none` inside for an uncorrectable one, else the bit or symbol hit. -/
def errOf (s : State) (k : Nat) : Option (Option Nat) := (s.errs.find? (fun e => e.1 == codeBase k)).map (·.2)

/-- Forget the soft error under the code at a base. -/
def clearErr (s : State) (base : Nat) : State := { s with errs := s.errs.filter (fun e => e.1 != base) }

/-- Count an error met at a key, in the register of its memory (R65, R66, R186). -/
def countErr (s : State) (k : Nat) (uncorr : Bool) : State :=
  let b := k / 2 ^ 36
  if isBedCore k || isRimCore k then
    let u := if isBedCore k then b else 16 + k / 2 ^ 28 % 8
    let c := if isBedCore k then k / 2 ^ 24 % 128 else k / 2 ^ 20 % 32
    let off := k % 2 ^ 20
    s.modCore u c fun x =>
      if uncorr then { x with uecnt := sat16 x.uecnt, lastErr := off / 8 * 8 } else { x with cecnt := sat16 x.cecnt }
  else if isVault k then
    let v := k / 2 ^ 26 % 16
    s.modBed b fun x =>
      if uncorr then { x with vue := Tbl.set x.vue v (sat16 (Tbl.get 0 x.vue v)), vlast := Tbl.set x.vlast v (k % 2 ^ 26 / 8 * 8) }
      else { x with vce := Tbl.set x.vce v (sat16 (Tbl.get 0 x.vce v)) }
  else if isHbm k then
    let st := k / 2 ^ 36 % 16
    s.modRim (st / 2) fun x =>
      if uncorr then
        { x with hue := Tbl.set x.hue (st % 2) (sat16 (Tbl.get 0 x.hue (st % 2))), hlast := Tbl.set x.hlast (st % 2) (k / 256 % 512) }
      else { x with hce := Tbl.set x.hce (st % 2) (sat16 (Tbl.get 0 x.hce (st % 2))) }
  else s

/-- What an UNCORR event names for a byte (R63, R262): the unit and core of its source, the number of the memory, its bank, and the offset in it of the first
byte under the code.  The spec names "the unit, the bank and the word offset" and gives neither their layout nor the source of a memory that is no core's.
DESIGN CHOICE (assumption 150): the source is the core whose memory it is, for a vault or a stack the bed or rim die with core 0; the memory's number is a core's
unit times 128 plus its core number, a vault's the same with its vault number and bit 12 set, a stack's the same with its stack number and bit 13 set. -/
def errPlace (k : Nat) : Nat × Nat × Nat × Nat × Nat :=
  let o := codeBase k
  if isBedCore k then (k / 2 ^ 36, k / 2 ^ 24 % 128, k / 2 ^ 36 * 128 + k / 2 ^ 24 % 128, k / 16 % 32, o % 2 ^ 20)
  else if isRimCore k then
    (16 + k / 2 ^ 28 % 8, k / 2 ^ 20 % 32, (16 + k / 2 ^ 28 % 8) * 128 + k / 2 ^ 20 % 32, k / 16 % 16, o % 2 ^ 20)
  else if isVault k then (k / 2 ^ 36, 0, 4096 + k / 2 ^ 36 * 128 + k / 2 ^ 26 % 16, k / 64 % 16, o % 2 ^ 26)
  else (16 + k / 2 ^ 36 % 16 / 2, 0, 8192 + (16 + k / 2 ^ 36 % 16 / 2) * 128 + k / 2 ^ 36 % 2, k / 256 % 512, o % 2 ^ 36)

/-- Meet an uncorrectable word: count it and raise the UNCORR event with slot 0 and context 0, the memory's number in bits 31:0 of its first detail word, the bank
in bits 63:32, and the offset in the second (R63, R262; DESIGN CHOICE, assumption 150). -/
def meetBad (s : State) (k : Nat) : State :=
  let (u, c, m, b, o) := errPlace k
  (countErr s (codeBase k) true).raise u c 0 3 0 (BitVec.ofNat 64 (m + b * 2 ^ 32)) (BitVec.ofNat 64 o)

/-- The soft errors under the codes that `n` bytes at a key touch. -/
def errsIn (s : State) (k n : Nat) : List (Nat × Option Nat) :=
  s.errs.filter fun e => decide (e.1 < k + n ∧ k < e.1 + codeLen e.1)

/-- Whether `n` bytes at a key meet an uncorrectable error, and then its word or granule. -/
def anyBad (s : State) (k n : Nat) : Option Nat := ((errsIn s k n).find? fun e => e.2.isNone).map (·.1)

/-- Correct the correctable errors that `n` bytes at a key touch (R62). -/
def correct (s : State) (k n : Nat) : State :=
  ((errsIn s k n).filter fun e => e.2.isSome).foldl (fun t e => clearErr (countErr t e.1 false) e.1) s

/-- Meet the soft errors of a read of `n` bytes: correctable ones are corrected and each uncorrectable one is reported (R62, R63); whether there was one. -/
def State.meet (s : State) (k n : Nat) : State × Bool :=
  let bad := (errsIn s k n).filter fun e => e.2.isNone
  (bad.foldl (fun t e => meetBad t e.1) (correct s k n), decide (bad ≠ []))

/-- A write of all the bytes under a code gives it fresh check bits; an uncorrectable word it meets is reported as in every case (R63). -/
def heal (s : State) (k n : Nat) : State :=
  let whole := fun (e : Nat × Option Nat) => decide (k ≤ e.1 ∧ e.1 + codeLen e.1 ≤ k + n)
  let t := (s.errs.filter fun e => whole e && e.2.isNone).foldl (fun t e => meetBad t e.1) s
  { t with errs := t.errs.filter fun e => !whole e }

/-! ### Reads and writes at the home -/

/-- A reader that is no core. -/
def noCore : Nat := 4096

/-- What is left of the writes pending for a reader once those for which `f` holds are performed for it: a write later in coherence order covers every one
before it (R200). -/
def dropPerformed (f : Lag → Bool) (l : List Lag) : List Lag := (l.reverse.takeWhile fun e => !f e).reverse

/-- What path `q` reads at a byte, on the core `who` where the path is LS: the list of pending writes stands in coherence order, and the reader sees what stood
before the first one that is not performed for it (R200). -/
def pathByte (s : State) (q : Path) (k : Nat) (who : Nat := noCore) : Byte :=
  match dropPerformed (fun l => l.done.contains who) (s.lag.filter fun l => l.reader == q && l.key == k) with
  | l :: _ => l.old
  | [] => memGet s.mem k

/-- Read bytes on a path. -/
def pathBytes (s : State) (q : Path) (k n : Nat) (who : Nat := noCore) : List Byte := (List.range n).map fun i => pathByte s q (k + i) who

/-- The paths that may read (R202). -/
def readers : List Path := [.ls, .ce, .mx, .se, .ge]

/-- Record that a write of path `p` at `k` is not yet performed for the other paths (R200): each still reads what it read before; for `p` itself it is
performed, and with it every earlier one. -/
def lagWrite (s : State) (p : Path) (k : Nat) : List Lag :=
  (s.lag.filter fun l => !(l.reader == p && l.key == k)) ++
  (readers.filter fun q => q != p).map fun q => { reader := q, writer := p, key := k, old := memGet s.mem k, id := s.writes, done := [], maker := s.maker }

/-- Write one byte at its home on a path, whatever its word's error state. -/
def putByte (s : State) (p : Path) (k : Nat) (b : Byte) : State :=
  { s with mem := memSet s.mem k b, lag := lagWrite s p k }

/-! ### What threads know of pending writes (R197, R201) -/

/-- Two lists of numbers as one without repeats. -/
def joinIds (a : List Nat) : List Nat → List Nat
  | [] => a
  | i :: r => if a.contains i then joinIds a r else joinIds (a ++ [i]) r

/-- Whether a thread, by name, has observed a write (R201): its own count, as the rows of R212 show (DEDUCED, assumption 35). -/
def State.knows (s : State) (name : Nat) (l : Lag) : Bool := l.maker == .thread name || (Tbl.get [] s.seen name).contains l.id

/-- The numbers of the pending writes for which `f` holds. -/
def State.pending (s : State) (f : Lag → Bool) : List Nat := joinIds [] ((s.lag.filter f).map (·.id))

/-- Put numbers to those under a key, dropping what is no longer pending. -/
def noteIds (s : State) (t : Tbl (List Nat)) (key : Nat) (ids : List Nat) : Tbl (List Nat) :=
  let old := (Tbl.get [] t key).filter fun i => s.lag.any fun l => l.id == i
  let all := joinIds old ids
  if all = [] then Tbl.erase t key else Tbl.set t key all

/-- A release on a word or on what threads synchronise on: an acquire of it takes over these observations (R197). -/
def State.release (s : State) (key : Nat) (ids : List Nat) : State := { s with rels := if ids = [] then s.rels else noteIds s s.rels key ids }

/-- The words that `n` bytes at a key touch, as keys of `rels`. -/
def relWords (k n : Nat) : List Nat := (List.range ((k + n + 7) / 8 - k / 8)).map (k / 8 + ·)

/-- A store of a thread at `n` bytes is a release of what the thread has observed (R193, R197). -/
def releaseStore (s : State) (k n : Nat) : State :=
  match s.maker with
  | .thread name =>
    let ids := s.pending (s.knows name)
    { s with rels := if ids = [] then s.rels else (relWords k n).foldl (fun r w => noteIds s r w ids) s.rels }
  | _ => s

/-- Where threads synchronise but by a word: a slot counter. -/
def counterKey (unit core n : Nat) : Nat := 2 ^ 60 + (unit * 128 + core) * 64 + n

/-- What a turn begins with: its arguments, and writes that no thread makes. -/
def beginEvent (s : State) (a : EvArgs) : State := { s with arg := a, maker := .other }

/-- The writes for which `f` holds become performed for their readers (R200). -/
def performFor (s : State) (f : Lag → Bool) : State :=
  if s.lag.any f then
    { s with lag := s.lag.filter fun l => !(s.lag.any fun e => f e && e.reader == l.reader && e.key == l.key && decide (l.id ≤ e.id)) }
  else s

/-- The writes for which `f` holds become performed for the LS reads of the cores `who` (R203). -/
def performOn (s : State) (who : List Nat) (f : Lag → Bool) : State :=
  { s with lag := s.lag.map fun l => if l.reader = .ls ∧ f l then { l with done := l.done ++ who.filter fun c => !(l.done.contains c) } else l }

/-- End every reservation on the words that `n` bytes at `k` touch (R327). -/
def endResv (s : State) (k n : Nat) : State :=
  { s with slots := s.slots.map fun e =>
      match e.2.resv with
      | some r => if k < r + 8 ∧ r < k + n then (e.1, { e.2 with resv := none }) else e
      | none => e }

/-- Let a slot that waits run again (it re-executes its bundle). -/
def Slot.wake (x : Slot) : Slot :=
  { x with wait := none, backoff := 0, st := if x.st = .wait then .run else x.st }

/-- Wake every slot whose wait meets a test on its key and wait. -/
def wakeIf (s : State) (f : Nat → Wait → Bool) : State :=
  { s with slots := s.slots.map fun e =>
      match e.2.wait with
      | some w => if f e.1 w then (e.1, e.2.wake) else e
      | none => e }

/-- Wake the slots of one core whose wait meets a test. -/
def wakeCore (s : State) (unit core : Nat) (f : Wait → Bool) : State :=
  wakeIf s fun k w => k / 8 == unitKey unit core && f w

/-- Wake the registered waiters of a bank on a location and clear their entries (R207, R326). -/
def wakeWaiters (s : State) (k : Nat) : State :=
  let b := waitBank k
  let mine := (Tbl.get [] s.waiters b).filter fun e => e.2 / 8 == k / 8
  let rest := (Tbl.get [] s.waiters b).filter fun e => e.2 / 8 != k / 8
  let s' := { s with waiters := if rest = [] then Tbl.erase s.waiters b else Tbl.set s.waiters b rest }
  wakeIf s' fun sk _ => mine.any fun e => e.1 == sk

/-- Wake the waiters on every word that `n` bytes at a key touch. -/
def wakeWords (s : State) (k n : Nat) : State := (List.range ((k % 8 + n + 7) / 8)).foldl (fun t i => wakeWaiters t (k + 8 * i)) s

/-- Write bytes of one aligned word: discarded when an uncorrectable error stands there, since the write does not cover all its code does (R63). -/
def putWord (s : State) (p : Path) (k : Nat) (bs : List Byte) : State :=
  match errOf s k with
  | some none => meetBad s k
  | _ =>
    let t := correct s k bs.length
    (List.range bs.length).foldl (fun u i => putByte u p (k + i) (bs.getD i 0)) t

/-- Write bytes at a key on a path, word by word, with what a write ends or wakes: reservations (R327), `wres` waiters (R326) and
parked route entries (R92, below). -/
def putWords (s : State) (p : Path) : Nat → Nat → List Byte → State
  | 0, _, _ => s
  | f + 1, k, bs =>
    if bs = [] then s
    else
      let n := 8 - k % 8
      putWords (putWord s p k (bs.take n)) p f (k + n) (bs.drop n)

/-- Whether a key lies in a core's route table, and then the entry's number (R35, R39). -/
def routeEntryOf (k : Nat) : Option (Nat × Nat × Nat) :=
  let off := k % 2 ^ 20
  if isBedCore k ∧ 0xF0000 ≤ off ∧ off < 0xF8000 then some (k / 2 ^ 36, k / 2 ^ 24 % 128, (off - 0xF0000) / 16)
  else if isRimCore k ∧ 0x30000 ≤ off ∧ off < 0x38000 then some (16 + k / 2 ^ 28 % 8, k / 2 ^ 20 % 32, (off - 0x30000) / 16)
  else none

/-- A store to a route entry lets the accesses parked on it go on when it leaves VALID = 1 (R92, R216): a slot still live is woken, and a
slot parked for that entry becomes READY. -/
def wakeRoute (s : State) (k : Nat) : State :=
  match routeEntryOf k with
  | none => s
  | some (u, c, n) =>
    if (memGet s.mem (k / 16 * 16 + 15)).getLsbD 2 then
      { s with slots := s.slots.map fun e =>
          if e.1 / 8 = unitKey u c ∧ e.2.wait = some (.route n) then
            (e.1, if e.2.st = .park ∧ e.2.parkWhy = 1 then { e.2 with st := .ready, parkWhy := 0, held := false, wait := none }
                  else e.2.wake)
          else e }
    else s

/-- Write bytes at their home on a path. -/
def State.put (s : State) (p : Path) (k : Nat) (bs : List Byte) : State :=
  if bs = [] then s
  else
    let t := putWords (heal s k bs.length) p (bs.length + 1) k bs
    let t := wakeRoute (wakeWords (endResv t k bs.length) k bs.length) k
    let t := { t with writes := t.writes + 1 }
    if p = .ls then releaseStore t k bs.length else t

/-- Read bytes at their home on a path: none when a word is bad (R63), else the bytes after correction of single-bit errors (R62). -/
def State.take (s : State) (p : Path) (k n : Nat) (who : Nat := noCore) : State × Option (List Byte) :=
  match s.meet k n with
  | (t, true) => (t, none)
  | (t, false) => (t, some (pathBytes s p k n who))

/-- The bytes at a key, as the hardware reads its own structures: on no path.  The soft errors it meets are `State.meet`'s; what cannot be corrected has no value,
so a free one (R63; assumption 161). -/
def State.peek (s : State) (k n : Nat) : List Byte :=
  if s.errs = [] then memGetMany s.mem k n
  else
    (List.range n).map fun i =>
      if (anyBad s (k + i) 1).isSome then BitVec.ofNat 8 ((Config.freeAt s.free ((k + i) / 8)).toNat / 256 ^ ((k + i) % 8))
      else memGet s.mem (k + i)

/-- The little-endian number at a key. -/
def State.peekNat (s : State) (k n : Nat) : Nat := ofBytes (s.peek k n)

/-- The doubleword at a key. -/
def State.peekW (s : State) (k : Nat) : Word := BitVec.ofNat 64 (s.peekNat k 8)

/-- Meet the soft errors of bytes that the hardware reads for itself (R62, R63). -/
def State.see (s : State) (k n : Nat) : State :=
  if s.errs = [] then s
  else
    let (t, bad) := s.meet k n
    if bad then { t with free := t.free + 1 } else t

/-- A doubleword that the hardware reads for itself (R62, R63). -/
def State.seeW (s : State) (k : Nat) : State × Word := let t := s.see k 8; (t, t.peekW k)

/-- `n` doublewords that the hardware reads for itself. -/
def State.seeWs (s : State) (k n : Nat) : State × List Word :=
  (List.range n).foldl (fun acc i => let (t, w) := acc.1.seeW (k + 8 * i); (t, acc.2 ++ [w])) (s, [])

/-- Write doublewords at a key as the hardware does (class 3 of R42). -/
def State.putWs (s : State) (k : Nat) (ws : List Word) : State := s.put .ls k (ws.flatMap fun w => bytesOf 8 w.toNat)

end Sys2Proof.Machine
end

