-- ==== Sys2Proof/Machine/Addr.lean ====
section
/-! DEFINITION. The module map (R13 to R24), HBM placement (R179 to R181), mesh coordinates (R68, R69) and the route-table
index of a home (R82). -/

namespace Sys2Proof.Machine

/-- Whether a bed control block is listed (R20). -/
def bedBlockListed (b : Nat) : Bool := b < 6

/-- Whether a link die block is listed (R20). -/
def linkBlockListed (die b : Nat) : Bool := b = 0 || (die = 1 && b = 1)

/-- A bed core's windows and control page by la[23:0] (R17). -/
def decodeBedCore (unit core low : Nat) : Rng :=
  if low < 2 ^ 23 then .core unit core (low / 2 ^ 20) (low % 2 ^ 20)
  else if low / 2 ^ 16 % 128 = 0 then .page unit core (low % 2 ^ 16)
  else .hole

/-- A rim core's 1 MiB by its offset (R19). -/
def decodeRimCore (unit core off : Nat) : Rng :=
  if off < 0x40000 then .core unit core 0 off
  else if off < 0x80000 then .core unit core 1 (off - 0x40000)
  else if off < 0x90000 then .page unit core (off - 0x80000)
  else .hole

/-- The self alias on a core (R17, R24, R57): a rim core has windows 0 and 1 below 0x4_0000; its windows 2 to 7 decode, and no access to
them is admitted. -/
def decodeSelf (unit core low : Nat) : Rng :=
  if unit < 12 then decodeBedCore unit core low
  else if low < 2 ^ 23 then
    (if low / 2 ^ 20 < 2 ∧ 0x40000 ≤ low % 2 ^ 20 then .hole else .core unit core (low / 2 ^ 20) (low % 2 ^ 20))
  else if low / 2 ^ 16 % 128 = 0 then .page unit core (low % 2 ^ 16)
  else .hole

/-- `Decode` of R32: the range of a module-local address, for an access made on the given core (R17, R18). -/
def decodeLa (unit core la : Nat) : Rng :=
  if 2 ^ 51 ≤ la then .host (la % 2 ^ 51)
  else if la < 12 * 2 ^ 36 then
    let bed := la / 2 ^ 36
    let low := la % 2 ^ 36
    if low < 2 ^ 31 then decodeBedCore bed (low / 2 ^ 24) (low % 2 ^ 24)
    else if low / 2 ^ 30 = 2 then .vault bed (low / 2 ^ 26 % 16) (low % 2 ^ 26)
    else if low / 2 ^ 30 = 3 ∧ bedBlockListed (low / 2 ^ 16 % 2 ^ 14) then .bedCtl bed (low / 2 ^ 16 % 2 ^ 14) (low % 2 ^ 16)
    else .hole
  else if la / 2 ^ 44 = 0x0F then
    (if la % 2 ^ 44 < 2 ^ 24 then decodeSelf unit core (la % 2 ^ 24) else .hole)
  else if la / 2 ^ 40 = 0x100 then
    (if la % 2 ^ 40 < 3 * 2 ^ 38 then .hbm (la % 2 ^ 40) else .hole)
  else if la / 2 ^ 44 = 0x1F then
    let r := la % 2 ^ 44
    if r < 6 * 2 ^ 28 then
      let die := r / 2 ^ 28
      let low := r % 2 ^ 28
      if low < 2 ^ 25 then decodeRimCore (16 + die) (low / 2 ^ 20) (low % 2 ^ 20)
      else if 2 ^ 27 ≤ low ∧ low / 2 ^ 24 % 8 < 4 then .rimDie die (low / 2 ^ 24 % 8) (low % 2 ^ 24)
      else .hole
    else .hole
  else if la / 2 ^ 44 = 0x20 then
    let r := la % 2 ^ 44
    if r < 2 ^ 33 ∧ linkBlockListed (r / 2 ^ 32) (r / 2 ^ 28 % 16) then .linkDie (r / 2 ^ 32) (r / 2 ^ 28 % 16) (r % 2 ^ 28)
    else .hole
  else .hole

/-- Whether a module-local address is a self alias (R24). -/
def isSelfAlias (la : Nat) : Bool := la / 2 ^ 44 = 0x0F

/-- `Decode` for an access that no core makes: the self alias names nothing (R24, R465). -/
def decodeOutside (la : Nat) : Rng := if isSelfAlias la then .hole else decodeLa 31 0 la

/-- The module-local address that names the byte for every core (R24, R59): the self alias resolved on the given core. -/
def resolveLa (unit core la : Nat) : Nat :=
  if isSelfAlias la then
    let low := la % 2 ^ 24
    if unit < 12 then unit * 2 ^ 36 + core * 2 ^ 24 + low
    else
      let b := 0x1F * 2 ^ 44 + (unit - 16) * 2 ^ 28 + core * 2 ^ 20
      if low < 2 ^ 20 then b + low
      else if low < 2 ^ 21 then b + 0x40000 + low % 2 ^ 20
      else b + 0x80000 + low % 2 ^ 16
  else la

/-! ### HBM placement -/

/-- The size of a region, 12 GiB (R179). -/
def regionSize : Nat := 12 * 2 ^ 30

/-- `Place` of R180: global stack and stack-local address of offset `r` within a region. -/
def placeHbm (e : Region) (r : Nat) : Nat × Nat :=
  if e.mode = 0 then
    let g := r / 2 ^ 12
    (g % 12, e.frame * 2 ^ 30 + g / 12 * 2 ^ 12 + r % 2 ^ 12)
  else if e.mode = 1 then
    let g := r / 2 ^ 10
    (2 * e.die + g % 2, e.frame * 2 ^ 30 + g / 2 * 2 ^ 10 + r % 2 ^ 10)
  else (2 * e.die + e.stk, e.frame * 2 ^ 30 + r)

/-- A rim die's own region-table entry (R179, R181). -/
def State.rimRegion (s : State) (k n : Nat) : Region := Tbl.get Region.none (s.rim k).regions n

/-- The entry a source on a unit uses: a rim die its own table, a bed or link die its cache; a cache line never filled is filled from the
table (R181; the first fill is DEDUCED, assumption 4). -/
def State.regionFor (s : State) (unit n : Nat) : Region :=
  if 16 ≤ unit ∧ unit < 22 then s.rimRegion (unit - 16) n
  else
    let c := if unit < 12 then (s.bed unit).rcache else Tbl.get [] s.linkCache (unit - 24)
    match Tbl.look c n with
    | some e => e
    | none => s.rimRegion 0 n

/-- Refresh a source's cached entry from a rim die (R182). -/
def State.refreshRegion (s : State) (unit k n : Nat) : State :=
  let e := s.rimRegion k n
  if unit < 12 then s.modBed unit fun b => { b with rcache := Tbl.set b.rcache n e }
  else if 24 ≤ unit then
    { s with linkCache := Tbl.set s.linkCache (unit - 24) (Tbl.set (Tbl.get [] s.linkCache (unit - 24)) n e) }
  else s

/-- Where an HBM offset is placed by the entry a unit uses: the entry, stack and stack-local address; none with MODE 3 (R179). -/
def State.hbmPlace (s : State) (unit off : Nat) : Option (Region × Nat × Nat) :=
  let e := s.regionFor unit (off / regionSize)
  if e.mode = 3 then none
  else
    let (st, a) := placeHbm e (off % regionSize)
    some (e, st, a)

/-- The unit that homes a range, as a source on `unit` sees it: beds 0 to 11, rim dies 16 to 21, link dies 24 and 25 (R17, R25). -/
def State.homeOf (s : State) (unit : Nat) : Rng → Option Nat
  | .core u _ _ _ => some u
  | .page u _ _ => some u
  | .vault b _ _ => some b
  | .bedCtl b _ _ => some b
  | .hbm off => (s.hbmPlace unit off).map fun e => 16 + e.2.1 / 2
  | .rimDie k _ _ => some (16 + k)
  | .linkDie d _ _ => some (24 + d)
  | .host _ => some 24
  | .hole => none

/-- The storage key of a range's first byte; none where the range is registers or a hole. -/
def State.keyOf (s : State) (unit : Nat) : Rng → Option Nat
  | .core u c _ off => some (coreKey u c off)
  | .vault b v off => some (vaultKey b v off)
  | .hbm off => (s.hbmPlace unit off).map fun e => hbmKey e.2.1 e.2.2
  | .host pa => some (hostKey pa)
  | _ => none

/-- Add to a range's offset. -/
def Rng.add (r : Rng) (n : Nat) : Rng :=
  match r with
  | .core u c w o => .core u c w (o + n)
  | .page u c o => .page u c (o + n)
  | .vault b v o => .vault b v (o + n)
  | .bedCtl b k o => .bedCtl b k (o + n)
  | .hbm o => .hbm (o + n)
  | .rimDie d b o => .rimDie d b (o + n)
  | .linkDie d b o => .linkDie d b (o + n)
  | .host p => .host (p + n)
  | .hole => .hole

/-- A module-local address of a range's first byte (R17, R19, R20). -/
def Rng.la : Rng → Nat
  | .core u c w off =>
    if u < 12 then u * 2 ^ 36 + c * 2 ^ 24 + w * 2 ^ 20 + off
    else 0x1F * 2 ^ 44 + (u - 16) * 2 ^ 28 + c * 2 ^ 20 + w * 0x40000 + off
  | .page u c off =>
    if u < 12 then u * 2 ^ 36 + c * 2 ^ 24 + 2 ^ 23 + off else 0x1F * 2 ^ 44 + (u - 16) * 2 ^ 28 + c * 2 ^ 20 + 0x80000 + off
  | .vault b v off => vaultKey b v off
  | .bedCtl b k off => b * 2 ^ 36 + 3 * 2 ^ 30 + k * 2 ^ 16 + off
  | .hbm off => 2 ^ 48 + off
  | .rimDie d k off => 0x1F * 2 ^ 44 + d * 2 ^ 28 + 2 ^ 27 + k * 2 ^ 24 + off
  | .linkDie d k off => 0x20 * 2 ^ 44 + d * 2 ^ 32 + k * 2 ^ 28 + off
  | .host pa => 2 ^ 51 + pa
  | .hole => 0

/-- The route-table index of a range's home (R82): cores, vaults, bed control, rim dies, link dies. -/
def State.routeIx (s : State) (unit : Nat) : Rng → Nat
  | .core u c _ _ => if u < 12 then 128 * u + c else 0x6CC + (u - 16)
  | .page u c _ => if u < 12 then 128 * u + c else 0x6CC + (u - 16)
  | .vault b v _ => 0x600 + 16 * b + v
  | .bedCtl b _ _ => 0x6C0 + b
  | .hbm off => match s.hbmPlace unit off with
    | some e => 0x6CC + e.2.1 / 2
    | none => 0x6CC
  | .rimDie k _ _ => 0x6CC + k
  | .linkDie d _ _ => 0x6D2 + d
  | .host _ => 0x6D2
  | .hole => 0x6D4

/-! ### The mesh (R68, R69) -/

/-- Router coordinates of a bed core (R68). -/
def coreXY (bed core : Nat) : Nat × Nat :=
  let row := core / 8
  let pos := core % 8
  (16 * (bed % 3) + 2 * (row % 8) + pos % 2, 8 * (bed / 3) + 4 * (row / 8) + pos / 2)

/-- The core at a router (R68). -/
def xyCore (x y : Nat) : Nat × Nat :=
  let bed := x / 16 + 3 * (y / 8)
  let row := x % 16 / 2 + 8 * (y % 8 / 4)
  (bed, row * 8 + (y % 4) * 2 + x % 2)

/-- The rim die a router's edge port 0x1 leads to, with the edge index (R69). -/
def rimOf (x y : Nat) : Option (Nat × Nat) :=
  if y = 31 then some (x / 16, x % 16) else if y = 0 then some (x / 16 + 3, x % 16) else none

/-- The link die a router's edge port 0x2 leads to (R69). -/
def linkOf (x y : Nat) : Option Nat :=
  if y % 2 = 0 then (if x = 0 then some 0 else if x = 47 then some 1 else none) else none

/-- The router at rim die `k`'s edge index `n` (R69, R77). -/
def rimRouter (k n : Nat) : Nat × Nat := if k < 3 then (16 * k + n, 31) else (16 * (k - 3) + n, 0)

/-- The neighbour in a direction 0 to 3 (R68), if there is one. -/
def neighbour (x y d : Nat) : Option (Nat × Nat) :=
  if d = 0 then (if y < 31 then some (x, y + 1) else none)
  else if d = 1 then (if x < 47 then some (x + 1, y) else none)
  else if d = 2 then (if 0 < y then some (x, y - 1) else none)
  else (if 0 < x then some (x - 1, y) else none)

/-- Whether a mesh link or port is marked down (R70). -/
def State.isDown (s : State) (x y port : Nat) : Bool := s.down.contains (x, y, port)

end Sys2Proof.Machine
end

