-- ==== Sys2Proof/Machine/Ops.lean ====
section
/-! DEFINITION. The operations every meaning goes through: registers, the save areas, waiting and waking, barrier arrivals, the end of
a thread, TAKING A TRAP and returning from one, and how a word's result settles into the state. -/

namespace Sys2Proof

/-- Beds hold 128 cores, rim dies 32 (R1, R8). -/
def coresOf (unit : Nat) : Nat := if unit < 12 then 128 else if 16 ≤ unit ∧ unit < 22 then 32 else 0

/-- Whether the module has the slot (R214). -/
def Place.ok (p : Place) : Bool := p.core < coresOf p.unit && p.slot < 8

/-- h0 to h3 of a bed core (R170, R214). -/
def Place.heavy (p : Place) : Bool := p.unit < 12 && p.slot < 4

/-- Whether the core is a rim core. -/
def Place.rim (p : Place) : Bool := !(p.unit < 12)

/-- The place as a thread name (R170). -/
def Place.name (p : Place) : BitVec 15 := BitVec.ofNat 15 (p.slot + p.core * 8 + p.unit * 1024)

end Sys2Proof

namespace Sys2Proof.Machine

/-! ### Places -/

/-- The home place a name names (R170). -/
def homePlace (n : BitVec 15) : Place := ⟨n.toNat / 1024, n.toNat / 8 % 128, n.toNat % 8⟩

/-- Whether the slot's thread runs elsewhere than its home slot (R170). -/
def State.away (s : State) (p : Place) : Bool := (s.slot p).name != p.name

/-- `loc` (R170). -/
def State.locWord (s : State) (p : Place) : Word := BitVec.ofNat 64 (p.name.toNat + b2n (s.away p) * 32768)

/-- The core a place stands on. -/
def State.coreAt (s : State) (p : Place) : Core := s.core p.unit p.core
def State.modCoreAt (s : State) (p : Place) (f : Core → Core) : State := s.modCore p.unit p.core f

/-- Offset of the slot's save area in its core's memory (R35, R39). -/
def saveOff (p : Place) : Nat :=
  if p.rim then 0x38000 + p.slot * 0x200
  else if p.slot < 4 then 0xF8000 + p.slot * 0xA00
  else 0xFA800 + (p.slot - 4) * 0x200

/-- Offset of the slot's trap frame (R35, R39). -/
def frameOff (p : Place) : Nat := (if p.rim then 0x39000 else 0xFB000) + p.slot * 0x80

/-- Offsets of the route table, mailbox, deque and plot table (R35, R39). -/
def routeOff (unit : Nat) : Nat := if unit < 12 then 0xF0000 else 0x30000
def mailOff (unit : Nat) : Nat := if unit < 12 then 0xFB400 else 0x39400
def dequeOff (unit : Nat) : Nat := if unit < 12 then 0xFBC00 else 0x39C00
def plotOff (unit : Nat) : Nat := if unit < 12 then 0xFCE40 else 0x3A800

/-- First offset that programs do not own (R35, R39). -/
def sysOff (unit : Nat) : Nat := if unit < 12 then 0xF0000 else 0x30000

/-! ### Registers -/

/-- The slot in execution. -/
def State.here (s : State) : Slot := s.slot s.cur.place

/-- Change the slot in execution. -/
def State.modHere (s : State) (f : Slot → Slot) : State := s.modSlot s.cur.place f

/-- Change the thread in execution. -/
def State.modTh (s : State) (f : Thread → Thread) : State := s.modHere fun x => { x with th := f x.th }

/-- The thread whose registers the word in execution reads: the second word of a pair reads what stood before the pair (R284). -/
def State.opTh (s : State) : Thread :=
  match s.cur.half, s.cur.snap with
  | .a, some t => t
  | _, _ => s.here.th

/-- Read a general register; g0 reads zero (R303). -/
def Thread.readG (t : Thread) (r : BitVec 5) : Word := if r = 0 then 0 else t.g[r.toNat]'r.isLt

/-- The operand in a general register. -/
def State.opG (s : State) (r : BitVec 5) : Word := s.opTh.readG r

/-- Write a general register; a write to g0 is discarded (R284). -/
def Thread.writeG (t : Thread) (r : BitVec 5) (v : Word) : Thread :=
  if r = 0 then t else { t with g := t.g.set r.toNat v r.isLt }

/-- Write a general register of the thread in execution. -/
def State.setG (s : State) (r : BitVec 5) (v : Word) : State := s.modTh fun t => t.writeG r v

/-- The vector operand in a register: a rim core has one set per core (R214). -/
def State.opV (s : State) (r : BitVec 5) : VReg :=
  if s.cur.place.rim ∧ s.cur.half ≠ .a then (s.coreAt s.cur.place).rv[r.toNat]'r.isLt else s.opTh.v[r.toNat]'r.isLt

/-- The mask in a register; m0 reads all ones (R36, R290). -/
def State.opM (s : State) (r : BitVec 3) : Word :=
  if r = 0 then BitVec.allOnes 64
  else if s.cur.place.rim ∧ s.cur.half ≠ .a then (s.coreAt s.cur.place).rm[r.toNat]'r.isLt
  else s.opTh.m[r.toNat]'r.isLt

/-- Write a vector register. -/
def State.setV (s : State) (r : BitVec 5) (v : VReg) : State :=
  if s.cur.place.rim then s.modCoreAt s.cur.place fun c => { c with rv := c.rv.set r.toNat v r.isLt }
  else s.modTh fun t => { t with v := t.v.set r.toNat v r.isLt }

/-- Write a mask register; m0 stays all ones. -/
def State.setM (s : State) (r : BitVec 3) (v : Word) : State :=
  if r = 0 then s
  else if s.cur.place.rim then s.modCoreAt s.cur.place fun c => { c with rm := c.rm.set r.toNat v r.isLt }
  else s.modTh fun t => { t with m := t.m.set r.toNat v r.isLt }

/-- The context, mode and program counter in execution. -/
def State.ctx (s : State) : BitVec 12 := s.here.th.ctx
def State.sysMode (s : State) : Bool := s.here.th.mode
def State.pc (s : State) : Word := s.here.th.pc

/-- `status` (R416). -/
def State.statusWord (s : State) (p : Place) : Word :=
  let x := s.slot p
  BitVec.ofNat 64 (b2n x.th.mode + b2n x.th.pm * 2 + b2n x.th.td * 4 + b2n p.heavy * 8 + b2n x.blk.isSome * 16 + b2n x.pkt.isSome * 32)

/-! ### Save areas (R36, R37, R40) -/

/-- The eleven doublewords from PC to `xlc` (R36, R37). -/
def State.midWords (s : State) (p : Place) : List Word :=
  let t := (s.slot p).th
  [t.pc, s.statusWord p, t.ctx.zeroExtend 64, s.locWord p, t.tvec, t.epc, t.ecause, t.eaddr, t.xlb, t.xll, t.xlc]

/-- Bytes of doublewords. -/
def wordsBytes (ws : List Word) : List Byte := ws.flatMap fun w => bytesOf 8 w.toNat

/-- The light image, bytes 0x000 to 0x17F of R37 (`bb` included, the reach descriptor not). -/
def State.lightImage (s : State) (p : Place) : List Byte :=
  let t := (s.slot p).th
  wordsBytes ((0 : Word) :: t.g.toList.tail) ++ wordsBytes (s.midWords p) ++ wordsBytes [t.bbPtr] ++ bytesOf 16 t.bbData.toNat
    ++ bytesOf 1 t.bbCount ++ List.replicate 15 0

/-- Save a slot's thread into its save area: every field but the reach descriptor (R36, R37, R40). -/
def State.saveSlot (s : State) (p : Place) : State :=
  let x := s.slot p
  let t := x.th
  let k := coreKey p.unit p.core (saveOff p)
  if p.heavy then
    let s := s.put .ls k (wordsBytes ((0 : Word) :: t.g.toList.tail))
    let s := s.put .ls (k + 0x100) (t.v.toList.flatMap fun (v : VReg) => bytesOf 64 v.toNat)
    let s := s.put .ls (k + 0x900) (wordsBytes (BitVec.allOnes 64 :: t.m.toList.tail))
    let s := s.put .ls (k + 0x940) (wordsBytes (s.midWords p))
    let s := s.put .ls (k + 0x998) (wordsBytes [t.bbPtr])
    let s := s.put .ls (k + 0x9A0) (bytesOf 16 t.bbData.toNat ++ bytesOf 1 t.bbCount)
    s.put .ls (k + 0x9E0) (wordsBytes [x.refault])
  else
    let s := s.put .ls k (s.lightImage p)
    s.put .ls (k + 0x1A0) (wordsBytes [x.refault])

/-- A list of doublewords as a vector of eight-byte registers. -/
def vecOf (n : Nat) (f : Nat → Word) : Vector Word n := Vector.ofFn fun i => f i.val

/-- A thread from the bytes of an image: `g` at 0, the middle words at `mid`, `bb` behind them; reserved bits read zero (R270, R415), and a
`bb` count above 128 is taken as 128. -/
def threadOf (rd : Nat → Word) (v : Nat → VReg) (m : Nat → Word) (mid bbp bbd bbc : Nat) : Thread :=
  let st := rd (mid + 8)
  { g := vecOf 32 fun i => if i = 0 then 0 else rd (8 * i), v := Vector.ofFn fun i : Fin 32 => v i.val,
    m := vecOf 8 fun i => if i = 0 then BitVec.allOnes 64 else m i, pc := rd mid, mode := st.getLsbD 0, pm := st.getLsbD 1,
    td := st.getLsbD 2, ctx := (rd (mid + 16)).truncate 12, tvec := rd (mid + 32) &&& ~~~(3 : Word), epc := rd (mid + 40),
    ecause := rd (mid + 48) &&& 0xFFFF07FF, eaddr := rd (mid + 56), xlb := rd (mid + 64) &&& 0xFFFF8, xll := BitVec.ofNat 64 (min 122880 ((rd (mid + 72)).toNat % 2 ^ 17)), xlc := rd (mid + 80),
    bbData := (rd bbd).zeroExtend 128 ||| ((rd (bbd + 8)).zeroExtend 128 <<< 64), bbCount := min 128 ((rd bbc).toNat % 256), bbPtr := rd bbp }

/-- The thread that stands in a save area (R36, R37); g0's field is ignored and m0 is all ones. -/
def State.loadThread (s : State) (p : Place) : Thread :=
  let k := coreKey p.unit p.core (saveOff p)
  let rd := fun o => s.peekW (k + o)
  if p.heavy then
    threadOf rd (fun i => BitVec.ofNat 512 (s.peekNat (k + 0x100 + 64 * i) 64)) (fun i => rd (0x900 + 8 * i)) 0x940 0x998 0x9A0 0x9B0
  else threadOf rd (fun _ => 0) (fun _ => 0) 0x100 0x158 0x160 0x170

/-- Key of the reach descriptor in a slot's save area (R30, R36, R37). -/
def reachKey (p : Place) : Nat := coreKey p.unit p.core (saveOff p) + (if p.heavy then 0x9C0 else 0x180)

/-- The reach descriptor of a slot's save area (R30, R36, R37). -/
def State.loadReach (s : State) (p : Place) : Vector Word 4 := vecOf 4 fun i => s.peekW (reachKey p + 8 * i)

/-- The refault record of a slot's save area (R168). -/
def State.loadRefault (s : State) (p : Place) : Word :=
  s.peekW (coreKey p.unit p.core (saveOff p) + (if p.heavy then 0x9E0 else 0x1A0))

/-! ### Barriers (R218, R219) -/

/-- An unconfigured barrier. -/
def Bar.empty : Bar :=
  { count := 0, arrived := 0, kind := 0, level := 0, xalign := false, cdone := false, donets := 0, owed := false }

/-- Barrier `n` of a core, and writing it. -/
def State.bar (s : State) (unit core n : Nat) : Bar := Tbl.get Bar.empty (s.core unit core).bars n
def State.setBar (s : State) (unit core n : Nat) (b : Bar) : State :=
  s.modCore unit core fun c => { c with bars := Tbl.set c.bars n b }

/-- Where threads synchronise but by a word: a barrier of a core, and the barrier of a domain. -/
def barrierKey (s : State) (unit core n : Nat) : Nat :=
  let b := s.bar unit core n
  let d := Tbl.get 0 (s.core unit core).doms b.level
  if b.kind = 2 then 2 ^ 62 + ((if d.getLsbD 12 then 31 else unit) * 4 + b.level) * 4096 + d.toNat % 4096 else 2 ^ 61 + (unit * 128 + core) * 2048 + n

/-- Wake the waiters of a phase; with `aligned` each of them completes its wait aligned (R223). -/
def wakeBarrier (s : State) (unit core n : Nat) (aligned : Bool) : State :=
  { s with slots := s.slots.map fun e =>
      if e.1 / 8 = unitKey unit core ∧ e.2.wait = some (.barrier n) then
        (e.1, { e.2.wake with resp := .value (BitVec.ofNat 64 (b2n aligned)) :: e.2.resp })
      else e }

/-- Complete the current phase of a core barrier if its arrivals are in and the timestamp has passed DONETS; arrivals made while it waited for that belong to the
next phase, which they may complete in their turn (R219). -/
def finishCoreBar (s : State) (unit core n : Nat) : State :=
  let b := s.bar unit core n
  if b.kind = 1 ∧ b.count ≤ b.arrived then
    if b.donets < s.ts then
      wakeBarrier (s.setBar unit core n { b with donets := s.ts, arrived := b.arrived - b.count, owed := decide (0 < b.count ∧ 2 * b.count ≤ b.arrived) }) unit core n false
    else s.setBar unit core n { b with owed := true }
  else s

/-- A domain barrier's local part: when the arrivals are in and CDONE is 0, set CDONE and send a report (R219). -/
def finishDomBar (s : State) (unit core n : Nat) : State :=
  let b := s.bar unit core n
  if b.kind = 2 ∧ b.count ≤ b.arrived ∧ b.cdone = false then
    let t := s.setBar unit core n { b with cdone := true, arrived := b.arrived - b.count }
    t.modBed unit fun d => { d with reps := d.reps ++
      [{ bed := unit, core := core, bar := n, level := b.level, dom := Tbl.get 0 (s.core unit core).doms b.level, atFabric := false }] }
  else s

/-- One arrival on a configured barrier (R219). -/
def arriveBar (s : State) (unit core n : Nat) : State :=
  let b := s.bar unit core n
  let t := s.setBar unit core n { b with arrived := b.arrived + 1 }
  finishDomBar (finishCoreBar t unit core n) unit core n

/-- A hardware arrival: on an unconfigured barrier it counts nowhere and raises BARRIER (R218). -/
def hwArrive (s : State) (unit core n : Nat) : State :=
  if (s.bar unit core n).kind = 0 then s.raise unit core 0 0xC 0 (BitVec.ofNat 64 core) (BitVec.ofNat 64 n)
  else arriveBar s unit core n

/-! ### Mailbox (R115 to R117) -/

/-- Entries free and unreserved. -/
def Core.mailRoom (c : Core) : Nat := 64 - ((c.mbhead - c.mbtail).toNat + c.mbrsv)

/-- Publish one mailbox entry (R40, R116); `reserved` uses up one reservation. -/
def postMail (s : State) (unit core : Nat) (ws : List Word) (reserved : Bool) : State :=
  let c := s.core unit core
  let k := coreKey unit core (mailOff unit + 32 * (c.mbhead.toNat % 64))
  (s.putWs k ws).modCore unit core fun c =>
    { c with mbhead := c.mbhead + 1, mbrsv := if reserved then c.mbrsv - 1 else c.mbrsv }

/-! ### The matrix unit's owner (R256) -/

/-- Heavy slots of a context on a core in RUN or WAIT. -/
def State.heavyResident (s : State) (unit core : Nat) (ctx : BitVec 12) : Bool :=
  (List.range 4).any fun k =>
    let x := s.slot ⟨unit, core, k⟩
    (x.st == .run || x.st == .wait) && x.th.ctx == ctx

/-- Whether a packet has reached its target's endpoint. -/
def Loc.delivered : Loc → Bool
  | .atCore _ _ => true
  | .atVault _ _ => true
  | .atRim _ _ => true
  | .atLink _ => true
  | _ => false

/-- Where a response starts: the router or gateway that delivered its request (R80); on a rim die that the request never left, it is there. -/
def Loc.back : Loc → Loc
  | .atCore x y => .router x y
  | .atVault x y => .router x y
  | .atRim _ (some (x, y)) => .router x y
  | .atLink d => .gateway d false false
  | .rim d => .atRim d none
  | l => l

/-- A request turned about: HOP is the number of reversed items, and a delivering item is none (R75, R80). -/
def Pkt.back (q : Pkt) : Pkt := { q with loc := q.loc.back, hop := if q.loc.delivered then q.hop - 1 else q.hop }

/-- The unit a delivered packet stands at. -/
def Loc.unit : Loc → Nat
  | .atCore x y => (xyCore x y).1
  | .atVault x y => (xyCore x y).1
  | .atRim k _ => 16 + k
  | .atLink d => 24 + d
  | .rim k => 16 + k
  | .router x y => (xyCore x y).1
  | .gateway d _ _ => 24 + d
  | .left d _ => 24 + d

/-- A NACK with a HOPIX (R90): it goes back on the request's reversed route, with HOP the number of reversed items (R80). -/
def nackAt (q : Pkt) (reason hopix : Nat) : Pkt :=
  { q.back with resp := true, kind := 0x1A, len := 0, body := .nack reason hopix q.kind q.loc.unit, req := (q.kind, q.len, q.body) }

/-- A NACK where HOPIX is the request's HOP. -/
def nackOf (q : Pkt) (reason : Nat) : Pkt := nackAt q reason q.hop

/-- Make the unit ownerless, discarding its state and answering its queued remote commands REJECT (R256, R368). -/
def dropMatrix (s : State) (unit core : Nat) : State :=
  let m := (s.core unit core).mx
  let q := m.remq ++ m.ops.filterMap fun o => o.remote.map (·.1)
  let t := s.modCore unit core fun c => { c with mx := Matrix.empty }
  wakeCore { t with pkts := t.pkts ++ q.map fun p => nackOf p 5 } unit core fun w => w == .matrix

/-! ### The end of a thread (R244, R252, R413) -/

/-- The gang of a thread that has ended: at its last thread's end the CBAR arrival is made and GANGDONE raised (R244). -/
def gangEnded (s : State) (g : Option (Nat × Nat)) : State :=
  match g with
  | none => s
  | some (b, id) =>
    match Tbl.look (s.bed b).gangs id with
    | none => s
    | some x =>
      if 1 < x.alive then s.modBed b fun d => { d with gangs := Tbl.set d.gangs id { x with alive := x.alive - 1 } }
      else
        let s := s.modBed b fun d => { d with gangs := Tbl.erase d.gangs id }
        let s := match x.cbar with
          | some (core, n) => hwArrive s b core n
          | none => s
        if x.evt then s.raise b 0 0 9 x.ctx.toNat (x.tag.zeroExtend 64) 0 else s

/-- What a slot keeps when its thread is gone: the registers stand as they were (R437), its arrival record is cleared when the next thread starts (R338), FOLST stays,
and a leave that no pair of its own has followed yet (R227). -/
def Slot.emptied (x : Slot) : Slot :=
  { Slot.empty with th := { x.th with ctx := 0, mode := false }, folReason := x.folReason, folLeave := x.folLeave, folLeft := x.folLeft, arvBar := x.arvBar, arvV := x.arvV, arvName := x.arvName }

/-- A slot whose thread goes back to the first load it has gone on past: it will execute that again. -/
def Slot.unwound (x : Slot) : Slot :=
  match x.ahead with
  | a :: _ => { x with th := a.th, ahead := [] }
  | [] => x

/-- Whether an answer is a translation that an access keeps. -/
def Resp.isPage : Resp → Bool
  | .page _ _ _ => true
  | _ => false

/-- A slot with what has come back for a load that its thread has gone on past (R195). -/
def Slot.gets (x : Slot) (id : Nat) (r : List Resp) : Slot :=
  { x with ahead := x.ahead.map fun a => if a.id = id then { a with got := r ++ a.got.filter (·.isPage), due := true } else a }

/-- A slot leaves the queues of the counters it waits to take from, and those behind it in them try again (R229). -/
def quitCounters (s : State) (p : Place) : State :=
  let k := slotKey p
  let rest := (s.cores.flatMap fun c => c.2.scntWait.flatMap fun e => if e.2.any (fun w => w.1 == k) then e.2.map (·.1) else []).filter (· != k)
  let drop : Tbl (List (Nat × Nat)) → Tbl (List (Nat × Nat)) := fun t => (t.map fun e => (e.1, e.2.filter fun w => w.1 != k)).filter fun e => e.2 != []
  let s := { s with cores := Tbl.mapV (fun c => { c with scntWait := drop c.scntWait }) s.cores }
  if rest = [] then s else wakeIf s fun j w => rest.contains j && w == .counter

/-- The wait of a slot on a barrier is interrupted: on that phase it completes unaligned (R223). -/
def cutWait (s : State) (p : Place) : State :=
  match (s.slot p).wait with
  | some (.barrier n) => s.modSlot p fun x => { x with cut := some (n, (s.bar p.unit p.core n).donets) }
  | _ => s

/-- A slot that becomes FREE, with its reservation, waiter and counter entries gone; its bed's placer has a step to run (R241). -/
def freeSlot (s : State) (p : Place) : State :=
  let s := s.modSlot p Slot.emptied
  let drop : Tbl (List (Nat × Nat)) → Tbl (List (Nat × Nat)) := fun t =>
    (t.map fun e => (e.1, e.2.filter fun w => w.1 != slotKey p)).filter fun e => e.2 != []
  let s := { s with resvs := drop s.resvs, waiters := drop s.waiters }
  let s := if p.unit < 12 then s.modBed p.unit fun b => { b with placing := true } else s
  quitCounters s p

/-- Give the matrix unit up when the last heavy slot of its owner has ended (R256); its state is discarded, also where another slot of the context was pre-empted
before (assumption 185). -/
def giveUpMatrix (s : State) (p : Place) (ctx : BitVec 12) : State :=
  if p.heavy ∧ (s.coreAt p).mx.own = some ctx ∧ s.heavyResident p.unit p.core ctx = false then dropMatrix s p.unit p.core else s

/-- A home slot held AWAY for a thread that has ended elsewhere (R175, R252, R413): free, or LOST. -/
def releaseHome (s : State) (name : BitVec 15) (lost : Bool) : State :=
  let h := homePlace name
  if (s.slot h).st = .away ∧ (s.slot h).name = name then
    (if lost then s.modSlot h fun x => { x with st := .lost } else freeSlot s h)
  else s

/-- The thread at a place ends: `lost` for a double trap, which leaves a home slot held AWAY as LOST (R252). -/
def endThread (s : State) (p : Place) (lost : Bool) : State :=
  let x := s.slot p
  let s := freeSlot s p
  let s := if x.name = p.name then s else releaseHome s x.name lost
  gangEnded (giveUpMatrix s p x.th.ctx) x.gang

/-! ### Following (R224 to R227) -/

/-- A follower leaves with a reason (R226); pre-empted, it goes on at its saved PC, which LEAVEPC takes at once (R226, R431; assumption 177). -/
def leaveFollow (s : State) (p : Place) (reason : Nat) : State :=
  s.modSlot p fun x =>
    if x.folState = 0 then x
    else { x with folState := 0, folReason := reason, folQueue := [], folLeft := reason != 4,
                  folLeave := if reason = 4 then x.th.pc else x.folLeave, wait := if x.wait = some .follow then none else x.wait, st := if x.wait = some .follow ∧ x.st = .wait then .run else x.st }

/-- The followers of a leader's slot leave at the bundle where the stream stopped, once they have run what was sent (R226). -/
def stopStream (s : State) (p : Place) : State :=
  if p.heavy ∧ p.core % 8 = 0 then
    (List.range 7).foldl (fun t k =>
      let q : Place := ⟨p.unit, p.core + k + 1, p.slot⟩
      if (t.slot q).folState = 2 then
        (if (t.slot q).folQueue = [] then leaveFollow t q 5 else t.modSlot q fun x => { x with folState := 4 })
      else t) s
  else s

/-! ### Aborted blocks (R259, R260) -/

/-- A fault in a block of a domain: its abort is on its way to the fabric (R259, R260). -/
def abortDomain (s : State) (p : Place) (level dom cyc cause sub : Nat) : State :=
  { s with xaborts := s.xaborts ++
      [{ bed := p.unit, level := level, dom := dom, span := (Tbl.get 0 (s.coreAt p).doms level).getLsbD 12, src := s.srcNum p.unit p.core,
         slot := p.slot, cause := cause, sub := sub, cyc := cyc, reported := false }] }

/-- A fault in the block of a slot, if it is in one. -/
def abortBlock (s : State) (p : Place) (cause sub : Nat) : State :=
  match (s.slot p).blk with
  | none => s
  | some b => abortDomain s p b.level b.dom b.cyc cause sub

/-! ### Traps (R249 to R254) -/

/-- A trap as its detector states it: cause, SUB, `eaddr` and the two details (R249). -/
structure Trap where
  cause : Nat
  sub : Nat
  addr : Word
  d0 : Word
  d1 : Word
deriving DecidableEq, Repr, Inhabited

/-- A trap without details. -/
def Trap.of (cause sub : Nat) (addr : Word) : Trap := ⟨cause, sub, addr, 0, 0⟩

/-- The frame's words (R253). -/
def frameWords (epc ecause eaddr status cw d0 d1 ts loc : Word) : List Word :=
  [epc, ecause, eaddr, status, cw, d0, d1, ts, loc, 0, 0, 0, 0, 0, 0, 0]

/-- A double trap: the thread ends and a fatal DOUBLE event names it, the new cause and the cause in the frame (R252). -/
def doubleTrap (s : State) (p : Place) (t : Trap) : State :=
  let x := s.slot p
  let (s, old) := s.seeW (coreKey p.unit p.core (frameOff p) + 8)
  let s := s.raise p.unit p.core p.slot 7 x.th.ctx.toNat (x.name.zeroExtend 64) (BitVec.ofNat 64 (t.cause + old.toNat % 256 * 256))
  endThread (stopStream (leaveFollow s p 3) p) p true

/-- TAKING A TRAP (R252) in the slot at `p`, whose `pc` already is the replay address of R249 (`epc` is given for the one cause that
replays elsewhere).  A trap with TD set is a double trap.  A thread that has ended its block but not closed it stays one of the block's members unless it is the
block that traps it (R259). -/
def takeTrap (s : State) (p : Place) (t : Trap) (aword inxb : Bool) (replay : Option Word) : State :=
  let x := s.slot p
  if x.th.td then doubleTrap s p t
  else
    let disc := x.pkt.isSome
    let epc := replay.getD x.th.pc
    let ecause := BitVec.ofNat 64 (t.cause + b2n aword * 256 + b2n disc * 512 + b2n inxb * 1024 + t.sub % 65536 * 65536)
    let cw := BitVec.ofNat 64 (s.cur.cword.toNat + (s.cur.aword.getD 0).toNat * 4294967296)
    let s1 := s.putWs (coreKey p.unit p.core (frameOff p))
      (frameWords epc ecause t.addr (s.statusWord p) cw t.d0 t.d1 s.ts (s.locWord p))
    let s2 := stopStream (leaveFollow (cutWait s1 p) p 3) p
    s2.modSlot p fun y =>
      { y with
        th := { y.th with epc := epc, ecause := ecause, eaddr := t.addr, pm := y.th.mode, mode := true, td := true, pc := y.th.tvec },
        pkt := none, blk := none, lastBlk := if inxb ∨ t.cause = 12 then none else y.lastBlk, aligned := none, resv := none, resTurn := none, wait := none, resp := [], entry := true,
        st := .run, backoff := 0, late := [] }

/-- RETURN FROM A TRAP (R254): reload the reach descriptor from the save area of the slot, restore MODE, clear TD, end the reservation
and transfer to `epc`.  The reload meets soft errors as every read of the hardware does (R62, R63). -/
def trapReturn (s : State) (p : Place) : State :=
  let s := s.see (reachKey p) 32
  let r := s.loadReach p
  s.modSlot p fun x =>
    { x with reach := r, resv := none, resTurn := none, th := { x.th with mode := x.th.pm, td := false, pc := x.th.epc } }

/-! ### How a word ends -/

/-- What a word did to its slot. -/
inductive Res where
  /-- It completed. -/
  | ok (s : State)
  /-- It completed, as a `bar.wait` released aligned (R223). -/
  | aligned (s : State) (bar : Nat)
  /-- It completed and transfers to an address already checked (R286). -/
  | jump (s : State) (t : Word)
  /-- It completed, and its trap is taken once the bundle has (R251). -/
  | after (s : State) (cause sub : Nat)
  /-- It traps; its bundle is cancelled. -/
  | trap (s : State) (t : Trap)
  /-- It waits; `hw` for a hardware wait of R215, else an interlock. -/
  | wait (s : State) (w : Wait) (hw : Bool)
  /-- Its thread has left the slot. -/
  | gone (s : State)
deriving DecidableEq, Repr

/-- Go on with a state, or pass on how the word ended. -/
def Res.bind (r : Res) (f : State → Res) : Res :=
  match r with
  | .ok s => f s
  | r => r

/-- The slot after a completed word. -/
def completeWord (s : State) (npc : Option Word) (al : Option Nat) : State :=
  let s := match s.cur.half with
    | .a => s
    | _ => s.modHere fun x => { x with th := { x.th with pc := npc.getD s.cur.next }, aligned := al }
  match s.cur.half with
  | .lone => s.modHere fun x => { x with wait := none, resp := [], backoff := 0 }
  | _ => s

/-- The bytes of a save area that a resume reads (R36, R37). -/
def saveLen (p : Place) : Nat := if p.heavy then 0x9E8 else 0x1A8

/-- A route-table entry's fields (R83). -/
structure RouteE where
  codes : Nat
  next : Nat
  ext : Bool
  lane : Nat
  valid : Bool
  raw : Nat
deriving DecidableEq, Repr, Inhabited

/-- Entry `n` of a core's route table. -/
def State.routeEntry (s : State) (unit core n : Nat) : RouteE :=
  let v := s.peekNat (coreKey unit core (routeOff unit + 16 * n)) 16
  { codes := v % 2 ^ 108, next := bits v 118 108, ext := v.testBit 119, lane := bits v 121 120, valid := v.testBit 122, raw := v }

/-- Whether a buffered store of range `r` can leave the core: to the core itself, to its own rim die, or over a valid route entry (R83, R192). -/
def storeGoes (s : State) (p : Place) (r : Rng) : Bool :=
  (match r with
   | .core u c _ _ => u == p.unit && c == p.core
   | .page u c _ => u == p.unit && c == p.core
   | _ => false) ||
  (p.rim && s.homeOf p.unit r == some p.unit) || (s.routeEntry p.unit p.core (s.routeIx p.unit r)).valid

/-- Whether a save must wait for stores in the core's store buffer (R40): for all of them, unless the first that has not left cannot leave, its route entry being
invalid; then for those that have left and for those to the save area itself (assumption 184). -/
def saveHeld (s : State) (p : Place) : Bool :=
  let b := (s.coreAt p).sbuf
  let k := coreKey p.unit p.core (saveOff p)
  b.any (fun e => e.sent.isSome || decide (e.key < k + saveLen p ∧ k < e.key + e.bytes.length)) ||
  (match b.find? fun e => e.sent.isNone with
   | some e => storeGoes s p e.rng
   | none => false)

/-- Park a slot on a route entry whose VALID is 0: the thread's state goes to its save area (R92, R215). -/
def parkRoute (s : State) (p : Place) (n : Nat) : State :=
  ((cutWait s p).saveSlot p).modSlot p fun x => { x with st := .park, parkWhy := 1, wait := some (.route n), resp := [], backoff := 0, late := [] }

/-- Put the hit counts of a core's TLB back as they stood before the bundle in execution. -/
def unhit (s : State) : State :=
  let p := s.cur.place
  if s.cur.hot = [] then s
  else s.modCoreAt p fun c =>
    { c with tlb := c.tlb.map fun (e : Nat × TlbE) => (e.1, { e.2 with hot := Tbl.get e.2.hot s.cur.hot e.1 }) }

/-- Whether a bundle waits with an access of its own under way: that access has been translated (R155). -/
def Wait.sent : Wait → Bool
  | .answer _ _ => true
  | .migrate => true
  | .again => true
  | _ => false

/-- Settle a word's result into the state: the slot's program counter, its wait, or its trap (R248, R251, R284). -/
def settle (r : Res) : State :=
  match r with
  | .ok s => completeWord s none none
  | .aligned s n => completeWord s none (some n)
  | .jump s t =>
    let s := completeWord s (some t) none
    { s with cur := { s.cur with jumped := true } }
  | .after s c n =>
    let s := completeWord s none none
    { s with cur := { s.cur with pend := some (c, n) } }
  | .trap s t =>
    let p := s.cur.place
    if s.cur.commit then { s with cur := { s.cur with ended := .trap, fault := some (t.cause, t.sub, t.addr, t.d0, t.d1) } }
    else
    let inb := (s.slot p).blk.isSome || s.cur.xfault
    let s := takeTrap (abortBlock s p t.cause t.sub) p t (decide (s.cur.half = .a)) inb none
    { s with cur := { s.cur with ended := .trap } }
  | .wait s w hw =>
    let s := match w with
      | .route n => if saveHeld s s.cur.place then s.modHere fun x => { x with wait := some .drain, aligned := none } else parkRoute s s.cur.place n
      | .again => s
      | _ => s.modHere fun x => { x with wait := some w, st := if hw then .wait else x.st, aligned := none }
    let s := if w.sent then s.modHere fun x => { x with resp := s.cur.hits.map (fun h => Resp.page h.1 h.2.1 h.2.2) ++ x.resp } else unhit s
    { s with cur := { s.cur with ended := .wait } }
  | .gone s => { s with cur := { s.cur with ended := .gone } }

/-- The next state of a word. -/
def done (r : Res) : Host.Outcome State Fault Refusal := .next (settle r)

/-- What the checks of R295 need to know of a word beyond its fields: its feature, the slots that may run it and whether it is system-only. -/
structure Gate where
  feature : Nat
  /-- 0: any slot; 1: a vector instruction (R214); 2: heavy slots of bed cores only. -/
  slots : Nat
  sys : Bool
deriving DecidableEq, Repr, Inhabited

/-- Base instructions of any slot and mode. -/
def Gate.base : Gate := ⟨0, 0, false⟩

/-- The address of the word in execution (`eaddr` of R249's PC rows). -/
def State.wordPc (s : State) : Word := if s.cur.half = .a then s.cur.pc + 4 else s.cur.pc

/-- An illegal-instruction trap on the word in execution. -/
def State.illegal (s : State) (sub : Nat) : Res := .trap s (Trap.of 1 sub s.wordPc)

/-- Feature, slot kind and privilege, in the order of R295. -/
def Gate.check (g : Gate) (s : State) : Option Trap :=
  let p := s.cur.place
  let slotOk := if g.slots = 0 then true
    else if g.slots = 1 then p.heavy || (p.rim && s.sysMode)
    else p.heavy
  if s.feat.getLsbD g.feature = false then some (Trap.of 1 2 s.wordPc)
  else if slotOk = false then some (Trap.of 1 3 s.wordPc)
  else if g.sys ∧ s.sysMode = false then some (Trap.of 5 2 s.wordPc)
  else none

/-- The block a slot is in, as a timing-violation's details (R249). -/
def State.blockTrap (s : State) (sub : Nat) (addr : Word) : Trap :=
  match s.here.blk with
  | some b => ⟨10, sub, addr, BitVec.ofNat 64 b.cyc, b.xb⟩
  | none => ⟨10, sub, addr, 0, s.pc⟩

/-- Take the timing-violation trap with a SUB inside a timed block (R388, R391). -/
def State.outsideBlock (s : State) (sub : Nat) (f : State → Res) : Res :=
  if s.here.blk.isSome then .trap s (s.blockTrap sub s.wordPc) else f s

/-- The timing-violation trap of an access that would wait inside a timed block (R319): whether `eaddr` is the program address of the access that would wait or the PC is left
open (R249), and free (assumption 149). -/
def State.stall (s : State) (addr : Word) : Res :=
  .trap { s with free := s.free + 1 } (s.blockTrap 0 (if (Config.freeWord s.free).getLsbD 0 then addr else s.wordPc))

/-- Wait, or take that trap inside a timed block (R319). -/
def State.waitAt (s : State) (w : Wait) (hw : Bool) (addr : Word) : Res :=
  if s.here.blk.isSome then s.stall addr else .wait s w hw

/-- Wait, or take that trap at the word, where no access is made (R249, R319). -/
def State.waitFor (s : State) (w : Wait) (hw : Bool) : Res := s.waitAt w hw s.wordPc

/-- HOPIX and REASON of a route-fault for which no rule states them (R249): free. -/
def State.freeDetail (s : State) : Word := Config.freeWord s.free &&& 0x77F

/-- A free value is used up. -/
def State.tick (s : State) : State := { s with free := s.free + 1 }

end Sys2Proof.Machine
end

