-- ==== Sys2Proof/Machine/Packet.lean ====
section
/-! DEFINITION. Packets: route strings and their injection checks (R74, R83, R84, R89), building a request, and answering one. -/

namespace Sys2Proof.Machine

/-- Meet the soft errors of the `n` entries that an injection reads from entry `k` on (R62, R63, R84). -/
def State.seeRoute (s : State) (unit core : Nat) : Nat → Nat → State
  | 0, _ => s
  | f + 1, k =>
    if s.errs = [] then s
    else
      let t := s.see (coreKey unit core (routeOff unit + 16 * k)) 16
      let e := t.routeEntry unit core k
      if e.ext then t.seeRoute unit core f e.next else t

/-- Meet the soft errors of the entries that a command's checks and legs read. -/
def State.seeRoutes (s : State) (unit core : Nat) (ns : List Nat) : State :=
  if s.errs = [] then s else ns.foldl (fun t n => t.seeRoute unit core 3 n) s

/-- The extensions of an entry's string (R84): at most two, since 256 bits are then filled. -/
def State.extend (s : State) (unit core : Nat) : Nat → RouteE → Nat → Nat → Nat
  | 0, _, str, _ => str
  | f + 1, k, str, n =>
    if k.ext ∧ n < 256 then
      let e := s.routeEntry unit core k.next
      s.extend unit core f e (str ||| (e.codes <<< n)) (n + 108)
    else str

/-- `ImplicitRoute` of R84 without its VALID test: the string of entry `n`. -/
def State.routeString (s : State) (unit core n : Nat) : BitVec 256 :=
  let e := s.routeEntry unit core n
  BitVec.ofNat 256 (s.extend unit core 3 e e.codes 108)

/-- Where a walk along a string stands: on the panel or at a gateway (R74). -/
inductive Walk where
  | panel | gate
deriving DecidableEq, Repr, Inhabited

/-- The width of the item at the front of a string (R74 to R76). -/
def itemWidth (w : Walk) (str : Nat) : Nat :=
  if str % 8 ≠ 5 then 3
  else
    let port := str / 8 % 16
    match w with
    | .panel => if port = 2 then 11 else 7
    | .gate => if port = 15 then 11 else 7

/-- Where the walk stands after an item. -/
def itemNext (w : Walk) (str : Nat) : Walk :=
  if str % 8 = 5 then
    match w with
    | .panel => if str / 8 % 16 = 2 then .gate else .panel
    | .gate => if str / 8 % 16 = 15 then .panel else .gate
  else w

/-- The walk of R89: the index of the item at which the string is refused, or none. -/
def walkRoute : Nat → Walk → Nat → Nat → Nat → Option Nat
  | 0, _, _, _, ix => some ix
  | f + 1, w, str, pos, ix =>
    if pos = 256 then some (ix - 1)
    else if 253 < pos then some ix
    else if str % 8 = 7 then none
    else
      let n := itemWidth w str
      if 256 < pos + n then some ix else walkRoute f (itemNext w str) (str / 2 ^ n) (pos + n) (ix + 1)

/-- R89 for a string injected by a core, a rim die or a link die; a rim die's first item is its edge index (R77).  Any other first item is
walked as a panel's, and the die answers it MALFORMED (DEDUCED, log 23). -/
def routeRefused (fromRim fromLink : Bool) (str : BitVec 256) : Option Nat :=
  if fromRim then
    (if str.toNat % 8 = 5 then walkRoute 90 .panel (str.toNat / 128) 7 1 else walkRoute 90 .panel str.toNat 0 0)
  else walkRoute 90 (if fromLink then .gate else .panel) str.toNat 0 0

/-- Where a packet of a core starts: its router, or its rim die (R77). -/
def startLoc (unit core : Nat) : Loc :=
  if unit < 12 then (let (x, y) := coreXY unit core; .router x y) else .rim (unit - 16)

/-- A request before injection. -/
def mkPkt (s : State) (p : Place) (kind len : Nat) (dest : Nat) (body : Body) : Pkt :=
  { route := 0, lane := 0, resp := false, kind := kind, len := len, hop := 0, last := 0, lastv := false, xpl := false,
    src := s.srcNum p.unit p.core, slot := p.slot, iport := if p.unit < 12 then 0 else 2, dest := dest, dmod := s.moduleNo.toNat,
    stamp := s.ts, info := 0, body := body, loc := startLoc p.unit p.core, route0 := 0, lane0 := 0, entry := none, id := s.free, hopped := none, rstamp := 0,
    gone := 0, got := [], req := (0, 0, .none) }

/-- What an implicit injection does (R84, R89, R92). -/
inductive Inject where
  /-- The request is in the fabric. -/
  | sent (s : State)
  /-- The head entry has VALID 0: the access parks on it. -/
  | park (s : State)
deriving DecidableEq, Repr

/-- Clear VALID of a route entry (R89, R92). -/
def clearValid (s : State) (unit core n : Nat) : State :=
  let k := coreKey unit core (routeOff unit + 16 * n) + 15
  { s with mem := memSet s.mem k (memGet s.mem k &&& 0xFB) }

/-- Raise ROUTE for an entry with a reason and item index (R89, R92, R262). -/
def routeEvent (s : State) (p : Place) (n reason hopix : Nat) : State :=
  s.raise p.unit p.core p.slot 1 (s.slot p).th.ctx.toNat (BitVec.ofNat 64 n) (BitVec.ofNat 64 (reason + hopix * 256))

/-- Inject an implicit request on route-table index `n` (R84, R89): a string refused by the walk clears VALID, raises ROUTE with reason
MALFORMED and parks. -/
def injectOn (s : State) (p : Place) (n : Nat) (q : Pkt) : Inject :=
  let s := s.seeRoute p.unit p.core 3 n
  let e := s.routeEntry p.unit p.core n
  if e.valid = false then .park s
  else
    let str := s.routeString p.unit p.core n
    match routeRefused p.rim false str with
    | some ix => .park (routeEvent (clearValid s p.unit p.core n) p n 1 ix)
    | none =>
      .sent { s with pkts := s.pkts ++ [{ q with route := str, lane := e.lane, route0 := str, lane0 := e.lane, entry := some (n, e.raw) }] }

/-- Inject a request whose home is the executing core or rim die, or a core reached inside it: it does not enter the fabric (R77). -/
def injectLocal (s : State) (q : Pkt) (at' : Loc) : State := { s with pkts := s.pkts ++ [{ q with loc := at' }] }

/-- Inject a request towards a unit's home: directly at a rim die's own memories, else on its route index. -/
def inject (s : State) (p : Place) (r : Rng) (q : Pkt) : Inject :=
  match s.homeOf p.unit r with
  | some h => if h = p.unit ∧ p.rim then .sent (injectLocal s q (.atRim (p.unit - 16) none)) else
      (match r with
       | .core u c _ _ => if u = p.unit ∧ c = p.core then .sent (injectLocal s q (let (x, y) := coreXY u c; .atCore x y))
                          else injectOn s p (s.routeIx p.unit r) q
       | .page u c _ => if u = p.unit ∧ c = p.core then .sent (injectLocal s q (let (x, y) := coreXY u c; .atCore x y))
                        else injectOn s p (s.routeIx p.unit r) q
       | _ => injectOn s p (s.routeIx p.unit r) q)
  | none => injectOn s p (s.routeIx p.unit r) q

/-- The place a packet's source number and slot name. -/
def Pkt.place (q : Pkt) : Place := ⟨q.src / 128 % 32, q.src % 128, q.slot⟩

/-- Build a response from a request (R80). -/
def respond (q : Pkt) (kind len : Nat) (b : Body) : Pkt := 
  { q.back with resp := true, kind := kind, len := len, body := b, req := if q.resp then q.req else (q.kind, q.len, q.body) }

/-- Remove packet `k` and put its response in its place's end. -/
def answerPkt (s : State) (k : Nat) (q : Pkt) (kind len : Nat) (b : Body) : State :=
  { s with pkts := s.pkts.eraseIdx k ++ [respond q kind len b] }

/-- Answer packet `k` with a NACK (R90). -/
def nackPkt (s : State) (k : Nat) (q : Pkt) (reason : Nat) : State := { s with pkts := s.pkts.eraseIdx k ++ [nackOf q reason] }

/-- Take packet `k` out of the fabric. -/
def dropPkt (s : State) (k : Nat) : State := { s with pkts := s.pkts.eraseIdx k }

/-- Whether the endpoint holds DEST (R75): the range homed at the core, vault row, rim die or link die where the packet stands. -/
def holdsDest (s : State) (q : Pkt) : Bool :=
  q.dmod == s.moduleNo.toNat &&
  (match q.loc, decodeLa 31 0 q.dest with
   | .atCore x y, .core u c _ _ => decide (u < 12) && xyCore x y == (u, c)
   | .atCore x y, .page u c _ => decide (u < 12) && xyCore x y == (u, c)
   | .atVault x y, .vault b v _ => (xyCore x y).1 == b && (xyCore x y).2 / 8 == v
   | .atVault x y, .bedCtl b _ _ => (xyCore x y).1 == b && (xyCore x y).2 / 8 == 0
   | .atRim k _, .core u _ _ _ => u == 16 + k
   | .atRim k _, .page u _ _ => u == 16 + k
   | .atRim _ _, .hbm _ => true
   | .atRim k _, .rimDie d _ _ => k == d
   | .atLink d, .linkDie e _ _ => d == e
   | .atLink d, .host _ => d == 0
   | _, _ => false)

/-- The answer of a region table to a request (R181): served, or the NACK reason. -/
def State.regionCheck (s : State) (die off : Nat) (stamp : Word) (write : Bool) : Option Nat :=
  let e := s.rimRegion die (off / regionSize)
  if e.stamp ≠ stamp then some 3
  else if write ∧ e.wfz then some 3
  else if e.mode = 3 then some 5
  else if (placeHbm e (off % regionSize)).1 / 2 ≠ die then some 1
  else none

end Sys2Proof.Machine
end

