-- ==== Sys2Proof/Machine/Translate.lean ====
section
/-! DEFINITION. Translation: the TLB, its misses and fills, and the refault record (R153 to R168). -/

namespace Sys2Proof.Machine

/-- An entry from its two words (R154); HOT is kept apart. -/
def TlbE.ofWords (w0 w1 : Word) (hot own : Nat) : TlbE :=
  { vpn := w0.toNat % 2 ^ 48, size := w0.getLsbD 48, ctx := BitVec.ofNat 12 (w0.toNat / 2 ^ 49), valid := w0.getLsbD 61,
    spn := w1.toNat % 2 ^ 48, rd := w1.getLsbD 48, wr := w1.getLsbD 49, ex := w1.getLsbD 50, usr := w1.getLsbD 51, hot := hot, own := own }

/-- Word 0 and word 1 of an entry (R154). -/
def TlbE.word0 (e : TlbE) : Word :=
  BitVec.ofNat 64 (e.vpn + b2n e.size * 2 ^ 48 + e.ctx.toNat * 2 ^ 49 + b2n e.valid * 2 ^ 61)
def TlbE.word1 (e : TlbE) : Word :=
  BitVec.ofNat 64 (e.spn + b2n e.rd * 2 ^ 48 + b2n e.wr * 2 ^ 49 + b2n e.ex * 2 ^ 50 + b2n e.usr * 2 ^ 51 + e.hot * 2 ^ 52)

/-- Whether a valid entry's page holds a program address (R154, R155). -/
def TlbE.holds (e : TlbE) (va : Word) : Bool :=
  let n := va.toNat / 2 ^ 16
  e.valid && (if e.size then e.vpn / 32 == n / 32 else e.vpn == n)

/-- Whether two entries' pages overlap (R161). -/
def TlbE.overlaps (e f : TlbE) : Bool :=
  if e.size || f.size then e.vpn / 32 == f.vpn / 32 else e.vpn == f.vpn

/-- `Lookup` of R155: the entry number and entry. -/
def tlbLookup (t : Tbl TlbE) (own : Nat) (ctx : BitVec 12) (va : Word) : Option (Nat × TlbE) :=
  List.find? (fun (e : Nat × TlbE) => e.2.ctx == ctx && e.2.own == own && e.2.holds va) t

/-- The system address a hit gives (R155). -/
def TlbE.addr (e : TlbE) (va : Word) : Word :=
  BitVec.ofNat 64 (e.spn * 2 ^ 16 + (if e.size then va.toNat % 2 ^ 21 else va.toNat % 2 ^ 16))

/-- The permissions a kind needs (R155): future operations and atomics read and write. -/
def permOk (kind : Kind) (e : TlbE) : Bool :=
  match kind with
  | .fetch => e.ex
  | .load => e.rd
  | .vector => e.rd
  | .matrix => e.rd
  | .store => e.wr
  | .red => e.wr
  | .atomic => e.rd && e.wr
  | .future => e.rd && e.wr

/-- KIND of a miss-queue entry (R159). -/
def missKind (kind : Kind) : Nat :=
  match kind with
  | .load => 0
  | .vector => 0
  | .matrix => 0
  | .store => 1
  | .red => 1
  | .fetch => 2
  | .atomic => 3
  | .future => 3

/-- The victim of a miss (R156): the lowest invalid entry, or the one least recently hit, among those no outstanding miss has chosen. -/
def victim (c : Core) : Nat :=
  let taken := c.tlbMiss.map (·.1)
  let isValid := fun i => match Tbl.look c.tlb i with
    | some e => e.valid
    | none => false
  match (List.range 64).find? fun i => !taken.contains i && !isValid i with
  | some i => i
  | none => ((c.tlbUse.filter fun i => !taken.contains i).head?).getD 0

/-- The miss-queue entry of R159. -/
def missWords (va : Word) (ctx : BitVec 12) (p : Place) (kind : Nat) (user eng : Bool) (engu engix engk ix : Nat) (v : Option TlbE)
    (ts : Word) : List Word :=
  let vic := match v with
    | some e => e.valid
    | none => false
  let w1 := ctx.toNat + p.unit * 2 ^ 12 + p.core * 2 ^ 17 + p.slot * 2 ^ 24 + kind * 2 ^ 27 + b2n user * 2 ^ 29 + b2n eng * 2 ^ 30
    + engu * 2 ^ 31 + engix * 2 ^ 36 + engk * 2 ^ 40 + ix * 2 ^ 42 + b2n vic * 2 ^ 48 + (v.map (·.hot)).getD 0 * 2 ^ 49
  [va, BitVec.ofNat 64 w1, (v.map (·.word0)).getD 0, ts]

/-- The bed whose service cores serve a core's misses (R158). -/
def State.serviceBed (s : State) (p : Place) : Nat :=
  if p.unit < 12 then p.unit else (s.coreAt p).txctl.toNat / 256 % 32

/-- The service core a miss goes to (R158). -/
def serviceCore (va : Word) : Nat := if va.getLsbD 16 then 127 else 126

/-- A miss message towards its service core (R158). -/
def missPkt (s : State) (p : Place) (va : Word) (ws : List Word) : Pkt × Rng :=
  let b := s.serviceBed p
  let c := serviceCore va
  (mkPkt s p 1 1 (b * 2 ^ 36 + c * 2 ^ 24 + 2 ^ 23 + 0x960) (.miss ws), .page b c 0x960)

/-- What `Translate` does (R155). -/
inductive Trans where
  | ok (s : State) (sa : Word)
  | trap (s : State) (t : Trap)
  | wait (s : State) (w : Wait) (hw : Bool)
  /-- A light thread is shipped to the pager's rim die (R167). -/
  | ship (s : State) (pager : Nat)
deriving DecidableEq, Repr

/-- Count a refault and write the record (R168) when a page-not-present trap is taken at a place. -/
def refault (s : State) (p : Place) (va : Word) : State :=
  let x := s.slot p
  let page := va.toNat / 2 ^ 16
  let again := x.refault.getLsbD 63 && x.refault.toNat % 2 ^ 48 == page
  let s := if again then s.modCoreAt p fun c => { c with txRefault := min (c.txRefault + 1) 0xFFFFFFFF } else s
  s.modSlot p fun x => { x with refault := BitVec.ofNat 64 (page + 2 ^ 63) }

/-- The pager that the answer to the miss of an access names, if it said that the page is not present (R166, R167). -/
def pagerOf (va : Word) : List Resp → Option Nat
  | [] => none
  | .notPresent k v :: r => if v = va then some k else pagerOf va r
  | _ :: r => pagerOf va r

/-- The system address that an access of the bundle has been given already (R155). -/
def pageOf (va : Word) (kind : Kind) (rs : List Resp) : Option Word :=
  rs.findSome? fun
    | .page v k sa => if v = va ∧ k = kind then some sa else none
    | _ => none

/-- Send the miss message and wait for the fill (R156, R158).  While an earlier miss of the slot is outstanding, after a pre-emption, no new message leaves and the
slot waits for that fill; the spec does not say (DESIGN CHOICE, assumption 158). -/
def tlbMissed (s : State) (p : Place) (va : Word) (kind : Kind) : Trans :=
  let c := s.coreAt p
  let x := s.slot p
  if 12 ≤ s.serviceBed p then .trap s (Trap.of 5 1 va)
  else if c.tlbMiss.any fun e => e.2 == p.slot then .wait s (.fill va kind) true
  else
    let ix := victim c
    let ws := missWords va x.th.ctx p (missKind kind) (!x.th.mode) false 0 0 0 ix (Tbl.look c.tlb ix) s.ts
    let (q, r) := missPkt s p va ws
    match inject s p r q with
    | .park s => .wait s (.route (s.routeIx p.unit r)) true
    | .sent s =>
      .wait (s.modCoreAt p fun c => { c with tlbMiss := c.tlbMiss ++ [(ix, p.slot)], txMiss := min (c.txMiss + 1) 0xFFFFFFFF })
        (.fill va kind) true

/-- The protection trap of a translation whose SUB no rule gives (R155, R161): SUB is free (assumption 25). -/
def State.openSub (s : State) (va : Word) : Trap := Trap.of 5 ((Config.freeWord s.free).toNat % 8) va

/-- `Translate` of R155 for the thread at a place.  A miss that was answered with NP or refused ends in its trap, or ships, whatever the TLB holds by then; an access
whose request has gone out keeps the translation it was made with. -/
def translate (s : State) (p : Place) (va : Word) (kind : Kind) : Trans :=
  let c := s.coreAt p
  let x := s.slot p
  match pageOf va kind x.resp with
  | some sa => .ok s sa
  | none =>
  if c.txctl.getLsbD 0 = false then .trap s.tick (s.openSub va)
  else
    match pagerOf va x.resp with
    | some k => if p.heavy then .trap (refault s p va) (Trap.of 6 0 va) else .ship s k
    | none =>
    if x.resp.contains (.noFill va) then .trap s.tick (s.openSub va)
    else
    match tlbLookup c.tlb 0 x.th.ctx va with
    | some (i, e) =>
      if permOk kind e = false then .trap s (Trap.of 5 1 va)
      else if x.th.mode = false ∧ e.usr = false then .trap s (Trap.of 5 1 va)
      else
        let s := s.modCoreAt p fun c =>
          { c with tlb := Tbl.set c.tlb i { e with hot := min (e.hot + 1) 255 }, tlbUse := c.tlbUse.filter (· != i) ++ [i] }
        let s := { s with cur := { s.cur with hits := s.cur.hits ++ [(va, kind, e.addr va)] } }
        .ok (s.modSlot p fun x => { x with refault := x.refault &&& 0x7FFFFFFFFFFFFFFF }) (e.addr va)
    | none => tlbMissed s p va kind

/-! ### Fills and invalidations -/

/-- The program address whose miss an answer is for. -/
def Resp.missed : Resp → Option Word
  | .notPresent _ va => some va
  | .noFill va => some va
  | _ => none

/-- What a bundle keeps of its translations while it is executed again: the answers to its misses, and the addresses its accesses have been given. -/
def Resp.pages : Resp → Bool
  | .page _ _ _ => true
  | r => r.missed.isSome

/-- Release a slot that waits for a fill, with the answer to the access that missed (R161, R166). -/
def releaseFill (s : State) (unit core slot : Nat) (r : Word → List Resp) : State :=
  let p : Place := ⟨unit, core, slot⟩
  let s := s.modCoreAt p fun c => { c with tlbMiss := c.tlbMiss.filter fun e => e.2 != slot }
  match (s.slot p).wait with
  | some (.fill va _) => s.modSlot p fun x => { x.wake with resp := r va ++ x.resp.filter fun a => a.missed != some va }
  | _ => s

/-- Put an entry into a TLB: entries of the same context that overlap go, their HOT added (R161). -/
def tlbInstall (t : Tbl TlbE) (ix : Nat) (e : TlbE) : Tbl TlbE :=
  let clash := t.filter fun f => f.1 != ix && f.2.valid && f.2.ctx == e.ctx && f.2.own == e.own && f.2.overlaps e
  let hot := min 255 (clash.foldl (fun n f => n + f.2.hot) 0)
  Tbl.set (t.filter fun f => !(f.1 != ix && f.2.valid && f.2.ctx == e.ctx && f.2.own == e.own && f.2.overlaps e)) ix { e with hot := hot }

/-- Whether a fill's page fields are refused (R161). -/
def fillBad (w0 w1 : Word) : Bool := w0.getLsbD 48 && (w0.toNat % 32 != 0 || w1.toNat % 32 != 0)

/-- A committed fill without NP and ENG (R161).  The entry it writes counts as the one most recently hit, which the spec leaves open for the choice of a victim
(R156; DESIGN CHOICE, assumption 157). -/
def fillCommit (s : State) (unit core : Nat) (ctl : Word) : State :=
  let c := s.core unit core
  let slot := bits ctl.toNat 8 6
  if fillBad c.fw0 c.fw1 then releaseFill s unit core slot fun va => [.noFill va]
  else
    let ix := bits ctl.toNat 5 0
    let s := s.modCore unit core fun c =>
      { c with tlb := tlbInstall c.tlb ix (TlbE.ofWords c.fw0 c.fw1 0 0), tlbUse := c.tlbUse.filter (· != ix) ++ [ix] }
    releaseFill s unit core slot fun _ => []

/-- A committed fill with NP: the slot is released into R166 or R167.  PAGER names a rim die as 16 to 21 (R160); a light slot whose fill
names none keeps waiting (a stuck state, log 24). -/
def fillNotPresent (s : State) (unit core : Nat) (ctl : Word) : State :=
  let slot := bits ctl.toNat 8 6
  let pager := bits ctl.toNat 14 10
  if (Place.mk unit core slot).heavy ∨ (16 ≤ pager ∧ pager < 22) then releaseFill s unit core slot fun va => [.notPresent (pager - 16) va] else s

/-- Read and write an engine by its unit, kind (0 copy, 1 stash encoder, 2 graft unit) and index (R159). -/
def State.engine (s : State) (unit kind ix : Nat) : Engine :=
  if unit < 12 then (if kind = 2 then (s.bed unit).graft else Tbl.get Engine.empty (s.bed unit).engines ix)
  else if kind = 1 then Tbl.get Engine.empty (s.rim (unit - 16)).encs ix
  else Tbl.get Engine.empty (s.rim (unit - 16)).engines ix
def State.setEngine (s : State) (unit kind ix : Nat) (e : Engine) : State :=
  if unit < 12 then
    s.modBed unit fun b => if kind = 2 then { b with graft := e } else { b with engines := Tbl.set b.engines ix e }
  else s.modRim (unit - 16) fun r => if kind = 1 then { r with encs := Tbl.set r.encs ix e } else { r with engines := Tbl.set r.engines ix e }

/-- A fill for a page of the lineage ring (R149): the words go into the ranker's entry; without a page the record that waits for it cannot be written, and counts as
done (assumption 67). -/
def fillRanker (s : State) (ctl : Word) (own : Nat) (w0 w1 : Word) : State :=
  let r := s.ranker
  let r := if ctl.getLsbD 9 || fillBad w0 w1 then
      { r with go := r.go.map fun g => { g with pairs := g.pairs.map fun p => if r.asked = some p.i then { p with recorded := true } else p } }
    else { r with tlb := tlbInstall r.tlb (bits ctl.toNat 4 0) (TlbE.ofWords w0 w1 0 own) }
  { s with ranker := { r with asked := none } }

/-- A fill forwarded to an engine (R162): the words go into its TLB, and NP or bad page fields end its command with status PAGE. -/
def fillEngineWith (s : State) (ctl : Word) (own : Nat) (w0 w1 : Word) : State :=
  let u := bits ctl.toNat 20 16
  let ix := bits ctl.toNat 24 21
  let k := bits ctl.toNat 26 25
  let n := bits ctl.toNat 4 0
  let e : Engine := s.engine u k ix
  let bad := ctl.getLsbD 9 || fillBad w0 w1
  let mine : Bool := match e.miss with
    | some (_, _, some j) => j == n
    | _ => false
  let ps : List (Nat × Nat × Bool) :=
    if bad then e.probes.map (fun (p : Nat × Nat × Bool) => if p.2.1 = n then (p.1, n, true) else p)
    else e.probes.filter fun (p : Nat × Nat × Bool) => p.2.1 != n
  let e : Engine := { e with probes := ps }
  let e : Engine := if bad then { e with err := if mine ∧ e.err = none then some (3, (e.miss.map (·.1)).getD 0, 0) else e.err }
    else { e with tlb := tlbInstall e.tlb n (TlbE.ofWords w0 w1 0 own) }
  if u = 25 then fillRanker s ctl own w0 w1 else s.setEngine u k ix { e with miss := if mine then none else e.miss }

/-- Send a fill on to the engine of another module that missed, along the route of its command (R121, R162): its unit, index and kind, the route entry, and its
module. -/
def sendFill (s : State) (p : Place) (f : Nat × Nat × Nat × Nat × Nat) (ctl w0 w1 : Word) : State :=
  let (u, ix, k, n, m) := f
  let dest := if u < 12 then u * 2 ^ 36 + 3 * 2 ^ 30 + 5 * 2 ^ 16 + 16 * ix else 0x1F * 2 ^ 44 + (u - 16) * 2 ^ 28 + 2 ^ 27 + (1 + k) * 2 ^ 24 + 16 * ix
  let q := { mkPkt s p 5 1 dest (.fill ctl w0 w1 s.moduleNo.toNat) with dmod := m }
  match injectOn s p n q with
  | .sent s => s.tick
  | .park s => ({ s with retries := s.retries ++ [{ pkt := { q with entry := some (n, 0) }, why := 2 }] } : State).tick

/-- A committed fill with ENG in a core's control page: it goes to the engine that missed, which for a miss that came from another module is
there (R121, R162).  A fill names no module: one for the entry and page of a miss from another module is taken as that miss's (DESIGN CHOICE, assumption 179). -/
def fillEngine (s : State) (unit core : Nat) (ctl : Word) (own : Nat) : State :=
  let c := s.core unit core
  match c.farMiss.find? fun f => f.1.1 == bits ctl.toNat 20 16 && f.1.2.1 == bits ctl.toNat 24 21 && f.1.2.2.1 == bits ctl.toNat 26 25 && f.2.1 == bits ctl.toNat 5 0 &&
      (ctl.getLsbD 9 || { TlbE.ofWords c.fw0 c.fw1 0 0 with valid := true }.holds f.2.2) with
  | some f => sendFill (s.modCore unit core fun c => { c with farMiss := c.farMiss.erase f }) ⟨unit, core, 0⟩ f.1 ctl c.fw0 c.fw1
  | none => fillEngineWith s ctl own c.fw0 c.fw1

/-- The entries a TLBINV removes (R163): nothing of them is left, so their place in the TLB window reads zero, where the spec does not say what an invalidated
entry reads as (DESIGN CHOICE, assumption 159). -/
def tlbDrop (t : Tbl TlbE) (own : Nat) (scope : Nat) (ctx : BitVec 12) (va : Word) : Tbl TlbE :=
  t.filter fun e =>
    !(e.2.own == own &&
      (if scope = 0 then e.2.ctx == ctx && e.2.holds va else if scope = 1 then e.2.ctx == ctx else scope == 2))

/-- Apply an invalidation to every engine TLB of the module, for owners of this module (R163, ENGALL). -/
def engineDrop (s : State) (own scope : Nat) (ctx : BitVec 12) (va : Word) : State :=
  let one := fun (e : Engine) => { e with tlb := tlbDrop e.tlb own scope ctx va }
  let s := { s with beds := Tbl.mapV (fun b => { b with engines := Tbl.mapV one b.engines, graft := one b.graft }) s.beds }
  { s with rims := Tbl.mapV (fun r => { r with engines := Tbl.mapV one r.engines, encs := Tbl.mapV one r.encs }) s.rims,
           ranker := { s.ranker with tlb := tlbDrop s.ranker.tlb own scope ctx va } }

/-- A committed TLBINV (R163): SCOPE 3 is ignored. -/
def tlbInvalidate (s : State) (unit core : Nat) (ctl : Word) : State :=
  let scope := bits ctl.toNat 13 12
  let ctx : BitVec 12 := ctl.truncate 12
  let va := (s.core unit core).iva
  if scope = 3 then s
  else
    let s := s.modCore unit core fun c => { c with tlb := tlbDrop c.tlb 0 scope ctx va }
    if ctl.getLsbD 14 then engineDrop s s.moduleNo.toNat scope ctx va else s

end Sys2Proof.Machine
end

