-- ==== Sys2Proof/Machine/Slots.lean ====
section
/-! DEFINITION. Slots: starting, resuming, holding and discarding a thread (R216, R242), pre-emption (R255, R176) and the freeze of a
matrix unit (R256 to R258). -/

namespace Sys2Proof.Machine

/-! ### Starting and resuming -/

/-- Move a FREE slot to READY for a new thread (R216, R242, R338): nothing is left of the thread before it.  Its start is an acquire (R199, R201), of all that
any thread has observed (DESIGN CHOICE, assumption 35). -/
def startSlot (s : State) (p : Place) (prio : Nat) (gang : Option (Nat × Nat)) : State :=
  let s := s.modSlot p fun x => { x.emptied with st := .ready, name := p.name, entry := true, fresh := true, gangPrio := prio, gang := gang, arvV := false }
  let ids := s.pending fun l => (match l.maker with
    | .thread _ => true
    | _ => false) || s.seen.any fun e => e.2.contains l.id
  { s with seen := if ids = [] then Tbl.erase s.seen p.name.toNat else Tbl.set s.seen p.name.toNat ids, heard := Tbl.erase s.heard p.name.toNat }

/-- Resume a READY slot from its save area (R30, R40); a bad word there is reported, parks it with PARKWHY 3 and raises SAVEBAD (R63), once the events find
entries (R263). -/
def resumeSlot (s : State) (p : Place) : State :=
  let k := coreKey p.unit p.core (saveOff p)
  match s.meet k (saveLen p) with
  | (t, true) =>
    stopForEvent s ((t.raise p.unit p.core p.slot 0xB (s.slot p).th.ctx.toNat (BitVec.ofNat 64 p.slot)
      (BitVec.ofNat 64 ((anyBad s k (saveLen p)).getD 0))).modSlot p fun x => { x with st := .park, parkWhy := 3, held := false })
  | (s, false) =>
    let t := s.loadThread p
    let r := s.loadReach p
    let rf := s.loadRefault p
    s.modSlot p fun x =>
      { x with st := .run, held := false, parkWhy := 0, th := t, reach := r, fresh := false, refault := if x.fresh then 0 else rf, wait := none,
               resp := [], backoff := 0, preq := false, late := [] }

/-- Resume every slot that is READY and not held (R215, R216): the hardware does so at once. -/
def resumeReady (s : State) : State :=
  let ks := (s.slots.filter fun e => e.2.st == .ready && !e.2.held).map (·.1)
  ks.foldl (fun t k => resumeSlot t ⟨k / 1024, k / 8 % 128, k % 8⟩) s

/-- The state of a slot as SLST.STATE codes it (R215). -/
def SlotState.code : SlotState → Nat
  | .free => 0
  | .ready => 1
  | .run => 2
  | .wait => 3
  | .park => 4
  | .away => 5
  | .lost => 6

/-- SLST (R215). -/
def State.slst (s : State) (p : Place) : Word :=
  let x := s.slot p
  BitVec.ofNat 64 (x.st.code + (if x.st = .park then x.parkWhy * 8 else 0) + x.th.ctx.toNat * 2 ^ 8 + b2n x.th.mode * 2 ^ 20
    + b2n x.held * 2 ^ 21)

/-- A store of READY to a FREE slot (R216). -/
def slotStart (s : State) (p : Place) : State := if (s.slot p).st = .free then startSlot s p 3 none else s

/-- A store of READY to a parked slot (R216): it resumes, and a route park retries its access. -/
def slotResume (s : State) (p : Place) : State :=
  if (s.slot p).st = .park then s.modSlot p fun x => { x with st := .ready, parkWhy := 0, held := false, wait := none } else s

/-- A store of PARK to a READY slot (R216). -/
def slotHold (s : State) (p : Place) : State :=
  if (s.slot p).st = .ready then s.modSlot p fun x => { x with st := .park, parkWhy := 0, held := false } else s

/-- A store of FREE to a READY or parked slot: the thread is discarded, and for its gang it has ended (R216, R244). -/
def slotDiscard (s : State) (p : Place) : State :=
  if (s.slot p).st = .ready ∨ (s.slot p).st = .park then
    let g := (s.slot p).gang
    gangEnded (freeSlot s p) g
  else s

/-- A store of FREE to a LOST slot (R216). -/
def slotReleaseLost (s : State) (p : Place) : State := if (s.slot p).st = .lost then freeSlot s p else s

/-- A store of READY to a slot held READY after a pre-emption (R216). -/
def slotResumeHeld (s : State) (p : Place) : State :=
  if (s.slot p).st = .ready ∧ (s.slot p).held then s.modSlot p fun x => { x with held := false } else s

/-! ### Pre-emption (R255, R176) -/

/-- The slot where the thread of a home slot stands: itself, or the landing slot of its away thread. -/
def State.whereIs (s : State) (p : Place) : Option Place :=
  let x := s.slot p
  if x.st = .away then
    (s.slots.find? fun e => e.1 != slotKey p && e.2.name == x.name && (e.2.st == .run || e.2.st == .wait)).map
      fun e => ⟨e.1 / 1024, e.1 / 8 % 128, e.1 % 8⟩
  else some p

/-- A landing-queue image of a home slot's thread: the queue holds packets (R173). -/
def imageName (q : Pkt) : BitVec 15 := q.info.truncate 15

/-- Remove a thread's image from every landing queue. -/
def unqueue (s : State) (n : BitVec 15) : State :=
  let keep := fun (l : List Pkt) => l.filter fun q => imageName q != n
  { s with
    beds := Tbl.mapV (fun b => { b with landing := Tbl.mapV keep b.landing }) s.beds
    rims := Tbl.mapV (fun r => { r with landing := keep r.landing }) s.rims }

/-- The queued image of a thread, if there is one. -/
def queuedImage (s : State) (n : BitVec 15) : Option Pkt :=
  ((s.beds.flatMap fun b => b.2.landing.flatMap fun l => l.2) ++ s.rims.flatMap fun r => r.2.landing).find? fun q => imageName q == n

/-- Write an image into the home save area and hold the slot READY, if the home slot is held AWAY for the name; otherwise the thread ends and a
REJECTED event names it (R176). -/
def bringHome (s : State) (n : BitVec 15) (bytes : List Byte) (refault : Word) (ctx : BitVec 12) (mode : Bool)
    (gang : Option (Nat × Nat)) (prio : Nat) (unit : Nat) : State × Bool :=
  let h := homePlace n
  if (s.slot h).st = .away ∧ (s.slot h).name = n then
    let k := coreKey h.unit h.core (saveOff h)
    let s := s.put .ls k (bytes.take 0x180)
    let s := s.put .ls (k + 0x118) (wordsBytes [h.name.zeroExtend 64])
    let s := s.put .ls (k + 0x1A0) (wordsBytes [refault])
    (s.modSlot h fun x =>
      { x.emptied with st := .ready, held := true, name := n, th := { x.th with ctx := ctx, mode := mode }, gang := gang, gangPrio := prio },
     true)
  else (gangEnded (s.raise unit 0 0 5 ctx.toNat (n.zeroExtend 64) 0) gang, false)

/-- The home slot of an image that a landing queue or a SAVE packet brings (R172, R176). -/
def bringImage (s : State) (q : Pkt) (unit : Nat) : State × Bool :=
  match q.body with
  | .image bytes rf _ _ _ prio gang w =>
    let rd := fun o => word64 ((bytes.drop o).take 8)
    match bringHome s (imageName q) bytes rf ((rd 0x110).truncate 12) ((rd 0x108).getLsbD 0) gang prio unit with
    | (s, true) => (s.modSlot (homePlace (imageName q)) fun x => { x with entry := w.2.2 }, true)
    | r => r
  | _ => (s, false)

/-- A queued image whose thread is to be pre-empted is brought home, once the stores that entered its home core's store buffer before have left (R40, R176). -/
def fetchHome (s : State) (h : Place) : State :=
  let n := (s.slot h).name
  match queuedImage s n with
  | some q => if saveHeld s h then s else (bringImage (unqueue s n) q h.unit).1
  | none => s

/-- A pre-emption request for a slot (R255): a home slot held AWAY passes it to where its thread stands, and keeps it for a queued image until that has been brought
home. -/
def preemptRequest (s : State) (p : Place) : State :=
  let x := s.slot p
  if x.st = .away then
    match s.whereIs p with
    | some q => s.modSlot q fun y => { y with preq := true }
    | none =>
      match queuedImage s x.name with
      | some _ => fetchHome (s.modSlot p fun y => { y with preq := true }) p
      | none => s
  else if x.st = .run ∨ x.st = .wait then s.modSlot p fun y => { y with preq := true }
  else s

/-- Meet the soft errors of the word of a context record that places the context's images (R62, R63). -/
def State.seeImage (s : State) (bed core : Nat) (ctx : BitVec 12) : State :=
  let e := Tbl.get 0 (s.bed bed).ctxTab ctx.toNat
  if e.getLsbD 63 then
    match decodeLa bed core (e.toNat % 2 ^ 52) with
    | .vault b v off => s.see (vaultKey b v off + 40) 8
    | _ => s
  else s

/-- The address and validity of a context's freeze image for a core (R236, R257). -/
def State.imageKey (s : State) (bed core : Nat) (ctx : BitVec 12) : Option Nat :=
  let e := Tbl.get 0 (s.bed bed).ctxTab ctx.toNat
  if e.getLsbD 63 then
    match decodeLa bed core (e.toNat % 2 ^ 52) with
    | .vault b v off =>
      let img := (s.peekW (vaultKey b v off + 40)).toNat % 2 ^ 52 + 0x5000 * core
      (match decodeLa bed core img, decodeLa bed core (img + 0x4FFF) with
       | .vault b1 v1 o1, .vault b2 v2 _ => if b1 = bed ∧ b2 = bed ∧ v1 = v2 then some (vaultKey b1 v1 o1) else none
       | _, _ => none)
    | _ => none
  else none

/-- One byte of CRC-32C (R118). -/
def crcByte (v : Nat) (b : Byte) : Nat :=
  let one := fun x => if x % 2 = 1 then (x / 2) ^^^ 0x82F63B78 else x / 2
  (List.range 8).foldl (fun x _ => one x) (v ^^^ b.toNat)

/-- CRC-32C of bytes (R118). -/
def crc32c (bs : List Byte) : Nat := bs.foldl crcByte 0xFFFFFFFF ^^^ 0xFFFFFFFF

/-- The body of the image of the `n`-th freeze: bytes 64 to 20,479, which only the implementation interprets (R257), so they are free. -/
def imageBody (n : Nat) : List Byte := (List.range 2552).flatMap fun i => bytesOf 8 (Config.freeAt n i).toNat

/-- Freed tiles: HEAD advances over the claims at the front whose operations have retired (R371). -/
def Ring.advance : Nat → Ring → Ring
  | 0, r => r
  | f + 1, r =>
    match r.claims with
    | (_, n, true) :: rest => Ring.advance f { r with head := r.head + BitVec.ofNat 32 n, claims := rest }
    | _ => r

/-- Release a claim of `n` tiles from tile `t` whose operation is cancelled (R377, R388). -/
def Ring.release (r : Ring) (t : BitVec 32) (n : Nat) : Ring :=
  Ring.advance (r.claims.length + 1) { r with claim := r.claim - BitVec.ofNat 32 n, claims := r.claims.erase (t, n, false) }

/-- Change ring `n` of a unit. -/
def Matrix.modRing (m : Matrix) (n : Nat) (f : Ring → Ring) : Matrix :=
  if h : n < 8 then { m with rings := m.rings.set n (f m.rings[n]) } else m

/-- Ring `n` of a unit. -/
def Matrix.ring (m : Matrix) (n : Nat) : Ring := if h : n < 8 then m.rings[n] else Ring.empty

/-- The rings a product names with the first tiles it claimed. -/
def MJob.claims : MJob → List (Nat × BitVec 32 × Nat)
  | .product p tA tB tM => [(p.a, tA, p.kch), (p.b, tB, p.kch)] ++ (if p.form = 1 ∨ p.form = 2 then [(p.m, tM, p.kch)] else [])
  | .rows _ _ _ => []

/-- Release the claims of a cancelled job (R377, R388). -/
def Matrix.releaseJob (m : Matrix) (j : MJob) : Matrix := j.claims.foldl (fun m c => m.modRing c.1 fun r => r.release c.2.1 c.2.2) m

def Ring.base (r : Ring) : Nat := bits r.cfg.toNat 19 0
def Ring.nslot (r : Ring) : Nat := bits r.cfg.toNat 31 20
def Ring.fmt (r : Ring) : Nat := bits r.cfg.toNat 35 32
def Ring.dens (r : Ring) : Nat := bits r.cfg.toNat 37 36
def Ring.sat (r : Ring) : Bool := r.cfg.getLsbD 38
def Ring.en (r : Ring) : Bool := r.cfg.getLsbD 39
def Ring.chan (r : Ring) : Nat := bits r.cfg.toNat 43 40
def Ring.chv (r : Ring) : Bool := r.cfg.getLsbD 44

/-- Values of a compressed row, or 32 (R369). -/
def densN (dens : Nat) : Nat := if dens = 1 then 16 else if dens = 2 then 8 else 32

/-- TILEB of a format and density (R369). -/
def tileBytes (fmt dens : Nat) : Nat :=
  ([1024, 1024, 1024, 2048, 2048, 512, 1024, 512, 512, 1024, 128] : List Nat).getD fmt 0 * densN dens / 32
def Ring.tileb (r : Ring) : Nat := tileBytes r.fmt r.dens

/-- The window a format is fetched through (R369). -/
def fmtWindow (fmt : Nat) : Nat := if fmt = 6 then 2 else if fmt = 7 then 3 else if fmt = 8 then 4 else if fmt = 9 then 5 else 0

/-- Tiles held and unclaimed, and slots free (R371). -/
def Ring.unclaimed (r : Ring) : Nat := (r.tail - r.claim).toNat
def Ring.room (r : Ring) : Nat := r.nslot - (r.tail - r.head).toNat

/-- Offset of the slot tile number `t` stands in (R370, R371). -/
def Ring.slotOff (r : Ring) (t : BitVec 32) : Nat := r.base + t.toNat % r.nslot * r.tileb

/-- Claim `n` tiles of ring `k` (R371). -/
def Matrix.claimTiles (m : Matrix) (k n : Nat) : Matrix :=
  m.modRing k fun r => { r with claim := r.claim + BitVec.ofNat 32 n, claims := r.claims ++ [(r.claim, n, false)] }

/-- Mark the claim from tile `t` as that of a retired operation, and free what can be freed (R371). -/
def Matrix.retireClaim (m : Matrix) (k : Nat) (t : BitVec 32) : Matrix :=
  m.modRing k fun r =>
    Ring.advance (r.claims.length + 1) { r with claims := r.claims.map fun c => if c.1 = t then (c.1, c.2.1, true) else c }

/-- The rings a product names. -/
def Prod.sparse (p : Prod) : Bool := p.form == 1 || p.form == 2
def Prod.rings (p : Prod) : List Nat := [p.a, p.b] ++ (if p.sparse then [p.m] else [])

/-- Whether every named ring holds KCH unclaimed tiles. -/
def Prod.ready (p : Prod) (m : Matrix) : Bool := p.rings.all fun n => decide (p.kch ≤ (m.ring n).unclaimed)

/-- The claims of a product, made in one cycle, and its fetch. -/
def Prod.claimAll (p : Prod) (m : Matrix) : Matrix := p.rings.foldl (fun m n => m.claimTiles n p.kch) m
def Prod.job (p : Prod) (m : Matrix) : MJob := .product p (m.ring p.a).claim (m.ring p.b).claim (m.ring p.m).claim

/-- A remote command that has started claims its tiles in the cycle in which its claims are met (R371, R385); before a local product that waits for the same
tiles (DESIGN CHOICE, assumption 183). -/
def claimRemote (s : State) (unit core : Nat) : State :=
  let m := (s.core unit core).mx
  match m.begun with
  | some ⟨n, some p, a, none⟩ =>
    if m.freezing.isNone && p.ready m then
      s.modCore unit core fun c => { c with mx := { p.claimAll m with begun := some ⟨n, some p, a, some (p.job m)⟩ } }
    else s
  | _ => s

/-- What waits on the unit of a core looks again: the remote command first. -/
def wakeMatrix (s : State) (unit core : Nat) : State := wakeCore (claimRemote s unit core) unit core fun w => w == .matrix

/-- The claims that no operation holds yet: those of fetches and of the remote command that has started. -/
def Matrix.unclaim (m : Matrix) : Matrix :=
  let m := (m.fetches.filter (·.remote.isNone)).foldl (fun m f => m.releaseJob f.job) m
  match m.begun.bind (·.job) with
  | some j => m.releaseJob j
  | none => m

/-! ### Images (R257, R387) -/

/-- An image in one piece. -/
def wholeAt (k : Nat) : Img := [(k, 20480)]

/-- The parts of `n` bytes of an image from an offset on. -/
def Img.parts : Img → Nat → Nat → Img
  | [], _, _ => []
  | (k, l) :: rest, off, n =>
    if n = 0 then []
    else if off < l then (k + off, min n (l - off)) :: Img.parts rest 0 (n - (l - off))
    else Img.parts rest (off - l) n

/-- Read an image on path MX; write it; whether it holds an uncorrectable word; meet its soft errors. -/
def imgBytes (s : State) (g : Img) (off n : Nat) : List Byte := (Img.parts g off n).flatMap fun e => pathBytes s .mx e.1 e.2
def putImg (s : State) (g : Img) (off : Nat) (bs : List Byte) : State :=
  ((Img.parts g off bs.length).foldl (fun (a : State × List Byte) e => (a.1.put .mx e.1 (a.2.take e.2), a.2.drop e.2)) (s, bs)).1
def imgBad (s : State) (g : Img) : Bool := g.any fun e => (anyBad s e.1 e.2).isSome
def meetImg (s : State) (g : Img) : State := g.foldl (fun t e => (t.meet e.1 e.2).1) s

/-- The unit as an image holds it (R257): queued remote commands and fetches are no part of it, and the claims of those are released (R256, R388). -/
def frozenUnit (m : Matrix) : Matrix :=
  { m.unclaim with remq := [], begun := none, fetches := [], freezing := none, loading := none }

/-- The accumulator that an operation writes, if it writes one. -/
def MAct.dest : MAct → Option Nat
  | .mma a _ _ _ => some a
  | .load a _ => some a
  | .zero a => some a
  | .move d _ => some d
  | .store _ _ _ => none
  | .pop => none

/-- ACCV of an image: an accumulator that is not zero, or that an operation of the unit writes, holds state (R257; DEDUCED from R432, assumption 22). -/
def accv (m : Matrix) : Nat :=
  ((List.range 4).map fun n =>
    if (m.acc.toList.getD n []).any (· != 0) || m.ops.any (fun o => o.act.dest == some n) then 2 ^ n else 0).foldl (· + ·) 0

/-- The header and body of a freeze image (R257). -/
def imageBytes (s : State) (unit core : Nat) (m : Matrix) (ctx : BitVec 12) (n : Nat) : List Byte :=
  let body := imageBody n
  let infl := m.ops.any (·.started)
  wordsBytes [BitVec.ofNat 64 (1 + Config.impl * 2 ^ 16 + 20480 * 2 ^ 32), BitVec.ofNat 64 (accv m + b2n infl * 16 + 256),
    BitVec.ofNat 64 (ctx.toNat + (unit * 128 + core) * 2 ^ 12), s.ts, BitVec.ofNat 64 (crc32c body), 0, 0, 0] ++ body

/-- Freeze the unit of a core into an image: its state is kept under the number of the image's body (R257).  A unit whose image is still being
loaded keeps that image. -/
def freezeTo (s : State) (unit core : Nat) (g : Img) : State :=
  let m := (s.core unit core).mx
  if m.loading.isSome then dropMatrix s unit core
  else
    let n := s.free
    let s := putImg s g 0 (imageBytes s unit core m (m.own.getD 0) n)
    let s := { s with frozen := Tbl.set s.frozen n (frozenUnit m), free := n + 1 }
    dropMatrix (s.modCore unit core fun c => { c with mx := { c.mx with ops := [] } }) unit core

/-- Cancel a slot's fetch, releasing its claims, and withdraw its `macc.st` if that has not begun to write (R381, R388). -/
def withdrawMatrix (s : State) (p : Place) : State :=
  let m := (s.coreAt p).mx
  let mine : List MFetch := m.fetches.filter fun f => f.slot == p.slot
  let m := { m with fetches := m.fetches.filter (fun f => f.slot != p.slot),
                    ops := m.ops.filter fun o => o.started || !(o.slot.map (·.1) == some p.slot) }
  let m := mine.foldl (fun m f => m.releaseJob f.job) m
  if mine.isEmpty && m.ops.length == (s.coreAt p).mx.ops.length then s
  else wakeMatrix (s.modCoreAt p fun c => { c with mx := m }) p.unit p.core

/-- Save a pre-empted thread at home and hold it READY (R255); the last heavy slot of the unit's owner freezes the unit first, and without a
place for the image the slot parks with PARKWHY 5 and SAVEBAD is raised (R256, R257).  READY follows the image. -/
def saveHome (s : State) (p : Place) : State :=
  let x := s.slot p
  let ctx := x.th.ctx
  let s := leaveFollow (stopStream (cutWait s p) p) p 4
  let s := s.saveSlot p
  let s := s.modSlot p fun y =>
    { y with st := .ready, held := true, preq := false, wait := none, resp := [], resv := none, resTurn := none, aligned := none, parkAt := none,
             backoff := 0, late := [] }
  if p.heavy ∧ (s.coreAt p).mx.own = some ctx ∧ s.heavyResident p.unit p.core ctx = false then
    let s := s.modCoreAt p fun c => { c with mx := { c.mx with freezing := some (p.slot, none) } }
    s.modSlot p fun y => { y with st := .wait, held := false, wait := some .freeze }
  else s

/-- End a freeze (R257): the image is written and the pre-empted slot becomes READY, or, without a place for the image, the state is discarded,
the slot parks with PARKWHY 5 and SAVEBAD is raised.  With the place of an `msave` the slot's word is done (R387). -/
def endFreeze (s : State) (p : Place) (key : Option Img) : State :=
  let ctx := (s.slot p).th.ctx
  match key with
  | some k => (freezeTo s p.unit p.core k).modSlot p fun y => { y.wake with resp := .matrix false none :: y.resp }
  | none =>
    let s := s.seeImage p.unit p.core ctx
    match s.imageKey p.unit p.core ctx with
    | some k => (freezeTo s p.unit p.core (wholeAt k)).modSlot p fun y => { y with st := .ready, held := true, preq := false, wait := none }
    | none =>
      let s := dropMatrix s p.unit p.core
      (s.raise p.unit p.core p.slot 0xB ctx.toNat (BitVec.ofNat 64 p.slot) 0).modSlot p fun y =>
        { y with st := .park, parkWhy := 5, held := false, preq := false, wait := none }

/-- A heavy slot that has parked leaves RUN and WAIT: the last one of the owner freezes the unit as a pre-emption does (R256; that it freezes is
DEDUCED, assumption 9). -/
def parkLeaves (s : State) (p : Place) : State :=
  let ctx := (s.slot p).th.ctx
  if p.heavy ∧ (s.slot p).st = .park ∧ (s.coreAt p).mx.own = some ctx ∧ s.heavyResident p.unit p.core ctx = false then
    let s := s.seeImage p.unit p.core ctx
    match s.imageKey p.unit p.core ctx with
    | some k => freezeTo (withdrawMatrix s p) p.unit p.core (wholeAt k)
    | none => dropMatrix s p.unit p.core
  else s

/-- A thread away from home travels home with SAVE (R176): the image is put on the landing core's route to its home. -/
def saveAway (s : State) (p : Place) : State :=
  let x := s.slot p
  let h := homePlace x.name
  let r : Rng := .core h.unit h.core 0 0
  let q := { mkPkt s p 3 14 (resolveLa h.unit h.core (0x0F * 2 ^ 44)) (.image (s.lightImage p) x.refault false true x.reach x.gangPrio x.gang (0, false, x.entry)) with
             info := BitVec.ofNat 64 (x.name.toNat + 2 ^ 16) }
  match inject s p r q with
  | .sent s => (freeSlot { s with free := s.free + 1 } p).modSlot p fun y => { y with arvV := false }
  | .park s => s.modSlot p fun y => { y with wait := some (.route (s.routeIx p.unit r)), st := .wait }

/-- An answer that reports an effect already made: the bundle that asked completes before a pre-emption (R247, R255). -/
def Resp.effect : Resp → Bool
  | .value _ => true
  | .done => true
  | .stolen (some _) => true
  | .matrix _ none => true
  | _ => false

/-- Whether an answer of the unit is that of a fetch which is held until its pair completes: nothing of it stands yet (R284). -/
def heldFetch (m : Matrix) (slot : Nat) : Resp → Bool
  | .matrix h none => m.fetches.any fun f => f.slot == slot && f.half == h && f.act.isSome
  | _ => false

/-- Whether a slot's bundle has nothing in flight that completes before the slot's next boundary (R176, R247, R251, R255). -/
def letGo (s : State) (p : Place) : Bool :=
  let x := s.slot p
  !(x.resp.any fun r => r.effect && !heldFetch (s.coreAt p).mx p.slot r) && x.owed == [] && x.ahead == [] &&
  (match x.wait with
   | some (.answer _ true) => false
   | some .migrate => x.resp.contains .busy
   | some .freeze => false
   | _ => true) &&
  !(s.coreAt p).mx.ops.any fun o => o.started && o.slot.map (·.1) == some p.slot

/-- Whether a slot stands where it may be left: at a bundle boundary, with nothing of its own half done (R95, R176, R247, R255). -/
def atBoundary (s : State) (p : Place) : Bool :=
  let x := s.slot p
  x.pkt.isNone && x.blk.isNone && (x.st == .run || x.st == .wait) && letGo s p

/-- Whether a pending pre-emption may be honoured now (R255): the save comes after every store in the core's store buffer (R40). -/
def mayPreempt (s : State) (p : Place) : Bool := (s.slot p).preq && atBoundary s p && !saveHeld s p

/-- A slot leaves what it waits in: the waiter tables, the queues of counters, the matrix unit, a migration refused BUSY (R176, R207, R229, R255). -/
def quitWaits (s : State) (p : Place) : State :=
  let drop : Tbl (List (Nat × Nat)) → Tbl (List (Nat × Nat)) := fun t =>
    (t.map fun e => (e.1, e.2.filter fun w => w.1 != slotKey p)).filter fun e => e.2 != []
  withdrawMatrix (quitCounters { s with waiters := drop s.waiters, retries := s.retries.filter fun r => !(r.why == 4 && r.pkt.place == p) } p) p

/-- Honour a pending pre-emption at its boundary (R176, R255). -/
def preempt (s : State) (p : Place) : State :=
  if mayPreempt s p then
    let s := quitWaits s p
    if s.away p then saveAway s p else saveHome s p
  else s

/-- A store to SLST (R215, R216): the transition of STATE, then PREQ. -/
def slstStore (s : State) (p : Place) (v : Word) : State :=
  let want := v.toNat % 8
  let x := s.slot p
  let s := if want = 1 then
      (if x.st = .free then slotStart s p else if x.st = .park then slotResume s p
       else if x.st = .ready ∧ x.held then slotResumeHeld s p else s)
    else if want = 4 then slotHold s p
    else if want = 0 then (if x.st = .lost then slotReleaseLost s p else slotDiscard s p)
    else s
  if v.getLsbD 7 then preemptRequest s p else s

end Sys2Proof.Machine
end

