-- ==== Sys2Proof/Machine/Control.lean ====
section
/-! DEFINITION. Control pages and control blocks: what each register reads, what a store to it does, and which stores are refused (R10, R11,
R20 to R22, and the register rules of every chapter). -/

namespace Sys2Proof.Machine

/-- A doubleword from fields given as (lowest bit, value). -/
def pack (l : List (Nat × Nat)) : Word := BitVec.ofNat 64 (l.foldl (fun n f => n + f.2 * 2 ^ f.1) 0)

/-- Replace bits `hi` to `lo` of a doubleword. -/
def setBits (w : Word) (hi lo v : Nat) : Word :=
  BitVec.ofNat 64 (w.toNat - bits w.toNat hi lo * 2 ^ lo + v % 2 ^ (hi - lo + 1) * 2 ^ lo)

/-! ### Link status and TURNMASK (R86, R87, R101) -/

/-- The LINK event of a Spire link end (R262). -/
def linkEvent (s : State) (die link st : Nat) : State :=
  let x := s.spire die link
  let code := if st = 2 then 0 else if st = 0 then 1 else if st = 3 then 2 else 3
  let near := s.moduleNo.toNat + (24 + die) * 2 ^ 12 + 3 * 2 ^ 24 + (16 + link) * 2 ^ 26
  let far := if x.trained then x.farmod.toNat + (24 + x.fardie.toNat) * 2 ^ 12 + 3 * 2 ^ 24 + (16 + x.farlink.toNat) * 2 ^ 26 else 0
  s.raise (24 + die) 0 0 2 0 (BitVec.ofNat 64 (near + far * 2 ^ 32)) (BitVec.ofNat 64 code)

/-- Set a Spire link's STATE; every change raises LINK (R101). -/
def setLink (s : State) (die link st : Nat) : State :=
  if (s.spire die link).state = st then s
  else linkEvent (s.setSpire die link { s.spire die link with state := st }) die link st

/-- Start training while STATE is 0 (R101). -/
def spireTrainOp (s : State) (die link : Nat) : State := if (s.spire die link).state = 0 then setLink s die link 1 else s

/-- Disable a link (R101). -/
def spireDisableOp (s : State) (die link : Nat) : State := setLink s die link 3

/-- Mark a link down (R101). -/
def spireMarkDownOp (s : State) (die link : Nat) : State := setLink s die link 0

/-- A store to SPST.STATE (R101). -/
def spstStore (s : State) (die link v : Nat) : State :=
  if v = 1 then spireTrainOp s die link else if v = 3 then spireDisableOp s die link else if v = 0 then spireMarkDownOp s die link else s

/-- SPST (R101). -/
def State.spst (s : State) (die link : Nat) : Word :=
  let x := s.spire die link
  pack [(0, x.state), (2, x.farmod.toNat), (14, x.fardie.toNat), (15, x.farlink.toNat), (19, x.resent), (27, x.lat.toNat)]

/-- Apply a direction map to a turn mask (R87). -/
def turnMap (f : Nat → Nat) (m : Nat) : Nat :=
  (List.range 16).foldl (fun n k => if m.testBit k then n + 2 ^ (4 * f (k / 4) + f (k % 4)) else n) 0

/-- The eight rotations and reflections of the four directions (R87). -/
def dirSyms : List (Nat → Nat) :=
  (List.range 4).flatMap fun r => [fun d => (d + r) % 4, fun d => (4 - d + r) % 4]

/-- Whether a lane mask is safe (R87). -/
def laneSafe (m : Nat) : Bool :=
  [0xD673, 0xDE71, 0xDE33].any fun p => dirSyms.any fun f => (List.range 16).all fun k => !m.testBit k || (turnMap f p).testBit k

/-- The bits of TURNMASK that read fixed values: straight on is 1, U-turns are 0 (R86). -/
def turnFix (v : Word) : Word :=
  BitVec.ofNat 64 ((List.range 64).foldl (fun n k =>
    let i := k % 16 / 4
    let o := k % 4
    if i = o then n + 2 ^ k else if o = i ^^^ 2 then n else if v.toNat.testBit k then n + 2 ^ k else n) 0)

/-- A firmware write that breaks its register's rule is refused and reported in the management status (R22, R236). -/
def State.refuse (s : State) : State := { s with boot := { s.boot with refused := s.boot.refused + 1 } }

/-- Firmware's write of TURNMASK (R86). -/
def turnmaskWrite (s : State) (v : Word) : State :=
  let w := turnFix v
  if s.boot.turnWritten ∨ s.boot.ctxMade then s.refuse
  else if (List.range 4).all fun l => laneSafe (w.toNat / 2 ^ (16 * l) % 2 ^ 16) then
    { s with turnmask := w, boot := { s.boot with turnWritten := true } }
  else s.refuse

/-! ### The region table (R179, R183) -/

/-- An entry from its words. -/
def Region.ofWords (w0 w1 : Word) : Region :=
  { mode := bits w0.toNat 1 0, die := bits w0.toNat 4 2, stk := bits w0.toNat 5 5, frame := bits w0.toNat 11 6, wfz := w0.getLsbD 12, stamp := w1 }

/-- Word 0 of an entry. -/
def Region.word0 (e : Region) : Word := pack [(0, e.mode), (2, e.die), (5, e.stk), (6, e.frame), (12, b2n e.wfz)]

/-- The frames an entry uses, by stack and frame (R180). -/
def Region.frames (e : Region) : List (Nat × Nat) :=
  if e.mode = 0 then (List.range 12).map fun k => (k, e.frame)
  else if e.mode = 1 then (List.range 12).map fun k => (2 * e.die + k % 2, e.frame + k / 2)
  else if e.mode = 2 then (List.range 12).map fun k => (2 * e.die + e.stk, e.frame + k)
  else []

/-- Whether an entry breaks R179's limits or shares a frame with another entry of the copy. -/
def regionBad (r : Rim) (n : Nat) (e : Region) : Bool :=
  (e.mode = 1 && 58 < e.frame) || (e.mode = 2 && 52 < e.frame) || ((e.mode = 1 || e.mode = 2) && 5 < e.die) ||
  (List.range 64).any fun k => k != n && (Tbl.get Region.none r.regions k).frames.any fun f => e.frames.contains f

/-- The entry that a store to word 1 would give (R179). -/
def regionNext (s : State) (k n : Nat) (w1 : Word) : Region :=
  Region.ofWords (Tbl.get (s.rimRegion k n).word0 (s.rim k).heldW0 n) w1

/-- Whether a write to region `n` that rim die `k` has accepted is performed in part: the word 1 store that freezes the region waits for it (R183). -/
def regionHalf (s : State) (k n : Nat) : Bool :=
  s.pkts.any fun q => !q.resp && q.gone != 0 && (match q.loc, decodeLa 31 0 q.dest with
    | .atRim d _, .hbm off => d == k && off / regionSize == n
    | _, _ => false)

/-- A store to a region-table word (R179); one that would break the rules has no effect. -/
def regionStore (s : State) (k n : Nat) (word1 : Bool) (v : Word) : State :=
  if word1 then
    let e := regionNext s k n v
    if regionBad (s.rim k) n e then s
    else s.modRim k fun r => { r with regions := Tbl.set r.regions n e, heldW0 := Tbl.erase r.heldW0 n }
  else s.modRim k fun r => { r with heldW0 := Tbl.set r.heldW0 n v }

/-! ### Contexts, launch queues, the barrier fabric, FIFOs -/

/-- Whether a context-table value is refused: V set and RADDR not naming 64 bytes within one vault of the bed (R236). -/
def ctxBad (bed : Nat) (v : Word) : Bool :=
  v.getLsbD 63 && (match decodeLa bed 0 (v.toNat % 2 ^ 52) with
    | .vault b _ off => b != bed || off % 64 != 0
    | _ => true)

/-- A store to a context-table entry (R236); the first valid one is the first context's creation (R5). -/
def ctxTabStore (s : State) (bed c : Nat) (v : Word) : State :=
  if ctxBad bed v then s
  else
    let w := v &&& 0x800FFFFFFFFFFFFF
    let s := s.modBed bed fun b => { b with ctxTab := Tbl.set b.ctxTab c w }
    if w.getLsbD 63 then { s with boot := { s.boot with ctxMade := true } } else s

/-- Whether a slot holds a thread of a context: in every state but FREE and LOST (R215, R237). -/
def Slot.holds (x : Slot) (c : BitVec 12) : Bool := x.st != .free && x.st != .lost && x.th.ctx == c

/-- Whether a KILL of a context under way has reached a unit (R238): what arrives there for the context is ended too (assumption 16). -/
def killing (s : State) (unit : Nat) (c : BitVec 12) : Bool :=
  s.beds.any fun b => b.2.opBusy == some 1 && b.2.opCtx == c && b.2.opUnits.contains unit

/-- A store to CTXCTL (R237): ignored while BUSY, for OP 0 and 3, and for a KILL of context 0; a CREATE of a context with threads is ignored and raises
CTX, whose outcome code no rule gives: it is free. -/
def ctxCtlStore (s : State) (bed : Nat) (v : Word) : State :=
  let s := if v.getLsbD 15 then s.modBed bed fun b => { b with opDone := false } else s
  let op := bits v.toNat 13 12
  let c : BitVec 12 := v.truncate 12
  if (s.bed bed).opBusy.isSome ∨ op = 0 ∨ op = 3 ∨ (op = 1 ∧ c = 0) then s
  else if op = 2 ∧ s.slots.any fun e => e.2.holds c then
    { s.raise bed 0 0 0xD c.toNat 2 (Config.freeWord s.free) with free := s.free + 1 }
  else s.modBed bed fun b => { b with opCtx := c, opBusy := some op, opDone := false, opUnits := [] }

/-- A store to LQCTL (R240). -/
def lqctlStore (s : State) (bed : Nat) (v : Word) : State :=
  s.modBed bed fun b => { b with lqctl := v &&& 0x1FFFF, placing := b.placing || (b.lqctl.getLsbD 16 && !v.getLsbD 16) }

/-- A fabric entry in use (R220). -/
def DomE.v (e : DomE) : Bool := e.w0.getLsbD 35

/-- A store to word 0 of a DTAB entry (R220): ignored for a valid entry unless it writes V = 0 while BCMP is 0, and when it would make two
valid entries of one LEVEL and ID.  Reports counted towards an incomplete phase are dropped with the entry (DESIGN CHOICE, assumption 165). -/
def dtabStore (s : State) (bed e : Nat) (v : Word) : State :=
  let old := Tbl.get default (s.bed bed).dtab e
  let w := v &&& 0xFFFFFFFFF
  let clash := (s.bed bed).dtab.any fun x => x.1 != e && x.2.v && x.2.w0.toNat % 2 ^ 14 == w.toNat % 2 ^ 14
  if old.v ∧ (w.getLsbD 35 ∨ old.bcmp ≠ 0) then s
  else if w.getLsbD 35 ∧ clash then s
  else s.modBed bed fun b => { b with dtab := Tbl.set b.dtab e { old with w0 := w, reps := [] } }

/-- Whether a domain barrier of a level is configured on the core (R217). -/
def domLocked (c : Core) (level : Nat) : Bool := c.bars.any fun b => b.1 < 32 && b.2.kind == 2 && b.2.level == level

/-- A store to DOMn (R217). -/
def domStore (s : State) (unit core level : Nat) (v : Word) : State :=
  if domLocked (s.core unit core) level then s
  else s.modCore unit core fun c => { c with doms := Tbl.set c.doms level (v &&& 0x3FFF) }

/-- FIFOCTL (R120). -/
def Fifo.ctl (f : Fifo) : Word :=
  pack [(0, b2n f.en), (1, f.ctx.toNat), (13, f.ownMod.toNat), (25, f.bytes.length), (38, b2n (decide (f.prod ≠ []))), (39, b2n (decide (f.cons ≠ [])))]

/-- FIFO `n` of a bed or rim die, and writing it. -/
def State.fifo (s : State) (unit n : Nat) : Fifo :=
  if unit < 12 then Tbl.get default (s.bed unit).fifos n else Tbl.get default (s.rim (unit - 16)).fifos n
def State.setFifo (s : State) (unit n : Nat) (f : Fifo) : State :=
  if unit < 12 then s.modBed unit fun b => { b with fifos := Tbl.set b.fifos n f }
  else s.modRim (unit - 16) fun r => { r with fifos := Tbl.set r.fifos n f }

/-- A store to FIFOCTL: ignored while PROD or CONS is 1; a change of EN sets FILL to 0 (R120). -/
def fifoStore (s : State) (unit n : Nat) (v : Word) : State :=
  let f := s.fifo unit n
  if f.prod ≠ [] ∨ f.cons ≠ [] then s
  else s.setFifo unit n { f with en := v.getLsbD 0, ctx := BitVec.ofNat 12 (v.toNat / 2), ownMod := BitVec.ofNat 12 (v.toNat / 2 ^ 13),
                                 bytes := if f.en = v.getLsbD 0 then f.bytes else [] }

/-- ENGST of an engine (R120). -/
def Engine.status (e : Engine) : Word :=
  match e.active with
  | some q =>
    match q.body with
    | .cmd c => pack [(0, e.queue.length), (5, 1), (6, c.ctx), (18, c.ownMod)]
    | _ => pack [(0, e.queue.length)]
  | none => pack [(0, e.queue.length)]

/-- A write of CTLOAD (R54). -/
def ctloadStore (s : State) (unit core : Nat) (v : Word) : State :=
  let kind := bits v.toNat 2 1
  if v.getLsbD 0 ∧ kind < 2 then s.modCore unit core fun c => { c with ctBusy := some (kind, 0) } else s

/-! ### Reading -/

/-- PEND of a channel (R110). -/
def Chan.word2 (c : Chan) : Word := pack [(0, c.cmds.length), (3, b2n c.sent), (4, c.status), (32, c.ck)]

/-- A channel of a core. -/
def Core.chan (c : Core) (n : Nat) : Chan := Tbl.get default c.chans n

/-- BARST word 0 (R218). -/
def Bar.word0 (b : Bar) : Word :=
  pack [(0, b.count % 65536), (16, b.arrived % 65536), (32, b.kind), (34, b.level), (36, b2n b.xalign), (37, b2n b.cdone)]

/-- RTST (R102). -/
def State.rtst (s : State) (unit core : Nat) : Word :=
  if unit < 12 then
    let (x, y) := coreXY unit core
    pack ((List.range 6).map fun d => (d, b2n (s.isDown x y d)))
  else 0

/-- MSTAT (R368). -/
def Matrix.status (m : Matrix) : Word :=
  pack [(0, b2n m.ovf), (1, b2n (m.ops.any (·.started))), (2, (m.ops.filter (·.remote.isNone)).length), (5, m.remq.length),
        (7, b2n m.own.isSome)]

/-- The slot counter `n` of a core (R229). -/
def State.scntWord (s : State) (unit core n : Nat) : Word :=
  let c := s.core unit core
  pack [(0, (Tbl.get 0 c.scnt n).toNat), (32, min 255 (Tbl.get [] c.scntWait n).length)]

/-- A control-page register at an 8-byte-aligned offset; undefined offsets read zero (R34).  MQHEAD and MQTAIL are 32 bits wide and read zero-extended (DESIGN
CHOICE, assumption 172). -/
def State.pageRead (s : State) (unit core off : Nat) : Word :=
  let c := s.core unit core
  let bed := decide (unit < 12)
  if off = 0 then pack [(0, core), (7, unit), (12, s.moduleNo.toNat), (32, Config.impl)]
  else if off = 0x100 then (if bed then c.mxbase else 0)
  else if off = 0x108 then (if bed then pack [(3, b2n c.ctBusy.isSome)] else 0)
  else if off = 0x110 then pack [(0, c.cecnt), (16, c.uecnt), (32, c.lastErr)]
  else if off = 0x200 then s.rtst unit core
  else if 0x400 ≤ off ∧ off < 0x600 then
    let n := c.chan ((off - 0x400) / 32)
    (match off / 8 % 4 with
     | 0 => n.lo
     | 1 => n.hi
     | 2 => n.word2
     | _ => n.wm)
  else if off = 0x600 then c.mbhead.zeroExtend 64
  else if off = 0x608 then c.mbtail.zeroExtend 64
  else if off = 0x610 then pack [(0, c.mbrsv)]
  else if off = 0x700 then pack [(0, b2n c.qBusy), (1, b2n c.qDone), (2, c.qCtx.toNat), (14, c.qPeers), (22, b2n c.qLocal)]
  else if off = 0x800 then (if bed then pack [(0, b2n c.grdy)] else 0)
  else if off = 0x900 then c.txctl
  else if off = 0x908 then pack [(0, c.txMiss), (32, c.txRefault)]
  else if off = 0x940 then c.mqhead.zeroExtend 64
  else if off = 0x948 then c.mqtail.zeroExtend 64
  else if 0xA00 ≤ off ∧ off < 0xA40 then s.slst ⟨unit, core, (off - 0xA00) / 8⟩
  else if 0xA80 ≤ off ∧ off < 0xAA0 then (if bed then Tbl.get 0 c.doms ((off - 0xA80) / 8) else 0)
  else if off = 0xB00 then c.dqbot.zeroExtend 64
  else if off = 0xB08 then c.dqtop.zeroExtend 64
  else if off = 0xB10 then c.stealord
  else if off = 0xB18 then c.spret
  else if 0xC00 ≤ off ∧ off < 0xC40 then
    let x := s.slot ⟨unit, core, (off - 0xC00) / 16⟩
    if bed = false then 0 else if off % 16 = 0 then pack [(0, if x.folState = 4 then 2 else x.folState), (2, x.folReason)] else x.folLeave
  else if off = 0xD00 then
    if bed then pack [(0, (c.mx.own.getD 0).toNat), (12, b2n c.mx.own.isSome), (13, b2n c.mx.loading.isSome)] else 0
  else if off = 0xD08 then (if bed then c.mx.status else 0)
  else if 0xE00 ≤ off ∧ off < 0xF00 then
    if h : (off - 0xE00) / 32 < 8 then
      let r := c.mx.rings[(off - 0xE00) / 32]
      if bed = false then 0
      else (match off / 8 % 4 with
        | 0 => r.cfg
        | 1 => pack [(0, r.tail.toNat), (32, r.head.toNat)]
        | 2 => pack [(0, r.claim.toNat)]
        | _ => 0)
    else 0
  else if 0x1000 ≤ off ∧ off < 0x1800 then ((Tbl.get [] c.missq ((off - 0x1000) / 32)).getD (off / 8 % 4) 0)
  else if 0x1800 ≤ off ∧ off < 0x1C00 then
    let e := Tbl.get default c.tlb ((off - 0x1800) / 16)
    if off % 16 = 0 then e.word0 else e.word1
  else if 0x2000 ≤ off ∧ off < 0x2200 then s.scntWord unit core ((off - 0x2000) / 8)
  else if 0x4000 ≤ off ∧ off < 0xC000 then
    let b := s.bar unit core ((off - 0x4000) / 16)
    if off % 16 = 0 then b.word0 else b.donets
  else if 0xC000 ≤ off ∧ off < 0xC080 then
    let x := s.slot ⟨unit, core, (off - 0xC000) / 16⟩
    if off % 16 = 0 then pack [(0, x.arvBar), (11, b2n x.arvV)] else x.arvName
  else 0

/-- The effective priority of a queue's head (R241). -/
def effPrio (ts : Word) (lqctl : Word) (q : Nat) (r : LaunchRec) : Nat :=
  let age := lqctl.toNat % 65536
  if age = 0 then q else min 3 (q + (ts.toNat - r.arrts.toNat) / (1000 * age))

/-- A bed control block's register (R66, R120, R152, R220, R236, R237, R240, R263, R475). -/
def State.bedRead (s : State) (bed block off : Nat) : Word :=
  let b := s.bed bed
  if block = 0 then
    if off < 0x40 then
      let q := Tbl.get [] b.lq (off / 16)
      (match q.head? with
       | none => 0
       | some r => if off % 16 = 0 then pack [(0, q.length), (5, b2n r.blk), (6, effPrio s.ts b.lqctl (off / 16) r)] else r.arrts)
    else if off = 0x40 then b.lqctl
    else if off = 0x100 then pack [(0, b.opCtx.toNat), (14, b2n b.opBusy.isSome), (15, b2n b.opDone)]
    else if 0x8000 ≤ off then Tbl.get 0 b.ctxTab ((off - 0x8000) / 8)
    else 0
  else if block = 1 then
    if off < 0x400 then
      let e := Tbl.get default b.dtab (off / 16)
      if off % 16 = 0 then e.w0 else e.bcmp.zeroExtend 64
    else 0
  else if block = 2 then (if off = 0 then b.graft.status else 0)
  else if block = 3 then
    if off = 0 then pack [(0, b.stage.recs.length), (7, b2n (!queueRoom s.evq)), (8, b2n (s.eventHeld bed))]
    else if 0x100 ≤ off ∧ off < 0x180 then
      let v := (off - 0x100) / 8
      pack [(0, Tbl.get 0 b.vce v), (16, Tbl.get 0 b.vue v), (32, Tbl.get 0 b.vlast v)]
    else if 0x1000 ≤ off ∧ off < 0x1800 then
      match b.stage.recs[(off - 0x1000) / 32]? with
      | none => 0
      | some e =>
        (match off / 8 % 4 with
         | 0 => e.stamp
         | 1 => pack [(0, e.src), (24, e.slot), (27, b2n e.fatal), (28, e.ty), (36, e.ctx)]
         | 2 => e.d0
         | _ => e.d1)
    else 0
  else if block = 4 then
    if off = 0 then pack [(0, b.rst.state), (2, b2n b.rst.reqc), (3, b2n b.rst.reqm), (4, b.rst.count.toNat)]
    else if off = 8 then b.rst.rstts
    else if off = 16 then b.rst.readyts
    else 0
  else if block = 5 then
    if off < 0x40 ∧ off % 16 = 0 then (Tbl.get Engine.empty b.engines (off / 16)).status
    else if 0x400 ≤ off ∧ off < 0x500 ∧ off % 16 = 0 then (s.fifo bed ((off - 0x400) / 16)).ctl
    else 0
  else 0

/-- A rim die control block's register (R120, R138, R179, R186). -/
def State.rimRead (s : State) (die block off : Nat) : Word :=
  let r := s.rim die
  if block = 0 then
    if off < 0x400 then
      let e := s.rimRegion die (off / 16)
      if off % 16 = 0 then e.word0 else e.stamp
    else 0
  else if block = 1 then
    if off < 0x100 ∧ off % 16 = 0 then (Tbl.get Engine.empty r.engines (off / 16)).status
    else if 0x400 ≤ off ∧ off < 0x500 ∧ off % 16 = 0 then (s.fifo (16 + die) ((off - 0x400) / 16)).ctl
    else 0
  else if block = 2 then (if off < 0x80 ∧ off % 16 = 0 then (Tbl.get Engine.empty r.encs (off / 16)).status else 0)
  else if off = 0 ∨ off = 16 then
    pack [(0, Tbl.get 0 r.hce (off / 16)), (16, Tbl.get 0 r.hue (off / 16)), (32, Tbl.get 0 r.hlast (off / 16))]
  else 0

/-- POPST word `w` of a population slot (R152). -/
def PopSlot.word (p : PopSlot) (w : Nat) : Word :=
  match w with
  | 0 => pack [(0, b2n p.valid), (1, b2n p.gobusy), (2, p.ctx.toNat), (14, p.ownMod.toNat)]
  | 1 => p.snapts
  | 2 => pack [(0, p.grafted), (12, p.skipped), (24, p.failed), (36, p.late)]
  | _ => p.lnext.zeroExtend 64

/-- A link die block's register (R86, R100, R101, R152). -/
def State.linkRead (s : State) (die block off : Nat) : Word :=
  if block = 0 then
    if off = 0 then s.turnmask
    else if 0x100 ≤ off ∧ off < 0x160 then s.spst die ((off - 0x100) / 8)
    else 0
  else if off = 0 then pack [(0, b2n s.ranker.go.isSome), (1, s.ranker.queue.length)]
  else if 0x100 ≤ off ∧ off < 0x300 then (Tbl.get default s.ranker.slots ((off - 0x100) / 32)).word (off / 8 % 4)
  else 0

/-- The register at an 8-byte-aligned offset of a control range. -/
def State.ctlRead (s : State) : Rng → Word
  | .page u c off => s.pageRead u c off
  | .bedCtl b k off => s.bedRead b k off
  | .rimDie d k off => s.rimRead d k off
  | .linkDie d k off => s.linkRead d k off
  | _ => 0

/-! ### Writing -/

/-- A store to a control-page register (R10, R34): read-only registers and undefined offsets ignore it, and so does BARST a KIND that is reserved or that the
barrier may not have (R218; DESIGN CHOICE, assumption 166). -/
def pageWrite (s : State) (unit core off : Nat) (v : Word) : State :=
  let bed := decide (unit < 12)
  let set := s.modCore unit core
  let n := v.toNat
  if off = 0x100 then (if bed then set fun c => { c with mxbase := v &&& 0xFFFFFFFFFF } else s)
  else if off = 0x108 then (if bed then ctloadStore s unit core v else s)
  else if off = 0x110 then set fun c => { c with cecnt := bits n 15 0, uecnt := bits n 31 16 }
  else if 0x400 ≤ off ∧ off < 0x600 then
    if off % 32 = 16 then
      set fun c => { c with chans := Tbl.set c.chans ((off - 0x400) / 32) { c.chan ((off - 0x400) / 32) with ck := bits n 63 32 } }
    else s
  else if off = 0x608 then wakeCore (set fun c => { c with mbtail := v.truncate 32 }) unit core fun w => w == .queue
  else if off = 0x700 then (if v.getLsbD 1 then set fun c => { c with qDone := false } else s)
  else if off = 0x800 then (if bed then set fun c => { c with grdy := v.getLsbD 0 } else s)
  else if off = 0x900 then set fun c => { c with txctl := if bed then v &&& 1 else v &&& 0x1F01 }
  else if off = 0x908 then set fun c => { c with txMiss := bits n 31 0, txRefault := bits n 63 32 }
  else if off = 0x910 then set fun c => { c with fw0 := v }
  else if off = 0x918 then set fun c => { c with fw1 := v }
  else if off = 0x920 then
    if v.getLsbD 15 then fillEngine s unit core v s.moduleNo.toNat
    else if v.getLsbD 9 then fillNotPresent s unit core v
    else fillCommit s unit core v
  else if off = 0x930 then set fun c => { c with iva := v }
  else if off = 0x938 then tlbInvalidate s unit core v
  else if off = 0x948 then set fun c => { c with mqtail := v.truncate 32 }
  else if 0xA00 ≤ off ∧ off < 0xA40 then slstStore s ⟨unit, core, (off - 0xA00) / 8⟩ v
  else if 0xA80 ≤ off ∧ off < 0xAA0 then (if bed then domStore s unit core ((off - 0xA80) / 8) v else s)
  else if off = 0xB10 then set fun c => { c with stealord := v }
  else if off = 0xB18 then set fun c => { c with spret := v }
  else if off = 0xD08 then (if bed ∧ v.getLsbD 0 then set fun c => { c with mx := { c.mx with ovf := false } } else s)
  else if 0x2000 ≤ off ∧ off < 0x2200 then
    wakeIf (set fun c => { c with scnt := Tbl.set c.scnt ((off - 0x2000) / 8) (v.truncate 32) }) fun _ w => w == .counter
  else if 0x4000 ≤ off ∧ off < 0xC000 then
    if off % 16 = 0 then
      let k := (off - 0x4000) / 16
      if bits n 33 32 = 3 ∨ (bits n 33 32 = 2 ∧ (32 ≤ k ∨ bed = false)) then s
      else s.setBar unit core k
        { s.bar unit core k with count := bits n 15 0, kind := bits n 33 32, level := bits n 35 34, xalign := v.getLsbD 36 }
    else s
  else if 0xC000 ≤ off ∧ off < 0xC080 then
    s.modSlot ⟨unit, core, (off - 0xC000) / 16⟩ fun x =>
      if off % 16 = 0 then { x with arvBar := bits n 10 0, arvV := v.getLsbD 11 } else { x with arvName := v }
  else s

/-- A store to a bed control block (R21, R120, R220, R236, R237, R240). -/
def bedWrite (s : State) (bed block off : Nat) (v : Word) : State :=
  if block = 0 then
    if off = 0x40 then lqctlStore s bed v
    else if off = 0x100 then ctxCtlStore s bed v
    else if 0x8000 ≤ off then ctxTabStore s bed ((off - 0x8000) / 8) v
    else s
  else if block = 1 then (if off < 0x400 ∧ off % 16 = 0 then dtabStore s bed (off / 16) v else s)
  else if block = 5 then (if 0x400 ≤ off ∧ off < 0x500 ∧ off % 16 = 0 then fifoStore s bed ((off - 0x400) / 16) v else s)
  else s

/-- A store to a rim die control block (R22, R120, R179, R186). -/
def rimWrite (s : State) (die block off : Nat) (v : Word) : State :=
  if block = 0 then (if off < 0x400 then regionStore s die (off / 16) (off % 16 = 8) v else s)
  else if block = 1 then (if 0x400 ≤ off ∧ off < 0x500 ∧ off % 16 = 0 then fifoStore s (16 + die) ((off - 0x400) / 16) v else s)
  else if block = 3 ∧ (off = 0 ∨ off = 16) then
    s.modRim die fun r => { r with hce := Tbl.set r.hce (off / 16) (bits v.toNat 15 0), hue := Tbl.set r.hue (off / 16) (bits v.toNat 31 16) }
  else s

/-- A store to a link die block (R100, R101). -/
def linkWrite (s : State) (die block off : Nat) (v : Word) : State :=
  if block = 0 ∧ 0x100 ≤ off ∧ off < 0x160 then spstStore s die ((off - 0x100) / 8) (v.toNat % 4) else s

/-- A store of a doubleword to a control range. -/
def State.ctlWrite (s : State) (r : Rng) (v : Word) : State :=
  match r with
  | .page u c off => pageWrite s u c off v
  | .bedCtl b k off => bedWrite s b k off v
  | .rimDie d k off => rimWrite s d k off v
  | .linkDie d k off => linkWrite s d k off v
  | _ => s

/-- The bytes of a control range from an offset on. -/
def State.ctlBytes (s : State) (r : Rng) (low n : Nat) : List Byte :=
  let one := fun i => (bytesOf 8 (s.ctlRead (r.add (8 * i))).toNat)
  (((List.range ((low + n + 7) / 8)).flatMap one).drop low).take n

/-- The 8-byte-aligned range that holds a control byte, and the byte's place in it. -/
def Rng.align8 (r : Rng) : Rng × Nat :=
  match r with
  | .page u c o => (.page u c (o / 8 * 8), o % 8)
  | .bedCtl b k o => (.bedCtl b k (o / 8 * 8), o % 8)
  | .rimDie d k o => (.rimDie d k (o / 8 * 8), o % 8)
  | .linkDie d k o => (.linkDie d k (o / 8 * 8), o % 8)
  | r => (r, 0)

/-- What the bytes that a narrower store does not touch are stored as: as they read, but for the bits that writing 1 clears (R10) and OP of CTXCTL, which a
store that does not write them leaves alone (DESIGN CHOICE, assumption 5). -/
def State.ctlKeep (s : State) (r : Rng) : Word :=
  match r with
  | .page _ _ 0x700 => s.ctlRead r &&& ~~~2
  | .page _ _ 0xD08 => s.ctlRead r &&& ~~~1
  | .bedCtl _ 0 0x100 => s.ctlRead r &&& ~~~0xB000
  | _ => s.ctlRead r

/-- Store bytes to a control range, doubleword by doubleword; a narrower store keeps the register's other bytes. -/
def ctlStore (s : State) : Nat → Rng → List Byte → State
  | 0, _, _ => s
  | f + 1, r, bs =>
    if bs = [] then s
    else
      let (a, low) := r.align8
      let take := bs.take (8 - low)
      let old := bytesOf 8 (s.ctlKeep a).toNat
      let new := old.take low ++ take ++ old.drop (low + take.length)
      ctlStore (s.ctlWrite a (word64 new)) f (a.add 8) (bs.drop (8 - low))

/-- Whether a range is registers. -/
def Rng.isCtl : Rng → Bool
  | .page _ _ _ => true
  | .bedCtl _ _ _ => true
  | .rimDie _ _ _ => true
  | .linkDie _ _ _ => true
  | _ => false

/-- The SUB of the protection trap that a store to a control range takes whatever its value: 3 for a read-only place (R21, R22, R86, R120,
R158), or none. -/
def readOnlyStore (p : Place) (r : Rng) : Option Nat :=
  match r with
  | .page _ _ off => if 0x960 ≤ off ∧ off < 0x980 then some 3 else none
  | .bedCtl _ k off => if k = 3 ∨ k = 4 ∨ (k = 5 ∧ 0x800 ≤ off ∧ off < 0x900) then some 3 else none
  | .rimDie d k off => if (k = 0 ∧ p.unit ≠ 16 + d) ∨ (k = 1 ∧ 0x800 ≤ off ∧ off < 0x900) then some 3 else none
  | .linkDie _ k off => if k = 0 ∧ off < 8 then some 3 else none
  | _ => none

/-- Whether a load meets a FIFO's data port, which no thread reaches (R120): all 16 bytes of a FIFO's place are its port (DESIGN CHOICE, assumption 168). -/
def portLoad (r : Rng) : Bool :=
  match r with
  | .bedCtl _ k off => k = 5 && decide (0x800 ≤ off ∧ off < 0x900)
  | .rimDie _ k off => k = 1 && decide (0x800 ≤ off ∧ off < 0x900)
  | _ => false

/-- Whether a store of a doubleword is refused by its register (protection, SUB 7): a locked DOM register (R217), a context-table value
(R236), CTXCTL by a thread of another context (R237), a region entry (R179). -/
def registerRefuses (s : State) (ctx : BitVec 12) (r : Rng) (v : Word) : Bool :=
  match r with
  | .page u c off => decide (u < 12) && decide (0xA80 ≤ off ∧ off < 0xAA0) && domLocked (s.core u c) ((off - 0xA80) / 8)
  | .bedCtl b k off => k = 0 && ((off = 0x100 && ctx != 0) || (decide (0x8000 ≤ off) && ctxBad b v))
  | .rimDie d k off =>
    k = 0 && decide (off < 0x400) && off % 16 = 8 && regionBad (s.rim d) (off / 16) (regionNext s d (off / 16) v)
  | _ => false

end Sys2Proof.Machine
end

