-- ==== Sys2Proof/Machine/Access.lean ====
section
/-! DEFINITION. Accesses of a thread: the checks of R32 in their order, the watermark stall (R113), forwarding from the store buffer (R192),
migration (R171), and reads, writes and read-modify-writes at the home. -/

namespace Sys2Proof.Machine

/-! ### Ranges -/

/-- Whether a range is windows or the control page of the core a place stands on. -/
def ownRange (p : Place) : Rng → Bool
  | .core u c _ _ => u == p.unit && c == p.core
  | .page u c _ => u == p.unit && c == p.core
  | _ => false

/-- Bytes of a core's local memory (R35, R39). -/
def memSize (unit : Nat) : Nat := if unit < 12 then 0x100000 else 0x40000

/-- Whether a range lies in a core's system area (R38, R39); past a rim core's memory its self alias names nothing (R57). -/
def inSystemArea : Rng → Bool
  | .core u _ _ off => decide (sysOff u ≤ off ∧ off < memSize u)
  | _ => false

/-- Whether a range is a window other than RAW. -/
def notRaw : Rng → Bool
  | .core _ _ w _ => w != 0
  | _ => false

/-- Whether a range is system-only (R25, R38). -/
def sysOnly (r : Rng) : Bool := r.isCtl || inSystemArea r

/-- `Reach` of R28 for a user-mode fixed-map access. -/
def reachOk (p : Place) (d : Vector Word 4) (r : Rng) : Bool :=
  match r with
  | .core u c _ _ =>
    if ownRange p r then true
    else if u < 12 then d[0].getLsbD u && d[0].getLsbD (12 + c / 8)
    else d[0].getLsbD (56 + (u - 16))
  | .vault b v _ => d[0].getLsbD (28 + b) && d[0].getLsbD (40 + v)
  | .hbm off => d[1].getLsbD (off / regionSize)
  | .host pa => d[0].getLsbD 62 && decide (bits d[3].toNat 30 0 ≤ pa / 2 ^ 20 ∧ pa / 2 ^ 20 ≤ bits d[3].toNat 61 31)
  | _ => false

/-- Whether an access to a range is to a hole (R18), an HBM region without placement included (R179). -/
def State.isHole (s : State) (unit : Nat) (r : Rng) : Bool :=
  match r with
  | .hole => true
  | .hbm off => (s.hbmPlace unit off).isNone
  | _ => false

/-- `Cross` of R25: the home is another bed, or a rim die the thread does not run on. -/
def State.isCross (s : State) (p : Place) (r : Rng) : Bool :=
  match s.homeOf p.unit r with
  | some h => decide (h < 24) && h != p.unit
  | none => false

/-- `Remote` of R25: link dies and the host window. -/
def isRemote : Rng → Bool
  | .linkDie _ _ _ => true
  | .host _ => true
  | _ => false

/-- Whether a kind writes. -/
def Kind.writes : Kind → Bool
  | .store => true
  | .atomic => true
  | .future => true
  | .red => true
  | _ => false

/-- Whether a kind is a read-modify-write of R323. -/
def Kind.rmw : Kind → Bool
  | .atomic => true
  | .future => true
  | .red => true
  | _ => false

/-- `WindowAllowed` of R32 (R26, R45, R56, R57, R323); `win` for `vld.w`. -/
def windowAllowed (p : Place) (kind : Kind) (win : Bool) (r : Rng) : Bool :=
  match r with
  | .core u _ w _ =>
    if kind = .future then w == 1
    else if kind = .fetch then w == 0
    else if w ≤ 1 then true
    else ownRange p r && decide (u < 12) && decide (w ≤ 6) && (win || kind == .matrix)
  | .vault _ _ _ => kind != .future
  | .hbm _ => kind != .future
  | _ => true

/-- Bytes and alignment of a `vld.w` by its range (R46, R351). -/
def windowShape (r : Rng) : Nat × Nat :=
  match r with
  | .core _ _ 2 _ => (16, 16)
  | .core _ _ 3 _ => (32, 32)
  | .core _ _ 4 _ => (8, 8)
  | .core _ _ 5 _ => (16, 16)
  | .core _ _ 6 _ => (32, 32)
  | _ => (64, 16)

/-- A byte's number that does not depend on placement, for overlap tests in store buffers. -/
def locKey : Rng → Nat
  | .core u c _ off => coreKey u c off
  | .vault b v off => vaultKey b v off
  | .host pa => hostKey pa
  | .hbm off => 2 ^ 60 + off
  | .page u c off => 2 ^ 61 + (u * 128 + c) * 2 ^ 16 + off
  | .bedCtl b k off => 2 ^ 61 + 2 ^ 40 + (b * 16 + k) * 2 ^ 20 + off
  | .rimDie d k off => 2 ^ 61 + 2 ^ 41 + (d * 16 + k) * 2 ^ 24 + off
  | .linkDie d k off => 2 ^ 61 + 2 ^ 42 + (d * 16 + k) * 2 ^ 28 + off
  | .hole => 2 ^ 63

/-! ### The checks of R32 -/

/-- An access that has passed its checks: its range, the address that names it for every core, and what R25 says of its home. -/
structure Acc where
  pa : Word
  rng : Rng
  la : Nat
  own : Bool
  cross : Bool
deriving DecidableEq, Repr

/-- Whether an access is of the local memory of the core it is made on. -/
def Acc.inMemory (a : Acc) : Bool :=
  a.own && (match a.rng with
    | .core _ _ _ _ => true
    | _ => false)

/-- What the checks answer. -/
inductive Chk where
  | ok (s : State) (a : Acc)
  | stop (r : Res)
  /-- The thread ships to a pager (R167). -/
  | ship (s : State) (pager : Nat)
deriving DecidableEq, Repr

/-- The tests after the range is known (R32 from `StoreToReadOnly` on), but for the cross test; a range outside the table of R323 comes first
(assumption 191). -/
def rangeCheck (s : State) (p : Place) (pa : Word) (kind : Kind) (win : Bool) (r : Rng) (la : Nat) : Chk :=
  let stop := fun (t : Trap) => Chk.stop (.trap s t)
  let ro := if kind.rmw ∧ (r.isCtl ∨ isRemote r) then some 0 else if portLoad r then some 3 else if kind.writes then readOnlyStore p r else none
  match ro with
  | some n => stop (Trap.of 5 n pa)
  | none =>
    if inSystemArea r ∧ notRaw r then (if kind = .fetch then stop (Trap.of 9 0 pa) else stop (Trap.of 5 0 pa))
    else if windowAllowed p kind win r = false then stop (Trap.of 9 0 pa)
    else if win ∧ (pa.toNat % (windowShape r).2 ≠ 0 ∨
        pa.toNat / 2 ^ 16 ≠ (pa.toNat + (windowShape r).1 - 1) / 2 ^ 16) then stop (Trap.of 4 0 pa)
    else .ok s { pa := pa, rng := r, la := resolveLa p.unit p.core la, own := ownRange p r, cross := s.isCross p r }

/-- The fixed-map arm of R32. -/
def fixedCheck (s : State) (p : Place) (pa : Word) (kind : Kind) (win : Bool) : Chk :=
  let la := pa.toNat % 2 ^ 52
  let r := decodeLa p.unit p.core la
  let x := s.slot p
  if bits pa.toNat 59 52 ≠ 0 ∨ s.isHole p.unit r then .stop (.trap s (Trap.of 5 0 pa))
  else if x.th.mode = false ∧ (sysOnly r ∨ reachOk p x.reach r = false) then .stop (.trap s (Trap.of 5 0 pa))
  else rangeCheck s p pa kind win r la

/-- The paged arm of R32. -/
def pagedCheck (s : State) (p : Place) (pa : Word) (kind : Kind) (win : Bool) : Chk :=
  match translate s p pa kind with
  | .trap s t => .stop (.trap s t)
  | .wait s w hw => .stop (if (s.slot p).blk.isSome then s.stall pa else .wait s w hw)
  | .ship s k => .ship s k
  | .ok s sa =>
    let la := sa.toNat % 2 ^ 52
    let r := decodeLa p.unit p.core la
    let foreign := decide (sa.toNat / 2 ^ 52 ≠ s.moduleNo.toNat)
    if r = .hole ∨ (foreign = false ∧ s.isHole p.unit r) then .stop (.trap s (Trap.of 5 0 pa))
    else if (s.slot p).th.mode = false ∧ sysOnly r then .stop (.trap s (Trap.of 5 0 pa))
    else if foreign then .stop (.trap s ⟨7, 0, pa, sa, 0⟩)
    else rangeCheck s p pa kind win r la

/-- `AddressCheck` of R32 up to its cross test. -/
def addressCheck (s : State) (p : Place) (pa : Word) (size align : Nat) (kind : Kind) (win : Bool) : Chk :=
  if pa.toNat / 2 ^ 16 ≠ (pa.toNat + size - 1) / 2 ^ 16 then .stop (.trap s (Trap.of 4 0 pa))
  else if pa.toNat % align ≠ 0 then .stop (.trap s (Trap.of 4 0 pa))
  else if pa.toNat / 2 ^ 60 = 0xF then fixedCheck s p pa kind win
  else pagedCheck s p pa kind win

/-! ### Migration (R171 to R176) -/

/-- Whether every earlier access of the slot's thread has been performed (R171, R195). -/
def allPerformed (s : State) (p : Place) : Bool :=
  let x := s.slot p
  (s.coreAt p).sbuf.all (fun e => e.slot != p.slot) && x.redOut == 0 && x.ntOut == [] && x.expOut == 0

/-- The PC that travels with a migration (R59). -/
def homePc (p : Place) (pc : Word) : Word :=
  if pc.toNat / 2 ^ 60 = 0xF ∧ isSelfAlias (pc.toNat % 2 ^ 52) then BitVec.ofNat 64 (0xF * 2 ^ 60 + resolveLa p.unit p.core (pc.toNat % 2 ^ 52))
  else pc

/-- The stamp of an HBM home, as the source's entry has it (R181). -/
def State.stampFor (s : State) (unit : Nat) (r : Rng) : Word :=
  match r with
  | .hbm off => (s.regionFor unit (off / regionSize)).stamp
  | _ => 0

/-- The landing range of a target: the route index of its landing unit is that of the range itself (R82, R173).  A shipped image carries the program
address of its fault as the `eaddr` it lands with (R167; that the image is its carrier is DEDUCED, assumption 13). -/
def migrationPkt (s : State) (p : Place) (r : Rng) (la : Nat) (ship : Bool) (addr : Word) : Pkt :=
  let x := s.slot p
  let t := { x with th := { x.th with pc := homePc p x.th.pc, eaddr := if ship then addr else x.th.eaddr } }
  let img := (s.setSlot p t).lightImage p
  let ws := BitVec.ofNat 64 (s.cur.cword.toNat + (s.cur.aword.getD 0).toNat * 2 ^ 32)
  { mkPkt s p 3 14 la (.image img x.refault ship false x.reach x.gangPrio x.gang (ws, s.cur.half == .a, x.entry)) with
    info := BitVec.ofNat 64 (x.name.toNat + b2n ship * 2 ^ 15), rstamp := s.stampFor p.unit r }

/-- Migrate the thread in execution towards a range (R171): in an open packet the packet is discarded and the route-fault trap taken (R95),
in a timed block the timing-violation trap (R319). -/
def migrate (s : State) (r : Rng) (la : Nat) (ship : Bool) (addr : Word) : Res :=
  let p := s.cur.place
  let x := s.slot p
  if x.blk.isSome then .trap s (s.blockTrap 4 addr)
  else if x.pkt.isSome then .trap s.tick ⟨15, 1, s.wordPc, s.freeDetail, 0⟩
  else if allPerformed s p = false then .wait s .drain false
  else
    let s := s.modSlot p fun x => { x with resv := none, resTurn := none }
    match inject s p r (migrationPkt s p r la ship addr) with
    | .park s => .wait s (.route (s.routeIx p.unit r)) true
    | .sent s => .wait s.tick .migrate true

/-- Ship a light thread to the pager's rim die (R167). -/
def shipTo (s : State) (pager : Nat) (addr : Word) : Res :=
  let la := 0x1F * 2 ^ 44 + pager * 2 ^ 28
  if pager < 6 then migrate s (.rimDie pager 0 0) la true addr else .trap s (Trap.of 5 0 addr)

/-- The cross outcome of R25 for a checked access: `f` performs it. -/
def crossing (s : State) (kind : Kind) (a : Acc) (f : State → Acc → Res) : Res :=
  if a.cross ∧ kind ≠ .red then
    (if s.cur.place.heavy then .trap s ⟨8, 0, a.pa, BitVec.ofNat 64 a.la, 0⟩ else migrate s a.rng a.la false a.pa)
  else f s a

/-- The checks of R32 whole, with the cross outcome of R25: `f` performs the access. -/
def accessing (s : State) (pa : Word) (size align : Nat) (kind : Kind) (win : Bool) (f : State → Acc → Res) : Res :=
  match addressCheck s s.cur.place pa size align kind win with
  | .stop r => r
  | .ship s k => shipTo s k pa
  | .ok s a => crossing s kind a f

/-! ### Reads and writes at the home -/

/-- The 16-byte pieces of an access: offset and length (R41, R190). -/
def piecesOf (n : Nat) : List (Nat × Nat) := (List.range ((n + 15) / 16)).map fun i => (16 * i, min 16 (n - 16 * i))

/-- Read bytes of a range at its home; `unit` is the unit whose region table places HBM, `who` the core that reads on path LS. -/
def readAt (s : State) (unit : Nat) (q : Path) (r : Rng) (n : Nat) (who : Nat := noCore) : State × Option (List Byte) :=
  if r.isCtl then
    let (a, low) := r.align8
    (s, some (s.ctlBytes a low n))
  else
    (piecesOf n).foldl (fun acc pc =>
      match acc.1.keyOf unit (r.add pc.1) with
      | none => (acc.1, acc.2.map fun bs => bs ++ List.replicate pc.2 0)
      | some k =>
        let (t, got) := acc.1.take q k pc.2 who
        (t, acc.2.bind fun bs => got.map fun g => bs ++ g)) (s, some [])

/-- Write bytes of a range at its home. -/
def writeAt (s : State) (unit : Nat) (q : Path) (r : Rng) (bs : List Byte) : State :=
  if r.isCtl then releaseStore (ctlStore s (bs.length + 1) r bs) (locKey r) bs.length
  else
    let s := match s.keyOf unit r with
      | some k => heal s k bs.length
      | none => s
    (piecesOf bs.length).foldl (fun t pc =>
      match t.keyOf unit (r.add pc.1) with
      | none => t
      | some k => t.put q k ((bs.drop pc.1).take pc.2)) s

/-- The largest single-copy atomic pieces of an access to a range: 16 bytes of core memory, vaults and HBM, 8 bytes of the host window (R41, R56, R185, R190). -/
def pieceLen : Rng → Nat
  | .host _ => 8
  | _ => 16

/-- Piece `i` of `m` bytes of an access. -/
def pieceBytes (m : Nat) (bs : List Byte) (i : Nat) : List Byte := (bs.drop (m * i)).take m

/-- Write the pieces of `m` bytes of an access that a mask does not name as written already. -/
def writeRest (s : State) (unit : Nat) (q : Path) (r : Rng) (bs : List Byte) (m gone : Nat) : State :=
  if gone = 0 then writeAt s unit q r bs
  else
    (List.range ((bs.length + m - 1) / m)).foldl (fun t i => if gone.testBit i then t else writeAt t unit q (r.add (m * i)) (pieceBytes m bs i)) s

/-- The pieces of `m` bytes of an access that a mask names as made, with one more. -/
def morePieces (m gone n i : Nat) : Option Nat :=
  if m * i < n ∧ gone.testBit i = false ∧ (List.range ((n + m - 1) / m)).any (fun j => j != i && !gone.testBit j) then some (gone + 2 ^ i) else none

/-- The data-error trap of a thread's access (R63). -/
def dataError (s : State) (pa : Word) : Res := .trap s (Trap.of 16 0 pa)

/-! ### What a load waits for -/

/-- An armed channel of the core that an access overlaps (R113), with its number. -/
def stalledBy (s : State) (p : Place) (pa : Word) (n : Nat) : Option Nat :=
  (((s.coreAt p).chans.find? fun (e : Nat × Chan) => decide (e.2.wm.toNat < e.2.hi.toNat ∧ pa.toNat < e.2.hi.toNat ∧ e.2.wm.toNat < pa.toNat + n))).map (·.1)

/-- Whether `n` bytes of memory from a range on hold the byte at a key; an HBM range is placed region by region (R180). -/
def Rng.holds (s : State) (unit : Nat) (r : Rng) (n key : Nat) : Bool :=
  let at' := fun (r : Rng) (m : Nat) => match s.keyOf unit r with
    | some k => decide (k ≤ key ∧ key < k + m)
    | none => false
  match r with
  | .hbm off =>
    (List.range (n / regionSize + 2)).any fun i =>
      let o := if i = 0 then off else (off / regionSize + i) * regionSize
      decide (o < off + n) && at' (.hbm o) (min (off + n) ((o / regionSize + 1) * regionSize) - o)
  | r => at' r n

/-- Whether a write of a copy engine stands below a channel's watermark (R113): in the range the channel's program addresses name, or, where those are paged,
anywhere (DESIGN CHOICE, assumption 34). -/
def belowMark (s : State) (p : Place) (c : Chan) (l : Lag) : Bool :=
  l.writer == .ce &&
  (if c.lo.toNat / 2 ^ 60 = 0xF then (decodeLa p.unit p.core (c.lo.toNat % 2 ^ 52)).holds s p.unit (c.wm.toNat - c.lo.toNat) l.key else true)

/-- Whether an access passes the watermark check of a channel: it meets its range below WM (R113, R201). -/
def passesMark (pa : Word) (n : Nat) (c : Chan) : Bool := decide (pa.toNat < c.wm.toNat ∧ c.lo.toNat < pa.toNat + n)

/-! ### What a thread observes (R201) -/

/-- A thread observes the writes still pending somewhere for which `f` holds. -/
def observe (s : State) (p : Place) (f : Lag → Bool) : State :=
  let ids := s.pending f
  if ids = [] then s else { s with seen := noteIds s s.seen (s.slot p).name.toNat ids }

/-- Whether a thread has observed a write (R201, R202). -/
def observed (s : State) (p : Place) (l : Lag) : Bool := s.knows (s.slot p).name.toNat l

/-- An acquire of what threads synchronise on: the thread takes over what its releases have observed (R197, R201). -/
def acquireKeys (s : State) (p : Place) (keys : List Nat) : State :=
  let ids := keys.flatMap fun k => Tbl.get [] s.rels k
  if ids = [] then s else observe s p fun l => ids.contains l.id

/-- The words of `n` bytes of a range, as keys of `rels`. -/
def relKeys (s : State) (unit : Nat) (r : Rng) (n : Nat) : List Nat := relWords (if r.isCtl then locKey r else (s.keyOf unit r).getD (locKey r)) n

/-- A thread takes up a task: it takes over all that any thread has observed (DESIGN CHOICE, assumption 35). -/
def acquireAll (s : State) (p : Place) : State :=
  observe s p fun l => (match l.maker with
    | .thread _ => true
    | _ => false) || s.seen.any fun e => e.2.contains l.id

/-- A load that an acquire may follow: a later fence of the thread lets it observe what the releases it read had observed (R197). -/
def hear (s : State) (p : Place) (keys : List Nat) : State :=
  let ids := keys.flatMap fun k => Tbl.get [] s.rels k
  if ids = [] then s else { s with heard := noteIds s s.heard (s.slot p).name.toNat ids }

/-- A thread reads of a channel that its commands are complete: it observes their writes (R201). -/
def seeChannel (s : State) (p : Place) (unit core n : Nat) : State := observe s p fun l => l.maker == .channel (unitKey unit core) n

/-- A thread reads the counts of a go: it observes graft writes (R201). -/
def seeGrafts (s : State) (p : Place) : State := observe s p fun l => l.writer == .ge

/-- Whether a pending write has been overtaken for the LS reads of a core: an access there returns it or a later one (R200, R203). -/
def visibleOn (s : State) (who : Nat) (l : Lag) : Bool :=
  match dropPerformed (fun e => e.done.contains who) (s.lag.filter fun e => e.reader == .ls && e.key == l.key) with
  | e :: _ => decide (l.id < e.id)
  | [] => true

/-- Whether a range lies in a core's mailbox (R35, R39). -/
def Rng.isMail : Rng → Bool
  | .core u _ _ off => decide (mailOff u ≤ off ∧ off < mailOff u + 2048)
  | _ => false

/-- Whether a key lies in a stash region's header (R128). -/
def inHeader (s : State) (k : Nat) : Bool := memGet s.mem (k / 64 * 64) == 0x3A && memGet s.mem (k / 64 * 64 + 1) == 0x5E

/-- Whether a write, which a load returns, tells of another: of every HP write received before it (R209), and in a stash header of all its command's writes (R201). -/
def tells (s : State) (h l : Lag) : Bool :=
  h.id == l.id || (h.writer == .hp && l.writer == .hp && decide (l.id ≤ h.id)) ||
  (h.writer == .se && l.writer == .se && h.maker != .other && h.maker == l.maker && inHeader s h.key)

/-- A load observes the writes that it returns, and what a channel's registers tell of (R201). -/
def observeRead (s : State) (p : Place) (r : Rng) (n : Nat) : State :=
  let got := s.lag.filter fun h => r.holds s p.unit n h.key && visibleOn s (unitKey p.unit p.core) h
  let s := observe s p fun l => got.any fun h => tells s h l
  match r with
  | .page u c off => if 0x400 ≤ off ∧ off < 0x600 then seeChannel s p u c ((off - 0x400) / 32) else s
  | _ => s

/-- Whether every load of a range is an acquire: on bed memory and of registers (R193), and of a mailbox entry (R199). -/
def acquiring (s : State) (unit : Nat) (r : Rng) : Bool :=
  r.isCtl || r.isMail || (match s.homeOf unit r with
    | some h => decide (h < 12)
    | none => false)

/-- What a load of a thread observes (R201).  One that is no acquire may be followed by a fence, and then is (R197). -/
def observeLoad (s : State) (p : Place) (r : Rng) (n : Nat) : State :=
  if s.lag = [] then s
  else
    let s := observeRead s p r n
    if acquiring s p.unit r then acquireKeys s p (relKeys s p.unit r n) else hear s p (relKeys s p.unit r n)

/-- An acquire at `n` bytes of a range (R193, R197, R207). -/
def acquired (s : State) (p : Place) (r : Rng) (n : Nat) : State := acquireKeys s p (relKeys s p.unit r n)

/-- A fence makes the loads before it acquires (R197). -/
def acquireHeard (s : State) (p : Place) : State :=
  let ids := Tbl.get [] s.heard (s.slot p).name.toNat
  if ids = [] then s else { observe s p (fun l => ids.contains l.id) with heard := Tbl.erase s.heard (s.slot p).name.toNat }

/-- Passing a watermark check: the copy engine's writes below WM become performed for the LS reads of the issuing core, and the thread observes them (R113,
R201, R203). -/
def passMarks (s : State) (p : Place) (pa : Word) (n : Nat) : State :=
  let cs := (s.coreAt p).chans.filter fun e => passesMark pa n e.2
  if cs.isEmpty then s
  else
    let f := fun l => cs.any fun e => belowMark s p e.2 l
    observe (performOn s [unitKey p.unit p.core] f) p f

/-- Whether two byte ranges meet. -/
def meets (a n b m : Nat) : Bool := decide (a < b + m ∧ b < a + n)

/-- Whether an unacknowledged streaming store of the slot stands at bytes of an access (R189, R322). -/
def ntMeets (s : State) (p : Place) (k n : Nat) : Bool := (s.slot p).ntOut.any fun e => meets e.2.1 8 (k / 8 * 8) (n + k % 8)

/-- Bytes an explicit store packet writes at its destination without its thread waiting for it.  A reduction is not ordered against its thread's other accesses
at all (R199, R347). -/
def asyncLen (q : Pkt) : Nat :=
  match q.body with
  | .bulk pay => pay.length
  | _ => 0

/-- Whether an explicit packet of the slot's thread is still on its way to bytes of an access (R189). -/
def asyncMeets (s : State) (p : Place) (k n : Nat) : Bool :=
  (s.pkts ++ s.retries.map (·.pkt)).any fun q =>
    !q.resp && q.place == p && decide (0 < asyncLen q) && meets (locKey (decodeLa 31 0 q.dest)) (asyncLen q) k n

/-- A load waits while it overlaps another slot's buffered store (R192), or a streaming store (R322) or packet of its own that is not performed (R189). -/
def loadBlocked (s : State) (p : Place) (k n : Nat) : Bool :=
  (s.coreAt p).sbuf.any (fun e => e.slot != p.slot && meets e.key e.bytes.length k n) || ntMeets s p k n || asyncMeets s p k n

/-- Put the youngest buffered values of the slot's own stores over loaded bytes (R192). -/
def forward (s : State) (p : Place) (k : Nat) (bs : List Byte) : List Byte :=
  (s.coreAt p).sbuf.foldl (fun (acc : List Byte) (e : SbEntry) =>
    if e.slot = p.slot then
      (List.range e.bytes.length).foldl (fun a i =>
        if k ≤ e.key + i ∧ e.key + i < k + a.length then a.set (e.key + i - k) (e.bytes.getD i 0) else a) acc
    else acc) bs

/-- Whether a buffered store of the slot covers bytes of a load. -/
def forwards (s : State) (p : Place) (k n : Nat) : Bool :=
  (s.coreAt p).sbuf.any fun e => e.slot == p.slot && meets e.key e.bytes.length k n

/-- Whether the slot's own buffered stores cover every byte of a load (R192). -/
def coversAll (s : State) (p : Place) (k n : Nat) : Bool :=
  (List.range n).all fun i => (s.coreAt p).sbuf.any fun e => e.slot == p.slot && decide (e.key ≤ k + i ∧ k + i < e.key + e.bytes.length)

/-- The answer to the load of an address that a slot holds. -/
def heldData (rs : List Resp) (la : Nat) : Option (List Byte) :=
  rs.findSome? fun
    | .data k b => if k = la then some b else none
    | _ => none

/-- Whether a store of the slot's own thread to a route entry still stands in the buffer: what follows it is injected after it (R85). -/
def routeStored (s : State) (p : Place) : Bool :=
  (s.coreAt p).sbuf.any fun e => e.slot == p.slot &&
    meets e.key e.bytes.length (coreKey p.unit p.core (routeOff p.unit)) 0x8000

/-- Send a request of the thread in execution and wait for its answer (R84, R85, R92). -/
def request (s : State) (r : Rng) (la kind len : Nat) (b : Body) (keep : Bool) : Res :=
  let p := s.cur.place
  if routeStored s p then .wait s .drain false
  else
    let q := { mkPkt s p kind len la b with rstamp := s.stampFor p.unit r }
    match inject s p r q with
    | .park s => .wait s (.route (s.routeIx p.unit r)) true
    | .sent s => .wait s.tick (.answer q.id keep) false

/-- Bank cycle and bank of an access of a timed block (R204): the access at `t + 1` is recorded for the conflict rule. -/
def blockAccess (s : State) (off n : Nat) : State :=
  match s.here.blk with
  | none => s
  | some b =>
    let acc := (List.range ((off % 16 + n + 15) / 16)).map (fun i => (b.cyc + 1, (off / 16 + i) % 32)) ++ b.acc.filter (fun e => b.cyc ≤ e.1)
    s.modHere fun x => { x with blk := some { b with acc := acc } }

/-- The accesses of a bit-buffer instruction of a timed block to its own banks (R204, R345): a granule in each cycle, from cycle `t + 1 + d` on (DESIGN CHOICE,
assumption 167). -/
def blockSpan (s : State) (off n d : Nat) : State :=
  match s.here.blk with
  | none => s
  | some b =>
    let acc := (List.range ((off % 16 + n + 15) / 16)).map (fun i => (b.cyc + 1 + d + i, (off / 16 + i) % 32)) ++ b.acc.filter (fun e => b.cyc ≤ e.1)
    s.modHere fun x => { x with blk := some { b with acc := acc } }

/-- Read piece `i` of an own access, or take it as an earlier turn of the bundle read it; the slot's own buffered stores stand over it. -/
def pieceAt (s : State) (p : Place) (a : Acc) (i n : Nat) : State × Option (List Byte) :=
  match heldData s.here.resp (a.la + 16 * i) with
  | some bs => (s, some bs)
  | none =>
    let (t, got) := readAt s p.unit .ls (a.rng.add (16 * i)) n (unitKey p.unit p.core)
    (t, got.map fun bs => forward t p (locKey (a.rng.add (16 * i))) bs)

/-- An own access of more than one piece of which this turn makes only those that `cur.part` names (R190): they are held until the rest is read. -/
def readSome (s : State) (p : Place) (a : Acc) (n : Nat) : State × Bool :=
  (piecesOf n).foldl (fun acc pc =>
    if s.cur.part.testBit (pc.1 / 16) && (heldData acc.1.here.resp (a.la + pc.1)).isNone then
      match pieceAt acc.1 p a (pc.1 / 16) pc.2 with
      | (t, some bs) => (t.modHere fun x => { x with resp := x.resp ++ [.data (a.la + pc.1) bs] }, acc.2)
      | (t, none) => (t, true)
    else acc) (s, false)

/-- Read an own access whole, with the pieces that are held (R190). -/
def readOwn (s : State) (p : Place) (a : Acc) (n : Nat) : State × Option (List Byte) :=
  if n ≤ 16 ∨ s.here.resp = [] then
    let (t, got) := readAt s p.unit .ls a.rng n (unitKey p.unit p.core)
    (t, got.map fun bs => forward t p (locKey a.rng) bs)
  else
    (piecesOf n).foldl (fun acc pc =>
      let (t, got) := pieceAt acc.1 p a (pc.1 / 16) pc.2
      (t, acc.2.bind fun bs => got.map fun g => bs ++ g)) (s, some [])

/-- Whether pieces of an access are still to be read after a turn that reads some. -/
def partsLeft (s : State) (a : Acc) (n : Nat) : Bool := (piecesOf n).any fun pc => (heldData s.here.resp (a.la + pc.1)).isNone

/-- Perform a checked load of `n` bytes and give its bytes to `f`: the watermark stall, the store buffer, then the bank, or a request to the
home (R25, R113, R189 to R192, R318 to R320).  A load of a control register comes after the slot's own stores to it, of whose effect it tells (R10, assumption 194); one whose bytes all stand in the slot's own buffered stores takes them from there; a remote one that only some
of them cover waits until they are performed (assumption 151). -/
def loadBytes (s : State) (a : Acc) (n : Nat) (f : State → List Byte → Res) : Res :=
  let p := s.cur.place
  let k := locKey a.rng
  match stalledBy s p a.pa n with
  | some c => s.waitAt (.channel c) true a.pa
  | none =>
    if loadBlocked s p k n ∨ (a.rng.isCtl ∧ forwards s p k n) then s.waitAt .drain false a.pa
    else
      let s := passMarks s p a.pa n
      if a.own then
        let s := match a.rng with
          | .core _ _ _ off => blockAccess s off n
          | _ => s
        if 16 < n ∧ s.cur.part ≠ 0 ∧ s.here.blk = none then
          match readSome s p a n with
          | (s, true) => dataError s a.pa
          | (s, false) =>
            if partsLeft s a n then .wait s .again false
            else
              match readOwn s p a n with
              | (s, none) => dataError s a.pa
              | (s, some bs) => f (observeLoad s p a.rng n) bs
        else
          match readOwn s p a n with
          | (s, none) => dataError s a.pa
          | (s, some bs) => f (observeLoad s p a.rng n) bs
      else
        match heldData s.here.resp a.la with
        | some bs => f (observeLoad s p a.rng n) bs
        | none =>
          if s.here.resp.contains .bad then dataError s a.pa
          else if s.here.blk.isSome then .trap s (s.blockTrap 5 a.pa)
          else if coversAll s p k n then f s (forward s p k (List.replicate n 0))
          else if forwards s p k n then .wait s .drain false
          else request s a.rng a.la 0 (if isRemote a.rng ∨ p.rim then 1 else 0) (.load n false) false

/-- Whether a decode of a load through windows 2 to 6 has begun on a bed core: a slot holds what it has read so far, under its window's address (R50, R55). -/
def decoding (s : State) (u c : Nat) : Bool :=
  s.slots.any fun e => e.1 / 8 == unitKey u c && e.2.resp.any fun
    | .data k _ => k / 2 ^ 24 == u * 4096 + c && decide (2 ≤ k / 2 ^ 20 % 16 ∧ k / 2 ^ 20 % 16 < 8)
    | _ => false

/-- Whether a fetch of the unit is under way: one that has ended, and waits for its pair or its turn, reads no more. -/
def Matrix.reading (m : Matrix) : Bool := m.fetches.any (·.act.isNone)

/-- Whether a store of `n` bytes to a range must wait for the decodes in progress on the core, or for a refill that has not reached its entry (R54,
R55). -/
def tableHeld (s : State) (r : Rng) (n : Nat) : Bool :=
  match r with
  | .core u c _ off =>
    let x := s.core u c
    decide (u < 12) && decide (off < 0xFCC10 ∧ 0xFC800 < off + n) &&
      (x.mx.reading || decoding s u c || (match x.ctBusy with
        | some (_, pos) => decide (0xFC800 + 4 * pos < off + n ∧ off < 0xFCC00)
        | none => false))
  | .page u c off => decide (u < 12) && meets off n 0x100 8 && ((s.core u c).mx.reading || decoding s u c)
  | .rimDie d 0 off => off < 0x400 && off % 16 == 8 && regionHalf s d (off / 16)
  | _ => false

/-- Whether a store that a thread makes in its core's own memory without the store buffer must wait: as every store does, and while a refill of the code table
writes, which stands before it in the core's store order (R54). -/
def ownHeld (s : State) (p : Place) (r : Rng) (n : Nat) : Bool := tableHeld s r n || (s.coreAt p).ctBusy.isSome

/-- Whether a range is a region entry (R179). -/
def Rng.isRegion : Rng → Bool
  | .rimDie _ k off => k == 0 && decide (off < 0x400)
  | _ => false

/-- Whether an earlier store of the core to the same control block still stands in the buffer: what the register refuses is settled once it is made (R179, R217,
R236, R237). -/
def refusalWaits (s : State) (a : Acc) : Bool :=
  a.rng.isCtl && s.here.blk.isNone && (s.coreAt s.cur.place).sbuf.any fun e => match e.rng, a.rng with
    | .page u c _, .page u' c' _ => u == u' && c == c'
    | .bedCtl b k _, .bedCtl b' k' _ => b == b' && k == k'
    | .rimDie d k _, .rimDie d' k' _ => d == d' && k == k'
    | _, _ => false

/-- Put a checked store into the store buffer (R192), behind the streaming stores, reductions and packets of its thread to its bytes (R189); inside a timed block a store to the core's own
memory is made at its bank (R204).  A region entry, which only its own die's rim cores may store (R22), is written as the store is checked, after every earlier store of the core.
`rel` is the scope of a `st.rel`. -/
def storeBytes (s : State) (a : Acc) (bs : List Byte) (rel : Option Nat) (f : State → Res) : Res :=
  let p := s.cur.place
  if s.here.blk.isSome ∧ a.own then
    if ownHeld s p a.rng bs.length then s.waitAt .matrix false a.pa
    else
      let s := match a.rng with
        | .core _ _ _ off => blockAccess s off bs.length
        | _ => s
      f (writeAt s p.unit .ls a.rng bs)
  else if a.rng.isRegion then (if (s.coreAt p).sbuf = [] then f (writeAt s p.unit .ls a.rng bs) else s.waitAt .drain false a.pa)
  else if 16 ≤ (s.coreAt p).sbuf.length ∨ ntMeets s p (locKey a.rng) bs.length ∨ asyncMeets s p (locKey a.rng) bs.length then s.waitAt .drain false a.pa
  else
    f ((s.modCoreAt p fun c =>
      { c with sbuf := c.sbuf ++
        [{ slot := p.slot, pa := a.pa, rng := a.rng, key := locKey a.rng, bytes := bs, sent := none, id := s.free, rel := rel, gone := 0,
           ctx := s.ctx }] }).tick)

/-- Whether a register refuses a store, doubleword by doubleword (R179, R217, R236, R237). -/
def refusedStore (s : State) (a : Acc) (bs : List Byte) : Bool :=
  a.rng.isCtl &&
  (let (r, low) := a.rng.align8
   (List.range ((low + bs.length + 7) / 8)).any fun i =>
     let ri := r.add (8 * i)
     let old := bytesOf 8 (s.ctlKeep ri).toNat
     let lo := if i = 0 then low else 0
     let new := (bs.drop (8 * i - (if i = 0 then 0 else low))).take (8 - lo)
     registerRefuses s s.ctx ri (word64 (old.take lo ++ new ++ old.drop (lo + new.length))))

/-- Go on with a checked store unless its register refuses it (R179, R217, R236, R237). -/
def unlessRefused (s : State) (a : Acc) (bs : List Byte) (r : Res) : Res :=
  if refusalWaits s a then .wait s .drain false
  else if refusedStore s a bs then .trap s (Trap.of 5 7 a.pa)
  else r

/-- A scalar load: address, checks, and the value to `f` (R318, R320). -/
def scalarLoad (s : State) (pa : Word) (n : Nat) (f : State → Nat → Res) : Res :=
  accessing s pa n n .load false fun s a => loadBytes s a n fun s bs => f s (ofBytes bs)

/-- A scalar store (R318, R320). -/
def scalarStore (s : State) (pa : Word) (n : Nat) (v : Word) (f : State → Res) : Res :=
  accessing s pa n n .store false fun s a =>
    let bs := bytesOf n v.toNat
    unlessRefused s a bs (storeBytes s a bs none f)

/-! ### Read-modify-write at the home (R323 to R330) -/

/-- The new value of an atomic, or none for a failing `cas` (R325). -/
def amoNew (op w m x c : Nat) : Option Nat :=
  match op with
  | 0 => some ((m + x) % 2 ^ w)
  | 1 => some (m &&& x)
  | 2 => some (m ||| x)
  | 3 => some (m ^^^ x)
  | 4 => some (if sintN w m ≤ sintN w x then m else x)
  | 5 => some (if sintN w x ≤ sintN w m then m else x)
  | 6 => some (if m ≤ x then m else x)
  | 7 => some (if x ≤ m then m else x)
  | 8 => some x
  | _ => if m = c then some x else none

/-- What a read-modify-write answers. -/
inductive RmwRes where
  | value (v : Word)
  /-- The word is empty, or the reservation stands: the slot waits (R207, R326). -/
  | park (w : Wait)
  | bad
deriving DecidableEq, Repr

/-- Sign-extend the low `w` bits (R325). -/
def signExt (w v : Nat) : Word := BitVec.ofInt 64 (sintN w v)

/-- The live reservations of a bank (R326). -/
def liveResv (s : State) (b : Nat) : List (Nat × Nat) :=
  (Tbl.get [] s.resvs b).filter fun e => (Tbl.get Slot.empty s.slots e.1).resv == some (e.2 / 8 * 8)

/-- Whether another slot's protected reservation stands on a word (R328). -/
def protectedBy (s : State) (who k : Nat) : Bool :=
  (liveResv s (resBank k)).any fun e => e.1 != who && e.2 == k + 1

/-- Place a reservation, which ends its thread's turn (R328): the oldest of sixteen is evicted (R326); the new one is protected (R328). -/
def placeResv (s : State) (who k : Nat) : State :=
  let b := resBank k
  let l := (liveResv s b).filter fun e => e.1 != who
  let evict := if 16 ≤ l.length then l.take 1 else []
  let l' := l.drop evict.length ++ [(who, k + 1)]
  let s := { s with resvs := Tbl.set s.resvs b l' }
  let s := evict.foldl (fun t e => { t with slots := t.slots.map fun x => if x.1 = e.1 then (x.1, { x.2 with resv := none }) else x }) s
  { s with slots := s.slots.map fun x => if x.1 = who then (x.1, { x.2 with resv := some k, resTurn := none }) else x }

/-- Whether an `ld.res` that came earlier still waits for the same location (R328). -/
def behindRes (s : State) (who k : Nat) : Bool :=
  let mine := (Tbl.get Slot.empty s.slots who).resTurn
  s.slots.any fun e => e.1 != who && (e.2.st == .run || e.2.st == .wait) && (match e.2.resTurn, mine with
    | some (r, t), some (r', t') => r == k && (r' != k || decide (t < t'))
    | some (r, _), none => r == k
    | none, _ => false)

/-- An `ld.res` that has to wait takes its turn (R328). -/
def queueRes (s : State) (who k : Nat) : State :=
  match (Tbl.get Slot.empty s.slots who).resTurn with
  | some (r, _) => if r = k then s else setTurn s
  | none => setTurn s
where
  /-- The next ticket. -/
  setTurn (s : State) : State :=
    { s with slots := s.slots.map (fun x => if x.1 = who then (x.1, { x.2 with resTurn := some (k, s.free) }) else x), free := s.free + 1 }

/-- Register a waiter in a bank's table of sixteen if there is room (R207, R326). -/
def registerWaiter (s : State) (who k : Nat) : State :=
  let b := waitBank k
  let l := Tbl.get [] s.waiters b
  if l.length < 16 ∧ l.any (fun e => e.1 == who) = false then { s with waiters := Tbl.set s.waiters b (l ++ [(who, k)]) } else s

/-- Take away a slot's reservation. -/
def dropResv (s : State) (who : Nat) : State :=
  { s with slots := s.slots.map fun x => if x.1 = who then (x.1, { x.2 with resv := none }) else x }

/-- Perform an atomic, reservation or future operation on the word at a key, as one action (R323, R325, R326, R329). -/
def rmwWord (s : State) (who k : Nat) (op : Rmw) : State × RmwRes :=
  let rd := fun (n : Nat) (f : State → Nat → State × RmwRes) =>
    match s.take .ls k n (who / 8) with
    | (t, none) => (t, RmwRes.bad)
    | (t, some bs) => f t (ofBytes bs)
  match op with
  | .amo o n x c =>
    rd n fun t m =>
      let w := 8 * n
      (match amoNew o w m (x.toNat % 2 ^ w) (c.toNat % 2 ^ w) with
       | some v => t.put .ls k (bytesOf n v)
       | none => t, .value (signExt w m))
  | .ldRes =>
    if protectedBy s who k || behindRes s who k then (queueRes s who k, .park (.reserve k))
    else rd 8 fun t m => (placeResv t who k, .value (BitVec.ofNat 64 m))
  | .stCond x =>
    let ok := (Tbl.get Slot.empty s.slots who).resv == some k && !protectedBy s who k
    let s := dropResv s who
    let s := wakeIf s fun _ w => w == .reserve k
    if ok then (s.put .ls k (bytesOf 8 x.toNat), .value 1) else (s, .value 0)
  | .wres =>
    if (Tbl.get Slot.empty s.slots who).resv = some k then (registerWaiter s who k, .park (.reserve k)) else (s, .value 1)
  | .fget => rd 8 fun t m => if tagFull t k then (t, .value (BitVec.ofNat 64 m)) else (registerWaiter t who k, .park (.future k))
  | .ftake =>
    rd 8 fun t m => if tagFull t k then (setTag t k false, .value (BitVec.ofNat 64 m)) else (registerWaiter t who k, .park (.future k))
  | .fput x =>
    rd 8 fun t _ => (setTag (t.put .ls k (bytesOf 8 x.toNat)) k true, .value (BitVec.ofNat 64 (b2n (tagFull t k))))
  | _ => (s, .value 0)

/-- The slots that wait to take from a counter, oldest first, each still live (R229). -/
def counterQueue (s : State) (unit core n : Nat) : List (Nat × Nat) :=
  (Tbl.get [] (s.core unit core).scntWait n).filter fun e =>
    let x := Tbl.get Slot.empty s.slots e.1
    x.st == .run || x.st == .wait

/-- Wake the oldest waiter of a counter (R229). -/
def wakeCounter (s : State) (unit core n : Nat) : State :=
  match counterQueue s unit core n with
  | [] => s
  | e :: _ => wakeIf s fun k w => k == e.1 && w == .counter

/-- Slot counter operations (R229, R341) on a counter of a core: takers are served oldest first. -/
def rmwCounter (s : State) (who unit core : Nat) (op : Rmw) : State × RmwRes :=
  let c := s.core unit core
  let setQ := fun (t : State) (n : Nat) (l : List (Nat × Nat)) => t.modCore unit core fun c => { c with scntWait := Tbl.set c.scntWait n l }
  let setV := fun (t : State) (n : Nat) (v : BitVec 32) => t.modCore unit core fun c => { c with scnt := Tbl.set c.scnt n v }
  match op with
  | .take n =>
    let v := Tbl.get 0 c.scnt n
    let q := counterQueue s unit core n
    if v ≠ 0 ∧ (q = [] ∨ (q.head?.map (·.1)) = some who) then
      (wakeCounter (setV (setQ s n (q.filter fun e => e.1 != who)) n (v - 1)) unit core n, .value (v.zeroExtend 64))
    else (setQ s n (if q.any (fun e => e.1 == who) then q else q ++ [(who, s.free)]), .park .counter)
  | .try n =>
    let v := Tbl.get 0 c.scnt n
    if v ≠ 0 ∧ counterQueue s unit core n = [] then (setV s n (v - 1), .value 1) else (s, .value 0)
  | .give n =>
    let v := Tbl.get 0 c.scnt n
    let s := match s.maker with
      | .thread name => s.release (counterKey unit core n) (s.pending (s.knows name))
      | _ => s
    (wakeCounter (if v = BitVec.allOnes 32 then s else setV s n (v + 1)) unit core n, .value 0)
  | _ => (s, .value 0)

/-- The value an answer brought, if one has come. -/
def heldValue (rs : List Resp) : Option Word :=
  rs.findSome? fun
    | .value v => some v
    | _ => none

/-- Whether an earlier host-window store of the thread has still to leave the Lantern port (R208). -/
def hostPending (s : State) (p : Place) : Bool :=
  (s.coreAt p).sbuf.any (fun e => e.slot == p.slot && (match e.rng with
    | .host _ => true
    | _ => false)) ||
  (s.slot p).ntOut.any (fun e => decide (2 ^ 51 ≤ e.2.1)) ||
  s.hostOut.any fun q => q.2 == (s.slot p).name

/-- Whether two ranges are of one home within a scope of the thread that stores (R196). -/
def rngCovered (s : State) (p : Place) (sc : Nat) (r : Rng) : Bool :=
  if sc = 0 then ownRange p r
  else if sc = 1 then s.homeOf p.unit r == some p.unit
  else if sc = 2 then (match r with
    | .host _ => false
    | _ => true)
  else true

/-- A reduction, streaming store or closed packet of the slot, or its acknowledgement on the way back (R199). -/
def Pkt.unordered (q : Pkt) (p : Place) : Bool :=
  q.place == p && (q.xpl || (match (if q.resp then q.req.2.2 else q.body) with
    | .red _ _ _ _ _ => true
    | .store _ nt => nt
    | _ => false))

/-- Whether the acknowledgements a release or fence of a scope waits for are in: of reductions, streaming stores and closed packets to locations within the scope
(R196, R199, R334); scope `.s` covers them all. -/
def ackedFor (s : State) (p : Place) (sc : Nat) : Bool :=
  let x := s.slot p
  if sc < 3 then
    (s.pkts ++ s.retries.map (·.pkt)).all fun q =>
      !(q.unordered p && q.dmod == s.moduleNo.toNat && rngCovered s p sc (decodeLa p.unit p.core q.dest))
  else x.redOut == 0 && x.ntOut == [] && x.expOut == 0

/-- Whether the thread's earlier stores to locations within a scope have been performed (R194, R195). -/
def storesDone (s : State) (p : Place) (sc : Nat) : Bool :=
  if sc = 0 then (s.coreAt p).sbuf.all fun e => !(e.slot == p.slot && ownRange p e.rng)
  else (s.coreAt p).sbuf == []

/-- The wait of R324: the store buffer is empty (loads and atomics are performed before their word ends); a `fput` is a release at `.m` as well (R207) and a
`slot.give` one at `.b` (R229), which wait for the acknowledgements of R199. -/
def rmwReady (s : State) (p : Place) (op : Rmw) : Bool :=
  (s.coreAt p).sbuf == [] && (match op with
    | .fput _ => ackedFor s p 2
    | .give _ => ackedFor s p 1
    | _ => true)

/-- The value of a read-modify-write is in: it is an acquire (R193, R201, R207, R324). -/
def rmwDone (s : State) (a : Acc) (n : Nat) (v : Word) (f : State → Word → Res) : Res :=
  let p := s.cur.place
  f (acquired (observeLoad s p a.rng n) p a.rng n) v

/-- Perform a read-modify-write of the thread in execution: the watermark stall (R113), the wait of R324, then its own bank, where it waits for decodes that
still read a table (R55), or a request to the home.  `f` takes the value. -/
def rmwAccess (s : State) (a : Acc) (n : Nat) (op : Rmw) (f : State → Word → Res) : Res :=
  let p := s.cur.place
  match (match op with
    | .stCond _ => none
    | .wres => none
    | _ => stalledBy s p a.pa n) with
  | some c => s.waitAt (.channel c) true a.pa
  | none =>
    match heldValue s.here.resp with
    | some v => rmwDone s a n v f
    | none =>
      if s.here.resp.contains .bad then dataError s a.pa
      else if rmwReady s p op = false ∨ ntMeets s p (locKey a.rng) n ∨ asyncMeets s p (locKey a.rng) n then s.waitAt .drain false a.pa
      else
        let s := passMarks s p a.pa n
        if a.own then
          if ownHeld s p a.rng n then s.waitAt .matrix false a.pa
          else
            match s.keyOf p.unit a.rng with
            | none => .trap s (Trap.of 5 0 a.pa)
            | some k =>
              let s := match a.rng with
                | .core _ _ _ off => blockAccess s off n
                | _ => s
              match rmwWord s (slotKey p) k op with
              | (s, .value v) => rmwDone s a n v f
              | (s, .park w) => s.waitAt w (w == .future k) a.pa
              | (s, .bad) => dataError s a.pa
        else if s.here.blk.isSome then .trap s (s.blockTrap 5 a.pa)
        else request s a.rng a.la 2 1 (.rmw op) true

end Sys2Proof.Machine
end

