-- ==== Sys2Proof/Machine/Gates.lean ====
section
/-! DEFINITION. What decode and the schedule of a timed block need to know of each instruction word: its feature (R294), the slots that may run it
(R214), whether it is system-only (R390, R414), and the registers it reads and writes with its latency (R302, R319, R350). -/

namespace Sys2Proof.Machine

/-- Feature, slot kinds and privilege of each instruction word (R214, R294, R390, R414); an event has none. -/
def gateOf : Instr → Gate
  | .bbInit _ => ⟨7, 0, false⟩
  | .bbPeekImm _ _ => ⟨7, 0, false⟩
  | .bbPeekReg _ _ => ⟨7, 0, false⟩
  | .bbTakeImm _ _ => ⟨7, 0, false⟩
  | .bbTakeReg _ _ => ⟨7, 0, false⟩
  | .bbDec _ _ _ => ⟨7, 0, false⟩
  | .bbCopy _ _ _ => ⟨7, 0, false⟩
  | .bbLit _ _ => ⟨7, 0, false⟩
  | .cpyQuench _ => ⟨0, 0, true⟩
  | .stashOpen _ => ⟨3, 0, false⟩
  | .stash _ => ⟨3, 0, false⟩
  | .stashReg _ _ => ⟨3, 2, false⟩
  | .restore _ => ⟨3, 0, false⟩
  | .stashStat _ _ _ => ⟨3, 0, false⟩
  | .graftCfg _ _ => ⟨4, 0, false⟩
  | .graftGo _ => ⟨4, 0, false⟩
  | .graftStat _ _ _ => ⟨4, 0, false⟩
  | .xbegin => ⟨6, 0, false⟩
  | .xput _ _ _ => ⟨6, 0, false⟩
  | .xend => ⟨6, 0, false⟩
  | .follow => ⟨5, 2, false⟩
  | .unfollow => ⟨5, 0, false⟩
  | .eret => ⟨0, 0, true⟩
  | .mfsr _ s => ⟨0, 0, decide (8 ≤ s.toNat ∧ s.toNat ≤ 11)⟩
  | .mtsr _ s => ⟨0, 0, decide (s.toNat = 3 ∨ (8 ≤ s.toNat ∧ s.toNat ≤ 11))⟩
  | .vld _ _ _ => ⟨0, 1, false⟩
  | .vldW _ _ _ => ⟨0, 1, false⟩
  | .vst _ _ _ => ⟨0, 1, false⟩
  | .vldS _ _ _ => ⟨0, 1, false⟩
  | .vstS _ _ _ => ⟨0, 1, false⟩
  | .mringCfg _ _ => ⟨0, 2, false⟩
  | .ringPutReserve _ _ _ => ⟨0, 2, false⟩
  | .ringPutPublish _ _ _ => ⟨0, 2, false⟩
  | .ringPop _ _ _ => ⟨0, 2, false⟩
  | .maccLd _ _ _ => ⟨0, 2, false⟩
  | .maccSt _ _ _ => ⟨0, 2, false⟩
  | .mcap _ _ _ => ⟨0, 2, false⟩
  | .mstat _ _ _ => ⟨0, 2, false⟩
  | .msave _ => ⟨0, 2, true⟩
  | .mload _ => ⟨0, 2, true⟩
  | .vadd _ _ _ _ _ => ⟨0, 1, false⟩
  | .vsub _ _ _ _ _ => ⟨0, 1, false⟩
  | .vmul _ _ _ _ _ => ⟨0, 1, false⟩
  | .vmla _ _ _ _ _ => ⟨0, 1, false⟩
  | .vand _ _ _ _ _ => ⟨0, 1, false⟩
  | .vor _ _ _ _ _ => ⟨0, 1, false⟩
  | .vxor _ _ _ _ _ => ⟨0, 1, false⟩
  | .vshl _ _ _ _ _ => ⟨0, 1, false⟩
  | .vshr _ _ _ _ _ => ⟨0, 1, false⟩
  | .vsha _ _ _ _ _ => ⟨0, 1, false⟩
  | .vmin _ _ _ _ _ => ⟨0, 1, false⟩
  | .vmax _ _ _ _ _ => ⟨0, 1, false⟩
  | .vfadd _ _ _ _ _ => ⟨0, 1, false⟩
  | .vfsub _ _ _ _ _ => ⟨0, 1, false⟩
  | .vfmul _ _ _ _ _ => ⟨0, 1, false⟩
  | .vfma _ _ _ _ _ => ⟨0, 1, false⟩
  | .vfmin _ _ _ _ _ => ⟨0, 1, false⟩
  | .vfmax _ _ _ _ _ => ⟨0, 1, false⟩
  | .vcmp _ _ _ _ _ _ => ⟨0, 1, false⟩
  | .vsel _ _ _ _ _ => ⟨0, 1, false⟩
  | .vcvt _ _ s _ t => ⟨0, if t = 12 ∨ t = 13 ∨ s = 12 ∨ s = 13 then 2 else 1, false⟩
  | .vperm _ _ _ _ _ => ⟨0, 1, false⟩
  | .vbcast _ _ _ _ => ⟨0, 1, false⟩
  | .vins _ _ _ _ => ⟨0, 1, false⟩
  | .vext _ _ _ _ => ⟨0, 1, false⟩
  | .vmov _ _ _ _ => ⟨0, 1, false⟩
  | .vmovGToM _ _ => ⟨0, 1, false⟩
  | .vmovMToG _ _ => ⟨0, 1, false⟩
  | .vredAdd _ _ _ _ => ⟨0, 1, false⟩
  | .vredMin _ _ _ _ => ⟨0, 1, false⟩
  | .vredMax _ _ _ _ => ⟨0, 1, false⟩
  | .vredFadd _ _ _ _ => ⟨0, 1, false⟩
  | .mand _ _ _ => ⟨0, 1, false⟩
  | .mor _ _ _ => ⟨0, 1, false⟩
  | .mnot _ _ => ⟨0, 1, false⟩
  | .mcnt _ _ _ => ⟨0, 1, false⟩
  | .mma _ _ _ _ _ => ⟨0, 2, false⟩
  | .mmaSp _ _ _ _ _ _ _ => ⟨1, 2, false⟩
  | .mmaMx _ _ _ _ _ => ⟨2, 2, false⟩
  | .maccZero _ => ⟨0, 2, false⟩
  | .maccMv _ _ => ⟨0, 2, false⟩
  | _ => Gate.base

/-- Run an instruction word's meaning behind its feature, slot and privilege checks (R295); a pair's second word has passed them before its first took effect
(R251, R284). -/
def word (i : Instr) (s : State) (f : State → Res) : Host.Outcome State Fault Refusal :=
  done (match (if s.cur.commit then none else (gateOf i).check s) with
    | some t => .trap s t
    | none => f s)

/-- Registers read, registers written and latency: `g` by number, `v` from 32, `m` from 64 (R302, R319, R350).  Only timed blocks look at it. -/
def usesOf : Instr → List Nat × List Nat × Nat
  | .bl _ => ([], [1], 1)
  | .br a _ => ([a.toNat], [], 1)
  | .brl d a _ => ([a.toNat], [d.toNat], 1)
  | .beq a b _ => ([a.toNat, b.toNat], [], 1)
  | .bne a b _ => ([a.toNat, b.toNat], [], 1)
  | .blt a b _ => ([a.toNat, b.toNat], [], 1)
  | .bge a b _ => ([a.toNat, b.toNat], [], 1)
  | .bltn a b _ => ([a.toNat, b.toNat], [], 1)
  | .bgen a b _ => ([a.toNat, b.toNat], [], 1)
  | .bz a _ => ([a.toNat], [], 1)
  | .bnz a _ => ([a.toNat], [], 1)
  | .ldB t a _ => ([a.toNat], [t.toNat], 4)
  | .ldH t a _ => ([a.toNat], [t.toNat], 4)
  | .ldW t a _ => ([a.toNat], [t.toNat], 4)
  | .ldD t a _ => ([a.toNat], [t.toNat], 4)
  | .ldBx t a _ => ([a.toNat], [t.toNat], 4)
  | .ldHx t a _ => ([a.toNat], [t.toNat], 4)
  | .ldWx t a _ => ([a.toNat], [t.toNat], 4)
  | .stB t a _ => ([a.toNat, t.toNat], [], 1)
  | .stH t a _ => ([a.toNat, t.toNat], [], 1)
  | .stW t a _ => ([a.toNat, t.toNat], [], 1)
  | .stD t a _ => ([a.toNat, t.toNat], [], 1)
  | .ldAcq t a _ _ => ([a.toNat], [t.toNat], 4)
  | .stRel t a _ _ => ([a.toNat, t.toNat], [], 1)
  | .stNt t a _ _ => ([a.toNat, t.toNat], [], 1)
  | .amoAdd d a b _ => ([a.toNat, b.toNat], [d.toNat], 6)
  | .amoAnd d a b _ => ([a.toNat, b.toNat], [d.toNat], 6)
  | .amoOr d a b _ => ([a.toNat, b.toNat], [d.toNat], 6)
  | .amoXor d a b _ => ([a.toNat, b.toNat], [d.toNat], 6)
  | .amoMin d a b _ => ([a.toNat, b.toNat], [d.toNat], 6)
  | .amoMax d a b _ => ([a.toNat, b.toNat], [d.toNat], 6)
  | .amoMinn d a b _ => ([a.toNat, b.toNat], [d.toNat], 6)
  | .amoMaxn d a b _ => ([a.toNat, b.toNat], [d.toNat], 6)
  | .amoSwap d a b _ => ([a.toNat, b.toNat], [d.toNat], 6)
  | .amoCas d a b _ => ([a.toNat, b.toNat, d.toNat], [d.toNat], 6)
  | .ldRes d a => ([a.toNat], [d.toNat], 6)
  | .stCond d a b => ([a.toNat, b.toNat], [d.toNat], 6)
  | .wres d => ([], [d.toNat], 6)
  | .fget d a => ([a.toNat], [d.toNat], 6)
  | .fput d a b => ([a.toNat, b.toNat], [d.toNat], 6)
  | .ftake d a => ([a.toNat], [d.toNat], 6)
  | .redAdd a b _ => ([a.toNat, b.toNat], [], 1)
  | .redMin a b _ => ([a.toNat, b.toNat], [], 1)
  | .redMax a b _ => ([a.toNat, b.toNat], [], 1)
  | .redFadd a b _ => ([a.toNat, b.toNat], [], 1)
  | .redFaddGroup d a b => ([d.toNat, a.toNat, b.toNat], [], 1)
  | .barInit a _ => ([a.toNat], [], 1)
  | .barArrive d _ => ([], [d.toNat], 1)
  | .barWait a _ => ([a.toNat], [], 1)
  | .barTry d a _ => ([a.toNat], [d.toNat], 1)
  | .slotTake d a _ => ([a.toNat], [d.toNat], 1)
  | .slotGive a _ => ([a.toNat], [], 1)
  | .slotTry d a _ => ([a.toNat], [d.toNat], 1)
  | .bbInit a => ([a.toNat], [], 1)
  | .bbPeekImm d _ => ([], [d.toNat], 1)
  | .bbPeekReg d a => ([a.toNat], [d.toNat], 1)
  | .bbTakeImm d _ => ([], [d.toNat], 1)
  | .bbTakeReg d a => ([a.toNat], [d.toNat], 1)
  | .bbDec d a _ => ([a.toNat], [d.toNat], 4)
  | .bbCopy d a b => ([d.toNat, a.toNat, b.toNat], [d.toNat], 1)
  | .bbLit d _ => ([d.toNat], [d.toNat], 1)
  | .cpy a => ([a.toNat], [], 1)
  | .cpyCk a => ([a.toNat], [], 1)
  | .cpyQ d _ _ => ([], [d.toNat], 1)
  | .cpyQuench a => ([a.toNat], [], 1)
  | .stashOpen a => ([a.toNat], [], 1)
  | .stash a => ([a.toNat], [], 1)
  | .stashReg v a => ([a.toNat, 32 + 2 * v.toNat, 33 + 2 * v.toNat], [], 1)
  | .restore a => ([a.toNat], [], 1)
  | .stashStat d a _ => ([a.toNat], [d.toNat], 1)
  | .graftCfg a _ => ([a.toNat], [], 1)
  | .graftStat d _ _ => ([], [d.toNat], 1)
  | .psendOpen a => ([a.toNat], [], 1)
  | .psendAppend a => ([a.toNat], [], 1)
  | .psendEOpen a => ([a.toNat], [], 1)
  | .psendEAppend a => ([a.toNat], [], 1)
  | .spawn d a _ => ([d.toNat, a.toNat], [1], 1)
  | .dqPush d a => ([a.toNat, 4, 5, 6, 7], [d.toNat], 1)
  | .dqPop d => ([], [d.toNat, 4, 5, 6, 7], 1)
  | .launch a _ => ([a.toNat], [], 1)
  | .plotAlloc d a => ([a.toNat], [d.toNat], 1)
  | .plotPass a _ => ([a.toNat], [], 1)
  | .plotFree a => ([a.toNat], [], 1)
  | .xput d a _ => ([d.toNat, a.toNat], [], 1)
  | .mfsr d _ => ([], [d.toNat], 1)
  | .mtsr a _ => ([a.toNat], [], 1)
  | .vld t a _ => ([a.toNat], [32 + t.toNat], 4)
  | .vldW t a _ => ([a.toNat], [32 + t.toNat], 5)
  | .vst t a _ => ([a.toNat, 32 + t.toNat], [], 1)
  | .vldS d a b => ([a.toNat, b.toNat], [32 + d.toNat], 4)
  | .vstS d a b => ([a.toNat, b.toNat, 32 + d.toNat], [], 1)
  | .mringCfg a b => ([a.toNat, b.toNat], [], 1)
  | .ringPutReserve d a b => ([a.toNat, b.toNat], [d.toNat], 1)
  | .ringPutPublish d a b => ([a.toNat, b.toNat], [d.toNat], 1)
  | .ringPop d a b => ([a.toNat, b.toNat], [d.toNat], 1)
  | .maccLd _ a b => ([a.toNat, b.toNat], [], 1)
  | .maccSt _ a b => ([a.toNat, b.toNat], [], 1)
  | .mcap d a _ => ([a.toNat], [d.toNat], 1)
  | .mcmd a => ([a.toNat], [], 1)
  | .mstat d a _ => ([a.toNat], [d.toNat], 1)
  | .msave a => ([a.toNat], [], 1)
  | .mload a => ([a.toNat], [], 1)
  | .or d a b => ([a.toNat, b.toNat], [d.toNat], 1)
  | .and d a b => ([a.toNat, b.toNat], [d.toNat], 1)
  | .xor d a b => ([a.toNat, b.toNat], [d.toNat], 1)
  | .andn d a b => ([a.toNat, b.toNat], [d.toNat], 1)
  | .add d a b => ([a.toNat, b.toNat], [d.toNat], 1)
  | .sub d a b => ([a.toNat, b.toNat], [d.toNat], 1)
  | .mul d a b => ([a.toNat, b.toNat], [d.toNat], 3)
  | .mulh d a b => ([a.toNat, b.toNat], [d.toNat], 4)
  | .mulhn d a b => ([a.toNat, b.toNat], [d.toNat], 4)
  | .div d a b => ([a.toNat, b.toNat], [d.toNat], 20)
  | .divn d a b => ([a.toNat, b.toNat], [d.toNat], 20)
  | .rem d a b => ([a.toNat, b.toNat], [d.toNat], 20)
  | .remn d a b => ([a.toNat, b.toNat], [d.toNat], 20)
  | .shl d a b => ([a.toNat, b.toNat], [d.toNat], 1)
  | .shr d a b => ([a.toNat, b.toNat], [d.toNat], 1)
  | .sha d a b => ([a.toNat, b.toNat], [d.toNat], 1)
  | .rot d a b => ([a.toNat, b.toNat], [d.toNat], 1)
  | .min d a b => ([a.toNat, b.toNat], [d.toNat], 1)
  | .max d a b => ([a.toNat, b.toNat], [d.toNat], 1)
  | .minn d a b => ([a.toNat, b.toNat], [d.toNat], 1)
  | .maxn d a b => ([a.toNat, b.toNat], [d.toNat], 1)
  | .clz d a => ([a.toNat], [d.toNat], 1)
  | .ctz d a => ([a.toNat], [d.toNat], 1)
  | .popc d a => ([a.toNat], [d.toNat], 1)
  | .extB d a => ([a.toNat], [d.toNat], 1)
  | .extH d a => ([a.toNat], [d.toNat], 1)
  | .extW d a => ([a.toNat], [d.toNat], 1)
  | .cmpEq d a b => ([a.toNat, b.toNat], [d.toNat], 1)
  | .cmpNe d a b => ([a.toNat, b.toNat], [d.toNat], 1)
  | .cmpLt d a b => ([a.toNat, b.toNat], [d.toNat], 1)
  | .cmpLe d a b => ([a.toNat, b.toNat], [d.toNat], 1)
  | .cmpLtn d a b => ([a.toNat, b.toNat], [d.toNat], 1)
  | .cmpLen d a b => ([a.toNat, b.toNat], [d.toNat], 1)
  | .addi d a _ => ([a.toNat], [d.toNat], 1)
  | .andi d a _ => ([a.toNat], [d.toNat], 1)
  | .ori d a _ => ([a.toNat], [d.toNat], 1)
  | .xori d a _ => ([a.toNat], [d.toNat], 1)
  | .shli d a _ => ([a.toNat], [d.toNat], 1)
  | .shri d a _ => ([a.toNat], [d.toNat], 1)
  | .shai d a _ => ([a.toNat], [d.toNat], 1)
  | .lia d _ => ([], [d.toNat], 1)
  | .lea d a _ => ([a.toNat], [d.toNat], 1)
  | .lih _ d _ _ => ([], [d.toNat], 1)
  | .sel d a b x => ([a.toNat, b.toNat, x.toNat], [d.toNat], 1)
  | .fadd d a b t _ => ([a.toNat, b.toNat], [d.toNat], if t = 3 then 5 else 4)
  | .fsub d a b t _ => ([a.toNat, b.toNat], [d.toNat], if t = 3 then 5 else 4)
  | .fmul d a b t _ => ([a.toNat, b.toNat], [d.toNat], if t = 3 then 5 else 4)
  | .fdiv d a b t _ => ([a.toNat, b.toNat], [d.toNat], if t = 3 then 20 else 12)
  | .fsqrt d a t _ => ([a.toNat], [d.toNat], if t = 3 then 22 else 12)
  | .fma d a b t _ x => ([a.toNat, b.toNat, x.toNat], [d.toNat], if t = 3 then 5 else 4)
  | .fmin d a b _ => ([a.toNat, b.toNat], [d.toNat], 2)
  | .fmax d a b _ => ([a.toNat, b.toNat], [d.toNat], 2)
  | .fcmp d a b _ _ => ([a.toNat, b.toNat], [d.toNat], 2)
  | .fcvt d a _ _ _ => ([a.toNat], [d.toNat], 3)
  | .fcvi d a _ _ _ => ([a.toNat], [d.toNat], 3)
  | .ficv d a _ _ _ => ([a.toNat], [d.toNat], 3)
  | .fclass d a _ => ([a.toNat], [d.toNat], 2)
  | .fneg d a _ => ([a.toNat], [d.toNat], 2)
  | .fabs d a _ => ([a.toNat], [d.toNat], 2)
  | .vadd d a b m _ => ([32 + a.toNat, 32 + b.toNat, 64 + m.toNat, 32 + d.toNat], [32 + d.toNat], 2)
  | .vsub d a b m _ => ([32 + a.toNat, 32 + b.toNat, 64 + m.toNat, 32 + d.toNat], [32 + d.toNat], 2)
  | .vmul d a b m _ => ([32 + a.toNat, 32 + b.toNat, 64 + m.toNat, 32 + d.toNat], [32 + d.toNat], 4)
  | .vmla d a b m _ => ([32 + a.toNat, 32 + b.toNat, 64 + m.toNat, 32 + d.toNat], [32 + d.toNat], 4)
  | .vand d a b m _ => ([32 + a.toNat, 32 + b.toNat, 64 + m.toNat, 32 + d.toNat], [32 + d.toNat], 1)
  | .vor d a b m _ => ([32 + a.toNat, 32 + b.toNat, 64 + m.toNat, 32 + d.toNat], [32 + d.toNat], 1)
  | .vxor d a b m _ => ([32 + a.toNat, 32 + b.toNat, 64 + m.toNat, 32 + d.toNat], [32 + d.toNat], 1)
  | .vshl d a b m _ => ([32 + a.toNat, 32 + b.toNat, 64 + m.toNat, 32 + d.toNat], [32 + d.toNat], 2)
  | .vshr d a b m _ => ([32 + a.toNat, 32 + b.toNat, 64 + m.toNat, 32 + d.toNat], [32 + d.toNat], 2)
  | .vsha d a b m _ => ([32 + a.toNat, 32 + b.toNat, 64 + m.toNat, 32 + d.toNat], [32 + d.toNat], 2)
  | .vmin d a b m _ => ([32 + a.toNat, 32 + b.toNat, 64 + m.toNat, 32 + d.toNat], [32 + d.toNat], 2)
  | .vmax d a b m _ => ([32 + a.toNat, 32 + b.toNat, 64 + m.toNat, 32 + d.toNat], [32 + d.toNat], 2)
  | .vfadd d a b m t => ([32 + a.toNat, 32 + b.toNat, 64 + m.toNat, 32 + d.toNat], [32 + d.toNat], if t = 11 then 5 else 4)
  | .vfsub d a b m t => ([32 + a.toNat, 32 + b.toNat, 64 + m.toNat, 32 + d.toNat], [32 + d.toNat], if t = 11 then 5 else 4)
  | .vfmul d a b m t => ([32 + a.toNat, 32 + b.toNat, 64 + m.toNat, 32 + d.toNat], [32 + d.toNat], if t = 11 then 5 else 4)
  | .vfma d a b m t => ([32 + a.toNat, 32 + b.toNat, 64 + m.toNat, 32 + d.toNat], [32 + d.toNat], if t = 11 then 5 else 4)
  | .vfmin d a b m t => ([32 + a.toNat, 32 + b.toNat, 64 + m.toNat, 32 + d.toNat], [32 + d.toNat], if t = 11 then 5 else 4)
  | .vfmax d a b m t => ([32 + a.toNat, 32 + b.toNat, 64 + m.toNat, 32 + d.toNat], [32 + d.toNat], if t = 11 then 5 else 4)
  | .vcmp d a b m t _ => ([32 + a.toNat, 32 + b.toNat, 64 + m.toNat], [64 + d.toNat], if t.toNat < 8 then 2 else if t = 11 then 5 else 4)
  | .vsel d a b m _ => ([32 + a.toNat, 32 + b.toNat, 64 + m.toNat], [32 + d.toNat], 1)
  | .vcvt d a s m t => ([32 + a.toNat, 64 + m.toNat, 32 + d.toNat], [32 + d.toNat], if 12 ≤ t.toNat ∨ 12 ≤ s.toNat then 6 else 4)
  | .vperm d a b m _ => ([32 + a.toNat, 32 + b.toNat, 64 + m.toNat, 32 + d.toNat], [32 + d.toNat], 3)
  | .vbcast d a m _ => ([a.toNat, 64 + m.toNat, 32 + d.toNat], [32 + d.toNat], 1)
  | .vins d a b _ => ([a.toNat, b.toNat, 32 + d.toNat], [32 + d.toNat], 1)
  | .vext d a b _ => ([32 + a.toNat, b.toNat], [d.toNat], 1)
  | .vmov d a m _ => ([32 + a.toNat, 64 + m.toNat, 32 + d.toNat], [32 + d.toNat], 1)
  | .vmovGToM d a => ([a.toNat], [64 + d.toNat], 1)
  | .vmovMToG d a => ([64 + a.toNat], [d.toNat], 1)
  | .vredAdd d a m _ => ([32 + a.toNat, 64 + m.toNat], [d.toNat], 6)
  | .vredMin d a m _ => ([32 + a.toNat, 64 + m.toNat], [d.toNat], 6)
  | .vredMax d a m _ => ([32 + a.toNat, 64 + m.toNat], [d.toNat], 6)
  | .vredFadd d a m t => ([32 + a.toNat, 64 + m.toNat], [d.toNat], if t = 11 then 12 else 10)
  | .mand d a b => ([64 + a.toNat, 64 + b.toNat], [64 + d.toNat], 1)
  | .mor d a b => ([64 + a.toNat, 64 + b.toNat], [64 + d.toNat], 1)
  | .mnot d a => ([64 + a.toNat], [64 + d.toNat], 1)
  | .mcnt d a _ => ([64 + a.toNat], [d.toNat], 1)
  | _ => ([], [], 1)

end Sys2Proof.Machine
end

