-- ==== Sys2Proof/Machine/Flags.lean ====
section
/-! DEFINITION. The records an instruction leaves beside its result.  The part has no arithmetic flags and no floating-point status (R266, R300);
what it has is the exception list (R270, R271), the class mask of `fclass` (R313) and the results of comparisons (R311). -/

namespace Sys2Proof.Machine

/-- The thread stands in its home slot (R271). -/
def atHome (s : State) : Bool := !s.away s.cur.place

/-- First offset an exception-list entry may not reach (R271); a rim core has no memory past its 256 KiB to write (R39, assumption 7). -/
def listLimit (unit : Nat) : Nat := if unit < 12 then 0xF0000 else 0x40000

/-- `ListOne` (R271), from the counter `c`: offset and value of the entry while there is room for it, and the counter advances. -/
def listOne (s : State) (t : Thread) (home : Bool) (es : List (Nat × Nat)) (c : Word) (lane elem : Nat) : List (Nat × Nat) × Word :=
  let off := t.xlb.toNat + 8 * c.toNat
  let entry := s.wordPc.toNat % 2 ^ 32 + lane % 256 * 2 ^ 32 + elem % 2 ^ 24 * 2 ^ 40
  (if home ∧ c.toNat < t.xll.toNat ∧ off + 8 ≤ listLimit s.cur.place.unit then es ++ [(off, entry)] else es,
   if c = BitVec.allOnes 64 then c else c + 1)

/-- Write exception-list entries into a core's memory, on path LS (R271). -/
def writeEntries (s : State) (p : Place) (es : List (Nat × Nat)) : State :=
  es.foldl (fun t e => t.put .ls (coreKey p.unit p.core e.1) (bytesOf 8 e.2)) s

/-- Whether a store of a slot's thread is still to be performed. -/
def storesPending (s : State) (p : Place) : Bool := (s.coreAt p).sbuf.any (fun e => e.slot == p.slot) || (s.slot p).ntOut != []

/-- List the outcomes of a word, given as (lane, element) in their order, then go on: it waits until every earlier store of the thread has been
performed (R271).  After the store of the word it is paired with, the entries are held until that has been performed; nothing of the thread comes between. -/
def listing (s : State) (out : List (Nat × Nat)) (f : State → Res) : Res :=
  if out = [] then f s
  else
    let p := s.cur.place
    if storesPending s p ∧ s.cur.commit = false then s.waitFor .drain false
    else
      let t := s.opTh
      let (es, c) := out.foldl (fun acc e => listOne s t (atHome s) acc.1 acc.2 e.1 e.2) (([] : List (Nat × Nat)), t.xlc)
      let s := if storesPending s p then s.modHere fun x => { x with owed := x.owed ++ es } else writeEntries s p es
      f (s.modTh fun t => { t with xlc := c })

/-- The class bit of `fclass` (R313); `norm` says whether a finite value is normal in its format. -/
def classMask (f : Fmt) (v : Val) : Word :=
  match v with
  | .nan => 0x100
  | .inf true => 1
  | .inf false => 0x80
  | .fin neg 0 _ => if neg then 8 else 0x10
  | .fin neg m e =>
    let sub := decide ((Nat.log2 m : Int) + e < f.emin)
    if neg then (if sub then 4 else 2) else if sub then 0x20 else 0x40

/-- A comparison's relation: 0 eq, 1 lt, 2 le, 3 unordered (R311). -/
def relation (r : BitVec 2) (x y : Val) : Bool :=
  if r = 0 then x.eq y
  else if r = 1 then x.lt y
  else if r = 2 then x.eq y || x.lt y
  else x.isNan || y.isNan

/-- A truth value as a register's value. -/
def truth (b : Bool) : Word := BitVec.ofNat 64 (b2n b)

end Sys2Proof.Machine
end

