-- ==== Sys2Proof/Machine/Operands.lean ====
section
/-! DEFINITION. Operand forms: immediates and displacements (R290), program addresses (R13, R318), transfer targets (R285), and floating-point and
integer operands of general registers (R301, R312). -/

namespace Sys2Proof.Machine

/-- A signed immediate (R290). -/
def sx {w : Nat} (i : BitVec w) : Word := i.signExtend 64

/-- An unsigned immediate (R290). -/
def zx {w : Nat} (i : BitVec w) : Word := i.zeroExtend 64

/-- The program address of a CM word: g[A] + DISP (R318). -/
def State.eaDisp (s : State) (a : BitVec 5) (d : BitVec 11) : Word := s.opG a + sx d

/-- The target of a CB or CJ word, in words from the bundle's address (R285). -/
def State.targetOff (s : State) {w : Nat} (o : BitVec w) : Word := s.cur.pc + 4 * sx o

/-- The format a TY code names (R291). -/
def fmtOf (t : BitVec 2) : Fmt := if t = 0 then fp16 else if t = 1 then bf16 else if t = 2 then fp32 else fp64

/-- `ReadF` (R301). -/
def readF (t : BitVec 2) (w : Word) : Val := (fmtOf t).decode (w.toNat % 2 ^ (fmtOf t).width)

/-- `WriteF` of a result rounded in a mode (R301, R267). -/
def writeF (t : BitVec 2) (m : Mode) (v : Val) : Word := BitVec.ofNat 64 ((fmtOf t).round m v)

/-- Whether an integer type code is signed, and its width (R291). -/
def intSigned (i : BitVec 3) : Bool := i.toNat < 4
def intWidth (i : BitVec 3) : Nat := 8 * 2 ^ (i.toNat % 4)

/-- The integer of a type in a register (R312). -/
def readI (i : BitVec 3) (w : Word) : Int := if intSigned i then sintN (intWidth i) w.toNat else (w.toNat % 2 ^ intWidth i : Nat)

end Sys2Proof.Machine
end

