-- ==== Sys2Proof/Machine/Atomic.lean ====
section
/-! DEFINITION. Atomics, reservations, futures and reductions (R323 to R332), and what a reduction does at its home (R280, R330). -/

namespace Sys2Proof.Machine

/-- An atomic on the word at g[A] (R325): `c` is the old g[D], which only `cas` compares with. -/
def amo (i : Instr) (op : Nat) (d a b : BitVec 5) (z : BitVec 1) (s : State) : Host.Outcome State Fault Refusal :=
  word i s fun s =>
    let n := if z = 0 then 4 else 8
    accessing s (s.opG a) n n .atomic false fun s acc =>
      rmwAccess s acc n (.amo op n (s.opG b) (s.opG d)) fun s v => .ok (s.setG d v)

/-- AMO_ADD (R325). -/
def execAmoAdd (d a b : BitVec 5) (z : BitVec 1) (s : State) := amo (.amoAdd d a b z) 0 d a b z s
/-- AMO_AND (R325). -/
def execAmoAnd (d a b : BitVec 5) (z : BitVec 1) (s : State) := amo (.amoAnd d a b z) 1 d a b z s
/-- AMO_OR (R325). -/
def execAmoOr (d a b : BitVec 5) (z : BitVec 1) (s : State) := amo (.amoOr d a b z) 2 d a b z s
/-- AMO_XOR (R325). -/
def execAmoXor (d a b : BitVec 5) (z : BitVec 1) (s : State) := amo (.amoXor d a b z) 3 d a b z s
/-- AMO_MIN (R325). -/
def execAmoMin (d a b : BitVec 5) (z : BitVec 1) (s : State) := amo (.amoMin d a b z) 4 d a b z s
/-- AMO_MAX (R325). -/
def execAmoMax (d a b : BitVec 5) (z : BitVec 1) (s : State) := amo (.amoMax d a b z) 5 d a b z s
/-- AMO_MINN (R325). -/
def execAmoMinn (d a b : BitVec 5) (z : BitVec 1) (s : State) := amo (.amoMinn d a b z) 6 d a b z s
/-- AMO_MAXN (R325). -/
def execAmoMaxn (d a b : BitVec 5) (z : BitVec 1) (s : State) := amo (.amoMaxn d a b z) 7 d a b z s
/-- AMO_SWAP (R325). -/
def execAmoSwap (d a b : BitVec 5) (z : BitVec 1) (s : State) := amo (.amoSwap d a b z) 8 d a b z s
/-- AMO_CAS (R325). -/
def execAmoCas (d a b : BitVec 5) (z : BitVec 1) (s : State) := amo (.amoCas d a b z) 9 d a b z s

/-- LD_RES (R326). -/
def execLdRes (d a : BitVec 5) (s : State) : Host.Outcome State Fault Refusal :=
  word (.ldRes d a) s fun s =>
    accessing s (s.opG a) 8 8 .atomic false fun s acc => rmwAccess s acc 8 .ldRes fun s v => .ok (s.setG d v)

/-- ST_COND (R326). -/
def execStCond (d a b : BitVec 5) (s : State) : Host.Outcome State Fault Refusal :=
  word (.stCond d a b) s fun s =>
    accessing s (s.opG a) 8 8 .atomic false fun s acc =>
      rmwAccess s acc 8 (.stCond (s.opG b)) fun s v => .ok ((s.modHere fun x => { x with resv := none }).setG d v)

/-- WRES: without a reservation 1 at once; else it waits in the home bank's waiter table until a write or another wake-up (R326, R327). -/
def execWres (d : BitVec 5) (s : State) : Host.Outcome State Fault Refusal :=
  word (.wres d) s fun s =>
    let p := s.cur.place
    match s.here.resv with
    | none => .ok (s.setG d 1)
    | some k =>
      if s.here.resp.contains .done then .ok (s.setG d 0)
      else if s.here.blk.isSome then .trap s (s.blockTrap 0 s.wordPc)
      else .wait (registerWaiter s (slotKey p) k) (.reserve k) true

/-- FGET (R207, R329). -/
def execFget (d a : BitVec 5) (s : State) : Host.Outcome State Fault Refusal :=
  word (.fget d a) s fun s =>
    accessing s (s.opG a) 8 8 .future false fun s acc => rmwAccess s acc 8 .fget fun s v => .ok (s.setG d v)

/-- FPUT (R207, R329). -/
def execFput (d a b : BitVec 5) (s : State) : Host.Outcome State Fault Refusal :=
  word (.fput d a b) s fun s =>
    accessing s (s.opG a) 8 8 .future false fun s acc => rmwAccess s acc 8 (.fput (s.opG b)) fun s v => .ok (s.setG d v)

/-- FTAKE (R207, R329). -/
def execFtake (d a : BitVec 5) (s : State) : Host.Outcome State Fault Refusal :=
  word (.ftake d a) s fun s =>
    accessing s (s.opG a) 8 8 .future false fun s acc => rmwAccess s acc 8 .ftake fun s v => .ok (s.setG d v)

/-! ### Reductions -/

/-- The value a plain reduction leaves in a word of `w` bits (R330). -/
def redNew (op w m x : Nat) : Nat :=
  if op = 0 then (m + x) % 2 ^ w
  else if op = 1 then (if sintN w m ≤ sintN w x then m else x)
  else if op = 2 then (if sintN w x ≤ sintN w m then m else x)
  else addRound (if w = 32 then fp32 else fp64) m x

/-- Apply a plain reduction at its home; an uncorrectable word discards it (R330, R332). -/
def redApply (s : State) (k op : Nat) (dbl : Bool) (x : Word) : State :=
  let n := if dbl then 8 else 4
  match s.take .ls k n with
  | (s, none) => s
  | (s, some bs) => s.put .ls k (bytesOf n (redNew op (8 * n) (ofBytes bs) (x.toNat % 2 ^ (8 * n))))

/-- The key of byte `o` of a group whose descriptor has a range; none where the home does not hold it.  A group's home is a vault, a rim core's memory or the HBM
of one rim die (R280); one whose descriptor stands in a bed core's memory lies at no such home (DEDUCED, assumption 152). -/
def groupKey (s : State) (unit : Nat) (r : Rng) (o : Nat) : Option Nat :=
  match r with
  | .core u c _ off => if 12 ≤ u ∧ off + o < 2 ^ 18 then some (coreKey u c (off + o)) else none
  | .vault b v off => if off + o < 2 ^ 26 then some (vaultKey b v (off + o)) else none
  | .hbm off =>
    match s.hbmPlace unit (off + o) with
    | some (_, st, a) => if 16 + st / 2 = unit then some (hbmKey st a) else none
    | none => none
  | _ => none

/-- Whether a group of `nc` contributors lies wholly at its home (R280): every 4-byte piece does. -/
def groupHome (s : State) (unit : Nat) (r : Rng) (nc : Nat) : Bool :=
  let len := 64 + 8 * ((nc + 63) / 64) + 4 * nc
  (List.range (len / 4)).all fun i => (groupKey s unit r (4 * i)).isSome

/-- The key of byte `o` of a group's descriptor, whatever its home. -/
def descKey (s : State) (unit : Nat) (r : Rng) (o : Nat) : Option Nat := s.keyOf unit (r.add o)

/-- Read `n` bytes of a group on path LS, piece by piece of four. -/
def groupRead (s : State) (unit : Nat) (r : Rng) (o n : Nat) : Nat :=
  ofBytes ((List.range (n / 4)).flatMap fun i => match descKey s unit r (o + 4 * i) with
    | some k => pathBytes s .ls k 4
    | none => List.replicate 4 0)
/-- Write `n` bytes of a group. -/
def groupWrite (s : State) (unit : Nat) (r : Rng) (o n v : Nat) : State :=
  (List.range (n / 8)).foldl (fun t i => match descKey t unit r (o + 8 * i) with
    | some k => t.put .ls k (bytesOf 8 (v / 2 ^ (64 * i)))
    | none => t) s
/-- Write a 4-byte field of a group. -/
def groupWrite4 (s : State) (unit : Nat) (r : Rng) (o v : Nat) : State :=
  match descKey s unit r o with
  | some k => s.put .ls k (bytesOf 4 v)
  | none => s

/-- Meet the soft errors of `n` bytes of a group; whether one of them cannot be corrected (R62, R63). -/
def groupMeet (s : State) (unit : Nat) (r : Rng) (o n : Nat) : State × Bool :=
  match descKey s unit r o with
  | some k => s.meet k n
  | none => (s, false)

/-- `Contribute` (R280) at the home of a group descriptor.  A contribution that meets an uncorrectable word among those it reads is discarded (R332). -/
def contribute (s : State) (unit : Nat) (r : Rng) (x : Nat) (y : Nat) : State :=
  let (s, b1) := groupMeet s unit r 0 16
  let w1 := groupRead s unit r 8 8
  let nc := bits w1 12 0
  let nin := bits w1 25 13
  if b1 then s
  else if nc ≤ x ∨ groupHome s unit r nc = false then groupWrite s unit r 8 8 (w1 ||| 2 ^ 27)
  else
    let map := 64 + 8 * (x / 64)
    let base := 64 + 8 * ((nc + 63) / 64)
    let slot := base + 4 * x
    let (s, b2) := groupMeet s unit r map 8
    let pw := groupRead s unit r map 8
    if b2 then s
    else if pw.testBit (x % 64) then
      let (s, b3) := groupMeet s unit r slot 4
      if b3 then s
      else
        let s := groupWrite s unit r 8 8 (w1 ||| 2 ^ 26)
        groupWrite4 s unit r slot (addRound fp32 (groupRead s unit r slot 4) y)
    else if nin + 1 = nc then
      let (s, b3) := (List.range nc).foldl (fun (acc : State × Bool) i =>
        let (t, b) := groupMeet acc.1 unit r (base + 4 * i) 4
        (t, acc.2 || b)) (s, false)
      if b3 then s
      else
        let s := groupWrite4 s unit r slot y
        let vals := (List.range nc).map fun i => groupRead s unit r (base + 4 * i) 4
        let s := groupWrite4 s unit r 0 (addRound fp32 (groupRead s unit r 0 4) (tree fp32 nc vals))
        let s := (List.range ((nc + 63) / 64)).foldl (fun t i => groupWrite t unit r (64 + 8 * i) 8 0) s
        let s := groupWrite s unit r 8 8 (w1 - nin * 2 ^ 13)
        groupWrite s unit r 16 8 s.ts.toNat
    else
      let s := groupWrite4 s unit r slot y
      let s := groupWrite s unit r map 8 (pw ||| 2 ^ (x % 64))
      groupWrite s unit r 8 8 (w1 - nin * 2 ^ 13 + (nin + 1) % 2 ^ 13 * 2 ^ 13)

/-- A reduction update at its home on `unit`: a plain one or a contribution to a group (R280, R330). -/
def reduceHome (s : State) (unit : Nat) (r : Rng) (op : Nat) (dbl group : Bool) (x : Nat) (v : Word) : State :=
  if group then contribute s unit r x (v.toNat % 2 ^ 32)
  else match s.keyOf unit r with
    | some k => redApply s k op dbl v
    | none => s

/-- INFO of a reduction update (R331). -/
def redInfo (op : Nat) (dbl group : Bool) (contributor : Nat) : Word :=
  pack [(0, op), (3, b2n dbl), (4, b2n group), (5, min contributor 0xFFFF)]

/-- Make a reduction update (R330 to R332), after the thread's earlier stores to the same bytes (R189): in the core's own memory at once, else sent to its home,
sixteen unacknowledged ones at most; a cross range neither traps nor migrates. -/
def reduce (i : Instr) (op : Nat) (a b : BitVec 5) (dbl group : Bool) (contributor : State → Nat) (s : State) :
    Host.Outcome State Fault Refusal :=
  word i s fun s =>
    let n := if dbl || group then 8 else 4
    accessing s (s.opG a) n (if group then 64 else n) .red false fun s acc =>
      let p := s.cur.place
      if 16 ≤ s.here.redOut then s.waitAt .drain true acc.pa
      else if forwards s p (locKey acc.rng) n ∨ routeStored s p then s.waitAt .drain false acc.pa
      else if acc.own then
        (if tableHeld s acc.rng n then s.waitAt .matrix false acc.pa
         else
           let s := match acc.rng with
             | .core _ _ _ off => blockAccess s off n
             | _ => s
           let x := if dbl then s.opG b else s.opG b &&& 0xFFFFFFFF
           .ok (reduceHome s p.unit acc.rng op dbl group (min (contributor s) 0xFFFF) x))
      else
        let x := if dbl then s.opG b else s.opG b &&& 0xFFFFFFFF
        let c := contributor s
        let q := { mkPkt s p 4 1 acc.la (.red op dbl group (min c 0xFFFF) x) with
                   info := redInfo op dbl group c, rstamp := s.stampFor p.unit acc.rng }
        match inject s p acc.rng q with
        | .park s => s.waitAt (.route (s.routeIx p.unit acc.rng)) true acc.pa
        | .sent s => .ok ((s.modHere fun x => { x with redOut := x.redOut + 1 }).tick)

/-- RED_ADD (R330). -/
def execRedAdd (a b : BitVec 5) (z : BitVec 1) (s : State) := reduce (.redAdd a b z) 0 a b (z == 1) false (fun _ => 0) s
/-- RED_MIN (R330). -/
def execRedMin (a b : BitVec 5) (z : BitVec 1) (s : State) := reduce (.redMin a b z) 1 a b (z == 1) false (fun _ => 0) s
/-- RED_MAX (R330). -/
def execRedMax (a b : BitVec 5) (z : BitVec 1) (s : State) := reduce (.redMax a b z) 2 a b (z == 1) false (fun _ => 0) s
/-- RED_FADD (R330). -/
def execRedFadd (a b : BitVec 5) (z : BitVec 1) (s : State) := reduce (.redFadd a b z) 3 a b (z == 1) false (fun _ => 0) s
/-- RED_FADD_GROUP: the contributor's index is g[D] (R280, R330). -/
def execRedFaddGroup (d a b : BitVec 5) (s : State) :=
  reduce (.redFaddGroup d a b) 3 a b false true (fun s => (s.opG d).toNat) s

end Sys2Proof.Machine
end

