-- ==== Sys2Proof/Machine/Fetch.lean ====
section
/-! DEFINITION. Instruction fetch and its cache (R58 to R60), and the check of every transfer target (R286). -/

namespace Sys2Proof.Machine

/-- The fetchable sources of R58: the core's own local memory, any vault of the module, HBM. -/
def fetchSource (a : Acc) : Bool :=
  match a.rng with
  | .core _ _ _ _ => a.own
  | .vault _ _ _ => true
  | .hbm _ => true
  | _ => false

/-- The word at a byte of a cached line. -/
def lineWord (line : List Byte) (k : Nat) : BitVec 32 := BitVec.ofNat 32 (ofBytes ((line.drop (k % 64)).take 4))

/-- Sets of a core's instruction cache: 32 KiB, or 16 KiB on a rim core, in four ways of 64-byte lines (R58). -/
def cacheSets (unit : Nat) : Nat := if unit < 12 then 128 else 64

/-- Put a line into a core's instruction cache: a line's set is its number modulo the sets, and in a full set a line goes that nothing names, so a free one (R58;
assumption 160). -/
def fillLine (s : State) (unit core line : Nat) (bs : List Byte) : State :=
  let n := cacheSets unit
  let set := ((s.core unit core).icache.filter fun (e : Nat × List Byte) => e.1 % n == line % n && e.1 != line).map (·.1)
  if set.length < 4 then s.modCore unit core fun c => { c with icache := Tbl.set c.icache line bs }
  else
    let out := set.getD ((Config.freeWord s.free).toNat % set.length) line
    { s.modCore unit core fun c => { c with icache := Tbl.set (Tbl.erase c.icache out) line bs } with free := s.free + 1 }

/-- The range of the first byte of the line that holds an address. -/
def lineRange (r : Rng) : Rng :=
  match r with
  | .core u c w off => .core u c w (off / 64 * 64)
  | .vault b v off => .vault b v (off / 64 * 64)
  | .hbm off => .hbm (off / 64 * 64)
  | r => r

/-- Fetch a word whose address has been checked: from the cache, else from the core's own memory, else by a request to its home that
refills the line; `f` takes the word (R58). -/
def fetchLine (s : State) (a : Acc) (f : State → BitVec 32 → Res) : Res :=
  let p := s.cur.place
  let k := locKey a.rng
  match Tbl.look (s.coreAt p).icache (k / 64) with
  | some line => f s (lineWord line k)
  | none =>
    if a.own then
      match readAt s p.unit .ls (lineRange a.rng) 64 with
      | (s, none) => dataError s a.pa
      | (s, some bs) => f (fillLine s p.unit p.core (k / 64) bs) (lineWord bs k)
    else if s.here.resp.contains .bad then dataError s a.pa
    else if s.here.blk.isSome then s.stall a.pa
    else
      let q := { mkPkt s p 0 (if p.rim then 1 else 0) (a.la / 64 * 64) (.load 64 true) with rstamp := s.stampFor p.unit a.rng }
      match inject s p a.rng q with
      | .park s => .wait s (.route (s.routeIx p.unit a.rng)) true
      | .sent s => .wait s.tick (.refill (k / 64)) false

/-- `FetchWord` (R58, R286): the checks of a load through RAW without the last step of R32, then the fetch. -/
def fetchWord (s : State) (pa : Word) (f : State → BitVec 32 → Res) : Res :=
  match addressCheck s s.cur.place pa 4 4 .fetch false with
  | .stop r => r
  | .ship s k => shipTo s k pa
  | .ok s a => if fetchSource a then fetchLine s a f else .trap s (Trap.of 5 4 pa)

/-- The mark of a schedule header (R287). -/
def isMark (w : BitVec 32) : Bool := w.toNat / 2 ^ 24 == 0xFF

/-- `CheckTarget` (R286). -/
def checkTarget (s : State) (t : Word) (f : State → Res) : Res :=
  if t.toNat % 4 ≠ 0 then .trap s (Trap.of 2 0 t)
  else
    fetchWord s t fun s w =>
      if isMark w then .trap s (Trap.of 3 0 t)
      else if t.getLsbD 2 then
        fetchWord s (t - 4) fun s w =>
          if isMark w then .trap s (Trap.of 3 0 t)
          else if wordP w then .trap s (Trap.of 2 0 t)
          else f s
      else f s

/-- Complete with a transfer to a checked target (R284, R286): a trap of the check cancels the transferring bundle.  Only where the target is no fetchable place is the
transfer made, and the trap comes there, with `epc` and `eaddr` both naming the target's word (R58; assumption 155): the bundle there is checked as an entry is. -/
def jumpTo (s : State) (t : Word) (f : State → State) : Res :=
  let late := fun (_ : Unit) => Res.jump (f (s.modHere fun x => { x with entry := true })) t
  match checkTarget s t fun s => .jump (f s) t with
  | .trap s' tr => if (tr.cause = 5 ∧ tr.sub = 4) ∨ tr.cause = 9 then late () else .trap s' tr
  | r => r

end Sys2Proof.Machine
end

