-- ==== Sys2Proof/Machine/Exchange.lean ====
section
/-! DEFINITION. Timed exchange: `xbegin`, `xput` and `xend` (R96, R204, R287, R288, R408, R409). -/

namespace Sys2Proof.Machine

/-- The block a header opens (R287), with the registers still to come and the block cycle of each; those of bundles up to the `bar.arrive` on its barrier have come, 24
cycles at least before the release (R221). -/
def blockOf (pc : Word) (h0 h1 : BitVec 32) (ready : List (Nat × Nat)) : Block :=
  let a := h0.toNat
  let b := h1.toNat
  { xb := pc, count := 0, len := bits a 23 12 + 1, bar := bits a 9 5, level := bits a 11 10, dom := bits b 19 8, rbase := b % 256, cyc := 2,
    ready := (ready.filter fun e => e.1 / 128 != bits a 9 5 + 1).map fun e => (e.1 % 128, e.2), acc := [] }

/-- What is still to come when a block opens (R302): a result issued before it is usable at a block cycle no later than it has left; the cycles that have passed since,
which nothing counts outside a block, are free (assumption 153). -/
def lateReady (s : State) : List (Nat × Nat) :=
  (List.range s.here.late.length).map fun i =>
    let (r, k) := s.here.late.getD i (0, 0)
    (r, (Config.freeAt s.free i).toNat % (k + 1))

/-- The conditions of a timing-violation with SUB 2: the block starts right after an aligned completion, on a member of the domain (R223, R288). -/
def mayOpen (s : State) (b : Block) : Bool :=
  let p := s.cur.place
  let bar := s.bar p.unit p.core b.bar
  let d := Tbl.get 0 (s.coreAt p).doms b.level
  s.here.aligned == some b.bar && bar.kind == 2 && bar.xalign && bar.level == b.level && d.getLsbD 13 && d.toNat % 2 ^ 12 == b.dom

/-- XBEGIN (R288): a refused opening aborts the domain's block (R223); an opening that follows no aligned completion has no block cycle, so the
cycle in its frame is free. -/
def execXbegin (s : State) : Host.Outcome State Fault Refusal :=
  word .xbegin s fun s =>
    let p := s.cur.place
    let pc := s.cur.pc
    if p.rim ∨ s.away p then .trap s ⟨10, 3, pc, 0, pc⟩
    else
      fetchWord s (pc + 4) fun s h0 =>
        if isMark h0 = false ∨ h0.toNat % 32 ≠ 0 then .trap s (Trap.of 1 1 (pc + 4))
        else
          fetchWord s (pc + 8) fun s h1 =>
            if h1.toNat / 2 ^ 20 ≠ 0 then .trap s (Trap.of 1 1 (pc + 8))
            else
              let b := blockOf pc h0 h1 (lateReady s)
              if mayOpen s b then
                .ok { s.modHere (fun x => { x with blk := some b, lastBlk := none, late := [] }) with cur := { s.cur with next := pc + 12 }, free := s.free + 1 }
              else
                let cyc := if s.here.aligned = some b.bar then 1 else Config.freeWord s.free
                let s := abortDomain s p b.level b.dom 1 10 2
                .trap { s with cur := { s.cur with xfault := true }, free := s.free + 1 } ⟨10, 2, pc, cyc, pc⟩

/-- XEND (R288, R408). -/
def execXend (s : State) : Host.Outcome State Fault Refusal :=
  word .xend s fun s =>
    match s.here.blk with
    | none => s.illegal 4
    | some b => .ok (s.modHere fun x => { x with blk := none, lastBlk := some (b.xb, b.level, b.dom) })

/-- The moves of an exchange route from a router, with the routers passed: only moves, then 100, then 111, within one bed (R96). -/
def exchangeMoves : Nat → Nat → Nat → Nat → Nat → Option (List (Nat × Nat × Nat) × Nat × Nat)
  | 0, _, _, _, _ => none
  | f + 1, bed, x, y, str =>
    if str % 8 = 4 then (if str / 8 % 8 = 7 then some ([], x, y) else none)
    else if str % 8 < 4 then
      match neighbour x y (str % 8) with
      | none => none
      | some (x', y') =>
        if (xyCore x' y').1 ≠ bed then none
        else (exchangeMoves f bed x' y' (str / 8)).map fun r => ((x, y, str % 8) :: r.1, r.2)
    else none

/-- The links an exchange flit issued at `t` uses, with the block cycle of each: two cycles a move, and the last two before it arrives in the router (R70,
R96; the cycle of the first link is DEDUCED, assumption 19). -/
def linkTimes (t : Nat) (ms : List (Nat × Nat × Nat)) : List (Nat × Nat × Nat × Nat) :=
  (List.range ms.length).map fun k => let (x, y, d) := ms.getD k (0, 0, 0); (x, y, d, t + 1 + 2 * k)

/-- Give a slot a trap to take at its next boundary after block cycle `due` (R251), which it reaches at once unless its bundle has something in flight that
completes first (R247, R255). -/
def setPendAt (s : State) (p : Place) (due c n : Nat) (addr d0 d1 : Word) : State :=
  let free := letGo s p
  s.modSlot p fun x =>
    match x.pend with
    | some _ => x
    | none =>
      { x with pend := some (c, n, addr, d0, d1), pendAt := due, wait := if free then none else x.wait,
               st := if free ∧ x.st = .wait then .run else x.st }

/-- Give a slot a trap to take at its next boundary (R251). -/
def setPend (s : State) (p : Place) (c n : Nat) (addr d0 d1 : Word) : State := setPendAt s p 0 c n addr d0 d1

/-- A link as a frame names it: node word 0 of its router, and its port (R98, R249). -/
def linkName (s : State) (x y d : Nat) : Word :=
  let (b, c) := xyCore x y
  pack [(0, s.moduleNo.toNat), (12, b), (17, c), (26, d)]

/-- Level and domain of the block that a slot is in, or has ended but not closed, if that is the one of an `xbegin` address. -/
def blockDom (s : State) (p : Place) (xb : Word) : Option (Nat × Nat) :=
  let x := s.slot p
  match x.blk, x.lastBlk with
  | some b, _ => if b.xb = xb then some (b.level, b.dom) else none
  | none, some (a, l, d) => if a = xb then some (l, d) else none
  | none, none => none

/-- A trap that a slot's exchange store or access has met at a block cycle: it is taken at the next boundary after block cycle `due`, and aborts the
domain's block (R251, R259);
nothing is left to trap when the slot's block has gone. -/
def blockFault (s : State) (p : Place) (xb : Word) (due cyc c n : Nat) (addr d0 d1 : Word) : State :=
  match blockDom s p xb with
  | none => s
  | some (l, d) => abortDomain (setPendAt s p due c n addr d0 d1) p l d cyc c n

/-- Whether two exchange stores belong to one domain's block: only then are their cycles counted from one release (R204; assumption 154). -/
def sameBlock (s : State) (a b : XStore) : Bool := a.unit == b.unit && blockDom s a.place a.xb == blockDom s b.place b.xb

/-- Whether a block of a bed is the one that an exchange store was sent in. -/
def ofBlock (s : State) (x : XStore) (b : Block) : Bool := blockDom s x.place x.xb == some (b.level, b.dom)

/-- The first link of an exchange store's way that is marked down, with the cycle in which its flit meets it (R96). -/
def downLink (s : State) (x : XStore) : Option Nat := (x.links.find? fun l => s.isDown l.1 l.2.1 l.2.2.1).map (·.2.2.2)

/-- A link that two flits need in one cycle, with the block cycle of each.  Blocks of different domains of a bed count their cycles from releases of their own, so whether
their flits meet on a link both use is free (assumption 154). -/
def linkMeet (s : State) (o n : XStore) (free : Bool) : Option ((Nat × Nat × Nat × Nat) × Nat) :=
  if sameBlock s o n then (n.links.find? fun l => o.links.contains l).map fun l => (l, l.2.2.2)
  else if free ∧ o.place.unit = n.place.unit ∧ (blockDom s o.place o.xb).isSome then
    n.links.findSome? fun l => (o.links.find? fun m => (m.1, m.2.1, m.2.2.1) == (l.1, l.2.1, l.2.2.1)).map fun m => (l, m.2.2.2)
  else none

/-- Both issuers of two flits that need one link in one cycle take the timing-violation trap, once that cycle has passed (R96, R251, R259). -/
def linkConflicts (s : State) (n : XStore) : State :=
  s.xstores.foldl (fun t o =>
    match linkMeet s o n ((Config.freeWord t.free).getLsbD 0) with
    | none => if sameBlock s o n then t else t.tick
    | some ((x, y, d, cyc), was) =>
      let k := linkName s x y d
      (blockFault (blockFault t o.place o.xb was was 10 1 o.pc k o.xb) n.place n.xb cyc cyc 10 1 n.pc k n.xb).tick) s

/-- Source number and slot of a thread as a frame names it (R249). -/
def State.whoWord (s : State) (p : Place) : Nat := s.srcNum p.unit p.core + p.slot * 2 ^ 24

/-- Send a checked exchange store (R96). -/
def sendExchange (s : State) (b : Block) (off : Nat) (data : Word) (ms : List (Nat × Nat × Nat)) (x y : Nat) : State :=
  let p := s.cur.place
  let (u, c) := xyCore x y
  let n : XStore := { place := p, unit := u, core := c, off := off, data := data, due := b.cyc + 3 + 2 * ms.length, xb := b.xb,
                      pc := s.wordPc, links := linkTimes b.cyc ms }
  let s := linkConflicts s n
  { s with xstores := s.xstores ++ [n] }

/-- XPUT (R409); no rule states the HOPIX and REASON of its route-fault, which are free. -/
def execXput (d a : BitVec 5) (r : BitVec 8) (s : State) : Host.Outcome State Fault Refusal :=
  word (.xput d a r) s fun s =>
    match s.here.blk with
    | none => s.illegal 4
    | some b =>
      let p := s.cur.place
      let va := s.opG a
      let off := va.toNat
      let n := 0x700 + b.rbase + r.toNat
      let s := s.seeRoutes p.unit p.core (if n ≤ 0x7FF then [n] else [])
      let e := s.routeEntry p.unit p.core n
      let (x0, y0) := coreXY p.unit p.core
      if 2 ^ 20 ≤ off then s.illegal 4
      else if off % 8 ≠ 0 then .trap s (Trap.of 4 0 va)
      else if 0xF0000 ≤ off then .trap s (Trap.of 5 0 va)
      else
        match (if 0x7FF < n ∨ e.valid = false ∨ e.ext then none else exchangeMoves 36 p.unit x0 y0 e.codes) with
        | none => .trap s.tick ⟨15, 3, s.wordPc, s.freeDetail, 0⟩
        | some (ms, x, y) =>
          let (u, c) := xyCore x y
          if s.sysMode = false ∧ reachOk p s.here.reach (.core u c 0 off) = false then .trap s (Trap.of 5 0 va)
          else .ok (sendExchange s b off (s.opG d) ms x y)

end Sys2Proof.Machine
end

