-- ==== Sys2Proof/Machine/Blocks.lean ====
section
/-! DEFINITION. What the instructions that hand something over share: reading a block of memory as loads (R106, R401, R406), the checks of the addresses
a command names (R31), and the release that a hand-over makes (R199). -/

namespace Sys2Proof.Machine

/-- Read a block as a LS load under R32. -/
def readBlock (s : State) (pa : Word) (n al : Nat) (f : State → Acc → List Byte → Res) : Res :=
  accessing s pa n al .load false fun s a => loadBytes s a n fun s bs => f s a bs

/-- Read consecutive blocks of `n` bytes, `k` of them. -/
def readBlocks : Nat → Word → Nat → Nat → State → List Byte → (State → List Byte → Res) → Res
  | 0, _, _, _, s, bs, f => f s bs
  | k + 1, pa, n, al, s, bs, f => readBlock s pa n al fun s _ b => readBlocks k (pa + BitVec.ofNat 64 n) n al s (bs ++ b) f

/-- The doublewords of bytes. -/
def wordsOf (bs : List Byte) : List Word := (chunks 8 (bs.length + 1) bs).map word64

/-- Word `i` of a block. -/
def wordAt (bs : List Byte) (i : Nat) : Nat := ofBytes ((bs.drop (8 * i)).take 8)

/-- A block a command is read from lies in memory: a core local window through RAW or FUTURE, rim-core memory, a vault or HBM (R106). -/
def Rng.isMemory : Rng → Bool
  | .core _ _ w _ => w ≤ 1
  | .vault _ _ _ => true
  | .hbm _ => true
  | _ => false

/-- Whether an address is in the fixed map (R13). -/
def fixedMap (pa : Word) : Bool := pa.toNat / 2 ^ 60 == 0xF

/-- The range of a fixed-map address, a self alias resolved on the issuing core (R24). -/
def fixedRng (p : Place) (pa : Word) : Rng := decodeLa p.unit p.core (pa.toNat % 2 ^ 52)

/-- Whether a fixed-map address that a command names fails the check of R31, which applies R25 and R28: a region without placement ends the command with
RANGE instead (R122; DEDUCED, assumption 20). -/
def commandRefused (s : State) (p : Place) (pa : Word) : Bool :=
  let r := fixedRng p pa
  let x := s.slot p
  fixedMap pa && (bits pa.toNat 59 52 != 0 || r == .hole || (!x.th.mode && (sysOnly r || !reachOk p x.reach r)))

/-- The descriptor-error trap of a block (R249). -/
def blockError (s : State) (sub : Nat) (pa : Word) : Res := .trap s (Trap.of 14 sub pa)

/-- Go on once every earlier access of the thread has been performed: a release at `.m` (R199). -/
def releasing (s : State) (f : State → Res) : Res :=
  if allPerformed s s.cur.place = false then s.waitFor .drain false else f s

/-- Go on with the checks of a word that reads route entries `ns` for a command it hands over: after the thread's own buffered stores to the table (R85), and with the soft
errors of the entries met (R62, R63). -/
def readingRoutes (s : State) (ns : List Nat) (f : State → Res) : Res :=
  let p := s.cur.place
  if routeStored s p then .wait s .drain true else f (s.seeRoutes p.unit p.core (ns.filter fun n => decide (n < 2048)))

/-- Send a request that the thread waits for, with what its answer brings given to `f` (R84, R92). -/
def handOver (s : State) (r : Rng) (la kind len : Nat) (b : Body) (f : State → List Resp → Res) : Res :=
  if s.here.resp.any Resp.effect ∨ s.here.resp.contains .busy then f s s.here.resp
  else
    match request s r la kind len b true with
    | .wait s w _ => .wait s w true
    | r => r

end Sys2Proof.Machine
end

