-- ==== Sys2Proof/Machine/Copy.lean ====
section
/-! DEFINITION. Copy commands at issue: descriptors and their checks (R104 to R109), the channel's admission and completion (R110 to R114), and the
copy instructions (R392 to R395). -/

namespace Sys2Proof.Machine

/-! ### Blocks in memory (R106) -/

/-- Read bytes of a block or descriptor of a command as LS loads: one that lies in registers, a link die or the host window is refused with SUB 0 before
anything of it is read, a FIFO's data port among them (R106). -/
def readPart (s : State) (pa : Word) (n align : Nat) (f : State → List Byte → Res) : Res :=
  match addressCheck s s.cur.place pa n align .load false with
  | .stop (.trap s t) => .trap s (if t.cause = 5 then Trap.of 5 (if t.sub = 3 then 0 else t.sub) pa else t)
  | .stop r => r
  | .ship s k => shipTo s k pa
  | .ok s a => if a.rng.isMemory then crossing s .load a fun s a => loadBytes s a n f else .trap s (Trap.of 5 0 pa)

/-- Read a whole block or descriptor (R106). -/
def readCommand (s : State) (pa : Word) (n : Nat) (f : State → List Byte → Res) : Res := readPart s pa n n f

/-! ### Tensors (R107, R108) -/

/-- A tensor descriptor; a dimension above RANKM1 is DIM 1, BOX 1, ORG 0 (R107). -/
def tensorOf (v : Nat) : Tensor :=
  let rank := bits v 69 68
  { base := BitVec.ofNat 64 v, ty := bits v 67 64, rank := rank, clip := bits v 71 70, nib0 := v.testBit 72,
    xmod := if v.testBit 73 then some (bits v 85 74) else none,
    dim := (List.range 4).map fun k => if k ≤ rank then bits v (151 + 24 * k) (128 + 24 * k) else 1,
    str := (List.range 4).map fun k => if k = 0 then 1 else bits v (223 + 32 * k) (192 + 32 * k),
    box := (List.range 4).map fun k => if k ≤ rank then bits v (335 + 16 * k) (320 + 16 * k) else 1,
    org := (List.range 4).map fun k => if k ≤ rank then sintN 24 (bits v (407 + 24 * k) (384 + 24 * k)) else 0 }

/-- Bits and bytes of an element; a 4-bit element counts as one byte (R107). -/
def Tensor.elemBits (t : Tensor) : Nat := if t.ty = 4 then 4 else 8 * 2 ^ t.ty
def Tensor.elemBytes (t : Tensor) : Nat := if t.ty = 4 then 1 else 2 ^ t.ty

/-- `ElemAddr` at box position j: the byte's address and the nibble (R108). -/
def Tensor.elem (t : Tensor) (j : List Nat) : Word × Nat :=
  let e : Int := (List.range 4).foldl (fun (n : Int) k => n + (t.org.getD k 0 + (j.getD k 0 : Int)) * (t.str.getD k 0 : Int)) 0
  if t.ty = 4 then
    let e := e + (b2n t.nib0 : Int)
    (BitVec.ofInt 64 ((t.base.toNat : Int) + e.fdiv 2), (e.fmod 2).toNat)
  else (BitVec.ofInt 64 ((t.base.toNat : Int) + e * (2 ^ t.ty : Nat)), 0)

/-- `Moved` in one dimension (R108); an absent end leaves the other to decide. -/
def movedIn (s d : Option Tensor) (k : Nat) : Nat × Nat :=
  let ts := s.toList ++ d.toList
  let lo := ts.foldl (fun (n : Int) t => max n (-(t.org.getD k 0))) 0
  let box : Int := ((ts.head?.map fun t => t.box.getD k 0).getD 0 : Nat)
  let hi := ts.foldl (fun (n : Int) t => min n ((t.dim.getD k 0 : Int) - t.org.getD k 0)) box
  (lo.toNat, (max lo hi).toNat)

/-- The moved ranges of a command (R108). -/
def movedLo (s d : Option Tensor) : List Nat := (List.range 4).map fun k => (movedIn s d k).1
def movedHi (s d : Option Tensor) : List Nat := (List.range 4).map fun k => (movedIn s d k).2

/-- How many elements move. -/
def movedCount (s d : Option Tensor) : Nat := (List.range 4).foldl (fun n k => n * ((movedIn s d k).2 - (movedIn s d k).1)) 1

/-- The box indices of moved element `n`, j0 fastest (R108). -/
def boxIndex (lo hi : List Nat) (n : Nat) : List Nat :=
  let w := fun k => hi.getD k 0 - lo.getD k 0
  [lo.getD 0 0 + n % w 0, lo.getD 1 0 + n / w 0 % w 1, lo.getD 2 0 + n / (w 0 * w 1) % w 2, lo.getD 3 0 + n / (w 0 * w 1 * w 2) % w 3]

/-- The governing CLIP (R109). -/
def clipMode (s d : Option Tensor) : Nat := match s with
  | some t => t.clip
  | none => (d.map (·.clip)).getD 2

/-- Whether the moved box is not the whole box (R109). -/
def clipped (s d : Option Tensor) : Bool :=
  match s.toList ++ d.toList with
  | [] => false
  | t :: _ => (List.range 4).any fun k => decide (0 < (movedIn s d k).1 ∨ (movedIn s d k).2 < t.box.getD k 0)

/-- A box with BOX 0 in a dimension within its rank (R114). -/
def zeroBox (s d : Option Tensor) : Bool :=
  match s.toList ++ d.toList with
  | [] => false
  | t :: _ => (List.range 4).any fun k => decide (k ≤ t.rank) && t.box.getD k 0 == 0

/-- The range of a destination: from the byte of its origin to one past its last element (R111). -/
def tensorRange (d : Tensor) : Word × Word :=
  ((d.elem [0, 0, 0, 0]).1, (d.elem (d.box.map (· - 1))).1 + BitVec.ofNat 64 d.elemBytes)

/-! ### Legs and units (R103, R105) -/

/-- Whether a unit is a bed or a rim die. -/
def isUnit (u : Nat) : Bool := u < 12 || (16 ≤ u && u < 22)

/-- Whether ENGU is beside a source (R105). -/
def besides (u : Nat) : Rng → Bool
  | .core v _ _ _ => u == v
  | .vault b _ _ => u == b
  | .hbm _ => 16 ≤ u && u < 22
  | .host _ => 16 ≤ u && u < 22
  | _ => false

/-- Whether an engine reaches a range of its own module without the fabric (R103). -/
def State.engineDirect (s : State) (unit : Nat) (r : Rng) : Bool :=
  match r with
  | .vault b _ _ => unit == b
  | .core u _ _ _ => decide (16 ≤ unit) && u == unit
  | .hbm off => decide (16 ≤ unit) && (match s.hbmPlace unit off with
      | some e => 16 + e.2.1 / 2 == unit
      | none => false)
  | _ => false

/-- The leg of an access that is not direct: 0 to 5 HBM by rim die, 6 the host window, 7 the source leg, 8 DRTE (R105). -/
def State.legOf (s : State) (unit : Nat) (r : Rng) (write : Bool) : Nat :=
  match r with
  | .hbm off => match s.hbmPlace unit off with
    | some e => e.2.1 / 2
    | none => 0
  | .host _ => 6
  | _ => if write then 8 else 7

/-- Whether two ranges are one range and one unit of R17; HBM counts as one (R109). -/
def sameRange : Rng → Rng → Bool
  | .core u c w _, .core u' c' w' _ => u == u' && c == c' && w == w'
  | .vault b v _, .vault b' v' _ => b == b' && v == v'
  | .hbm _, .hbm _ => true
  | .host _, .host _ => true
  | .page u c _, .page u' c' _ => u == u' && c == c'
  | .bedCtl b k _, .bedCtl b' k' _ => b == b' && k == k'
  | .rimDie d k _, .rimDie d' k' _ => d == d' && k == k'
  | .linkDie d k _, .linkDie d' k' _ => d == d' && k == k'
  | _, _ => false

/-- The route-table index of an engine's unit (R82). -/
def unitIx (u : Nat) : Nat := if u < 12 then 0x6C0 + u else 0x6CC + (u - 16)

/-- The index a command travels on: a named entry or that of its unit (R104, R134). -/
def commandIx (crte : Option Nat) (u : Nat) : Nat := match crte with
  | some e => 0x700 + e
  | none => unitIx u

/-- Whether a route entry of the executing core is valid. -/
def State.entryOk (s : State) (n : Nat) : Bool := (s.routeEntry s.cur.place.unit s.cur.place.core n).valid

/-- Whether the command route of a unit is usable: an engine of the rim core's own die needs none (R77). -/
def State.commandRouteOk (s : State) (crte : Option Nat) (u : Nat) : Bool :=
  (crte.isNone && s.cur.place.rim && s.cur.place.unit == u) || s.entryOk (commandIx crte u)

/-! ### The checks of a copy command (R31, R106, R109) -/

/-- A copy command block's words 2 and 3, and the tensors. -/
structure CopyBlk where
  pa : Word
  w0 : Nat
  w1 : Nat
  w2 : Nat
  w3 : Nat
  src : Option Tensor
  dst : Option Tensor
deriving DecidableEq, Repr, Inhabited

def CopyBlk.engU (b : CopyBlk) : Nat := bits b.w2 12 8
def CopyBlk.engIx (b : CopyBlk) : Nat := bits b.w2 7 4
def CopyBlk.dfUnit (b : CopyBlk) : Nat := bits b.w2 27 23
def CopyBlk.crte (b : CopyBlk) : Option Nat := if b.w2.testBit 62 then some (bits b.w3 39 32) else none

/-- The route entries a copy command names: its command route and its legs (R104, R105). -/
def CopyBlk.entries (b : CopyBlk) : List Nat :=
  commandIx b.crte b.engU :: (if b.w2.testBit 52 then [0x700 + bits b.w2 51 44] else []) ++
    (if b.w2.testBit 61 then (List.range 8).map (0x700 + bits b.w2 60 53 + ·) else [])

/-- The range a tensor's fixed-map base names; none for a paged one. -/
def Tensor.fixed (t : Tensor) (p : Place) : Option Rng := if fixedMap t.base then some (fixedRng p t.base) else none

/-- The module of a tensor's fixed-map base. -/
def Tensor.module (t : Tensor) (own : Nat) : Nat := t.xmod.getD own

/-- A self alias of a base resolved on the issuing core (R24). -/
def resolveBase (p : Place) (b : Word) : Word :=
  if fixedMap b then BitVec.ofNat 64 (0xF * 2 ^ 60 + resolveLa p.unit p.core (b.toNat % 2 ^ 52)) else b

/-- The trap of R106's second step for one descriptor at an address, if any. -/
def tensorRefused (s : State) (t : Option Tensor) (pa : Word) : Option Trap :=
  match t with
  | none => none
  | some t =>
    if t.xmod.isSome ∧ s.sysMode = false then some (Trap.of 5 0 pa)
    else if commandRefused s s.cur.place t.base then some (Trap.of 5 0 t.base)
    else none

/-- Whether a leg that must be given at issue is missing: DRTE or the source leg, its valid bit or its entry's (R105, R109).  While the engine's module is not
known, only what no module's engine reaches directly needs one. -/
def CopyBlk.legMissing (b : CopyBlk) (s : State) : Bool :=
  let p := s.cur.place
  let own := s.moduleNo.toNat
  let eng : Option Nat := match b.src with
    | some t => if (t.fixed p).isSome then some (t.module own) else if b.crte.isNone then some own else none
    | none => if b.crte.isNone then some own else none
  let drte := b.w2.testBit 52 && s.entryOk (0x700 + bits b.w2 51 44)
  let leg7 := b.w2.testBit 61 && s.entryOk (0x700 + bits b.w2 60 53 + 7)
  let needs := fun (t : Tensor) (write : Bool) => match t.fixed p with
    | some r => !(eng.all (t.module own == ·) && s.engineDirect b.engU r) && decide (s.legOf b.engU r write = if write then 8 else 7)
    | none => false
  (match b.src with
   | some t => needs t false && !leg7
   | none => false) ||
  (match b.dst with
   | some t => needs t true && !drte
   | none => b.dfUnit != b.engU && !drte)

/-- Whether a tensor's moved bytes leave one range, or its base lies in windows 2 to 7 (check 6 of R109). -/
def spansRanges (p : Place) (t : Option Tensor) (lo hi : List Nat) (n : Nat) : Bool :=
  match t with
  | none => false
  | some t =>
    match t.fixed p with
    | none => false
    | some r =>
      let win := match r with
        | .core _ _ w _ => decide (2 ≤ w)
        | _ => false
      let a := (t.elem lo).1
      let z := (t.elem (hi.map (· - 1))).1 + BitVec.ofNat 64 (t.elemBytes - 1)
      win || (n != 0 && !(fixedMap a && fixedMap z && bits a.toNat 59 52 == 0 && bits z.toNat 59 52 == 0 && sameRange (fixedRng p a) (fixedRng p z)))

/-- Whether two descriptors differ in TYPE, RANKM1 or BOX (R108). -/
def tensorsDiffer (s d : Option Tensor) : Bool :=
  match s, d with
  | some x, some y => x.ty != y.ty || x.rank != y.rank || x.box != y.box
  | _, _ => false

/-- Whether a fixed-map source is not beside ENGU, or lies on another module without a named command route (R105). -/
def CopyBlk.sourceAway (b : CopyBlk) (s : State) : Bool :=
  match b.src with
  | none => false
  | some t =>
    match t.fixed s.cur.place with
    | some r => !besides b.engU r || (t.module s.moduleNo.toNat != s.moduleNo.toNat && b.crte.isNone)
    | none => false

/-- The number of the first check of R109 that fails; `ck` for `cpy.ck` (R392). -/
def CopyBlk.refused (b : CopyBlk) (s : State) (ck : Bool) : Option Nat :=
  let p := s.cur.place
  let ts := b.src.toList ++ b.dst.toList
  let ckv := if ck then bits b.w2 41 40 else 0
  let lo := movedLo b.src b.dst
  let hi := movedHi b.src b.dst
  let n := movedCount b.src b.dst
  let total := n * ((ts.head?.map (·.elemBits)).getD 8)
  if ts.any (fun t => decide (4 < t.ty)) ∨ ckv = 3 ∨ (ck ∧ ckv = 0) ∨ clipMode b.src b.dst = 3 then some 1
  else if (b.w2.testBit 17 ∧ b.w2.testBit 22) ∨ isUnit b.engU = false ∨ (b.w2.testBit 22 ∧ isUnit b.dfUnit = false)
      ∨ (b.engU < 12 ∧ 4 ≤ b.engIx) ∨ tensorsDiffer b.src b.dst then some 2
  else if (b.w2.testBit 61 ∧ 0xF8 < bits b.w2 60 53) ∨ s.commandRouteOk b.crte b.engU = false ∨ b.legMissing s ∨ b.sourceAway s then some 3
  else if ts.any fun t => t.ty == 4 && (List.range 4).any fun k => decide (1 ≤ k ∧ k ≤ t.rank) && t.str.getD k 0 % 2 == 1 then some 4
  else if b.dst.toList.any fun t => (List.range 4).any fun k =>
      decide (1 ≤ k ∧ k ≤ t.rank) && decide (t.str.getD k 0 < t.str.getD (k - 1) 1 * t.dim.getD (k - 1) 0) then some 5
  else if spansRanges p b.src lo hi n ∨ spansRanges p b.dst lo hi n then some 6
  else if clipMode b.src b.dst = 0 ∧ clipped b.src b.dst then some 7
  else if ((ts.length = 1 ∨ ckv = 2) ∧ total % 8 ≠ 0) ∨ (ckv = 1 ∧ total % 32 ≠ 0) then some 8
  else none

/-- The command of a checked block; that of a `cpy` carries no checksum fields (R392). -/
def CopyBlk.cmd (b : CopyBlk) (s : State) (ck : Bool) : Cmd :=
  let p := s.cur.place
  let res := fun (t : Tensor) => { t with base := resolveBase p t.base }
  { op := .copy, words := (BitVec.ofNat 64 (b.w2 - if ck then 0 else bits b.w2 43 40 * 2 ^ 40), BitVec.ofNat 64 b.w3), place := p, ownMod := s.moduleNo.toNat, ctx := s.ctx.toNat, chan := bits b.w2 3 0, engUnit := b.engU, engIx := b.engIx,
    src := b.src.map res, dst := b.dst.map res, sfifo := if b.w2.testBit 17 then some (bits b.w2 16 13) else none,
    dfifo := if b.w2.testBit 22 then some (b.dfUnit, bits b.w2 21 18) else none, ddesc := BitVec.ofNat 64 b.w1,
    bar := if b.w2.testBit 39 then some (bits b.w2 38 28) else none, ck := if ck then bits b.w2 41 40 else 0, first := ck && b.w2.testBit 42,
    last := ck && b.w2.testBit 43, expect := bits b.w3 31 0, dleg := if b.w2.testBit 52 then some (0x700 + bits b.w2 51 44) else none,
    legBase := if b.w2.testBit 61 then some (0x700 + bits b.w2 60 53) else none, cmdEntry := commandIx b.crte b.engU, region := 0, loc := 0,
    firstEl := 0, count := 0, ofmt := false, regData := none, image := (0, 0),
    range := if zeroBox b.src b.dst then none else b.dst.map tensorRange, carry := 0, legs := [],
    mod := match b.src with
      | some t => if (t.fixed p).isSome then some (t.module s.moduleNo.toNat) else if b.crte.isNone then some s.moduleNo.toNat else none
      | none => if b.crte.isNone then some s.moduleNo.toNat else none }

/-- Read the block and its descriptors, then make the checks of R31 and R109 (R106). -/
def readCopy (s : State) (pa : Word) (ck : Bool) (f : State → Cmd → Res) : Res :=
  readCommand s pa 32 fun s bs =>
    let w := wordAt bs
    let whenNot := fun (fifo : Bool) (a : Nat) (s : State) (g : State → Option Tensor → Res) =>
      if fifo then g s none else readCommand s (BitVec.ofNat 64 a) 64 fun s ds => g s (some (tensorOf (ofBytes ds)))
    whenNot ((w 2).testBit 17) (w 0) s fun s src =>
    whenNot ((w 2).testBit 22) (w 1) s fun s dst =>
      let b : CopyBlk := { pa := pa, w0 := w 0, w1 := w 1, w2 := w 2, w3 := w 3, src := src, dst := dst }
      match tensorRefused s src (BitVec.ofNat 64 (w 0)) with
      | some t => .trap s t
      | none =>
        match tensorRefused s dst (BitVec.ofNat 64 (w 1)) with
        | some t => .trap s t
        | none =>
          readingRoutes s b.entries fun s =>
            match b.refused s ck with
            | some n => blockError s n pa
            | none => f s (b.cmd s ck)

/-! ### Channels (R110 to R112, R114) -/

/-- Change a channel of a core. -/
def State.modChan (s : State) (unit core n : Nat) (f : Chan → Chan) : State :=
  s.modCore unit core fun c => { c with chans := Tbl.set c.chans n (f (c.chan n)) }

/-- Admit a command to a channel, or none when it waits until PEND is 0 (R111). -/
def Chan.accept (c : Chan) (k : Cmd) : Option Chan :=
  let some' := c.cmds.any (·.range.isSome)
  match k.range with
  | none => if c.cmds.length < 4 then some { c with cmds := c.cmds ++ [k] } else none
  | some (lo, hi) =>
    if c.cmds = [] ∨ (c.cmds.length < 4 ∧ some' = false) then some { c with lo := lo, hi := hi, wm := lo, arm := c.arm + 1, cmds := c.cmds ++ [k] }
    else if c.cmds.length < 4 ∧ lo = c.hi then some { c with hi := hi, cmds := c.cmds ++ [k] }
    else none

/-- Queue a command on its channel, waiting as R111 sets: one that has had to wait goes on waiting until PEND is 0. -/
def queueCommand (s : State) (k : Cmd) : Res :=
  let p := s.cur.place
  let x := (s.coreAt p).chan k.chan
  match (if s.here.resp.contains .late ∧ x.cmds ≠ [] then none else x.accept k) with
  | some c => .ok (s.modCoreAt p fun x => { x with chans := Tbl.set x.chans k.chan c })
  | none => .wait (s.modHere fun x => { x with resp := if x.resp.contains .late then x.resp else .late :: x.resp }) (.channel (k.chan + 16)) true

/-- Wake what waits on a channel: watermark stalls, and where PEND is 0 also `cpy.q.w` and admissions (R111, R394). -/
def wakeChannel (s : State) (unit core n : Nat) : State :=
  let idle := ((s.core unit core).chan n).cmds.isEmpty
  wakeCore s unit core fun w => w == .channel n || (idle && w == .channel (n + 16))

/-- Raise a channel's watermark: it never decreases, and stays within the range (R112). -/
def raiseMark (s : State) (unit core n : Nat) (wm : Word) : State :=
  let c := (s.core unit core).chan n
  if c.wm.toNat < wm.toNat then
    wakeCore (s.modChan unit core n fun c => { c with wm := BitVec.ofNat 64 (min wm.toNat c.hi.toNat) }) unit core fun w => w == .channel n
  else s

/-- What a command leaves in CHCK and the mailbox when it completes. -/
structure Completion where
  status : Nat
  ck : Option Nat
  src : Nat
  faddr : Word
  detail : Word
deriving DecidableEq, Repr, Inhabited

/-- The mailbox entries of a completion: the clip entry under CLIP MAIL, and the error entry (R116, R117). -/
def completionMail (s : State) (k : Cmd) (c : Completion) : List (List Word) :=
  let w0 := fun (ty st : Nat) => pack [(0, ty), (4, k.chan), (8, k.place.slot), (12, st), (16, c.src)]
  let four := fun (l : List Nat) => pack ((List.range 4).map fun i => (16 * i, l.getD i 0 % 2 ^ 16))
  (if k.op = .copy ∧ clipMode k.src k.dst = 1 ∧ clipped k.src k.dst then
     [[w0 3 0, four (movedLo k.src k.dst), four (movedHi k.src k.dst), k.ddesc]] else []) ++
  (if c.status ≠ 0 then [[w0 4 c.status, c.faddr, c.detail, s.ts]] else [])

/-- The arrival of a completed command, unless it was quenched (R114, R124); a thread that completes a wait on its phase observes the command's writes (R201). -/
def commandArrive (s : State) (k : Cmd) (quenched : Bool) : State :=
  match k.bar with
  | some n =>
    let p := k.place
    if quenched then s
    else hwArrive (s.release (barrierKey s p.unit p.core n) (s.pending fun l => l.maker == .channel (unitKey p.unit p.core) k.chan)) p.unit p.core n
  | none => s

/-- COMPLETION of a channel's head command (R114): the mailbox entries, STATUS and CHCK, then the arrival; a status other than OK cancels what
is queued and lifts the watermark.  `rsv` entries of the mailbox were reserved for it (R117). -/
def completeCommand (s : State) (unit core n rsv : Nat) (c : Completion) : State :=
  let x := (s.core unit core).chan n
  match x.cmds with
  | [] => s
  | k :: rest =>
    let s := if x.sent then { s with lag := s.lag.map fun l => if l.maker = .command x.id then { l with maker := .channel (unitKey unit core) n } else l } else s
    let s := (completionMail s k c).foldl (fun t ws => postMail t unit core ws false) s
    let s := s.modCore unit core fun x => { x with mbrsv := x.mbrsv - rsv }
    let wmEnd := k.range.map (·.2)
    let s := s.modChan unit core n fun x =>
      { x with status := c.status, ck := c.ck.getD x.ck, sent := false, cmds := if c.status = 0 then rest else [],
               wm := if c.status = 0 then (match wmEnd with
                 | some e => if x.wm.toNat < e.toNat then e else x.wm
                 | none => x.wm) else x.hi }
    let s := commandArrive s k (c.status = 6)
    let s := if c.status = 0 then s
      else rest.foldl (fun t q => commandArrive t q (decide (c.status = 6 ∧ q.ctx = k.ctx ∧ q.ownMod = k.ownMod))) s
    wakeCore (wakeChannel s unit core n) unit core fun w => w == .queue

/-! ### Checksums (R118) -/

/-- The initial running value. -/
def ckInit (ck : Nat) : Nat := if ck = 2 then 0xFFFFFFFF else 0

/-- Fold one stream word (SUM32) or byte (CRC-32C). -/
def ckFold (ck v : Nat) (bs : List Byte) : Nat :=
  if ck = 1 then (chunks 4 (bs.length + 1) bs).foldl (fun n w => (n + ofBytes w) % 2 ^ 32) v
  else if ck = 2 then bs.foldl crcByte v
  else v

/-- The final value. -/
def ckFinal (ck v : Nat) : Nat := if ck = 2 then v ^^^ 0xFFFFFFFF else v

/-- The running value a command starts from (R118). -/
def ckStart (k : Cmd) (chck : Nat) : Nat := if k.first then ckInit k.ck else chck

/-! ### The copy instructions -/

/-- CPY (R392): the command runs without a checksum. -/
def execCpy (a : BitVec 5) (s : State) : Host.Outcome State Fault Refusal :=
  word (.cpy a) s fun s => s.outsideBlock 5 fun s => readCopy s (s.opG a) false queueCommand

/-- CPY_CK (R392): the command runs with its checksum fields as written. -/
def execCpyCk (a : BitVec 5) (s : State) : Host.Outcome State Fault Refusal :=
  word (.cpyCk a) s fun s => s.outsideBlock 5 fun s => readCopy s (s.opG a) true queueCommand

/-- CPY_Q: what it reads may report a completion (R201, R394). -/
def execCpyQ (d : BitVec 5) (w : BitVec 1) (c : BitVec 4) (s : State) : Host.Outcome State Fault Refusal :=
  word (.cpyQ d w c) s fun s => s.outsideBlock 5 fun s =>
    let k := (s.coreAt s.cur.place).chan c.toNat
    if w = 1 ∧ k.cmds ≠ [] then .wait s (.channel (c.toNat + 16)) true else .ok ((seeChannel s s.cur.place s.cur.place.unit s.cur.place.core c.toNat).setG d k.word2)

/-- The local parties of a quench (R124), numbered: the engines of beds (4 each, from 0), of rim dies (16 each, from 64), encoders (8 each,
from 192), graft units (from 256), the ranker (272), gateways (273, 274), and the channels of each core (from 512). -/
def quenchParties : List Nat :=
  List.range 48 ++ (List.range 96).map (64 + ·) ++ (List.range 48).map (192 + ·) ++ (List.range 12).map (256 + ·) ++ [272, 273, 274] ++
    (List.range 12).flatMap (fun b => (List.range 128).map fun c => 512 + b * 128 + c) ++
    (List.range 6).flatMap fun r => (List.range 32).map fun c => 512 + (16 + r) * 128 + c

/-- Send a quench message along each valid entry 0x7E0 to 0x7FF, counted in PEERS (R124, R125); one whose string is refused waits for its entry. -/
def sendQuenches (s : State) (p : Place) (ctx : Nat) : State :=
  ((List.range 32).filter fun k => s.entryOk (0x7E0 + k)).foldl (fun s k =>
    let n := 0x7E0 + k
    let q := { mkPkt s p 5 0 0 (.quench ctx s.moduleNo.toNat) with info := pack [(0, ctx), (12, s.moduleNo.toNat), (28, 1)] }
    let s : State := match injectOn s p n q with
      | .sent s => s
      | .park s => { s with retries := s.retries ++ [{ pkt := { q with entry := some (n, 0) }, why := 2 }] }
    s.tick.modCoreAt p fun c => { c with qPeers := c.qPeers + 1 }) s

/-- CPY_QUENCH (R124, R125, R395). -/
def execCpyQuench (a : BitVec 5) (s : State) : Host.Outcome State Fault Refusal :=
  word (.cpyQuench a) s fun s => s.outsideBlock 5 fun s =>
    let p := s.cur.place
    let v := (s.opG a).toNat
    if 2 ^ 12 ≤ v then s.illegal 4
    else if (s.coreAt p).qBusy then .wait s .queue true
    else
     readingRoutes s ((List.range 32).map (0x7E0 + ·)) fun s =>
      let s := s.modCoreAt p fun c => { c with qBusy := true, qDone := false, qCtx := BitVec.ofNat 12 v, qPeers := 0, qLocal := true }
      .ok (sendQuenches { s with quenches := s.quenches ++ [(s.moduleNo.toNat, v, p.unit, p.core, [])] } p v)

end Sys2Proof.Machine
end

