-- ==== Sys2Proof/Machine/Graft.lean ====
section
/-! DEFINITION. The population instructions: `graft.cfg`, `graft.go` and `graft.stat` (R139 to R142, R152, R399, R400). -/

namespace Sys2Proof.Machine

/-! ### Population descriptors (R140, R141) -/

def PopSlot.hw (p : PopSlot) (i : Nat) : Nat := (p.header.getD i 0).toNat
def PopSlot.nmem (p : PopSlot) : Nat := bits (p.hw 0) 12 0
def PopSlot.k (p : PopSlot) : Nat := bits (p.hw 0) 24 13
def PopSlot.fmt (p : PopSlot) : Nat := bits (p.hw 0) 27 25
def PopSlot.table (p : PopSlot) : Bool := (p.hw 0).testBit 28
def PopSlot.sigma (p : PopSlot) : Nat := bits (p.hw 0) 63 32
def PopSlot.woff (p : PopSlot) : Nat := bits (p.hw 1) 19 0
def PopSlot.wlen (p : PopSlot) : Nat := bits (p.hw 1) 40 20
def PopSlot.bar (p : PopSlot) : Nat := bits (p.hw 1) 51 41
def PopSlot.logsz (p : PopSlot) : Nat := bits (p.hw 1) 56 52
def PopSlot.lead (p : PopSlot) : Nat := if bits (p.hw 5) 19 12 = 0 then 2 else bits (p.hw 5) 19 12

/-- A member entry's core, unit, module and route entry (R141). -/
def memCore (m : BitVec 32) : Nat := bits m.toNat 6 0
def memUnit (m : BitVec 32) : Nat := bits m.toNat 11 7
def memModule (m : BitVec 32) : Nat := bits m.toNat 23 12
def memRte (m : BitVec 32) : Nat := bits m.toNat 31 24

/-- Bytes of `n` weight elements in a weight window, none for a reserved FMT (R140). -/
def weightBytes (fmt n : Nat) : Option Nat :=
  if fmt = 0 then some (4 * n)
  else if fmt = 2 ∨ fmt = 5 then some n
  else if fmt = 4 then some (n / 2)
  else if fmt = 6 then some (2 * n)
  else none

/-- Whether a copied route begins with an item admitted at link die 1 (R76, R141); one that does not is a descriptor error with SUB 1 (DESIGN CHOICE, assumption 169). -/
def admittedAtLink (e : RouteE) : Bool :=
  let c := e.codes % 8
  let port := e.codes / 8 % 16
  !e.valid || c == 4 || c == 6 || (c == 5 && (decide (port ≤ 11) || port == 15))

/-- The number of the first check of R141 that a descriptor fails: 1 for a field out of its limits, among them a reserved bit that is not zero (DESIGN CHOICE,
assumption 169). -/
def popRefused (s : State) (ix : Nat) (h : List Word) (ms : List (BitVec 32)) : Option Nat :=
  let p := s.cur.place
  let g : PopSlot := { (default : PopSlot) with header := h }
  let away := ms.filter fun m => memModule m != s.moduleNo.toNat
  let lbase := h.getD 4 0
  let ring := !fixedMap lbase || (bits lbase.toNat 59 52 == 0 && (match fixedRng p lbase with
    | .hbm _ => true
    | _ => false))
  let limits := decide (2 ≤ g.nmem ∧ g.nmem ≤ 4096 ∧ 1 ≤ g.k ∧ g.k ≤ g.nmem / 2) && (weightBytes g.fmt 0).isSome && bits (g.hw 0) 31 29 == 0 &&
    (fp32.decode g.sigma).isFin && g.woff % 32 == 0 && decide (1 ≤ g.wlen ∧ g.wlen ≤ 1966080) &&
    !((g.fmt == 4 || g.fmt == 5) && g.wlen % 32 != 0) && g.hw 1 / 2 ^ 57 == 0 && decide (4 ≤ g.logsz ∧ g.logsz ≤ 24) &&
    (!g.table || (decide (8 ≤ bits (g.hw 3) 34 30 ∧ bits (g.hw 3) 34 30 ≤ 24) && bits (g.hw 3) 25 0 % 4 == 0)) && g.hw 3 / 2 ^ 35 == 0 &&
    g.hw 5 / 2 ^ 20 == 0 && g.hw 6 == 0 && g.hw 7 == 0 && ring && g.hw 4 % (32 * 2 ^ g.logsz) == 0
  let routes := ((List.range 6).map (0x7D0 + ·) ++ away.map fun m => 0x700 + memRte m).all fun n => admittedAtLink (s.routeEntry p.unit p.core n)
  let others := s.ranker.slots.foldl (fun n e => if e.1 ≠ ix ∧ e.2.valid then n + e.2.nmem else n) 0
  if limits = false ∨ routes = false ∨ (away ≠ [] ∧ s.feat.getLsbD 9 = false) then some 1
  else if ¬ (ms.map fun m => m.toNat % 2 ^ 24).Nodup then some 2
  else if ms.any fun m => decide (12 ≤ memUnit m) then some 3
  else if (weightBytes g.fmt g.wlen).any fun n => decide (0xEFFFF < g.woff + n - 1) then some 4
  else if 16384 < g.nmem + others then some 5
  else none

/-- The members that follow a header, read in pieces of up to 64 bytes. -/
def readMembers : Nat → Nat → Word → State → List Byte → (State → List Byte → Res) → Res
  | 0, _, _, s, bs, f => f s bs
  | k + 1, n, pa, s, bs, f =>
    if n = 0 then f s bs
    else
      readPart s pa (min n 64) 4 fun s b => readMembers k (n - min n 64) (pa + 64) s (bs ++ b) f

/-- Whether a population slot is owned by another context or module. -/
def PopSlot.foreign (g : PopSlot) (s : State) : Bool := g.valid && !(g.ctx == s.ctx && g.ownMod == s.moduleNo)

/-- The slot image `graft.cfg` sends: it keeps LNEXT and the record of the last go (R399). -/
def popImage (s : State) (old : PopSlot) (h : List Word) (ms : List (BitVec 32)) : PopSlot :=
  let p := s.cur.place
  let away := ms.filter fun m => memModule m != s.moduleNo.toNat
  let ns := ((List.range 6).map (0x7D0 + ·) ++ away.map fun m => 0x700 + memRte m).filter fun n => s.entryOk n
  { old with
    valid := true, ctx := s.ctx, ownMod := s.moduleNo, place := p, header := h, members := ms,
    legs := ns.foldl (fun t n => Tbl.set t n (s.routeString p.unit p.core n, (s.routeEntry p.unit p.core n).lane)) [] }

/-- The ranker slot `n`. -/
def State.pop (s : State) (n : Nat) : PopSlot := Tbl.get default s.ranker.slots n
def State.setPop (s : State) (n : Nat) (g : PopSlot) : State := { s with ranker := { s.ranker with slots := Tbl.set s.ranker.slots n g } }

/-- GRAFT_CFG (R141, R399): the slot image goes to the ranker over the control plane, whose write answers the instruction. -/
def execGraftCfg (a : BitVec 5) (n : BitVec 4) (s : State) : Host.Outcome State Fault Refusal :=
  word (.graftCfg a n) s fun s => s.outsideBlock 5 fun s =>
    if s.here.resp.contains .done then .ok s
    else
      let pa := s.opG a
      readCommand s pa 64 fun s hb =>
        let h := wordsOf hb
        let nmem := (h.getD 0 0).toNat % 2 ^ 13
        readMembers 65 (if nmem ≤ 4096 then 4 * nmem else 0) (pa + 64) s [] fun s mb =>
          let ms := (chunks 4 (mb.length + 1) mb).map fun b => BitVec.ofNat 32 (ofBytes b)
          let g := s.pop n.toNat
          if commandRefused s s.cur.place (h.getD 4 0) then .trap s (Trap.of 5 0 (h.getD 4 0))
          else if g.foreign s then .trap s (Trap.of 5 7 s.wordPc)
          else
           readingRoutes s ((List.range 6).map (0x7D0 + ·) ++ ms.map fun m => 0x700 + memRte m) fun s =>
            match popRefused s n.toNat h ms with
            | some k => blockError s k pa
            | none =>
              if g.gobusy then .wait s .queue true
              else
                let id := s.free
                let cfg := (id, s.cur.place, n.toNat, popImage s g h ms)
                .wait { s with ranker := { s.ranker with cfgs := s.ranker.cfgs ++ [cfg] } }.tick (.answer id true) true

/-- GRAFT_GO: a release at `.m`; it waits while sixteen goes are queued (R152, R400). -/
def execGraftGo (n : BitVec 4) (s : State) : Host.Outcome State Fault Refusal :=
  word (.graftGo n) s fun s => s.outsideBlock 5 fun s =>
    let g := s.pop n.toNat
    if g.valid = false then blockError s 1 s.wordPc
    else if g.foreign s then .trap s (Trap.of 5 7 s.wordPc)
    else
      releasing s fun s =>
        if 16 ≤ s.ranker.queue.length then .wait s .queue true
        else
          let s := { s with ranker := { s.ranker with queue := s.ranker.queue ++ [(n.toNat, s.cur.place)] } }
          .ok (s.setPop n.toNat { g with gobusy := true })

/-- GRAFT_STAT (R152, R400): the read travels over the control plane, and may report a completion (R201). -/
def execGraftStat (d : BitVec 5) (w : BitVec 2) (n : BitVec 4) (s : State) : Host.Outcome State Fault Refusal :=
  word (.graftStat d w n) s fun s => s.outsideBlock 5 fun s =>
    match heldValue s.here.resp with
    | some v => .ok ((seeGrafts s s.cur.place).setG d v)
    | none =>
      if s.sysMode = false ∧ (s.pop n.toNat).foreign s then .trap s (Trap.of 5 7 s.wordPc)
      else
        let id := s.free
        let rd := (id, s.cur.place, n.toNat, w.toNat)
        .wait { s with ranker := { s.ranker with stats := s.ranker.stats ++ [rd] } }.tick (.answer id false) true

end Sys2Proof.Machine
end

