-- ==== Sys2Proof/Machine/Frame.lean ====
section
/-! DEFINITION. What a packet looks like on a Spire link: its header and payload flits (R78, R90, R123, R158, R172, R181, R331, R384, R402) and the frames that
carry them (R71 to R73). -/

namespace Sys2Proof.Machine

/-! ### Flits (R78) -/

/-- A flit from fields given as (lowest bit, value). -/
def flitOf (l : List (Nat × Nat)) : BitVec 256 := BitVec.ofNat 256 (l.foldl (fun n f => n + f.2 * 2 ^ f.1) 0)

/-- Bytes as flits of 32, the last one filled up with zeros. -/
def flitsOf : Nat → List Byte → List (BitVec 256)
  | 0, _ => []
  | n + 1, bs => BitVec.ofNat 256 (ofBytes (bs.take 32)) :: flitsOf n (bs.drop 32)

/-- INFO of a packet: where a rule gives it by what the packet carries, that (R90, R123, R331, R384). -/
def Pkt.infoWord (q : Pkt) : Nat :=
  match q.body with
  | .cmd c => c.ctx + c.ownMod * 2 ^ 12 + c.chan * 2 ^ 24
  | .quench ctx own => ctx + own * 2 ^ 12 + 2 ^ 28
  | .fill _ _ _ own => own * 2 ^ 12 + 2 ^ 29
  | .snap _ _ => 2 * 2 ^ 29
  | .pair _ _ _ _ _ ctx own => ctx + own * 2 ^ 12 + 3 * 2 ^ 29
  | .probe _ ctx own _ => ctx + own * 2 ^ 12 + 4 * 2 ^ 29
  | .engWrite bs _ _ _ => bs.foldl (fun n b => n ||| 2 ^ b.1) 0
  | .engRead n ctx own _ => n - 1 + ctx * 2 ^ 6 + own * 2 ^ 18
  | .red op dbl group k _ => op + b2n dbl * 8 + b2n group * 16 + k * 32
  | .mcmd w _ _ => w.toNat
  | .nack reason hopix rkind _ =>
    reason + hopix * 2 ^ 4 + rkind * 2 ^ 11 + (match q.entry with
      | some (n, _) => n * 2 ^ 16 + 2 ^ 27
      | none => 0)
  | _ => q.info.toNat

/-- The header flit (R78). -/
def Pkt.header (q : Pkt) : BitVec 256 :=
  flitOf [(0, q.lane), (2, b2n q.resp), (3, q.kind), (8, q.len), (13, q.hop), (20, q.last), (22, b2n q.lastv), (23, b2n q.xpl), (24, q.src), (48, q.slot),
    (51, q.iport), (56, q.dest), (108, q.dmod), (128, q.stamp.toNat), (192, q.infoWord)]

/-- A tensor descriptor's 512 bits (R107). -/
def Tensor.toBits (t : Tensor) : Nat :=
  let k4 := fun (f : Nat → Nat) => (List.range 4).foldl (fun n k => n + f k) 0
  t.base.toNat + t.ty * 2 ^ 64 + t.rank * 2 ^ 68 + t.clip * 2 ^ 70 + b2n t.nib0 * 2 ^ 72 +
    (match t.xmod with
     | some m => 2 ^ 73 + m * 2 ^ 74
     | none => 0) +
    k4 (fun k => if k ≤ t.rank then t.dim.getD k 0 * 2 ^ (128 + 24 * k) else 0) +
    k4 (fun k => if k = 0 then 0 else t.str.getD k 0 * 2 ^ (192 + 32 * k)) +
    k4 (fun k => if k ≤ t.rank then t.box.getD k 0 * 2 ^ (320 + 16 * k) else 0) +
    k4 (fun k => if k ≤ t.rank then wrap 24 (t.org.getD k 0) * 2 ^ (384 + 24 * k) else 0)

/-- The starting lanes of legs, from bit `at'` on: two bits each, by leg number (the place is the model's: DESIGN CHOICE, assumption 141). -/
def lanesAt (at' : Nat) (legs : List (Nat × BitVec 256 × Nat)) : List (Nat × Nat) := legs.map fun g => (at' + 2 * g.1, g.2.2 % 4)

/-- The code of a path (the model's: DESIGN CHOICE, assumption 164). -/
def Path.code : Path → Nat
  | .se => 1
  | .ge => 2
  | _ => 0

/-- Payload 1 to 4 of a command packet: the descriptors of a copy (R123), zero for a FIFO end; of a stash command REGION, LOCAL, which command it is, the image of
`stash.open` and the range (no rule lays these out: DESIGN CHOICE, assumption 140). -/
def Cmd.operands (c : Cmd) : List (BitVec 256) :=
  let desc := fun (t : Option Tensor) => match t with
    | some t => flitsOf 2 (bytesOf 64 t.toBits)
    | none => [0, 0]
  let stash := fun (n : Nat) =>
    let r := c.range.getD (0, 0)
    [flitOf [(0, c.region.toNat), (64, c.loc.toNat), (128, n), (130, b2n c.regData.isSome)], flitOf [(0, c.image.1.toNat), (64, c.image.2.toNat)],
     flitOf [(0, r.1.toNat), (64, r.2.toNat), (128, b2n c.range.isSome)], 0]
  match c.op with
  | .copy => desc c.src ++ desc c.dst
  | .stashOpen => stash 1
  | .stash => stash 2
  | .restore => stash 3
  | .graft => []

/-- The payload flits of a packet whose payload a rule lays out: none for the others. -/
def Pkt.payload (q : Pkt) : Option (List (BitVec 256)) :=
  match q.body with
  | .cmd c =>
    let present := (List.range 8).filter fun k => c.legs.any fun g => g.1 == k
    let leg := fun k => ((c.legs.find? fun g => g.1 == k).map (·.2.1)).getD 0
    some (flitOf ([(0, c.words.1.toNat), (64, c.words.2.toNat), (128, c.carry), (160, present.foldl (fun n k => n + 2 ^ k) 0)] ++ lanesAt 168 c.legs) ::
      c.operands ++ leg 8 :: present.map leg ++ (match c.regData with
        | some bs => flitsOf 4 bs
        | none => []))
  | .quench _ _ => some []
  | .engWrite bs ctx own p =>
    let nib := bs.any fun b => b.2.1 != 0xFF
    let masks := bs.flatMap fun b => [(128 + 2 * b.1, b2n (b.2.1.getLsbD 0)), (129 + 2 * b.1, b2n (b.2.1.getLsbD 4))]
    let data := (List.range 64).map fun i => match bs.find? fun b => b.1 == i with
      | some b => b.2.2
      | none => 0
    some (flitOf ([(0, ctx), (12, own), (24, b2n nib), (26, p.code), (64, q.rstamp.toNat)] ++ if nib then masks else []) :: flitsOf 2 data)
  | .counts (ex, nf, me) ctx own => some [flitOf [(0, ctx), (12, own), (25, 1), (64, q.rstamp.toNat)], flitOf [(0, ex), (32, nf), (64, me)], 0]
  | .fill ctl w0 w1 _ => some (flitsOf 1 (wordsBytes [ctl, w0, w1]))
  | .snap t m => some (flitsOf 1 (wordsBytes [t, m.zeroExtend 64]))
  | .pair h w l ix i _ _ =>
    some (flitsOf 3 (wordsBytes ((List.range 8).map (fun k => h.getD k 0) ++ [pack [(0, w.toNat), (32, l.toNat)], BitVec.ofNat 64 ix, BitVec.ofNat 64 i])))
  | .probe pa _ _ legs => some (flitOf ([(0, pa.toNat), (64, legs.foldl (fun n l => n + 2 ^ l.1) 0)] ++ lanesAt 128 legs) :: legs.map (·.2.1))
  | .missed ws => some (flitOf [(69, 1)] :: flitsOf 1 (wordsBytes ws))
  | .engRead _ _ _ p => some [flitOf [(0, q.rstamp.toNat), (64, p.code)]]
  | .image bs refault _ _ reach _ _ _ =>
    some (flitsOf 13 (bs ++ wordsBytes reach.toList) ++ [flitOf [(0, q.rstamp.toNat), (64, refault.toNat)]])
  | .red _ _ _ _ x => some [flitOf [(0, x.toNat), (64, q.rstamp.toNat)]]
  | .message bs => some (flitsOf q.len bs)
  | .bulk bs => some (flitsOf q.len bs)
  | .mcmd _ token _ => some [flitOf [(0, token.toNat)]]
  | .miss ws => some (flitsOf 1 (wordsBytes ws))
  | .data bs => some (flitsOf q.len bs)
  | .progress wm st fin ck faddr nack clip _ =>
    some (flitOf [(0, wm.toNat), (64, st), (68, b2n fin), (96, ck), (128, faddr.toNat), (192, nack.toNat)] ::
      (match clip with
       | some (lo, hi) => [flitOf ((List.range 4).flatMap fun i => [(16 * i, lo.getD i 0), (64 + 16 * i, hi.getD i 0)])]
       | none => []))
  | .nack _ _ _ _ => some []
  | .ack => some []
  | _ => none

/-- The flits of a packet (R74, R78); a payload that no rule lays out is free. -/
def Pkt.toFlits (q : Pkt) (n : Nat) : List (BitVec 256) :=
  let free := fun (i : Nat) => flitOf ((List.range 4).map fun j => (64 * j, (Config.freeAt n (4 * i + j)).toNat))
  let pay := match q.payload with
    | some l => (List.range q.len).map fun i => l.getD i 0
    | none => (List.range q.len).map free
  q.route :: q.header :: pay

/-! ### Frames (R71 to R73) -/

/-- A frame: its flit and link control, with the acknowledgement of the last frame accepted, the credits it returns, and its CRC. -/
def Spire.frame (x : Spire) (flit : BitVec 256) (ix : Nat) (head tail idle : Bool) (slot : Nat) (crl crn : Nat) : BitVec 320 :=
  let v := flit.toNat + ix * 2 ^ 256 + b2n head * 2 ^ 259 + b2n tail * 2 ^ 260 + b2n idle * 2 ^ 261 + slot * 2 ^ 262 + x.rxSlot * 2 ^ 270 +
    b2n x.rxAny * 2 ^ 278 + crl * 2 ^ 279 + crn * 2 ^ 282
  BitVec.ofNat 320 (v + crc32c (bytesOf 36 v) * 2 ^ 288)

/-- The credits a frame returns: up to 15 of the first lane and class that has some to return. -/
def Spire.pay (x : Spire) : Nat × Nat :=
  match x.owed.find? fun e => e.2 != 0 with
  | some (c, n) => (c, min n 15)
  | none => (0, 0)

/-- What is left to return once a frame has. -/
def Spire.paid (x : Spire) : Spire := let (c, n) := x.pay; { x with owed := Tbl.set x.owed c (Tbl.get 0 x.owed c - n) }

/-- Put a flit on the line: its frame takes the next replay slot and a credit (R72, R73). -/
def Spire.sendFlit (x : Spire) (flit : BitVec 256) (ix : Nat) (head tail : Bool) : Spire :=
  let (c, n) := x.pay
  let f := x.frame flit ix head tail false x.txSlot c n
  { x.paid with txSlot := (x.txSlot + 1) % 256, txBuf := x.txBuf ++ [(f, 0)], line := x.line ++ [f],
                credits := Tbl.set x.credits ix (Tbl.get 64 x.credits ix - 1) }

/-- Put a frame without a flit on the line: it is not kept for replay. -/
def Spire.sendIdle (x : Spire) : Spire :=
  let (c, n) := x.pay
  { x.paid with line := x.line ++ [x.frame 0 0 false false true x.txSlot c n] }

/-- Put the flits of a packet on the line, in order. -/
def Spire.sendFlits (x : Spire) (ix : Nat) (l : List (BitVec 256)) : Spire :=
  (List.range l.length).foldl (fun y i => y.sendFlit (l.getD i 0) ix (i == 0) (i + 1 == l.length)) x

/-- The replay slot that a frame names as its own. -/
def frameSlot (f : BitVec 320) : Nat := bits f.toNat 269 262

end Sys2Proof.Machine
end

