-- ==== Sys2Proof/Machine/Fabric.lean ====
section
/-! DEFINITION. The fabric: the items of a route at routers and gateways (R74 to R77), responses (R80), order on a route (R81), and the state of
links (R70, R72, R73, R86, R101). -/

namespace Sys2Proof.Machine

/-! ### Routes and their order (R81) -/

/-- Whether two packets are on the same route: source, injection port, starting lane and string (R81). -/
def sameRoute (p q : Pkt) : Bool :=
  p.src == q.src && p.iport == q.iport && p.lane0 == q.lane0 && p.route0 == q.route0 && p.resp == q.resp

/-- Whether a packet is ahead of every later one of its route: no earlier one is behind or beside it (R81). -/
def inOrder (s : State) (i : Nat) (q : Pkt) : Bool :=
  (s.pkts.take i).all fun p => !(sameRoute p q) || (if q.resp then decide (p.hop < q.hop) else decide (q.hop < p.hop))

/-- Replace packet `i`. -/
def setPkt (s : State) (i : Nat) (q : Pkt) : State := { s with pkts := s.pkts.set i q }

/-! ### Items (R74, R75) -/

/-- `Consume`: the string moves down by `w` bits, the reverse item of `w` bits takes the vacated top, its code highest, and HOP counts (R75). -/
def Pkt.consume (q : Pkt) (w rev : Nat) : Pkt :=
  { q with route := BitVec.ofNat 256 (q.route.toNat / 2 ^ w + rev * 2 ^ (256 - w)), hop := q.hop + 1 }

/-- A reverse item: code, then port, then attach index, the code highest (R75). -/
def revPort (port : Nat) : Nat := 5 * 16 + port
def revAttach (port a : Nat) : Nat := (5 * 16 + port) * 16 + a

/-- A delivering item is taken and not reversed (R75): the reversed items stay at the top. -/
def Pkt.deliver (q : Pkt) (l : Loc) : Pkt := { q with hop := q.hop + 1, loc := l }

/-- The field of a string from a bit on. -/
def field (q : Pkt) (lo w : Nat) : Nat := q.route.toNat / 2 ^ lo % 2 ^ w

/-- Whether a turn is permitted (R86). -/
def turnOk (mask : Word) (lane i o : Nat) : Bool := mask.getLsbD (16 * lane + 4 * i + o)

/-- KINDs that name a request (R79). -/
def kindKnown (k : Nat) : Bool := k ≤ 8 || (0x10 ≤ k && k ≤ 0x13)

/-- Delivery at an endpoint: of a reserved KIND, or where the endpoint does not hold DEST, it is answered MALFORMED (R75, R79).  A quench
message is for the unit that receives it, whichever that is (R124). -/
def deliverAt (s : State) (i : Nat) (q : Pkt) (l : Loc) : State :=
  let q := q.deliver l
  let quench : Bool := match q.body with
    | .quench _ _ => true
    | _ => false
  if kindKnown q.kind && (quench || holdsDest s q) then setPkt s i q else nackPkt s i q 1

/-- A delivering item that no end code follows: it counts in HOPIX, and is not reversed (R75, R90). -/
def undelivered (s : State) (i : Nat) (q : Pkt) : State := { s with pkts := s.pkts.eraseIdx i ++ [nackAt q 1 (q.hop + 1)] }

/-- A lane change (R75, R76). -/
def Pkt.changeLane (q : Pkt) : Pkt := { q.consume 3 6 with lane := q.lane + 1, lastv := false, hopped := q.hopped.map fun _ => true }

/-- `PanelStep` (R75) for packet `i` at router (x, y). -/
def panelStep (s : State) (i : Nat) (q : Pkt) (x y : Nat) : State :=
  let c := field q 0 3
  if c = 6 then
    (if q.lane = 3 then nackPkt s i q 1 else setPkt s i q.changeLane)
  else if c ≤ 3 then
    if q.lastv ∧ turnOk s.turnmask q.lane q.last c = false then nackPkt s i q 0
    else
      match neighbour x y c with
      | none => nackPkt s i q 1
      | some (x', y') =>
        if s.isDown x y c then nackPkt s i q 2
        else setPkt s i { q.consume 3 ((c + 2) % 4) with last := c, lastv := true, loc := .router x' y' }
  else if c = 7 then nackPkt s i q 1
  else if c = 4 then (if field q 3 3 = 7 then deliverAt s i q (.atCore x y) else undelivered s i q)
  else
    let port := field q 3 4
    if port = 0 then
      (if s.isDown x y 4 then nackPkt s i q 2
       else if field q 7 3 = 7 then deliverAt s i q (.atVault x y) else undelivered s i q)
    else if port = 1 then
      match rimOf x y with
      | none => nackPkt s i q 1
      | some (k, _) =>
        if s.isDown x y 5 then nackPkt s i q 2
        else if field q 7 3 = 7 then deliverAt s i q (.atRim k (some (x, y))) else undelivered s i q
    else if port = 2 then
      match linkOf x y with
      | none => nackPkt s i q 1
      | some d =>
        if field q 7 4 ≠ y / 2 then nackPkt s i q 1
        else if s.isDown x y 5 then nackPkt s i q 2
        else setPkt s i { q.consume 11 (revAttach 0xF (y / 2)) with loc := .gateway d false false }
    else nackPkt s i q 1

/-- A rim die's first item enters the panel at its edge router (R77). -/
def rimStep (s : State) (i : Nat) (q : Pkt) (die : Nat) : State :=
  let n := field q 3 4
  let (x, y) := rimRouter die n
  if field q 0 3 ≠ 5 then nackPkt s i q 1
  else if s.isDown x y 5 then nackPkt s i q 2
  else setPkt s i { q.consume 7 (revPort 1) with loc := .router x y, lastv := false }

/-- ROUTER_STEP (R75, R77, R81): the head of request `arg.index` acts on its leading item. -/
def execRouterStep (s : State) : Host.Outcome State Fault Refusal :=
  match s.pkts[s.arg.index]? with
  | none => .next s
  | some q =>
    if q.resp ∨ inOrder s s.arg.index q = false then .next s
    else
      match q.loc with
      | .router x y => .next (panelStep s s.arg.index q x y)
      | .rim d => .next (rimStep s s.arg.index q d)
      | _ => .next s

/-! ### Gateways (R73, R76) -/

/-- Flits of a packet: the route, the header and the payload (R78). -/
def Pkt.flits (q : Pkt) : Nat := 2 + q.len

/-- The credit counter of a lane and class: code of CRL (R71). -/
def creditIx (q : Pkt) : Nat := q.lane + 4 * b2n q.resp

/-- Whether a link end has credits and replay room for a packet (R72, R73). -/
def Spire.canSend (x : Spire) (q : Pkt) : Bool :=
  decide (q.flits ≤ Tbl.get 64 x.credits (creditIx q)) && decide (x.txBuf.length + q.flits ≤ 256)

/-- A packet leaves on a Spire link: its flits go out as frames, spend credits and take replay slots (R71 to R73). -/
def leaveSpire (s : State) (i : Nat) (q : Pkt) (die link : Nat) : State :=
  let s := (s.setSpire die link ((s.spire die link).sendFlits (creditIx q) (q.toFlits s.free))).tick
  let s := dropPkt s i
  { s with outbox := s.outbox ++ [{ q with loc := .left die link }] }

/-- A request at a gateway (R76); `spire` and `changed` say whether it has just arrived over a Spire link and changed lane there since.  Into the panel go the
packets that have changed lane since their last Spire hop, and those this link die has injected. -/
def gatewayStep (s : State) (i : Nat) (q : Pkt) (die : Nat) (spire changed : Bool) : State :=
  let c := field q 0 3
  if c = 6 then
    (if q.lane = 3 then nackPkt s i q 1
     else setPkt s i { q.changeLane with loc := .gateway die spire true })
  else if c = 4 then (if field q 3 3 = 7 then deliverAt s i q (.atLink die) else undelivered s i q)
  else if c ≠ 5 ∨ (spire ∧ changed = false) then nackPkt s i q 1
  else
    let port := field q 3 4
    if port ≤ 0xB then
      let x := s.spire die port
      if x.state ≠ 2 then nackPkt s i q 2
      else if x.canSend q then leaveSpire s i (q.consume 7 (revPort x.farlink.toNat)) die port
      else s
    else if port = 0xF then
      let a := field q 7 4
      let r : Nat × Nat := (if die = 0 then 0 else 47, 2 * a)
      if q.hopped = some true ∨ (q.iport = 3 ∧ q.src = s.srcNum (24 + die) 0) then
        (if s.isDown r.1 r.2 5 then nackPkt s i q 2
         else setPkt s i { q.consume 11 (revAttach 2 a) with loc := .router r.1 r.2, lastv := false })
      else nackPkt s i q 1
    else nackPkt s i q 1

/-- GATEWAY_STEP (R76): request `arg.index` at a gateway acts on its leading item. -/
def execGatewayStep (s : State) : Host.Outcome State Fault Refusal :=
  match s.pkts[s.arg.index]? with
  | none => .next s
  | some q =>
    if q.resp ∨ inOrder s s.arg.index q = false then .next s
    else
      match q.loc with
      | .gateway d a b => .next (gatewayStep s s.arg.index q d a b)
      | _ => .next s

/-! ### Responses (R80, R94) -/

/-- The top `w` bits of a string. -/
def topField (q : Pkt) (hi w : Nat) : Nat := q.route.toNat / 2 ^ (hi + 1 - w) % 2 ^ w

/-- A reversed item is taken from the top (R80). -/
def Pkt.unwind (q : Pkt) (w : Nat) : Pkt := { q with route := q.route <<< w, hop := q.hop - 1 }

/-- A discarded response: RESPLOST names its source and slot, and the thread that waits for it parks with PARKWHY 2 (R94, R215).  Which unit raises the event
the rule leaves open: it is the one where the response is discarded, the router's bed or the link die, with core 0 and slot 0 (DESIGN CHOICE, assumption 124). -/
def loseResponse (s : State) (i : Nat) (q : Pkt) (unit : Nat) : State :=
  let p := q.place
  let waits : Bool := match (s.slot p).wait with
    | some (.answer id _) => decide (id = q.id)
    | some (.refill _) => decide (q.req.2.2 = .load 64 true)
    | some .migrate => q.req.1 == 3
    | _ => false
  let waits := waits || (s.slot p).ahead.any fun a => a.id == q.id
  let mine := decide (q.src / 4096 = s.moduleNo.toNat) && p.ok && waits
  if mine ∧ saveHeld s p then s
  else
    let s := dropPkt s i
    let s := s.raise unit 0 0 6 0 (BitVec.ofNat 64 q.src) (BitVec.ofNat 64 q.slot)
    if mine then parkLeaves (((s.modSlot p Slot.unwound).saveSlot p).modSlot p fun x => { x with st := .park, parkWhy := 2, held := false }) p else s

/-- Deliver a response to the port that injected its request (R80). -/
def responseHome (s : State) (i : Nat) (q : Pkt) (x y : Nat) : State :=
  if q.iport = 0 then setPkt s i { q with loc := .atCore x y }
  else if q.iport = 1 then
    (if s.isDown x y 4 then loseResponse s i q (xyCore x y).1 else setPkt s i { q with loc := .atVault x y })
  else
    match rimOf x y with
    | some (k, _) => setPkt s i { q with loc := .atRim k (some (x, y)) }
    | none => loseResponse s i q (xyCore x y).1

/-- A response at a router. -/
def responseAtRouter (s : State) (i : Nat) (q : Pkt) (x y : Nat) : State :=
  let u := (xyCore x y).1
  if q.hop = 0 then responseHome s i q x y
  else
    let c := topField q 255 3
    if c ≤ 3 then
      match neighbour x y c with
      | none => loseResponse s i q u
      | some (x', y') => if s.isDown x y c then loseResponse s i q u else setPkt s i { q.unwind 3 with loc := .router x' y' }
    else if c = 6 then setPkt s i { q.unwind 3 with lane := q.lane - 1 }
    else if c = 5 ∧ topField q 252 4 = 1 then
      match rimOf x y with
      | some (k, _) => if s.isDown x y 5 then loseResponse s i q u else setPkt s i { q.unwind 7 with loc := .atRim k (some (x, y)) }
      | none => loseResponse s i q u
    else if c = 5 ∧ topField q 252 4 = 2 then
      match linkOf x y with
      | some d => if s.isDown x y 5 then loseResponse s i q u else setPkt s i { q.unwind 11 with loc := .gateway d false false }
      | none => loseResponse s i q u
    else loseResponse s i q u

/-- A response at a gateway. -/
def responseAtGateway (s : State) (i : Nat) (q : Pkt) (die : Nat) : State :=
  let u := 24 + die
  if q.hop = 0 then setPkt s i { q with loc := .atLink die }
  else
    let c := topField q 255 3
    if c = 6 then setPkt s i { q.unwind 3 with lane := q.lane - 1 }
    else if c = 5 then
      let port := topField q 252 4
      if port = 0xF then
        let r : Nat × Nat := (if die = 0 then 0 else 47, 2 * topField q 248 4)
        (if s.isDown r.1 r.2 5 then loseResponse s i q u else setPkt s i { q.unwind 11 with loc := .router r.1 r.2 })
      else if port ≤ 0xB then
        let x := s.spire die port
        (if x.state ≠ 2 then loseResponse s i q u else if x.canSend q then leaveSpire s i (q.unwind 7) die port else s)
      else loseResponse s i q u
    else loseResponse s i q u

/-- RESPONSE_STEP (R80, R81, R94): response `arg.index` takes its topmost item, is delivered, or is discarded at a down link. -/
def execResponseStep (s : State) : Host.Outcome State Fault Refusal :=
  match s.pkts[s.arg.index]? with
  | none => .next s
  | some q =>
    if q.resp = false ∨ inOrder s s.arg.index q = false then .next s
    else
      match q.loc with
      | .router x y => .next (responseAtRouter s s.arg.index q x y)
      | .gateway d _ _ => .next (responseAtGateway s s.arg.index q d)
      | _ => .next s

/-! ### Links (R70, R72, R73, R86, R101) -/

/-- The far end of a panel link or port: node kind and port there (R98). -/
def farEnd (x y port : Nat) : Option (Nat × Nat × Nat × Nat × Nat) :=
  -- (unit, index, node kind, port, and whether it is a router, as 1)
  if port < 4 then
    (neighbour x y port).map fun r => let (b, c) := xyCore r.1 r.2; (b, c, 0, (port + 2) % 4, 1)
  else if port = 4 then some ((xyCore x y).1, (xyCore x y).2 / 8, 1, 0, 0)
  else
    match rimOf x y, linkOf x y with
    | some (k, n), _ => some (16 + k, 0, 2, 32 + n, 0)
    | none, some d => some (24 + d, 0, 3, 32 + y / 2, 0)
    | none, none => none

/-- Mark a panel link or port down at both its ends, and raise LINK (R70, R102, R262). -/
def markDown (s : State) (x y port : Nat) : State :=
  if s.isDown x y port then s
  else
    let both := (x, y, port) :: (if port < 4 then (neighbour x y port).toList.map fun r => (r.1, r.2, (port + 2) % 4) else [])
    let (b, c) := xyCore x y
    let near := pack [(0, s.moduleNo.toNat), (12, b), (17, c), (26, if port = 5 ∧ (rimOf x y).isNone then 6 else port)]
    let far := match farEnd x y port with
      | some (u, ix, kind, pt, _) => pack [(0, s.moduleNo.toNat), (12, u), (17, ix), (24, kind), (26, pt)]
      | none => 0
    ({ s with down := s.down ++ both.filter fun e => !s.down.contains e }).raise b 0 0 2 0 (near ||| (far <<< 32)) 1

/-- LINK_FLIT_ERROR (R70): a flit at router (`arg.unit`, `arg.core`), port `arg.slot`, fails with a double-bit error; it is resent once, and a second
failure of the same flit marks the link down.  `arg.flag` says that the resent flit passed, which forgets the first failure. -/
def execLinkFlitError (s : State) : Host.Outcome State Fault Refusal :=
  let x := s.arg.unit
  let y := s.arg.core
  let port := s.arg.slot
  let e := (x, y, port)
  if 48 ≤ x ∨ 32 ≤ y ∨ (farEnd x y port).isNone ∨ 6 ≤ port then .next s
  else if s.arg.flag then .next { s with flitErr := s.flitErr.filter (· != e) }
  else if s.flitErr.contains e then .next (markDown { s with flitErr := s.flitErr.filter (· != e) } x y port)
  else .next { s with flitErr := s.flitErr ++ [e] }

/-- SPIRE_TRAIN (R101): a store of 1 to STATE of link `arg.index` of link die `arg.unit`. -/
def execSpireTrain (s : State) : Host.Outcome State Fault Refusal := .next (spireTrainOp s s.arg.unit s.arg.index)

/-- SPIRE_DISABLE (R101): a store of 3. -/
def execSpireDisable (s : State) : Host.Outcome State Fault Refusal := .next (spireDisableOp s s.arg.unit s.arg.index)

/-- SPIRE_MARK_DOWN (R101): a store of 0. -/
def execSpireMarkDown (s : State) : Host.Outcome State Fault Refusal := .next (spireMarkDownOp s s.arg.unit s.arg.index)

/-- SPIRE_TRAINING_COMPLETE (R73, R101): what the far end is stands in `arg.setup`'s first link. -/
def execSpireTrainingComplete (s : State) : Host.Outcome State Fault Refusal :=
  let d := s.arg.unit
  let l := s.arg.index
  match s.arg.setup.bind fun b => b.links.head? with
  | none => .next s
  | some k =>
    let x := s.spire d l
    if x.state ≠ 1 then .next s
    else
      .next (setLink (s.setSpire d l
        { x with farmod := k.farmod, fardie := k.fardie, farlink := k.farlink, lat := k.lat, trained := true, resent := 0, txSlot := 0,
                 txBuf := [], owed := [], rxSlot := 255, rxAny := false, rxDiscard := false, rx := [], credits := [] }) d l 2)

/-- SPIRE_TRAINING_TIMEOUT (R101): 10 ms have passed without completing. -/
def execSpireTrainingTimeout (s : State) : Host.Outcome State Fault Refusal :=
  if (s.spire s.arg.unit s.arg.index).state = 1 then .next (setLink s s.arg.unit s.arg.index 0) else .next s

/-- SPIRE_SIGNAL_LOSS (R72). -/
def execSpireSignalLoss (s : State) : Host.Outcome State Fault Refusal :=
  if (s.spire s.arg.unit s.arg.index).state = 2 then .next (setLink s s.arg.unit s.arg.index 0) else .next s

/-- SPIRE_REPLAY_TIMEOUT (R72, R101): the frames not acknowledged are sent again in order; at the eighth resend of one frame the link is down. -/
def execSpireReplayTimeout (s : State) : Host.Outcome State Fault Refusal :=
  let d := s.arg.unit
  let l := s.arg.index
  let x := s.spire d l
  if x.state ≠ 2 ∨ x.txBuf = [] then .next s
  else
    let again := x.txBuf.map fun g => (g.1, g.2 + 1)
    let s := s.setSpire d l { x with resent := min 255 (x.resent + x.txBuf.length), txBuf := again, line := x.line ++ x.txBuf.map (·.1) }
    .next (if again.any fun g => decide (8 ≤ g.2) then setLink s d l 0 else s)

/-- TURNMASK_WRITE (R86): firmware's write of `arg.v` over the management plane. -/
def execTurnmaskWrite (s : State) : Host.Outcome State Fault Refusal := .next (turnmaskWrite s s.arg.v)

end Sys2Proof.Machine
end

