-- ==== Sys2Proof/Machine/Unit.lean ====
section
/-! DEFINITION. The matrix unit apart from its instructions: its rings (R369 to R371), who owns it and the load of a freeze image (R256 to
R258), and the feed of a ring by a channel (R375). -/

namespace Sys2Proof.Machine

/-! ### Ownership (R256, R258) -/

/-- The five conditions of R258 on a freeze image's header, by the refusal each gives `mload` (R387): none passes. -/
def imageRefused (s : State) (unit core : Nat) (g : Img) (ctx : BitVec 12) : Option Nat :=
  let w := fun i => ofBytes (imgBytes s g (8 * i) 8)
  if w 0 % 65536 ≠ 1 ∨ bits (w 0) 63 32 ≠ 20480 then some 1
  else if bits (w 0) 23 16 ≠ Config.impl then some 2
  else if bits (w 2) 11 0 ≠ ctx.toNat ∨ bits (w 2) 23 12 ≠ unit * 128 + core then some 3
  else if (w 1).testBit 8 = false then some 4
  else if imgBad s g ∨ bits (w 4) 31 0 ≠ crc32c (imgBytes s g 64 20416) then some 5
  else none

/-- Resume the unit an image holds, under its context, and write FROZEN 0 on path MX (R258); a body that no freeze of this module wrote is what
only an implementation interprets, and gives the empty unit (assumption 10). -/
def loadImage (s : State) (unit core : Nat) (g : Img) (ctx : BitVec 12) : State :=
  let body := imgBytes s g 64 20416
  let m := ((s.frozen.find? fun (e : Nat × Matrix) => imageBody e.1 == body).map (·.2)).getD Matrix.empty
  let s := s.modCore unit core fun c => { c with mx := { m with own := some ctx } }
  putImg s g 8 (wordsBytes [setBits8 (ofBytes (imgBytes s g 8 8))])
where
  /-- Word 1 of a header with FROZEN 0. -/
  setBits8 (w : Nat) : Word := BitVec.ofNat 64 (if w.testBit 8 then w - 256 else w)

/-- Read an image for its load: the soft errors of its words are met (R62, R63, R66), and the refusal, if there is one. -/
def checkImage (s : State) (unit core : Nat) (g : Img) (ctx : BitVec 12) : State × Option Nat :=
  let t := meetImg s g
  (t, imageRefused t unit core g ctx)

/-- The unit of a slot's core is its context's; `load`: the place of an image that is being loaded into it (R256, MXOWN). -/
def ownUnit (s : State) (p : Place) (load : Option Img) : State :=
  s.modCoreAt p fun c => { c with mx := { c.mx with own := some (s.slot p).th.ctx, loading := load } }

/-- End the load of an image into the unit (R258). -/
def endLoad (s : State) (p : Place) : State :=
  match (s.coreAt p).mx.loading with
  | some g => wakeMatrix (loadImage s p.unit p.core g (s.slot p).th.ctx) p.unit p.core
  | none => s

/-- What the taking of the unit comes to (R256). -/
inductive Take where
  | ok (s : State)
  /-- Its image is being loaded: the word goes on at its next turn. -/
  | load (s : State)
  /-- Another context owns it, or it is freezing. -/
  | held
  /-- The image of the context has FROZEN 1 and fails its header check. -/
  | bad (s : State)
deriving DecidableEq, Repr

/-- Take the unit of the slot's core for its context (R256).  MXOWN.LOAD stands between the check of an image and its load; a turn with `cur.part` 0 does both at
once (assumption 70). -/
def takeUnit (s : State) (p : Place) : Take :=
  let m := (s.coreAt p).mx
  let ctx := (s.slot p).th.ctx
  if m.freezing.isSome then .held
  else
    match m.own with
    | some c => if c = ctx then .ok (endLoad s p) else .held
    | none =>
      let s := s.seeImage p.unit p.core ctx
      match s.imageKey p.unit p.core ctx with
      | none => .ok (ownUnit s p none)
      | some k =>
        let (s, w) := (((s.meet (k + 8) 8).1), ofBytes (pathBytes s .mx (k + 8) 8))
        if w.testBit 8 = false then .ok (ownUnit s p none)
        else
          match checkImage s p.unit p.core (wholeAt k) ctx with
          | (s, some _) => .bad s
          | (s, none) => if s.cur.part = 0 then .ok (endLoad (ownUnit s p (some (wholeAt k))) p) else .load (ownUnit s p (some (wholeAt k)))

/-- A slot whose image is refused parks with PARKWHY 4, and SAVEBAD names it (R258). -/
def parkImage (s : State) (p : Place) : State :=
  let ctx := (s.slot p).th.ctx
  let k := (s.imageKey p.unit p.core ctx).getD 0
  let s := s.saveSlot p
  (s.raise p.unit p.core p.slot 0xB ctx.toNat (BitVec.ofNat 64 p.slot) (BitVec.ofNat 64 k)).modSlot p fun x =>
    { x with st := .park, parkWhy := 4, held := false, wait := none, resp := [], resv := none, resTurn := none, backoff := 0 }

/-- The instruction words that take ownership before their own checks (R256, R367): all but `mcmd`, and `msave` and `mload`, whose checks are on
the owner itself (R387). -/
def takesUnit : Instr → Bool
  | .mringCfg _ _ => true
  | .ringPutReserve _ _ _ => true
  | .ringPutPublish _ _ _ => true
  | .ringPop _ _ _ => true
  | .maccLd _ _ _ => true
  | .maccSt _ _ _ => true
  | .mcap _ _ _ => true
  | .mstat _ _ _ => true
  | .mma _ _ _ _ _ => true
  | .mmaSp _ _ _ _ _ _ _ => true
  | .mmaMx _ _ _ _ _ => true
  | .maccZero _ => true
  | .maccMv _ _ => true
  | _ => false

/-- Ownership that a pair's first word takes stands even when the pair is cancelled (R256, R284); whether the pair waits for the load of an image. -/
def ownFirst (s : State) (i : Instr) : State × Bool :=
  if takesUnit i && s.here.blk.isNone then
    match takeUnit s s.cur.place with
    | .ok t => (t, false)
    | .load t => (t, true)
    | _ => (s, false)
  else (s, false)

/-! ### The feed of a ring (R375) -/

/-- Offset in the core's memory that a program address names through its window 0 or 1, by the fixed map (R23, R375). -/
def ownOffset (unit core : Nat) (pa : Word) : Option Nat :=
  if pa.toNat / 2 ^ 60 = 0xF ∧ bits pa.toNat 59 52 = 0 then
    match decodeLa unit core (pa.toNat % 2 ^ 52) with
    | .core u c w off => if u = unit ∧ c = core ∧ w ≤ 1 then some off else none
    | _ => none
  else none

/-- Advance TAIL of a ring fed by a channel as far as the conditions of R375 hold; a slot freed since is not fed again before the channel is armed
anew (DEDUCED, assumption 11). -/
def feedRing (s : State) (unit core : Nat) (ch : Chan) (lo : Nat) : Nat → Ring → Ring
  | 0, r => r
  | f + 1, r =>
    let at' := r.slotOff r.tail
    let wm := lo + (ch.wm - ch.lo).toNat
    let k := coreKey unit core at'
    if r.room ≠ 0 ∧ lo ≤ at' ∧ at' + r.tileb ≤ wm ∧ ¬ (r.fed.1 = ch.arm ∧ at' < r.fed.2) ∧
        (s.lag.any fun l => (l.writer == .ce || l.writer == .se || l.writer == .ge) && l.reader == .mx && decide (k ≤ l.key ∧ l.key < k + r.tileb)) = false then
      feedRing s unit core ch lo f { r with tail := r.tail + 1, fed := (ch.arm, at' + r.tileb) }
    else r

/-- Feed every ring of a core that a channel feeds, and let what waits for tiles look again. -/
def feedRings (s : State) (unit core : Nat) : State :=
  let c := s.core unit core
  let one := fun (r : Ring) =>
    if r.en && r.chv then
      let ch := c.chan r.chan
      if ch.arm = 0 then r
      else
        match ownOffset unit core ch.lo with
        | some lo => feedRing s unit core ch lo (r.nslot + 1) r
        | none => r
    else r
  let rs := c.mx.rings.map one
  if rs = c.mx.rings then s
  else wakeMatrix (s.modCore unit core fun c => { c with mx := { c.mx with rings := rs } }) unit core

end Sys2Proof.Machine
end

