-- ==== Sys2Proof/Machine/MemoryHome.lean ====
section
/-! DEFINITION. What happens at the home of a location: requests of threads that reach it (R79, R318 to R332), stores that leave a store buffer (R192), the
refills of the code table and of instruction caches (R54, R58), soft errors and the scrubber (R61 to R64, R186), and writes that become
performed for another path (R200). -/

namespace Sys2Proof.Machine

/-! ### Requests at their home -/

/-- Whether two requests that never entered the fabric may be performed in either order: HBM accesses under release order to different blocks (R77, R191,
R195). -/
def looseHome (p q : Pkt) : Bool :=
  match decodeLa 31 0 p.dest, decodeLa 31 0 q.dest with
  | .hbm a, .hbm b => a / 64 != b / 64
  | _, _ => false

/-- Whether a request stands at its home and is the next of its route to act there (R81).  Of those that never entered the fabric (R77) one of HBM is held only
by earlier ones to its own block. -/
def homeDue (s : State) (i : Nat) (q : Pkt) : Bool :=
  !q.resp && q.loc.delivered && (s.pkts.take i).all fun p =>
    !(sameRoute p q) || (if q.route0 = 0 then looseHome p q else decide (q.hop < p.hop))

/-- What makes the writes of a request: the thread of its slot, where it is one of this module (R201). -/
def madeBy (s : State) (q : Pkt) : Maker :=
  if q.place.ok ∧ q.src / 4096 = s.moduleNo.toNat then .thread (s.slot q.place).name.toNat else .other

/-- The event of a delivered request: packet `arg.index`. -/
def serving (s : State) (f : State → Nat → Pkt → State) : Host.Outcome State Fault Refusal :=
  match s.pkts[s.arg.index]? with
  | none => .next s
  | some q => if homeDue s s.arg.index q then .next (f { s with maker := madeBy s q } s.arg.index q) else .next s

/-- Requests from the fabric for the stack that holds an HBM offset, which stand at its rim die ahead of packet `i` (R185). -/
def stagedAt (s : State) (i die off : Nat) : Nat :=
  let stack := fun (o : Nat) => (placeHbm (s.rimRegion die (o / regionSize)) (o % regionSize)).1
  ((s.pkts.take i).filter fun (p : Pkt) => !p.resp && decide (p.route0 ≠ 0) && p.loc.delivered && p.loc.unit == 16 + die && (match decodeLa 31 0 p.dest with
    | .hbm o => stack o == stack off
    | _ => false)).length

/-- The region table's answer to a request for HBM (R181, R182, R185): a write from the rim die itself waits while the region is frozen; 1,024
requests are staged for each stack.  A write that has begun was accepted and is finished (R184). -/
def gated (s : State) (i : Nat) (q : Pkt) (r : Rng) (write : Bool) (f : State → State) : State :=
  match r, q.loc with
  | .hbm off, .atRim die _ =>
    if q.route0 = 0 ∧ write ∧ q.gone = 0 ∧ (s.rimRegion die (off / regionSize)).wfz then s
    else
      if q.gone ≠ 0 then f s
      else
      match s.regionCheck die off q.rstamp write with
      | some n => nackPkt s i q n
      | none => if 1024 ≤ stagedAt s i die off then nackPkt s i q 4 else f s
  | _, _ => f s

/-- The range DEST names. -/
def Pkt.rng (q : Pkt) : Rng := decodeLa 31 0 q.dest

/-- The core that a load's answer goes to, if it is of this module. -/
def Pkt.who (q : Pkt) (s : State) : Nat := if q.dmod = s.moduleNo.toNat then q.src % 4096 else noCore

/-- Read piece `i` of `m` bytes of a load of `n` bytes at its home, unless it has been read already (R190). -/
def loadPiece (s : State) (q : Pkt) (m n i : Nat) : State × Option (List Byte) :=
  match q.got.find? fun e => e.1 == i with
  | some e => (s, some e.2)
  | none => readAt s q.loc.unit .ls (q.rng.add (m * i)) (min m (n - m * i)) (q.who s)

/-- LOAD_REQUEST (R79, R181): a load, fetch or remote read is answered with its bytes; with `arg.flag2` only its piece `arg.aux` is read (R190). -/
def execLoadRequest (s : State) : Host.Outcome State Fault Refusal :=
  serving s fun s i q =>
    match q.body with
    | .load n _ =>
      gated s i q q.rng false fun s =>
        let m := pieceLen q.rng
        match (if s.arg.flag2 then morePieces m (q.got.foldl (fun g e => g + 2 ^ e.1) 0) n s.arg.aux else none) with
        | some _ =>
          (match loadPiece s q m n s.arg.aux with
           | (s, some bs) => { s with pkts := s.pkts.set i { q with got := q.got ++ [(s.arg.aux, bs)] } }
           | (s, none) => answerPkt s i q 0x19 0 .bad)
        | none =>
          let all := if q.got = [] then readAt s q.loc.unit .ls q.rng n (q.who s)
            else (List.range ((n + m - 1) / m)).foldl (fun acc j =>
              let (t, got) := loadPiece acc.1 q m n j
              (t, acc.2.bind fun bs => got.map fun g => bs ++ g)) (s, some [])
          match all with
          | (s, some bs) => answerPkt s i q 0x19 ((n + 31) / 32) (.data bs)
          | (s, none) => answerPkt s i q 0x19 0 .bad
    | _ => s

/-- A write that has been performed at the Lantern port is acknowledged, and waits there until it leaves (R187, R208). -/
def enterPort (s : State) (i : Nat) (q : Pkt) : State :=
  let name := if q.src / 4096 = s.moduleNo.toNat then (s.slot q.place).name else BitVec.allOnes 15
  { answerPkt s i q 0x18 0 .ack with hostOut := s.hostOut ++ [(q, name)] }

/-- Wake the slots of the module that wait for stores and answers to be performed. -/
def wakeDrains (s : State) : State := wakeIf s fun _ w => w == .drain

/-- The port's oldest write leaves (R208). -/
def leavePort (s : State) : State :=
  match s.hostOut with
  | [] => s
  | _ :: rest => wakeDrains { s with hostOut := rest }

/-- STORE_REQUEST (R79, R181): packet `arg.index` is performed and acknowledged; a host-window store is performed at the port and waits there to leave, and
with `arg.flag` the port's oldest write leaves.  With `arg.flag2` only its piece `arg.aux` is written (R190). -/
def execStoreRequest (s : State) : Host.Outcome State Fault Refusal :=
  if s.arg.flag then .next (leavePort s)
  else
    serving s fun s i q =>
      match q.body with
      | .store bs _ =>
        let r := q.rng
        let m := pieceLen r
        if tableHeld s r bs.length then s
        else gated s i q r true fun s =>
          match (if s.arg.flag2 then morePieces m q.gone bs.length s.arg.aux else none) with
          | some g =>
            let j := s.arg.aux
            { writeAt s q.loc.unit .ls (r.add (m * j)) (pieceBytes m bs j) with pkts := s.pkts.set i { q with gone := g } }
          | none =>
            let t := writeRest s q.loc.unit .ls r bs m q.gone
            (match r with
             | .host _ => enterPort t i q
             | _ => answerPkt t i q 0x18 0 .ack)
      | _ => s

/-- A slot whose operation found nothing to do at its home waits there: its request is used up. -/
def parkRequester (s : State) (i : Nat) (q : Pkt) (w : Wait) (hw : Bool) : State :=
  (dropPkt s i).modSlot q.place fun x =>
    if x.wait = some (.answer q.id true) then { x with wait := some w, st := if hw ∧ x.st = .run then .wait else x.st } else x

/-- ATOMIC_REQUEST (R323 to R329, R341): an atomic, reservation, future or counter operation is one action at its home. -/
def execAtomicRequest (s : State) : Host.Outcome State Fault Refusal :=
  serving s fun s i q =>
    match q.body with
    | .rmw op =>
      let finish := fun (r : State × RmwRes) => match r with
        | (s, .value v) => answerPkt s i q 0x19 1 (.value v)
        | (s, .park w) => parkRequester s i q w (match w with
            | .reserve _ => false
            | _ => true)
        | (s, .bad) => answerPkt s i q 0x19 0 .bad
      (match q.rng with
       | .page u c _ => finish (rmwCounter s (slotKey q.place) u c op)
       | r =>
         if tableHeld s r 8 then s
         else gated s i q r true fun s =>
           match s.keyOf q.loc.unit r with
           | some k => finish (rmwWord s (slotKey q.place) k op)
           | none => nackPkt s i q 5)
    | _ => s

/-- REDUCTION_UPDATE (R280, R330 to R332): a plain update or a contribution to a group; an update that meets a bad word is discarded and still
acknowledged. -/
def execReductionUpdate (s : State) : Host.Outcome State Fault Refusal :=
  serving s fun s i q =>
    match q.body with
    | .red op dbl group x v =>
      if tableHeld s q.rng (if dbl then 8 else 4) then s
      else gated s i q q.rng true fun s => answerPkt (reduceHome s q.loc.unit q.rng op dbl group x v) i q 0x18 0 .ack
    | _ => s

/-- EXPLICIT_MESSAGE (R116, R403): a type-1 mailbox entry, or BUSY. -/
def execExplicitMessage (s : State) : Host.Outcome State Fault Refusal :=
  serving s fun s i q =>
    match q.body, q.rng with
    | .message pay, .core u c _ _ =>
      if (s.core u c).mailRoom = 0 then nackPkt s i q 4
      else
        let b := pay ++ List.replicate 16 0
        answerPkt (postMail s u c [pack [(0, 1), (16, q.src)], q.info, word64 (b.take 8), word64 ((b.drop 8).take 8)] false) i q 0x18 0 .ack
    | .message pay, .page u c _ =>
      if (s.core u c).mailRoom = 0 then nackPkt s i q 4
      else
        let b := pay ++ List.replicate 16 0
        answerPkt (postMail s u c [pack [(0, 1), (16, q.src)], q.info, word64 (b.take 8), word64 ((b.drop 8).take 8)] false) i q 0x18 0 .ack
    | .message _, _ => nackPkt s i q 1
    | _, _ => s

/-- EXPLICIT_STORE (R403): the payload is written at DEST on path LS, in ascending order, and acknowledged; with `arg.flag2` only its next 8 bytes are written
(R190). -/
def execExplicitStore (s : State) : Host.Outcome State Fault Refusal :=
  serving s fun s i q =>
    match q.body with
    | .bulk pay =>
      let j := ((List.range ((pay.length + 7) / 8)).find? fun j => !q.gone.testBit j).getD 0
      if tableHeld s q.rng pay.length then s
      else
        match (if s.arg.flag2 then morePieces 8 q.gone pay.length j else none) with
        | some g => { writeAt s q.loc.unit .ls (q.rng.add (8 * j)) (pieceBytes 8 pay j) with pkts := s.pkts.set i { q with gone := g } }
        | none => answerPkt (writeRest s q.loc.unit .ls q.rng pay 8 q.gone) i q 0x18 0 .ack
    | _ => s

/-- MISS_MESSAGE (R158, R159): appended to the miss queue of a service core, or answered BUSY. -/
def execMissMessage (s : State) : Host.Outcome State Fault Refusal :=
  serving s fun s i q =>
    match q.body, q.rng with
    | .miss ws, .page u c _ =>
      let x := s.core u c
      if 64 ≤ (x.mqhead - x.mqtail).toNat then nackPkt s i q 4
      else
        answerPkt (s.modCore u c fun x => { x with missq := Tbl.set x.missq (x.mqhead.toNat % 64) ws, mqhead := x.mqhead + 1 }) i q 0x18 0 .ack
    | _, _ => s

/-- LAUNCH_RECORD_ARRIVAL (R240, R406): the record of a `launch` is stamped and queued, or the launch waits while the queue is full; a record
that a context lost since has made invalid is refused. -/
def execLaunchRecordArrival (s : State) : Host.Outcome State Fault Refusal :=
  serving s fun s i q =>
    match q.body, q.rng with
    | .record ws, .bedCtl b _ _ =>
      let pr := bits (ws.getD 0 0).toNat 5 4
      let l := Tbl.get [] (s.bed b).lq pr
      if killing s b (BitVec.ofNat 12 ((ws.getD 0 0).toNat / 256)) then answerPkt s i q 0x18 0 .ack
      else if 16 ≤ l.length then nackPkt s i q 4
      else
        answerPkt (s.modBed b fun d => { d with placing := true, lq := Tbl.set d.lq pr (l ++ [{ words := ws, arrts := s.ts, blk := false, victims := [] }]) })
          i q 0x18 0 .ack
    | _, _ => s

/-! ### Store buffers (R192) -/

/-- Whether the write of a `st.rel` has earlier buffered stores of its thread, within its scope, ahead of it (R195). -/
def relHeld (s : State) (p : Place) (e : SbEntry) (before : List SbEntry) : Bool :=
  match e.rel with
  | some sc => before.any fun b => b.slot == e.slot && rngCovered s p sc b.rng
  | none => false

/-- Whether the store at `e` may leave while `before` stand unacknowledged: they took the same route entry, at the same value. -/
def sameWay (s : State) (p : Place) (e : SbEntry) (before : List SbEntry) : Bool :=
  let ix := s.routeIx p.unit e.rng
  before.all fun b => b.sent == some (ix, (s.routeEntry p.unit p.core ix).raw)

/-- Mark a slot to park on a route entry at its next boundary, while a thread stands in it (R92, R332). -/
def parkLater (s : State) (p : Place) (n : Nat) : State :=
  s.modSlot p fun x => if x.st = .run ∨ x.st = .wait then { x with parkAt := some n } else x

/-- Send buffered store number `j`. -/
def sendStore (s : State) (p : Place) (j : Nat) (e : SbEntry) : State :=
  let ix := s.routeIx p.unit e.rng
  let q := { mkPkt s p 1 1 e.rng.la (.store e.bytes false) with rstamp := s.stampFor p.unit e.rng }
  match inject s p e.rng q with
  | .park s => parkLater s p ix
  | .sent s =>
    (s.modCoreAt p fun c => { c with sbuf := c.sbuf.set j { e with sent := some (ix, (s.routeEntry p.unit p.core ix).raw), id := q.id } }).tick

/-- STORE_BUFFER_DRAIN (R54, R55, R190, R192, R195): the oldest store that has not left is performed in the core's own memory or sent to its home; with `arg.flag` only
its 16-byte piece `arg.index` is written.  While a refill of the code table writes, which stands in the core's store order, nothing behind it leaves. -/
def execStoreBufferDrain (s : State) : Host.Outcome State Fault Refusal :=
  let b := (s.core s.arg.unit s.arg.core).sbuf
  match b.findIdx? fun e => e.sent.isNone with
  | none => .next s
  | some j =>
    match b[j]? with
    | none => .next s
    | some e =>
      let p : Place := ⟨s.arg.unit, s.arg.core, e.slot⟩
      let s := { s with maker := .thread (s.slot p).name.toNat }
      if (s.core s.arg.unit s.arg.core).ctBusy.isSome ∨ relHeld s p e (b.take j) then .next s
      else if ownRange p e.rng then
        (if 0 < j ∨ tableHeld s e.rng e.bytes.length then .next s
         else
           match (if s.arg.flag then morePieces 16 e.gone e.bytes.length s.arg.index else none) with
           | some g =>
             let i := s.arg.index
             .next (writeAt (s.modCoreAt p fun c => { c with sbuf := c.sbuf.set 0 { e with gone := g } }) p.unit .ls (e.rng.add (16 * i)) (pieceBytes 16 e.bytes i))
           | none =>
           let s := s.modCoreAt p fun c => { c with sbuf := c.sbuf.eraseIdx 0 }
           .next (wakeCore (writeRest s p.unit .ls e.rng e.bytes 16 e.gone) p.unit p.core fun w => w == .drain))
      else if sameWay s p e (b.take j) then .next (sendStore s p j e)
      else .next s

/-! ### Refills (R54, R58) -/

/-- CTLOAD_REFILL (R54): a store of GO with KIND `arg.aux`. -/
def execCtloadRefill (s : State) : Host.Outcome State Fault Refusal :=
  if s.arg.unit < 12 then .next (ctloadStore s s.arg.unit s.arg.core (pack [(0, 1), (1, s.arg.aux % 4)])) else .next s

/-- Write entries from `pos` on of the code table with the defaults of a kind (R54). -/
def refillTable (s : State) (unit core kind : Nat) : Nat → Nat → State
  | 0, _ => s
  | n + 1, pos =>
    refillTable (s.put .ls (coreKey unit core (0xFC800 + 4 * pos)) (bytesOf 4 (defaultCode kind pos))) unit core kind n (pos + 1)

/-- CTLOAD_REFILL_COMPLETE (R54, R55): the refill writes its next `arg.aux` entries, or with 0 all that are left, once no decode is in progress; BUSY
clears after entry 255. -/
def execCtloadRefillComplete (s : State) : Host.Outcome State Fault Refusal :=
  let u := s.arg.unit
  let c := s.arg.core
  match (s.core u c).ctBusy with
  | none => .next s
  | some (kind, pos) =>
    if (s.core u c).mx.reading then .next s
    else
      let n := if s.arg.aux = 0 then 256 - pos else min s.arg.aux (256 - pos)
      let s := refillTable s u c kind n pos
      let s := s.modCore u c fun x => { x with ctBusy := if pos + n < 256 then some (kind, pos + n) else none }
      .next (wakeCore s u c fun w => w == .queue || w == .matrix)

/-- A line of a core's instruction cache leaves it (R58, R61). -/
def evictLine (s : State) (unit core line : Nat) : State := s.modCore unit core fun c => { c with icache := Tbl.erase c.icache line }

/-- ICACHE_REFILL (R58, R61): packet `arg.index` answers a refill, which fills the line or makes the fetch take the data-error trap, unless an `isync` has come between
(R335); with `arg.flag` line
`arg.aux` of a core leaves the cache to make room.  A refill from the core's own memory is part of its fetch. -/
def execIcacheRefill (s : State) : Host.Outcome State Fault Refusal :=
  if s.arg.flag then .next (evictLine s s.arg.unit s.arg.core s.arg.aux)
  else
    match s.pkts[s.arg.index]? with
    | none => .next s
    | some q =>
      let p := q.place
      let line := locKey q.rng / 64
      if q.resp = false ∨ q.loc.delivered = false ∨ q.kind ≠ 0x19 ∨ q.req.2.2 ≠ .load 64 true then .next s
      else
        let s := dropPkt s s.arg.index
        if q.gone ≠ 0 then .next (wakeCore s p.unit p.core fun w => w == .refill line)
        else
        match q.body with
        | .data bs => .next (wakeCore (fillLine s p.unit p.core line bs) p.unit p.core fun w => w == .refill line)
        | .bad =>
          .next (s.modSlot p fun x => if x.wait = some (.refill line) then { x.wake with resp := .bad :: x.resp } else x)
        | _ => .next s

/-! ### Soft errors and the scrubber (R61 to R64, R186) -/

/-- Whether a key names a byte of local, rim-core, vault or HBM memory. -/
def storageKey (k : Nat) : Bool :=
  if isHbm k then decide (k / 2 ^ 36 % 16 < 12)
  else if isBedCore k then decide (k % 2 ^ 24 < 2 ^ 20)
  else if isRimCore k then decide (k / 2 ^ 28 % 2 ^ 16 < 6 ∧ k / 2 ^ 20 % 256 < 32 ∧ k % 2 ^ 20 < 0x40000)
  else if isVault k then decide (k % 2 ^ 36 < 2 ^ 31 + 2 ^ 30)
  else false

/-- How many of the units a code corrects one of are hit: bits of a word, or bytes of an HBM granule (R61, R186). -/
def errorWeight (hbm : Bool) (v : Word) : Nat :=
  if hbm then ((List.range 8).filter fun k => v.toNat / 2 ^ (8 * k) % 256 != 0).length
  else ((List.range 64).filter fun k => v.getLsbD k).length

/-- Mark an error at a key, with the bit or symbol it hits unless it cannot be corrected: a second one under the same code cannot be, but for one in the same HBM
symbol (R61, R186). -/
def addError (s : State) (k : Nat) (hit : Option Nat) : State :=
  let now := match errOf s k with
    | none => hit
    | some old => if isHbm k ∧ old = hit then hit else none
  let t := clearErr s (codeBase k)
  { t with errs := t.errs ++ [(codeBase k, now)] }

/-- The one bit of a word, or symbol of an HBM granule, that a flip of the bits `v` of a doubleword hits; none if it hits more (R61, R186). -/
def errorHit (k : Nat) (v : Word) (other : Bool) : Option Nat :=
  let hbm := isHbm k
  let n := errorWeight hbm v
  if n + b2n other ≠ 1 then none
  else if other then some 64
  else if hbm then ((List.range 8).find? fun i => v.toNat / 2 ^ (8 * i) % 256 != 0).map fun i => k % 64 / 8 * 8 + i
  else (List.range 64).find? fun i => v.getLsbD i

/-- SOFT_ERROR (R61): bits `arg.v` of the word at key `arg.index` flip, `arg.flag` for its tag or check bits as well; with `arg.flag2` the parity of line
`arg.index` of an instruction cache fails, which discards the line and is counted. -/
def execSoftError (s : State) : Host.Outcome State Fault Refusal :=
  let k := s.arg.index
  if s.arg.flag2 then
    (if (Tbl.look (s.core s.arg.unit s.arg.core).icache k).isSome then
       .next ((evictLine s s.arg.unit s.arg.core k).modCore s.arg.unit s.arg.core fun c => { c with cecnt := sat16 c.cecnt })
     else .next s)
  else
    let n := errorWeight (isHbm k) s.arg.v + b2n s.arg.flag
    if storageKey k = false ∨ n = 0 then .next s else .next (addError s k (errorHit k s.arg.v s.arg.flag))

/-- SCRUB_READ (R62 to R64, R186): the word at key `arg.index` is read; a single-bit error is corrected, an uncorrectable one is reported. -/
def execScrubRead (s : State) : Host.Outcome State Fault Refusal :=
  let k := s.arg.index / 8 * 8
  match errOf s k with
  | none => .next s
  | some none => .next (meetBad s k)
  | some _ => .next (correct s k 8)

/-! ### Paths (R200) -/

/-- PERFORMED_FOR_PATH (R200): writes of path `arg.unit` become performed for path `arg.core`, with `arg.flag` only the one numbered `arg.index`.  What waits for it
looks again, and rings whose slots are now whole for MX advance (R375). -/
def execPerformedForPath (s : State) : Host.Outcome State Fault Refusal :=
  let ps : List Path := [.ls, .ce, .mx, .se, .ge, .xp, .hp]
  match ps[s.arg.unit]?, ps[s.arg.core]? with
  | some w, some r =>
    let s := performFor s fun l => l.writer == w && l.reader == r && (!s.arg.flag || l.id == s.arg.index)
    .next (wakeDrains (s.cores.foldl (fun t e => feedRings t (e.1 / 128) (e.1 % 128)) s))
  | _, _ => .next s

end Sys2Proof.Machine
end

