-- ==== Sys2Proof/Machine/Stash.lean ====
section
/-! DEFINITION. Stash commands at issue: `stash.open`, `stash`, `restore` and `stash.stat` (R133 to R137, R396 to R398). -/

namespace Sys2Proof.Machine

/-- A stash command block (R133). -/
structure StashBlk where
  pa : Word
  region : Word
  loc : Word
  w2 : Nat
  w3 : Nat
deriving DecidableEq, Repr, Inhabited

def StashBlk.engU (b : StashBlk) : Nat := bits b.w2 11 7
def StashBlk.first (b : StashBlk) : Nat := bits b.w3 31 0
def StashBlk.count (b : StashBlk) : Nat := bits b.w3 63 32
def StashBlk.fifoV (b : StashBlk) : Bool := b.w2.testBit 16
def StashBlk.crte (b : StashBlk) : Option Nat := if b.w2.testBit 30 then some (bits b.w2 39 32) else none

/-- Read the block (R134 step 1). -/
def readStash (s : State) (pa : Word) (f : State → StashBlk → Res) : Res :=
  readCommand s pa 32 fun s bs =>
    f s { pa := pa, region := BitVec.ofNat 64 (wordAt bs 0), loc := BitVec.ofNat 64 (wordAt bs 1), w2 := wordAt bs 2, w3 := wordAt bs 3 }

/-- The width of an input format in bytes: FP32, BF16, FP16 (R128). -/
def fmtBytes (f : Nat) : Nat := if f = 0 then 4 else 2

/-- The code width of an encoding (R127). -/
def codeBits (e : Nat) : Nat := if e = 0 then 8 else if e = 1 then 6 else if e = 2 then 4 else 3

/-- Bytes of a block (R127). -/
def blockBytes (e : Nat) : Nat := 1 + 4 * codeBits e

/-- Whether a fixed-map address names a range that a test refuses. -/
def fixedFails (p : Place) (pa : Word) (f : Rng → Bool) : Bool := fixedMap pa && f (fixedRng p pa)

/-- Whether a range is HBM; whether it is RAW or FUTURE of a core or rim core. -/
def Rng.isHbm : Rng → Bool
  | .hbm _ => true
  | _ => false
def Rng.isLocal : Rng → Bool
  | .core _ _ w _ => w ≤ 1
  | _ => false

/-- The route entries a stash command names: its command route, its legs to HBM and DRTE (R133). -/
def StashBlk.entries (b : StashBlk) : List Nat :=
  commandIx b.crte b.engU :: (if b.w2.testBit 48 then [0x700 + bits b.w2 47 40] else []) ++
    (if b.w2.testBit 57 then (List.range 6).map (0x700 + bits b.w2 56 49 + ·) else [])

/-- Whether a needed leg or route entry is missing (check 3 of R396): the command route, the leg to the header's die, and DRTE to LOCAL. -/
def StashBlk.legMissing (b : StashBlk) (s : State) (useLoc : Bool) : Bool :=
  let p := s.cur.place
  let base := bits b.w2 56 49
  let hdr := fixedFails p b.region fun r => r.isHbm && !s.engineDirect b.engU r &&
    (let k := s.legOf b.engU r true
     !(b.w2.testBit 57 && decide (base + k < 256) && s.entryOk (0x700 + base + k)))
  let loc := useLoc && fixedFails p b.loc fun r => !s.engineDirect b.engU r && !(b.w2.testBit 48 && s.entryOk (0x700 + bits b.w2 47 40))
  !s.commandRouteOk b.crte b.engU || hdr || loc

/-- The checks of `stash.open` on its image, 4 to 7 of R396; a BOUND of -0 is not negative (DESIGN CHOICE, assumption 170). -/
def openRefused (p : Place) (region i0 i1 : Word) : Option Nat :=
  let n := i1.toNat % 2 ^ 32
  let bytes := 64 + (n + 31) / 32 * blockBytes (bits i0.toNat 17 16)
  let last := region + BitVec.ofNat 64 (bytes - 1)
  if bits i0.toNat 19 18 = 3 ∨ 2 ≤ bits i0.toNat 22 21 then some 4
  else if n = 0 then some 5
  else if (match fp32.decode (i1.toNat / 2 ^ 32) with
      | .fin neg m _ => neg && m != 0
      | _ => true) then some 6
  else if fixedMap region && !(fixedMap last && bits last.toNat 59 52 == 0 && (fixedRng p last).isHbm) then some 7
  else none

/-- The checks of R134 and R396 on a command; `al` is LOCAL's alignment, `use` whether LOCAL is used, `img` the image of `stash.open`. -/
def StashBlk.refused (b : StashBlk) (s : State) (op : CmdOp) (use : Bool) (img : Option (Word × Word)) : Option Nat :=
  let p := s.cur.place
  if isUnit b.engU = false ∨ b.engU < 16 then some 1
  else if b.first % 32 ≠ 0 then some 2
  else if b.legMissing s (use && op != .stashOpen) then some 3
  else
    match img.bind fun i => openRefused p b.region i.1 i.2 with
    | some n => some n
    | none =>
      if fixedFails p b.region fun r => !r.isHbm then some 8
      else if use && fixedFails p b.loc fun r => !r.isLocal then some 9
      else none

/-- The command of a checked block. -/
def StashBlk.cmd (b : StashBlk) (s : State) (op : CmdOp) (reg : Option (List Byte)) (img : Word × Word) (range : Option (Word × Word)) : Cmd :=
  let p := s.cur.place
  let fifo := if b.fifoV ∧ reg.isNone then some (bits b.w2 15 12) else none
  { op := op, words := (BitVec.ofNat 64 b.w2, BitVec.ofNat 64 b.w3), place := p, ownMod := s.moduleNo.toNat, ctx := s.ctx.toNat, chan := bits b.w2 3 0, engUnit := b.engU, engIx := bits b.w2 6 4,
    src := none, dst := none, sfifo := if op = .stash then fifo else none, dfifo := if op = .restore then fifo.map fun n => (b.engU, n) else none,
    ddesc := 0, bar := if b.w2.testBit 28 then some (bits b.w2 27 17) else none, ck := 0, first := false, last := false, expect := 0,
    dleg := if b.w2.testBit 48 then some (0x700 + bits b.w2 47 40) else none,
    legBase := if b.w2.testBit 57 then some (0x700 + bits b.w2 56 49) else none, cmdEntry := commandIx b.crte b.engU,
    region := resolveBase p b.region, loc := resolveBase p b.loc, firstEl := b.first, count := b.count, ofmt := b.w2.testBit 29, regData := reg,
    image := img, range := range, carry := 0, legs := [], mod := if b.crte.isNone then some s.moduleNo.toNat else none }

/-- The addresses a command names are checked under R31. -/
def stashAddresses (s : State) (b : StashBlk) (use : Bool) (f : State → Res) : Res :=
  if commandRefused s s.cur.place b.region then .trap s (Trap.of 5 0 b.region)
  else if use ∧ commandRefused s s.cur.place b.loc then .trap s (Trap.of 5 0 b.loc)
  else f s

/-- The alignment checks of R134 step 2. -/
def stashAligned (s : State) (b : StashBlk) (use : Bool) (al : Nat) (f : State → Res) : Res :=
  if b.region.toNat % 64 ≠ 0 then .trap s (Trap.of 4 0 b.region)
  else if use ∧ b.loc.toNat % al ≠ 0 then .trap s (Trap.of 4 0 b.loc)
  else f s

/-- Go on with a command whose checks pass. -/
def stashChecked (s : State) (b : StashBlk) (op : CmdOp) (use : Bool) (img : Option (Word × Word)) (f : State → Res) : Res :=
  readingRoutes s b.entries fun s =>
    match b.refused s op use img with
    | some n => blockError s n b.pa
    | none => f s

/-- STASH_OPEN (R134, R396): the image of header words 0 and 1 is read at issue; one that LOCAL cannot name is not read, and takes the descriptor error of LOCAL (R45)
unless a check that needs no image fails first. -/
def execStashOpen (a : BitVec 5) (s : State) : Host.Outcome State Fault Refusal :=
  word (.stashOpen a) s fun s => s.outsideBlock 5 fun s =>
    readStash s (s.opG a) fun s b =>
      stashAddresses s b true fun s =>
        stashAligned s b true 8 fun s =>
         if fixedFails s.cur.place b.loc fun r => !r.isLocal then stashChecked s b .stashOpen true none fun s => blockError s 9 b.pa
         else
          accessing s b.loc 8 8 .load false fun s x => loadBytes s x 8 fun s lo =>
            accessing s (b.loc + 8) 8 8 .load false fun s y => loadBytes s y 8 fun s hi =>
              let img := (word64 lo, word64 hi)
              stashChecked s b .stashOpen true (some img) fun s => queueCommand s (b.cmd s .stashOpen none img none)

/-- The input of a `stash` is read after every earlier store of the thread: those writes become performed for SE (R137). -/
def stashInput (s : State) (b : StashBlk) (f : State → Res) : Res :=
  let p := s.cur.place
  if (s.coreAt p).sbuf.any (fun e => e.slot == p.slot) ∨ s.here.ntOut ≠ [] then .wait s .drain true
  else
    let hit := fun (k : Nat) => match fixedMap b.loc, fixedRng p b.loc with
      | true, .core u c _ off => decide (coreKey u c off ≤ k ∧ k < coreKey u c off + 4 * b.count)
      | true, _ => false
      | false, _ => true
    f (performFor s fun l => l.writer == .ls && l.reader == .se && hit l.key)

/-- STASH from memory or a FIFO (R134, R136, R396). -/
def execStash (a : BitVec 5) (s : State) : Host.Outcome State Fault Refusal :=
  word (.stash a) s fun s => s.outsideBlock 5 fun s =>
    readStash s (s.opG a) fun s b =>
      let use := !b.fifoV
      stashAddresses s b use fun s =>
        stashAligned s b use 2 fun s =>
          stashChecked s b .stash use none fun s =>
            if use then stashInput s b fun s => queueCommand s (b.cmd s .stash none (0, 0) none)
            else queueCommand s (b.cmd s .stash none (0, 0) none)

/-- STASH_REG: the register form carries v[D] and v[D + 1] (R397). -/
def execStashReg (v : BitVec 4) (a : BitVec 5) (s : State) : Host.Outcome State Fault Refusal :=
  word (.stashReg v a) s fun s => s.outsideBlock 5 fun s =>
    readStash s (s.opG a) fun s b =>
      stashAddresses s b false fun s =>
        stashAligned s b false 2 fun s =>
          stashChecked s b .stash false none fun s =>
            let d : BitVec 5 := v.zeroExtend 5 * 2
            let bs := bytesOf 64 (s.opV d).toNat ++ bytesOf 64 (s.opV (d + 1)).toNat
            queueCommand s (b.cmd s .stash (some bs) (0, 0) none)

/-- The header words a probe's answer brought (R135). -/
def probeOf (rs : List Resp) : Option (Word × Word × Word × Word) :=
  rs.findSome? fun
    | .probe a b c d => some (a, b, c, d)
    | _ => none

/-- The unit address of an engine, which DEST of its packets names (R123): its status register. -/
def engineAddr (unit kind ix : Nat) : Nat :=
  if unit < 12 then unit * 2 ^ 36 + 3 * 2 ^ 30 + 5 * 2 ^ 16 + 16 * ix
  else 0x1F * 2 ^ 44 + (unit - 16) * 2 ^ 28 + 2 ^ 27 + (1 + kind) * 2 ^ 24 + 16 * ix

/-- The legs to HBM of a block, as the core reads them: number, string, lane. -/
def StashBlk.legs (b : StashBlk) (s : State) (p : Place) : List (Nat × BitVec 256 × Nat) :=
  let base := 0x700 + bits b.w2 56 49
  if b.w2.testBit 57 then
    ((List.range 6).filter fun k => decide (base + k < 0x800) && s.entryOk (base + k)).map fun k =>
      (k, s.routeString p.unit p.core (base + k), (s.routeEntry p.unit p.core (base + k)).lane)
  else []

/-- Send a probe on the command route and go on with its answer (R135). -/
def probing (s : State) (b : StashBlk) (f : State → Word × Word × Word × Word → Res) : Res :=
  match probeOf s.here.resp with
  | some w => f s w
  | none =>
    let p := s.cur.place
    let legs := b.legs s p
    let q := mkPkt s p 5 (1 + legs.length) (engineAddr b.engU 1 (bits b.w2 6 4)) (.probe (resolveBase p b.region) s.ctx.toNat s.moduleNo.toNat legs)
    let ix := commandIx b.crte b.engU
    match (if b.crte.isNone ∧ p.unit = b.engU then .sent (injectLocal s q (.atRim (b.engU - 16) none)) else injectOn s p ix q) with
    | .park s => .wait s (.route ix) true
    | .sent s => .wait s.tick (.answer q.id false) true

/-- RESTORE (R134, R135, R396): the probe comes first; the range of an OFMT 1 restore takes the width of the header's INFMT, and of a reserved
INFMT no rule states a width, so that it is free. -/
def execRestore (a : BitVec 5) (s : State) : Host.Outcome State Fault Refusal :=
  word (.restore a) s fun s => s.outsideBlock 5 fun s =>
    readStash s (s.opG a) fun s b =>
      let use := !b.fifoV
      let ofmt := b.w2.testBit 29
      stashAddresses s b use fun s =>
        stashAligned s b use (if ofmt then 2 else 4) fun s =>
          stashChecked s b .restore use none fun s =>
            probing s b fun s w =>
              if bits w.1.toNat 22 21 = 1 ∧ w.2.2.1 ≠ 0 then .trap s ⟨17, 0, b.region, w.2.2.1, 0⟩
              else
                let fm := bits w.1.toNat 19 18
                let fm := if fm = 3 then (Config.freeWord s.free).toNat % 3 else fm
                let wide := if ofmt then fmtBytes fm else 4
                let range := if use ∧ b.count ≠ 0 then some (b.loc, b.loc + BitVec.ofNat 64 (b.count * wide)) else none
                queueCommand s.tick (b.cmd s .restore none (0, 0) range)

/-- STASH_STAT (R398). -/
def execStashStat (d : BitVec 5) (a : BitVec 5) (n : BitVec 2) (s : State) : Host.Outcome State Fault Refusal :=
  word (.stashStat d a n) s fun s => s.outsideBlock 5 fun s =>
    readStash s (s.opG a) fun s b =>
      stashAddresses s b false fun s =>
        stashAligned s b false 2 fun s =>
          if isUnit b.engU = false ∨ b.engU < 16 then blockError s 1 b.pa
          else if b.legMissing s false then blockError s 3 b.pa
          else if fixedFails s.cur.place b.region fun r => !r.isHbm then blockError s 8 b.pa
          else
            probing s b fun s w =>
              .ok (s.setG d (if n = 0 then w.2.2.1 else if n = 1 then w.2.2.2 &&& 0xFFFFFFFF else w.1))

end Sys2Proof.Machine
end

