-- ==== Sys2Proof/Machine/Engine.lean ====
section
/-! DEFINITION. Engines: what copy engines, stash encoders and graft units share.  Translation and its limits (R121, R122), legs and placement (R105,
R181, R182), reads and writes (R123), the armed stream fault (R456), and how a command ends (R114, R122). -/

namespace Sys2Proof.Machine

/-- An engine: its unit, kind (0 copy engine, 1 stash encoder, 2 graft unit) and index (R159). -/
structure Eng where
  unit : Nat
  kind : Nat
  ix : Nat
deriving DecidableEq, Repr, Inhabited

/-- Whether the module has the engine (R103, R133, R138, R148). -/
def Eng.ok (e : Eng) : Bool :=
  if e.kind = 0 then (decide (e.unit < 12 ∧ e.ix < 4) || decide (16 ≤ e.unit ∧ e.unit < 22 ∧ e.ix < 16))
  else if e.kind = 1 then decide (16 ≤ e.unit ∧ e.unit < 22 ∧ e.ix < 8)
  else e.kind == 2 && decide (e.unit < 12 ∧ e.ix = 0)

def State.eng (s : State) (e : Eng) : Engine := s.engine e.unit e.kind e.ix
def State.setEng (s : State) (e : Eng) (x : Engine) : State := s.setEngine e.unit e.kind e.ix x
def State.modEng (s : State) (e : Eng) (f : Engine → Engine) : State := s.setEng e (f (s.eng e))

/-- Every engine of the module. -/
def allEngines : List Eng :=
  (List.range 12).flatMap (fun b => (List.range 4).map fun i => ⟨b, 0, i⟩) ++
  (List.range 6).flatMap (fun r => (List.range 16).map fun i => ⟨16 + r, 0, i⟩) ++
  (List.range 6).flatMap (fun r => (List.range 8).map fun i => ⟨16 + r, 1, i⟩) ++ (List.range 12).map fun b => ⟨b, 2, 0⟩

/-- The engine that waits for an answer. -/
def engineOf (s : State) (id : Nat) : Option Eng :=
  allEngines.find? fun e =>
    let x := s.eng e
    x.rd.map (·.1) == some id || x.ent.map (·.1) == some id || x.outs.any fun o => o.1 == id

/-- What makes an engine's writes: its active command (R201). -/
def Engine.maker (x : Engine) : Maker :=
  match x.active with
  | some q => .command q.id
  | none => .other

/-- The access path of an engine (R188). -/
def Eng.path (e : Eng) : Path := if e.kind = 0 then .ce else if e.kind = 1 then .se else .ge

/-- Where an engine's packets enter the fabric: place and injection port (R77). -/
structure Port where
  loc : Loc
  iport : Nat
deriving DecidableEq, Repr, Inhabited

/-- The port of a copy engine or encoder. -/
def Eng.port (e : Eng) : Port :=
  if e.unit < 12 then (let (x, y) := coreXY e.unit e.ix; ⟨.router x y, 1⟩) else ⟨.rim (e.unit - 16), 2⟩

/-- The command an engine executes. -/
def Engine.cmd (e : Engine) : Option Cmd :=
  match e.active with
  | some q => (match q.body with
    | .cmd c => some c
    | _ => none)
  | none => none

/-- What a part of an engine's work came to. -/
inductive Tried (α : Type) where
  | ok (s : State) (a : α)
  /-- Not yet: an answer, a fill, room or the end of a freeze is awaited. -/
  | wait (s : State)
  /-- The command ends: status, FADDR and NACK INFO (R122). -/
  | err (s : State) (status : Nat) (fa info : Word)

def Tried.bind {α β : Type} (t : Tried α) (f : State → α → Tried β) : Tried β :=
  match t with
  | .ok s a => f s a
  | .wait s => .wait s
  | .err s n a i => .err s n a i

/-! ### Translation (R121) and limits (R122) -/

/-- A program address of a command as module and range: the fixed map on the issuer's module or XMOD, else by the engine's TLB. -/
def engAt (s : State) (e : Eng) (c : Cmd) (xmod : Option Nat) (pa : Word) (write : Bool) : Tried (Nat × Rng) :=
  if fixedMap pa then
    if bits pa.toNat 59 52 ≠ 0 ∨ isSelfAlias (pa.toNat % 2 ^ 52) then .err s 4 pa 0
    else .ok s (xmod.getD c.ownMod, decodeLa 31 0 (pa.toNat % 2 ^ 52))
  else
    match tlbLookup (s.eng e).tlb c.ownMod (BitVec.ofNat 12 c.ctx) pa with
    | some (i, t) =>
      if (if write then t.wr else t.rd) = false then .err s 3 pa 0
      else
        let s := s.modEng e fun x => { x with tlb := Tbl.set x.tlb i { t with hot := min (t.hot + 1) 255 } }
        let sa := (t.addr pa).toNat
        if isSelfAlias (sa % 2 ^ 52) then .err s 4 pa 0 else .ok s (sa / 2 ^ 52, decodeLa 31 0 (sa % 2 ^ 52))
    | none =>
      if (s.eng e).miss.isSome then .wait s else .wait (s.modEng e fun x => { x with miss := some (pa, write, none) })

/-- Whether a range is memory an engine may reach: RAW or FUTURE of a core, a vault, HBM or the host window (R122). -/
def Rng.engine : Rng → Bool
  | .core _ _ w _ => w ≤ 1
  | .vault _ _ _ => true
  | .hbm _ => true
  | .host _ => true
  | _ => false

/-- The RANGE test of a tensor's byte against its first one (R122). -/
def rangeOk (key : Option (Nat × Rng)) (m : Nat) (r : Rng) : Bool :=
  r.engine && (match key with
    | some (m', r') => m == m' && sameRange r' r
    | none => true)

/-! ### Sending (R105, R123, R181) -/

/-- A request of an engine before injection (R78). -/
def engPkt (s : State) (e : Eng) (t : Port) (kind len : Nat) (r : Rng) (m : Nat) (info : Word) (b : Body) (id : Nat) : Pkt :=
  { mkPkt s ⟨e.unit, 0, 0⟩ kind len r.la b with iport := t.iport, dmod := m, info := info, loc := t.loc, id := id }

/-- The leg and stamp of an access (R105, R133): none where its region has no placement. -/
def engLeg (s : State) (e : Eng) (m : Nat) (r : Rng) (write : Bool) : Option (Nat × Word) :=
  match r with
  | .hbm off =>
    if m = s.moduleNo.toNat then (s.hbmPlace e.unit off).map fun p => (p.2.1 / 2, p.1.stamp)
    else
      match (s.eng e).foreign.find? fun f => f.1 == m && f.2.1 == off / regionSize with
      | none => some (0, 0)
      | some (_, _, g) => if g.mode = 3 then none else some ((placeHbm g (off % regionSize)).1 / 2, g.stamp)
  | .host _ => some (6, 0)
  | _ => some (if write || e.kind == 1 then 8 else 7, 0)

/-- Put a request on its leg: an empty leg is status ROUTE, a region without placement RANGE.  A leg whose string is refused at injection is no leg (R89;
DESIGN CHOICE, assumption 163).  A request that a moved region has brought to the engine's
own die stays there (R77). -/
def engInject (s : State) (e : Eng) (c : Cmd) (q : Pkt) (r : Rng) (write : Bool) (pa : Word) : Tried Unit :=
  match engLeg s e q.dmod r write with
  | none => .err s 4 pa 0
  | some (k, st) =>
    if q.dmod = s.moduleNo.toNat ∧ s.engineDirect e.unit r then
      .ok (injectLocal s { q with rstamp := st, route := 0, route0 := 0, hop := 0 } (.atRim (e.unit - 16) none)) ()
    else
      match c.legs.find? fun l => l.1 == k && (routeRefused (decide (16 ≤ e.unit)) false l.2.1).isNone with
      | none => .err s 2 pa 0
      | some (_, str, lane) =>
        .ok { s with pkts := s.pkts ++ [{ q with rstamp := st, route := str, route0 := str, lane := lane, lane0 := lane, hop := 0 }] } ()

/-! ### Reading -/

/-- The XOR of an armed stream fault on bytes read at a range, and the engine without it once it has struck (R456).  A word that the engine reads in pieces is one read
of it: until its last byte has been read the fault stands at the byte that comes next, and a read of anything else ends it (assumption 192). -/
def strike (s : State) (e : Eng) (m : Nat) (r : Rng) (bs : List Byte) : State × List Byte :=
  match (s.eng e).armed with
  | none => (s, bs)
  | some (sa, mask) =>
    let done := sa.toNat % 4
    let word := sa - BitVec.ofNat 64 done
    let k := locKey (decodeLa 31 0 (word.toNat % 2 ^ 52))
    let a := locKey r
    let next := a + bs.length - k
    if word.toNat / 2 ^ 52 = m ∧ meets k 4 a bs.length ∧ (done = 0 ∨ a = k + done ∨ a + 1 = k + done) then
      (s.modEng e fun x => { x with armed := if next < 4 then some (word + BitVec.ofNat 64 next, mask) else none },
       (List.range bs.length).map fun i =>
         let b := bs.getD i 0
         if k ≤ a + i ∧ a + i < k + 4 then b ^^^ BitVec.ofNat 8 (mask.toNat / 2 ^ (8 * (a + i - k))) else b)
    else (if done = 0 then s else s.modEng e fun x => { x with armed := none }, bs)

/-- Bytes of a range of this module at its home, or none when a word is bad. -/
def takeRange (s : State) (unit : Nat) (q : Path) (r : Rng) (n : Nat) : State × Option (List Byte) :=
  match s.keyOf unit r with
  | some k => s.take q k n
  | none => (s, some (List.replicate n 0))

/-- Read `n` bytes at a program address whose module and range are known, within one 64-byte block: directly (R103), or by a request (R123). -/
def engRead (s : State) (e : Eng) (t : Port) (c : Cmd) (pa : Word) (m : Nat) (r : Rng) (n : Nat) : Tried (List Byte) :=
  match (s.eng e).got.find? fun g => g.1 == pa.toNat && g.2.length == n with
  | some g => .ok s g.2
  | none =>
    if (s.eng e).rd.isSome then .wait s
    else if m = s.moduleNo.toNat ∧ s.engineDirect e.unit r then
      match takeRange s e.unit e.path r n with
      | (s, none) => .err s 1 pa 0
      | (s, some bs) => let (s, bs) := strike s e m r bs; .ok s bs
    else
      let q := engPkt s e t 7 1 r m (pack [(0, n - 1), (6, c.ctx), (18, c.ownMod)]) (.engRead n c.ctx c.ownMod e.path) s.free
      (engInject s e c q r false pa).bind fun s _ => .wait (s.tick.modEng e fun x => { x with rd := some (q.id, pa.toNat) })

/-- The pieces of `n` bytes at an address that lie in one 64-byte block each. -/
def blockPieces : Nat → Word → Nat → List (Word × Nat)
  | 0, _, _ => []
  | f + 1, pa, n =>
    if n = 0 then []
    else
      let k := min n (64 - pa.toNat % 64)
      (pa, k) :: blockPieces f (pa + BitVec.ofNat 64 k) (n - k)

/-- Keep bytes read until the whole of the work in hand has been read. -/
def keepRead (s : State) (e : Eng) (pa : Word) (bs : List Byte) : State :=
  s.modEng e fun x => if x.got.any (fun g => g.1 == pa.toNat && g.2.length == bs.length) then x else { x with got := x.got ++ [(pa.toNat, bs)] }

/-- Read `n` bytes at a program address, piece by piece; `ok` tells which ranges may be read. -/
def engReadAll (s : State) (e : Eng) (t : Port) (c : Cmd) (pa : Word) (n : Nat) (test : Nat → Rng → Option Nat) : Tried (List Byte) :=
  (blockPieces (n / 64 + 2) pa n).foldl (fun (acc : Tried (List Byte)) p =>
    acc.bind fun s bs =>
      (engAt s e c none p.1 false).bind fun s a =>
        match test a.1 a.2 with
        | some st => .err s st p.1 0
        | none => (engRead s e t c p.1 a.1 a.2 p.2).bind fun s b => .ok (keepRead s e p.1 b) (bs ++ b)) (.ok s [])

/-! ### Writing -/

/-- A byte under a mask. -/
def maskByte (old m v : Byte) : Byte := (old &&& ~~~m) ||| (v &&& m)

/-- Write bytes of one 64-byte block at its home: offset, mask and value; a nibble merges at the bank (R108).  The bytes of one aligned word are one
write where they are whole and adjoin. -/
def applyWrite (s : State) (p : Path) (k : Nat) (ms : List (Nat × Byte × Byte)) : State :=
  let s := if (List.range 64).all fun i => ms.any fun m => m.1 == i && m.2.1 == 0xFF then heal s k 64 else s
  (List.range 8).foldl (fun s w =>
    let mine := ms.filter fun m => m.1 / 8 == w
    match mine with
    | [] => s
    | (o, _, _) :: _ =>
      if mine.all (fun m => m.2.1 == 0xFF) ∧ mine.map (·.1) = (List.range mine.length).map (o + ·) then s.put p (k + o) (mine.map (·.2.2))
      else mine.foldl (fun s m => s.put p (k + m.1) [maskByte (memGet s.mem (k + m.1)) m.2.1 m.2.2]) s) s

/-- The base of the 64-byte block of a range. -/
def Rng.block : Rng → Rng
  | .core u c w o => .core u c w (o / 64 * 64)
  | .vault b v o => .vault b v (o / 64 * 64)
  | .hbm o => .hbm (o / 64 * 64)
  | .host p => .host (p / 64 * 64)
  | r => r

/-- The byte mask that INFO of an engine write carries (R123). -/
def byteMask (ms : List (Nat × Byte × Byte)) : Word := BitVec.ofNat 64 (ms.foldl (fun n m => n ||| 2 ^ m.1) 0)

/-- Whether a direct write would meet a frozen region of the engine's own die (R182). -/
def frozenHere (s : State) (e : Eng) (m : Nat) (r : Rng) : Bool :=
  m == s.moduleNo.toNat && s.engineDirect e.unit r && (match r with
    | .hbm off => (s.regionFor e.unit (off / regionSize)).wfz
    | _ => false)

/-- Write bytes of one 64-byte block at a program address: offset from the block, mask and value; `pos` is the position they stand at in the work. -/
def engWrite (s : State) (e : Eng) (t : Port) (c : Cmd) (pa : Word) (m : Nat) (r : Rng) (ms : List (Nat × Byte × Byte)) (pos : Nat) : Tried Unit :=
  if frozenHere s e m r then .wait s
  else if m = s.moduleNo.toNat ∧ s.engineDirect e.unit r then
    match s.keyOf e.unit r.block with
    | some k => .ok (applyWrite s e.path k ms) ()
    | none => .err s 4 pa 0
  else
    let q := engPkt s e t 6 3 r.block m (byteMask ms) (.engWrite ms c.ctx c.ownMod e.path) s.free
    (engInject s e c q r.block true pa).bind fun s _ => .ok (s.tick.modEng e fun x => { x with outs := x.outs ++ [(q.id, pos, pa)] }) ()

/-- Write `bs` at a program address, block by block; every piece is translated and tested before the first is written.  Pieces the
engine reaches directly are written in one step (DESIGN CHOICE, assumption 171). -/
def engWriteAll (s : State) (e : Eng) (t : Port) (c : Cmd) (pa : Word) (bs : List Byte) (pos : Nat) (test : Nat → Rng → Option Nat) : Tried Unit :=
  let ps := blockPieces (bs.length / 64 + 2) pa bs.length
  let first := ps.foldl (fun (acc : Tried Unit) p =>
    acc.bind fun s _ => (engAt s e c none p.1 true).bind fun s a =>
      match test a.1 a.2 with
      | some st => .err s st p.1 0
      | none => if frozenHere s e a.1 a.2 then .wait s else .ok s ()) (.ok s ())
  first.bind fun s _ =>
    ps.foldl (fun (acc : Tried Unit) p =>
      acc.bind fun s _ => (engAt s e c none p.1 true).bind fun s a =>
        let o := p.1.toNat % 64
        let from' := (p.1 - pa).toNat
        engWrite s e t c p.1 a.1 a.2 ((List.range p.2).map fun i => (o + i, 0xFF, bs.getD (from' + i) 0)) pos) (.ok s ())

/-! ### FIFOs (R119) -/

/-- Take a command's number out of a FIFO's producers and consumers. -/
def leaveFifos (s : State) (id : Nat) : State :=
  let one := fun (f : Fifo) => { f with prod := f.prod.filter (· != id), cons := f.cons.filter (· != id) }
  { s with beds := Tbl.mapV (fun b => { b with fifos := Tbl.mapV one b.fifos }) s.beds,
           rims := Tbl.mapV (fun r => { r with fifos := Tbl.mapV one r.fifos }) s.rims }

/-- Whether a command may use a FIFO (R119). -/
def Fifo.admits (f : Fifo) (c : Cmd) : Bool := f.en && f.ctx.toNat == c.ctx && f.ownMod.toNat == c.ownMod

/-! ### How a command ends (R114, R122, R123) -/

/-- An idle engine that keeps what outlives a command; a stream fault that has begun to strike is over. -/
def Engine.idle (x : Engine) : Engine :=
  { Engine.empty with queue := x.queue, probes := x.probes, tlb := x.tlb, refuse := x.refuse, peeks := x.peeks,
                      armed := x.armed.filter fun f => f.1.toNat % 4 == 0 }

/-- The watermark to report next: a report for each 4 KiB that has been passed (R112). -/
def markDue (old wm : Word) : Word := if old.toNat / 4096 + 1 < wm.toNat / 4096 then BitVec.ofNat 64 ((old.toNat / 4096 + 1) * 4096) else wm

/-- The clip ranges a response carries. -/
def Cmd.clip (c : Cmd) : Option (List Nat × List Nat) :=
  if c.op = .copy ∧ clipped c.src c.dst then some (movedLo c.src c.dst, movedHi c.src c.dst) else none

/-- The response to a command: progress, or completion with its status (R123). -/
def engReport (s : State) (e : Eng) (status : Nat) (fin : Bool) (wm fa info : Word) : State :=
  let x := s.eng e
  match x.active, x.cmd with
  | some q, some c =>
    let clip := if fin then c.clip else none
    { s with pkts := s.pkts ++ [respond q 0x18 (1 + b2n clip.isSome) (.progress wm status fin x.ck fa info clip c.chan)] }
  | _, _ => s

/-- End the active command with a status. -/
def engFinish (s : State) (e : Eng) (status : Nat) (wm fa info : Word) : State :=
  let id := ((s.eng e).active.map (·.id)).getD 0
  leaveFifos ((engReport s e status true wm fa info).modEng e Engine.idle) id

/-- Record what ends the active command: the first cause stands. -/
def engFail (s : State) (e : Eng) (status : Nat) (fa info : Word) : State :=
  s.modEng e fun x => { x with err := x.err.or (some (status, fa, info)), got := [], miss := none, rd := if status = 6 then none else x.rd }

/-- The state after a part of an engine's work that ends its turn. -/
def Tried.settle {α : Type} (t : Tried α) (e : Eng) : State :=
  match t with
  | .ok s _ => s
  | .wait s => s
  | .err s n a i => engFail s e n a i

/-- Take the next command of the queue. -/
def engNext (s : State) (e : Eng) : State :=
  match (s.eng e).queue with
  | [] => s
  | q :: rest =>
    match q.body with
    | .cmd c =>
      let s := s.setEng e { (s.eng e).idle with queue := rest, active := some q, ck := ckStart c c.carry,
                                                wm := (c.dst.map fun t => (tensorRange t).1).getD ((c.range.map (·.1)).getD 0) }
      let s := match c.sfifo with
        | some n =>
          let f := s.fifo c.engUnit n
          if f.admits c then s.setFifo c.engUnit n { f with cons := f.cons ++ [q.id] } else engFail s e 7 0 0
        | none => s
      (match c.dfifo with
       | some (u, n) =>
         let f := s.fifo u n
         if f.admits c then s.setFifo u n { f with prod := f.prod ++ [q.id] } else engFail s e 7 0 0
       | none => s)
    | _ => s.modEng e fun x => { x with queue := rest }

/-- One turn of an engine: it takes a command, ends a failed one once its writes are answered, or does one piece of `work`. -/
def engTurn (s : State) (e : Eng) (work : State → Pkt → Cmd → State) : State :=
  let x := s.eng e
  let s := { s with maker := x.maker }
  if e.ok = false then s
  else
    match x.active with
    | none => engNext s e
    | some q =>
      match q.body with
      | .cmd c =>
        (match x.err with
         | some (n, fa, info) => if x.outs = [] ∧ x.rd.isNone ∧ x.ent.isNone then engFinish s e n x.wm fa info else s
         | none => if x.rd.isSome ∨ x.miss.isSome then s else work s q c)
      | _ => s

end Sys2Proof.Machine
end

