-- ==== Sys2Proof/Machine/CopySteps.lean ====
section
/-! DEFINITION. The copy engines' steps: commands that arrive, their elements (R108, R112, R118, R119), data writes and reads at their home (R123), misses,
lost responses, FIFO control and the stream fault. -/

namespace Sys2Proof.Machine

/-! ### The packed stream (R108) -/

/-- The tensor that fixes a command's stream. -/
def Cmd.tensor (c : Cmd) : Tensor := (c.src.or c.dst).getD default

/-- The stream is moved in units of one byte, or of one nibble for 4-bit elements: bits of a unit, and units of an element. -/
def Cmd.unitBits (c : Cmd) : Nat := if c.tensor.ty = 4 then 4 else 8
def Cmd.perElem (c : Cmd) : Nat := if c.tensor.ty = 4 then 1 else 2 ^ c.tensor.ty

/-- Units in the whole stream. -/
def Cmd.units (c : Cmd) : Nat := movedCount c.src c.dst * c.perElem

/-- Byte address and nibble of a unit in a tensor. -/
def Cmd.unitAt (c : Cmd) (t : Tensor) (pos : Nat) : Word × Nat :=
  let a := t.elem (boxIndex (movedLo c.src c.dst) (movedHi c.src c.dst) (pos / c.perElem))
  (a.1 + BitVec.ofNat 64 (pos % c.perElem), a.2)

/-- Units left of the row of dimension 0, and of a 64-byte block. -/
def Cmd.rowLeft (c : Cmd) (pos : Nat) : Nat :=
  let w := (movedHi c.src c.dst).getD 0 0 - (movedLo c.src c.dst).getD 0 0
  (w - pos / c.perElem % w) * c.perElem - pos % c.perElem
def Cmd.blockLeft (c : Cmd) (a : Word × Nat) : Nat := (64 - a.1.toNat % 64) * (8 / c.unitBits) - a.2

/-- Units of bytes, low bits first, and back. -/
def unitsOf (ub : Nat) (bs : List Byte) : List Nat := bs.flatMap fun b => if ub = 4 then [b.toNat % 16, b.toNat / 16] else [b.toNat]
def bytesOfUnits (ub : Nat) (us : List Nat) : List Byte :=
  (chunks (8 / ub) (us.length + 1) us).map fun l => BitVec.ofNat 8 ((List.range l.length).foldl (fun n i => n + l.getD i 0 * 2 ^ (ub * i)) 0)

/-- Fold units into a running checksum from stream position `pos` on (R118): SUM32 adds a unit at its place in its word, CRC-32C takes its bits lowest
first. -/
def foldUnits (ck ub : Nat) : Nat → Nat → List Nat → Nat
  | v, _, [] => v
  | v, pos, u :: us =>
    let one := fun x => if x % 2 = 1 then (x / 2) ^^^ 0x82F63B78 else x / 2
    foldUnits ck ub
      (if ck = 1 then (v + u * 2 ^ (ub * (pos % (32 / ub)))) % 2 ^ 32
       else if ck = 2 then (List.range ub).foldl (fun x _ => one x) (v ^^^ u)
       else v) (pos + 1) us

/-- The masked bytes that units make from a byte address and nibble on. -/
def maskedUnits (ub : Nat) (a : Word × Nat) (us : List Nat) : List (Nat × Byte × Byte) :=
  let o := a.1.toNat % 64
  if ub = 4 then
    (List.range ((a.2 + us.length + 1) / 2)).map fun i =>
      let at' := fun h => let k := 2 * i + h; if k < a.2 then none else us[k - a.2]?
      (o + i, BitVec.ofNat 8 (b2n (at' 0).isSome * 15 + b2n (at' 1).isSome * 240), BitVec.ofNat 8 ((at' 0).getD 0 + (at' 1).getD 0 * 16))
  else (List.range us.length).map fun i => (o + i, 0xFF, BitVec.ofNat 8 (us.getD i 0))

/-! ### One piece of a copy -/

/-- Units the next piece may take: one row, one block at either end, and what a FIFO holds or has room for (R119).  One piece at a time is on its way to a FIFO
of another unit (DESIGN CHOICE, assumption 175). -/
def copyLength (s : State) (x : Engine) (q : Pkt) (c : Cmd) : Nat :=
  let k := 8 / c.unitBits
  let n := min (c.rowLeft x.pos) (c.units - x.pos)
  let n := match c.src with
    | some t => min n (c.blockLeft (c.unitAt t x.pos))
    | none => n
  let n := match c.dst with
    | some t => min n (c.blockLeft (c.unitAt t x.pos))
    | none => n
  let n := match c.sfifo with
    | some f => if (s.fifo c.engUnit f).cons.head? = some q.id then min n ((s.fifo c.engUnit f).bytes.length * k + x.rest.1 / c.unitBits) else 0
    | none => n
  match c.dfifo with
  | some (u, f) =>
    if (s.fifo u f).prod.head? = some q.id ∧ (u = c.engUnit ∨ x.outs = []) then min n ((4096 - (s.fifo u f).bytes.length) * k) else 0
  | none => n

/-- Read the next `n` units of the source: a tensor's first byte must be beside the engine (R105). -/
def copyRead (s : State) (e : Eng) (c : Cmd) (n : Nat) : Tried (List Nat) :=
  let x := s.eng e
  match c.src with
  | some t =>
    let a := c.unitAt t x.pos
    let len := if c.unitBits = 4 then (a.2 + n + 1) / 2 else n
    (engAt s e c t.xmod a.1 false).bind fun s m =>
      if rangeOk x.sKey m.1 m.2 = false ∨ m.1 ≠ s.moduleNo.toNat ∨ (x.sKey.isNone ∧ besides e.unit m.2 = false) then .err s 4 a.1 0
      else
        let s := s.modEng e fun x => { x with sKey := x.sKey.or (some m) }
        (engRead s e e.port c a.1 m.1 m.2 len).bind fun s bs =>
          .ok (keepRead s e a.1 bs) (((unitsOf c.unitBits bs).drop a.2).take n)
  | none =>
    let f := s.fifo c.engUnit (c.sfifo.getD 0)
    let us := (if x.rest.1 = 0 then [] else [x.rest.2]) ++ unitsOf c.unitBits f.bytes
    .ok s (us.take n)

/-- The data port of FIFO `n` of a unit (R120). -/
def portRng (u n : Nat) : Rng := if u < 12 then .bedCtl u 5 (0x800 + 16 * n) else .rimDie (u - 16) 1 (0x800 + 16 * n)

/-- Write `us` at the destination: a FIFO of another unit is reached over the destination leg (R103, R105, R119). -/
def copyWrite (s : State) (e : Eng) (c : Cmd) (us : List Nat) : Tried Unit :=
  let x := s.eng e
  match c.dst, c.dfifo with
  | some t, _ =>
    let a := c.unitAt t x.pos
    (engAt s e c t.xmod a.1 true).bind fun s m =>
      if rangeOk x.dKey m.1 m.2 = false then .err s 4 a.1 0
      else
        let s := s.modEng e fun x => { x with dKey := x.dKey.or (some m) }
        engWrite s e e.port c a.1 m.1 m.2 (maskedUnits c.unitBits a us) x.pos
  | none, some (u, n) =>
    let f := s.fifo u n
    let all := (if x.rest.1 = 0 then [] else [x.rest.2]) ++ us
    let whole := all.length / (8 / c.unitBits) * (8 / c.unitBits)
    let bs := bytesOfUnits c.unitBits (all.take whole)
    (if u = c.engUnit then .ok (s.setFifo u n { f with bytes := f.bytes ++ bs }) ()
     else if bs = [] then .ok s ()
     else engWrite s e e.port c 0 s.moduleNo.toNat (portRng u n) ((List.range bs.length).map fun i => (i, 0xFF, bs.getD i 0)) x.pos).bind fun s _ =>
      .ok (s.modEng e fun x => { x with rest := match all.drop whole with
        | [] => (0, 0)
        | u :: _ => (c.unitBits, u) }) ()
  | none, none => .ok s ()

/-- Take `n` units from the source FIFO. -/
def takeFifo (s : State) (e : Eng) (c : Cmd) (n : Nat) : State :=
  match c.sfifo with
  | none => s
  | some k =>
    let x := s.eng e
    let f := s.fifo c.engUnit k
    let per := 8 / c.unitBits
    let had := x.rest.1 / c.unitBits
    let bytes := (n - had + per - 1) / per
    let us := (if x.rest.1 = 0 then [] else [x.rest.2]) ++ unitsOf c.unitBits (f.bytes.take bytes)
    (s.setFifo c.engUnit k { f with bytes := f.bytes.drop bytes }).modEng e fun x =>
      { x with rest := match us.drop n with
          | [] => (0, 0)
          | u :: _ => (c.unitBits, u) }

/-- The watermark of a copy: the first byte not passed, as the resolved descriptor has it (R106, R112). -/
def copyMark (x : Engine) (c : Cmd) : Word :=
  match c.dst, c.range with
  | some t, some _ =>
    let pos := x.outs.foldl (fun n o => min n o.2.1) x.pos
    if movedCount c.src c.dst = 0 then (tensorRange t).1 else if pos < c.units then (c.unitAt t pos).1 else (tensorRange t).2
  | _, _ => 0

/-- The status of a copy that has moved everything: OK, or CKSUM (R118). -/
def copyStatus (x : Engine) (c : Cmd) : Nat := if c.last ∧ c.ck ≠ 0 ∧ ckFinal c.ck x.ck ≠ c.expect then 5 else 0

/-- One piece of a copy: a watermark to report, the end, or the next units of the stream. -/
def copyWork (e : Eng) (always : Bool) (s : State) (q : Pkt) (c : Cmd) : State :=
  let x := s.eng e
  let wm := copyMark x c
  if c.range.isSome ∧ x.wm.toNat < wm.toNat ∧ ((always ∧ x.pos < c.units) ∨ x.wm.toNat / 4096 < wm.toNat / 4096) then
    let wm := markDue x.wm wm
    (engReport s e 0 false wm 0 0).modEng e fun x => { x with wm := wm }
  else if c.units ≤ x.pos then
    (if x.outs = [] ∧ x.ent.isNone then engFinish s e (copyStatus x c) ((c.dst.map fun t => (tensorRange t).2).getD 0) 0 0 else s)
  else
    let n := copyLength s x q c
    if n = 0 then s
    else
      let t := (copyRead s e c n).bind fun s us => (copyWrite s e c us).bind fun s _ =>
        .ok ((takeFifo s e c n).modEng e fun x =>
          { x with pos := x.pos + n, ck := foldUnits c.ck c.unitBits x.ck x.pos us, got := [] }) ()
      t.settle e

/-- ENGINE_COMMAND_EXECUTE (R103, R108, R112, R118): copy engine `arg.index` of `arg.unit` takes its next command, moves the next piece of the active one, or
ends it; with `arg.flag` it reports its watermark at once. -/
def execEngineCommandExecute (s : State) : Host.Outcome State Fault Refusal :=
  let e : Eng := ⟨s.arg.unit, 0, s.arg.index⟩
  .next (engTurn s e (copyWork e s.arg.flag))

/-! ### Commands that arrive (R103, R124) -/

/-- The engine a unit address names (R123). -/
def engOfDest (dest : Nat) : Option Eng :=
  let e : Option Eng := match decodeLa 31 0 dest with
    | .bedCtl b 5 off => if off < 0x40 then some ⟨b, 0, off / 16⟩ else none
    | .rimDie d 1 off => if off < 0x100 then some ⟨16 + d, 0, off / 16⟩ else none
    | .rimDie d 2 off => if off < 0x80 then some ⟨16 + d, 1, off / 16⟩ else none
    | _ => none
  e.filter (·.ok)

/-- ENGINE_COMMAND (R103, R121, R123, R124): a command is queued at its engine or encoder, or answered BUSY, or REJECT under a quench; a fill that comes with its
engine's name goes into its TLB. -/
def execEngineCommand (s : State) : Host.Outcome State Fault Refusal :=
  serving s fun s i q =>
    match q.body, engOfDest q.dest with
    | .cmd c, some e =>
      let x := s.eng e
      if x.refuse.contains (c.ownMod, c.ctx) then nackPkt s i q 5
      else if 16 ≤ x.queue.length then nackPkt s i q 4
      else (dropPkt s i).modEng e fun x => { x with queue := x.queue ++ [q] }
    | .fill ctl w0 w1 own, some _ => answerPkt (fillEngineWith s ctl own w0 w1) i q 0x18 0 .ack
    | .cmd _, none => nackPkt s i q 1
    | .fill _ _ _ _, none => nackPkt s i q 1
    | _, _ => s

/-! ### Data at its home (R123) -/

/-- The FIFO a data port names (R120). -/
def portOf : Rng → Option (Nat × Nat)
  | .bedCtl b 5 off => if 0x800 ≤ off ∧ off < 0x900 then some (b, (off - 0x800) / 16) else none
  | .rimDie d 1 off => if 0x800 ≤ off ∧ off < 0x900 then some (16 + d, (off - 0x800) / 16) else none
  | _ => none

/-- A count that saturates (R128). -/
def satAdd (a b : Nat) : Nat := min (a + b) 0xFFFFFFFF

/-- EXCEED with NONFIN, and MAXERR, of a header after a command's counts: exceeding blocks, non-finite elements, largest error (R128, R132). -/
def countedWords (sums : Nat × Nat × Nat) (w : Nat → Nat) : Word × Nat :=
  let (ex, nf, me) := sums
  (pack [(0, satAdd (bits (w 2) 31 0) ex), (32, satAdd (bits (w 2) 63 32) nf)],
   if (fp32.decode (bits (w 5) 31 0)).lt (fp32.decode me) then me else bits (w 5) 31 0)

/-- Add a command's counts to the header at a key as one action of its home, which changes EXCEED, NONFIN, LASTTS and MAXERR only (R128, R132). -/
def addCounts (s : State) (key : Nat) (sums : Nat × Nat × Nat) : State :=
  let s := s.see key 64
  let (w2, me) := countedWords sums fun i => ofBytes (pathBytes s .se (key + 8 * i) 8)
  let s := s.put .se (key + 16) (wordsBytes [w2])
  let s := s.put .se (key + 32) (wordsBytes [s.ts])
  s.put .se (key + 40) (bytesOf 4 me)

/-- ENGINE_DATA_WRITE (R120, R123, R208): the masked bytes are written at their bank, or enter a FIFO that has room, or the Lantern port, and are
acknowledged; the counts of a stash command are added there (R132). -/
def execEngineDataWrite (s : State) : Host.Outcome State Fault Refusal :=
  serving s fun s i q =>
    let s := { s with maker := ((engineOf s q.id).map fun e => (s.eng e).maker).getD .other }
    match q.body with
    | .counts sums _ _ =>
      gated s i q q.rng true fun s =>
        (match s.keyOf q.loc.unit q.rng with
         | some k => answerPkt (addCounts s k sums) i q 0x18 0 .ack
         | none => nackPkt s i q 1)
    | .engWrite ms _ _ p =>
      let u := q.loc.unit
      (match q.rng with
       | .host pa => enterPort (applyWrite s p (hostKey pa) ms) i q
       | r =>
         match portOf r with
         | some (fu, n) =>
           let f := s.fifo fu n
           if 4096 < f.bytes.length + ms.length then s
           else answerPkt (s.setFifo fu n { f with bytes := f.bytes ++ ms.map (·.2.2) }) i q 0x18 0 .ack
         | none =>
           gated s i q r true fun s =>
             match s.keyOf u r with
             | some k => if tableHeld s r 64 then s else answerPkt (applyWrite s p k ms) i q 0x18 0 .ack
             | none => nackPkt s i q 1)
    | _ => s

/-- ENGINE_READ (R123, R182): up to 64 bytes of memory, of a region table, or of the MXBASE a graft needs (R148) answer the read; a bad word answers with an error. -/
def execEngineRead (s : State) : Host.Outcome State Fault Refusal :=
  serving s fun s i q =>
    match q.body with
    | .engRead n _ _ p =>
      let u := q.loc.unit
      (match q.rng with
       | .rimDie d 0 off => answerPkt s i q 0x19 2 (.data (s.ctlBytes (.rimDie d 0 off) 0 n))
       | .page u c 0x100 => answerPkt s i q 0x19 2 (.data (s.ctlBytes (.page u c 0x100) 0 n))
       | r =>
         if r.isCtl then nackPkt s i q 1
         else
           gated s i q r false fun s =>
             match takeRange s u p r n with
             | (s, some bs) => answerPkt s i q 0x19 2 (.data bs)
             | (s, none) => answerPkt s i q 0x19 0 .bad)
    | _ => s

/-! ### Misses and lost responses (R94, R121, R122, R162) -/

/-- Send a miss message for an engine from the issuing core, whose MISS counts it (R158, R162, R164); while the route entry's VALID is 0 nothing is done, and the miss is
still to be sent (R92). -/
def sendMiss (s : State) (p : Place) (va : Word) (ws : List Word) (held : State) (f : State → State) : State :=
  let (q, r) := missPkt s p va ws
  match inject s p r q with
  | .park _ => held
  | .sent s => f (s.tick.modCoreAt p fun c => { c with txMiss := min (c.txMiss + 1) 0xFFFFFFFF })

/-- The entry of an engine's TLB that a miss names: a free one that no other miss has named, else a free choice. -/
def engVictim (s : State) (x : Engine) : Nat :=
  let taken := x.probes.map (·.2.1) ++ (match x.miss with
    | some (_, _, some j) => [j]
    | _ => [])
  let open' := (List.range 32).find? fun i => !taken.contains i && (match Tbl.look x.tlb i with
    | some t => !t.valid
    | none => true)
  open'.getD ((Config.freeWord s.free).toNat % 32)

/-- The words of an engine's miss for a context's page; whether it counts as a user access is left open (R159, R162). -/
def engMiss (s : State) (e : Eng) (x : Engine) (va : Word) (ctx : Nat) (p : Place) (wr : Bool) (ix : Nat) : List Word :=
  missWords va (BitVec.ofNat 12 ctx) p (b2n wr) ((Config.freeWord (s.free + 1)).getLsbD 0) true e.unit e.ix e.kind ix (Tbl.look x.tlb ix) s.ts

/-- A miss goes back along the reversed route of the request that met it (R121). -/
def State.missBack (s : State) (q : Pkt) (ws : List Word) : State := { s with pkts := s.pkts ++ [respond q 0x18 2 (.missed ws)] }

/-- A response that has come back to the port its request left by, and the waiting slot it is for: what it brings (R80). -/
def answering (s : State) (f : State → Nat → Pkt → State) : Host.Outcome State Fault Refusal :=
  match s.pkts[s.arg.index]? with
  | none => .next s
  | some q => if q.resp ∧ q.loc.delivered then .next (f s s.arg.index q) else .next s

/-- ENGINE_TLB_MISS (R121, R158, R162): the miss of engine `arg.index` of kind `arg.aux` on `arg.unit` reaches the issuing core, which sends a miss message with
ENG set; a core that no service core serves ends the command with PAGE.  A miss for another module's core goes back along the command's reversed route.  With
`arg.flag` it is such a miss, response `arg.index`, that reaches its issuing core. -/
def execEngineTlbMiss (s : State) : Host.Outcome State Fault Refusal :=
  if s.arg.flag then
    answering s fun s i q =>
      match q.body with
      | .missed ws =>
        let p := q.place
        let w1 := (ws.getD 1 0).toNat
        let far := (bits w1 35 31, bits w1 39 36, bits w1 41 40, (q.entry.map (·.1)).getD 0, q.dmod)
        let t := dropPkt s i
        if p.ok = false then t
        else if 12 ≤ t.serviceBed p then
          sendFill t p far (pack [(0, bits w1 47 42), (9, 1), (15, 1), (16, far.1), (21, far.2.1), (25, far.2.2.1)]) 0 0
        else
          sendMiss t p (ws.getD 0 0) ws s fun s =>
            s.modCoreAt p fun c => { c with farMiss := c.farMiss ++ [(far, bits w1 47 42, ws.getD 0 0)] }
      | _ => s
  else
    let e : Eng := ⟨s.arg.unit, s.arg.aux, s.arg.index⟩
    let x := s.eng e
    match x.miss, x.active.bind fun q => x.cmd.map fun c => (q, c) with
    | some (va, wr, none), some (q, c) =>
      let p := c.place
      let ix := engVictim s x
      if c.ownMod ≠ s.moduleNo.toNat then
        let s := (s.missBack q (engMiss s e x va c.ctx p wr ix)).tick.tick
        .next (s.modEng e fun x => { x with miss := some (va, wr, some ix) })
      else if 12 ≤ s.serviceBed p then .next (engFail s e 3 va 0)
      else
        let ws := engMiss s e x va c.ctx p wr ix
        .next (sendMiss s.tick.tick p va ws s fun s => s.modEng e fun x => { x with miss := some (va, wr, some ix) })
    | _, _ => .next s

/-- Whether a request or its answer is still on this module. -/
def inFlight (s : State) (id : Nat) : Bool := s.pkts.any (fun q => q.id == id) || s.retries.any fun r => r.pkt.id == id

/-! ### Registers (R120, R456) -/

/-- FIFOCTL_WRITE (R120): a store of `arg.v` to FIFOCTL `arg.index` of `arg.unit`. -/
def execFifoctlWrite (s : State) : Host.Outcome State Fault Refusal :=
  if isUnit s.arg.unit ∧ s.arg.index < 16 then .next (fifoStore s s.arg.unit s.arg.index s.arg.v) else .next s

/-- STREAM_FAULT_ARM (R456, R472): a mask `arg.aux` for the word at system address `arg.v`, in copy engine `arg.index` of `arg.unit`; refused while feature 8 is
not accepted. -/
def execStreamFaultArm (s : State) : Host.Outcome State Fault Refusal :=
  let e : Eng := ⟨s.arg.unit, 0, s.arg.index⟩
  if s.feat.getLsbD 8 = false then .next s.refuse
  else
  if e.ok ∧ s.arg.v.toNat % 4 = 0 then .next (s.modEng e fun x => { x with armed := some (s.arg.v, BitVec.ofNat 32 s.arg.aux) }) else .next s

end Sys2Proof.Machine
end

