-- ==== Sys2Proof/Machine/StashSteps.lean ====
section
/-! DEFINITION. The stash encoders' steps: blocks and their codes (R127 to R132), the work of `stash.open`, `stash` and `restore` (R134, R136), and probes
(R135). -/

namespace Sys2Proof.Machine

/-! ### Blocks (R127 to R132) -/

/-- The format an INFMT names (R128). -/
def inFmt (f : Nat) : Fmt := if f = 0 then fp32 else if f = 1 then bf16 else fp16

/-- ⌊log2⌋ of a finite value that is not zero. -/
def Val.log (v : Val) : Int :=
  match v with
  | .fin _ m e => (Nat.log2 m : Int) + e
  | _ => 0

/-- The largest finite magnitude of a block (R129). -/
def blockMax (xs : List Val) : Val := xs.foldl (fun a v => if v.isFin then Val.max a v.abs else a) (.fin false 0 0)

/-- The scale code of a block (R129). -/
def scaleCode (xs : List Val) : Nat := if (blockMax xs).isZero then 0 else (clampInt 1 254 ((blockMax xs).log + 127)).toNat

/-- The code of one element (R129). -/
def encodeElem (s b : Nat) (x : Val) : Int :=
  let lim : Int := 2 ^ (b - 1) - 1
  match x with
  | .fin neg m e =>
    if s = 0 then 0
    else
      let k : Int := (scaleTo .rne neg m e ((s : Int) - 125 - b) : Nat)
      clampInt (-lim) lim (if neg then -k else k)
  | _ => -(lim + 1)

/-- `DecodeElement` of R130: an FP32 code. -/
def decodeElem (s b : Nat) (c : Int) : Nat :=
  if c = -(2 ^ (b - 1) : Nat) ∨ s = 255 then 0x7FC00000
  else if s = 0 ∨ c = 0 then 0
  else fp32.roundFin .rne (decide (c < 0)) c.natAbs ((s : Int) - 125 - b)

/-- The bytes of a block: the scale code, then the codes as one little-endian string (R127). -/
def packBlock (s b : Nat) (cs : List Int) : List Byte :=
  BitVec.ofNat 8 s :: bytesOf (4 * b) ((List.range cs.length).foldl (fun n j => n + wrap b (cs.getD j 0) * 2 ^ (b * j)) 0)

/-- The scale code and codes of a block's bytes. -/
def unpackBlock (b : Nat) (bs : List Byte) : Nat × List Int :=
  let v := ofBytes (bs.drop 1)
  ((bs.getD 0 0).toNat, (List.range 32).map fun j => sintN b (v / 2 ^ (b * j)))

/-- What the encoder measures on a block: its bytes, whether it exceeds the bound, its non-finite elements, and its error (R129, R132). -/
structure Stashed where
  bytes : List Byte
  exceed : Bool
  nonfin : Nat
  err : Val
deriving DecidableEq, Repr

/-- Encode a block under a bound, which is relative to the block's maximum or absolute (R129, R132). -/
def encodeBlock (b : Nat) (bound : Nat) (rel : Bool) (xs : List Val) : Stashed :=
  let s := scaleCode xs
  let cs := xs.map (encodeElem s b)
  let err := (List.range xs.length).foldl (fun a j =>
    let x := xs.getD j .nan
    if x.isFin then Val.max a (Val.add .rne x (fp32.decode (decodeElem s b (cs.getD j 0))).neg).abs else a) (.fin false 0 0)
  let lim := if rel then Val.mul (fp32.decode bound) (blockMax xs) else fp32.decode bound
  { bytes := packBlock s b cs, exceed := lim.lt err, nonfin := (xs.filter fun v => !v.isFin).length, err := err }

/-! ### The header (R128, R134) -/

/-- A word of the header as read. -/
def Engine.hw (x : Engine) (i : Nat) : Nat := ofBytes ((x.hdr.drop (8 * i)).take 8)
def Engine.enc (x : Engine) : Nat := bits (x.hw 0) 17 16
def Engine.inf (x : Engine) : Nat := bits (x.hw 0) 19 18
def Engine.nelem (x : Engine) : Nat := bits (x.hw 1) 31 0

/-- The width of a command's elements outside the region, by the header; of a reserved INFMT no rule states one. -/
def stashFmt (x : Engine) (q : Pkt) : Nat := if x.inf = 3 then (Config.freeWord q.id).toNat % 3 else x.inf

/-- The format of a command's elements outside the region. -/
def outFmt (x : Engine) (q : Pkt) (c : Cmd) : Nat := if c.op = .restore ∧ c.ofmt = false then 0 else stashFmt x q

/-- The REGION checks of R134 on a header. -/
def headerBad (x : Engine) (q : Pkt) (c : Cmd) : Bool :=
  let w := fmtBytes (stashFmt x q)
  let local' := if c.op = .restore then c.dfifo.isNone && c.ofmt else c.sfifo.isNone && c.regData.isNone
  bits (x.hw 0) 15 0 != 0x5E3A || bits (x.hw 0) 39 28 != c.ctx || bits (x.hw 0) 51 40 != c.ownMod || decide (x.nelem < c.firstEl + c.count) ||
  (c.count % 32 != 0 && c.firstEl + c.count != x.nelem) || (local' && c.loc.toNat % w != 0) ||
  (c.regData.isSome && decide (128 < c.count * w))

/-- The header `stash.open` writes (R128, R134). -/
def openHeader (s : State) (c : Cmd) : List Byte :=
  let i0 := c.image.1.toNat
  wordsBytes [pack [(0, 0x5E3A), (16, bits i0 22 16), (28, c.ctx), (40, c.ownMod)], c.image.2, 0, s.ts, s.ts, 0, 0, 0]

/-! ### One piece of work -/

/-- The tests of the bytes of a region and of LOCAL (R122, R134). -/
def headerTest (_ : Nat) (r : Rng) : Option Nat := if r.isHbm then none else some 8
def regionTest (key : Option (Nat × Rng)) (m : Nat) (r : Rng) : Option Nat := if r.isHbm && rangeOk key m r then none else some 4
def localTest (key : Option (Nat × Rng)) (m : Nat) (r : Rng) : Option Nat := if r.isLocal && rangeOk key m r then none else some 4

/-- Remember the module and range of a tensor's first translated byte (R122). -/
def keepKeys (s : State) (e : Eng) (c : Cmd) (src : Bool) (pa : Word) (write : Bool) (f : State → Tried Unit) : Tried Unit :=
  (engAt s e c none pa write).bind fun s a =>
    f (s.modEng e fun x => if src then { x with sKey := x.sKey.or (some a) } else { x with dKey := x.dKey.or (some a) })

/-- Bytes of block `k` of a region, and where it stands (R127). -/
def blockAddr (c : Cmd) (x : Engine) (k : Nat) : Word := c.region + BitVec.ofNat 64 (64 + k * blockBytes x.enc)

/-- Elements of the command in its `k`-th block. -/
def blockElems (c : Cmd) (k : Nat) : Nat := min 32 (c.count - 32 * k)

/-- The bytes of the next block's elements at the input of a `stash`: none yet while a FIFO does not hold them. -/
def stashBytes (s : State) (e : Eng) (q : Pkt) (c : Cmd) (k w : Nat) : Tried (List Byte) :=
  let n := blockElems c k * w
  match c.regData, c.sfifo with
  | some bs, _ => .ok s ((bs.drop (32 * k * w)).take n)
  | none, some f =>
    let x := s.fifo c.engUnit f
    if x.cons.head? = some q.id ∧ n ≤ x.bytes.length then .ok s (x.bytes.take n) else .wait s
  | none, none => engReadAll s e e.port c (c.loc + BitVec.ofNat 64 (32 * k * w)) n (localTest (s.eng e).dKey)

/-- Take a block's bytes out of a FIFO. -/
def dropFifo (s : State) (c : Cmd) (n : Nat) : State :=
  match c.sfifo with
  | some f => s.setFifo c.engUnit f { s.fifo c.engUnit f with bytes := (s.fifo c.engUnit f).bytes.drop n }
  | none => s

/-- Stash the next block (R129, R132). -/
def stashBlock (s : State) (e : Eng) (q : Pkt) (c : Cmd) : Tried Unit :=
  let x := s.eng e
  let k := x.pos
  let f := stashFmt x q
  let w := fmtBytes f
  let read := (stashBytes s e q c k w).bind fun s bs =>
    let xs := ((chunks w (bs.length + 1) bs).map fun b => (inFmt f).decode (ofBytes b)) ++ List.replicate (32 - blockElems c k) (.fin false 0 0)
    let r := encodeBlock (codeBits x.enc) (bits (x.hw 1) 63 32) ((x.hw 0).testBit 20) xs
    (engWriteAll s e e.port c (blockAddr c x (c.firstEl / 32 + k)) r.bytes k (regionTest x.sKey)).bind fun s _ =>
      .ok ((dropFifo s c bs.length).modEng e fun x =>
        { x with pos := k + 1, got := [],
                 sums := (x.sums.1 + b2n r.exceed, x.sums.2.1 + r.nonfin, Nat.max x.sums.2.2 (fp32.round .ru r.err)) }) ()
  if c.regData.isNone ∧ c.sfifo.isNone then
    keepKeys s e c false (c.loc + BitVec.ofNat 64 (32 * k * w)) false fun s =>
      if (s.eng e).dKey = x.dKey then read else .wait s
  else read

/-- Restore the next block (R130, R133). -/
def restoreBlock (s : State) (e : Eng) (q : Pkt) (c : Cmd) : Tried Unit :=
  let x := s.eng e
  let k := x.pos
  let b := codeBits x.enc
  let f := outFmt x q c
  let w := fmtBytes f
  (engReadAll s e e.port c (blockAddr c x (c.firstEl / 32 + k)) (blockBytes x.enc) (regionTest x.sKey)).bind fun s bs =>
    let (sc, cs) := unpackBlock b bs
    let out := (cs.take (blockElems c k)).flatMap fun v => bytesOf w ((inFmt f).round .rne (fp32.decode (decodeElem sc b v)))
    let fin := fun (s : State) => Tried.ok (s.modEng e fun x => { x with pos := k + 1, got := [] }) ()
    match c.dfifo with
    | some (u, n) =>
      let ff := s.fifo u n
      if ff.prod.head? = some q.id ∧ ff.bytes.length + out.length ≤ 4096 then fin (s.setFifo u n { ff with bytes := ff.bytes ++ out }) else .wait s
    | none =>
      let pa := c.loc + BitVec.ofNat 64 (32 * k * w)
      keepKeys s e c false pa true fun s => (engWriteAll s e e.port c pa out k (localTest (s.eng e).dKey)).bind fun s _ => fin s

/-- The watermark of a `restore`: the first byte not yet performed (R112). -/
def restoreMark (x : Engine) (q : Pkt) (c : Cmd) : Word :=
  let k := x.outs.foldl (fun n o => min n o.2.1) x.pos
  match c.range with
  | some (lo, _) => lo + BitVec.ofNat 64 (min c.count (32 * k) * fmtBytes (outFmt x q c))
  | none => 0

/-- Add a command's counts to its header (R132): one action at the header's home, at once where the encoder reaches it directly, else by a request over the
leg (its form is the model's: DESIGN CHOICE, assumption 164). -/
def stashCounts (s : State) (e : Eng) (c : Cmd) (k : Nat) : Tried Unit :=
  let x := s.eng e
  (engAt s e c none c.region true).bind fun s a =>
    match headerTest a.1 a.2, a with
    | some n, _ => .err s n c.region 0
    | none, (m, .hbm off) =>
      if frozenHere s e m (.hbm off) then .wait s
      else if m = s.moduleNo.toNat ∧ s.engineDirect e.unit (.hbm off) then
        match s.keyOf e.unit (.hbm off) with
        | none => .err s 4 c.region 0
        | some key => .ok ((addCounts s key x.sums).modEng e fun x => { x with pos := k }) ()
      else
        let q := engPkt s e e.port 6 3 (.hbm off) m (byteMask (((List.range 8).map fun i => (16 + i, 0, 0)) ++ (List.range 16).map fun i => (32 + i, 0, 0)))
          (.counts x.sums c.ctx c.ownMod) s.free
        (engInject s e c q (.hbm off) true c.region).bind fun s _ =>
          .ok (s.tick.modEng e fun x => { x with pos := k, outs := x.outs ++ [(q.id, k, c.region)] }) ()
    | none, _ => .err s 8 c.region 0

/-- One piece of a stash command: the header, the next block, the counts, a watermark, or the end. -/
def stashWork (e : Eng) (always : Bool) (s : State) (q : Pkt) (c : Cmd) : State :=
  let x := s.eng e
  let idle := x.outs.isEmpty && x.ent.isNone
  let hi := (c.range.map (·.2)).getD 0
  if c.op = .stashOpen then
    if x.pos = 0 then
      ((engWriteAll s e e.port c c.region (openHeader s c) 0 headerTest).bind fun s _ => .ok (s.modEng e fun x => { x with pos := 1 }) ()).settle e
    else if idle then engFinish s e 0 0 0 0 else s
  else if x.hdr = [] then
    ((engReadAll s e e.port c c.region 64 headerTest).bind fun s bs =>
      keepKeys s e c true c.region false fun s => .ok (s.modEng e fun x => { x with hdr := bs, got := [] }) ()).settle e
  else if headerBad x q c ∧ x.pos = 0 then engFail s e 8 c.region 0
  else
    let nb := (c.count + 31) / 32
    let wm := restoreMark x q c
    if c.range.isSome ∧ x.wm.toNat < wm.toNat ∧ ((always ∧ x.pos < nb) ∨ x.wm.toNat / 4096 < wm.toNat / 4096) then
      let wm := markDue x.wm wm
      (engReport s e 0 false wm 0 0).modEng e fun x => { x with wm := wm }
    else if x.pos < nb then (if c.op = .restore then restoreBlock s e q c else stashBlock s e q c).settle e
    else if idle = false then s
    else if c.op = .stash ∧ x.pos = nb then (stashCounts s e c (nb + 1)).settle e
    else engFinish s e 0 hi 0 0

/-- STASH_COMMAND (R134 to R137): encoder `arg.index` of rim die `arg.unit` takes its next command, does the next piece of the active one, or ends it; with
`arg.flag` it reports its watermark at once. -/
def execStashCommand (s : State) : Host.Outcome State Fault Refusal :=
  let e : Eng := ⟨s.arg.unit, 1, s.arg.index⟩
  .next (engTurn s e (stashWork e s.arg.flag))

/-! ### Probes (R135) -/

/-- The module and range of a probe's REGION by the encoder's TLB. -/
def probeAt (x : Engine) (ctx own : Nat) (pa : Word) : Option (Option (Nat × Rng)) :=
  if fixedMap pa then
    some (if bits pa.toNat 59 52 ≠ 0 then none else some (own, decodeLa 31 0 (pa.toNat % 2 ^ 52)))
  else
    (tlbLookup x.tlb own (BitVec.ofNat 12 ctx) pa).map fun t =>
      let sa := (t.2.addr pa).toNat
      if t.2.rd = false then none else some (sa / 2 ^ 52, decodeLa 31 0 (sa % 2 ^ 52))

/-- Words 0, 1, 2 and 5 of a header's bytes. -/
def headWords (bs : List Byte) : List Word := [0, 1, 2, 5].map fun i => word64 ((bs.drop (8 * i)).take 8)

/-- The answer of a probe that cannot read its header, where the spec gives no words: free ones (R135, R398; assumption 93). -/
def freeHeader (n : Nat) : List Word := (List.range 4).map fun i => Config.freeAt n i

/-- Header words 0, 1, 2 and 5 as a probe reads them on SE on this module: zero counts where the region is not in HBM (R135, R398); free where no place is known or
a word is bad. -/
def probeWords (s : State) (unit : Nat) (a : Option (Nat × Rng)) : State × List Word :=
  match a with
  | some (_, .hbm off) =>
    match takeRange s unit .se (.hbm off) 64 with
    | (s, some bs) => (s, headWords bs)
    | (s, none) => (s.tick, freeHeader s.free)
  | some _ => (s, [0, 0, 0, 0])
  | none => (s.tick, freeHeader s.free)

/-- Change the read a probe has out. -/
def Engine.modPeek (x : Engine) (probe : Nat) (f : Peek → Peek) : Engine := { x with peeks := x.peeks.map fun k => if k.probe = probe then f k else k }

/-- Give a probe free words as its answer. -/
def peekFree (s : State) (e : Eng) (probe : Nat) : State :=
  s.tick.modEng e fun x => x.modPeek probe fun k => { k with words := some (freeHeader s.free) }

/-- Send a read for a probe's header on another module: of the header, or with `entry` of its region's entry; on a leg that is missing nothing is read, and the
answer is free (R105, R135; assumption 93). -/
def peekSend (s : State) (e : Eng) (q : Pkt) (m : Nat) (r : Rng) (n leg : Nat) (st : Word) : State :=
  match q.body with
  | .probe _ ctx own legs =>
    match legs.find? fun l => l.1 == leg && (routeRefused true false l.2.1).isNone with
    | some (_, str, lane) =>
      let r := { engPkt s e e.port 7 1 r m (pack [(0, n - 1), (6, ctx), (18, own)]) (.engRead n ctx own .se) s.free with
                 route := str, route0 := str, lane := lane, lane0 := lane, rstamp := st }
      { s.tick.modEng e fun x => x.modPeek q.id fun k => { k with rd := r.id } with pkts := s.pkts ++ [r] }
    | none => peekFree s e q.id
  | _ => s

/-- Read a probe's header on another module, placed as R105 sets out: with STAMP 0 on leg LEG + 0 while its region's entry is not known. -/
def peekHeader (s : State) (e : Eng) (q : Pkt) (m off : Nat) (g : Option Region) : State :=
  match g with
  | none => peekSend s e q m (.hbm off) 64 0 0
  | some g =>
    if g.mode = 3 then peekFree s e q.id
    else peekSend s e q m (.hbm off) 64 ((placeHbm g (off % regionSize)).1 / 2) g.stamp

/-- PROBE (R135): probe `arg.index` at its encoder is answered ahead of the command queue; a page its TLB does not hold is fetched through the issuing core
first, and for one that is not present the answer is free (assumption 93); a header on another module is read over the probe's legs. -/
def execProbe (s : State) : Host.Outcome State Fault Refusal :=
  serving s fun s i q =>
    match q.body, engOfDest q.dest with
    | .probe pa ctx own _, some e =>
      let x := s.eng e
      let give := fun (s : State) (ws : List Word) =>
        answerPkt (s.modEng e fun x => { x with probes := x.probes.filter (fun p => p.1 != q.id), peeks := x.peeks.filter fun k => k.probe != q.id })
          i q 0x19 1 (.data (wordsBytes ws))
      let answer := fun (s : State) (a : Option (Nat × Rng)) => let (s, ws) := probeWords s e.unit a; give s ws
      (match probeAt x ctx own pa with
       | some (some (m, .hbm off)) =>
         if m = s.moduleNo.toNat then answer s (some (m, .hbm off))
         else
           (match x.peeks.find? fun k => k.probe == q.id with
            | none => peekHeader (s.modEng e fun x => { x with peeks := x.peeks ++ [{ probe := q.id, rd := 0, entry := none, words := none }] }) e q m off none
            | some k => match k.words with
              | some ws => give s ws
              | none => s)
       | some a => answer s a
       | none =>
         match x.probes.find? fun p => p.1 == q.id with
         | some (_, _, np) => if np then answer s none else s
         | none =>
           let ix := engVictim s x
           if own ≠ s.moduleNo.toNat then
             ((s.missBack q (engMiss s e x pa ctx q.place false ix)).tick.tick).modEng e fun x => { x with probes := x.probes ++ [(q.id, ix, false)] }
           else if 12 ≤ s.serviceBed q.place then answer s none
           else
             sendMiss s.tick.tick q.place pa (engMiss s e x pa ctx q.place false ix) s fun s =>
               s.modEng e fun x => { x with probes := x.probes ++ [(q.id, ix, false)] })
    | .probe _ _ _ _, none => nackPkt s i q 1
    | _, _ => s

/-- Give an answer to the slot that waits for it by number, or has gone on past its load: one that no longer waits discards it. -/
def giveAnswer (s : State) (i : Nat) (q : Pkt) (r : Resp) : State :=
  (dropPkt s i).modSlot q.place fun x =>
    match x.wait with
    | some (.answer id _) => if id = q.id then { x.wake with resp := r :: x.resp } else x.gets q.id [r]
    | _ => x.gets q.id [r]

/-- PROBE_ANSWER (R135, R398): the answer of a probe reaches the slot that waits for it. -/
def execProbeAnswer (s : State) : Host.Outcome State Fault Refusal :=
  answering s fun s i q =>
    match q.req.2.2, q.body with
    | .probe _ _ _ _, .data bs =>
      let w := fun k => word64 ((bs.drop (8 * k)).take 8)
      giveAnswer s i q (.probe (w 0) (w 1) (w 2) (w 3))
    | _, _ => s

end Sys2Proof.Machine
end

