-- ==== Sys2Proof/Machine/Vector.lean ====
section
/-! DEFINITION. Vector instructions (chapter 14): lanes and masks, contiguous and strided accesses, lane operations, conversions, data movement,
reductions and mask operations. -/

namespace Sys2Proof.Machine

/-! ### Lanes (R348, R349) -/

/-- The width of a lane of a TYPE. -/
def laneWidth (t : BitVec 4) : Nat :=
  if t.toNat < 8 then 8 * 2 ^ (t.toNat % 4) else if t.toNat < 10 then 16 else if t = 10 then 32 else if t = 11 then 64
  else if t = 13 then 4 else 8

/-- Lane `i` of a register, of width `w`. -/
def lane (w i : Nat) (v : VReg) : Nat := v.toNat / 2 ^ (w * i) % 2 ^ w

/-- A register from its lanes. -/
def ofLanes (w : Nat) (l : List Nat) : VReg := BitVec.ofNat 512 (l.foldr (fun x n => x % 2 ^ w + 2 ^ w * n) 0)

/-- The active lanes take new values, the others keep theirs (R349). -/
def mapLanes (w : Nat) (m : Word) (old : VReg) (f : Nat → Nat) : VReg :=
  ofLanes w ((List.range (512 / w)).map fun i => if m.getLsbD i then f i else lane w i old)

/-- The floating-point format of a TYPE 8 to 11. -/
def laneFmt (t : BitVec 4) : Fmt := fmtOf (t.truncate 2)

/-- A lane's integer, by the sign of the type (R348). -/
def laneInt (t : BitVec 4) (x : Nat) : Int := if t.toNat < 4 then sintN (laneWidth t) x else (x : Int)

/-- A lane operation on two registers under a mask (R356, R357). -/
def laneOp (i : Instr) (d a b : BitVec 5) (m : BitVec 3) (w : Nat) (s : State) (f : Nat → Nat → Nat → Nat) : Host.Outcome State Fault Refusal :=
  word i s fun s =>
    let va := s.opV a
    let vb := s.opV b
    let vd := s.opV d
    .ok (s.setV d (mapLanes w (s.opM m) vd fun k => f (lane w k va) (lane w k vb) (lane w k vd)))

/-! ### Integer lanes (R356) -/

/-- VADD (R356). -/
def execVadd (d a b : BitVec 5) (m : BitVec 3) (t : BitVec 4) (s : State) := laneOp (.vadd d a b m t) d a b m (laneWidth t) s fun x y _ => x + y
/-- VSUB (R356). -/
def execVsub (d a b : BitVec 5) (m : BitVec 3) (t : BitVec 4) (s : State) :=
  laneOp (.vsub d a b m t) d a b m (laneWidth t) s fun x y _ => x + (2 ^ laneWidth t - y)
/-- VMUL (R356). -/
def execVmul (d a b : BitVec 5) (m : BitVec 3) (t : BitVec 4) (s : State) := laneOp (.vmul d a b m t) d a b m (laneWidth t) s fun x y _ => x * y
/-- VMLA (R356). -/
def execVmla (d a b : BitVec 5) (m : BitVec 3) (t : BitVec 4) (s : State) :=
  laneOp (.vmla d a b m t) d a b m (laneWidth t) s fun x y z => z + x * y
/-- VAND (R356). -/
def execVand (d a b : BitVec 5) (m : BitVec 3) (t : BitVec 4) (s : State) := laneOp (.vand d a b m t) d a b m (laneWidth t) s fun x y _ => x &&& y
/-- VOR (R356). -/
def execVor (d a b : BitVec 5) (m : BitVec 3) (t : BitVec 4) (s : State) := laneOp (.vor d a b m t) d a b m (laneWidth t) s fun x y _ => x ||| y
/-- VXOR (R356). -/
def execVxor (d a b : BitVec 5) (m : BitVec 3) (t : BitVec 4) (s : State) := laneOp (.vxor d a b m t) d a b m (laneWidth t) s fun x y _ => x ^^^ y
/-- VSHL (R356). -/
def execVshl (d a b : BitVec 5) (m : BitVec 3) (t : BitVec 4) (s : State) :=
  laneOp (.vshl d a b m t) d a b m (laneWidth t) s fun x y _ => if laneWidth t ≤ y then 0 else x * 2 ^ y
/-- VSHR (R356). -/
def execVshr (d a b : BitVec 5) (m : BitVec 3) (t : BitVec 4) (s : State) :=
  laneOp (.vshr d a b m t) d a b m (laneWidth t) s fun x y _ => if laneWidth t ≤ y then 0 else x / 2 ^ y
/-- VSHA (R356). -/
def execVsha (d a b : BitVec 5) (m : BitVec 3) (t : BitVec 4) (s : State) :=
  laneOp (.vsha d a b m t) d a b m (laneWidth t) s fun x y _ =>
    let w := laneWidth t
    wrap w (sintN w x / ((2 ^ (if w ≤ y then w else y) : Nat) : Int))
/-- VMIN (R356). -/
def execVmin (d a b : BitVec 5) (m : BitVec 3) (t : BitVec 4) (s : State) :=
  laneOp (.vmin d a b m t) d a b m (laneWidth t) s fun x y _ => if laneInt t y < laneInt t x then y else x
/-- VMAX (R356). -/
def execVmax (d a b : BitVec 5) (m : BitVec 3) (t : BitVec 4) (s : State) :=
  laneOp (.vmax d a b m t) d a b m (laneWidth t) s fun x y _ => if laneInt t x < laneInt t y then y else x

/-! ### Floating-point lanes (R357) -/

/-- VFADD (R357). -/
def execVfadd (d a b : BitVec 5) (m : BitVec 3) (t : BitVec 4) (s : State) :=
  laneOp (.vfadd d a b m t) d a b m (laneWidth t) s fun x y _ => addRound (laneFmt t) x y
/-- VFSUB (R357). -/
def execVfsub (d a b : BitVec 5) (m : BitVec 3) (t : BitVec 4) (s : State) :=
  laneOp (.vfsub d a b m t) d a b m (laneWidth t) s fun x y _ =>
    (laneFmt t).round .rne (Val.add .rne ((laneFmt t).decode x) ((laneFmt t).decode y).neg)
/-- VFMUL (R357). -/
def execVfmul (d a b : BitVec 5) (m : BitVec 3) (t : BitVec 4) (s : State) :=
  laneOp (.vfmul d a b m t) d a b m (laneWidth t) s fun x y _ => (laneFmt t).round .rne (((laneFmt t).decode x).mul ((laneFmt t).decode y))
/-- VFMA: a × b + d (R357). -/
def execVfma (d a b : BitVec 5) (m : BitVec 3) (t : BitVec 4) (s : State) :=
  laneOp (.vfma d a b m t) d a b m (laneWidth t) s fun x y z =>
    (laneFmt t).round .rne (Val.add .rne (((laneFmt t).decode x).mul ((laneFmt t).decode y)) ((laneFmt t).decode z))
/-- VFMIN (R357). -/
def execVfmin (d a b : BitVec 5) (m : BitVec 3) (t : BitVec 4) (s : State) :=
  laneOp (.vfmin d a b m t) d a b m (laneWidth t) s fun x y _ => (laneFmt t).round .rne (((laneFmt t).decode x).min ((laneFmt t).decode y))
/-- VFMAX (R357). -/
def execVfmax (d a b : BitVec 5) (m : BitVec 3) (t : BitVec 4) (s : State) :=
  laneOp (.vfmax d a b m t) d a b m (laneWidth t) s fun x y _ => (laneFmt t).round .rne (((laneFmt t).decode x).max ((laneFmt t).decode y))

/-- The relation of `vcmp` on two lanes: 0 eq, 1 ne, 2 lt, 3 le (R358). -/
def laneRel (t : BitVec 4) (o : BitVec 2) (x y : Nat) : Bool :=
  if t.toNat < 8 then
    let p := laneInt t x
    let q := laneInt t y
    if o = 0 then p == q else if o = 1 then p != q else if o = 2 then decide (p < q) else decide (p ≤ q)
  else
    let p := (laneFmt t).decode x
    let q := (laneFmt t).decode y
    if o = 0 then p.eq q else if o = 1 then !p.eq q else if o = 2 then p.lt q else p.lt q || p.eq q

/-- VCMP (R349, R358). -/
def execVcmp (d : BitVec 3) (a b : BitVec 5) (m : BitVec 3) (t : BitVec 4) (o : BitVec 2) (s : State) : Host.Outcome State Fault Refusal :=
  word (.vcmp d a b m t o) s fun s =>
    let w := laneWidth t
    let va := s.opV a
    let vb := s.opV b
    let old := s.opM d
    let gm := s.opM m
    let n := (List.range (512 / w)).foldl (fun n i =>
      let bitv := if gm.getLsbD i then laneRel t o (lane w i va) (lane w i vb) else old.getLsbD i
      n + b2n bitv * 2 ^ i) 0
    .ok (s.setM d (BitVec.ofNat 64 n))

/-- VSEL: the mask named by M selects (R358). -/
def execVsel (d a b : BitVec 5) (m : BitVec 3) (t : BitVec 4) (s : State) : Host.Outcome State Fault Refusal :=
  word (.vsel d a b m t) s fun s =>
    let va := s.opV a
    .ok (s.setV d (mapLanes (laneWidth t) (s.opM m) (s.opV b) fun k => lane (laneWidth t) k va))

/-! ### Decode tables (R47, R52 to R55) -/

/-- The value of code `c` in the core's 8-bit code table. -/
def codeTable (s : State) (p : Place) (c : Nat) : Val := e8m10.decode (s.peekNat (coreKey p.unit p.core (0xFC800 + 4 * c)) 4 % 2 ^ 19)

/-- The signed byte of code `c` in the core's 4-bit table. -/
def intTable (s : State) (p : Place) (c : Nat) : Int := sintN 8 (s.peekNat (coreKey p.unit p.core (0xFCC00 + c)) 1)

/-- Meet the soft errors under the table entries a decode reads: correctable ones are corrected, each uncorrectable word is reported once; the
first of those, if there is one (R62, R63). -/
def meetTables (s : State) (p : Place) (c8 c4 : List Nat) : State × Option Nat :=
  if s.errs = [] then (s, none)
  else
    let ks := c8.map (fun c => coreKey p.unit p.core (0xFC800 + 4 * c) / 8 * 8) ++ c4.map fun c => coreKey p.unit p.core (0xFCC00 + c) / 8 * 8
    let ks := ks.foldl (fun (l : List Nat) k => if l.contains k then l else l ++ [k]) []
    let (t, bad) := ks.foldl (fun (acc : State × Option Nat) k => let (t, b) := acc.1.meet k 8; (t, acc.2 <|> (if b then some k else none))) (s, none)
    (if bad.isSome then t.tick else t, bad)

/-- The numbers of `w` bits that a little-endian number holds, `n` of them. -/
def fields (w n v : Nat) : List Nat := (List.range n).map fun i => v / 2 ^ (w * i) % 2 ^ w

/-- Whether a store of the slot's own to `n` bytes, buffered, streaming or in a packet, has still to be performed. -/
def ownStores (s : State) (p : Place) (k n : Nat) : Bool := forwards s p k n || ntMeets s p k n || asyncMeets s p k n

/-- A decode of the code-table entries `codes` waits for the slot's own earlier stores to the tables and MXBASE (R55), and for those entries while a refill has
still to write them (R54, R55).  The store of the pair's other word is no earlier one (R284). -/
def tablesBusy (s : State) (p : Place) (codes : List Nat) : Option Wait :=
  if s.cur.commit then none
  else if ownStores s p (coreKey p.unit p.core 0xFC800) 0x410 || ownStores s p (locKey (.page p.unit p.core 0x100)) 8 then some .drain
  else match (s.coreAt p).ctBusy with
    | some (_, pos) => if codes.any (pos ≤ ·) then some .queue else none
    | none => none

/-- One decoded lane of a window as FP32 bits, or as a signed byte for CODE4 (R47). -/
def decodeLane (s : State) (p : Place) (w c sc : Nat) : Nat :=
  if w = 2 then fp32.round .rne (codeTable s p c)
  else if w = 3 then wrap 8 (intTable s p c)
  else if w = 6 then fp32.round .rne (bf16.decode c)
  else fp32.round .rne (mxValue (w == 5) c sc)

/-- The scale byte's offset of an MX element at an offset (R48). -/
def scaleOff (s : State) (p : Place) (w off : Nat) : Nat :=
  let b := (s.coreAt p).mxbase.toNat
  if w = 4 then (b % 2 ^ 20 + off / 16) % 2 ^ 20 else (b / 2 ^ 20 % 2 ^ 20 + off / 32) % 2 ^ 20

/-- The lanes of a load through windows 2 to 6 (R46). -/
def decodeWindow (s : State) (p : Place) (w sc : Nat) (bs : List Byte) : VReg :=
  let v := ofBytes bs
  if w = 3 then ofLanes 8 ((List.range 64).map fun i => decodeLane s p w (v / 16 ^ i % 16) sc)
  else if w = 4 then ofLanes 32 ((List.range 16).map fun i => decodeLane s p w (v / 16 ^ i % 16) sc)
  else if w = 6 then ofLanes 32 ((List.range 16).map fun i => decodeLane s p w (v / 65536 ^ i % 65536) sc)
  else ofLanes 32 ((List.range 16).map fun i => decodeLane s p w (v / 256 ^ i % 256) sc)

/-! ### Contiguous accesses (R351, R352) -/

/-- The checks of a contiguous vector access; inside a timed block one that is not of the core's own memory takes the timing-violation trap with SUB 5 (R352). -/
def vectorAccess (s : State) (pa : Word) (size align : Nat) (kind : Kind) (win : Bool) (f : State → Acc → Res) : Res :=
  match addressCheck s s.cur.place pa size align kind win with
  | .stop r => r
  | .ship s k => shipTo s k pa
  | .ok s a =>
    if s.here.blk.isSome ∧ a.inMemory = false ∧ ¬ (a.cross ∧ s.cur.place.heavy) then .trap s (s.blockTrap 5 pa) else crossing s kind a f

/-- VLD (R351). -/
def execVld (t a : BitVec 5) (d : BitVec 11) (s : State) : Host.Outcome State Fault Refusal :=
  word (.vld t a d) s fun s =>
    vectorAccess s (s.eaDisp a d) 64 16 .vector false fun s acc =>
      loadBytes s acc 64 fun s bs => .ok (s.setV t (BitVec.ofNat 512 (ofBytes bs)))

/-- Keep bytes that this turn has read until the bundle's next turn. -/
def holdData (s : State) (key : Nat) (bs : List Byte) : Res :=
  .wait (s.modHere fun x => { x with resp := x.resp ++ [.data key bs] }) .again false

/-- Read bytes, unless an earlier turn of the bundle has read them. -/
def windowRead (s : State) (acc : Acc) (key n : Nat) (f : State → List Byte → Res) : Res :=
  match (if acc.own then heldData s.here.resp key else none) with
  | some bs => f s bs
  | none => loadBytes s acc n f

/-- Decode what a load through windows 2 to 6 has read (R46, R47): a bad word of a table is a bad word of the load (R63). -/
def windowDone (s : State) (acc : Acc) (w : Nat) (bs : List Byte) (sc : Nat) (f : State → VReg → Res) : Res :=
  let p := s.cur.place
  match tablesBusy s p (if w = 2 then bs.map (·.toNat) else []) with
  | some wt => s.waitAt wt false acc.pa
  | none =>
  match meetTables s p (if w = 2 then bs.map (·.toNat) else []) (if w = 3 then fields 4 64 (ofBytes bs) else []) with
  | (s, some _) => dataError s acc.pa
  | (s, none) => f s (decodeWindow s p w sc bs)

/-- A load through windows 2 to 6 of the core's own memory: the scale plane, the tables, then the lanes (R46 to R48, R55).  The elements and the scale of
an MX block are separate reads, which a turn may make in either order with others between (R50): `cur.part` 1 reads the elements first, another value but 0
the scale. -/
def windowLoad (s : State) (acc : Acc) (w off : Nat) (f : State → VReg → Res) : Res :=
  let p := s.cur.place
  let n := (windowShape acc.rng).1
  let sc := scaleOff s p w off
  let scAcc := { acc with rng := .core p.unit p.core 0 sc, la := coreKey p.unit p.core (7 * 2 ^ 20 + sc) }
  match tablesBusy s p [] with
  | some wt => s.waitAt wt false acc.pa
  | none =>
    if (w = 4 ∨ w = 5) ∧ 0xF0000 ≤ sc then .trap s (Trap.of 5 5 acc.pa)
    else
      if w = 4 ∨ w = 5 then
        if s.cur.part = 1 ∧ s.here.blk = none ∧ (heldData s.here.resp acc.la).isNone then loadBytes s acc n fun s bs => holdData s acc.la bs
        else if s.cur.part ≠ 0 ∧ s.here.blk = none ∧ (heldData s.here.resp scAcc.la).isNone then loadBytes s scAcc 1 fun s b => holdData s scAcc.la b
        else
          windowRead s acc acc.la n fun s bs =>
            windowRead s scAcc scAcc.la 1 fun s b => windowDone s acc w bs (ofBytes b) f
      else loadBytes s acc n fun s bs => windowDone s acc w bs 0 f

/-- VLD_W (R46, R47, R351); through RAW and FUTURE its value comes a cycle earlier (R43). -/
def execVldW (t a : BitVec 5) (d : BitVec 11) (s : State) : Host.Outcome State Fault Refusal :=
  word (.vldW t a d) s fun s =>
    vectorAccess s (s.eaDisp a d) 8 8 .vector true fun s acc =>
      match acc.rng with
      | .core _ _ w off =>
        if 2 ≤ w then windowLoad s acc w off fun s v => .ok (s.setV t v)
        else loadBytes { s with cur := { s.cur with lat := 4 } } acc 64 fun s bs => .ok (s.setV t (BitVec.ofNat 512 (ofBytes bs)))
      | _ => loadBytes s acc 64 fun s bs => .ok (s.setV t (BitVec.ofNat 512 (ofBytes bs)))

/-- VST (R351, R352). -/
def execVst (t a : BitVec 5) (d : BitVec 11) (s : State) : Host.Outcome State Fault Refusal :=
  word (.vst t a d) s fun s =>
    vectorAccess s (s.eaDisp a d) 64 16 .store false fun s acc =>
      let bs := bytesOf 64 (s.opV t).toNat
      unlessRefused s acc bs (storeBytes s acc bs none fun s => .ok s)

/-! ### Strided accesses (R353, R354) -/

/-- The active lanes of a strided access with their addresses (R354). -/
def stridedLanes (base desc : Word) (m : Word) : List (Nat × Word) :=
  let sz := bits desc.toNat 33 32
  ((List.range (64 / 2 ^ sz)).filter fun i => m.getLsbD i).map fun i =>
    (i, base + BitVec.ofInt 64 ((i : Int) * sintN 32 desc.toNat))

/-- Check every active lane in ascending order, each as an access of its own; with all of them passed, a thread that may not reach one where it runs migrates
towards the first such (R25, R354).  `f` takes the checked lanes. -/
def checkLanes (n : Nat) (kind : Kind) (v : Nat → List Byte) (f : State → List (Nat × Acc) → Res) : List (Nat × Word) → List (Nat × Acc) → State → Res
  | [], done, s =>
    match done.find? fun l => l.2.cross with
    | some (_, a) => migrate s a.rng a.la false a.pa
    | none => f s done
  | (i, e) :: r, done, s =>
    match addressCheck s s.cur.place e n n kind false with
    | .stop t => t
    | .ship s k => shipTo s k e
    | .ok s acc =>
      let next := fun (s : State) => checkLanes n kind v f r (done ++ [(i, acc)]) s
      if acc.cross then (if s.cur.place.heavy then crossing s kind acc fun s _ => next s else next s)
      else if kind = .store then unlessRefused s acc (v i) (next s) else next s

/-- The number under which a lane's value is held until the whole load is done: each lane is an access of its own, though two may name the same bytes (R354). -/
def laneKey (i : Nat) (acc : Acc) : Nat := (i + 1) * 2 ^ 60 + acc.la

/-- Hold a lane's value in place of the answer that brought it. -/
def heldLane (s : State) (i : Nat) (acc : Acc) (bs : List Byte) : State :=
  s.modHere fun x => { x with resp := (x.resp.filter fun e => match e with
    | .data k _ => k != acc.la
    | _ => true) ++ [.data (laneKey i acc) bs] }

/-- Load the checked lanes in ascending order, each once; a turn may make one load of the core's own memory only (R193, R354). -/
def loadLanes (n : Nat) (f : State → List (Nat × Nat) → Res) : List (Nat × Acc) → List (Nat × Nat) → State → Res
  | [], done, s => f s done
  | (i, acc) :: r, done, s =>
    match heldData s.here.resp (laneKey i acc) with
    | some bs => loadLanes n f r (done ++ [(i, ofBytes bs)]) s
    | none =>
      loadBytes s acc n fun s bs =>
        let t := heldLane s i acc bs
        if acc.own ∧ s.cur.part ≠ 0 then .wait t .again false else loadLanes n f r (done ++ [(i, ofBytes bs)]) t

/-- The descriptor's reserved bits, and the timed-block rule (R353, R354). -/
def strided (i : Instr) (b : BitVec 5) (s : State) (f : State → Nat → Word → Res) : Host.Outcome State Fault Refusal :=
  word i s fun s =>
    let desc := s.opG b
    if desc.toNat / 2 ^ 37 ≠ 0 then s.illegal 4
    else s.outsideBlock 0 fun s => f s (bits desc.toNat 33 32) (s.opM (BitVec.ofNat 3 (bits desc.toNat 36 34)))

/-- VLD_S (R354). -/
def execVldS (d a b : BitVec 5) (s : State) : Host.Outcome State Fault Refusal :=
  strided (.vldS d a b) b s fun s sz m =>
    let n := 2 ^ sz
    checkLanes n .load (fun _ => []) (fun s lanes =>
      loadLanes n (fun s vals =>
        let old := s.opV d
        .ok (s.setV d (ofLanes (8 * n) ((List.range (64 / n)).map fun i =>
          match vals.find? fun e => e.1 == i with
          | some e => e.2
          | none => lane (8 * n) i old)))) lanes [] s) (stridedLanes (s.opG a) (s.opG b) m) [] s

/-- VST_S: once the store buffer is empty the active elements go to their homes in ascending lane order, and the instruction completes when all
of them have been performed (R354); elements of the core's own memory may all be performed in one turn. -/
def execVstS (d a b : BitVec 5) (s : State) : Host.Outcome State Fault Refusal :=
  strided (.vstS d a b) b s fun s sz m =>
    let n := 2 ^ sz
    let v := s.opV d
    let elt := fun i => bytesOf n (lane (8 * n) i v)
    let p := s.cur.place
    if s.here.resp.contains .done then (if (s.coreAt p).sbuf.any fun e => e.slot == p.slot then s.waitFor .drain false else .ok s)
    else checkLanes n .store elt (fun s lanes =>
      if (s.coreAt p).sbuf ≠ [] ∨ lanes.any (fun l => ntMeets s p (locKey l.2.rng) n || asyncMeets s p (locKey l.2.rng) n) then s.waitFor .drain false
      else if s.cur.part = 0 ∧ lanes.all fun l => l.2.own && !ownHeld s p l.2.rng n then
        .ok (lanes.foldl (fun t l => writeAt t p.unit .ls l.2.rng (elt l.1)) s)
      else if lanes = [] then .ok s
      else
        let s := s.modCoreAt p fun c =>
          { c with sbuf := c.sbuf ++ lanes.map fun l =>
              { slot := p.slot, pa := l.2.pa, rng := l.2.rng, key := locKey l.2.rng, bytes := elt l.1, sent := none, id := 0, rel := none, gone := 0,
                ctx := s.ctx } }
        .wait (s.modHere fun x => { x with resp := .done :: x.resp }) .drain false) (stridedLanes (s.opG a) (s.opG b) m) [] s

/-! ### Conversions (R359 to R362) -/

/-- A source element: exact, as an integer or a floating-point value (R360). -/
inductive Elt where
  | int (i : Int)
  | val (v : Val)
deriving DecidableEq, Repr

/-- The exact value of an element. -/
def Elt.toVal : Elt → Val
  | .int i => Val.int i
  | .val v => v

/-- Element `k` of a source register (R360). -/
def sourceElt (s : State) (p : Place) (t : BitVec 4) (v : VReg) (k : Nat) : Elt :=
  let x := lane (laneWidth t) k v
  if t.toNat < 8 then .int (laneInt t x)
  else if t.toNat < 12 then .val ((laneFmt t).decode x)
  else if t = 12 then .val (codeTable s p x)
  else .int (intTable s p x)

/-- A destination element's bits, and whether the outcome is listed (R269, R360). -/
def destElt (tab8 tab4 : List (Nat × Val)) (t : BitVec 4) (e : Elt) : Nat × Bool :=
  let w := laneWidth t
  if t.toNat < 8 then
    (match e with
     | .int i => (wrap w (clampInt (intMin (t.toNat < 4) w) (intMax (t.toNat < 4) w) i), false)
     | .val v => let (i, l) := v.toIntTy .rne (t.toNat < 4) w; (wrap w i, l))
  else if t.toNat < 12 then ((laneFmt t).round .rne e.toVal, false)
  else if t = 12 then encodeTable tab8 e.toVal
  else encodeTable tab4 e.toVal

/-- The register and listed elements of an element-wise `vcvt` (R359, R360, R362). -/
def convert (s : State) (p : Place) (dt st : BitVec 4) (m : Word) (old src : VReg) : VReg × List (Nat × Nat) :=
  let wd := laneWidth dt
  let n := Nat.min (512 / wd) (512 / laneWidth st)
  let tab8 := if dt = 12 then codesByRank8.map fun c => (c, codeTable s p c) else []
  let tab4 := if dt = 13 then codesByRank4.map fun c => (c, Val.int (intTable s p c)) else []
  let act := fun k => m.getLsbD (if dt = 13 then k / 2 else k)
  let outs := (List.range (512 / wd)).map fun k =>
    if act k = false then (lane wd k old, false)
    else if n ≤ k then (0, false)
    else destElt tab8 tab4 dt (sourceElt s p st src k)
  (ofLanes wd (outs.map (·.1)), ((List.range (512 / wd)).filter fun k => (outs.getD k (0, false)).2).map fun k => (k, k))

/-- `vcvt` into an MX block (R361). -/
def toMx (mx8 : Bool) (st : BitVec 4) (src : VReg) : VReg :=
  let xs := (List.range 32).map fun k => (laneFmt st).decode (lane 16 k src)
  let (sc, cs) := encodeMX mx8 xs
  if mx8 then ofLanes 8 (cs ++ [sc])
  else BitVec.ofNat 512 ((ofLanes 4 cs).toNat + sc * 2 ^ 128)

/-- `vcvt` from an MX block (R361). -/
def fromMx (mx8 : Bool) (dt : BitVec 4) (src : VReg) : VReg :=
  let sc := lane 8 (if mx8 then 32 else 16) src
  ofLanes 16 ((List.range 32).map fun k => (laneFmt dt).round .rne (mxValue mx8 (lane (if mx8 then 8 else 4) k src) sc))

/-- VCVT: `c` is the source type, `t` the destination (R359 to R362). -/
def execVcvt (d a : BitVec 5) (c : BitVec 4) (m : BitVec 3) (t : BitVec 4) (s : State) : Host.Outcome State Fault Refusal :=
  word (.vcvt d a c m t) s fun s =>
    let p := s.cur.place
    let src := s.opV a
    if 14 ≤ t.toNat then .ok (s.setV d (toMx (t == 15) c src))
    else if 14 ≤ c.toNat then .ok (s.setV d (fromMx (c == 15) t src))
    else
      let codes := if t = 12 then List.range 256 else if c = 12 then fields 8 64 src.toNat else []
      match (if t = 12 ∨ t = 13 ∨ c = 12 ∨ c = 13 then tablesBusy s p codes else none) with
      | some w => s.waitFor w false
      | none =>
        let (s, _) := meetTables s p codes
          (if t = 13 then List.range 16 else if c = 13 then fields 4 128 src.toNat else [])
        let (v, out) := convert s p t c (s.opM m) (s.opV d) src
        listing s out fun s => .ok (s.setV d v)

/-! ### Data movement (R363) -/

/-- VPERM (R363). -/
def execVperm (d a b : BitVec 5) (m : BitVec 3) (t : BitVec 4) (s : State) : Host.Outcome State Fault Refusal :=
  word (.vperm d a b m t) s fun s =>
    let w := laneWidth t
    let va := s.opV a
    let vb := s.opV b
    .ok (s.setV d (mapLanes w (s.opM m) (s.opV d) fun k => lane w (lane w k vb % (512 / w)) va))
/-- VBCAST (R363). -/
def execVbcast (d a : BitVec 5) (m : BitVec 3) (t : BitVec 4) (s : State) : Host.Outcome State Fault Refusal :=
  word (.vbcast d a m t) s fun s =>
    let x := (s.opG a).toNat
    .ok (s.setV d (mapLanes (laneWidth t) (s.opM m) (s.opV d) fun _ => x))
/-- VINS (R363). -/
def execVins (d a b : BitVec 5) (t : BitVec 4) (s : State) : Host.Outcome State Fault Refusal :=
  word (.vins d a b t) s fun s =>
    let w := laneWidth t
    let k := (s.opG b).toNat
    if k < 512 / w then .ok (s.setV d (mapLanes w (BitVec.ofNat 64 (2 ^ k)) (s.opV d) fun _ => (s.opG a).toNat)) else s.illegal 4

/-- A lane as a register's value: sign-extended for `.i` types (R363). -/
def laneWord (t : BitVec 4) (x : Nat) : Word := if t.toNat < 4 then signExt (laneWidth t) x else BitVec.ofNat 64 x

/-- VEXT (R363). -/
def execVext (d a b : BitVec 5) (t : BitVec 4) (s : State) : Host.Outcome State Fault Refusal :=
  word (.vext d a b t) s fun s =>
    let w := laneWidth t
    let k := (s.opG b).toNat
    if k < 512 / w then .ok (s.setG d (laneWord t (lane w k (s.opV a)))) else s.illegal 4
/-- VMOV between vector registers (R363). -/
def execVmov (d a : BitVec 5) (m : BitVec 3) (t : BitVec 4) (s : State) : Host.Outcome State Fault Refusal :=
  word (.vmov d a m t) s fun s =>
    let va := s.opV a
    .ok (s.setV d (mapLanes (laneWidth t) (s.opM m) (s.opV d) fun k => lane (laneWidth t) k va))
/-- VMOV to a mask (R363). -/
def execVmovGToM (d : BitVec 3) (a : BitVec 5) (s : State) : Host.Outcome State Fault Refusal :=
  word (.vmovGToM d a) s fun s => .ok (s.setM d (s.opG a))
/-- VMOV from a mask (R363). -/
def execVmovMToG (d : BitVec 5) (a : BitVec 3) (s : State) : Host.Outcome State Fault Refusal :=
  word (.vmovMToG d a) s fun s => .ok (s.setG d (s.opM a))

/-! ### Reductions (R279, R364) -/

/-- The active lanes of a register. -/
def activeLanes (w : Nat) (m : Word) (v : VReg) : List Nat := ((List.range (512 / w)).filter fun i => m.getLsbD i).map fun i => lane w i v

/-- VRED_ADD (R364). -/
def execVredAdd (d a : BitVec 5) (m : BitVec 3) (t : BitVec 4) (s : State) : Host.Outcome State Fault Refusal :=
  word (.vredAdd d a m t) s fun s =>
    let xs := activeLanes (laneWidth t) (s.opM m) (s.opV a)
    .ok (s.setG d (BitVec.ofInt 64 (xs.foldl (fun n x => n + laneInt t x) 0)))

/-- The smallest or largest of the lanes, in the order of R266 and R364. -/
def redMinMax (t : BitVec 4) (mx : Bool) (xs : List Nat) : Word :=
  let w := laneWidth t
  if t.toNat < 8 then
    let i0 := if mx then intMin (t.toNat < 4) w else intMax (t.toNat < 4) w
    laneWord t (wrap w (xs.foldl (fun n x => if mx then max n (laneInt t x) else min n (laneInt t x)) i0))
  else
    let f := laneFmt t
    BitVec.ofNat 64 (f.round .rne (xs.foldl (fun v x => if mx then v.max (f.decode x) else v.min (f.decode x)) .nan))

/-- VRED_MIN (R364). -/
def execVredMin (d a : BitVec 5) (m : BitVec 3) (t : BitVec 4) (s : State) : Host.Outcome State Fault Refusal :=
  word (.vredMin d a m t) s fun s => .ok (s.setG d (redMinMax t false (activeLanes (laneWidth t) (s.opM m) (s.opV a))))
/-- VRED_MAX (R364). -/
def execVredMax (d a : BitVec 5) (m : BitVec 3) (t : BitVec 4) (s : State) : Host.Outcome State Fault Refusal :=
  word (.vredMax d a m t) s fun s => .ok (s.setG d (redMinMax t true (activeLanes (laneWidth t) (s.opM m) (s.opV a))))

/-- `Tree` over all lanes, inactive ones as −0 (R279, R364). -/
def redFadd (t : BitVec 4) (m : Word) (v : VReg) : Nat :=
  let w := laneWidth t
  let f := if t = 11 then fp64 else fp32
  let xs := (List.range (512 / w)).map fun i =>
    if m.getLsbD i then f.round .rne ((laneFmt t).decode (lane w i v)) else 2 ^ (f.width - 1)
  tree f (512 / w) xs

/-- VRED_FADD (R279, R364). -/
def execVredFadd (d a : BitVec 5) (m : BitVec 3) (t : BitVec 4) (s : State) : Host.Outcome State Fault Refusal :=
  word (.vredFadd d a m t) s fun s => .ok (s.setG d (BitVec.ofNat 64 (redFadd t (s.opM m) (s.opV a))))

/-! ### Masks (R365) -/

/-- MAND (R365). -/
def execMand (d a b : BitVec 3) (s : State) : Host.Outcome State Fault Refusal :=
  word (.mand d a b) s fun s => .ok (s.setM d (s.opM a &&& s.opM b))
/-- MOR (R365). -/
def execMor (d a b : BitVec 3) (s : State) : Host.Outcome State Fault Refusal :=
  word (.mor d a b) s fun s => .ok (s.setM d (s.opM a ||| s.opM b))
/-- MNOT (R365). -/
def execMnot (d a : BitVec 3) (s : State) : Host.Outcome State Fault Refusal :=
  word (.mnot d a) s fun s => .ok (s.setM d (~~~ s.opM a))
/-- MCNT (R365). -/
def execMcnt (d : BitVec 5) (a : BitVec 3) (t : BitVec 4) (s : State) : Host.Outcome State Fault Refusal :=
  word (.mcnt d a t) s fun s =>
    let m := s.opM a
    .ok (s.setG d (BitVec.ofNat 64 ((List.range (512 / laneWidth t)).countP fun i => m.getLsbD i)))

end Sys2Proof.Machine
end

