-- ==== Sys2Proof/Machine/GraftSteps.lean ====
section
/-! DEFINITION. The population engine's steps: slots written and read over the control plane (R142), a go from its snapshot to its end (R142 to R144, R149,
R150, R152), and the graft units (R145 to R148). -/

namespace Sys2Proof.Machine

/-! ### The control plane (R142, R399, R400) -/

/-- Answer an instruction that waits for the control plane. -/
def answerSlot (s : State) (p : Place) (id : Nat) (r : Resp) : State :=
  s.modSlot p fun x =>
    match x.wait with
    | some (.answer k _) => if k = id then { x.wake with resp := r :: x.resp } else x
    | _ => x

/-- Let instructions that wait for the ranker look again. -/
def wakeRanker (s : State) : State := wakeIf s fun _ w => w == .queue

/-- RANKER_SLOT_WRITE (R141, R152, R399): the slot image `arg.index` is written and answered; it waits while a go of the slot is queued or running.  LNEXT and
the record of the last go stay. -/
def execRankerSlotWrite (s : State) : Host.Outcome State Fault Refusal :=
  match s.ranker.cfgs[s.arg.index]? with
  | none => .next s
  | some (id, p, n, g) =>
    let old := s.pop n
    if old.gobusy then .next s
    else
      let g := { g with snapts := old.snapts, grafted := old.grafted, skipped := old.skipped, failed := old.failed, late := old.late, lnext := old.lnext }
      let s := { s with ranker := { s.ranker with cfgs := s.ranker.cfgs.eraseIdx s.arg.index } }
      .next (answerSlot (s.setPop n g) p id .done)

/-- GRAFT_STAT_ANSWER (R152, R400): read `arg.index` of a population slot's status is answered. -/
def execGraftStatAnswer (s : State) : Host.Outcome State Fault Refusal :=
  match s.ranker.stats[s.arg.index]? with
  | none => .next s
  | some (id, p, n, w) =>
    let s := { s with ranker := { s.ranker with stats := s.ranker.stats.eraseIdx s.arg.index } }
    .next (answerSlot s p id (.value ((s.pop n).word w)))

/-! ### A go (R142 to R144) -/

/-- Change the running go. -/
def State.modGo (s : State) (f : Go → Go) : State := { s with ranker := { s.ranker with go := s.ranker.go.map f } }

/-- GO_START (R142, R152): the ranker takes the oldest queued go and sets T; a go whose owner is being quenched ends at once. -/
def execGoStart (s : State) : Host.Outcome State Fault Refusal :=
  match s.ranker.go, s.ranker.queue with
  | none, (n, p) :: rest =>
    let g := s.pop n
    let go : Go := { slot := n, place := p, t := s.ts + BitVec.ofNat 64 (1000 * g.lead), id := s.free, asked := [], snaps := [], late := 0, ranked := false,
                     pairs := [], quenched := s.ranker.refuse.contains (g.ownMod.toNat, g.ctx.toNat) }
    .next (wakeRanker { s with ranker := { s.ranker with go := some go, queue := rest } }.tick)
  | _, _ => .next s

/-- Whether a member of a population stands on this module. -/
def State.ownMember (s : State) (m : BitVec 32) : Bool := memModule m == s.moduleNo.toNat

/-- Capture SCORE, TAG and RDY of a member of this module (R142). -/
def captureMember (s : State) (go : Go) (k : Nat) : State :=
  match (s.pop go.slot).members[k]? with
  | some m =>
    let c := s.core (memUnit m) (memCore m)
    if s.ownMember m ∧ (Tbl.look go.snaps k).isNone then s.modGo fun g => { g with snaps := Tbl.set g.snaps k (c.fit, c.grdy) } else s
  | none => s

/-- A request of the ranker to the ranker of a member's module, over the member's copied leg (R142, R152): none where that is empty or refused at injection
(R89). -/
def rankerPkt (s : State) (g : PopSlot) (m : BitVec 32) (len : Nat) (b : Body) : Option Pkt :=
  match Tbl.look g.legs (0x700 + memRte m) with
  | some (str, lane) =>
    if (routeRefused false true str).isSome then none
    else
      some { mkPkt s ⟨25, 0, 0⟩ 5 len (Rng.linkDie 1 1 0).la b with
             dmod := memModule m, loc := .gateway 1 false false, iport := 3, route := str, route0 := str, lane := lane, lane0 := lane }
  | none => none

/-- What a member on another module captured, once it is known here: SCORE, TAG and RDY, and whether its request came late. -/
def snapshotOf (s : State) (m : BitVec 32) (fit : Word) (rdy late : Bool) : State :=
  match s.ranker.go with
  | none => s
  | some go =>
    match (s.pop go.slot).members.findIdx? fun n => n == m with
    | some k =>
      if go.asked.contains k ∧ (Tbl.look go.snaps k).isNone then
        s.modGo fun g => { g with snaps := Tbl.set g.snaps k (fit, rdy), late := g.late + b2n late }
      else s
    | none => s

/-- A member whose module the request cannot reach: what the go takes as its snapshot is left open (DESIGN CHOICE, assumption 164). -/
def noSnapshot (s : State) (m : BitVec 32) : State := (snapshotOf s m (Config.freeWord s.free) ((Config.freeWord (s.free + 1)).getLsbD 0) false).tick.tick

/-- The answer of a member of this module to another module's ranker. -/
def guestSnapshot (s : State) (q : Pkt) (m : BitVec 32) (late : Bool) : Pkt :=
  let c := s.core (memUnit m) (memCore m)
  respond q 0x19 1 (.data (bytesOf 8 c.fit.toNat ++ [BitVec.ofNat 8 (b2n c.grdy), BitVec.ofNat 8 (b2n late)]))

/-- SNAPSHOT_REQUEST (R142): the request reaches member `arg.index`, or leaves for its module; one that comes after T is served on arrival and counted in LATE.
With `arg.flag` another module's request, packet `arg.index`, is served at link die 1. -/
def execSnapshotRequest (s : State) : Host.Outcome State Fault Refusal :=
  if s.arg.flag then
    serving s fun s i q =>
      match q.body with
      | .snap t m => if t.toNat ≤ s.ts.toNat then { s with pkts := s.pkts.eraseIdx i ++ [guestSnapshot s q m (decide (t.toNat < s.ts.toNat))] } else s
      | _ => s
  else
    match s.ranker.go with
    | none => .next s
    | some go =>
      let k := s.arg.index
      match (s.pop go.slot).members[k]? with
      | none => .next s
      | some m =>
        if go.ranked ∨ go.asked.contains k then .next s
        else if s.ownMember m then
          let t := s.modGo fun g => { g with asked := g.asked ++ [k], late := if go.t.toNat < s.ts.toNat then g.late + 1 else g.late }
          .next (if go.t.toNat ≤ s.ts.toNat then captureMember t go k else t)
        else
          let t := s.modGo fun g => { g with asked := g.asked ++ [k] }
          match rankerPkt s (s.pop go.slot) m 1 (.snap go.t m) with
          | some q => .next ({ t with pkts := t.pkts ++ [q] } : State).tick
          | none => .next (noSnapshot t m)

/-- The requests of other modules' rankers that stand at link die 1 are captured in the first cycle whose timestamp reaches their T (R142). -/
def captureGuests (s : State) : State :=
  { s with pkts := s.pkts.map fun q =>
      match q.body with
      | .snap t m => if !q.resp && q.loc == .atLink 1 && holdsDest s q && decide (t.toNat ≤ s.ts.toNat) then guestSnapshot s q m false else q
      | _ => q }

/-- Every member that has its request captures in the first cycle whose timestamp reaches T (R142). -/
def captureDue (s : State) : State :=
  let s := captureGuests s
  match s.ranker.go with
  | some go => if go.t.toNat ≤ s.ts.toNat ∧ go.ranked = false then go.asked.foldl (fun s k => captureMember s ((s.ranker.go).getD go) k) s else s
  | none => s

/-- SNAPSHOT_CAPTURE (R142): members due capture; with `arg.flag` the capture of a member on another module comes back, response `arg.index`. -/
def execSnapshotCapture (s : State) : Host.Outcome State Fault Refusal :=
  if s.arg.flag then
    answering s fun s i q =>
      match q.req.2.2, q.body with
      | .snap t m, .data bs =>
        let due : Bool := (s.ranker.go.map Go.t) == some t
        let d := dropPkt s i
        if due then snapshotOf d m (word64 (bs.take 8)) (bs.getD 8 0 != 0) (bs.getD 9 0 != 0) else d
      | _, _ => s
  else .next (captureDue s)

/-- A member's source number (R8, R143). -/
def memSource (m : BitVec 32) : Nat := memModule m * 4096 + memUnit m * 128 + memCore m

/-- Whether snapshot `a` ranks before `b` (R143): by SCORE descending, NaNs last, then by source number. -/
def ranksBefore (a b : Nat × Nat) : Bool :=
  let x := fp32.decode (a.1 % 2 ^ 32)
  let y := fp32.decode (b.1 % 2 ^ 32)
  if x.isNan && y.isNan then decide (a.2 < b.2)
  else if x.isNan then false
  else if y.isNan then true
  else if y.lt x then true
  else if x.lt y then false
  else decide (a.2 < b.2)

/-- Insert a member into a ranking. -/
def rankInsert (key : Nat → Nat × Nat) (k : Nat) : List Nat → List Nat
  | [] => [k]
  | a :: r => if ranksBefore (key k) (key a) then k :: a :: r else a :: rankInsert key k r

/-- The members of a population from the best rank down (R143). -/
def ranking (key : Nat → Nat × Nat) (n : Nat) : List Nat := (List.range n).foldl (fun l k => rankInsert key k l) []

/-- The pairs of a ranked go, with the lineage slots of those taken (R144). -/
def makePairs (g : PopSlot) (snaps : Tbl (Word × Bool)) (order : List Nat) : List Pair :=
  ((List.range g.k).foldl (fun (acc : List Pair × Nat) i =>
    let w := order.getD i 0
    let l := order.getD (g.nmem - 1 - i) 0
    let ok := ((Tbl.look snaps l).map (·.2)).getD false
    let p : Pair := { i := i, winner := w, loser := l, lslot := g.lnext + BitVec.ofNat 32 acc.2, taken := ok, status := none, started := false,
                      record := none, recorded := false, handed := none }
    (acc.1 ++ [p], acc.2 + b2n ok)) ([], 0)).1

/-- RANKING (R143, R144): once every member has been captured, pairs are made, RDY of each loser taken is cleared, and LNEXT advances.  RDY of a loser on another
module is cleared when its pair reaches that module's ranker (R152). -/
def execRanking (s : State) : Host.Outcome State Fault Refusal :=
  match s.ranker.go with
  | none => .next s
  | some go =>
    let g := s.pop go.slot
    if go.ranked ∨ go.quenched ∨ go.snaps.length < g.members.length then .next s
    else
      let key := fun (k : Nat) => ((((Tbl.look go.snaps k).map Prod.fst).getD 0).toNat % 2 ^ 32, memSource (g.members.getD k 0))
      let ps := makePairs g go.snaps (ranking key g.members.length)
      let taken := ps.filter (·.taken)
      let s := taken.foldl (fun s p =>
        let m := g.members.getD p.loser 0
        if s.ownMember m then s.modCore (memUnit m) (memCore m) fun c => { c with grdy := false } else s) s
      let s := s.setPop go.slot { g with lnext := g.lnext + BitVec.ofNat 32 taken.length }
      .next (s.modGo fun x => { x with ranked := true, pairs := ps })

/-! ### Deviates (R145, R146) -/

/-- `HashDeviate` of R145. -/
def hashDeviate (seed : Word) (l i : Nat) : Val :=
  let z := seed ^^^ (BitVec.ofNat 64 l <<< 40) ^^^ BitVec.ofNat 64 i
  let z := z + 0x9E3779B97F4A7C15
  let z := (z ^^^ (z >>> 30)) * 0xBF58476D1CE4E5B9
  let z := (z ^^^ (z >>> 27)) * 0x94D049BB133111EB
  let z := z ^^^ (z >>> 31)
  let t : Int := ((bits z.toNat 15 0 + bits z.toNat 31 16 + bits z.toNat 47 32 + bits z.toNat 63 48 : Nat) : Int) - 131070
  Val.ofInt (t * 111) (-22) false

/-- The offset of entry `j` of the noise table (R146). -/
def tableOffset (g : PopSlot) (l i : Nat) : Nat :=
  bits (g.hw 3) 25 0 + 4 * ((g.hw 2 + l * g.wlen + i) % 2 ^ bits (g.hw 3) 34 30)

/-- The deviates of `n` elements from `k` on: status DATA for a bad word of the table, RANGE past its vault. -/
def deviates (s : State) (bed : Nat) (g : PopSlot) (l k : Nat) : Nat → Tried (List Val)
  | 0 => .ok s []
  | n + 1 =>
    (deviates s bed g l k n).bind fun s vs =>
      if g.table then
        let off := tableOffset g l (k + n)
        if 2 ^ 26 < off + 4 then .err s 4 0 0
        else
          match s.take .ge (vaultKey bed (bits (g.hw 3) 29 26) off) 4 with
          | (s, some bs) => .ok s (vs ++ [fp32.decode (ofBytes bs)])
          | (s, none) => .err s 1 0 0
      else .ok s (vs ++ [hashDeviate (BitVec.ofNat 64 (g.hw 2)) l (k + n)])

/-! ### A pair in its graft unit (R147, R148) -/

/-- The population header, the winner and the loser of a pair's command; `firstEl` is the loser's member index, `count` the pair's number, `carry` the go's,
and `first` says that another module's ranker has handed it on (R152). -/
def Cmd.pop (c : Cmd) : PopSlot := { (default : PopSlot) with header := wordsOf (c.regData.getD []) }
def Cmd.winner (c : Cmd) : BitVec 32 := c.image.1.truncate 32
def Cmd.loser (c : Cmd) : BitVec 32 := c.image.2.truncate 32

/-- The entry of the loser core's route table for a winner (R148). -/
def graftEntry (s : State) (w : BitVec 32) : Nat := if s.ownMember w then 128 * memUnit w + memCore w else 0x700 + memRte w

/-- The leg to a winner outside the loser's bed, from the loser core's route table (R148). -/
def graftLegs (s : State) (l w : BitVec 32) : List (Nat × BitVec 256 × Nat) :=
  let n := graftEntry s w
  if s.ownMember w && memUnit w == memUnit l then []
  else
    let e := s.routeEntry (memUnit l) (memCore l) n
    if e.valid then [(7, s.routeString (memUnit l) (memCore l) n, e.lane)] else []

/-- The command of a pair. -/
def pairCmd (s : State) (header : List Word) (own ctx : Nat) (w l : BitVec 32) (ix i go : Nat) (guest : Bool) : Cmd :=
  { (default : Cmd) with
    op := .graft, place := ⟨memUnit l, memCore l, 0⟩, ownMod := own, ctx := ctx, engUnit := memUnit l, regData := some (wordsBytes header),
    firstEl := ix, count := i, image := (w.zeroExtend 64, l.zeroExtend 64), carry := go, first := guest, legs := graftLegs s l w }

/-- Where a graft unit's packets start: the loser core's router (R148). -/
def graftPort (c : Cmd) : Port := ⟨startLoc c.place.unit c.place.core, 0⟩

/-- Read `n` bytes of a member from a range on: directly in the unit's bed, else over the leg. -/
def graftFetch (s : State) (e : Eng) (c : Cmd) (m : BitVec 32) (r : Rng) (n : Nat) : Tried (List Byte) :=
  if s.ownMember m ∧ memUnit m = e.unit then
    match takeRange s e.unit .ge r n with
    | (s, some bs) => .ok s bs
    | (s, none) => .err s 1 0 0
  else
    let pa := BitVec.ofNat 64 (0xF * 2 ^ 60 + r.la)
    (blockPieces (n / 64 + 2) pa n).foldl (fun (acc : Tried (List Byte)) p =>
      acc.bind fun s bs =>
        (engRead s e (graftPort c) c p.1 (memModule m) (r.add (p.1 - pa).toNat) p.2).bind fun s b => .ok (keepRead s e p.1 b) (bs ++ b)) (.ok s [])

/-- Read `n` bytes of a member's memory through a window. -/
def graftRead (s : State) (e : Eng) (c : Cmd) (m : BitVec 32) (win off n : Nat) : Tried (List Byte) :=
  graftFetch s e c m (.core (memUnit m) (memCore m) win off) n

/-- A member's core. -/
def memPlace (m : BitVec 32) : Place := ⟨memUnit m, memCore m, 0⟩

/-- The offset of the scale byte of an element at an offset under an MXBASE (R48). -/
def scaleUnder (b : Word) (win off : Nat) : Nat :=
  if win = 4 then (b.toNat % 2 ^ 20 + off / 16) % 2 ^ 20 else (b.toNat / 2 ^ 20 % 2 ^ 20 + off / 32) % 2 ^ 20

/-- The scale byte of a winner's block (R48, R148): MXBASE is read with it. -/
def winnerScale (s : State) (e : Eng) (c : Cmd) (w : BitVec 32) (win off : Nat) : Tried Nat :=
  let mx : Tried (List Byte) :=
    if s.ownMember w ∧ memUnit w = e.unit then .ok s (bytesOf 8 (s.coreAt (memPlace w)).mxbase.toNat)
    else graftFetch s e c w (.page (memUnit w) (memCore w) 0x100) 8
  mx.bind fun s b =>
    let o := scaleUnder (word64 b) win off
    if 0xF0000 ≤ o then .err s 4 0 0 else (graftRead s e c w 0 o 1).bind fun s bs => .ok s (ofBytes bs)

/-- The entries of a winner's code table for the codes of a block (R47, R147). -/
def winnerTable (s : State) (e : Eng) (c : Cmd) (w : BitVec 32) (codes : List Nat) : Tried (List Nat) :=
  codes.foldl (fun (acc : Tried (List Nat)) k =>
    acc.bind fun s l => (graftRead s e c w 0 (0xFC800 + 4 * k) 4).bind fun s bs => .ok s (l ++ [ofBytes bs % 2 ^ 19])) (.ok s [])

/-- The value a winner's code decodes to (R47, R147); `entry` is that of its code table. -/
def winnerValue (fmt code scale entry : Nat) : Val :=
  if fmt = 0 then fp32.decode code
  else if fmt = 2 then fp32.decode (fp32.round .rne (e8m10.decode entry))
  else if fmt = 6 then fp32.decode (fp32.round .rne (bf16.decode code))
  else fp32.decode (fp32.round .rne (mxValue (fmt == 5) code scale))

/-- y of R147. -/
def grafted (sigma : Nat) (x eps : Val) : Nat := fp32.round .rne (Val.add .rne x (fp32.decode (fp32.round .rne (Val.mul (fp32.decode sigma) eps))))

/-- y in the loser's format (R147). -/
def loserCode (s : State) (l : BitVec 32) (fmt code scale y : Nat) : Nat :=
  let v := fp32.decode y
  if fmt = 0 then y
  else if fmt = 6 then bf16.round .rne v
  else if fmt = 2 then (encodeTable (codesByRank8.map fun c => (c, codeTable s (memPlace l) c)) v).1
  else if scale = 0xFF then code
  else (mxFmt (fmt == 5)).round .rne (v.scale (127 - (scale : Int)))

/-- Codes of a weight window's bytes, and back. -/
def codesOf (fmt : Nat) (bs : List Byte) : List Nat :=
  if fmt = 4 then bs.flatMap fun b => [b.toNat % 16, b.toNat / 16]
  else
    let n := if fmt = 0 then 4 else if fmt = 6 then 2 else 1
    (chunks n (bs.length + 1) bs).map ofBytes
def bytesOfCodes (fmt : Nat) (cs : List Nat) : List Byte :=
  if fmt = 4 then (chunks 2 (cs.length + 1) cs).map fun l => BitVec.ofNat 8 (l.getD 0 0 + 16 * l.getD 1 0)
  else cs.flatMap fun c => bytesOf (if fmt = 0 then 4 else if fmt = 6 then 2 else 1) c

/-- Write a block of a loser: its codes and, for an MX format, its scale byte. -/
def writeLoser (s : State) (l : BitVec 32) (fmt off scale : Nat) (bs : List Byte) : Tried Unit :=
  let s1 := s.put .ge (coreKey (memUnit l) (memCore l) off) bs
  if fmt = 4 ∨ fmt = 5 then
    let o := scaleOff s (memPlace l) fmt off
    if 0xF0000 ≤ o then .err s 4 0 0 else .ok (s1.put .ge (coreKey (memUnit l) (memCore l) o) [BitVec.ofNat 8 scale]) ()
  else .ok s1 ()

/-- The next 32 elements of a pair (R147, R148). -/
def graftBlock (s : State) (e : Eng) (c : Cmd) : Tried Unit :=
  let x := s.eng e
  let g := c.pop
  let k := x.pos
  let n := min 32 (g.wlen - k)
  let off := g.woff + (weightBytes g.fmt k).getD 0
  (graftRead s e c c.winner g.fmt off ((weightBytes g.fmt n).getD 0)).bind fun s bs =>
    (if g.fmt = 4 ∨ g.fmt = 5 then winnerScale s e c c.winner g.fmt off else .ok s 0).bind fun s sc =>
     (winnerTable s e c c.winner (if g.fmt = 2 then codesOf g.fmt bs else [])).bind fun s tab =>
      (deviates s e.unit g c.firstEl k n).bind fun s eps =>
        let cs := codesOf g.fmt bs
        let out := (List.range n).map fun j =>
          let code := cs.getD j 0
          loserCode s c.loser g.fmt code sc (grafted g.sigma (winnerValue g.fmt code sc (tab.getD j 0)) (eps.getD j (.fin false 0 0)))
        (writeLoser s c.loser g.fmt off sc (bytesOfCodes g.fmt out)).bind fun s _ =>
          .ok (s.modEng e fun x => { x with pos := k + n, got := [] }) ()

/-- A pair ends: the report, which for another module's ranker answers the packet that handed it on (R152), then the arrival on BAR of the loser core, whose threads then see the graft writes (R148, R203); a quenched pair makes
neither (R150). -/
def graftEnd (s : State) (e : Eng) (c : Cmd) (status : Nat) : State :=
  let q := (s.eng e).active
  let s := s.modEng e Engine.idle
  if status = 6 then s
  else
    let s := if c.first then (match q with
        | some q => { s with pkts := s.pkts ++ [respond q 0x18 1 (.progress 0 status true 0 0 0 none 0)] }
        | none => s)
      else { s with ranker := { s.ranker with reports := s.ranker.reports ++ [(c.carry, c.count, status)] } }
    let p := c.place
    let lo := coreKey p.unit p.core 0
    let s := performOn s [unitKey p.unit p.core] fun l => l.writer == .ge && decide (lo ≤ l.key ∧ l.key < lo + 2 ^ 20)
    let s := s.release (barrierKey s p.unit p.core c.pop.bar) (s.pending fun l => l.writer == .ge && decide (lo ≤ l.key ∧ l.key < lo + 2 ^ 20))
    hwArrive s p.unit p.core c.pop.bar

/-- One turn of a graft unit: the next pair, the next block of it, or its end. -/
def graftTurn (s : State) (e : Eng) : State :=
  let x := s.eng e
  match x.active, x.cmd with
  | none, _ => engNext s e
  | some _, some c =>
    match x.err with
    | some (n, _, _) => if x.rd.isNone then graftEnd s e c n else s
    | none => if x.rd.isSome then s else if c.pop.wlen ≤ x.pos then graftEnd s e c 0 else (graftBlock s e c).settle e
  | some _, none => s

/-- Queue another module's pair with the packet that brought it, and clear RDY of its loser (R144, R152). -/
def queueGuest (s : State) (q : Pkt) (c : Cmd) : State :=
  (s.modEng ⟨c.engUnit, 2, 0⟩ fun x => { x with queue := x.queue ++ [{ q with body := .cmd c }] }).modCore c.place.unit c.place.core fun k => { k with grdy := false }

/-- Queue a pair at a graft unit with room. -/
def queuePair (s : State) (c : Cmd) : State :=
  let e : Eng := ⟨c.engUnit, 2, 0⟩
  (s.modEng e fun x => { x with queue := x.queue ++ [mkPkt s c.place 5 0 (engineAddr c.engUnit 0 0) (.cmd c)] }).tick

/-- Whether a graft unit takes another pair of an owner. -/
def graftRoom (s : State) (unit own ctx : Nat) : Bool :=
  decide ((s.eng ⟨unit, 2, 0⟩).queue.length < 16) && !(s.eng ⟨unit, 2, 0⟩).refuse.contains (own, ctx)

/-- The next pair of the running go for a bed, in ascending i. -/
def nextPair (s : State) (bed : Nat) : Option (Go × PopSlot × Pair) :=
  match s.ranker.go with
  | none => none
  | some go =>
    let g := s.pop go.slot
    (go.pairs.find? fun p => p.taken && !p.started && s.ownMember (g.members.getD p.loser 0) && memUnit (g.members.getD p.loser 0) == bed).map fun p => (go, g, p)

/-! ### Reports, records and the end (R149, R150) -/

/-- The words of a lineage record (R149). -/
def recordWords (g : PopSlot) (go : Go) (p : Pair) : List Word :=
  let m := fun k => (g.members.getD k 0).toNat % 2 ^ 24
  [go.t, pack [(0, m p.winner), (24, m p.loser), (48, p.i), (59, b2n g.table), (60, p.status.getD 0)], BitVec.ofNat 64 (g.hw 2),
   pack [(0, g.sigma), (32, (((Tbl.look go.snaps p.winner).map Prod.fst).getD 0).toNat % 2 ^ 32)]]

/-- Change pair `i` of the running go. -/
def State.modPair (s : State) (i : Nat) (f : Pair → Pair) : State :=
  s.modGo fun g => { g with pairs := g.pairs.map fun p => if p.i = i then f p else p }

/-- The program address of a pair's record (R149). -/
def recordPa (g : PopSlot) (p : Pair) : Word := g.header.getD 4 0 + BitVec.ofNat 64 (32 * (p.lslot.toNat % 2 ^ g.logsz))

/-- The place of a record in the HBM of this module, or none where there is no such place; nothing while the page of a paged LBASE is still to be asked for, as an engine
asks for one (R121, R140; DESIGN CHOICE, assumption 67). -/
def recordAt (s : State) (g : PopSlot) (p : Pair) : Option (Option Rng) :=
  let pa := recordPa g p
  if fixedMap pa then some (some (decodeLa 31 0 (pa.toNat % 2 ^ 52)))
  else
    (tlbLookup s.ranker.tlb s.moduleNo.toNat g.ctx pa).map fun t =>
      let sa := (t.2.addr pa).toNat
      if t.2.wr ∧ sa / 2 ^ 52 = s.moduleNo.toNat then some (decodeLa 31 0 (sa % 2 ^ 52)) else none

/-- Ask for the page of a pair's record: a miss of the engine at unit 25, the ranker's, that the core which ran `graft.cfg` sends on (R121, R158, R162). -/
def askPage (s : State) (g : PopSlot) (p : Pair) : State :=
  if s.ranker.asked.isSome then s
  else if 12 ≤ s.serviceBed g.place then s.modPair p.i fun p => { p with recorded := true }
  else
    let ix := ((List.range 32).find? fun i => (Tbl.look s.ranker.tlb i).isNone).getD ((Config.freeWord s.free).toNat % 32)
    let pa := recordPa g p
    let ws := missWords pa g.ctx g.place 1 ((Config.freeWord (s.free + 1)).getLsbD 0) true 25 0 2 ix (Tbl.look s.ranker.tlb ix) s.ts
    sendMiss s.tick.tick g.place pa ws s fun s => { s with ranker := { s.ranker with asked := some p.i } }

/-- Send the record of a pair over the ranker's copied leg to its HBM die, once its page is known; one that has no placement or no leg cannot be written, and counts as done. -/
def sendRecord (s : State) (i : Nat) : State :=
  match s.ranker.go with
  | none => s
  | some go =>
    let g := s.pop go.slot
    match go.pairs.find? fun p => p.i == i with
    | none => s
    | some p =>
      match recordAt s g p with
      | none => askPage s g p
      | some (some (.hbm off)) =>
        match s.hbmPlace 25 off with
        | none => s.modPair i fun p => { p with recorded := true }
        | some (e, st, _) =>
          match (Tbl.look g.legs (0x7D0 + st / 2)).filter fun l => (routeRefused false true l.1).isNone with
          | none => s.modPair i fun p => { p with recorded := true }
          | some (str, lane) =>
            let bs := wordsBytes (recordWords g go p)
            let ms := (List.range 32).map fun k => (off % 64 + k, (0xFF : Byte), bs.getD k 0)
            let q := { mkPkt s ⟨25, 0, 0⟩ 6 3 (Rng.hbm (off / 64 * 64)).la (.engWrite ms g.ctx.toNat g.ownMod.toNat .ge) with
                       info := byteMask ms, loc := .gateway 1 false false, iport := 3, route := str, route0 := str, lane := lane, lane0 := lane,
                       rstamp := e.stamp }
            ({ s with pkts := s.pkts ++ [q] }.modPair i fun p => { p with record := some q.id }).tick
      | _ => s.modPair i fun p => { p with recorded := true }

/-- The next record that has waited for its page goes out. -/
def retryRecord (s : State) : State :=
  match s.ranker.go.bind fun g => if g.quenched then none else g.pairs.find? fun p => p.taken && p.status.isSome && p.record.isNone && !p.recorded with
  | some p => sendRecord s p.i
  | none => s

/-- A report reaches the ranker: the pair's status, and its record is written (R149); a quenched go writes none (R150). -/
def pairReported (s : State) (i status : Nat) : State :=
  match s.ranker.go with
  | none => s
  | some go =>
    if go.quenched ∨ (go.pairs.any fun p => p.i == i && p.taken && p.started && p.status.isNone) = false then s
    else sendRecord (s.modPair i fun p => { p with status := some status }) i

/-- Hand the next pair whose loser is on another module to that module's ranker, over the loser's copied leg (R152), after the pairs of
lower i for the same graft unit (R148); without a leg its status is ROUTE. -/
def handPair (s : State) : State :=
  match s.ranker.go with
  | none => s
  | some go =>
    let g := s.pop go.slot
    let bed := fun (p : Pair) => let m := g.members.getD p.loser 0; (memModule m, memUnit m)
    match go.pairs.find? fun p => p.taken && !p.started && !(s.ownMember (g.members.getD p.loser 0)) &&
        go.pairs.all fun q => !(q.taken && q.started && q.status.isNone && bed q == bed p) with
    | none => s
    | some p =>
      if go.quenched then s
      else
        let l := g.members.getD p.loser 0
        match rankerPkt s g l 3 (.pair g.header (g.members.getD p.winner 0) l p.loser p.i g.ctx.toNat g.ownMod.toNat) with
        | some q => ({ s with pkts := s.pkts ++ [q] }.modPair p.i fun p => { p with started := true, handed := some q.id }).tick
        | none => pairReported (s.modPair p.i fun p => { p with started := true }) p.i 2

/-- Another module's pair at link die 1: it goes to the graft unit of its loser's bed once there is room, and is refused REJECT under a quench (R124, R152). -/
def takePair (s : State) (i : Nat) (q : Pkt) : State :=
  match q.body with
  | .pair h w l ix n ctx own =>
    if 12 ≤ memUnit l ∨ memModule l ≠ s.moduleNo.toNat then nackPkt s i q 1
    else if (s.eng ⟨memUnit l, 2, 0⟩).refuse.contains (own, ctx) then nackPkt s i q 5
    else if graftRoom s (memUnit l) own ctx then
      let s := s.seeRoute (memUnit l) (memCore l) 3 (graftEntry s w)
      queueGuest (dropPkt s i) q (pairCmd s h own ctx w l ix n 0 true)
    else s
  | _ => s

/-- GRAFT_PAIR (R145 to R148, R150, R152): the graft unit of bed `arg.unit` is handed its next pair, or does the next block of the one it has, or ends it.  With
`arg.flag` the ranker hands on its next pair whose loser is on another module; with `arg.flag2` packet `arg.index`, another module's pair, is taken at link die 1. -/
def execGraftPair (s : State) : Host.Outcome State Fault Refusal :=
  let b := s.arg.unit
  let e : Eng := ⟨b, 2, 0⟩
  if s.arg.flag then .next (handPair s)
  else if s.arg.flag2 then serving s takePair
  else if 12 ≤ b then .next s
  else
    match nextPair s b with
    | some (go, g, p) =>
      if graftRoom s b g.ownMod.toNat g.ctx.toNat ∧ go.quenched = false then
        let l := g.members.getD p.loser 0
        let s := s.seeRoute (memUnit l) (memCore l) 3 (graftEntry s (g.members.getD p.winner 0))
        let c := pairCmd s g.header g.ownMod.toNat g.ctx.toNat (g.members.getD p.winner 0) (g.members.getD p.loser 0) p.loser p.i go.id false
        .next ((queuePair s c).modPair p.i fun q => { q with started := true })
      else .next (graftTurn s e)
    | none => .next (graftTurn s e)

/-- The report of a pair handed to another module, by the number of the packet that handed it on. -/
def handedReport (s : State) (id status : Nat) : State :=
  match s.ranker.go.bind fun g => g.pairs.find? fun p => p.handed == some id with
  | some p => pairReported s p.i status
  | none => s

/-- PAIR_REPORT (R148, R149, R152): report `arg.index` reaches the ranker; with `arg.flag` it is that of another module, response `arg.index`. -/
def execPairReport (s : State) : Host.Outcome State Fault Refusal :=
  if s.arg.flag then
    answering s fun s i q =>
      match q.req.2.2, q.body with
      | .pair _ _ _ _ _ _ _, .progress _ st true _ _ _ _ _ => handedReport (dropPkt s i) q.id st
      | _, _ => s
  else
    match s.ranker.reports[s.arg.index]? with
    | none => .next s
    | some (id, i, st) =>
      let s := { s with ranker := { s.ranker with reports := s.ranker.reports.eraseIdx s.arg.index } }
      if (s.ranker.go.map Go.id) = some id then .next (pairReported s i st) else .next s

/-- Whether a graft unit of this module still has a pair of a go, or its report is on its way. -/
def pairAlive (s : State) (go i : Nat) : Bool :=
  s.ranker.reports.any (fun r => r.1 == go && r.2.1 == i) ||
  (List.range 12).any fun b =>
    let x := s.eng ⟨b, 2, 0⟩
    (x.active.toList ++ x.queue).any fun q => match q.body with
      | .cmd c => c.carry == go && c.count == i && !c.first
      | _ => false

/-- PAIR_TIMEOUT (R150): pair `arg.index` has made no report for 1 ms, because its bed was reset or its module does not answer: status ROUTE. -/
def execPairTimeout (s : State) : Host.Outcome State Fault Refusal :=
  match s.ranker.go with
  | some go => if pairAlive s go.id s.arg.index then .next s else .next (pairReported s s.arg.index 2)
  | none => .next s

/-- Whether the running go is over: every taken pair is recorded, or the go is quenched. -/
def Go.finished (g : Go) : Bool := g.quenched || (g.ranked && g.pairs.all fun p => !p.taken || (p.status.isSome && p.recorded))

/-- GO_END (R149, R150, R152): while records wait for a page, one is tried again; at the end POPST is updated, GOBUSY clears unless another go of the slot is queued, and the IBAR arrival is made unless the go was
quenched. -/
def execGoEnd (s : State) : Host.Outcome State Fault Refusal :=
  match s.ranker.go with
  | none => .next s
  | some go =>
    if go.finished = false then .next (retryRecord s)
    else
      let g := s.pop go.slot
      let count := fun (f : Pair → Bool) => (go.pairs.filter f).length
      let s := s.setPop go.slot
        { g with snapts := go.t, grafted := count fun p => p.taken && p.status == some 0, skipped := count fun p => !p.taken,
                 failed := count fun p => p.taken && p.status.isSome && p.status != some 0, late := go.late,
                 gobusy := s.ranker.queue.any fun (q : Nat × Place) => q.1 == go.slot }
      let s := { s with ranker := { s.ranker with go := none, reports := s.ranker.reports.filter fun (r : Nat × Nat × Nat) => r.1 != go.id } }
      let s := if (g.hw 5).testBit 11 ∧ go.quenched = false then
        let n := bits (g.hw 5) 10 0
        hwArrive (s.release (barrierKey s go.place.unit go.place.core n) (s.pending fun l => l.writer == .ge)) go.place.unit go.place.core n else s
      .next (wakeRanker s)

/-! ### Answers to the ranker's writes -/

/-- A record has been performed, or will never be. -/
def recordDone (s : State) (id : Nat) : State :=
  s.modGo fun g => { g with pairs := g.pairs.map fun p => if p.record = some id then { p with recorded := true } else p }

/-- The pair whose record's write has a number. -/
def recordPair (s : State) (id : Nat) : Option Nat :=
  match s.ranker.go with
  | some go => if go.quenched then none else (go.pairs.find? fun p => p.record == some id && !p.recorded).map (·.i)
  | none => none

/-- Send a record that waited again, placed anew (R182). -/
def recordAgain (s : State) (id : Nat) : State :=
  match recordPair s id with
  | some i => sendRecord s i
  | none => s

end Sys2Proof.Machine
end

