-- ==== Sys2Proof/Machine/Replies.lean ====
section
/-! DEFINITION. What comes back: answers that reach their issuer (R80), NACKs (R90 to R92, R182), and requests that are sent again after a wait (R106, R182,
R185). -/

namespace Sys2Proof.Machine

/-! ### Sending again -/

/-- The request a response answers, as it was injected. -/
def Pkt.again (q : Pkt) : Pkt :=
  { q with resp := false, kind := q.req.1, len := q.req.2.1, body := q.req.2.2, hop := 0, last := 0, lastv := false, route := q.route0,
           lane := q.lane0, loc := startLoc q.place.unit q.place.core, req := (0, 0, .none) }

/-- Inject a command packet on its command route (R104, R134): an engine of a rim core's own die needs none (R77). -/
def injectCommand (s : State) (p : Place) (c : Cmd) (q : Pkt) : Inject :=
  if p.rim ∧ c.cmdEntry = unitIx p.unit then .sent (injectLocal s q (.atRim (p.unit - 16) none)) else injectOn s p c.cmdEntry q

/-- Put an implicit request of a core back into the fabric; one whose entry has VALID 0 waits for the entry (R92). -/
def reinject (s : State) (q : Pkt) : State :=
  let p := q.place
  let q := { q with loc := startLoc p.unit p.core, rstamp := s.stampFor p.unit q.rng }
  let (r, n) : Inject × Nat := match q.body with
    | .cmd c => (injectCommand s p c q, c.cmdEntry)
    | .quench _ _ => let n := (q.entry.map (·.1)).getD 0; (injectOn s p n q, n)
    | .fill _ _ _ _ => let n := (q.entry.map (·.1)).getD 0; (injectOn s p n q, n)
    | _ => (inject s p q.rng q, s.routeIx p.unit q.rng)
  match r with
  | .sent s => s
  | .park s => { s with retries := s.retries ++ [{ pkt := { q with entry := some (n, 0) }, why := 2 }] }

/-- Whether a slot waits for the answer of a request. -/
def Slot.waitsFor (x : Slot) (q : Pkt) (b : Body) : Bool :=
  match x.wait with
  | some (.answer id _) => id == q.id
  | some (.refill line) => b == .load 64 true && line == locKey q.rng / 64
  | _ => false

/-- Let the slot that waits for a request run its word again; a load that its thread has gone on past is taken up again. -/
def wakeFor (s : State) (q : Pkt) (b : Body) : State := s.modSlot q.place fun x => if x.waitsFor q b then x.wake else x.gets q.id []

/-- Let a buffered store be sent again. -/
def unsend (s : State) (q : Pkt) : State :=
  s.modCoreAt q.place fun c => { c with sbuf := c.sbuf.map fun e => if e.id = q.id then { e with sent := none } else e }

/-- The program address of an engine's request. -/
def Engine.addrOf (x : Engine) (id : Nat) : Word :=
  match x.outs.find? fun o => o.1 == id with
  | some o => o.2.2
  | none => match x.rd with
    | some (_, a) => BitVec.ofNat 64 a
    | none => 0

/-- Forget a request of an engine that will not be answered. -/
def Engine.forget (x : Engine) (id : Nat) : Engine :=
  { x with outs := x.outs.filter (fun o => o.1 != id), rd := if x.rd.map (·.1) = some id then none else x.rd,
           ent := if x.ent.map (·.1) = some id then none else x.ent }

/-- Send an engine's request again: HBM is placed anew (R182).  A command that has failed meanwhile sends nothing more. -/
def engResend (s : State) (e : Eng) (q : Pkt) : State :=
  let x := s.eng e
  if x.err.isSome then s.modEng e fun x => x.forget q.id
  else
    match x.cmd with
    | none => { s with pkts := s.pkts ++ [q] }
    | some c =>
      match engInject s e c { q with loc := (if e.kind = 2 then graftPort c else e.port).loc } q.rng (q.kind == 6) (x.addrOf q.id) with
      | .ok s _ => s
      | .wait s => s
      | .err s n a i => engFail (s.modEng e fun x => x.forget q.id) e n a i

/-- The encoder and the header read of one of its probes that a request is for (R135). -/
def peekOf (s : State) (id : Nat) : Option (Eng × Peek) :=
  allEngines.findSome? fun e => ((s.eng e).peeks.find? fun k => k.words.isNone && k.rd == id).map fun k => (e, k)

/-- The probe that a header read is for, still at its encoder, and where its header stands. -/
def probeOf' (s : State) (e : Eng) (k : Peek) : Option (Pkt × Nat × Nat) :=
  (s.pkts.find? fun q => q.id == k.probe && !q.resp).bind fun q =>
    match q.body with
    | .probe pa ctx own _ => match probeAt (s.eng e) ctx own pa with
      | some (some (m, .hbm off)) => some (q, m, off)
      | _ => none
    | _ => none

/-- A read for a probe comes back: the region's entry leads to the header, and the header's words are the probe's answer; a bad word leaves it free. -/
def peekAnswered (s : State) (e : Eng) (k : Peek) (q : Pkt) : State :=
  match q.rng, q.body with
  | .rimDie _ _ _, .data bs =>
    let g := Region.ofWords (word64 (bs.take 8)) (word64 ((bs.drop 8).take 8))
    (match probeOf' s e k with
     | some (p, m, off) => peekHeader (s.modEng e fun x => x.modPeek k.probe fun k => { k with entry := some g }) e p m off (some g)
     | none => s.modEng e fun x => { x with peeks := x.peeks.filter fun j => j.probe != k.probe })
  | _, .data bs => s.modEng e fun x => x.modPeek k.probe fun k => { k with words := some (headWords bs) }
  | _, _ => peekFree s e k.probe

/-- A NACK of a read for a probe: REHOME is followed to the region's entry, BUSY is sent again, any other leaves the answer free. -/
def peekNacked (s : State) (e : Eng) (k : Peek) (q : Pkt) (reason : Nat) : State :=
  if reason = 4 then { s with retries := s.retries ++ [{ pkt := q.again, why := 0 }] }
  else
    match (if reason = 3 then probeOf' s e k else none) with
    | some (p, m, off) =>
      match p.body with
      | .probe _ _ _ legs =>
        let leg := ((legs.find? fun l => l.2.1 == q.route0).map (·.1)).getD 0
        peekSend s e p m (.rimDie leg 0 (16 * (off / regionSize))) 16 leg 0
      | _ => s
    | none => peekFree s e k.probe

/-- Send a request that has waited again: a thread's access is executed again, a buffered store leaves again, an engine places its access anew. -/
def retryNow (s : State) (q : Pkt) : State :=
  match engineOf s q.id with
  | some e => engResend s e q
  | none =>
    match q.body with
    | .load _ _ => wakeFor s q q.body
    | .rmw _ => wakeFor s q q.body
    | .record _ => wakeFor s q q.body
    | .probe _ _ _ _ => wakeFor s q q.body
    | .store _ false => unsend s q
    | .engRead _ _ _ _ => if (peekOf s q.id).isSome then { s with pkts := s.pkts ++ [q] } else s
    | .engWrite _ _ _ _ => recordAgain s q.id
    | .snap _ _ => { s with pkts := s.pkts ++ [{ q with loc := .gateway 1 false false }] }
    | .pair _ _ _ _ _ _ _ => { s with pkts := s.pkts ++ [{ q with loc := .gateway 1 false false }] }
    | _ => reinject s q

/-- Whether a request that waits may be sent: one that waits for its entry when the entry is valid again (R92). -/
def retryDue (s : State) (r : Retry) : Bool :=
  match r.pkt.entry with
  | some (n, _) => r.why != 2 || (s.routeEntry r.pkt.place.unit r.pkt.place.core n).valid
  | none => true

/-- Take up retry `n` of some kinds. -/
def takeRetry (s : State) (n : Nat) (kinds : List Nat) : State :=
  match s.retries[n]? with
  | none => s
  | some r => if kinds.contains r.why && retryDue s r then retryNow { s with retries := s.retries.eraseIdx n } r.pkt else s

/-- BUSY_RETRY_TIMER (R92, R106, R158, R185, R247): retry `arg.index`, refused BUSY 256 cycles ago or stopped at its route entry, is sent again. -/
def execBusyRetryTimer (s : State) : Host.Outcome State Fault Refusal := .next (takeRetry s s.arg.index [0, 2])

/-- WFZ_RETRY_TIMER (R182): retry `arg.index`, a write that met a frozen region 1 µs ago, is sent again. -/
def execWfzRetryTimer (s : State) : Host.Outcome State Fault Refusal := .next (takeRetry s s.arg.index [1])

/-! ### Answers -/

/-- A read of an engine comes back (R123, R456): an uncorrectable word ends the command with DATA (R122). -/
def engData (s : State) (e : Eng) (q : Pkt) : State :=
  let x := s.eng e
  match x.rd, q.body with
  | some (_, a), .data bs =>
    let s := s.modEng e fun x => x.forget q.id
    if x.err.isSome then s
    else
      let (s, bs) := strike s e q.dmod q.rng bs
      keepRead s e (BitVec.ofNat 64 a) bs
  | some (_, a), _ => engFail (s.modEng e fun x => x.forget q.id) e 1 (BitVec.ofNat 64 a) 0
  | none, _ => s

/-- A region entry of another module comes back: it is kept, and the accesses that wait for it are sent (R105, R182). -/
def engEntry (s : State) (e : Eng) (q : Pkt) (bs : List Byte) : State :=
  match (s.eng e).ent with
  | none => s
  | some (_, m, n) =>
    let g := Region.ofWords (word64 (bs.take 8)) (word64 ((bs.drop 8).take 8))
    let s := s.modEng e fun x =>
      { x.forget q.id with foreign := x.foreign.filter (fun f => !(f.1 == m && f.2.1 == n)) ++ [(m, n, g)] }
    let mine := s.retries.filter fun r => r.why == 3 && engineOf s r.pkt.id == some e
    let s := { s with retries := s.retries.filter fun r => !(r.why == 3 && engineOf s r.pkt.id == some e) }
    mine.foldl (fun s r =>
      match r.pkt.rng with
      | .hbm off =>
        if r.pkt.dmod = m ∧ off / regionSize = n ∧ g.wfz ∧ r.pkt.kind = 6 then { s with retries := s.retries ++ [{ r with why := 1 }] }
        else engResend s e r.pkt
      | _ => engResend s e r.pkt) s

/-- An answer to an engine. -/
def engAnswered (s : State) (e : Eng) (q : Pkt) : State :=
  let x := s.eng e
  if x.ent.map (·.1) = some q.id then
    match q.body with
    | .data bs => engEntry s e q bs
    | _ => engFail (s.modEng e fun x => x.forget q.id) e 2 0 0
  else if x.rd.map (·.1) = some q.id then engData s e q
  else s.modEng e fun x => x.forget q.id

/-- Wake what waits on a core for its acknowledgements and its mailbox. -/
def acked (s : State) (p : Place) : State := wakeCore s p.unit p.core fun w => w == .drain || w == .queue

/-- One packet fewer in flight for which the slot waits, and its reserved mailbox entry released (R117). -/
def packetDone (s : State) (p : Place) : State :=
  acked ((s.modSlot p fun x => { x with expOut := x.expOut - 1 }).modCoreAt p fun c => { c with mbrsv := c.mbrsv - 1 }) p

/-- The arrival an `mcmd` makes when its answer comes, whatever it is (R384). -/
def matrixAnswer (s : State) (p : Place) (bar : Option Nat) : State :=
  match bar with
  | some n => hwArrive s p.unit p.core n
  | none => s

/-- ACKNOWLEDGEMENT (R80, R117, R332, R334, R384): acknowledgement or data response `arg.index` completes the access, packet or update it answers. -/
def execAcknowledgement (s : State) : Host.Outcome State Fault Refusal :=
  answering s fun s i q =>
    let p := q.place
    if q.kind = 0x1A then s
    else
      match engineOf s q.id with
      | some e => engAnswered (dropPkt s i) e q
      | none =>
        match q.req.2.2, q.body with
        | .load _ false, .data bs => giveAnswer s i q (.data q.dest bs)
        | .load _ false, _ => giveAnswer s i q .bad
        | .rmw _, .value v => giveAnswer s i q (.value v)
        | .rmw _, _ => giveAnswer s i q .bad
        | .record _, _ => giveAnswer s i q .done
        | .store _ false, _ => acked ((dropPkt s i).modCoreAt p fun c => { c with sbuf := c.sbuf.eraseP fun e => e.sent.isSome && e.id == q.id }) p
        | .store _ true, _ => acked ((dropPkt s i).modSlot p fun x => { x with ntOut := x.ntOut.filter fun e => e.1 != q.id }) p
        | .miss _, _ => dropPkt s i
        | .red _ _ _ _ _, _ => acked ((dropPkt s i).modSlot p fun x => { x with redOut := x.redOut - 1 }) p
        | .message _, _ => packetDone (dropPkt s i) p
        | .bulk _, _ => packetDone (dropPkt s i) p
        | .mcmd _ _ bar, _ => matrixAnswer (acked ((dropPkt s i).modCoreAt p fun c => { c with mbrsv := c.mbrsv - 1 }) p) p bar
        | .engRead _ _ _ _, _ => (match peekOf s q.id with
          | some (e, k) => peekAnswered (dropPkt s i) e k q
          | none => dropPkt s i)
        | .fill _ _ _ _, _ => dropPkt s i
        | .engWrite _ _ _ _, _ => recordDone (dropPkt s i) q.id
        | _, _ => s

/-! ### NACKs (R90 to R92, R182) -/

/-- INFO of a NACK as its issuer sees it (R90). -/
def nackInfo (q : Pkt) (reason hopix : Nat) : Word :=
  pack [(0, reason), (4, hopix % 128), (11, q.req.1), (16, (q.entry.map (·.1)).getD 0), (27, b2n q.entry.isSome)]

/-- A NACK with reason 0 to 2 meets the head entry: unchanged, it loses VALID and ROUTE is raised; its number, or none when it has changed (R92). -/
def nackEntry (s : State) (q : Pkt) (reason hopix : Nat) : State × Option Nat :=
  let p := q.place
  match q.entry with
  | none => (s, none)
  | some (n, raw) =>
    if (s.routeEntry p.unit p.core n).raw ≠ raw then (s, none)
    else (routeEvent (clearValid s p.unit p.core n) p n reason hopix, some n)

/-- Hold a request back, to be sent again. -/
def holdBack (s : State) (q : Pkt) (why : Nat) : State := { s with retries := s.retries ++ [{ pkt := q.again, why := why }] }

/-- Refresh the source's region entry from the die that sent REHOME (R182): the entry. -/
def rehomed (s : State) (unit : Nat) (q : Pkt) (die : Nat) : State × Region :=
  match q.rng with
  | .hbm off => let s := s.refreshRegion unit (die - 16) (off / regionSize); (s, s.regionFor unit (off / regionSize))
  | _ => (s, Region.none)

/-- The trap of a retired store whose region has lost its placement: that of an access to a hole, at the next boundary (R18, R182). -/
def storeLost (s : State) (p : Place) (pa : Word) : State :=
  let free := letGo s p
  s.modSlot p fun x => if x.pend.isSome ∨ (x.st ≠ .run ∧ x.st ≠ .wait) then x
    else { x with pend := some (5, 0, pa, 0, 0), wait := if free then none else x.wait, st := if free ∧ x.st = .wait then .run else x.st }

/-- A NACK of the access a slot waits on. -/
def nackWaiting (s : State) (q : Pkt) (reason hopix unit : Nat) : State :=
  let p := q.place
  let b := q.req.2.2
  if (s.slot p).waitsFor q b = false ∧ ((s.slot p).ahead.all fun a => a.id != q.id) then s
  else if reason ≤ 2 then
    match nackEntry s q reason hopix with
    | (s, none) => wakeFor s q b
    | (s, some n) => if (s.slot p).ahead = [] then parkLeaves (parkRoute (quitWaits s p) p n) p else wakeFor s q b
  else if reason = 4 then
    match b with
    | .record _ => s.modSlot p fun x => { x.wake with resp := .busy :: x.resp }
    | _ => holdBack s q 0
  else
    let (s, g) := rehomed s p.unit q unit
    let write : Bool := match b with
      | .rmw _ => true
      | _ => false
    if g.mode ≠ 3 ∧ write ∧ g.wfz then holdBack s q 1 else wakeFor s q b

/-- A NACK of a store in the buffer, which has retired. -/
def nackBuffered (s : State) (q : Pkt) (reason hopix unit : Nat) : State :=
  let p := q.place
  match (s.coreAt p).sbuf.find? fun e => e.sent.isSome && e.id == q.id with
  | none => s
  | some e =>
    if reason ≤ 2 then
      match nackEntry s q reason hopix with
      | (s, none) => unsend s q
      | (s, some n) => parkLater (unsend s q) p n
    else if reason = 4 then holdBack s q 0
    else
      let (s, g) := rehomed s p.unit q unit
      if g.mode = 3 then
        storeLost (acked (s.modCoreAt p fun c => { c with sbuf := c.sbuf.eraseP fun f => f.sent.isSome && f.id == q.id }) p) p e.pa
      else if g.wfz then holdBack s q 1
      else unsend s q

/-- A NACK of an update that no slot waits on: a streaming store or a reduction (R322, R332). -/
def nackUpdate (s : State) (q : Pkt) (reason hopix unit : Nat) : State :=
  let p := q.place
  if reason ≤ 2 then
    match nackEntry s q reason hopix with
    | (s, none) => reinject s q.again
    | (s, some n) => parkLater (holdBack s q 2) p n
  else if reason = 4 then holdBack s q 0
  else
    let (s, g) := rehomed s p.unit q unit
    if g.mode = 3 then
      match q.req.2.2 with
      | .red _ _ _ _ _ =>
        let s := acked (s.modSlot p fun x => { x with redOut := x.redOut - 1 }) p
        s.raise p.unit p.core p.slot 6 0 (BitVec.ofNat 64 q.src) (BitVec.ofNat 64 q.slot)
      | _ =>
        match (s.slot p).ntOut.find? fun e => e.1 == q.id with
        | some e => storeLost (acked (s.modSlot p fun x => { x with ntOut := x.ntOut.filter fun e => e.1 != q.id }) p) p e.2.2
        | none => s
    else if g.wfz then holdBack s q 1
    else reinject s q.again

/-- A NACK of a message of the network interface or of a channel, which stand in the place of a thread (R92, R106, R124, R158). -/
def nackMessage (s : State) (q : Pkt) (reason hopix : Nat) : State :=
  if reason ≤ 2 then
    match nackEntry s q reason hopix with
    | (s, none) => reinject s q.again
    | (s, some n) =>
      let s := holdBack s q 2
      (match q.req.2.2 with
       | .miss ws => if (ws.getD 1 0).getLsbD 30 then s else parkLater s q.place n
       | _ => s)
  else holdBack s q 0

/-- The channel of a core that has sent a command. -/
def chanOf (c : Core) (id : Nat) : Option Nat := (c.chans.find? fun e => e.2.sent && e.2.id == id).map (·.1)

/-- The source number of a unit that is not a core (R8). -/
def unitSrc (m unit : Nat) : Nat := m * 4096 + unit * 128

/-- A NACK of a command: REJECT completes it QUENCHED, BUSY sends it again (R106, R124). -/
def nackCommand (s : State) (q : Pkt) (c : Cmd) (reason hopix : Nat) : State :=
  let p := q.place
  match chanOf (s.coreAt p) q.id with
  | none => s
  | some n =>
    if reason = 5 then
      completeCommand s p.unit p.core n 2 { status := 6, ck := none, src := unitSrc q.dmod c.engUnit, faddr := 0, detail := 0 }
    else nackMessage s q reason hopix

/-- Read the entry of a region of another module from the die that sent REHOME, on the leg that led there (R105, R182). -/
def readEntry (s : State) (e : Eng) (c : Cmd) (q : Pkt) : State :=
  let s := holdBack s q 3
  if (s.eng e).ent.isSome then s
  else
    match c.legs.find? fun l => l.2.1 == q.route0 && decide (l.1 < 6), q.rng with
    | some (k, str, lane), .hbm off =>
      let n := off / regionSize
      let r := engPkt s e e.port 7 1 (.rimDie k 0 (16 * n)) q.dmod (pack [(0, 15), (6, c.ctx), (18, c.ownMod)])
        (.engRead 16 c.ctx c.ownMod e.path) s.free
      { (s.tick.modEng e fun x => { x with ent := some (r.id, q.dmod, n) }) with
        pkts := s.pkts ++ [{ r with route := str, route0 := str, lane := lane, lane0 := lane }] }
    | _, _ => s

/-- A NACK of an engine's access (R122, R124, R182). -/
def nackEngine (s : State) (e : Eng) (q : Pkt) (reason hopix unit : Nat) : State :=
  let x := s.eng e
  let fail := fun (s : State) (n : Nat) (info : Word) => engFail (s.modEng e fun x => x.forget q.id) e n (x.addrOf q.id) info
  if x.err.isSome then s.modEng e fun x => x.forget q.id
  else if reason ≤ 2 then fail s 2 (nackInfo q reason hopix)
  else if reason = 4 then holdBack s q 0
  else
    match q.rng, x.cmd with
    | .hbm _, some c =>
      if q.dmod ≠ s.moduleNo.toNat then
        if reason = 3 then readEntry s e c q
        else if q.req.1 = 6 ∧ q.dmod = c.ownMod then
          fail (s.modEng e fun x => { x with refuse := (c.ownMod, c.ctx) :: x.refuse }) 6 0
        else fail s 4 0
      else
        let (s, g) := rehomed s e.unit q unit
        if reason = 5 then (if 24 ≤ unit then fail s 6 0 else fail s 4 0)
        else if g.mode = 3 then fail s 4 0
        else if q.req.1 = 6 ∧ g.wfz then holdBack s q 1
        else engResend s e q.again
    | _, some c =>
      if q.req.1 = 6 ∧ q.dmod ≠ s.moduleNo.toNat ∧ q.dmod = c.ownMod then
        fail (s.modEng e fun x => { x with refuse := (c.ownMod, c.ctx) :: x.refuse }) 6 0
      else if reason = 5 ∧ 24 ≤ unit then fail s 6 0
      else fail s 4 0
    | _, none => fail s 2 (nackInfo q reason hopix)

/-- A NACK of a lineage record: placed anew on REHOME, sent again on BUSY or while the region is frozen; any other means that it is never performed. -/
def nackRecord (s : State) (q : Pkt) (reason unit : Nat) : State :=
  if (recordPair s q.id).isNone then s
  else if reason = 4 then holdBack s q 0
  else if reason = 3 then
    let (s, g) := rehomed s 25 q unit
    if g.mode = 3 then recordDone s q.id else if g.wfz then holdBack s q 1 else recordAgain s q.id
  else recordDone s q.id

/-- The mailbox entry of a NACK (R91, R116). -/
def nackMail (q : Pkt) (reason hopix : Nat) : List Word :=
  [pack [(0, 2), (8, q.slot), (16, q.src % 2 ^ 24)], nackInfo q reason hopix, pack [(0, q.dest), (52, q.dmod)], q.stamp]

/-- Whether a NACK may park the thread that waits for it while a store to its save area is still buffered: it is taken up when that has drained (R40). -/
def nackHeld (s : State) (q : Pkt) (reason : Nat) : Bool :=
  decide (reason ≤ 2) && (s.slot q.place).waitsFor q q.req.2.2 && saveHeld s q.place

/-- NACK_RECEIVED (R91, R92, R106, R182, R332, R384): NACK `arg.index` reaches its issuer. -/
def execNackReceived (s : State) : Host.Outcome State Fault Refusal :=
  answering s fun s i q =>
    match q.body with
    | .nack reason hopix _ unit =>
      let p := q.place
      let t := dropPkt s i
      if nackHeld s q reason then s
      else
      (match engineOf s q.id with
       | some e => nackEngine t e q reason hopix unit
       | none =>
         match q.req.2.2 with
         | .load _ _ => nackWaiting t q reason hopix unit
         | .rmw _ => nackWaiting t q reason hopix unit
         | .record _ => nackWaiting t q reason hopix unit
         | .probe _ _ _ _ => nackWaiting t q reason hopix unit
         | .store _ false => nackBuffered t q reason hopix unit
         | .store _ true => nackUpdate t q reason hopix unit
         | .red _ _ _ _ _ => nackUpdate t q reason hopix unit
         | .miss _ => nackMessage t q reason hopix
         | .quench _ _ => nackMessage t q reason hopix
         | .cmd c => nackCommand t q c reason hopix
         | .message _ =>
           acked ((postMail t p.unit p.core (nackMail q reason hopix) true).modSlot p fun x => { x with expOut := x.expOut - 1 }) p
         | .bulk _ =>
           acked ((postMail t p.unit p.core (nackMail q reason hopix) true).modSlot p fun x => { x with expOut := x.expOut - 1 }) p
         | .mcmd _ _ bar => matrixAnswer (acked (postMail t p.unit p.core (nackMail q reason hopix) true) p) p bar
         | .engRead _ _ _ _ => (match peekOf s q.id with
           | some (e, k) => peekNacked t e k q reason
           | none => t)
         | .fill _ _ _ _ => nackMessage t q reason hopix
         | .snap _ m => if reason = 4 then holdBack t q 0 else noSnapshot t m
         | .pair _ _ _ _ _ _ _ => if reason = 4 then holdBack t q 0 else handedReport t q.id (if reason = 5 then 6 else 2)
         | .engWrite _ _ _ _ => nackRecord t q reason unit
         | _ => s)
    | _ => s

end Sys2Proof.Machine
end

