-- ==== Sys2Proof/Machine/Migrate.lean ====
section
/-! DEFINITION. Migration of light threads (R171 to R176) and the page-not-present landing of a shipped one (R167, R168). -/

namespace Sys2Proof.Machine

/-! ### Landing points (R173) -/

/-- Where an image lands: the home slot, or a queue of a unit with its size and the cores it feeds, first choice first. -/
inductive Landing where
  | home
  | queue (unit n cap : Nat) (cores : List Nat)
deriving DecidableEq, Repr, Inhabited

/-- Whether an image is shipped to a pager, and whether it is carried home by a pre-emption (R172). -/
def Pkt.ship (q : Pkt) : Bool :=
  match q.body with
  | .image _ _ b _ _ _ _ _ => b
  | _ => false
def Pkt.saved (q : Pkt) : Bool :=
  match q.body with
  | .image _ _ _ b _ _ _ _ => b
  | _ => false

/-- The context and gang of an image's thread. -/
def imageCtx (q : Pkt) : BitVec 12 :=
  match q.body with
  | .image bs _ _ _ _ _ _ _ => (word64 ((bs.drop 0x110).take 8)).truncate 12
  | _ => 0
def imageGang (q : Pkt) : Option (Nat × Nat) :=
  match q.body with
  | .image _ _ _ _ _ _ g _ => g
  | _ => none

/-- The landing point of a delivered image (R173): a vault row's queue is numbered 128 up. -/
def landingOf (q : Pkt) : Landing :=
  let h := homePlace (imageName q)
  match q.loc with
  | .atCore x y =>
    let (u, c) := xyCore x y
    if h.unit = u ∧ h.core = c then .home else .queue u c 2 [c]
  | .atVault x y =>
    let (u, c) := xyCore x y
    .queue u (128 + c / 8) 8 (c :: ((List.range 8).map fun k => c / 8 * 8 + k).filter (· != c))
  | l =>
    let home : Bool := match q.rng with
      | .core u c _ _ => h.unit == u && h.core == c
      | .page u c _ => h.unit == u && h.core == c
      | _ => false
    if home ∧ q.ship = false then .home else .queue l.unit 0 32 (List.range 32)

/-- The lowest free light slot of the first of some cores that has one (R173): it runs no thread and is not held AWAY. -/
def freeLight (s : State) (unit : Nat) (cores : List Nat) : Option Place :=
  let ks := if unit < 12 then [4, 5, 6, 7] else List.range 8
  cores.findSome? fun c => (ks.find? fun k => (s.slot ⟨unit, c, k⟩).st == .free).map fun k => ⟨unit, c, k⟩

/-- A landing queue, and writing it. -/
def State.landQ (s : State) (unit n : Nat) : List Pkt :=
  if unit < 12 then Tbl.get [] (s.bed unit).landing n else (s.rim (unit - 16)).landing
def State.setLandQ (s : State) (unit n : Nat) (l : List Pkt) : State :=
  if unit < 12 then s.modBed unit fun b => { b with landing := Tbl.set b.landing n l }
  else s.modRim (unit - 16) fun r => { r with landing := l }

/-- Whether the home slot is held AWAY for an image's name (R175). -/
def heldFor (s : State) (q : Pkt) : Bool :=
  let x := s.slot (homePlace (imageName q))
  x.st == .away && x.name == imageName q

/-- Place an accepted image in a slot: the thread re-executes its bundle there, or, shipped, enters its handler (R167, R168, R173). -/
def landIn (s : State) (p : Place) (q : Pkt) : State :=
  match q.body with
  | .image bytes rf ship _ reach prio gang (ws, half, entry) =>
    let rd := fun o => word64 ((bytes.drop o).take 8)
    let t := threadOf rd (fun _ => 0) (fun _ => 0) 0x100 0x158 0x160 0x170
    let h := homePlace (imageName q)
    let pre := heldFor s q && (s.slot h).preq
    let s := if pre then s.modSlot h fun x => { x with preq := false } else s
    let s := s.modSlot p fun x =>
      { x.emptied with st := .run, th := t, reach := reach, refault := rf, name := imageName q, gangPrio := prio, gang := gang, entry := entry, arvV := false, preq := pre }
    if ship then
      let s := { s with cur := { Cur.none with place := p, cword := ws.truncate 32, aword := some ((ws >>> 32).truncate 32) } }
      takeTrap (refault s p t.eaddr) p (Trap.of 6 0 t.eaddr) half false none
    else s
  | _ => s

/-- Whether the home slot of an image still waits for the answer to the migration by which its thread left it. -/
def homeLeaving (s : State) (q : Pkt) : Bool := (s.slot (homePlace (imageName q))).wait == some .migrate

/-- MIGRATION_ARRIVAL (R171, R173, R175, R181): packet `arg.index` is placed in a slot or its landing queue and acknowledged, or answered BUSY, REHOME
or REJECT.  An image that overtakes the answer that would mark its home slot AWAY waits for that (assumption 15). -/
def execMigrationArrival (s : State) : Host.Outcome State Fault Refusal :=
  serving s fun s i q =>
    if q.kind ≠ 3 ∨ q.saved then s
    else if killing s q.loc.unit (imageCtx q) then gangEnded (answerPkt s i q 0x18 0 .ack) (imageGang q)
    else
      gated s i q q.rng false fun s =>
        match landingOf q with
        | .home =>
          if homeLeaving s q then s
          else if heldFor s q then answerPkt (landIn s (homePlace (imageName q)) q) i q 0x18 0 .ack
          else nackPkt s i q 5
        | .queue u n cap cores =>
          let l := s.landQ u n
          (match freeLight s u cores with
           | some p => if l = [] then answerPkt (landIn s p q) i q 0x18 0 .ack
                       else if l.length < cap then answerPkt (s.setLandQ u n (l ++ [q])) i q 0x18 0 .ack else nackPkt s i q 4
           | none => if l.length < cap then answerPkt (s.setLandQ u n (l ++ [q])) i q 0x18 0 .ack else nackPkt s i q 4)

/-- LANDING_QUEUE_PLACE (R173): the oldest image of queue `arg.index` of unit `arg.unit` is placed in a slot that has become free, or is brought home if its thread is to
be pre-empted (R176). -/
def execLandingQueuePlace (s : State) : Host.Outcome State Fault Refusal :=
  match s.landQ s.arg.unit s.arg.index with
  | [] => .next s
  | q :: rest =>
    match landingOf q with
    | .home => .next s
    | .queue u n _ cores =>
      if (s.slot (homePlace (imageName q))).preq ∧ heldFor s q then .next (fetchHome s (homePlace (imageName q)))
      else
      match freeLight s u cores with
      | none => .next s
      | some p => .next (landIn (s.setLandQ u n rest) p q)

/-- SAVE_IMAGE_ARRIVAL (R40, R172, R176): packet `arg.index` carries a pre-empted thread home, after the stores that entered the home core's store buffer before it, or is
answered REJECT. -/
def execSaveImageArrival (s : State) : Host.Outcome State Fault Refusal :=
  serving s fun s i q =>
    if q.kind ≠ 3 ∨ q.saved = false ∨ homeLeaving s q ∨ (heldFor s q ∧ saveHeld s (homePlace (imageName q))) then s
    else if killing s q.loc.unit (imageCtx q) then gangEnded (answerPkt s i q 0x18 0 .ack) (imageGang q)
    else
      match bringImage s q q.loc.unit with
      | (s, true) => answerPkt s i q 0x18 0 .ack
      | (s, false) => nackPkt s i q 5

/-! ### Answers (R171, R175) -/

/-- `FreeSlotOrMarkAway` (R175); the slot's arrival record ends (R338); a pre-emption that waited for the answer goes after the thread (R176). -/
def leaveSource (s0 : State) (p : Place) : State :=
  let s := s0
  let pre := (s.slot p).preq
  let h := homePlace (s.slot p).name
  let away := s.away p
  let s := freeSlot s p
  let th := { Thread.zero with ctx := (s0.slot p).th.ctx, mode := (s0.slot p).th.mode }
  let s := s.modSlot p fun x => { x with arvV := false }
  let s := if away then s else s.modSlot p fun x => { x with st := .away, name := p.name, th := th }
  if pre then preemptRequest s h else s

/-- The source goes on with its bundle: the access is executed again, a not-present answer still in hand (R167, R171, R182). -/
def againAtSource (s : State) (p : Place) : State :=
  s.modSlot p fun x => { x with wait := none, resp := x.resp.filter Resp.pages, st := if x.st = .wait then .run else x.st }

/-- The image is injected again, as it is, towards its target as that is placed now (R171); a route entry whose VALID is 0 parks the thread (R92). -/
def sendImage (s : State) (q : Pkt) : State :=
  let p := q.place
  let s := s.modSlot p fun x => { x with resp := x.resp.filter (· != .busy) }
  match inject s p q.rng { q with loc := startLoc p.unit p.core, rstamp := s.stampFor p.unit q.rng } with
  | .sent s => s
  | .park s => parkLeaves (parkRoute (quitWaits s p) p (s.routeIx p.unit q.rng)) p

/-- A thread whose home no longer expects it stops (R175). -/
def rejectedThread (s : State) (p : Place) : State :=
  let x := s.slot p
  endThread (s.raise p.unit p.core p.slot 5 x.th.ctx.toNat (x.name.zeroExtend 64) 0) p false

/-- A NACK of a migration at its source (R92, R171, R175, R182): the same image goes out again, after BUSY when its wait is over; the pair is executed again at the
source only where the refreshed region has no placement; a thread that is to be pre-empted stays, and is saved at its boundary (R176). -/
def migrationNack (s : State) (q : Pkt) (reason hopix unit : Nat) : State :=
  let p := q.place
  let again := fun (s : State) => if (s.slot p).preq then againAtSource s p else sendImage s q.again
  if reason ≤ 2 then
    match nackEntry s q reason hopix with
    | (s, none) => again s
    | (s, some n) => parkLeaves (parkRoute (quitWaits s p) p n) p
  else if reason = 4 then
    { s.modSlot p fun x => { x with resp := .busy :: x.resp, backoff := if x.backoff = 0 then 64 else min (2 * x.backoff) 4096 } with
      retries := s.retries ++ [{ pkt := q.again, why := 4 }] }
  else
    match q.rng with
    | .hbm off =>
      let s := (rehomed s p.unit q unit).1
      if (s.regionFor p.unit (off / regionSize)).mode = 3 then againAtSource s p else again s
    | _ => if reason = 5 then rejectedThread s p else again s

/-- A NACK of an image that a pre-emption carries home: its route is mended and it is sent again; refused, its thread has ended (R176). -/
def savedNack (s : State) (q : Pkt) (reason hopix : Nat) : State :=
  if reason ≤ 2 then
    match nackEntry s q reason hopix with
    | (s, none) => reinject s q.again
    | (s, some _) => holdBack s q 2
  else if reason = 5 then s
  else holdBack s q 0

/-- MIGRATION_ANSWER (R171, R175, R182): the answer `arg.index` of a migration reaches its source; one that may park the thread comes after the buffered stores to
its save area (R40). -/
def execMigrationAnswer (s : State) : Host.Outcome State Fault Refusal :=
  answering s fun s i q =>
    match q.req.2.2 with
    | .image _ _ _ save _ _ _ _ =>
      let p := q.place
      let t := dropPkt s i
      if save then
        (match q.body with
         | .nack reason hopix _ _ => savedNack t q reason hopix
         | _ => t)
      else if (s.slot p).wait ≠ some .migrate ∨ (s.slot p).resp.contains .busy then t
      else
        (match q.body with
         | .nack reason hopix _ unit => if saveHeld s p then s else migrationNack t q reason hopix unit
         | _ => leaveSource t p)
    | _ => s

/-- MIGRATION_BACKOFF (R40, R171): the wait of a source answered BUSY is over, and the same image is sent again. -/
def execMigrationBackoff (s : State) : Host.Outcome State Fault Refusal :=
  let p : Place := ⟨s.arg.unit, s.arg.core, s.arg.slot⟩
  match s.retries.findIdx? fun r => r.why == 4 && r.pkt.place == p with
  | none => .next s
  | some i =>
    match s.retries[i]? with
    | none => .next s
    | some r =>
      if (s.slot p).wait = some .migrate ∧ saveHeld s p = false then .next (sendImage { s with retries := s.retries.eraseIdx i } r.pkt) else .next s

end Sys2Proof.Machine
end

