-- ==== Sys2Proof/Machine/ExchangeSteps.lean ====
section
/-! DEFINITION. Exchange stores at their banks (R96, R204), the abort of a domain's block (R259, R260), and the time limit of an open packet (R95). -/

namespace Sys2Proof.Machine

/-- The bank an exchange store meets (R41, R204). -/
def XStore.bank (x : XStore) : Nat := x.off / 16 % 32

/-- Whether an exchange store's bank cycle has come: the destination's own block has issued up to it, and no block of its domain stands so far behind that
it could still send a store that meets this one; stores to one place land in the order of their cycles. -/
def storeDue (s : State) (x : XStore) : Bool :=
  (List.range 8).all (fun k => match (s.slot ⟨x.unit, x.core, k⟩).blk with
    | some b => decide (x.due ≤ b.cyc) || !ofBlock s x b
    | none => true) &&
  (s.xstores.all fun y => !(sameBlock s x y && y.core == x.core && y.off == x.off && decide (y.due < x.due))) &&
  s.slots.all fun e => e.1 / 1024 != x.unit || (match e.2.blk with
    | some b => decide (x.due ≤ b.cyc + 2) || !ofBlock s x b
    | none => true)

/-- The slots of a core whose own access meets a bank in a bank cycle. -/
def localMeets (s : State) (x : XStore) : List (Place × Word) :=
  (List.range 8).filterMap fun k =>
    let p : Place := ⟨x.unit, x.core, k⟩
    match (s.slot p).blk with
    | some b => if b.acc.contains (x.due, x.bank) ∧ ofBlock s x b then some (p, b.xb) else none
    | none => none

/-- A bank-conflict of everyone who met a bank: each names another (R204, R249, R259). -/
def bankConflict (s : State) (x : XStore) (who : List (Place × Word)) : State :=
  let addr := BitVec.ofNat 64 (Rng.la (.core x.unit x.core 0 (x.bank * 16)))
  let d0 := BitVec.ofNat 64 (x.bank + s.srcNum x.unit x.core * 2 ^ 8)
  (List.range who.length).foldl (fun t i =>
    match who[i]?, who[if i = 0 then 1 else 0]? with
    | some (p, xb), some (o, _) => blockFault t p xb 0 x.due 11 0 addr d0 (BitVec.ofNat 64 (s.whoWord o))
    | _, _ => t) s

/-- Perform an exchange store on path XP, or drop it; the loads of the destination core's block return it in every later cycle (R204). -/
def landStore (s : State) (x : XStore) (drop : Bool) : State :=
  if drop then s
  else
    let k := coreKey x.unit x.core x.off
    let s := { s with maker := .thread (s.slot x.place).name.toNat }
    performOn (s.put .xp k (bytesOf 8 x.data.toNat)) [unitKey x.unit x.core] fun l => l.writer == .xp && decide (k ≤ l.key ∧ l.key < k + 8)

/-- EXCHANGE_STORE_ARRIVAL (R96, R204, R259, R260): store `arg.index` reaches its bank, with every other that meets the bank in that cycle; at a down link it is
dropped there, which aborts its block on every member.  In a conflict, and
once its block has been aborted, a store is performed or dropped, as the free bits and `arg.flag` have it. -/
def execExchangeStoreArrival (s : State) : Host.Outcome State Fault Refusal :=
  match s.xstores[s.arg.index]? with
  | none => .next s
  | some x =>
    let same := fun (y : XStore) => sameBlock s x y && y.core == x.core && y.due == x.due && y.bank == x.bank
    let all := s.xstores.filter same
    let who := all.map (fun y => (y.place, y.xb)) ++ localMeets s x
    match downLink s x with
    | some cyc =>
      if storeDue s { x with due := cyc } = false then .next s
      else
        let t := { s with xstores := s.xstores.eraseIdx s.arg.index }
        match blockDom s x.place x.xb with
        | some (l, d) => .next (abortDomain t x.place l d cyc 15 4)
        | none => .next t
    | none =>
    if storeDue s x = false then .next s
    else if who.length < 2 then
      .next (landStore { s with xstores := s.xstores.eraseIdx s.arg.index } x (s.arg.flag && (blockDom s x.place x.xb).isNone))
    else
      let s := bankConflict { s with xstores := s.xstores.filter fun y => !(same y) } x who
      let w := Config.freeWord s.free
      .next ((List.range all.length).foldl (fun t i =>
        match all[i]? with
        | some y => landStore t y (w.getLsbD i)
        | none => t) s.tick)

/-- The other beds of the domain of an abort (R220, R260). -/
def otherBeds (s : State) (a : XAbort) : List Nat :=
  match (s.bed a.bed).dtab.find? fun e => e.2.v && e.2.w0.toNat % 2 ^ 12 == a.dom && bits e.2.w0.toNat 13 12 == a.level with
  | some (_, e) => (List.range 12).filter fun b => b != a.bed && e.w0.getLsbD (23 + b)
  | none => []

/-- Whether the blocks of an abort's domain, on the bed where the fault was detected, have come `n` cycles past its detecting cycle (R260). -/
def abortDue (s : State) (a : XAbort) (n : Nat) : Bool :=
  a.src % 4096 / 128 != a.bed || s.slots.all fun e => e.1 / 1024 != a.bed || (match e.2.blk with
    | some b => b.level != a.level || b.dom != a.dom || decide (a.cyc + n ≤ b.cyc)
    | none => true)

/-- EXCHANGE_ABORT_REPORT (R260): eight cycles after its detecting cycle abort `arg.index` reaches the fabric of its bed; of a SPAN 1 domain it goes on to the domain's other beds. -/
def execExchangeAbortReport (s : State) : Host.Outcome State Fault Refusal :=
  match s.xaborts[s.arg.index]? with
  | none => .next s
  | some a =>
    if a.reported ∨ abortDue s a 8 = false then .next s
    else
      let on := if a.span then (otherBeds s a).map fun b => { a with bed := b, span := false, reported := true } else []
      .next { s with xaborts := s.xaborts.set s.arg.index { a with reported := true } ++ on }

/-- Whether an abort comes first as the origin: the earliest detecting cycle, then the lowest source number (R259). -/
def abortBefore (a b : XAbort) : Bool := decide (a.cyc < b.cyc ∨ (a.cyc = b.cyc ∧ a.src ≤ b.src))

/-- The trap that an abort gives a member slot (R249, R259): exchange-abort, or with a flit at a down link the route-fault, whose
DETAIL1 names the issuer with its cause and SUB (assumption 188). -/
def abortSlot (s : State) (o : XAbort) (p : Place) (xb : Word) (sub : Nat) : State :=
  let who := BitVec.ofNat 64 (o.src + o.slot * 2 ^ 24 + o.cause * 2 ^ 32 + o.sub * 2 ^ 40)
  if o.cause = 15 ∧ o.sub = 4 then setPend s.tick p 15 4 (s.slot p).th.pc s.freeDetail who else setPend s p 12 sub xb who xb

/-- EXCHANGE_ABORT_APPLY (R259, R260): sixteen cycles later a reported abort is applied on every member core of its bed in one step; the first fault of the block is the origin. -/
def execExchangeAbortApply (s : State) : Host.Outcome State Fault Refusal :=
  match s.xaborts[s.arg.index]? with
  | none => .next s
  | some a =>
    if a.reported = false ∨ abortDue s a 24 = false then .next s
    else
      let mine := fun (b : XAbort) => b.bed == a.bed && b.level == a.level && b.dom == a.dom
      let o := (s.xaborts.filter mine).foldl (fun o b => if abortBefore o b then o else b) a
      let s0 := { s with xaborts := s.xaborts.filter fun b => !(mine b) }
      let ks := s.slots.filter fun e => e.1 / 1024 == a.bed
      .next (ks.foldl (fun t e =>
        let p : Place := ⟨e.1 / 1024, e.1 / 8 % 128, e.1 % 8⟩
        match e.2.blk, e.2.lastBlk with
        | some b, _ => if b.level = a.level ∧ b.dom = a.dom then abortSlot t o p b.xb 0 else t
        | none, some (xb, l, d) => if l = a.level ∧ d = a.dom then abortSlot t o p xb 1 else t
        | none, none => t) s0)

/-- PACKET_OPEN_TIMEOUT (R95): the open packet of a slot is discarded at its time limit, and the route-fault trap follows with HOPIX 0x7F; REASON is free. -/
def execPacketOpenTimeout (s : State) : Host.Outcome State Fault Refusal :=
  let p : Place := ⟨s.arg.unit, s.arg.core, s.arg.slot⟩
  if (s.slot p).pkt.isSome then
    .next (setPend (s.tick.modSlot p fun x => { x with pkt := none }) p 15 2 (s.slot p).th.pc ((s.freeDetail &&& 0x700) ||| 0x7F) 0)
  else .next s

end Sys2Proof.Machine
end

