-- ==== Sys2Proof/Machine/Barriers.lean ====
section
/-! DEFINITION. The barrier fabric of a bed and of link die 0 (R217, R219 to R221), the global timestamp, and the timers of waiting slots (R207, R225,
R328, R411). -/

namespace Sys2Proof.Machine

/-- DOM_WRITE (R217): a store of `arg.v` to DOM register `arg.index` of core (`arg.unit`, `arg.core`); a locked register keeps its value. -/
def execDomWrite (s : State) : Host.Outcome State Fault Refusal :=
  if s.arg.unit < 12 ∧ s.arg.core < 128 ∧ s.arg.index < 4 then .next (domStore s s.arg.unit s.arg.core s.arg.index s.arg.v) else .next s

/-- DTAB_WRITE (R220): a store of `arg.v` to word 0 of DTAB entry `arg.index` of bed `arg.unit`; with `arg.flag` to word 1, which ignores it. -/
def execDtabWrite (s : State) : Host.Outcome State Fault Refusal :=
  if s.arg.unit < 12 ∧ s.arg.index < 64 ∧ s.arg.flag = false then .next (dtabStore s s.arg.unit s.arg.index s.arg.v) else .next s

/-! ### Reports (R220) -/

/-- The valid entry of a bed's fabric for a level, domain and SPAN. -/
def fabricEntry (s : State) (bed level dom : Nat) (span : Bool) : Option (Nat × DomE) :=
  (s.bed bed).dtab.find? fun (e : Nat × DomE) =>
    e.2.v && e.2.w0.toNat % 2 ^ 12 == dom && bits e.2.w0.toNat 13 12 == level && e.2.w0.getLsbD 14 == span

/-- Count a report at its entry; with NMEMB reports in, BCMP is set (R220). -/
def countReport (s : State) (bed n : Nat) (e : DomE) (bar core : Nat) : State :=
  let reps := e.reps ++ [(bar, core)]
  let full := decide (bits e.w0.toNat 22 15 ≤ (reps.filter fun r => r.1 == bar).length)
  s.modBed bed fun b => { b with dtab := Tbl.set b.dtab n { e with reps := reps, bcmp := if full then e.bcmp ||| BitVec.ofNat 32 (2 ^ bar) else e.bcmp } }

/-- BARRIER_REPORT (R219, R220): report `arg.index` of bed `arg.unit` reaches the fabric, or one held there finds its entry: it is counted, or held with one
BARRIER event. -/
def execBarrierReport (s : State) : Host.Outcome State Fault Refusal :=
  let bed := s.arg.unit
  match (s.bed bed).reps[s.arg.index]? with
  | none => .next s
  | some r =>
    match fabricEntry s bed r.level (r.dom.toNat % 2 ^ 12) (r.dom.getLsbD 12) with
    | some (n, e) =>
      .next (countReport (s.modBed bed fun b => { b with reps := b.reps.eraseIdx s.arg.index }) bed n e r.bar r.core)
    | none =>
      if r.atFabric then .next s
      else
        let s := s.modBed bed fun b => { b with reps := b.reps.set s.arg.index { r with atFabric := true } }
        .next (s.raise bed r.core 0 0xC 0 (BitVec.ofNat 64 r.core) (BitVec.ofNat 64 (r.level + r.dom.toNat % 2 ^ 12 * 4)))

/-- The lowest-numbered of the beds that have reported, with its mask; bit 12 of a mask marks a report that is not counted. -/
def lowestReport (l : List (Nat × Nat × Nat × Nat × Nat)) : Option (Nat × Nat) :=
  l.foldl (fun o e => if 4096 ≤ e.2.2.2.2 then o else match o with
    | none => some (e.1, e.2.2.2.2)
    | some (b, m) => if e.1 < b then some (e.1, e.2.2.2.2) else some (b, m)) none

/-- Mark the reports from outside the mask, each of which raises BARRIER naming the bed and its entry (R220, R262). -/
def maskReports (s : State) (level dom bar : Nat) : Nat → State
  | 0 => s
  | f + 1 =>
    let mine := fun (e : Nat × Nat × Nat × Nat × Nat) => e.2.1 == level && e.2.2.1 == dom && e.2.2.2.1 == bar
    match lowestReport (s.ld0.filter mine) with
    | none => s
    | some (_, m) =>
      match s.ld0.find? fun e => mine e && decide (e.2.2.2.2 < 4096) && !m.testBit e.1 with
      | none => s
      | some e =>
        let n := ((fabricEntry s e.1 level dom true).map (·.1)).getD 0
        let s := { s with ld0 := s.ld0.map fun x => if x = e then (x.1, x.2.1, x.2.2.1, x.2.2.2.1, x.2.2.2.2 + 4096) else x }
        maskReports (s.raise 24 0 0 0xC 0 (BitVec.ofNat 64 e.1) (BitVec.ofNat 64 n)) level dom bar f

/-- Whether every bed of the mask has reported, and then the release to each (R220). -/
def releaseSpan (s : State) (level dom bar : Nat) : State :=
  let mine := fun (e : Nat × Nat × Nat × Nat × Nat) => e.2.1 == level && e.2.2.1 == dom && e.2.2.2.1 == bar && decide (e.2.2.2.2 < 4096)
  match lowestReport (s.ld0.filter mine) with
  | none => s
  | some (_, m) =>
    let beds := (List.range 12).filter fun b => m.testBit b
    if beds.all fun b => s.ld0.any fun e => mine e && e.1 == b then
      { s with ld0 := s.ld0.filter (fun e => !(mine e)), releases := s.releases ++ beds.map fun b => (b, level, dom, bar) }
    else s

/-- LINK_DIE_BARRIER_REPORT (R220): bed `arg.unit` reports the complete barrier `arg.aux` of its SPAN 1 entry `arg.index` to link die 0. -/
def execLinkDieBarrierReport (s : State) : Host.Outcome State Fault Refusal :=
  let bed := s.arg.unit
  let bar := s.arg.aux
  let e := Tbl.get default (s.bed bed).dtab s.arg.index
  let level := bits e.w0.toNat 13 12
  let dom := e.w0.toNat % 2 ^ 12
  if e.v = false ∨ e.w0.getLsbD 14 = false ∨ e.bcmp.getLsbD bar = false then .next s
  else if s.ld0.any (fun x => x.1 == bed && x.2.1 == level && x.2.2.1 == dom && x.2.2.2.1 == bar) ∨ s.releases.contains (bed, level, dom, bar) then .next s
  else
    let s := { s with ld0 := s.ld0 ++ [(bed, level, dom, bar, bits e.w0.toNat 34 23)] }
    .next (releaseSpan (maskReports s level dom bar 12) level dom bar)

/-! ### Releases (R219 to R221) -/

/-- The cores of a bed that are members of a fabric entry's domain and have the barrier configured for it. -/
def memberCores (s : State) (bed : Nat) (e : DomE) (bar : Nat) : List Nat :=
  let level := bits e.w0.toNat 13 12
  (List.range 128).filter fun c =>
    let d := Tbl.get 0 (s.core bed c).doms level
    let b := s.bar bed c bar
    d.getLsbD 13 && d.toNat % 2 ^ 12 == e.w0.toNat % 2 ^ 12 && d.getLsbD 12 == e.w0.getLsbD 14 && b.kind == 2 && b.level == level

/-- Release a phase on one core: DONETS, CDONE, its waiters, then its next share if that is complete (R219, R223). -/
def releaseCore (s : State) (bed bar c : Nat) : State :=
  let b := s.bar bed c bar
  let s := s.setBar bed c bar { b with donets := s.ts, cdone := false }
  finishDomBar (wakeBarrier s bed c bar b.xalign) bed c bar

/-- Whether an exchange store of a domain's block is still in flight in a bed (R206). -/
def xputsPending (s : State) (bed level dom : Nat) : Bool :=
  s.xstores.any fun x => x.unit == bed && blockDom s x.place x.xb == some (level, dom)

/-- DOMAIN_RELEASE (R206, R219 to R221): the release of barrier `arg.aux` of entry `arg.index` is applied on every member core of bed `arg.unit` in one
step, once the timestamp has passed each DONETS and every exchange store of the phase has been performed. -/
def execDomainRelease (s : State) : Host.Outcome State Fault Refusal :=
  let bed := s.arg.unit
  let bar := s.arg.aux
  let n := s.arg.index
  let e := Tbl.get default (s.bed bed).dtab n
  let level := bits e.w0.toNat 13 12
  let dom := e.w0.toNat % 2 ^ 12
  let cs := memberCores s bed e bar
  if e.v = false ∨ e.bcmp.getLsbD bar = false ∨ (e.w0.getLsbD 14 ∧ s.releases.contains (bed, level, dom, bar) = false) ∨ xputsPending s bed level dom then
    .next s
  else if cs.any fun c => decide (s.ts.toNat ≤ (s.bar bed c bar).donets.toNat) then .next s
  else
    let s := { s with releases := s.releases.erase (bed, level, dom, bar) }
    let s := s.modBed bed fun b =>
      { b with dtab := Tbl.set b.dtab n { e with bcmp := e.bcmp &&& ~~~(BitVec.ofNat 32 (2 ^ bar)), reps := e.reps.filter fun r => r.1 != bar } }
    .next (cs.foldl (fun t c => releaseCore t bed bar c) s)

/-! ### The timestamp (R6, R219) -/

/-- Complete the core barriers whose completion waited for the timestamp (R219). -/
def finishOwed (s : State) : State :=
  s.cores.foldl (fun t c => c.2.bars.foldl (fun t b => if b.2.owed then finishCoreBar t (c.1 / 128) (c.1 % 128) b.1 else t) t) s

/-- GLOBAL_TIMESTAMP_ADVANCE (R6, R142, R219): `arg.index` nanoseconds pass, never past the last value of the count; what waits for the timestamp goes on. -/
def execGlobalTimestampAdvance (s : State) : Host.Outcome State Fault Refusal :=
  if 2 ^ 64 ≤ s.ts.toNat + s.arg.index then .next s
  else .next (wakeIf (finishOwed (captureDue { s with ts := s.ts + BitVec.ofNat 64 s.arg.index })) fun _ w => w == .time)

/-! ### Timers of waiting slots -/

/-- The slot an event names. -/
def State.argPlace (s : State) : Place := ⟨s.arg.unit, s.arg.core, s.arg.slot⟩

/-- FOLLOW_JOIN_TIMEOUT (R225, R226): a join that has seen no matching bundle ends. -/
def execFollowJoinTimeout (s : State) : Host.Outcome State Fault Refusal :=
  if (s.slot s.argPlace).folState = 1 then .next (leaveFollow s s.argPlace 6) else .next s

/-- YIELD_EXPIRY (R411): the slot may issue again. -/
def execYieldExpiry (s : State) : Host.Outcome State Fault Refusal :=
  if (s.slot s.argPlace).wait = some .yield then .next (s.modSlot s.argPlace Slot.wake) else .next s

/-- Whether a slot stands in a waiter table for a location (R207). -/
def registered (s : State) (who k : Nat) : Bool := (Tbl.get [] s.waiters (waitBank k)).any fun e => e.1 == who

/-- WAITER_POLL_TIMER (R207, R327): a slot that found its waiter table full looks again; a `wres` returns as from a wake-up. -/
def execWaiterPollTimer (s : State) : Host.Outcome State Fault Refusal :=
  let p := s.argPlace
  let x := s.slot p
  let next := if x.backoff = 0 then 16 else min (2 * x.backoff) 4096
  match x.wait with
  | some (.future k) => if registered s (slotKey p) k then .next s else .next (s.setSlot p { x.wake with backoff := next })
  | some (.reserve k) =>
    if x.resTurn = none ∧ registered s (slotKey p) k = false then .next (s.setSlot p { x.wake with resp := [.done] }) else .next s
  | _ => .next s

/-- RESERVATION_PROTECT_EXPIRY (R328): the protection of a slot's reservation ends, if it has one; the `ld.res` whose location nothing protects any longer look
again, and are served oldest first. -/
def execReservationProtectExpiry (s : State) : Host.Outcome State Fault Refusal :=
  let s := match (s.slot s.argPlace).resv with
    | none => s
    | some k =>
      let who := slotKey s.argPlace
      let b := resBank k
      { s with resvs := Tbl.set s.resvs b ((Tbl.get [] s.resvs b).map fun e => if e.1 = who ∧ e.2 = k + 1 then (who, k) else e) }
  .next (wakeIf s fun q w => match w with
    | .reserve k => ((Tbl.get Slot.empty s.slots q).resTurn.map (·.1)) == some k && !protectedBy s q k
    | _ => false)

end Sys2Proof.Machine
end

