-- ==== Sys2Proof/Machine/BitBuffer.lean ====
section
/-! DEFINITION. The bit buffer (R342 to R346). -/

namespace Sys2Proof.Machine

/-- DATA, COUNT and PTR of a slot's bit buffer (R342). -/
structure Bits where
  data : BitVec 128
  count : Nat
  ptr : Word
deriving DecidableEq, Repr

/-- The bit buffer of the thread in execution, and writing it. -/
def State.bb (s : State) : Bits := { data := s.here.th.bbData, count := s.here.th.bbCount, ptr := s.here.th.bbPtr }
def State.setBb (s : State) (b : Bits) : State := s.modTh fun t => { t with bbData := b.data, bbCount := b.count, bbPtr := b.ptr }

/-- `Refill` (R342): what comes of the loaded bits is usable as a load's value is (R319). -/
def refill (s : State) (b : Bits) (f : State → Bits → Res) : Res :=
  scalarLoad s b.ptr 8 fun s v =>
    f { s with cur := { s.cur with lat := 4 } } { data := b.data ||| (BitVec.ofNat 128 v <<< b.count), count := b.count + 64, ptr := b.ptr + 8 }

/-- Have `n` bits in the buffer, with a refill if there are fewer (R342). -/
def need (s : State) (n : Nat) (f : State → Bits → Res) : Res :=
  let b := s.bb
  if b.count < n then refill s b f else f s b

/-- The buffer without its first `n` bits. -/
def Bits.drop (b : Bits) (n : Nat) : Bits := { b with data := b.data >>> n, count := b.count - n }

/-- The first `n` bits as a register's value. -/
def Bits.peek (b : Bits) (n : Nat) : Word := BitVec.ofNat 64 (b.data.toNat % 2 ^ n)

/-- The stream-format trap (R346). -/
def streamFormat (s : State) (sub : Nat) (addr : Word) : Res := .trap s (Trap.of 13 sub addr)

/-- BB_INIT (R343). -/
def execBbInit (a : BitVec 5) (s : State) : Host.Outcome State Fault Refusal :=
  word (.bbInit a) s fun s =>
    let v := s.opG a
    let r := v.toNat % 8
    let b : Bits := { data := 0, count := 0, ptr := v &&& ~~~(7 : Word) }
    if r = 0 then .ok (s.setBb b) else refill s b fun s b => .ok (s.setBb (b.drop (8 * r)))

/-- `bb.peek` and `bb.take` of `n` bits (R343). -/
def bbRead (s : State) (d : BitVec 5) (n : Nat) (take : Bool) : Res :=
  if 32 < n then streamFormat s 1 s.wordPc
  else need s n fun s b => .ok ((s.setBb (if take then b.drop n else b)).setG d (b.peek n))

/-- BB_PEEK_IMM (R343). -/
def execBbPeekImm (d : BitVec 5) (n : BitVec 6) (s : State) : Host.Outcome State Fault Refusal :=
  word (.bbPeekImm d n) s fun s => bbRead s d n.toNat false
/-- BB_PEEK_REG (R343). -/
def execBbPeekReg (d a : BitVec 5) (s : State) : Host.Outcome State Fault Refusal :=
  word (.bbPeekReg d a) s fun s => bbRead s d (s.opG a).toNat false
/-- BB_TAKE_IMM (R343). -/
def execBbTakeImm (d : BitVec 5) (n : BitVec 6) (s : State) : Host.Outcome State Fault Refusal :=
  word (.bbTakeImm d n) s fun s => bbRead s d n.toNat true
/-- BB_TAKE_REG (R343). -/
def execBbTakeReg (d a : BitVec 5) (s : State) : Host.Outcome State Fault Refusal :=
  word (.bbTakeReg d a) s fun s => bbRead s d (s.opG a).toNat true

/-- BB_DEC (R344). -/
def execBbDec (d a : BitVec 5) (l : BitVec 4) (s : State) : Host.Outcome State Fault Refusal :=
  word (.bbDec d a l) s fun s =>
    need s l.toNat fun s b =>
      let at' := s.opG a + 4 * b.peek l.toNat
      scalarLoad s at' 4 fun s e =>
        let len := bits e 20 16
        if len = 0 ∨ l.toNat < len then streamFormat s 2 at'
        else .ok ((s.setBb (b.drop len)).setG d (BitVec.ofNat 64 (e % 65536)))

/-- A range that must lie in the executing core's own local memory through RAW or FUTURE, checked as one access (R345). -/
def ownBytes (s : State) (pa : Word) (n : Nat) (kind : Kind) (f : State → Nat → Res) : Res :=
  let p := s.cur.place
  match addressCheck s p pa n 1 kind false with
  | .stop r => r
  | .ship s k => shipTo s k pa
  | .ok s acc =>
    match acc.rng with
    | .core u c _ off => if acc.own then f s (coreKey u c off) else .trap s (Trap.of 5 0 pa)
    | _ => .trap s (Trap.of 5 0 pa)

/-- The offset in the core's memory of a byte of its own. -/
def ownOff (p : Place) (k : Nat) : Nat := k - coreKey p.unit p.core 0

/-- Copy bytes one by one in ascending order, read as the core `who` reads them (R345). -/
def copyBytes (s : State) (dst src n who : Nat) : State :=
  (List.range n).foldl (fun t j => t.put .ls (dst + j) [pathByte t .ls (src + j) who]) s

/-- BB_COPY: its source is read as a load reads it, its destination written behind the thread's streaming stores and packets (R113, R189, R201, R322,
R345), in 1 + ⌈len/16⌉ cycles.  Outside a timed block a turn may copy some bytes only, `cur.part` of them: others may read the bytes written so far (R347). -/
def execBbCopy (d a b : BitVec 5) (s : State) : Host.Outcome State Fault Refusal :=
  word (.bbCopy d a b) s fun s =>
    let o := s.opG d
    let dist := (s.opG b).toNat % 2 ^ 32
    let len := bits (s.opG b).toNat 47 32
    let src := o - BitVec.ofNat 64 dist
    let s := { s with cur := { s.cur with lat := 1 + (len + 15) / 16 } }
    if len = 0 then .ok s
    else if dist = 0 then streamFormat s 4 o
    else if 1024 < len then streamFormat s 5 o
    else if src.toNat < (s.opG a).toNat then streamFormat s 3 src
    else
      let p := s.cur.place
      let at' := (((heldValue s.here.resp).getD 0).toNat)
      let some' : Bool := decide (s.cur.part ≠ 0 ∧ s.here.blk = none ∧ s.cur.half = .lone ∧ at' + s.cur.part < len)
      let copy := fun (s : State) (ks kd : Nat) =>
        let n := if some' then s.cur.part else len - at'
        let t := copyBytes s (kd + at') (ks + at') n (unitKey p.unit p.core)
        if some' then .wait (t.modHere fun x => { x with resp := [.value (BitVec.ofNat 64 (at' + n))] }) .again false
        else .ok (t.setG d (o + BitVec.ofNat 64 len))
      ownBytes s src len .load fun s ks =>
        ownBytes s o len .store fun s kd =>
          if at' ≠ 0 then copy s ks kd
          else
          match stalledBy s p src len with
          | some c => s.waitAt (.channel c) true src
          | none =>
            if (s.coreAt p).sbuf ≠ [] ∨ (ntMeets s p ks len || asyncMeets s p ks len || ntMeets s p kd len || asyncMeets s p kd len) then s.waitAt .drain false src
            else if ownHeld s p (.core p.unit p.core 0 (ownOff p kd)) len then s.waitAt .matrix false o
            else
              let s := blockSpan (blockSpan (passMarks s p src len) (ownOff p ks) len 0) (ownOff p kd) len 1
              match anyBad s ks len with
              | some w => dataError (meetBad s w) src
              | none => copy (observeLoad (correct s ks len) p (.core p.unit p.core 0 (ownOff p ks)) len) ks kd

/-- BB_LIT (R345). -/
def execBbLit (d : BitVec 5) (n : BitVec 4) (s : State) : Host.Outcome State Fault Refusal :=
  word (.bbLit d n) s fun s =>
    let n := n.toNat
    let o := s.opG d
    need s (8 * n) fun s b =>
      ownBytes s o n .store fun s k =>
        let p := s.cur.place
        if (s.coreAt p).sbuf ≠ [] ∨ (ntMeets s p k n || asyncMeets s p k n) then s.waitAt .drain false o
        else if ownHeld s p (.core p.unit p.core 0 (ownOff p k)) n then s.waitAt .matrix false o
        else .ok ((((blockSpan s (ownOff p k) n 0).put .ls k (bytesOf n b.data.toNat)).setBb (b.drop (8 * n))).setG d (o + BitVec.ofNat 64 n))

end Sys2Proof.Machine
end

