-- ==== Sys2Proof/Machine/Channels.lean ====
section
/-! DEFINITION. A channel's commands on their way: the head of a channel is sent (R106), its watermark rises (R112), and it completes (R114). -/

namespace Sys2Proof.Machine

/-- Whether a command has zero extent (R114, R134). -/
def Cmd.empty (c : Cmd) : Bool :=
  match c.op with
  | .copy => zeroBox c.src c.dst
  | .stashOpen => false
  | _ => c.count == 0

/-- The legs a command names: number and route-table entry (R104, R105, R133). -/
def Cmd.legEntries (c : Cmd) : List (Nat × Nat) :=
  (c.dleg.toList.map fun n => (8, n)) ++
  (match c.legBase with
   | some b => ((List.range (if c.op = .copy then 8 else 6)).map fun k => (k, b + k)).filter fun l => decide (l.2 < 0x800)
   | none => [])

/-- The route strings of the legs as the core reads them when it sends the command; an entry with VALID 0 is sent empty (R106). -/
def readLegs (s : State) (p : Place) (c : Cmd) : List (Nat × BitVec 256 × Nat) :=
  (c.legEntries.filter fun l => (s.routeEntry p.unit p.core l.2).valid).map fun l =>
    (l.1, s.routeString p.unit p.core l.2, (s.routeEntry p.unit p.core l.2).lane)

/-- Whether a string leaves the module over a Spire link (R74). -/
def leavesModule : Nat → Walk → Nat → Bool
  | 0, _, _ => false
  | f + 1, w, str =>
    if str % 8 = 7 then false
    else if w = .gate ∧ str % 8 = 5 ∧ str / 8 % 16 < 12 then true
    else leavesModule f (itemNext w str) (str / 2 ^ itemWidth w str)

/-- The Spire link by which a string leaves the module, if it does, as link die and link, with what the far gateway sees of it: `at'` is the router it starts at, `gate`
the gateway it stands at instead (R74 to R77). -/
def leaveLink : Nat → Nat × Nat → Option Nat → Nat → Option (Nat × Nat × Nat)
  | 0, _, _, _ => none
  | f + 1, at', gate, str =>
    let c := str % 8
    let port := str / 8 % 16
    if c = 6 then leaveLink f at' gate (str / 8)
    else
      match gate with
      | some d =>
        if c = 5 ∧ port < 12 then some (d, port, str / 2 ^ 7)
        else if c = 5 ∧ port = 15 then leaveLink f (if d = 0 then 0 else 47, 2 * (str / 2 ^ 7 % 16)) none (str / 2 ^ 11)
        else none
      | none =>
        if c ≤ 3 then (neighbour at'.1 at'.2 c).bind fun r => leaveLink f r none (str / 8)
        else if c = 5 ∧ port = 2 then (linkOf at'.1 at'.2).bind fun d => leaveLink f at' (some d) (str / 2 ^ 11)
        else none

/-- The module at the end of a command route (R105): this one, where the route does not leave it, else the far end of the link it leaves by (R101); where it leaves
that module again, an open one (assumption 174). -/
def State.routeModule (s : State) (p : Place) (c : Cmd) : Nat :=
  let str := (s.routeString p.unit p.core c.cmdEntry).toNat
  let start := if p.rim then leaveLink 90 (rimRouter (p.unit - 16) (str / 8 % 16)) none (str / 2 ^ 7) else leaveLink 90 (coreXY p.unit p.core) none str
  match start with
  | none => s.moduleNo.toNat
  | some (d, n, rest) =>
    let far := (s.spire d n).farmod.toNat
    if leavesModule 90 .gate rest then Config.routeEnd far (BitVec.ofNat 256 rest) % 4096 else far

/-- The command packet of a channel's head (R123): DMOD is the engine's module, and the payload is six flits, the legs LEG + k that are present, and the four flits of
the register form of `stash` (R397). -/
def commandPkt (s : State) (p : Place) (n : Nat) (c : Cmd) : Pkt :=
  { mkPkt s p 5 (6 + (c.legs.filter fun l => l.1 != 8).length + 4 * b2n c.regData.isSome) (engineAddr c.engUnit (if c.op = .copy then 0 else 1) c.engIx) (.cmd c) with
    dmod := c.mod.getD (s.routeModule p c), info := pack [(0, c.ctx), (12, c.ownMod), (24, n)] }

/-- How a zero-extent command completes (R114, R118); the SRC of its mail is the issuing core's (assumption 101). -/
def emptyCompletion (s : State) (unit core n : Nat) (k : Cmd) : Completion :=
  let ck := ckStart k ((s.core unit core).chan n).ck
  let bad := k.last && k.ck != 0 && ckFinal k.ck ck != k.expect
  { status := if bad then 5 else 0, ck := if k.ck = 0 then none else some ck, src := s.srcNum unit core, faddr := 0,
    detail := if bad then BitVec.ofNat 64 (ckFinal k.ck ck) else 0 }

/-- COMMAND_SEND (R106, R114, R117, R123): the head of channel `arg.index` of a core is sent once two mailbox entries can be reserved; a zero-extent command
is not sent: it completes, once there is room for the entries it posts, of which it mostly has none. -/
def execCommandSend (s : State) : Host.Outcome State Fault Refusal :=
  let u := s.arg.unit
  let x := s.core u s.arg.core
  let n := s.arg.index
  match (x.chan n).cmds with
  | [] => .next s
  | k :: rest =>
    if (x.chan n).sent then .next s
    else if k.empty then
      let c := emptyCompletion s u s.arg.core n k
      .next (if x.mailRoom < (completionMail s k c).length then s else completeCommand s u s.arg.core n 0 c)
    else if x.mailRoom < 2 then .next s
    else
      let p := k.place
      let s := s.seeRoutes p.unit p.core (k.cmdEntry :: k.legEntries.map (·.2))
      let k := { k with legs := readLegs s p k, carry := (x.chan n).ck }
      let q := commandPkt s p n k
      match injectCommand s p k q with
      | .park s => .next s
      | .sent s =>
        .next (((s.modChan u s.arg.core n fun c => { c with sent := true, id := q.id, cmds := k :: rest }).modCore u s.arg.core fun c =>
          { c with mbrsv := c.mbrsv + 2 }).tick)

/-- A watermark as the issuing core knows it: the engine's is one of the resolved descriptor, the range one of the program addresses as written (R106, R111). -/
def Cmd.ownMark (c : Cmd) (wm : Word) : Word :=
  match c.range, c.dst with
  | some (lo, _), some t => lo + (wm - (tensorRange t).1)
  | _, _ => wm

/-- PROGRESS_RESPONSE (R112, R123, R126): progress response `arg.index` raises the watermark of the channel that has sent its command, and feeds rings; one
for no such channel is discarded. -/
def execProgressResponse (s : State) : Host.Outcome State Fault Refusal :=
  answering s fun s i q =>
    match q.req.2.2, q.body with
    | .cmd c, .progress wm _ false _ _ _ _ _ =>
      let p := q.place
      let t := dropPkt s i
      (match chanOf (t.coreAt p) q.id with
       | some n => feedRings (raiseMark t p.unit p.core n (c.ownMark wm)) p.unit p.core
       | none => t)
    | _, _ => s

/-- COMMAND_COMPLETION (R114, R117, R118): completion `arg.index` completes the head of its channel; one for no channel is discarded (R126). -/
def execCommandCompletion (s : State) : Host.Outcome State Fault Refusal :=
  answering s fun s i q =>
    match q.req.2.2, q.body with
    | .cmd c, .progress _ st true ck fa info _ _ =>
      let p := q.place
      let t := dropPkt s i
      (match chanOf (t.coreAt p) q.id with
       | some n =>
         let r : Completion := {
           status := st, ck := if c.ck = 0 then none else some ck, src := unitSrc q.dmod c.engUnit, faddr := fa,
           detail := if st = 5 then BitVec.ofNat 64 (ckFinal c.ck ck) else if st = 2 then info else 0 }
         feedRings (completeCommand t p.unit p.core n 2 r) p.unit p.core
       | none => t)
    | _, _ => s

/-- Whether the answer to the command a channel has sent is lost: its packet is neither under way nor at an engine, nor on another module behind a link that is up
(R94, R122; SRC and DETAIL of its mail are the model's: DESIGN CHOICE, assumption 181). -/
def commandLost (s : State) (c : Chan) : Bool :=
  c.sent && !inFlight s c.id && !(allEngines.any fun e => ((s.eng e).queue ++ (s.eng e).active.toList).any fun q => q.id == c.id) &&
  (match s.outbox.find? fun q => q.id == c.id with
   | some q => (match q.loc with
     | .left d l => (s.spire d l).state != 2
     | _ => true)
   | none => true)

/-- ENGINE_RESPONSE_TIMEOUT (R94, R122): a response of engine `arg.index` of kind `arg.aux` on `arg.unit` that is lost, or away on another module for 1 ms, ends its
command with ROUTE; with `arg.flag` the command that channel `arg.index` of core (`arg.unit`, `arg.core`) has sent ends so, once its answer cannot come. -/
def execEngineResponseTimeout (s : State) : Host.Outcome State Fault Refusal :=
  if s.arg.flag then
    match ((s.core s.arg.unit s.arg.core).chan s.arg.index).cmds with
    | k :: _ =>
      if commandLost s ((s.core s.arg.unit s.arg.core).chan s.arg.index) then
        let m := k.mod.getD (s.routeModule k.place k)
        let c : Completion := { status := 2, ck := none, src := unitSrc m k.engUnit, faddr := 0, detail := 0 }
        .next (feedRings (completeCommand s s.arg.unit s.arg.core s.arg.index 2 c) s.arg.unit s.arg.core)
      else .next s
    | [] => .next s
  else
  let e : Eng := ⟨s.arg.unit, s.arg.aux, s.arg.index⟩
  let x := s.eng e
  let gone := fun (id : Nat) => !inFlight s id
  let rd := (x.rd.map (·.1)).any gone
  let ent := (x.ent.map (·.1)).any gone
  let outs := x.outs.filter fun o => gone o.1
  if e.ok = false ∨ (rd = false ∧ ent = false ∧ outs = []) then .next s
  else
    let fa := match x.rd with
      | some (_, a) => if rd then BitVec.ofNat 64 a else 0
      | none => 0
    .next ((engFail s e 2 fa 0).modEng e fun x =>
      { x with rd := if rd then none else x.rd, ent := if ent then none else x.ent, outs := x.outs.filter fun o => !gone o.1 })

end Sys2Proof.Machine
end

