-- ==== Sys2Proof/Machine/Scalar.lean ====
section
/-! DEFINITION. The scalar integer instructions (R303 to R308). -/

namespace Sys2Proof.Machine

/-- A word that only writes a general register with a value of its operands. -/
def regOp (i : Instr) (d : BitVec 5) (s : State) (f : State → Word) : Host.Outcome State Fault Refusal :=
  word i s fun s => .ok (s.setG d (f s))

/-- Quotient and remainder (R304). -/
def divRem (x y : Int) : Int × Int := if y = 0 then (-1, x) else (Int.tdiv x y, x - Int.tdiv x y * y)

/-- Leading zero bits. -/
def clz64 (a : Word) : Nat := if a = 0 then 64 else 63 - Nat.log2 a.toNat

/-- Number of 1 bits. -/
def popc64 (a : Word) : Nat := (List.range 64).countP fun k => a.getLsbD k

/-- Trailing zero bits. -/
def ctz64 (a : Word) : Nat := if a = 0 then 64 else Nat.log2 (a &&& -a).toNat

/-- The shift count in a register: bits 5:0 (R303). -/
def shiftCount (b : Word) : Nat := b.toNat % 64

/-- OR (R303). -/
def execOr (d a b : BitVec 5) (s : State) := regOp (.or d a b) d s fun s => s.opG a ||| s.opG b
/-- AND (R303). -/
def execAnd (d a b : BitVec 5) (s : State) := regOp (.and d a b) d s fun s => s.opG a &&& s.opG b
/-- XOR (R303). -/
def execXor (d a b : BitVec 5) (s : State) := regOp (.xor d a b) d s fun s => s.opG a ^^^ s.opG b
/-- ANDN (R303). -/
def execAndn (d a b : BitVec 5) (s : State) := regOp (.andn d a b) d s fun s => s.opG a &&& ~~~ s.opG b
/-- ADD (R303). -/
def execAdd (d a b : BitVec 5) (s : State) := regOp (.add d a b) d s fun s => s.opG a + s.opG b
/-- SUB (R303). -/
def execSub (d a b : BitVec 5) (s : State) := regOp (.sub d a b) d s fun s => s.opG a - s.opG b
/-- MUL: the low 64 bits (R303). -/
def execMul (d a b : BitVec 5) (s : State) := regOp (.mul d a b) d s fun s => s.opG a * s.opG b
/-- MULH: bits 127:64 of the signed product (R303). -/
def execMulh (d a b : BitVec 5) (s : State) :=
  regOp (.mulh d a b) d s fun s => BitVec.ofInt 64 (((s.opG a).toInt * (s.opG b).toInt) / 2 ^ 64)
/-- MULHN: bits 127:64 of the unsigned product (R303). -/
def execMulhn (d a b : BitVec 5) (s : State) :=
  regOp (.mulhn d a b) d s fun s => BitVec.ofNat 64 (((s.opG a).toNat * (s.opG b).toNat) / 2 ^ 64)
/-- DIV (R304). -/
def execDiv (d a b : BitVec 5) (s : State) := regOp (.div d a b) d s fun s => BitVec.ofInt 64 (divRem (s.opG a).toInt (s.opG b).toInt).1
/-- DIVN (R304). -/
def execDivn (d a b : BitVec 5) (s : State) :=
  regOp (.divn d a b) d s fun s => BitVec.ofInt 64 (divRem (s.opG a).toNat (s.opG b).toNat).1
/-- REM (R304). -/
def execRem (d a b : BitVec 5) (s : State) := regOp (.rem d a b) d s fun s => BitVec.ofInt 64 (divRem (s.opG a).toInt (s.opG b).toInt).2
/-- REMN (R304). -/
def execRemn (d a b : BitVec 5) (s : State) :=
  regOp (.remn d a b) d s fun s => BitVec.ofInt 64 (divRem (s.opG a).toNat (s.opG b).toNat).2
/-- SHL (R303). -/
def execShl (d a b : BitVec 5) (s : State) := regOp (.shl d a b) d s fun s => s.opG a <<< shiftCount (s.opG b)
/-- SHR (R303). -/
def execShr (d a b : BitVec 5) (s : State) := regOp (.shr d a b) d s fun s => s.opG a >>> shiftCount (s.opG b)
/-- SHA (R303). -/
def execSha (d a b : BitVec 5) (s : State) := regOp (.sha d a b) d s fun s => (s.opG a).sshiftRight (shiftCount (s.opG b))
/-- ROT: rotated right (R303). -/
def execRot (d a b : BitVec 5) (s : State) := regOp (.rot d a b) d s fun s => (s.opG a).rotateRight (shiftCount (s.opG b))
/-- MIN, signed (R303). -/
def execMin (d a b : BitVec 5) (s : State) := regOp (.min d a b) d s fun s => if (s.opG b).slt (s.opG a) then s.opG b else s.opG a
/-- MAX, signed (R303). -/
def execMax (d a b : BitVec 5) (s : State) := regOp (.max d a b) d s fun s => if (s.opG a).slt (s.opG b) then s.opG b else s.opG a
/-- MINN, unsigned (R303). -/
def execMinn (d a b : BitVec 5) (s : State) := regOp (.minn d a b) d s fun s => if (s.opG b).ult (s.opG a) then s.opG b else s.opG a
/-- MAXN, unsigned (R303). -/
def execMaxn (d a b : BitVec 5) (s : State) := regOp (.maxn d a b) d s fun s => if (s.opG a).ult (s.opG b) then s.opG b else s.opG a
/-- CLZ (R303). -/
def execClz (d a : BitVec 5) (s : State) := regOp (.clz d a) d s fun s => BitVec.ofNat 64 (clz64 (s.opG a))
/-- CTZ (R303). -/
def execCtz (d a : BitVec 5) (s : State) := regOp (.ctz d a) d s fun s => BitVec.ofNat 64 (ctz64 (s.opG a))
/-- POPC (R303). -/
def execPopc (d a : BitVec 5) (s : State) := regOp (.popc d a) d s fun s => BitVec.ofNat 64 (popc64 (s.opG a))
/-- EXT_B (R303). -/
def execExtB (d a : BitVec 5) (s : State) := regOp (.extB d a) d s fun s => sx ((s.opG a).truncate 8)
/-- EXT_H (R303). -/
def execExtH (d a : BitVec 5) (s : State) := regOp (.extH d a) d s fun s => sx ((s.opG a).truncate 16)
/-- EXT_W (R303). -/
def execExtW (d a : BitVec 5) (s : State) := regOp (.extW d a) d s fun s => sx ((s.opG a).truncate 32)
/-- CMP_EQ (R303). -/
def execCmpEq (d a b : BitVec 5) (s : State) := regOp (.cmpEq d a b) d s fun s => truth (s.opG a == s.opG b)
/-- CMP_NE (R303). -/
def execCmpNe (d a b : BitVec 5) (s : State) := regOp (.cmpNe d a b) d s fun s => truth (s.opG a != s.opG b)
/-- CMP_LT, signed (R303). -/
def execCmpLt (d a b : BitVec 5) (s : State) := regOp (.cmpLt d a b) d s fun s => truth ((s.opG a).slt (s.opG b))
/-- CMP_LE, signed (R303). -/
def execCmpLe (d a b : BitVec 5) (s : State) := regOp (.cmpLe d a b) d s fun s => truth ((s.opG a).sle (s.opG b))
/-- CMP_LTN, unsigned (R303). -/
def execCmpLtn (d a b : BitVec 5) (s : State) := regOp (.cmpLtn d a b) d s fun s => truth ((s.opG a).ult (s.opG b))
/-- CMP_LEN, unsigned (R303). -/
def execCmpLen (d a b : BitVec 5) (s : State) := regOp (.cmpLen d a b) d s fun s => truth ((s.opG a).ule (s.opG b))

/-- ADDI (R306). -/
def execAddi (d a : BitVec 5) (i : BitVec 14) (s : State) := regOp (.addi d a i) d s fun s => s.opG a + sx i
/-- ANDI (R306). -/
def execAndi (d a : BitVec 5) (i : BitVec 14) (s : State) := regOp (.andi d a i) d s fun s => s.opG a &&& zx i
/-- ORI (R306). -/
def execOri (d a : BitVec 5) (i : BitVec 14) (s : State) := regOp (.ori d a i) d s fun s => s.opG a ||| zx i
/-- XORI (R306). -/
def execXori (d a : BitVec 5) (i : BitVec 14) (s : State) := regOp (.xori d a i) d s fun s => s.opG a ^^^ zx i
/-- SHLI (R306). -/
def execShli (d a : BitVec 5) (n : BitVec 6) (s : State) := regOp (.shli d a n) d s fun s => s.opG a <<< n.toNat
/-- SHRI (R306). -/
def execShri (d a : BitVec 5) (n : BitVec 6) (s : State) := regOp (.shri d a n) d s fun s => s.opG a >>> n.toNat
/-- SHAI (R306). -/
def execShai (d a : BitVec 5) (n : BitVec 6) (s : State) := regOp (.shai d a n) d s fun s => (s.opG a).sshiftRight n.toNat
/-- LIA: relative to the bundle's address (R307). -/
def execLia (d : BitVec 5) (i : BitVec 14) (s : State) := regOp (.lia d i) d s fun s => s.targetOff i
/-- LEA: the self-alias address of a window and offset (R307). -/
def execLea (d a : BitVec 5) (i : BitVec 14) (s : State) :=
  regOp (.lea d a i) d s fun s => 0xF000F00000000000 + ((s.opG a + sx i) &&& 0x7FFFFF)
/-- LIH: a 20-bit signed immediate shifted left by 14 (R307). -/
def execLih (j : BitVec 1) (d k : BitVec 5) (i : BitVec 14) (s : State) :=
  regOp (.lih j d k i) d s fun _ => sx ((j ++ k ++ i : BitVec 20)) <<< 14
/-- SEL (R308). -/
def execSel (d a b x : BitVec 5) (s : State) := regOp (.sel d a b x) d s fun s => if s.opG x ≠ 0 then s.opG a else s.opG b

end Sys2Proof.Machine
end

