-- ==== Sys2Proof/Machine/Float.lean ====
section
/-! DEFINITION. The scalar floating-point instructions (R309 to R313). -/

namespace Sys2Proof.Machine

/-- The operand in a register under a type (R301). -/
def State.opF (s : State) (t : BitVec 2) (r : BitVec 5) : Val := readF t (s.opG r)

/-- FADD (R310). -/
def execFadd (d a b : BitVec 5) (t r : BitVec 2) (s : State) :=
  regOp (.fadd d a b t r) d s fun s => writeF t (Mode.ofCode r) (Val.add (Mode.ofCode r) (s.opF t a) (s.opF t b))
/-- FSUB (R310). -/
def execFsub (d a b : BitVec 5) (t r : BitVec 2) (s : State) :=
  regOp (.fsub d a b t r) d s fun s => writeF t (Mode.ofCode r) (Val.add (Mode.ofCode r) (s.opF t a) (s.opF t b).neg)
/-- FMUL (R310). -/
def execFmul (d a b : BitVec 5) (t r : BitVec 2) (s : State) :=
  regOp (.fmul d a b t r) d s fun s => writeF t (Mode.ofCode r) ((s.opF t a).mul (s.opF t b))
/-- FDIV (R310). -/
def execFdiv (d a b : BitVec 5) (t r : BitVec 2) (s : State) :=
  regOp (.fdiv d a b t r) d s fun s => writeF t (Mode.ofCode r) ((s.opF t a).div (s.opF t b))
/-- FSQRT (R310). -/
def execFsqrt (d a : BitVec 5) (t r : BitVec 2) (s : State) :=
  regOp (.fsqrt d a t r) d s fun s => writeF t (Mode.ofCode r) (s.opF t a).sqrt
/-- FMA: one rounding (R310). -/
def execFma (d a b : BitVec 5) (t r : BitVec 2) (x : BitVec 5) (s : State) :=
  regOp (.fma d a b t r x) d s fun s =>
    writeF t (Mode.ofCode r) (Val.add (Mode.ofCode r) ((s.opF t a).mul (s.opF t b)) (s.opF t x))
/-- FMIN (R311). -/
def execFmin (d a b : BitVec 5) (t : BitVec 2) (s : State) :=
  regOp (.fmin d a b t) d s fun s => writeF t .rne ((s.opF t a).min (s.opF t b))
/-- FMAX (R311). -/
def execFmax (d a b : BitVec 5) (t : BitVec 2) (s : State) :=
  regOp (.fmax d a b t) d s fun s => writeF t .rne ((s.opF t a).max (s.opF t b))
/-- FCMP (R311). -/
def execFcmp (d a b : BitVec 5) (t e : BitVec 2) (s : State) :=
  regOp (.fcmp d a b t e) d s fun s => truth (relation e (s.opF t a) (s.opF t b))
/-- FCVT: `t` is the destination type, `c` the source (R312). -/
def execFcvt (d a : BitVec 5) (t r c : BitVec 2) (s : State) :=
  regOp (.fcvt d a t r c) d s fun s => writeF t (Mode.ofCode r) (s.opF c a)
/-- FCVI: to an integer, a NaN being listed (R312). -/
def execFcvi (d a : BitVec 5) (t r : BitVec 2) (i : BitVec 3) (s : State) :=
  word (.fcvi d a t r i) s fun s =>
    let (v, l) := (s.opF t a).toIntTy (Mode.ofCode r) (intSigned i) (intWidth i)
    listing s (if l then [(0, 0)] else []) fun s => .ok (s.setG d (BitVec.ofInt 64 v))
/-- FICV: from an integer (R312). -/
def execFicv (d a : BitVec 5) (t r : BitVec 2) (i : BitVec 3) (s : State) :=
  regOp (.ficv d a t r i) d s fun s => writeF t (Mode.ofCode r) (Val.int (readI i (s.opG a)))
/-- FCLASS (R313). -/
def execFclass (d a : BitVec 5) (t : BitVec 2) (s : State) :=
  regOp (.fclass d a t) d s fun s => classMask (fmtOf t) (s.opF t a)
/-- FNEG (R313). -/
def execFneg (d a : BitVec 5) (t : BitVec 2) (s : State) := regOp (.fneg d a t) d s fun s => writeF t .rne (s.opF t a).neg
/-- FABS (R313). -/
def execFabs (d a : BitVec 5) (t : BitVec 2) (s : State) := regOp (.fabs d a t) d s fun s => writeF t .rne (s.opF t a).abs

end Sys2Proof.Machine
end

