-- ==== Sys2Proof/Machine/Flow.lean ====
section
/-! DEFINITION. Control transfers (R285, R286, R314 to R316). -/

namespace Sys2Proof.Machine

/-- Transfer to a target after its check, with what else the word writes (R316). -/
def transfer (i : Instr) (s : State) (t : State → Word) (f : State → State) : Host.Outcome State Fault Refusal :=
  word i s fun s => jumpTo s (t s) f

/-- A conditional branch (R315, R316). -/
def branch (i : Instr) (s : State) (o : BitVec 14) (taken : State → Bool) : Host.Outcome State Fault Refusal :=
  word i s fun s => if taken s then jumpTo s (s.targetOff o) id else .ok s

/-- B (R316). -/
def execB (o : BitVec 24) (s : State) := transfer (.b o) s (fun s => s.targetOff o) id
/-- BL: the link goes to g1 (R285, R316). -/
def execBl (o : BitVec 24) (s : State) := transfer (.bl o) s (fun s => s.targetOff o) fun s => s.setG 1 s.cur.next
/-- BR (R316). -/
def execBr (a : BitVec 5) (i : BitVec 14) (s : State) := transfer (.br a i) s (fun s => s.opG a + sx i) id
/-- BRL: the link goes to g[D] (R285, R316). -/
def execBrl (d a : BitVec 5) (i : BitVec 14) (s : State) :=
  transfer (.brl d a i) s (fun s => s.opG a + sx i) fun s => s.setG d s.cur.next
/-- BEQ (R315). -/
def execBeq (a b : BitVec 5) (o : BitVec 14) (s : State) := branch (.beq a b o) s o fun s => s.opG a == s.opG b
/-- BNE (R315). -/
def execBne (a b : BitVec 5) (o : BitVec 14) (s : State) := branch (.bne a b o) s o fun s => s.opG a != s.opG b
/-- BLT (R315). -/
def execBlt (a b : BitVec 5) (o : BitVec 14) (s : State) := branch (.blt a b o) s o fun s => (s.opG a).slt (s.opG b)
/-- BGE (R315). -/
def execBge (a b : BitVec 5) (o : BitVec 14) (s : State) := branch (.bge a b o) s o fun s => (s.opG b).sle (s.opG a)
/-- BLTN (R315). -/
def execBltn (a b : BitVec 5) (o : BitVec 14) (s : State) := branch (.bltn a b o) s o fun s => (s.opG a).ult (s.opG b)
/-- BGEN (R315). -/
def execBgen (a b : BitVec 5) (o : BitVec 14) (s : State) := branch (.bgen a b o) s o fun s => (s.opG b).ule (s.opG a)
/-- BZ (R315). -/
def execBz (a : BitVec 5) (o : BitVec 14) (s : State) := branch (.bz a o) s o fun s => s.opG a == 0
/-- BNZ (R315). -/
def execBnz (a : BitVec 5) (o : BitVec 14) (s : State) := branch (.bnz a o) s o fun s => s.opG a != 0

end Sys2Proof.Machine
end

