-- ==== Sys2Proof/Machine/Registers.lean ====
section
/-! DEFINITION. Writes of control registers that come as steps of their own: fills and invalidations of a TLB (R160 to R163, R166, R167), the region table and
the move of a region (R179, R183), the context table (R236), the launch control (R240), and any other register (R10). -/

namespace Sys2Proof.Machine

/-- Whether a module has a core (R1, R8). -/
def coreThere (unit core : Nat) : Bool := decide (core < coresOf unit)

/-- TLB_FILL (R161): the commit store `arg.v` of a fill, without NP and ENG, to core (`arg.unit`, `arg.core`). -/
def execTlbFill (s : State) : Host.Outcome State Fault Refusal :=
  let v := s.arg.v
  if coreThere s.arg.unit s.arg.core ∧ v.getLsbD 9 = false ∧ v.getLsbD 15 = false then .next (fillCommit s s.arg.unit s.arg.core v) else .next s

/-- TLB_FILL_NP (R161, R166, R167): a commit with NP releases the slot into its page-not-present outcome. -/
def execTlbFillNp (s : State) : Host.Outcome State Fault Refusal :=
  let v := s.arg.v
  if coreThere s.arg.unit s.arg.core ∧ v.getLsbD 9 ∧ v.getLsbD 15 = false then .next (fillNotPresent s s.arg.unit s.arg.core v) else .next s

/-- TLB_FILL_ENGINE (R162): a commit with ENG is forwarded to the engine it names. -/
def execTlbFillEngine (s : State) : Host.Outcome State Fault Refusal :=
  let v := s.arg.v
  if coreThere s.arg.unit s.arg.core ∧ v.getLsbD 15 then .next (fillEngine s s.arg.unit s.arg.core v s.moduleNo.toNat) else .next s

/-- TLBINV_PAGE (R163): a commit with SCOPE 0. -/
def execTlbinvPage (s : State) : Host.Outcome State Fault Refusal :=
  if coreThere s.arg.unit s.arg.core ∧ bits s.arg.v.toNat 13 12 = 0 then .next (tlbInvalidate s s.arg.unit s.arg.core s.arg.v) else .next s

/-- TLBINV_CONTEXT (R163): a commit with SCOPE 1. -/
def execTlbinvContext (s : State) : Host.Outcome State Fault Refusal :=
  if coreThere s.arg.unit s.arg.core ∧ bits s.arg.v.toNat 13 12 = 1 then .next (tlbInvalidate s s.arg.unit s.arg.core s.arg.v) else .next s

/-- TLBINV_ALL (R163): a commit with SCOPE 2. -/
def execTlbinvAll (s : State) : Host.Outcome State Fault Refusal :=
  if coreThere s.arg.unit s.arg.core ∧ bits s.arg.v.toNat 13 12 = 2 then .next (tlbInvalidate s s.arg.unit s.arg.core s.arg.v) else .next s

/-! ### The region table (R22, R179, R183) -/

/-- REGION_TABLE_WRITE (R22, R179): `arg.v` is stored to word 0, or with `arg.flag` word 1, of entry `arg.index` of rim die `arg.unit`'s copy. -/
def execRegionTableWrite (s : State) : Host.Outcome State Fault Refusal :=
  let k := s.arg.unit
  let n := s.arg.index
  if 6 ≤ k ∨ 64 ≤ n ∨ (s.arg.flag ∧ regionHalf s k n) then .next s
  else if s.arg.flag ∧ regionBad (s.rim k) n (regionNext s k n s.arg.v) then .next s.refuse
  else .next (regionStore s k n s.arg.flag s.arg.v)

/-- The offset within a region of a stack-local address that its entry places there (the inverse of `Place` of R180), if it does. -/
def unplace (e : Region) (stack a : Nat) : Option Nat :=
  let b := a - e.frame * 2 ^ 30
  let r := if e.mode = 0 then (b / 2 ^ 12 * 12 + stack) * 2 ^ 12 + b % 2 ^ 12
    else if e.mode = 1 then (b / 2 ^ 10 * 2 + stack % 2) * 2 ^ 10 + b % 2 ^ 10
    else b
  if e.mode < 3 ∧ e.frame * 2 ^ 30 ≤ a ∧ r < regionSize ∧ placeHbm e r = (stack, a) then some r else none

/-- The listed bytes that an entry places, with their offsets. -/
def regionCells (s : State) (e : Region) : List (Nat × Byte) :=
  s.mem.filterMap fun c =>
    if isHbm c.1 then (unplace e (c.1 / 2 ^ 36 % 16) (c.1 % 2 ^ 36)).map fun r => (r, c.2) else none

/-- Copy region `a`'s bytes to region `x` on path CE (R183 step 2): the copy is complete for every reader before the next step. -/
def copyRegion (s : State) (a x : Region) : State :=
  let key := fun r => let (st, k) := placeHbm x r; hbmKey st k
  let s := (regionCells s x).foldl (fun t (c : Nat × Byte) => t.put .ce (key c.1) [0]) s
  let s := (regionCells s a).foldl (fun t (c : Nat × Byte) => t.put .ce (key c.1) [c.2]) s
  performFor s fun l => l.writer == .ce && isHbm l.key && (unplace x (l.key / 2 ^ 36 % 16) (l.key % 2 ^ 36)).isSome

/-- What a step of a region move writes on each die, with its STAMP: the region and its entry (R183). -/
def Move.entry (m : Move) (stamp : Word) : Nat × Region :=
  if m.step = 1 then (m.a, { m.ea with wfz := true, stamp := stamp })
  else if m.step = 3 then (m.x, { m.ex with mode := 3, stamp := stamp })
  else if m.step = 4 then (m.a, { m.ex with wfz := false, stamp := stamp })
  else (m.x, { m.ea with wfz := false, stamp := stamp })

/-- The move after a step: the next one draws its STAMP when it begins. -/
def Move.next (m : Move) : Option Move :=
  if m.step = 5 then none else some { m with step := m.step + 1, stamp := none, left := if m.step = 1 then [] else List.range 6 }

/-- Write a move's step on one die; the first write draws the step's STAMP, later than every stamp of the two entries; a die freezes its copy once the writes
that it accepted are performed (R183). -/
def moveWrite (s : State) (m : Move) (k : Nat) : State :=
  let old := (List.range 6).any fun d => decide (s.ts.toNat ≤ (s.rimRegion d m.a).stamp.toNat ∨ s.ts.toNat ≤ (s.rimRegion d m.x).stamp.toNat)
  if m.left.contains k = false ∨ (m.stamp = none ∧ old) ∨ (m.step = 1 ∧ regionHalf s k m.a) then s
  else
    let st := m.stamp.getD s.ts
    let (n, e) := m.entry st
    let s := s.modRim k fun r => { r with regions := Tbl.set r.regions n e }
    let left := m.left.filter (· != k)
    { s with move := if left = [] then m.next else some { m with stamp := some st, left := left } }

/-- REGION_MOVE (R183): firmware moves region `arg.index` to where the spare region `arg.aux` stands, a move at a time.  Each turn of a move writes the entry of its
step on rim die `arg.unit`, or in step 2 copies the bytes. -/
def execRegionMove (s : State) : Host.Outcome State Fault Refusal :=
  match s.move with
  | some m => .next (if m.step = 2 then { copyRegion s m.ea m.ex with move := m.next } else moveWrite s m s.arg.unit)
  | none =>
    let a := s.arg.index
    let x := s.arg.aux
    let ea := s.rimRegion 0 a
    let ex := s.rimRegion 0 x
    let agree := (List.range 6).all fun d => s.rimRegion d a == ea && s.rimRegion d x == ex
    if 64 ≤ a ∨ 64 ≤ x ∨ a = x ∨ 6 ≤ s.arg.unit ∨ agree = false ∨ ea.mode = 3 ∨ ex.mode = 3 ∨ ea.wfz then .next s
    else .next (moveWrite s { a := a, x := x, ea := ea, ex := ex, step := 1, stamp := none, left := List.range 6 } s.arg.unit)

/-! ### Other registers -/

/-- Whether firmware still makes no context table entry valid: before the last step of bring-up, the accepted subset of features (R471), and after a reset of the
bed until its Trellis copy is written again (R97). -/
def ctxEarly (s : State) (bed : Nat) (v : Word) : Bool :=
  v.getLsbD 63 && (!s.boot.broughtUp || !s.boot.featWritten || (s.bed bed).rst.owed)

/-- CONTEXT_TABLE_WRITE (R236): `arg.v` is stored to entry `arg.index` of bed `arg.unit`'s context table, or refused. -/
def execContextTableWrite (s : State) : Host.Outcome State Fault Refusal :=
  if 12 ≤ s.arg.unit ∨ 4096 ≤ s.arg.index ∨ ctxEarly s s.arg.unit s.arg.v then .next s
  else if ctxBad s.arg.unit s.arg.v then .next s.refuse
  else .next (ctxTabStore s s.arg.unit s.arg.index s.arg.v)

/-- LQCTL_WRITE (R240): `arg.v` is stored to LQCTL of bed `arg.unit`; the placement step that a cleared HOLD starts is a step of its own. -/
def execLqctlWrite (s : State) : Host.Outcome State Fault Refusal :=
  if s.arg.unit < 12 then .next (lqctlStore s s.arg.unit s.arg.v) else .next s

/-- The management plane clears VECC of a vault by writing zero (R66). -/
def clearVecc (s : State) (bed v : Nat) : State :=
  s.modBed bed fun b => { b with vce := Tbl.set b.vce v 0, vue := Tbl.set b.vue v 0, vlast := Tbl.set b.vlast v 0 }

/-- A write over channel 1 to EVPW or EVCONS (R467). -/
def ringWrite (s : State) (n : Nat) (v : Word) : State :=
  if n = 1 then { s with evpw := v &&& 0x7FFFFFFFFFFFF } else if n = 2 then { s with evcons := v } else s

/-- REGISTER_WRITE (R10, R66, R467): `arg.v` is written to the register at module-local address `arg.index` as its access code says; with `arg.flag` the management
plane writes; with `arg.flag2` the control node writes EVPW (`arg.aux` 1) or EVCONS (2). -/
def execRegisterWrite (s : State) : Host.Outcome State Fault Refusal :=
  let r := decodeOutside (s.arg.index / 8 * 8)
  if s.arg.flag2 then .next (ringWrite s s.arg.aux s.arg.v)
  else
    match r with
    | .bedCtl b 3 off => if s.arg.flag ∧ 0x100 ≤ off ∧ off < 0x180 ∧ s.arg.v = 0 then .next (clearVecc s b ((off - 0x100) / 8)) else .next s
    | .bedCtl b 0 off =>
      if off < 0x8000 ∨ ctxEarly s b s.arg.v = false then .next (s.ctlWrite (.bedCtl b 0 off) s.arg.v) else .next s
    | r => if tableHeld s r 8 = false ∧ r.isCtl ∧ (readOnlyStore ⟨31, 0, 0⟩ r).isNone then .next (s.ctlWrite r s.arg.v) else .next s

end Sys2Proof.Machine
end

