-- ==== Sys2Proof/Machine/Task.lean ====
section
/-! DEFINITION. Tasks (R404 to R406), plots (R407) and explicit packets (R401, R402). -/

namespace Sys2Proof.Machine

/-! ### Spawn (R247, R404) -/

/-- The packet of a `spawn` (R247). -/
def spawnRec (s : State) (pc : Word) (heavy : Bool) : SpawnRec :=
  let x := s.here
  { pc := pc, args := [s.opG 4, s.opG 5, s.opG 6, s.opG 7], ctx := x.th.ctx, mode := x.th.mode, tvec := x.th.tvec, reach := x.reach,
    prio := x.gangPrio, heavy := heavy }

/-- SPAWN (R247, R404): on BUSY, an issuer that may run the child calls it; one that may not waits, and the request is sent again. -/
def execSpawn (d a : BitVec 5) (h : BitVec 1) (s : State) : Host.Outcome State Fault Refusal :=
  word (.spawn d a h) s fun s => s.outsideBlock 5 fun s =>
    let t := (s.opG d).toNat
    let pc := s.opG a
    let unit := t / 128
    let core := t % 128
    if 2 ^ 12 ≤ t then s.illegal 4
    else if coresOf unit = 0 then blockError s 1 s.wordPc
    else if coresOf unit ≤ core ∨ (h = 1 ∧ 16 ≤ unit) then blockError s 2 s.wordPc
    else
      releasing s fun s =>
        handOver s (.core unit core 0 0) (resolveLa unit core (0x0F * 2 ^ 44)) 0x12 8 (.spawn (spawnRec s pc (h == 1))) fun s rs =>
          if rs.contains .busy then jumpTo s pc fun s => s.setG 1 s.cur.next else .ok s

/-! ### Deques (R245, R246, R405) -/

/-- Records and reserved entries a deque holds (R246). -/
def Core.dequeFill (c : Core) : Nat := (c.dqbot - c.dqtop).toNat + c.dqRsv

/-- Key of deque record `i` of a core (R245). -/
def dequeKey (unit core i : Nat) : Nat := coreKey unit core (dequeOff unit + 48 * (i % 64))

/-- A deque record (R245). -/
def dequeWords (pc : Word) (args : List Word) (ctx : BitVec 12) : List Word := pc :: args ++ [ctx.zeroExtend 64]

/-- The six words of deque record `i`. -/
def dequeRead (s : State) (unit core i : Nat) : List Word := (List.range 6).map fun j => s.peekW (dequeKey unit core i + 8 * j)

/-- The context of a record. -/
def recCtx (ws : List Word) : BitVec 12 := (ws.getD 5 0).truncate 12

/-- DQ_PUSH (R246, R405). -/
def execDqPush (d a : BitVec 5) (s : State) : Host.Outcome State Fault Refusal :=
  word (.dqPush d a) s fun s => s.outsideBlock 5 fun s =>
    let p := s.cur.place
    let pc := s.opG a
    if pc = 0 then s.illegal 4
    else
      releasing s fun s =>
        let c := s.coreAt p
        if 64 ≤ c.dequeFill then .ok (s.setG d 0)
        else
          let s := s.putWs (dequeKey p.unit p.core c.dqbot.toNat) (dequeWords pc [s.opG 4, s.opG 5, s.opG 6, s.opG 7] s.ctx)
          .ok ((s.modCoreAt p fun c => { c with dqbot := c.dqbot + 1 }).setG d 1)

/-- Victim `j` of a core's steal order, if its byte names one (R245). -/
def victimAt (s : State) (p : Place) (j : Nat) : Option Nat :=
  let b := (s.coreAt p).stealord.toNat / 2 ^ (8 * j) % 256
  if 128 ≤ b ∧ b % 128 < coresOf p.unit then some (b % 128) else none

/-- The first valid victim from `j` on. -/
def nextVictim (s : State) (p : Place) (j : Nat) : Option Nat := (List.range 8).find? fun k => decide (j ≤ k) && (victimAt s p k).isSome

/-- Give a taken record to the registers: g[D] is its PC, g4 to g7 its arguments; an acquire (R199, R405). -/
def takeRecord (s : State) (d : BitVec 5) (ws : List Word) : Res :=
  let s := (acquireAll s s.cur.place).setG d (ws.getD 0 0)
  .ok ((((s.setG 4 (ws.getD 1 0)).setG 5 (ws.getD 2 0)).setG 6 (ws.getD 3 0)).setG 7 (ws.getD 4 0))

/-- What a steal's answer brought. -/
def stolenOf (rs : List Resp) : Option (Option (List Word)) :=
  rs.findSome? fun
    | .stolen r => some r
    | _ => none

/-- DQ_POP (R246, R405). -/
def execDqPop (d : BitVec 5) (s : State) : Host.Outcome State Fault Refusal :=
  word (.dqPop d) s fun s => s.outsideBlock 5 fun s =>
    let p := s.cur.place
    match stolenOf s.here.resp with
    | some (some ws) => takeRecord s d ws
    | some none => .ok (s.setG d 0)
    | none =>
      let c := s.coreAt p
      let s := if c.dqbot = c.dqtop then s else s.see (dequeKey p.unit p.core (c.dqbot - 1).toNat) 48
      let ws := dequeRead s p.unit p.core (c.dqbot - 1).toNat
      if c.dqbot ≠ c.dqtop ∧ recCtx ws = s.ctx then takeRecord (s.modCoreAt p fun c => { c with dqbot := c.dqbot - 1 }) d ws
      else if 64 ≤ c.dequeFill then .ok (s.setG d 0)
      else
        match nextVictim s p 0 with
        | none => .ok (s.setG d 0)
        | some j =>
          let id := s.free
          let e : Steal := { id := id, slot := p.slot, ctx := s.ctx, j := j, ans := none }
          .wait (s.modCoreAt p fun c => { c with dqRsv := c.dqRsv + 1, steals := c.steals ++ [e] }).tick (.answer id false) true

/-! ### Launch (R239, R406) -/

/-- Whether a gang record breaks R239 in its counts or reserved bits. -/
def gangBad (ws : List Word) : Bool :=
  let w := fun i => (ws.getD i 0).toNat
  let nk := w 0 % 16
  nk == 0 || 8 < nk || (List.range 8).any (fun k => decide (k < nk) && (w (9 + 2 * k) % 8 == 0 || decide (4 < w (9 + 2 * k) % 8))) ||
  2 ^ 7 ≤ w 4 || w 5 != 0 || w 6 != 0 || w 7 != 0 || (List.range 8).any fun k => w (9 + 2 * k) / 16 % 2 ^ 28 != 0

/-- The context a gang record names. -/
def gangCtx (ws : List Word) : BitVec 12 := BitVec.ofNat 12 ((ws.getD 0 0).toNat / 256)

/-- LAUNCH (R240, R406): it waits while the queue is full; the bed's answer comes when the record is queued. -/
def execLaunch (a : BitVec 5) (b : BitVec 4) (s : State) : Host.Outcome State Fault Refusal :=
  word (.launch a b) s fun s => s.outsideBlock 5 fun s =>
    let p := s.cur.place
    let pa := s.opG a
    let bed := if b = 15 then p.unit else b.toNat
    if 12 ≤ bed then blockError s 4 pa
    else
      readBlocks 3 pa 64 64 s [] fun s bs =>
        let ws := wordsOf bs
        let ctx := gangCtx ws
        if gangBad ws then blockError s 1 pa
        else if ws.getD 2 0 = 0 ∧ ws.getD 3 0 = 0 then blockError s 2 pa
        else if (Tbl.get 0 (s.bed bed).ctxTab ctx.toNat).getLsbD 63 = false then blockError s 3 pa
        else if s.sysMode = false ∧ ctx ≠ s.ctx then .trap s (Trap.of 5 7 s.wordPc)
        else
          releasing s fun s =>
            handOver s (.bedCtl bed 0 0) (bed * 2 ^ 36 + 3 * 2 ^ 30) 1 6 (.record ws) fun s rs =>
              if rs.contains .busy then .wait (s.modHere fun x => { x with resp := x.resp.filter (· != .busy) }) .queue true else .ok s

/-! ### Plots (R232, R233, R407) -/

/-- Key of plot table entry `e` (R232). -/
def plotKey (p : Place) (e : Nat) : Nat := coreKey p.unit p.core (plotOff p.unit + 16 * e)

/-- The two words of plot table entry `e`. -/
def plotRead (s : State) (p : Place) (e : Nat) : Nat × Word := ((s.peekW (plotKey p e)).toNat, s.peekW (plotKey p e + 8))

/-- PLOT_ALLOC (R233, R407). -/
def execPlotAlloc (d a : BitVec 5) (s : State) : Host.Outcome State Fault Refusal :=
  word (.plotAlloc d a) s fun s => s.outsideBlock 5 fun s =>
    let p := s.cur.place
    let v := (s.opG a).toNat
    let base := v % 2 ^ 20
    let len := bits v 39 20
    let s := s.see (plotKey p 0) 1024
    let es := (List.range 64).map fun e => plotRead s p e
    if 2 ^ 40 ≤ v then s.illegal 4
    else
      match (List.range 64).find? fun e => !(es.getD e (0, 0)).1.testBit 43 with
      | none => blockError s 1 s.wordPc
      | some e =>
        if base % 64 ≠ 0 ∨ len % 64 ≠ 0 ∨ len < 64 ∨ 0xF0000 < len then blockError s 2 s.wordPc
        else if sysOff p.unit < base + len then blockError s 3 s.wordPc
        else if es.any fun x => x.1.testBit 43 && meets (x.1 % 2 ^ 20) (bits x.1 39 20) base len then blockError s 4 s.wordPc
        else if s.ts.toNat ≤ (es.getD e (0, 0)).2.toNat then .wait s .time true
        else
          let w0 := pack [(0, base), (20, len), (40, p.slot), (43, 1), (44, s.ctx.toNat)]
          .ok ((s.putWs (plotKey p e) [w0, s.ts]).setG d (BitVec.ofNat 64 (e + s.ts.toNat % 2 ^ 58 * 64)))

/-- Whether a handle names a plot of the slot in execution (R233). -/
def plotMine (s : State) (h : Word) : Bool :=
  let p := s.cur.place
  let (w0, ts) := plotRead s p (h.toNat % 64)
  w0.testBit 43 && ts.toNat % 2 ^ 58 == h.toNat / 64 && bits w0 55 44 == s.ctx.toNat && bits w0 42 40 == p.slot && !s.away p

/-- PLOT_PASS: a release at `.c` (R199, R233, R407). -/
def execPlotPass (a : BitVec 5) (t : BitVec 3) (s : State) : Host.Outcome State Fault Refusal :=
  word (.plotPass a t) s fun s => s.outsideBlock 5 fun s =>
    let p := s.cur.place
    let h := s.opG a
    let s := s.see (plotKey p (h.toNat % 64)) 16
    if plotMine s h = false then .trap s (Trap.of 5 6 s.wordPc)
    else if storesDone s p 0 = false ∨ ackedFor s p 0 = false then .wait s .drain false
    else .ok (s.putWs (plotKey p (h.toNat % 64)) [setBits (BitVec.ofNat 64 (plotRead s p (h.toNat % 64)).1) 42 40 t.toNat])

/-- PLOT_FREE (R233, R407). -/
def execPlotFree (a : BitVec 5) (s : State) : Host.Outcome State Fault Refusal :=
  word (.plotFree a) s fun s => s.outsideBlock 5 fun s =>
    let p := s.cur.place
    let h := s.opG a
    let s := s.see (plotKey p (h.toNat % 64)) 16
    if plotMine s h = false then .trap s (Trap.of 5 6 s.wordPc)
    else .ok (s.putWs (plotKey p (h.toNat % 64)) [setBits (BitVec.ofNat 64 (plotRead s p (h.toNat % 64)).1) 43 43 0])

/-! ### Explicit packets (R95, R401, R402) -/

/-- The number of the first check of R401 that a head block fails. -/
def headRefused (ws : List Word) (r : Rng) : Option Nat :=
  let w5 := (ws.getD 5 0).toNat
  let kind := w5 % 32
  let dest := (ws.getD 4 0).toNat % 2 ^ 52
  let target := match r with
    | .core _ _ w _ => decide (w ≤ 1)
    | .vault _ _ _ => true
    | _ => false
  if (kind ≠ 0x10 ∧ kind ≠ 0x11) ∨ 2 ^ 7 ≤ w5 ∨ ws.getD 7 0 ≠ 0 then some 1
  else if kind = 0x11 ∧ dest % 32 ≠ 0 then some 2
  else if kind = 0x11 ∧ target = false then some 3
  else none

/-- Open a packet from the head block at an address (R401). -/
def openPacket (s : State) (pa : Word) (f : State → OpenPkt → Res) : Res :=
  let p := s.cur.place
  readBlock s pa 64 64 fun s _ bs =>
    let ws := wordsOf bs
    let dest := (ws.getD 4 0).toNat % 2 ^ 52
    let fa := BitVec.ofNat 64 (0xF * 2 ^ 60 + dest)
    let str := BitVec.ofNat 256 (ofBytes (bs.take 32))
    match headRefused ws (fixedRng p fa) with
    | some n => blockError s n pa
    | none =>
      if s.sysMode = false ∧ commandRefused s p fa then .trap s (Trap.of 5 0 fa)
      else
        match routeRefused p.rim false str with
        | some ix => .trap s ⟨15, 0, s.wordPc, BitVec.ofNat 64 (ix % 128 + 256), 0⟩
        | none =>
          f s { route := str, lane := bits (ws.getD 5 0).toNat 6 5, kind := (ws.getD 5 0).toNat % 32, dest := resolveLa p.unit p.core dest,
                dmod := (ws.getD 4 0).toNat / 2 ^ 52, info := ws.getD 6 0, flits := [] }

/-- Append the flit at an address (R402): it is read from the executing core's own memory. -/
def appendFlit (s : State) (k : OpenPkt) (pa : Word) (f : State → OpenPkt → Res) : Res :=
  if (if k.kind = 0x10 then 1 else 16) ≤ k.flits.length then s.illegal 4
  else
    readBlock s pa 32 32 fun s a bs =>
      if a.own = false ∨ a.rng.isCtl then .trap s (Trap.of 5 0 pa) else f s { k with flits := k.flits ++ [bs] }

/-- Whether a closing packet fails its check: a KIND 0x11 packet without payload, or whose bytes leave one range of R17 (R402). -/
def closeRefused (k : OpenPkt) : Bool :=
  k.kind == 0x11 && (k.flits == [] ||
    match decodeLa 31 0 k.dest, decodeLa 31 0 ((k.dest + 32 * k.flits.length - 1) % 2 ^ 52) with
    | .core u c w _, .core u' c' w' _ => !(u == u' && c == c' && w == w')
    | .vault b v _, .vault b' v' _ => !(b == b' && v == v')
    | _, _ => true)

/-- The packet a close injects (R402). -/
def closedPkt (s : State) (k : OpenPkt) : Pkt :=
  let p := s.cur.place
  let body : Body := if k.kind = 0x10 then .message k.flits.flatten else .bulk k.flits.flatten
  { mkPkt s p k.kind k.flits.length k.dest body with
    route := k.route, lane := k.lane, route0 := k.route, lane0 := k.lane, dmod := k.dmod, info := k.info, xpl := true, iport := 0 }

/-- Close a packet: a release at `.m`, one mailbox entry reserved, then the whole packet is injected (R117, R199, R402).  It does not wait for earlier packets, which
are ordered only on one route: R424 lets two pass each other (DEDUCED, assumption 182). -/
def closePacket (s : State) (k : OpenPkt) (pa : Word) : Res :=
  let p := s.cur.place
  if closeRefused k then blockError s 4 pa
  else
    let x := s.here
    if ((s.coreAt p).sbuf.all (fun e => e.slot != p.slot) && x.redOut == 0 && x.ntOut == []) = false then s.waitFor .drain false
    else if (s.coreAt p).mailRoom = 0 then .wait s .queue true
    else
        let s := { s with pkts := s.pkts ++ [closedPkt s k] }
        let s := s.modCoreAt p fun c => { c with mbrsv := c.mbrsv + 1 }
        .ok (s.modHere fun x => { x with pkt := none, expOut := x.expOut + 1 }).tick

/-- PSEND_OPEN: `psend gA, 0` (R402). -/
def execPsendOpen (a : BitVec 5) (s : State) : Host.Outcome State Fault Refusal :=
  word (.psendOpen a) s fun s => s.outsideBlock 5 fun s =>
    if s.here.pkt.isSome then s.illegal 4
    else openPacket s (s.opG a) fun s k => .ok (s.modHere fun x => { x with pkt := some k })

/-- PSEND_APPEND: `psend gA, 1` (R402). -/
def execPsendAppend (a : BitVec 5) (s : State) : Host.Outcome State Fault Refusal :=
  word (.psendAppend a) s fun s => s.outsideBlock 5 fun s =>
    match s.here.pkt with
    | none => s.illegal 4
    | some k => appendFlit s k (s.opG a) fun s k => .ok (s.modHere fun x => { x with pkt := some k })

/-- PSEND_E_OPEN: `psend.e gA, 0` opens and closes a packet with LEN 0 (R402). -/
def execPsendEOpen (a : BitVec 5) (s : State) : Host.Outcome State Fault Refusal :=
  word (.psendEOpen a) s fun s => s.outsideBlock 5 fun s =>
    if s.here.pkt.isSome then s.illegal 4
    else openPacket s (s.opG a) fun s k => closePacket s k (s.opG a)

/-- PSEND_E_APPEND: `psend.e gA, 1` (R402). -/
def execPsendEAppend (a : BitVec 5) (s : State) : Host.Outcome State Fault Refusal :=
  word (.psendEAppend a) s fun s => s.outsideBlock 5 fun s =>
    match s.here.pkt with
    | none => s.illegal 4
    | some k => appendFlit s k (s.opG a) fun s k => closePacket s k (s.opG a)

/-- PSEND_E_CLOSE: `psend.e g0, 2` (R402); its descriptor error has no block, so `eaddr` is the PC of the word (assumption 8). -/
def execPsendEClose (s : State) : Host.Outcome State Fault Refusal :=
  word .psendEClose s fun s => s.outsideBlock 5 fun s =>
    match s.here.pkt with
    | none => s.illegal 4
    | some k => closePacket s k s.wordPc

end Sys2Proof.Machine
end

