-- ==== Sys2Proof/Machine/Sched.lean ====
section
/-! DEFINITION. Scheduling: slot-state stores (R216), pre-emption (R255 to R257), spawn (R247), steals (R246), placement and displacement (R241 to R243),
and the context operations (R237, R238). -/

namespace Sys2Proof.Machine

/-! ### Slots (R216, R255) -/

/-- SLOT_START (R216, R476): READY is stored to the SLST of a FREE slot, of a bed that is not in reset. -/
def execSlotStart (s : State) : Host.Outcome State Fault Refusal :=
  .next (if s.argPlace.ok ∧ (s.bed s.arg.unit).rst.state = 0 then slotStart s s.argPlace else s)

/-- SLOT_RESUME (R216): READY is stored to a parked slot. -/
def execSlotResume (s : State) : Host.Outcome State Fault Refusal := .next (if s.argPlace.ok then slotResume s s.argPlace else s)

/-- SLOT_HOLD (R216): PARK is stored to a READY slot. -/
def execSlotHold (s : State) : Host.Outcome State Fault Refusal := .next (if s.argPlace.ok then slotHold s s.argPlace else s)

/-- SLOT_DISCARD (R216, R244): FREE is stored to a READY or parked slot. -/
def execSlotDiscard (s : State) : Host.Outcome State Fault Refusal := .next (if s.argPlace.ok then slotDiscard s s.argPlace else s)

/-- SLOT_RELEASE_LOST (R216): FREE is stored to a LOST slot. -/
def execSlotReleaseLost (s : State) : Host.Outcome State Fault Refusal := .next (if s.argPlace.ok then slotReleaseLost s s.argPlace else s)

/-- SLOT_RESUME_HELD (R216): READY is stored to a slot held READY. -/
def execSlotResumeHeld (s : State) : Host.Outcome State Fault Refusal := .next (if s.argPlace.ok then slotResumeHeld s s.argPlace else s)

/-- PREEMPT_REQUEST (R255): 1 is written to PREQ of a slot. -/
def execPreemptRequest (s : State) : Host.Outcome State Fault Refusal := .next (if s.argPlace.ok then preemptRequest s s.argPlace else s)

/-- PREEMPTION (R176, R255): a pending pre-emption is honoured at its boundary. -/
def execPreemption (s : State) : Host.Outcome State Fault Refusal := .next (if s.argPlace.ok then preempt s s.argPlace else s)

/-- FREEZE_IMAGE_WRITTEN (R257, R387): the freeze that the slot waits for ends. -/
def execFreezeImageWritten (s : State) : Host.Outcome State Fault Refusal :=
  let p := s.argPlace
  match (s.coreAt p).mx.freezing with
  | some (k, key) => if k = p.slot ∧ (s.slot p).wait = some .freeze then .next (endFreeze s p key) else .next s
  | none => .next s

/-! ### Starting threads (R242, R247) -/

/-- Whether launch and spawn place nothing on a core: the translation service cores of a bed with EN set in any core (R157, R241; that any core's EN counts
is R157's reading, assumption 17). -/
def serviceHeld (s : State) (unit core : Nat) : Bool :=
  decide (unit < 12) && decide (126 ≤ core) && s.cores.any fun c => c.1 / 128 == unit && c.2.txctl.getLsbD 0

/-- Write a started thread's save area, reach descriptor included, and move its slot to READY (R242). -/
def startThread (s : State) (p : Place) (t : Thread) (reach : Vector Word 4) (prio : Nat) (gang : Option (Nat × Nat)) : State :=
  let s := s.modSlot p fun x => { x.emptied with name := p.name, th := t }
  let s := s.saveSlot p
  let s := s.putWs (coreKey p.unit p.core (saveOff p) + (if p.heavy then 0x9C0 else 0x180)) reach.toList
  (startSlot s p prio gang).modSlot p fun x => { x with th := { x.th with ctx := t.ctx, mode := t.mode } }

/-- The registers of a started thread: g1 and g4 to g7 (R242). -/
def startRegs (g1 g4 g5 g6 g7 : Word) : Vector Word 32 :=
  vecOf 32 fun i => if i = 1 then g1 else if i = 4 then g4 else if i = 5 then g5 else if i = 6 then g6 else if i = 7 then g7 else 0

/-- The core a spawn has reached. -/
def spawnCore (q : Pkt) : Option (Nat × Nat) :=
  match q.rng with
  | .core u c _ _ => some (u, c)
  | _ => none

/-- SPAWN_ARRIVAL (R242, R247): packet `arg.index` claims the lowest FREE slot of its kind, or is answered BUSY. -/
def execSpawnArrival (s : State) : Host.Outcome State Fault Refusal :=
  serving s fun s i q =>
    match q.body, spawnCore q with
    | .spawn r, some (u, c) =>
      if killing s u r.ctx then nackPkt s i q 5
      else
        let ks := if 16 ≤ u then List.range 8 else if r.heavy then [0, 1, 2, 3] else [4, 5, 6, 7]
        (match (if serviceHeld s u c then none else ks.find? fun k => (s.slot ⟨u, c, k⟩).st == .free) with
         | none => nackPkt s i q 4
         | some k =>
           let a := fun n => r.args.getD n 0
           let t := { Thread.zero with g := startRegs (s.core u c).spret (a 0) (a 1) (a 2) (a 3), pc := r.pc, ctx := r.ctx, mode := r.mode, tvec := r.tvec }
           answerPkt (startThread s ⟨u, c, k⟩ t r.reach r.prio none) i q 0x18 0 .ack)
    | _, _ => s

/-- SPAWN_ANSWER (R247): the answer `arg.index` of a spawn reaches its issuer, which completes, calls the child, or sends it again later. -/
def execSpawnAnswer (s : State) : Host.Outcome State Fault Refusal :=
  answering s fun s i q =>
    match q.req.2.2 with
    | .spawn r =>
      (match q.body with
       | .nack reason hopix _ unit =>
         let p := q.place
         if (s.slot p).waitsFor q q.req.2.2 = false then dropPkt s i
         else if nackHeld s q reason then s
         else if reason ≤ 2 then nackWaiting (dropPkt s i) q reason hopix unit
         else if reason ≠ 4 then wakeFor (dropPkt s i) q q.req.2.2
         else if p.heavy ∨ r.heavy = false then giveAnswer s i q .busy
         else holdBack (dropPkt s i) q 0
       | _ => giveAnswer s i q .done)
    | _ => s

/-! ### Steals (R246) -/

/-- Replace steal number `n` of a core, or remove it. -/
def setSteal (s : State) (unit core n : Nat) (e : Option Steal) : State :=
  s.modCore unit core fun c => { c with steals := match e with
    | some e => c.steals.set n e
    | none => c.steals.eraseIdx n }

/-- STEAL_REQUEST (R246): the request `arg.index` of core (`arg.unit`, `arg.core`) reaches its victim, which gives its top record to a thief of the same
context, or answers empty. -/
def execStealRequest (s : State) : Host.Outcome State Fault Refusal :=
  let u := s.arg.unit
  let c := s.arg.core
  match (s.core u c).steals[s.arg.index]? with
  | none => .next s
  | some e =>
    if e.ans.isSome then .next s
    else
      match victimAt s ⟨u, c, 0⟩ e.j with
      | none => .next (setSteal s u c s.arg.index (some { e with ans := some none }))
      | some v =>
        let d := s.core u v
        let s := if d.dqbot = d.dqtop then s else s.see (dequeKey u v d.dqtop.toNat) 48
        let ws := dequeRead s u v d.dqtop.toNat
        if d.dqbot ≠ d.dqtop ∧ recCtx ws = e.ctx then
          .next (setSteal (s.modCore u v fun d => { d with dqtop := d.dqtop + 1 }) u c s.arg.index (some { e with ans := some (some ws) }))
        else .next (setSteal s u c s.arg.index (some { e with ans := some none }))

/-- Whether a slot waits for a steal. -/
def stealAwaited (s : State) (unit core : Nat) (e : Steal) : Bool :=
  match (s.slot ⟨unit, core, e.slot⟩).wait with
  | some (.answer id _) => id == e.id
  | _ => false

/-- Push a stolen record into the entry that its thief has reserved: the record, and the reservation used up (R246). -/
def pushStolen (s : State) (unit core : Nat) (ws : List Word) : State :=
  (s.putWs (dequeKey unit core (s.core unit core).dqbot.toNat) ws).modCore unit core fun d => { d with dqRsv := d.dqRsv - 1 }

/-- Give a slot the outcome of its steal. -/
def stealGiven (s : State) (unit core : Nat) (e : Steal) (r : Option (List Word)) : State :=
  s.modSlot ⟨unit, core, e.slot⟩ fun x => { x.wake with resp := .stolen r :: x.resp }

/-- STEAL_ANSWER (R246): the answer of steal `arg.index` reaches the thief: a record is pushed into the reserved entry, from which the waiting `dq.pop` pops it at
once, or where it stays when that has been pre-empted; after an empty answer the next victim is asked, or the reservation is released. -/
def execStealAnswer (s : State) : Host.Outcome State Fault Refusal :=
  let u := s.arg.unit
  let c := s.arg.core
  match (s.core u c).steals[s.arg.index]? with
  | none => .next s
  | some e =>
    let t := setSteal s u c s.arg.index none
    let free := fun (t : State) => t.modCore u c fun d => { d with dqRsv := d.dqRsv - 1 }
    match e.ans, stealAwaited s u c e with
    | none, _ => .next s
    | some (some ws), true => .next (stealGiven (pushStolen t u c ws) u c e (some ws))
    | some (some ws), false => .next ((pushStolen t u c ws).modCore u c fun d => { d with dqbot := d.dqbot + 1 })
    | some none, true =>
      (match nextVictim s ⟨u, c, 0⟩ (e.j + 1) with
       | some j => .next (setSteal s u c s.arg.index (some { e with j := j, ans := none }))
       | none => .next (free (stealGiven t u c e none)))
    | some none, false => .next (free t)

/-! ### Placement (R239 to R243) -/

def recNk (ws : List Word) : Nat := (ws.getD 0 0).toNat % 16
def recPrio (ws : List Word) : Nat := bits (ws.getD 0 0).toNat 5 4
def recTag (ws : List Word) : BitVec 32 := BitVec.ofNat 32 ((ws.getD 0 0).toNat / 2 ^ 32)
def recNthr (ws : List Word) (k : Nat) : Nat := (ws.getD (9 + 2 * k) 0).toNat % 8
def recHeavy (ws : List Word) (k : Nat) : Bool := (ws.getD (9 + 2 * k) 0).getLsbD 3
def recMask (ws : List Word) (n : Nat) : Bool := if n < 64 then (ws.getD 2 0).getLsbD n else (ws.getD 3 0).getLsbD (n - 64)

/-- Kernel `k`'s core and slots, after the claims of the kernels before it (R241). -/
def fitKernel (s : State) (bed : Nat) (ws : List Word) (avail : Place → Bool) (got : List (Nat × List Nat)) (k : Nat) : Option (Nat × List Nat) :=
  let ks := if recHeavy ws k then [0, 1, 2, 3] else [4, 5, 6, 7]
  let free := fun (c : Nat) => ks.filter fun j => avail ⟨bed, c, j⟩ && !(got.any fun g => g.1 == c && g.2.contains j)
  ((List.range 128).find? fun c => recMask ws c && !serviceHeld s bed c && decide (recNthr ws k ≤ (free c).length)).map
    fun c => (c, (free c).take (recNthr ws k))

/-- `Fit` of R241. -/
def fitGang (s : State) (bed : Nat) (ws : List Word) (avail : Place → Bool) : Option (List (Nat × List Nat)) :=
  (List.range (recNk ws)).foldl (fun o k => o.bind fun got => (fitKernel s bed ws avail got k).map fun g => got ++ [g]) (some [])

/-- The head that a step tries first (R241): effective priority descending, then ARRTS ascending, then queue number descending. -/
def firstHead (s : State) (bed : Nat) : Option (Nat × Nat × LaunchRec) :=
  let b := s.bed bed
  let hs := (List.range 4).filterMap fun q => (Tbl.get [] b.lq q).head?.map fun r => (effPrio s.ts b.lqctl q r, q, r)
  let ahead := fun (x y : Nat × Nat × LaunchRec) =>
    decide (y.1 < x.1 ∨ (x.1 = y.1 ∧ (x.2.2.arrts.toNat < y.2.2.arrts.toNat ∨ (x.2.2.arrts = y.2.2.arrts ∧ y.2.1 < x.2.1))))
  hs.foldl (fun o x => match o with
    | none => some x
    | some y => if ahead x y then some x else some y) none

/-- Start kernel `k` of a gang (R242). -/
def startKernel (s : State) (bed : Nat) (ws : List Word) (gmap : Word) (gang : Nat × Nat) (key : Nat) (k : Nat) (c : Nat) (ks : List Nat) : State :=
  let w := fun i => ws.getD i 0
  (List.range ks.length).foldl (fun s t =>
    let s := s.see key 40
    let p : Place := ⟨bed, c, ks.getD t 0⟩
    let g5 := BitVec.ofNat 64 ((w (9 + 2 * k)).toNat / 2 ^ 32 * 2 ^ 32 ||| k * 2 ^ 8 ||| t)
    let th := { Thread.zero with g := startRegs (s.core bed c).spret (w 1) g5 gmap s.ts, pc := w (8 + 2 * k), ctx := gangCtx ws, tvec := s.peekW (key + 32) &&& ~~~3 }
    startThread s p th (vecOf 4 fun i => s.peekW (key + 8 * i)) (recPrio ws) (some gang)) s

/-- Start a gang whose claims are settled (R242, R244): its number, its end, and every thread. -/
def startGang (s : State) (bed : Nat) (ws : List Word) (key : Nat) (plan : List (Nat × List Nat)) : State :=
  let w0 := (ws.getD 0 0).toNat
  let id := s.free
  let gmap := BitVec.ofNat 64 (ofBytes ((List.range 8).map fun k => match plan[k]? with
    | some g => BitVec.ofNat 8 g.1
    | none => 0xFF))
  let g : Gang := { alive := (plan.map fun g => g.2.length).foldl (· + ·) 0,
                    cbar := if w0.testBit 31 then some ((ws.getD 4 0).toNat % 128, bits w0 30 20) else none,
                    evt := w0.testBit 7, tag := recTag ws, ctx := gangCtx ws }
  let s := (s.modBed bed fun b => { b with gangs := Tbl.set b.gangs id g }).tick
  (List.range plan.length).foldl (fun s k => match plan[k]? with
    | some (c, ks) => startKernel s bed ws gmap (bed, id) key k c ks
    | none => s) s

/-- The place of a bed's context record, while its entry is valid (R236). -/
def recordKey (s : State) (bed : Nat) (ctx : BitVec 12) : Option Nat :=
  let e := Tbl.get 0 (s.bed bed).ctxTab ctx.toNat
  match decodeLa bed 0 (e.toNat % 2 ^ 52) with
  | .vault b v off => if e.getLsbD 63 then some (vaultKey b v off) else none
  | _ => none

/-- Change the head record of a queue. -/
def modHead (s : State) (bed q : Nat) (f : LaunchRec → LaunchRec) : State :=
  s.modBed bed fun b => { b with lq := Tbl.set b.lq q (match Tbl.get [] b.lq q with
    | r :: rest => f r :: rest
    | [] => []) }

/-- Displace threads of lower gang priority for a head with PRE (R243); no victims are asked for while earlier ones are not yet FREE. -/
def displace (s : State) (bed q : Nat) (r : LaunchRec) : State :=
  let lower := fun (p : Place) => let x := s.slot p; x.st == .free || ((x.st == .run || x.st == .wait) && decide (x.gangPrio < recPrio r.words))
  if r.victims.any fun k => (Tbl.get Slot.empty s.slots k).st != .free then s
  else
    match fitGang s bed r.words lower with
    | none => s
    | some plan =>
      let vs := plan.flatMap fun g => (g.2.map fun j => (⟨bed, g.1, j⟩ : Place)).filter fun p => (s.slot p).st != .free
      let s := vs.foldl (fun t p => (preemptRequest t p).raise bed p.core p.slot 8 (t.slot p).th.ctx.toNat (BitVec.ofNat 64 p.slot) ((recTag r.words).zeroExtend 64)) s
      modHead s bed q fun r => { r with victims := vs.map slotKey }

/-- `PlaceStep` of R241: the first head in order is started and the step repeats, or it is marked and may displace. -/
def placeStep (bed : Nat) : Nat → State → State
  | 0, s => s
  | f + 1, s =>
    match firstHead s bed with
    | none => s
    | some (_, q, r) =>
      let avail := fun (p : Place) => (s.slot p).st == .free
      match (recordKey s bed (gangCtx r.words)).bind fun key => (fitGang s bed r.words avail).map fun pl => (key, pl) with
      | some (key, plan) =>
        let s := s.modBed bed fun b => { b with lq := Tbl.set b.lq q (Tbl.get [] b.lq q).tail }
        placeStep bed f (startGang s bed r.words key plan)
      | none =>
        let s := modHead s bed q fun r => { r with blk := true }
        if (r.words.getD 0 0).getLsbD 6 then displace s bed q r else s

/-- PLACEMENT_STEP (R241): the placer of bed `arg.unit` runs a step that is due, since a record has entered a queue, a slot has become FREE or HOLD has been
cleared, unless the bed is in reset (R476); what waits for room in a launch queue looks again. -/
def execPlacementStep (s : State) : Host.Outcome State Fault Refusal :=
  let bed := s.arg.unit
  if 12 ≤ bed ∨ (s.bed bed).placing = false ∨ (s.bed bed).rst.state ≠ 0 then .next s
  else
    let s := s.modBed bed fun b => { b with placing := false }
    if (s.bed bed).lqctl.getLsbD 16 then .next s else .next (wakeIf (placeStep bed 65 s) fun _ w => w == .queue)

/-! ### Contexts (R237, R238) -/

/-- Whether the thread of a slot that waits for a migration's answer stands in an image on its way or landed. -/
def imageAlive (s : State) (p : Place) : Bool :=
  let x := s.slot p
  x.wait == some .migrate &&
  (s.pkts.any (fun q => !q.resp && q.kind == 3 && q.place == p) || (queuedImage s x.name).isSome ||
   s.slots.any fun e => e.1 != slotKey p && e.2.name == x.name && (e.2.st == .run || e.2.st == .wait))

/-- Records of a context leave a deque, and those that a steal has brought are taken as not found, the others closing up towards its top (R238; the direction is the model's, assumption 18). -/
def killDeque (s : State) (unit core : Nat) (c : BitVec 12) : State :=
  let s := s.modCore unit core fun d => { d with steals := d.steals.map fun e => match e.ans with
    | some (some ws) => if recCtx ws = c then { e with ans := some none } else e
    | _ => e }
  let d := s.core unit core
  let n := (d.dqbot - d.dqtop).toNat
  let keep := ((List.range n).map fun i => dequeRead s unit core (d.dqtop.toNat + i)).filter fun ws => recCtx ws != c
  if keep.length = n then s
  else
    let s := (List.range keep.length).foldl (fun t i => t.putWs (dequeKey unit core (d.dqtop.toNat + i)) (keep.getD i [])) s
    s.modCore unit core fun d => { d with dqbot := d.dqtop + BitVec.ofNat 32 keep.length }

/-- The plots of a context on a core become invalid (R232, R238). -/
def killPlots (s : State) (unit core : Nat) (c : BitVec 12) : State :=
  (List.range 64).foldl (fun t e =>
    let k := coreKey unit core (plotOff unit + 16 * e)
    let t := t.see k 8
    let w := t.peekW k
    if w.getLsbD 43 ∧ bits w.toNat 55 44 = c.toNat then t.putWs k [setBits w 43 43 0] else t) s

/-- A killed slot (R238, R244): its thread ends, unless it is the copy a landed thread leaves behind. -/
def killSlot (s : State) (p : Place) : State :=
  let x := s.slot p
  let alive := x.st != .away && x.st != .lost && !(imageAlive s p)
  let n := ((s.coreAt p).steals.filter fun e => e.slot == p.slot && stealAwaited s p.unit p.core e).length
  let s := s.modCoreAt p fun d =>
    { d with dqRsv := d.dqRsv - n, steals := d.steals.filter fun e => !(e.slot == p.slot && stealAwaited s p.unit p.core e) }
  let s := freeSlot (stopStream (withdrawMatrix s p) p) p
  if alive then gangEnded s x.gang else s

/-- KILL of a context at one core (R238). -/
def killCore (s : State) (unit core : Nat) (c : BitVec 12) : State :=
  let s := (List.range 8).foldl (fun t k =>
    let p : Place := ⟨unit, core, k⟩
    if (t.slot p).st != .free ∧ (t.slot p).th.ctx = c then killSlot t p else t) s
  let s := killPlots (killDeque s unit core c) unit core c
  if (s.core unit core).mx.own = some c then dropMatrix s unit core else s

/-- The context of a packet that carries a thread, or a record of one. -/
def carriedCtx (q : Pkt) : Option (BitVec 12) :=
  match q.body with
  | .image _ _ _ _ _ _ _ _ => some (imageCtx q)
  | .spawn r => some r.ctx
  | .record ws => some (gangCtx ws)
  | _ => none

/-- KILL of a context at one unit (R238): its slots, landing queues, launch records, deques, matrix units and plots. -/
def killUnit (s : State) (unit : Nat) (c : BitVec 12) : State :=
  let s := (List.range (coresOf unit)).foldl (fun t k => killCore t unit k c) s
  let mine := fun (q : Pkt) => imageCtx q == c
  let gone := if unit < 12 then ((s.bed unit).landing.flatMap fun e => e.2).filter mine else (s.rim (unit - 16)).landing.filter mine
  let s := if unit < 12 then
      s.modBed unit fun b =>
        { b with landing := Tbl.mapV (fun l => l.filter fun q => !(mine q)) b.landing,
                 lq := Tbl.mapV (fun l => l.filter fun (r : LaunchRec) => gangCtx r.words != c) b.lq }
    else s.modRim (unit - 16) fun r => { r with landing := r.landing.filter fun q => !(mine q) }
  let s := { s with retries := s.retries.filter fun r => !(carriedCtx r.pkt == some c && r.pkt.place.unit == unit) }
  gone.foldl (fun t q => gangEnded t (imageGang q)) s

/-- The units a KILL reaches: beds and rim dies; a CREATE reaches the link dies too (R237, R238). -/
def killUnits : List Nat := List.range 12 ++ (List.range 6).map (· + 16)
def createUnits : List Nat := killUnits ++ [24, 25]

/-- CTX_KILL (R238): the KILL that bed `arg.unit` has started is carried out at unit `arg.aux`. -/
def execCtxKill (s : State) : Host.Outcome State Fault Refusal :=
  let b := s.bed s.arg.unit
  let u := s.arg.aux
  if b.opBusy ≠ some 1 ∨ killUnits.contains u = false ∨ b.opUnits.contains u then .next s
  else .next (wakeIf (killUnit (s.modBed s.arg.unit fun b => { b with opUnits := u :: b.opUnits }) u b.opCtx) fun _ w => w == .queue)

/-- FROZEN becomes 0 in the freeze images that a bed's context record names (R237). -/
def unfreeze (s : State) (bed : Nat) (c : BitVec 12) : State :=
  (List.range 128).foldl (fun t k =>
    let t := t.seeImage bed k c
    match t.imageKey bed k c with
    | some key => let t := t.see (key + 8) 8; let w := t.peekW (key + 8); if w.getLsbD 8 then t.putWs (key + 8) [setBits w 8 8 0] else t
    | none => t) s

/-- A CREATE at one unit: refusals left by a quench end at its engines, at a link die's gateways and at the ranker (R124, R237). -/
def createUnit (s : State) (u : Nat) (c : BitVec 12) : State :=
  let me := (s.moduleNo.toNat, c.toNat)
  let one := fun (e : Engine) => { e with refuse := e.refuse.filter (· != me) }
  if u < 12 then unfreeze (s.modBed u fun b => { b with engines := Tbl.mapV one b.engines, graft := one b.graft }) u c
  else if u < 24 then s.modRim (u - 16) fun r => { r with engines := Tbl.mapV one r.engines, encs := Tbl.mapV one r.encs }
  else if u = 24 then { s with gateRefuse := s.gateRefuse.filter (· != me) }
  else { s with ranker := { s.ranker with refuse := s.ranker.refuse.filter (· != me) } }

/-- CTX_CREATE (R237): the CREATE that bed `arg.unit` has started is carried out at unit `arg.aux`. -/
def execCtxCreate (s : State) : Host.Outcome State Fault Refusal :=
  let b := s.bed s.arg.unit
  let u := s.arg.aux
  if b.opBusy ≠ some 2 ∨ createUnits.contains u = false ∨ b.opUnits.contains u then .next s
  else .next (createUnit (s.modBed s.arg.unit fun b => { b with opUnits := u :: b.opUnits }) u b.opCtx)

/-- Whether the stores of killed threads have been performed and nothing that carries one is on its way (R238). -/
def killDrained (s : State) (c : BitVec 12) : Bool :=
  s.cores.all (fun k => k.2.sbuf.all fun e => e.ctx != c) && s.pkts.all fun q => q.resp || carriedCtx q != some c

/-- CTX_OP_COMPLETE (R237, R238): every unit has reported the operation of bed `arg.unit`, and DONE is set.  A KILL raises CTX then, which the table of R262
gives to R238 too; its outcome code is free (assumption 21). -/
def execCtxOpComplete (s : State) : Host.Outcome State Fault Refusal :=
  let b := s.bed s.arg.unit
  let t := s.modBed s.arg.unit fun b => { b with opBusy := none, opDone := true, opUnits := [] }
  match b.opBusy with
  | some 1 =>
    if killUnits.all (fun u => b.opUnits.contains u) ∧ killDrained s b.opCtx then
      .next (t.raise s.arg.unit 0 0 0xD b.opCtx.toNat 1 (Config.freeWord s.free)).tick
    else .next s
  | some _ => .next (if createUnits.all fun u => b.opUnits.contains u then t else s)
  | none => .next s

end Sys2Proof.Machine
end

