-- ==== Sys2Proof/Machine/HostPort.lean ====
section
/-! DEFINITION. The Lantern port and the management plane: start-up, firmware and bring-up (R469 to R471), features (R472), attestation (R473), launch submissions
(R466), the host event ring (R263, R467, R468), and the control node's reads and writes (R464, R465). -/

namespace Sys2Proof.Machine

/-- Change the management plane's state. -/
def State.modBoot (s : State) (f : Boot → Boot) : State := { s with boot := f s.boot }

/-- What the control node is sent: 0 an attestation report, 1 a launch submission's code, 2 and 3 the outcome of a write and of a read of module memory (one byte
0 for done, then what was read; or one byte 1 for RANGE), 4 a restored checkpoint's STAMP, 5 the identity key's public part. -/
def State.tell (s : State) (kind : Nat) (bs : List Byte) : State := s.modBoot fun b => { b with answers := b.answers ++ [(kind, bs)] }

/-! ### Start-up and firmware (R469 to R471) -/

/-- START_UP (R470): the module starts with no stored firmware, and the boot ROM waits for an image. -/
def execStartUp (s : State) : Host.Outcome State Fault Refusal :=
  .next (if s.boot.started then s else s.modBoot fun b => { b with started := true, state := 0, cause := 0, image := [] })

/-- The fields of a firmware image (R469). -/
def imageNat (img : List Byte) (o n : Nat) : Nat := ofBytes ((img.drop o).take n)
def imageLen (img : List Byte) : Nat := imageNat img 4 4
def imageKeyBytes (img : List Byte) : List Byte := (img.drop 64).take 1952
def imageSig (img : List Byte) : List Byte := (img.drop 2016).take 3309

/-- The signed message: the 64-byte SHAKE256 digest of the header and the body (R469). -/
def imageMessage (img : List Byte) : List Byte := Config.shake256 (img.take 64 ++ (img.drop 5376).take (imageLen img)) 64

/-- The number of the first check of R470 that an image fails. -/
def firmwareRefused (img : List Byte) : Option Nat :=
  if imageNat img 0 2 ≠ 0x5A4A ∨ 2 ^ 26 - 5376 < imageLen img then some 1
  else if imageNat img 8 1 ≠ Config.impl then some 2
  else if Config.keyDigests.contains (Config.shake256 (imageKeyBytes img) 32, true) = false then some 3
  else if Config.mldsaVerify (imageKeyBytes img) (imageMessage img) (imageSig img) = false then some 4
  else none

/-- FIRMWARE_IMAGE (R470): while the ROM waits, the image `arg.bytes` arrives in staging; while it verifies, its checks end: the image runs, or is discarded with
the number of the failed check. -/
def execFirmwareImage (s : State) : Host.Outcome State Fault Refusal :=
  let b := s.boot
  if b.started = false ∨ b.state = 2 then .next s
  else if b.state ≠ 1 then .next (s.modBoot fun b => { b with state := 1, cause := 0, image := s.arg.bytes })
  else
    match firmwareRefused b.image with
    | some n => .next (s.modBoot fun b => { b with state := 3, cause := n, image := [] })
    | none => .next (s.modBoot fun b => { b with state := 2, cause := 0, fwDigest := imageMessage b.image })

/-- Write a region table on every rim die, entry by entry, and the region caches (R179, R181); a write that breaks R179 is refused and reported (R22). -/
def writeRegions (s : State) (l : List (Word × Word)) : State :=
  let one := fun (t : State) (k n : Nat) (e : Word × Word) =>
    let t := regionStore t k n false e.1
    if regionBad (t.rim k) n (regionNext t k n e.2) then t.refuse else regionStore t k n true e.2
  (List.range (min 64 l.length)).foldl (fun t n =>
    let t := (List.range 6).foldl (fun t k => one t k n (l.getD n (0, 0))) t
    (List.range 12 ++ [24, 25]).foldl (fun t u => t.refreshRegion u 0 n) t) s

/-- Write the Trellis map at HBM offset 0 and in vault 0 of every bed (R97); its path is CE. -/
def writeTrellis (s : State) (bs : List Byte) : State :=
  let m := bs.take 0x800000
  (List.range 12).foldl (fun t b => t.put .ce (vaultKey b 0 0) m) (writeAt s 24 .ce (.hbm 0) m)

/-- FIRMWARE_BRINGUP (R471): steps 1 to 6, with what the control node supplies in `arg.setup`. -/
def execFirmwareBringup (s : State) : Host.Outcome State Fault Refusal :=
  match s.arg.setup with
  | none => .next s
  | some u =>
    if s.boot.state ≠ 2 ∨ s.boot.broughtUp ∨ s.boot.ctxMade ∨ u.ts < s.ts then .next s
    else
      let s := { s.modBoot fun b => { b with bootts := u.ts, broughtUp := true } with ts := u.ts, moduleNo := u.moduleNo }
      let s := u.links.foldl (fun t k => if k.die < 2 ∧ k.link < 12 then spireTrainOp t k.die k.link else t) s
      .next (writeTrellis (turnmaskWrite (writeRegions s u.regions) u.turnmask) u.trellis)

/-- FEATACC_WRITE (R5, R471, R472): the one accepted write of the accepted subset, the last step of bring-up, copied into the feature register; a later one is
reported. -/
def execFeataccWrite (s : State) : Host.Outcome State Fault Refusal :=
  let v : BitVec 256 := (s.arg.wide.truncate 256 &&& Config.featOff) ||| 1
  if s.boot.state ≠ 2 ∨ s.boot.broughtUp = false then .next s
  else if s.boot.featWritten ∨ s.boot.ctxMade then .next s.refuse
  else .next { s.modBoot fun b => { b with featAcc := v, featWritten := true } with feat := v }

/-- Bed resets since start-up, summed over all beds (R473). -/
def State.resetCount (s : State) : Nat := ((List.range 12).map fun b => (s.bed b).rst.count.toNat).foldl (· + ·) 0

/-- The report of R473 for a nonce. -/
def attestReport (s : State) (nonce : List Byte) : List Byte :=
  (nonce ++ List.replicate 32 0).take 32 ++ (s.boot.fwDigest ++ List.replicate 64 0).take 64 ++ bytesOf 32 s.boot.featAcc.toNat ++
  bytesOf 2 s.moduleNo.toNat ++ [BitVec.ofNat 8 Config.impl] ++ List.replicate 5 0 ++ bytesOf 8 s.boot.bootts.toNat ++ bytesOf 8 s.ts.toNat ++
  bytesOf 8 s.resetCount

/-- ATTESTATION_REQUEST (R473): the report for the nonce `arg.bytes`, and its hedged signature; with `arg.flag` the control node reads the public part of the
identity key. -/
def execAttestationRequest (s : State) : Host.Outcome State Fault Refusal :=
  if s.boot.state ≠ 2 then .next s
  else if s.arg.flag then .next (s.tell 5 Config.identityKey)
  else
    let r := attestReport s s.arg.bytes
    .next ((s.tell 0 (r ++ bytesOf 3309 (Config.mldsaSign s.free (Config.shake256 r 64)).toNat)).tick)

/-! ### Launch submissions (R466) -/

/-- The code that answers a submission of a record to a bed; a bed in reset, which this model empties as its reset starts, answers RESETTING to every record that is
valid in itself (R466, R476; DEDUCED, assumption 173). -/
def submitCode (s : State) (bed : Nat) (ws : List Word) : Nat :=
  let pr := bits (ws.getD 0 0).toNat 5 4
  if 12 ≤ bed then 1
  else if gangBad ws ∨ (ws.getD 2 0 = 0 ∧ ws.getD 3 0 = 0) then 1
  else if (s.bed bed).rst.state ≠ 0 then 3
  else if (Tbl.get 0 (s.bed bed).ctxTab (gangCtx ws).toNat).getLsbD 63 = false then 1
  else if 16 ≤ (Tbl.get [] (s.bed bed).lq pr).length then 2
  else 0

/-- LAUNCH_SUBMISSION (R466): the record `arg.words` for the bed of bits 3:0 of the header `arg.v` is queued, or refused. -/
def execLaunchSubmission (s : State) : Host.Outcome State Fault Refusal :=
  let bed := s.arg.v.toNat % 16
  let ws := s.arg.words
  let c := submitCode s bed ws
  let pr := bits (ws.getD 0 0).toNat 5 4
  let s := if c = 0 then
      s.modBed bed fun d => { d with placing := true, lq := Tbl.set d.lq pr (Tbl.get [] d.lq pr ++ [{ words := ws, arrts := s.ts, blk := false, victims := [] }]) }
    else s
  .next (s.tell 1 [BitVec.ofNat 8 c])

/-! ### The host event ring (R263, R467, R468) -/

/-- EVRB_WRITE (R467, R468): `arg.v` is stored to EVRB, or ignored whole. -/
def execEvrbWrite (s : State) : Host.Outcome State Fault Refusal :=
  let v := s.arg.v
  let log := bits v.toNat 55 51
  if log < 6 ∨ 20 < log ∨ (s.evrb.getLsbD 56 ∧ v.getLsbD 56) then .next s else .next { s with evrb := v &&& 0x1FFFFFFFFFFFFFF }

/-- The 32 bytes of a record (R261). -/
def EvRec.bytes (e : EvRec) : List Byte :=
  bytesOf 8 e.stamp.toNat ++
  bytesOf 8 (pack [(0, e.src), (24, e.slot), (27, b2n e.fatal), (28, e.ty), (36, e.ctx)]).toNat ++ bytesOf 8 e.d0.toNat ++ bytesOf 8 e.d1.toNat

/-- The link dies' events that wait enter the queue while it has room (R263). -/
def admitLinkHeld (s : State) : State :=
  match nextHeld (fun _ => queueRoom s.evq) [] s.linkHeld with
  | none => s
  | some (e, rest) => { s with evq := s.evq ++ [e], linkHeld := rest, linkOwed := s.linkOwed ++ [e] }

/-- EVENT_DELIVERY (R468): the oldest record of the queue is written to the host ring, PROD advances, and the producer word is written. -/
def execEventDelivery (s : State) : Host.Outcome State Fault Refusal :=
  match s.evq with
  | [] => .next s
  | e :: rest =>
    let log := bits s.evrb.toNat 55 51
    if s.evrb.getLsbD 56 = false ∨ (s.evprod - s.evcons).toNat = 2 ^ log then .next s
    else
      let s := s.put .hp (hostKey (s.evrb.toNat % 2 ^ 51 + 32 * (s.evprod.toNat % 2 ^ log))) e.bytes
      let s := { s with evq := rest, evprod := s.evprod + 1 }
      .next (admitLinkHeld (s.put .hp (hostKey (s.evpw.toNat % 2 ^ 51)) (bytesOf 8 s.evprod.toNat)))

/-- EVENT_DRAIN (R263): the staging buffer of unit `arg.unit` passes its oldest record to the link die 0 queue, and what waits for an entry there goes on. -/
def execEventDrain (s : State) : Host.Outcome State Fault Refusal :=
  let u := s.arg.unit
  if 24 ≤ u then .next (wakeIf (admitLinkHeld s) fun _ w => w == .event)
  else if coresOf u = 0 then .next s
  else
    match (s.stage u).recs with
    | [] => .next s
    | e :: rest =>
      if queueRoom s.evq then
        .next (wakeIf ({ s with evq := s.evq ++ [e] }.setStage u { (s.stage u) with recs := rest }.letIn) fun _ w => w == .event)
      else .next s

/-! ### The control node's accesses (R464, R465) -/

/-- Whether the control node may reach `n` bytes at a range: vaults, HBM, and the RAW windows below the system area (R465). -/
def hpReach (r : Rng) (n : Nat) : Bool :=
  match r with
  | .vault _ _ off => decide (off + n ≤ 2 ^ 26)
  | .hbm off => decide (off + n ≤ 3 * 2 ^ 38)
  | .core u _ w off => w == 0 && decide (off + n ≤ sysOff u)
  | _ => false

/-- The bed that homes a range, if one does. -/
def Rng.bed? : Rng → Option Nat
  | .core u _ _ _ => if u < 12 then some u else none
  | .vault b _ _ => some b
  | _ => none

/-- Whether an access is refused with RANGE before it is placed (R465, R477). -/
def hpRefused (s : State) (r : Rng) (n : Nat) : Bool :=
  n == 0 || !(hpReach r n) ||
  (match r.bed? with
   | some b => (s.bed b).rst.state != 0
   | none => false)

/-- How link die 0 places an access to HBM (R465): nothing to do, done by placing here, refused for MODE 3, or it must wait, with its cache refreshed where
REHOME was answered. -/
inductive HpPlace where
  | go
  | range
  | wait (s : State)
deriving DecidableEq, Repr

/-- Place an access through the region cache of link die 0 (R181, R465). -/
def hpPlace (s : State) (r : Rng) (write : Bool) : HpPlace :=
  match r with
  | .hbm off =>
    let n := off / regionSize
    let e := s.regionFor 24 n
    if e.mode = 3 then .range
    else
      let die := (placeHbm e (off % regionSize)).1 / 2
      let own := s.rimRegion die n
      if own.stamp ≠ e.stamp then .wait (s.refreshRegion 24 die n)
      else if write ∧ own.wfz then .wait (s.refreshRegion 24 die n)
      else if own.mode = 3 then .range
      else .go
  | _ => .go

/-- Place an access of `n` bytes: HBM region by region, each of which must take it (R180, R181). -/
def hpPlaceAll (s : State) (r : Rng) (n : Nat) (write : Bool) : HpPlace :=
  match r with
  | .hbm off =>
    (List.range ((off + n - 1) / regionSize - off / regionSize + 1)).foldl (fun a i =>
      match a with
      | .go => hpPlace s (.hbm ((off / regionSize + i) * regionSize + (if i = 0 then off % regionSize else 0))) write
      | a => a) .go
  | _ => .go

/-- Serve one access of the control node, unless it must wait: a write on path HP, after the decodes and operand fetches in progress where it meets a table (R55), or
a read (R465, R477).  No rule says what a read of a bad word is answered (R63): its bytes are free. -/
def hpOne (s : State) (q : HpReq) : State × Bool :=
  let r := decodeOutside q.addr
  let kind := if q.write then 2 else 3
  if hpRefused s r q.n then (s.tell kind [1], true)
  else
    match hpPlaceAll s r q.n q.write with
    | .range => (s.tell kind [1], true)
    | .wait t => (t, false)
    | .go =>
      let a := BitVec.ofNat 64 q.addr
      let ps := blockPieces (q.n / 64 + 2) a q.n
      if q.write then
        (if tableHeld s r q.n then (s, false)
         else ((ps.foldl (fun t p => writeAt t 24 .hp (r.add (p.1 - a).toNat) ((q.bytes.drop (p.1 - a).toNat).take p.2)) s).tell 2 [0], true))
      else
        match ps.foldl (fun (acc : State × Option (List Byte)) p =>
          let (t, got) := readAt acc.1 24 .hp (r.add (p.1 - a).toNat) p.2
          (t, acc.2.bind fun bs => got.map fun g => bs ++ g)) (s, some []) with
        | (t, some bs) => (t.tell 3 (0 :: bs), true)
        | (t, none) => ((t.tell 3 (0 :: (List.range q.n).map fun i => (Config.freeAt t.free i).truncate 8)).tick, true)

/-- Serve the accesses of the control node in the order received, until one must wait, or `n` of them (R209, R465). -/
def hpServe : Nat → State → State
  | 0, s => s
  | n + 1, s =>
    match s.hpq with
    | [] => s
    | q :: rest =>
      match hpOne s q with
      | (t, true) => hpServe n { t with hpq := rest }
      | (t, false) => t

/-- An access of the control node arrives, but for `arg.flag`, and the accesses that wait are served; with `arg.flag2` none is yet. -/
def hpEvent (s : State) (q : HpReq) : State :=
  let s := if s.arg.flag then s else { s with hpq := s.hpq ++ [q] }
  if s.arg.flag2 then s else hpServe s.hpq.length s

/-- HP_WRITE (R209, R465, R477): the control node writes `arg.bytes` at module-local address `arg.index`. -/
def execHpWrite (s : State) : Host.Outcome State Fault Refusal :=
  .next (hpEvent s { write := true, addr := s.arg.index, n := s.arg.bytes.length, bytes := s.arg.bytes })

/-- HP_READ (R465): the control node reads `arg.aux` bytes at module-local address `arg.index`. -/
def execHpRead (s : State) : Host.Outcome State Fault Refusal :=
  .next (hpEvent s { write := false, addr := s.arg.index, n := s.arg.aux, bytes := [] })

/-- HOST_ACCESS_TIMEOUT (R464): host-window load or atomic `arg.index` has not been answered within 1 ms: the port answers it with a LINKDOWN NACK. -/
def execHostAccessTimeout (s : State) : Host.Outcome State Fault Refusal :=
  serving s fun s i q =>
    match q.loc, q.rng, q.body with
    | .atLink 0, .host _, .load _ _ => nackPkt s i q 2
    | .atLink 0, .host _, .rmw _ => nackPkt s i q 2
    | _, _, _ => s

end Sys2Proof.Machine
end

