-- ==== Sys2Proof/Machine/Matrix.lean ====
section
/-! DEFINITION. The matrix instructions (chapter 15): ring configuration, pushes and pops, products and their fetch, accumulator moves, capabilities,
remote commands as they are sent, status and images. -/

namespace Sys2Proof.Machine

/-! ### What every matrix word shares (R256, R367, R388) -/

/-- The unit of the executing core. -/
def State.mx (s : State) : Matrix := (s.coreAt s.cur.place).mx

/-- Change the unit of the executing core. -/
def State.modMx (s : State) (f : Matrix → Matrix) : State := s.modCoreAt s.cur.place fun c => { c with mx := f c.mx }

/-- A matrix word: refused in a timed block (R388), then it takes the unit or waits for it (R256). -/
def unitWord (i : Instr) (s : State) (inBlock : Bool) (f : State → Res) : Host.Outcome State Fault Refusal :=
  word i s fun s =>
    if s.here.blk.isSome && !inBlock then .trap s (s.blockTrap 0 s.wordPc)
    else
      match takeUnit s s.cur.place with
      | .ok s => f s
      | .load s => .wait s .again false
      | .held => s.waitFor .matrix true
      | .bad t => if saveHeld s s.cur.place then .wait s .drain false else .gone (parkImage t s.cur.place)

/-- Whether the word in execution is the pair's second word. -/
def State.aHalf (s : State) : Bool := decide (s.cur.half = .a)

/-- What the unit has answered to the word in execution. -/
def unitAnswer (s : State) : Option (Option (Nat × Nat × Word)) :=
  s.here.resp.findSome? fun
    | .matrix h e => if h = s.aHalf then some e else none
    | _ => none

/-- Accepted local operations and the fetches that will become one (R367). -/
def Matrix.local' (m : Matrix) : Nat := (m.ops.filter fun o => o.remote.isNone).length + (m.fetches.filter fun f => f.remote.isNone).length

/-- A local operation that would be a fifth waits (R367). -/
def roomy (s : State) (f : State → Res) : Res := if 4 ≤ s.mx.local' then .wait s .matrix true else f s

/-- Accept an operation at the end of the unit's order. -/
def Matrix.accept (m : Matrix) (act : MAct) (claims : List (Nat × BitVec 32)) (slot : Option (Nat × Bool)) (remote : Option (Pkt × Nat)) : Matrix :=
  { m with ops := m.ops ++ [{ act := act, claims := claims, slot := slot, remote := remote, started := false, gone := 0, num := m.taken }], taken := m.taken + 1 }

/-! ### Operand rings (R370 to R373) -/

/-- The ring a word's g[A] names; bits 63:3 must be zero (R372). -/
def ringWord (s : State) (a : BitVec 5) (f : Nat → Res) : Res :=
  if 8 ≤ (s.opG a).toNat then s.illegal 4 else f (s.opG a).toNat

/-- The refusal of a configuration word (R372). -/
def cfgRefused (v : Word) : Option Nat :=
  let r : Ring := { Ring.empty with cfg := v }
  if r.en = false then none
  else if v.toNat / 2 ^ 45 ≠ 0 ∨ 11 ≤ r.fmt ∨ r.dens = 3 ∨ (r.dens ≠ 0 ∧ 8 ≤ r.fmt) then some 1
  else if r.base % 64 ≠ 0 ∨ r.nslot = 0 ∨ 0xF0000 < r.base + r.nslot * r.tileb then some 2
  else none

/-- Whether an operation names a ring. -/
def MOp.names (o : MOp) (n : Nat) : Bool := o.claims.any fun c => c.1 == n

/-- MRING_CFG (R370, R372); its descriptor error has no block, so `eaddr` is the PC of the word (assumption 8). -/
def execMringCfg (a b : BitVec 5) (s : State) : Host.Outcome State Fault Refusal :=
  unitWord (.mringCfg a b) s false fun s =>
    ringWord s a fun n =>
      match cfgRefused (s.opG b) with
      | some k => blockError s k s.wordPc
      | none =>
        let m := s.mx
        if (m.ring n).claim ≠ (m.ring n).head ∨ m.ops.any (·.names n) then .wait s .matrix true
        else
          let s := s.modMx fun m => m.modRing n fun _ => { Ring.empty with cfg := s.opG b &&& 0x1FFFFFFFFFFF }
          let p := s.cur.place
          .ok (feedRings (wakeMatrix s p.unit p.core) p.unit p.core)

/-- The count word's fields, with what R373 refuses of it whatever the ring. -/
def countBad (v : Word) (pop : Bool) : Bool := decide (bits v.toNat 63 17 ≠ 0 ∨ bits v.toNat 15 13 ≠ 0) || (pop && v.getLsbD 16)

/-- The checks that `ring.put` and `ring.pop` share: count word and an enabled ring (R373). -/
def ringUse (s : State) (a b : BitVec 5) (pop : Bool) (f : Nat → Nat → Res) : Res :=
  ringWord s a fun n =>
    if countBad (s.opG b) pop then s.illegal 4
    else if (s.mx.ring n).en = false then blockError s 1 s.wordPc
    else f n ((s.opG b).toNat % 2 ^ 13)

/-- RING_PUT_RESERVE: `ring.put` with RESV 1 (R373). -/
def execRingPutReserve (d a b : BitVec 5) (s : State) : Host.Outcome State Fault Refusal :=
  unitWord (.ringPutReserve d a b) s false fun s =>
    ringUse s a b false fun n cnt =>
      let r := s.mx.ring n
      if cnt = 0 ∨ r.nslot < cnt then s.illegal 4
      else if r.room < cnt then .wait s .matrix true
      else .ok (s.setG d (r.tail.zeroExtend 64))

/-- Whether every earlier store of the thread has been performed, and performed for path MX (R200, R373, R381). -/
def storesForMx (s : State) : Bool :=
  let p := s.cur.place
  (s.coreAt p).sbuf.all (fun e => e.slot != p.slot) && s.here.ntOut == [] && s.lag.all fun l => !(l.writer == .ls && l.reader == .mx && l.maker == .thread s.here.name.toNat)

/-- RING_PUT_PUBLISH: `ring.put` with RESV 0 (R373). -/
def execRingPutPublish (d a b : BitVec 5) (s : State) : Host.Outcome State Fault Refusal :=
  unitWord (.ringPutPublish d a b) s false fun s =>
    ringUse s a b false fun n cnt =>
      let r := s.mx.ring n
      if r.room < cnt ∨ (r.chv ∧ cnt ≠ 0) then s.illegal 4
      else if storesForMx s = false then .wait s .drain true
      else
        let t := r.tail + BitVec.ofNat 32 cnt
        let s := s.modMx fun m => m.modRing n fun r => { r with tail := t }
        .ok ((wakeMatrix s s.cur.place.unit s.cur.place.core).setG d (t.zeroExtend 64))

/-- RING_POP (R373). -/
def execRingPop (d a b : BitVec 5) (s : State) : Host.Outcome State Fault Refusal :=
  unitWord (.ringPop d a b) s false fun s =>
    ringUse s a b true fun n cnt =>
      let r := s.mx.ring n
      if r.nslot < cnt then s.illegal 4
      else if cnt = 0 then .ok (s.setG d (r.claim.zeroExtend 64))
      else if r.unclaimed < cnt then .wait s .matrix true
      else
        roomy s fun s =>
          let s := s.modMx fun m => (m.claimTiles n cnt).accept .pop [(n, r.claim)] none none
          .ok (s.setG d ((r.claim + BitVec.ofNat 32 cnt).zeroExtend 64))

/-! ### Products (R376 to R378) -/

/-- Whether a form admits its rings' formats (R376). -/
def Prod.admits (p : Prod) (m : Matrix) : Bool :=
  let a := m.ring p.a
  let b := m.ring p.b
  if p.form = 3 then (a.fmt == 8 || a.fmt == 9) && (b.fmt == 8 || b.fmt == 9) && a.dens == 0 && b.dens == 0
  else decide (a.fmt ≤ 7 ∧ b.fmt ≤ 7) && b.dens == 0 && a.dens == p.form && (!p.sparse || ((m.ring p.m).fmt == 10))

/-- The first check of R377 that a product fails. -/
def Prod.refused (p : Prod) (m : Matrix) : Option Nat :=
  if p.rings.any (fun n => !(m.ring n).en) ∨ ¬ p.rings.Nodup then some 1
  else if p.admits m = false then some 2
  else if p.rings.any fun n => decide ((m.ring n).nslot < p.kch) then some 3
  else none

/-- Whether a product decodes through the code table (R55). -/
def Prod.coded (p : Prod) (m : Matrix) : Bool := (m.ring p.a).fmt == 6 || (m.ring p.b).fmt == 6

/-- A slot's fetch under way for the word in execution. -/
def fetching (s : State) : Bool := s.mx.fetches.any fun f => f.slot == s.cur.place.slot && f.half == s.aHalf

/-- Begin a fetch; the slot waits until it has ended (R377, R381). -/
def beginFetch (s : State) (j : MJob) : Res :=
  .wait (s.modMx fun m => { m with fetches := m.fetches ++ [{ slot := s.cur.place.slot, half := s.aHalf, job := j, got := [], remote := none, pair := s.cur.half != .lone, act := none }] })
    .matrix false

/-- The word in execution completes: what it has fetched for a pair is accepted (R284, R377). -/
def acceptFetched (s : State) : State :=
  match s.mx.fetches.find? fun f => f.slot == s.cur.place.slot && f.half == s.aHalf && f.act.isSome with
  | some f =>
    (match f.act with
     | some act => s.modMx fun m => { m with fetches := m.fetches.erase f }.accept act (f.job.claims.map fun (c : Nat × BitVec 32 × Nat) => (c.1, c.2.1)) none none
     | none => s)
  | none => s

/-- A product: its checks, its claims, its fetch; it completes when the fetch has ended and the operation is accepted (R377). -/
def product (i : Instr) (p : Prod) (s : State) : Host.Outcome State Fault Refusal :=
  unitWord i s false fun s =>
    match unitAnswer s with
    | some none => .ok (acceptFetched s)
    | some (some (c, n, addr)) => .trap s (Trap.of c n addr)
    | none =>
      if fetching s then .wait s .matrix false
      else
        match p.refused s.mx with
        | some k => blockError s k s.wordPc
        | none =>
          if p.ready s.mx = false then .wait s .matrix true
          else
            match tablesBusy s s.cur.place (if p.coded s.mx then [255] else []) with
            | some w => .wait s w false
            | none =>
              roomy s fun s =>
                let j := p.job s.mx
                beginFetch (s.modMx p.claimAll) j

/-- MMA (R376 to R378). -/
def execMma (c : BitVec 2) (a b : BitVec 3) (z : BitVec 1) (k : BitVec 3) (s : State) : Host.Outcome State Fault Refusal :=
  product (.mma c a b z k)
    { form := 0, acc := c.toNat, acz := z == 1, a := a.toNat, b := b.toNat, m := 0, kch := k.toNat + 1 } s

/-- MMA_SP (R278, R376 to R378). -/
def execMmaSp (c : BitVec 2) (a b : BitVec 3) (n : BitVec 1) (r : BitVec 3) (z : BitVec 1) (k : BitVec 3) (s : State) :
    Host.Outcome State Fault Refusal :=
  product (.mmaSp c a b n r z k)
    { form := if n = 0 then 1 else 2, acc := c.toNat, acz := z == 1, a := a.toNat, b := b.toNat, m := r.toNat, kch := k.toNat + 1 } s

/-- MMA_MX (R274, R376 to R378). -/
def execMmaMx (c : BitVec 2) (a b : BitVec 3) (z : BitVec 1) (k : BitVec 3) (s : State) : Host.Outcome State Fault Refusal :=
  product (.mmaMx c a b z k)
    { form := 3, acc := c.toNat, acz := z == 1, a := a.toNat, b := b.toNat, m := 0, kch := k.toNat + 1 } s

/-! ### Accumulators (R380, R381) -/

/-- MACC_ZERO (R380). -/
def execMaccZero (c : BitVec 2) (s : State) : Host.Outcome State Fault Refusal :=
  unitWord (.maccZero c) s false fun s =>
    roomy s fun s => .ok (s.modMx fun m => m.accept (.zero c.toNat) [] none none)

/-- MACC_MV (R380). -/
def execMaccMv (c e : BitVec 2) (s : State) : Host.Outcome State Fault Refusal :=
  unitWord (.maccMv c e) s false fun s =>
    roomy s fun s => .ok (s.modMx fun m => m.accept (.move c.toNat e.toNat) [] none none)

/-- Bytes of an element in memory by AFMT (R381). -/
def afmtBytes (f : Nat) : Nat := if f = 0 then 4 else 2

/-- Check the rows of an accumulator move, each as one access of R32; `f` takes their offsets in the core's memory (R381). -/
def checkRows (pitch n : Nat) (kind : Kind) (f : State → List Nat → Res) : Nat → Word → List Nat → State → Res
  | 0, _, offs, s => f s offs
  | k + 1, pa, offs, s =>
    match addressCheck s s.cur.place pa n 16 kind false with
    | .stop r => r
    | .ship s g => shipTo s g pa
    | .ok s a =>
      match a.own, a.rng with
      | true, .core _ _ w off =>
        if w ≤ 1 then checkRows pitch n kind f k (pa + BitVec.ofNat 64 pitch) (offs ++ [off]) s else .trap s (Trap.of 5 0 pa)
      | _, _ => .trap s (Trap.of 5 0 pa)

/-- The descriptor of an accumulator move, or what R381 refuses of it. -/
def rowsWord (s : State) (b : BitVec 5) (f : Nat → Nat → Res) : Res :=
  let v := (s.opG b).toNat
  let fmt := bits v 21 20
  let pitch := v % 2 ^ 20
  if 2 ^ 22 ≤ v ∨ fmt = 3 ∨ pitch % 16 ≠ 0 ∨ pitch < 32 * afmtBytes fmt then s.illegal 4 else f pitch fmt

/-- MACC_LD: it waits for the thread's stores, then its rows are read on path MX (R381). -/
def execMaccLd (c : BitVec 2) (a b : BitVec 5) (s : State) : Host.Outcome State Fault Refusal :=
  unitWord (.maccLd c a b) s false fun s =>
    match unitAnswer s with
    | some none => .ok (acceptFetched s)
    | some (some (c, n, addr)) => .trap s (Trap.of c n addr)
    | none =>
      if fetching s then .wait s .matrix false
      else
        rowsWord s b fun pitch fmt =>
          checkRows pitch (32 * afmtBytes fmt) .matrix (fun s offs =>
            if storesForMx s = false then .wait s .drain true
            else roomy s fun s => beginFetch s (.rows c.toNat offs fmt)) 32 (s.opG a) [] s

/-- Whether the slot's own `macc.st` is in the unit's order. -/
def storing (s : State) : Bool := s.mx.ops.any fun o => o.slot == some (s.cur.place.slot, s.aHalf)

/-- MACC_ST: accepted at issue, and complete when its writes have been performed and performed for LS (R381). -/
def execMaccSt (c : BitVec 2) (a b : BitVec 5) (s : State) : Host.Outcome State Fault Refusal :=
  unitWord (.maccSt c a b) s false fun s =>
    if unitAnswer s = some none then .ok s
    else if storing s then .wait s .matrix true
    else
      rowsWord s b fun pitch fmt =>
        checkRows pitch (32 * afmtBytes fmt) .store (fun s offs =>
          roomy s fun s =>
            .wait (s.modMx fun m => m.accept (.store c.toNat offs fmt) [] (some (s.cur.place.slot, s.aHalf)) none) .matrix true) 32
          (s.opG a) [] s

/-! ### Capabilities and remote commands (R382 to R384) -/

/-- Key of capability entry `n` of a core (R382). -/
def capKey (unit core n : Nat) : Nat := coreKey unit core (0xFCC40 + 32 * n)

/-- MCAP (R383). -/
def execMcap (d a : BitVec 5) (n : BitVec 4) (s : State) : Host.Outcome State Fault Refusal :=
  unitWord (.mcap d a n) s false fun s =>
    let p := s.cur.place
    let v := (s.opG a).toNat
    let k := capKey p.unit p.core n.toNat
    let s := s.see k 16
    if 2 ^ 43 ≤ v then s.illegal 4
    else if v.testBit 42 = false then
      .ok ((s.putWs k [setBits (s.peekW k) 12 12 0]).setG d 0)
    else if s.ts.toNat ≤ (s.peekW (k + 8)).toNat then .wait s .time true
    else
      let w0 := pack [(0, s.ctx.toNat), (12, 1), (13, v % 2 ^ 42)]
      .ok ((s.putWs k [w0, s.ts, 0, 0]).setG d (pack [(0, n.toNat), (4, s.ts.toNat % 2 ^ 60)]))

/-- A legal A word of major 0x30 to 0x33 with P = 0 (R384). -/
def remoteWord (w : BitVec 32) : Option Instr :=
  if wordP w || !wordK w then none
  else
    match decodeWord w with
    | .instr i =>
      (match i with
       | .mma _ _ _ _ _ => some i
       | .mmaSp _ _ _ _ _ _ _ => some i
       | .mmaMx _ _ _ _ _ => some i
       | .maccZero _ => some i
       | .maccMv _ _ => some i
       | _ => none)
    | _ => none

/-- MCMD: any slot sends it; a bad route traps and never parks (R89, R384); for an entry with VALID 0 HOPIX is 0 and REASON 1
(assumption 56). -/
def execMcmd (a : BitVec 5) (s : State) : Host.Outcome State Fault Refusal :=
  word (.mcmd a) s fun s =>
    if s.here.blk.isSome then .trap s (s.blockTrap 0 s.wordPc)
    else
      let pa := s.opG a
      readBlock s pa 32 32 fun s _ bs =>
        let p := s.cur.place
        let w1 := wordAt bs 1
        let w2 := wordAt bs 2
        let unit := bits w2 11 7
        let core := bits w2 6 0
        if w1 / 2 ^ 32 ≠ 0 ∨ w2 / 2 ^ 33 ≠ 0 ∨ wordAt bs 3 ≠ 0 ∨ (remoteWord (BitVec.ofNat 32 w1)).isNone then blockError s 1 pa
        else if 12 ≤ unit then blockError s 2 pa
        else
          let ix := if w2.testBit 24 then 0x700 + bits w2 32 25 else 128 * unit + core
         readingRoutes s [ix] fun s =>
          let e := s.routeEntry p.unit p.core ix
          let str := s.routeString p.unit p.core ix
          match (if e.valid then routeRefused p.rim false str else some 0) with
          | some h => .trap s ⟨15, 0, s.wordPc, BitVec.ofNat 64 (h % 128 + 256), 0⟩
          | none =>
            releasing s fun s =>
              if (s.coreAt p).mailRoom = 0 then .wait s .queue true
              else
                let q := mkPkt s p 0x13 1 (unit * 2 ^ 36 + core * 2 ^ 24)
                  (.mcmd (BitVec.ofNat 32 w1) (BitVec.ofNat 64 (wordAt bs 0)) (if w2.testBit 23 then some (bits w2 22 12) else none))
                let q := { q with info := BitVec.ofNat 64 w1, route := str, lane := e.lane, route0 := str, lane0 := e.lane, entry := none }
                let s := { s with pkts := s.pkts ++ [q] }
                .ok (s.modCoreAt p fun c => { c with mbrsv := c.mbrsv + 1 }).tick

/-! ### Status and images (R386, R387) -/

/-- How many operations the unit had accepted when the slot's `mstat` was first executed. -/
def acceptedBy (rs : List Resp) : Option Nat :=
  rs.findSome? fun
    | .accepted n => some n
    | _ => none

/-- MSTAT: with DRAIN it waits until every operation accepted before it has retired (R386). -/
def execMstat (d a : BitVec 5) (dr : BitVec 1) (s : State) : Host.Outcome State Fault Refusal :=
  unitWord (.mstat d a dr) s (dr == 0) fun s =>
    let n := (acceptedBy s.here.resp).getD s.mx.taken
    if dr = 1 ∧ s.mx.ops.any fun o => decide (o.num < n) then
      .wait (s.modHere fun x => { x with resp := if (acceptedBy x.resp).isSome then x.resp else .accepted n :: x.resp }) .matrix true
    else
      let v := s.mx.status
      let s := if (s.opG a).getLsbD 0 then s.modMx fun m => { m with ovf := false } else s
      .ok (s.setG d v)

/-- Whether two ranges are one range of R17. -/
def oneRange : Rng → Rng → Bool
  | .core u c w _, .core u' c' w' _ => u == u' && c == c' && w == w'
  | .vault b v _, .vault b' v' _ => b == b' && v == v'
  | _, _ => false

/-- Whether `n` bytes of an image may stand at a range: the core's own program memory or a vault of its bed (R387). -/
def imagePlace (p : Place) (r : Rng) (n : Nat) : Bool :=
  match r with
  | .core u c w off => u == p.unit && c == p.core && decide (w ≤ 1 ∧ off + n ≤ 0xF0000)
  | .vault b _ off => b == p.unit && decide (off + n ≤ 2 ^ 26)
  | _ => false

/-- Check the pieces of an image in ascending address, each moved through its own translation (R387): `first` is the range of the first, `g` holds the pieces so far. -/
def imagePieces (kind : Kind) : Nat → Option Rng → Img → Nat → Word → State → (State → Img → Res) → Res
  | 0, _, g, _, _, s, f => f s g
  | k + 1, first, g, left, pa, s, f =>
    if left = 0 then f s g
    else
      let p := s.cur.place
      let n := min left (65536 - pa.toNat % 65536)
      match addressCheck s p pa n 1 kind false with
      | .stop r => r
      | .ship s g => shipTo s g pa
      | .ok s a =>
        match imagePlace p a.rng n && first.all (oneRange a.rng), s.keyOf p.unit a.rng with
        | true, some i => imagePieces kind k (some (first.getD a.rng)) (g ++ [(i, n)]) (left - n) (pa + BitVec.ofNat 64 n) s f
        | _, _ => .trap s (Trap.of 5 0 pa)

/-- Check the place of an image at g[A] (R387); `f` takes its pieces. -/
def imageAt (s : State) (pa : Word) (kind : Kind) (f : State → Img → Res) : Res :=
  if pa.toNat % 64 ≠ 0 then .trap s (Trap.of 4 0 pa) else imagePieces kind 2 none [] 20480 pa s f

/-- MSAVE: the unit freezes, and the slot waits until the image is written (R256, R257, R387). -/
def execMsave (a : BitVec 5) (s : State) : Host.Outcome State Fault Refusal :=
  word (.msave a) s fun s =>
    if s.here.blk.isSome then .trap s (s.blockTrap 0 s.wordPc)
    else if unitAnswer s = some none then .ok s
    else
      let pa := s.opG a
      imageAt s pa .store fun s k =>
        let s := if s.mx.own = some s.ctx then endLoad s s.cur.place else s
        let m := s.mx
        if m.freezing = some (s.cur.place.slot, some k) then .wait s .freeze true
        else if m.own ≠ some s.ctx then blockError s 1 pa
        else if m.freezing.isSome then .wait s .matrix true
        else .wait (s.modMx fun m => { m with freezing := some (s.cur.place.slot, some k) }) .freeze true

/-- MLOAD (R258, R387); as with the taking of the unit, the check of the image and its load may be two turns. -/
def execMload (a : BitVec 5) (s : State) : Host.Outcome State Fault Refusal :=
  word (.mload a) s fun s =>
    if s.here.blk.isSome then .trap s (s.blockTrap 0 s.wordPc)
    else
      let p := s.cur.place
      let pa := s.opG a
      imageAt s pa .matrix fun s k =>
        if s.here.resp.contains .done then .ok (endLoad s p)
        else
          match checkImage s p.unit p.core k s.ctx with
          | (s, some n) => blockError s n pa
          | (s, none) =>
            if s.mx.own.isSome then blockError s 6 pa
            else if s.cur.part = 0 then .ok (endLoad (ownUnit s p (some k)) p)
            else .wait ((ownUnit s p (some k)).modHere fun x => { x with resp := x.resp ++ [.done] }) .again false

end Sys2Proof.Machine
end

