-- ==== Sys2Proof/Machine/MatrixSteps.lean ====
section
/-! DEFINITION. What a matrix unit does by itself: the fetch of tiles and rows (R369, R377, R381), its operations in their order (R378 to R381), and
remote commands at their target (R234, R385). -/

namespace Sys2Proof.Machine

/-! ### Fetching (R369, R377, R381) -/

/-- The self-alias program address of an offset through a window. -/
def aliasAddr (w off : Nat) : Word := BitVec.ofNat 64 (0xF * 2 ^ 60 + 0x0F * 2 ^ 44 + w * 2 ^ 20 + off)

/-- What a read of a unit gives: its bytes and scale bytes, or the trap it meets. -/
abbrev Fetched (α : Type) := Except (Nat × Nat × Word) α

/-- Granules of memory that a fetch has read already, by key. -/
abbrev Held := List (Nat × List Byte)

/-- The byte at a key as a fetch reads it: as its granule was read, or now (R41, R50). -/
def heldByte (s : State) (h : Held) (k : Nat) : Byte :=
  match Tbl.look h (k / 16 * 16) with
  | some bs => bs.getD (k % 16) 0
  | none => pathByte s .mx k

/-- Read `n` bytes of the core's memory on path MX, of which the granules held have met their soft errors; a bad word's address is given through a window (R62, R63,
R377; for `macc.ld` and the scale bytes through which is the model's choice, assumption 180). -/
def mxRead (s : State) (h : Held) (unit core w off n : Nat) : State × Fetched (List Byte) :=
  let k := coreKey unit core off
  let es := (errsIn s k n).filter fun e => (Tbl.look h (e.1 / 16 * 16)).isNone
  match es.find? fun e => e.2.isNone with
  | some b => (meetBad s b.1, .error (16, 0, aliasAddr w (b.1 % 2 ^ 20)))
  | none => (es.foldl (fun t e => clearErr (countErr t e.1 false) e.1) s, .ok ((List.range n).map fun i => heldByte s h (k + i)))

/-- The scale bytes of a tile's 32 blocks (R48, R369); a scale address past the program memory is named by that of its block's data through the window (R249, R377;
assumption 180). -/
def readScales (s : State) (h : Held) (unit core w off : Nat) : Nat → List Byte → State × Fetched (List Byte)
  | 0, acc => (s, .ok acc)
  | n + 1, acc =>
    let r := 31 - n
    let o := off + r * (if w = 4 then 16 else 32)
    let sc := scaleOff s ⟨unit, core, 0⟩ w o
    if 0xF0000 ≤ sc then (s, .error (5, 5, aliasAddr w o))
    else
      match mxRead s h unit core w sc 1 with
      | (s, .error e) => (s, .error e)
      | (s, .ok b) => readScales s h unit core w off n (acc ++ b)

/-- Read tile `t` of a ring: its bytes and, in MX formats, its scale bytes; the table entries its codes name are read with them. -/
def readTile (s : State) (h : Held) (unit core : Nat) (r : Ring) (t : BitVec 32) : State × Fetched (List Byte × List Byte) :=
  let w := fmtWindow r.fmt
  let off := r.slotOff t
  match (if w = 4 ∨ w = 5 then readScales s h unit core w off 32 [] else (s, .ok [])) with
  | (s, .error e) => (s, .error e)
  | (s, .ok sc) =>
    match mxRead s h unit core w off r.tileb with
    | (s, .error e) => (s, .error e)
    | (s, .ok bs) =>
      match meetTables s ⟨unit, core, 0⟩ (if w = 2 then bs.map (·.toNat) else []) (if w = 3 then fields 4 (2 * bs.length) (ofBytes bs) else []) with
      | (s, some k) => (s, .error (16, 0, aliasAddr w (k % 2 ^ 20)))
      | (s, none) => (s, .ok (bs, sc))

/-- The exact value of stored element `i` of a tile of a format; `row` names its MX block (R369). -/
def tileValue (s : State) (p : Place) (fmt v : Nat) (sc : List Byte) (row i : Nat) : Val :=
  let b8 := v / 256 ^ i % 256
  let b16 := v / 65536 ^ i % 65536
  let b4 := v / 16 ^ i % 16
  match fmt with
  | 0 => Val.int (sintN 8 b8)
  | 1 => e4m3.decode b8
  | 2 => e5m2.decode b8
  | 3 => bf16.decode b16
  | 4 => fp16.decode b16
  | 5 => Val.int (sintN 4 b4)
  | 6 => codeTable s p b8
  | 7 => Val.int (intTable s p b4)
  | 8 => mxValue false b4 ((sc.getD row 0).toNat)
  | _ => mxValue true b8 ((sc.getD row 0).toNat)

/-- The integer formats (R369). -/
def intFmt (fmt : Nat) : Bool := fmt == 0 || fmt == 5 || fmt == 7

/-- The depth positions of a row's stored values: all 32, or the first N set bits of its mask word (R278). -/
def rowPositions (sparse : Bool) (n mask : Nat) : List Nat :=
  if sparse then ((List.range 32).filter fun k => mask.testBit k).take n else List.range 32

/-- Fetch chunk `h` of a product. -/
def fetchChunk (s : State) (hd : Held) (unit core : Nat) (p : Prod) (tA tB tM : BitVec 32) (h : Nat) : State × Fetched Chunk :=
  let m := (s.core unit core).mx
  let q : Place := ⟨unit, core, 0⟩
  let ra := m.ring p.a
  let rb := m.ring p.b
  let d := BitVec.ofNat 32 h
  match readTile s hd unit core ra (tA + d) with
  | (s, .error e) => (s, .error e)
  | (s, .ok (ab, asc)) =>
    match readTile s hd unit core rb (tB + d) with
    | (s, .error e) => (s, .error e)
    | (s, .ok (bb, bsc)) =>
      match (if p.sparse then readTile s hd unit core (m.ring p.m) (tM + d) else (s, .ok ([], []))) with
      | (s, .error e) => (s, .error e)
      | (s, .ok (mb, _)) =>
        let va := ofBytes ab
        let vb := ofBytes bb
        let vm := ofBytes mb
        let n := densN ra.dens
        let rowA := fun i =>
          let ks := rowPositions p.sparse n (vm / 2 ^ (32 * i) % 2 ^ 32)
          (List.range ks.length).map fun j => (ks.getD j 0, tileValue s q ra.fmt va asc i (n * i + j))
        let colB := fun j => (List.range 32).map fun k => tileValue s q rb.fmt vb bsc j (32 * j + k)
        (s, .ok { int := intFmt ra.fmt && intFmt rb.fmt, a := (List.range 32).map rowA, b := (List.range 32).map colB })

/-- Fetch the chunks of a product in ascending order. -/
def fetchChunks (hd : Held) (unit core : Nat) (p : Prod) (tA tB tM : BitVec 32) : Nat → State → List Chunk → State × Fetched (List Chunk)
  | 0, s, acc => (s, .ok acc)
  | n + 1, s, acc =>
    match fetchChunk s hd unit core p tA tB tM (p.kch - (n + 1)) with
    | (s, .error e) => (s, .error e)
    | (s, .ok c) => fetchChunks hd unit core p tA tB tM n s (acc ++ [c])

/-- An element of an accumulator as memory gives it (R381). -/
def accOfMem (fmt v : Nat) : Nat :=
  if fmt = 0 then v else fp32.round .rne ((if fmt = 1 then bf16 else fp16).decode v)

/-- An element of an accumulator as memory takes it (R381). -/
def accToMem (fmt v : Nat) : Nat := if fmt = 0 then v else (if fmt = 1 then bf16 else fp16).round .rne (fp32.decode v)

/-- Read the rows of a `macc.ld`; a bad word is named by its self-alias RAW address (R249, R381; assumption 180). -/
def readRows (hd : Held) (unit core fmt : Nat) : List Nat → State → List Nat → State × Fetched (List Nat)
  | [], s, acc => (s, .ok acc)
  | off :: r, s, acc =>
    let n := afmtBytes fmt
    match mxRead s hd unit core 0 off (32 * n) with
    | (s, .error e) => (s, .error e)
    | (s, .ok bs) =>
      let v := ofBytes bs
      readRows hd unit core fmt r s (acc ++ (List.range 32).map fun j => accOfMem fmt (v / 2 ^ (8 * n * j) % 2 ^ (8 * n)))

/-- The operation a fetch turns into. -/
def runFetch (s : State) (hd : Held) (unit core : Nat) (j : MJob) : State × Fetched MAct :=
  match j with
  | .product p tA tB tM =>
    let sat := ((s.core unit core).mx.ring p.a).sat
    (match fetchChunks hd unit core p tA tB tM p.kch s [] with
     | (s, .error e) => (s, .error e)
     | (s, .ok cs) => (s, .ok (.mma p.acc p.acz sat cs)))
  | .rows acc offs fmt =>
    match readRows hd unit core fmt offs s [] with
    | (s, .error e) => (s, .error e)
    | (s, .ok vs) => (s, .ok (.load acc vs))

/-- Change the unit of a core. -/
def State.modUnit (s : State) (unit core : Nat) (f : Matrix → Matrix) : State := s.modCore unit core fun c => { c with mx := f c.mx }

/-- Count a command executed under a capability (R382, R385). -/
def countUsed (s : State) (unit core n : Nat) : State :=
  let k := capKey unit core n + 16
  s.put .ls k (bytesOf 4 (min (s.peekNat k 4 + 1) 0xFFFFFFFF))

/-- Start a remote operation. -/
def startRemote (s : State) (unit core n : Nat) (q : Pkt) (act : MAct) (claims : List (Nat × BitVec 32)) : State :=
  countUsed (s.modUnit unit core fun m =>
    { m with ops := { act := act, claims := claims, slot := none, remote := some (q, n), started := true, gone := 0, num := m.taken } :: m.ops, lastRemote := true, taken := m.taken + 1 })
    unit core n

/-- The end of a fetch: the operation is accepted, with its pair if its word is one of a pair (R284), or its claims are released and its word traps (R377, R381); a remote command's waits for its turn, or is
answered REJECT (R385). -/
def fetchEnd (s : State) (p : Place) (f : MFetch) : State :=
  let (s, r) := runFetch s f.got p.unit p.core f.job
  let drop := fun (m : Matrix) => { m with fetches := m.fetches.erase f }
  let answer := fun (t : State) (e : Option (Nat × Nat × Word)) =>
    wakeMatrix (t.modSlot p fun x => { x.wake with resp := .matrix f.half e :: x.resp }) p.unit p.core
  match r, f.remote with
  | .ok act, none =>
    if f.pair then answer (s.modUnit p.unit p.core fun m => { m with fetches := m.fetches.map fun x => if x = f then { f with act := some act } else x }) none
    else answer (s.modUnit p.unit p.core fun m => (drop m).accept act (f.job.claims.map fun c => (c.1, c.2.1)) none none) none
  | .error e, none => answer (s.modUnit p.unit p.core fun m => (drop m).releaseJob f.job) (some e)
  | .ok act, some _ => s.modUnit p.unit p.core fun m => { m with fetches := m.fetches.map fun x => if x = f then { f with act := some act } else x }
  | .error _, some (q, _) =>
    let t := wakeMatrix (s.modUnit p.unit p.core fun m => { (drop m).releaseJob f.job with remq := m.remq.drop 1, begun := none }) p.unit p.core
    { t with pkts := t.pkts ++ [nackOf q 5] }

/-- The fetch under way in a slot, if its job meets a test. -/
def fetchOf (s : State) (p : Place) (product : Bool) : Option MFetch :=
  (s.coreAt p).mx.fetches.find? fun f => f.slot == p.slot && f.act.isNone && (match f.job with
    | .product _ _ _ _ => product
    | .rows _ _ _ => !product)

/-- A fetch goes on: with `arg.flag` it reads granule `arg.index` of the core's memory, else it reads what is left and ends.  Its granules are read one by one,
in any order, with other accesses between (R41, R50), each meeting its soft errors as it is read (R62); an uncorrectable one waits for the end. -/
def fetchTurn (s : State) (p : Place) (f : MFetch) : State :=
  let k := coreKey p.unit p.core (16 * s.arg.index)
  if s.arg.flag = false then fetchEnd s p f
  else if 65536 ≤ s.arg.index ∨ (Tbl.look f.got k).isSome ∨ (anyBad s k 16).isSome then s
  else
    let s := correct s k 16
    let g := { f with got := (k, (List.range 16).map fun i => pathByte s .mx (k + i)) :: f.got }
    s.modUnit p.unit p.core fun m => { m with fetches := m.fetches.map fun x => if x = f then g else x }

/-- MMA_FETCH_END (R377, R385): the fetch of a product of the slot at `arg.unit`, `arg.core`, `arg.slot`, or with slot 8 of a remote command, goes on or ends. -/
def execMmaFetchEnd (s : State) : Host.Outcome State Fault Refusal :=
  let p : Place := ⟨s.arg.unit, s.arg.core, s.arg.slot⟩
  match fetchOf s p true with
  | some f => .next (fetchTurn s p f)
  | none => .next s

/-- MACC_LD_READ_END (R381): the row read of the slot's `macc.ld` goes on or ends. -/
def execMaccLdReadEnd (s : State) : Host.Outcome State Fault Refusal :=
  let p : Place := ⟨s.arg.unit, s.arg.core, s.arg.slot⟩
  match fetchOf s p false with
  | some f => .next (fetchTurn s p f)
  | none => .next s

/-! ### Execution (R378 to R381) -/

/-- A product of integers is an exact integer: its zero has no sign (R275, R378). -/
def Val.unsigned (v : Val) (int : Bool) : Val :=
  match v with
  | .fin _ 0 e => if int then .fin false 0 e else v
  | v => v

/-- `MmaExecute` for one chunk (R378): the accumulator and whether a finite sum overflowed. -/
def runChunk (acc : List Nat) (sat : Bool) (c : Chunk) : List Nat × Bool :=
  let cells := (List.range 1024).map fun n =>
    let col := c.b.getD (n % 32) []
    accumulateChunk (acc.getD n 0) ((c.a.getD (n / 32) []).map fun e => (e.2.mul (col.getD e.1 .nan)).unsigned c.int) sat
  (cells.map (·.1), cells.any (·.2))

/-- Accumulator `n` of a unit, and writing it. -/
def Matrix.accAt (m : Matrix) (n : Nat) : List Nat := if h : n < 4 then m.acc[n] else []
def Matrix.setAcc (m : Matrix) (n : Nat) (v : List Nat) : Matrix := if h : n < 4 then { m with acc := m.acc.set n v } else m

/-- `MmaExecute` (R378). -/
def runProduct (m : Matrix) (acc : Nat) (acz sat : Bool) (cs : List Chunk) : Matrix :=
  let (v, o) := cs.foldl (fun (x : List Nat × Bool) c => let (v, o) := runChunk x.1 sat c; (v, x.2 || o))
    (if acz then List.replicate 1024 0 else m.accAt acc, false)
  { m.setAcc acc v with ovf := m.ovf || o }

/-- Write the rows of a `macc.st` for which `f` holds on path MX, with the core's own stores (R381). -/
def writeRows (s : State) (unit core acc : Nat) (rows : List Nat) (fmt : Nat) (f : Nat → Bool) : State :=
  let v := (s.core unit core).mx.accAt acc
  ((List.range rows.length).filter f).foldl (fun t i =>
    t.put .mx (coreKey unit core (rows.getD i 0))
      (((v.drop (32 * i)).take 32).flatMap fun x => bytesOf (afmtBytes fmt) (accToMem fmt x))) s

/-- Whether an operation has made all its writes. -/
def MOp.written (o : MOp) : Bool :=
  match o.act with
  | .store _ rows _ => (List.range rows.length).all o.gone.testBit
  | _ => true

/-- A turn of the `macc.st` at the head of the unit's order: with `arg.flag` it writes row `arg.index`, else the rows that are left (R381). -/
def storeTurn (s : State) (unit core : Nat) (o : MOp) (rest : List MOp) (acc : Nat) (rows : List Nat) (fmt : Nat) : State :=
  let i := s.arg.index
  let f := fun k => !o.gone.testBit k && (s.arg.flag = false || k == i)
  let gone := if s.arg.flag then o.gone ||| 2 ^ (i % 32) else 2 ^ rows.length - 1
  let s := match o.slot with
    | some (k, _) => { s with maker := .thread (s.slot ⟨unit, core, k⟩).name.toNat }
    | none => s
  (writeRows s unit core acc rows fmt f).modUnit unit core fun m => { m with ops := { o with started := true, gone := gone } :: rest }

/-- Whether the rows of a `macc.st` meet a table that a decode in progress reads (R55). -/
def rowsHeld (s : State) (unit core fmt : Nat) (rows : List Nat) : Bool :=
  rows.any fun off => tableHeld s (.core unit core 0 off) (32 * afmtBytes fmt)

/-- Whether the rows of a `macc.st` hold a byte. -/
def inRows (unit core : Nat) (rows : List Nat) (fmt k : Nat) : Bool :=
  rows.any fun off => decide (coreKey unit core off ≤ k ∧ k < coreKey unit core off + 32 * afmtBytes fmt)

/-- The action of an operation that retires, on the unit (R378, R380, R381). -/
def MAct.apply (a : MAct) (m : Matrix) : Matrix :=
  match a with
  | .mma acc acz sat cs => runProduct m acc acz sat cs
  | .zero acc => m.setAcc acc (List.replicate 1024 0)
  | .move d e => m.setAcc d (m.accAt e)
  | .load acc vs => m.setAcc acc vs
  | .store _ _ _ => m
  | .pop => m

/-- The start checks of a remote command that are made again at the head of the queue (R385), with the entry and instruction. -/
def remoteOk (s : State) (unit core : Nat) (q : Pkt) (full : Bool) : Option (Nat × Instr) :=
  match q.body with
  | .mcmd w token _ =>
    let n := token.toNat % 16
    let k := capKey unit core n
    let w0 := (s.peekW k).toNat
    let m := (s.core unit core).mx
    let prod := fun (p : Prod) (i : Instr) (op : Nat) =>
      if bit (bits w0 29 25) op && p.rings.all (bit (bits w0 20 13)) && bit (bits w0 24 21) p.acc && (p.refused m).isNone then some (n, i) else none
    if w0.testBit 12 = false ∨ (s.peekW (k + 8)).toNat % 2 ^ 60 ≠ token.toNat / 16 then none
    else if m.own ≠ some (BitVec.ofNat 12 w0) ∨ m.freezing.isSome ∨ m.loading.isSome then none
    else if full ∧ w0.testBit 30 ∧ bits w0 54 31 ≠ q.src then none
    else
      match remoteWord w with
      | some (.mma c a b z j) => prod { form := 0, acc := c.toNat, acz := z == 1, a := a.toNat, b := b.toNat, m := 0, kch := j.toNat + 1 }
          (.mma c a b z j) 0
      | some (.mmaSp c a b h r z j) =>
        prod { form := if h = 0 then 1 else 2, acc := c.toNat, acz := z == 1, a := a.toNat, b := b.toNat, m := r.toNat, kch := j.toNat + 1 }
          (.mmaSp c a b h r z j) 1
      | some (.mmaMx c a b z j) => prod { form := 3, acc := c.toNat, acz := z == 1, a := a.toNat, b := b.toNat, m := 0, kch := j.toNat + 1 }
          (.mmaMx c a b z j) 2
      | some (.maccZero c) => if bit (bits w0 29 25) 3 && bit (bits w0 24 21) c.toNat then some (n, .maccZero c) else none
      | some (.maccMv c e) =>
        if bit (bits w0 29 25) 4 && bit (bits w0 24 21) c.toNat && bit (bits w0 24 21) e.toNat then some (n, .maccMv c e) else none
      | _ => none
  | _ => none

/-- The product of an instruction, if it is one. -/
def prodOf : Instr → Option Prod
  | .mma c a b z j => some { form := 0, acc := c.toNat, acz := z == 1, a := a.toNat, b := b.toNat, m := 0, kch := j.toNat + 1 }
  | .mmaSp c a b h r z j =>
    some { form := if h = 0 then 1 else 2, acc := c.toNat, acz := z == 1, a := a.toNat, b := b.toNat, m := r.toNat, kch := j.toNat + 1 }
  | .mmaMx c a b z j => some { form := 3, acc := c.toNat, acz := z == 1, a := a.toNat, b := b.toNat, m := 0, kch := j.toNat + 1 }
  | _ => none

/-- Whether the unit is free to start an operation: none is executing, and it is not freezing. -/
def Matrix.idle (m : Matrix) : Bool := m.freezing.isNone && !m.ops.any (·.started)

/-- Whether the head of the remote queue is ready: it has passed its start checks and its claims are met (R234). -/
def remoteReady (s : State) (unit core : Nat) : Bool :=
  match (s.core unit core).mx.begun with
  | some b => b.prod.isNone || b.job.isSome
  | none => false

/-- MATRIX_OP_START (R234, R379): the local operation at the head of the unit's order starts, unless a ready remote one has its turn; a `macc.st`
makes its writes, row by row or at once. -/
def execMatrixOpStart (s : State) : Host.Outcome State Fault Refusal :=
  let u := s.arg.unit
  let c := s.arg.core
  let m := (s.core u c).mx
  match m.ops with
  | [] => .next s
  | o :: rest =>
    let go := m.idle && !(remoteReady s u c && !m.lastRemote)
    match o.act with
    | .store acc rows fmt =>
      if (if o.started then m.freezing.isSome else !go) || rowsHeld s u c fmt rows || (s.arg.flag && decide (32 ≤ s.arg.index)) then .next s
      else .next (storeTurn (s.modUnit u c fun m => { m with lastRemote := false }) u c o rest acc rows fmt)
    | _ => if go then .next (s.modUnit u c fun m => { m with ops := { o with started := true } :: rest, lastRemote := false }) else .next s

/-- MATRIX_OP_RETIRE (R371, R377, R379, R385): the executing operation takes its effect, frees its tiles, and answers its slot or sender. -/
def execMatrixOpRetire (s : State) : Host.Outcome State Fault Refusal :=
  let u := s.arg.unit
  let c := s.arg.core
  let m := (s.core u c).mx
  match m.ops with
  | [] => .next s
  | o :: rest =>
    if o.started = false ∨ o.written = false ∨ m.freezing.isSome then .next s
    else
      let s := s.modUnit u c fun m =>
        o.claims.foldl (fun m k => m.retireClaim k.1 k.2) { o.act.apply m with ops := rest }
      let s := match o.act with
        | .store _ rows fmt =>
          performFor s fun l => l.reader == .ls && l.writer == .mx && inRows u c rows fmt l.key
        | _ => s
      let s := match o.slot with
        | some (k, h) => s.modSlot ⟨u, c, k⟩ fun x => { x.wake with resp := .matrix h none :: x.resp }
        | none => s
      let s := match o.remote with
        | some (q, _) => { s with pkts := s.pkts ++ [respond q 0x18 0 .ack] }
        | none => s
      .next (wakeMatrix (feedRings s u c) u c)

/-! ### Remote commands at their target (R234, R385) -/

/-- Meet the soft errors of the capability entry that a remote command names (R62, R63, R385). -/
def seeCap (s : State) (unit core : Nat) (q : Pkt) : State :=
  match q.body with
  | .mcmd _ token _ => s.see (capKey unit core (token.toNat % 16)) 24
  | _ => s

/-- REMOTE_MATRIX_COMMAND (R385): packet `arg.index`, delivered at a core, is queued, or answered REJECT or BUSY. -/
def execRemoteMatrixCommand (s : State) : Host.Outcome State Fault Refusal :=
  match s.pkts[s.arg.index]? with
  | none => .next s
  | some q =>
    match q.loc with
    | .atCore x y =>
      if q.resp ∨ q.kind ≠ 0x13 then .next s
      else
        let (u, c) := xyCore x y
        let s := seeCap s u c q
        if (remoteOk s u c q true).isNone then .next (nackPkt s s.arg.index q 5)
        else if 2 ≤ (s.core u c).mx.remq.length then .next (nackPkt s s.arg.index q 4)
        else .next ((dropPkt s s.arg.index).modUnit u c fun m => { m with remq := m.remq ++ [q] })
    | _ => .next s

/-- The action of a remote word that fetches nothing. -/
def quickAct : Instr → Option MAct
  | .maccZero d => some (.zero d.toNat)
  | .maccMv d e => some (.move d.toNat e.toNat)
  | _ => none

/-- The remote command that has passed its start checks goes on (R385): with its claims met its fetch begins, once no table that it decodes by is awaited (R55); with nothing
left to fetch it starts as an operation in its turn (R234). -/
def remoteOn (s : State) (u c : Nat) (q : Pkt) (b : Begun) : State :=
  let m := (s.core u c).mx
  let turn := m.idle && !(m.ops != [] && m.lastRemote)
  let next := fun (m : Matrix) => { m with remq := m.remq.drop 1, begun := none, fetches := m.fetches.filter (·.remote.isNone) }
  match b.act, b.job, m.fetches.find? (·.remote.isSome) with
  | some act, _, _ => if turn then startRemote (s.modUnit u c next) u c b.entry q act [] else s
  | none, some j, none =>
    if (tablesBusy s ⟨u, c, 8⟩ (match b.prod with
      | some p => if p.coded m then [255] else []
      | none => [])).isSome then s
    else s.modUnit u c fun m => { m with fetches := m.fetches ++ [{ slot := 8, half := false, job := j, got := [], remote := some (q, b.entry), pair := false, act := none }] }
  | none, some j, some f =>
    match f.act with
    | some act => if turn then startRemote (s.modUnit u c next) u c b.entry q act (j.claims.map fun x => (x.1, x.2.1)) else s
    | none => s
  | none, none, _ => s

/-- REMOTE_COMMAND_START (R234, R385): the head of the remote queue is checked again and starts, or is rejected; started, it claims its tiles once it can, fetches, and
becomes an operation in its turn.  A fetch that meets a bad word, or a scale address past the program memory (assumption 12), answers REJECT. -/
def execRemoteCommandStart (s : State) : Host.Outcome State Fault Refusal :=
  let u := s.arg.unit
  let c := s.arg.core
  match (s.core u c).mx.remq, (s.core u c).mx.begun with
  | [], _ => .next s
  | q :: _, some b => .next (remoteOn s u c q b)
  | q :: rest, none =>
    let s := seeCap s u c q
    match remoteOk s u c q false with
    | none =>
      let t := s.modUnit u c fun m => { m with remq := rest }
      .next { t with pkts := t.pkts ++ [nackOf q 5] }
    | some (n, i) =>
      let s := claimRemote (s.modUnit u c fun m => { m with begun := some ⟨n, prodOf i, quickAct i, none⟩ }) u c
      .next (match (s.core u c).mx.begun with
        | some b => remoteOn s u c q b
        | none => s)

end Sys2Proof.Machine
end

