-- ==== Sys2Proof/Machine/Memory.lean ====
section
/-! DEFINITION. Loads and stores (R318 to R322), fences (R333 to R335). -/

namespace Sys2Proof.Machine

/-- Whether a range is the host window. -/
def isHost : Rng → Bool
  | .host _ => true
  | _ => false

/-- A plain load (R320): size, and whether the value is sign-extended. -/
def load (i : Instr) (t a : BitVec 5) (d : BitVec 11) (n : Nat) (sgn : Bool) (s : State) : Host.Outcome State Fault Refusal :=
  word i s fun s => scalarLoad s (s.eaDisp a d) n fun s v => .ok (s.setG t (if sgn then signExt (8 * n) v else BitVec.ofNat 64 v))

/-- A plain store (R320). -/
def store (i : Instr) (t a : BitVec 5) (d : BitVec 11) (n : Nat) (s : State) : Host.Outcome State Fault Refusal :=
  word i s fun s => scalarStore s (s.eaDisp a d) n (s.opG t) fun s => .ok s

/-- LD_B (R320). -/
def execLdB (t a : BitVec 5) (d : BitVec 11) (s : State) := load (.ldB t a d) t a d 1 false s
/-- LD_H (R320). -/
def execLdH (t a : BitVec 5) (d : BitVec 11) (s : State) := load (.ldH t a d) t a d 2 false s
/-- LD_W (R320). -/
def execLdW (t a : BitVec 5) (d : BitVec 11) (s : State) := load (.ldW t a d) t a d 4 false s
/-- LD_D (R320). -/
def execLdD (t a : BitVec 5) (d : BitVec 11) (s : State) := load (.ldD t a d) t a d 8 false s
/-- LD_BX (R320). -/
def execLdBx (t a : BitVec 5) (d : BitVec 11) (s : State) := load (.ldBx t a d) t a d 1 true s
/-- LD_HX (R320). -/
def execLdHx (t a : BitVec 5) (d : BitVec 11) (s : State) := load (.ldHx t a d) t a d 2 true s
/-- LD_WX (R320). -/
def execLdWx (t a : BitVec 5) (d : BitVec 11) (s : State) := load (.ldWx t a d) t a d 4 true s
/-- ST_B (R320). -/
def execStB (t a : BitVec 5) (d : BitVec 11) (s : State) := store (.stB t a d) t a d 1 s
/-- ST_H (R320). -/
def execStH (t a : BitVec 5) (d : BitVec 11) (s : State) := store (.stH t a d) t a d 2 s
/-- ST_W (R320). -/
def execStW (t a : BitVec 5) (d : BitVec 11) (s : State) := store (.stW t a d) t a d 4 s
/-- ST_D (R320). -/
def execStD (t a : BitVec 5) (d : BitVec 11) (s : State) := store (.stD t a d) t a d 8 s

/-- LD_ACQ: an earlier `st.rel` is performed first, and at scope `.s` earlier host-window stores have left (R195, R208, R321). -/
def execLdAcq (t a : BitVec 5) (sc : BitVec 2) (d : BitVec 11) (s : State) : Host.Outcome State Fault Refusal :=
  word (.ldAcq t a sc d) s fun s =>
    accessing s (s.eaDisp a d) 8 8 .load false fun s acc =>
      let p := s.cur.place
      if (s.coreAt p).sbuf.any (fun e => e.slot == p.slot && e.rel.isSome) ∨ (sc = 3 ∧ hostPending s p) then s.waitAt .drain false acc.pa
      else loadBytes s acc 8 fun s bs => .ok ((acquired s p acc.rng 8).setG t (BitVec.ofNat 64 (ofBytes bs)))

/-- ST_REL: a store that waits for the acknowledgements of its scope before it enters the buffer (R195, R199, R208, R321). -/
def execStRel (t a : BitVec 5) (sc : BitVec 2) (d : BitVec 11) (s : State) : Host.Outcome State Fault Refusal :=
  word (.stRel t a sc d) s fun s =>
    accessing s (s.eaDisp a d) 8 8 .store false fun s acc =>
      let p := s.cur.place
      let bs := bytesOf 8 (s.opG t).toNat
      unlessRefused s acc bs
        (if ackedFor s p sc.toNat = false ∨ (sc = 3 ∧ hostPending s p) then s.waitAt .drain false acc.pa
         else storeBytes s acc bs (some sc.toNat) fun s => .ok s)

/-- Whether an earlier store to the host window at scope `.s` still stands in the buffer: what follows leaves the port after it (R208). -/
def hostReleased (s : State) (p : Place) : Bool := (s.coreAt p).sbuf.any fun e => e.slot == p.slot && e.rel == some 3

/-- ST_NT: a streaming store, sent as it retires (R322), after its thread's buffered stores to the same bytes (R189), to its route table (R85) and, towards the host
window, its releases at `.s` (R208); inside a timed block it is an access at its bank (R204). -/
def execStNt (t a : BitVec 5) (z : BitVec 2) (d : BitVec 11) (s : State) : Host.Outcome State Fault Refusal :=
  word (.stNt t a z d) s fun s =>
    let n := 2 ^ z.toNat
    accessing s (s.eaDisp a d) n n .store false fun s acc =>
      let p := s.cur.place
      let bs := bytesOf n (s.opG t).toNat
      unlessRefused s acc bs
        (if (s.here.blk.isSome ∧ acc.own) ∨ acc.rng.isRegion then storeBytes s acc bs none fun s => .ok s
         else if forwards s p (locKey acc.rng) n ∨ asyncMeets s p (locKey acc.rng) n ∨ routeStored s p ∨ (isHost acc.rng ∧ hostReleased s p) then
           s.waitAt .drain false acc.pa
         else
           let q := { mkPkt s p 1 1 acc.la (.store bs true) with rstamp := s.stampFor p.unit acc.rng }
           match inject s p acc.rng q with
           | .park s => s.waitAt (.route (s.routeIx p.unit acc.rng)) true acc.pa
           | .sent s => .ok ((s.modSlot p fun x => { x with ntOut := x.ntOut ++ [(q.id, locKey acc.rng, acc.pa)] }).tick))

/-- What a fence of a scope waits for (R194, R195, R208, R334). -/
def fenceWaits (s : State) (sc : Nat) : Bool :=
  let p := s.cur.place
  !(storesDone s p sc && ackedFor s p sc) || (sc == 3 && hostPending s p)

/-- A fence after a load makes that load an acquire (R197). -/
def fenced (s : State) : State := acquireHeard s s.cur.place

/-- FENCE (R334). -/
def execFence (sc : BitVec 2) (s : State) : Host.Outcome State Fault Refusal :=
  word (.fence sc) s fun s => if fenceWaits s sc.toNat then s.waitFor .drain true else .ok (fenced s)

/-- The path a code names (R291). -/
def pathOf (n : Nat) : Path := ([.ls, .ce, .mx, .se, .ge, .xp, .hp] : List Path).getD n .ls

/-- Whether a location lies within a scope of the thread (R196). -/
def covered (p : Place) (sc k : Nat) : Bool :=
  if sc = 0 then decide (coreKey p.unit p.core 0 ≤ k ∧ k < coreKey p.unit p.core 0 + 2 ^ 20)
  else if sc = 1 then
    (if p.unit < 12 then decide (p.unit * 2 ^ 36 ≤ k ∧ k < (p.unit + 1) * 2 ^ 36)
     else (isRimCore k && k / 2 ^ 28 % 8 == p.unit - 16) || (isHbm k && k / 2 ^ 36 % 16 / 2 == p.unit - 16))
  else if sc = 2 then decide (k < 2 ^ 51)
  else true

/-- Whether a copy engine's host-window write still stands in the Lantern port: a release of scope `.s` covers it after `xfence.s` of path CE (R208). -/
def engineInPort (s : State) : Bool := s.hostOut.any fun q => match q.1.body with
  | .engWrite _ _ _ _ => true
  | _ => false

/-- XFENCE: as a fence, then until every write of path P within the scope that the thread has observed is performed for path Q (R201, R202), at scope `.s` for
path CE out of the Lantern port as well (R208); a Q of XP or HP is refused. -/
def execXfence (x y : BitVec 3) (sc : BitVec 2) (s : State) : Host.Outcome State Fault Refusal :=
  word (.xfence x y sc) s fun s =>
    let p := s.cur.place
    if 5 ≤ y.toNat then s.illegal 4
    else if fenceWaits s sc.toNat ∨ (sc = 3 ∧ x = 1 ∧ engineInPort s) then s.waitFor .drain true
    else
      let s := fenced s
      if s.lag.any fun l => l.writer == pathOf x.toNat && l.reader == pathOf y.toNat && covered p sc.toNat l.key && observed s p l then
        s.waitFor .drain true
      else .ok s

/-- A line on its way to a core's instruction cache is no longer wanted: the fetch that asked for it asks again (R60, R335). -/
def staleRefill (p : Place) (q : Pkt) : Pkt :=
  if q.place.unit = p.unit ∧ q.place.core = p.core ∧ (if q.resp then q.req.2.2 else q.body) = .load 64 true then { q with gone := 1 } else q

/-- ISYNC: once the thread's stores are performed, every line of the core's instruction cache goes, and none read before comes to it (R335). -/
def execIsync (s : State) : Host.Outcome State Fault Refusal :=
  word .isync s fun s =>
    let p := s.cur.place
    if (s.coreAt p).sbuf.any (fun e => e.slot == p.slot) ∨ (s.slot p).ntOut ≠ [] then s.waitFor .drain true
    else
      let s := s.modCoreAt p fun c => { c with icache := [] }
      .ok { s with pkts := s.pkts.map (staleRefill p), retries := s.retries.map fun r => { r with pkt := staleRefill p r.pkt } }

end Sys2Proof.Machine
end

