-- ==== Sys2Proof/Machine/Quench.lean ====
section
/-! DEFINITION. The quench of a context (R124 to R126, R150): its arrival at each party, messages to other modules, and its acknowledgements. -/

namespace Sys2Proof.Machine

/-- The engine that is a party by its number. -/
def partyEng (n : Nat) : Option Eng :=
  if n < 48 then some ⟨n / 4, 0, n % 4⟩
  else if 64 ≤ n ∧ n < 160 then some ⟨16 + (n - 64) / 16, 0, (n - 64) % 16⟩
  else if 192 ≤ n ∧ n < 240 then some ⟨16 + (n - 192) / 8, 1, (n - 192) % 8⟩
  else if 256 ≤ n ∧ n < 268 then some ⟨n - 256, 2, 0⟩
  else none

/-- The parties of a quench: of another module's owner only engines, encoders and graft units (R124 step 5). -/
def partiesOf (s : State) (own : Nat) : List Nat :=
  if own = s.moduleNo.toNat then quenchParties else quenchParties.filter fun n => (partyEng n).isSome

/-- Whether a command packet is of an owner. -/
def ownedBy (own ctx : Nat) (q : Pkt) : Bool :=
  match q.body with
  | .cmd c => c.ownMod == own && c.ctx == ctx
  | _ => false

/-- A quench at an engine, encoder or graft unit (R121, R124 step 2), and whether every write it has sent is answered. -/
def quenchEngine (s : State) (e : Eng) (own ctx : Nat) : State × Bool :=
  let s := s.modEng e fun x =>
    { x with refuse := if x.refuse.contains (own, ctx) then x.refuse else (own, ctx) :: x.refuse, queue := x.queue.filter fun q => !(ownedBy own ctx q),
             tlb := x.tlb.filter fun t => !(t.2.own == own && t.2.ctx.toNat == ctx) }
  let x := s.eng e
  if x.active.any (ownedBy own ctx) = false then (s, true)
  else
    let held := (s.retries.filter fun r => engineOf s r.pkt.id == some e).map fun r => r.pkt.id
    let s := { s with retries := s.retries.filter fun r => !(held.contains r.pkt.id) }
    let s := (engFail s e 6 0 0).modEng e fun x => held.foldl Engine.forget { x with ent := none }
    let x := s.eng e
    if x.outs = [] then
      match x.cmd with
      | some c => (if e.kind = 2 then graftEnd s e c 6 else engFinish s e ((x.err.map (·.1)).getD 6) x.wm 0 0, true)
      | none => (s, true)
    else (s, false)

/-- A quench at one channel: the commands of the context are cancelled without an arrival, and a stall on the channel is released (R124, R126);
the SRC of its mail is the issuing core's (assumption 101). -/
def quenchChannel (s : State) (unit core ctx n : Nat) : State :=
  let c := (s.core unit core).chan n
  let mine := fun (k : Cmd) => k.ctx == ctx && k.ownMod == s.moduleNo.toNat
  match c.cmds with
  | [] => s
  | k :: _ =>
    if mine k then
      completeCommand s unit core n (if c.sent then 2 else 0) { status := 6, ck := none, src := s.srcNum unit core, faddr := 0, detail := 0 }
    else if c.cmds.any mine then
      let ranged := c.cmds.any fun k => mine k && k.range.isSome
      wakeChannel (s.modChan unit core n fun c =>
        { c with cmds := c.cmds.filter fun k => !(mine k), status := 6, wm := if ranged then c.hi else c.wm }) unit core n
    else s

/-- A quench at the ranker: a running go of the owner is abandoned, and its pages are forgotten (R121, R150). -/
def quenchRanker (s : State) (own ctx : Nat) : State :=
  let mine := fun (n : Nat) => (s.pop n).ownMod.toNat == own && (s.pop n).ctx.toNat == ctx
  { s with ranker := { s.ranker with
    refuse := if s.ranker.refuse.contains (own, ctx) then s.ranker.refuse else (own, ctx) :: s.ranker.refuse
    go := s.ranker.go.map fun g => if mine g.slot then { g with quenched := true } else g
    tlb := tlbDrop s.ranker.tlb own 1 (BitVec.ofNat 12 ctx) 0, asked := if (s.ranker.go.map fun g => mine g.slot) = some true then none else s.ranker.asked } }

/-- A quench at a gateway: engine writes of the owner that come in over a Spire link are refused, whichever module's engine sent them, and those admitted are
waited for (R124 step 4). -/
def quenchGate (s : State) (own ctx : Nat) : State × Bool :=
  let s := { s with gateRefuse := if s.gateRefuse.contains (own, ctx) then s.gateRefuse else (own, ctx) :: s.gateRefuse }
  (s, !(s.pkts.any fun q => (q.src / 4096 != s.moduleNo.toNat || q.hopped.isSome) && !q.resp && (match q.body with
    | .engWrite _ c o _ => c == ctx && o == own
    | .counts _ c o => c == ctx && o == own
    | _ => false)))

/-- A quench at a party, and whether it acknowledges. -/
def quenchAt (s : State) (own ctx n : Nat) : State × Bool :=
  match partyEng n with
  | some e => quenchEngine s e own ctx
  | none =>
    if n = 272 then (quenchRanker s own ctx, true)
    else if n = 273 ∨ n = 274 then quenchGate s own ctx
    else ((List.range 16).foldl (fun s k => quenchChannel s ((n - 512) / 128) ((n - 512) % 128) ctx k) s, true)

/-- QUENCH_ARRIVAL (R124, R126): quench `arg.index` reaches party `arg.aux`, which acts, and acknowledges once its writes are answered. -/
def execQuenchArrival (s : State) : Host.Outcome State Fault Refusal :=
  match s.quenches[s.arg.index]? with
  | none => .next s
  | some (own, ctx, u, c, ack) =>
    let n := s.arg.aux
    if ack.contains n ∨ (partiesOf s own).contains n = false then .next s
    else
      match quenchAt s own ctx n with
      | (s, true) => .next { s with quenches := s.quenches.set s.arg.index (own, ctx, u, c, n :: ack) }
      | (s, false) => .next s

/-- Whether every party of a quench has acknowledged. -/
def quenchDone (s : State) (own : Nat) (ack : List Nat) : Bool := (partiesOf s own).all fun n => ack.contains n

/-- QUENCH_MESSAGE (R124 step 5): packet `arg.index`, a quench of another module's context, is handed to this module's control plane, and is acknowledged once
every party has applied it. -/
def execQuenchMessage (s : State) : Host.Outcome State Fault Refusal :=
  serving s fun s i q =>
    match q.body with
    | .quench ctx own =>
      (match s.quenches.findIdx? fun x => x.2.2.1 == 32 && x.2.2.2.1 == q.id with
       | none => { s with quenches := s.quenches ++ [(own, ctx, 32, q.id, [])] }
       | some k =>
         match s.quenches[k]? with
         | some (own, _, _, _, ack) => if quenchDone s own ack then answerPkt { s with quenches := s.quenches.eraseIdx k } i q 0x18 0 .ack else s
         | none => s)
    | _ => s

/-- DONE is set once no acknowledgement is outstanding, and what waits for QST.BUSY goes on (R125, R395). -/
def quenchSettled (s : State) (unit core : Nat) : State :=
  let c := s.core unit core
  if c.qBusy ∧ c.qLocal = false ∧ c.qPeers = 0 then
    wakeCore (s.modCore unit core fun c => { c with qBusy := false, qDone := true }) unit core fun w => w == .queue
  else s

/-- QUENCH_ACK (R124, R125): quench `arg.index` is acknowledged by every local unit; with `arg.flag` packet `arg.index` acknowledges a message. -/
def execQuenchAck (s : State) : Host.Outcome State Fault Refusal :=
  if s.arg.flag then
    answering s fun s i q =>
      match q.req.2.2, q.body with
      | .quench _ _, .ack =>
        let p := q.place
        quenchSettled ((dropPkt s i).modCoreAt p fun c => { c with qPeers := c.qPeers - 1 }) p.unit p.core
      | _, _ => s
  else
    match s.quenches[s.arg.index]? with
    | none => .next s
    | some (own, _, u, c, ack) =>
      if u = 32 ∨ quenchDone s own ack = false then .next s
      else .next (quenchSettled ({ s with quenches := s.quenches.eraseIdx s.arg.index }.modCore u c fun c => { c with qLocal := false }) u c)

end Sys2Proof.Machine
end

