-- ==== Sys2Proof/Machine/Reset.lean ====
section
/-! DEFINITION. Bed reset (R67, R177, R474 to R477), checkpoints (R478), clock and temperature (R479). -/

namespace Sys2Proof.Machine

/-! ### DRAIN (R476) -/

/-- The routers of a bed. -/
def bedRouters (bed : Nat) : List (Nat × Nat) := (List.range 128).map fun c => coreXY bed c

/-- Mesh links and edge ports by which a bed's router joins another bed, a rim die or a link die, each as its ends with the bed on the far side, if one is. -/
def routerBoundary (bed x y : Nat) : List (List (Nat × Nat × Nat) × Option Nat) :=
  ((List.range 4).filterMap fun d => match neighbour x y d with
    | some (x', y') => if (xyCore x' y').1 = bed then none else some ([(x, y, d), (x', y', (d + 2) % 4)], some (xyCore x' y').1)
    | none => none) ++
  (if (rimOf x y).isSome ∨ (linkOf x y).isSome then [([(x, y, 5)], none)] else [])

/-- The boundary of a bed. -/
def bedBoundary (bed : Nat) : List (List (Nat × Nat × Nat) × Option Nat) := (bedRouters bed).flatMap fun r => routerBoundary bed r.1 r.2

/-- Mark a bed's boundary down at both ends; the RESET event stands for it (R476). -/
def closeBoundary (s : State) (bed : Nat) : State :=
  let es := (bedBoundary bed).flatMap fun e => e.1
  { s with down := s.down ++ es.filter fun e => !s.down.contains e }

/-- Whether a place of the fabric lies in a bed. -/
def Loc.inBed (l : Loc) (bed : Nat) : Bool :=
  match l with
  | .router x y => (xyCore x y).1 == bed
  | .atCore x y => (xyCore x y).1 == bed
  | .atVault x y => (xyCore x y).1 == bed
  | _ => false

/-- What a source outside a bed sees of a packet of its own that a reset has discarded inside it: the answer, or the NACK of a request, would have met the boundary
(R94, R476). -/
def lostInside (s : State) (bed : Nat) (q : Pkt) : State :=
  if q.src / 128 % 32 = bed ∧ q.src / 4096 = s.moduleNo.toNat then s
  else loseResponse { s with pkts := s.pkts ++ [q] } s.pkts.length q bed

/-- Packets inside a bed, and those its matrix units hold, go. -/
def dropInside (s : State) (bed : Nat) : State :=
  let held := (s.cores.filter fun c => c.1 / 128 == bed).flatMap fun c => c.2.mx.remq ++ c.2.mx.ops.filterMap fun o => o.remote.map (·.1)
  let gone := s.pkts.filter (fun q => q.loc.inBed bed) ++ held
  let s := { s with pkts := s.pkts.filter (fun q => !(q.loc.inBed bed)),
                    retries := s.retries.filter fun r => !(r.pkt.src / 128 % 32 == bed && r.pkt.src / 4096 == s.moduleNo.toNat) }
  gone.foldl (fun t q => lostInside t bed q) s

/-- A thread that had landed in a bed is lost: its home slot leaves AWAY, and an event names it (R177).  For a gang of another bed it has ended. -/
def loseThread (s : State) (name : BitVec 15) (ctx : BitVec 12) (gang : Option (Nat × Nat)) : State :=
  let h := homePlace name
  let s := s.raise h.unit h.core h.slot 4 ctx.toNat (name.zeroExtend 64) 0
  gangEnded (releaseHome s name true) gang

/-- The landed and queued threads of a bed (R177). -/
def loseLanded (s : State) (bed : Nat) : State :=
  let queued := (s.bed bed).landing.flatMap fun e => e.2
  let landed := s.slots.filter fun e => e.1 / 1024 == bed && e.2.st != .free &&
    e.2.name != (⟨e.1 / 1024, e.1 / 8 % 128, e.1 % 8⟩ : Place).name && e.2.st != .away && e.2.st != .lost
  let s := landed.foldl (fun t e => loseThread t e.2.name e.2.th.ctx e.2.gang) s
  queued.foldl (fun t q => loseThread t (imageName q) (imageCtx q) (imageGang q)) s

/-- What a bed keeps through its reset: its reset registers, its staging buffer until that is drained, and its clock. -/
def Bed.kept (b : Bed) : Bed := { Bed.empty with rst := b.rst, stage := b.stage, clock := b.clock }

/-- Every slot, core and unit of a bed at its reset value (R67, R476); nothing elsewhere names a slot of the bed any more. -/
def emptyBed (s : State) (bed : Nat) : State :=
  let mine := fun (k : Nat) => k / 1024 == bed
  let drop : Tbl (List (Nat × Nat)) → Tbl (List (Nat × Nat)) := fun t =>
    (t.map fun e => (e.1, e.2.filter fun w => !(mine w.1))).filter fun e => e.2 != []
  let s := { s with
    slots := s.slots.filter (fun e => !(mine e.1))
    cores := Tbl.mapV (fun c => { c with scntWait := drop c.scntWait }) (s.cores.filter fun e => !(e.1 / 128 == bed))
    resvs := drop s.resvs
    waiters := drop s.waiters
    xstores := s.xstores.filter (fun x => !(x.place.unit == bed || x.unit == bed))
    xaborts := s.xaborts.filter (fun x => !(x.bed == bed))
    ld0 := s.ld0.filter (fun x => !(x.1 == bed))
    releases := s.releases.filter (fun x => !(x.1 == bed))
    quenches := s.quenches.filter (fun x => !(x.2.2.1 == bed)) }
  s.modBed bed Bed.kept

/-- A core at the start of DRAIN: its matrix unit's state and its commands are gone; its registers stand until CLEAR (R476). -/
def Core.drained (c : Core) : Core :=
  { c with mx := Matrix.empty, scntWait := [], steals := [], sbuf := [], tlbMiss := [], farMiss := [], chans := [], qBusy := false, ctBusy := none, dqRsv := 0,
           mbrsv := 0 }

/-- A bed at the start of DRAIN: no thread runs, and its engines' commands are abandoned.  Its launch queues, context table, barrier fabric and registers stand until
CLEAR (R476). -/
def drainBed (s : State) (bed : Nat) : State :=
  let t := emptyBed s bed
  let mine := fun (k : Nat) => k / 1024 == bed
  let t : State := { t with
                    slots := s.slots.map fun e => if mine e.1 then (e.1, e.2.emptied) else e
                    cores := s.cores.map fun e => if e.1 / 128 == bed then (e.1, e.2.drained) else (e.1, (Tbl.look t.cores e.1).getD e.2) }
  t.modBed bed fun _ => { s.bed bed with engines := [], graft := Engine.empty, landing := [], opBusy := none }

/-- The start of a reset (R475 to R477): the registers, the one RESET event, which goes to the link die 0 queue with the bed's source number, and DRAIN. -/
def startReset (s : State) (bed : Nat) (c m : Bool) : State :=
  let s := s.modBed bed fun b =>
    { b with gangs := [],
             rst := { b.rst with state := 1, reqc := c, reqm := m, count := if b.rst.count = BitVec.allOnes 32 then b.rst.count else b.rst.count + 1,
                                 rstts := s.ts, owed := false } }
  let s := s.pushEvent 24
    { stamp := s.ts, src := s.srcNum bed 0, slot := 0, fatal := true, ty := 0xA, ctx := 0, d0 := BitVec.ofNat 64 (b2n c + 2 * b2n m), d1 := 0 }
  drainBed (loseLanded (dropInside (closeBoundary s bed) bed) bed) bed

/-- A request to reset a bed (R477): a new reset while READY, else merged into the one under way. -/
def requestReset (s : State) (bed : Nat) (c m : Bool) : State :=
  if (s.bed bed).rst.state = 0 then startReset s bed c m
  else s.modBed bed fun b => { b with rst := { b.rst with reqc := b.rst.reqc || c, reqm := b.rst.reqm || m } }

/-- BED_RESET_REQUEST (R474, R476, R477): the control plane (`arg.flag`) or the management plane (`arg.flag2`), or both in one cycle, ask for a reset of bed
`arg.unit`. -/
def execBedResetRequest (s : State) : Host.Outcome State Fault Refusal :=
  if 12 ≤ s.arg.unit ∨ (s.arg.flag = false ∧ s.arg.flag2 = false) then .next s
  else .next (requestReset s s.arg.unit s.arg.flag s.arg.flag2)

/-! ### CLEAR (R67, R476) -/

/-- Whether a key names a byte of a bed's local memories or vaults. -/
def inBedMem (bed k : Nat) : Bool := decide (k < 12 * 2 ^ 36) && k / 2 ^ 36 == bed

/-- The memory of a bed as R67 leaves it: every byte zero or its table's default, valid check bits, every tag empty; reservations there end. -/
def clearBedMem (s : State) (bed : Nat) : State :=
  let s := { s with
    mem := s.mem.filter (fun c => !(inBedMem bed c.1))
    tags := s.tags.filter (fun w => !(inBedMem bed (8 * w)))
    errs := s.errs.filter (fun e => !(inBedMem bed e.1))
    lag := s.lag.filter (fun l => !(inBedMem bed l.key))
    slots := s.slots.map fun e => match e.2.resv with
      | some k => if inBedMem bed k then (e.1, { e.2 with resv := none }) else e
      | none => e }
  wakeIf s fun _ w => match w with
    | .reserve k => inBedMem bed k
    | _ => false

/-- Mark a bed's links and ports up again, but for those that join it to a bed still in reset (R102, R476). -/
def openBoundary (s : State) (bed : Nat) : State :=
  let still := (bedBoundary bed).flatMap fun e => match e.2 with
    | some b => if (s.bed b).rst.state = 0 then [] else e.1
    | none => []
  let far := (bedBoundary bed).flatMap fun e => e.1
  { s with down := s.down.filter fun e => still.contains e || !((xyCore e.1 e.2.1).1 == bed || far.contains e) }

/-- RESET_CLEAR (R67, R476, R479): once DRAIN has emptied the staging buffer of bed `arg.unit`, STATE becomes CLEAR; then the bed's state is established and the bed
is READY.  While the die is too hot, the bed is held. -/
def execResetClear (s : State) : Host.Outcome State Fault Refusal :=
  let bed := s.arg.unit
  let b := s.bed bed
  if 12 ≤ bed then .next s
  else if b.rst.state = 1 then
    (if b.stage.recs ≠ [] ∨ b.stage.held ≠ [] then .next s
     else .next (s.modBed bed fun b => { b with rst := { b.rst with state := 2 } }))
  else if b.rst.state ≠ 2 ∨ s.boot.hot then .next s
  else
    let s := clearBedMem (emptyBed s bed) bed
    let s := s.modBed bed fun b => { b with rst := { b.rst with state := 0, readyts := s.ts, owed := true } }
    .next (openBoundary s bed)

/-! ### Checkpoints (R97, R478) -/

/-- HBM bytes from an offset, as firmware reads them. -/
def hbmPeek (s : State) (off n : Nat) : List Byte :=
  (List.range n).map fun i => match s.hbmPlace 16 (off + i) with
    | some (_, st, a) => memGet s.mem (hbmKey st a)
    | none => 0

/-- A checkpoint's header at an HBM offset: MAGIC, BED, STAMP, NSEG, CHECK. -/
structure Ckpt where
  magic : Nat
  bed : Nat
  stamp : Nat
  segs : List (Nat × Nat × Nat)
  check : Nat
  listBytes : List Byte
deriving DecidableEq, Repr

/-- Read a checkpoint (R478): each segment is a destination, an HBM offset and a length. -/
def readCkpt (s : State) (off : Nat) : Ckpt :=
  let h := hbmPeek s off 32
  let rd := fun (l : List Byte) o n => ofBytes ((l.drop o).take n)
  let n := rd h 16 4
  let l := hbmPeek s (off + 32) (32 * n)
  { magic := rd h 0 2, bed := rd h 2 1 % 16, stamp := rd h 8 8, check := rd h 24 4, listBytes := l,
    segs := (List.range n).map fun i => (rd l (32 * i) 8, rd l (32 * i + 8) 8, rd l (32 * i + 16) 8) }

/-- Whether MAGIC, BED and CHECK are right and STAMP lies below RSTTS (R478). -/
def ckptGood (s : State) (bed : Nat) (c : Ckpt) : Bool :=
  c.magic == 0x4B43 && c.bed == bed && decide (c.stamp < (s.bed bed).rst.rstts.toNat) &&
  crc32c (c.listBytes ++ c.segs.flatMap fun g => hbmPeek s g.2.1 g.2.2) == c.check

/-- The better of two checkpoints: the greater STAMP, the earlier listed of equals. -/
def ckptBest : List Ckpt → Option Ckpt
  | [] => none
  | c :: r => match ckptBest r with
    | none => some c
    | some d => if d.stamp ≤ c.stamp then some c else some d

/-- Copy one segment on path CE; one that leaves the bed's memory is not copied. -/
def copySegment (s : State) (bed : Nat) (g : Nat × Nat × Nat) : State :=
  let r := decodeLa 31 0 (g.1 % 2 ^ 52)
  let inside := match r with
    | .core u _ w off => u == bed && w == 0 && decide (off + g.2.2 ≤ 2 ^ 20)
    | .vault b _ off => b == bed && decide (off + g.2.2 ≤ 2 ^ 26)
    | _ => false
  if inside then writeAt s 16 .ce r (hbmPeek s g.2.1 g.2.2) else s

/-- The Trellis copy of a bed is written again from the HBM copy (R97). -/
def restoreTrellis (s : State) (bed : Nat) : State :=
  let v := vaultKey bed 0 0
  let old := s.mem.filter fun c => decide (v ≤ c.1 ∧ c.1 < v + 0x800000)
  let new := (regionCells s (s.rimRegion 0 0)).filter fun c => decide (c.1 < 0x800000)
  let s := old.foldl (fun t c => t.put .ce c.1 [0]) s
  new.foldl (fun t c => t.put .ce (v + c.1) [c.2]) s

/-- CHECKPOINT_RESTORE (R97, R476, R478): after a reset of bed `arg.unit` firmware writes its Trellis copy, copies the checkpoint with the greatest qualifying STAMP of
the directory `arg.words` (HBM offsets of headers), and reports that STAMP, or 0. -/
def execCheckpointRestore (s : State) : Host.Outcome State Fault Refusal :=
  let bed := s.arg.unit
  if 12 ≤ bed ∨ (s.bed bed).rst.state ≠ 0 ∨ (s.bed bed).rst.owed = false then .next s
  else
    let s := restoreTrellis (s.modBed bed fun b => { b with rst := { b.rst with owed := false } }) bed
    let cs := (s.arg.words.map fun (w : Word) => readCkpt s w.toNat).filter fun c => ckptGood s bed c
    match ckptBest cs with
    | none => .next (s.tell 4 (bytesOf 8 0))
    | some c => .next ((c.segs.foldl (fun t g => copySegment t bed g) s).tell 4 (bytesOf 8 c.stamp))

/-! ### Clock and temperature (R479) -/

/-- CLOCK_REDUCTION (R479): the clock of bed `arg.unit` goes one step down, at a cycle in which none of its timed blocks is open. -/
def execClockReduction (s : State) : Host.Outcome State Fault Refusal :=
  let bed := s.arg.unit
  if 12 ≤ bed ∨ s.slots.any (fun e => e.1 / 1024 == bed && e.2.blk.isSome) then .next s
  else .next (s.modBed bed fun b => { b with clock := min 4 (b.clock + 1) })

/-- OVERTEMPERATURE_RESET (R479): every bed is reset by the management plane and held. -/
def execOvertemperatureReset (s : State) : Host.Outcome State Fault Refusal :=
  if s.boot.hot then .next s
  else .next ((List.range 12).foldl (fun t b => requestReset t b false true) (s.modBoot fun b => { b with hot := true }))

/-- OVERTEMPERATURE_RELEASE (R479): the beds are no longer held. -/
def execOvertemperatureRelease (s : State) : Host.Outcome State Fault Refusal := .next (s.modBoot fun b => { b with hot := false })

end Sys2Proof.Machine
end

