-- ==== Sys2Proof/Machine/Spire.lean ====
section
/-! DEFINITION. Frames that arrive on a Spire link (R71 to R73), and the packets their flits make up (R78, R90, R123, R124, R158, R181, R384, R403). -/

namespace Sys2Proof.Machine

/-! ### Frames (R71) -/

/-- Bits `hi` to `lo` of a frame. -/
def frameBits (f : BitVec 320) (hi lo : Nat) : Nat := bits f.toNat hi lo

/-- Whether a frame's CRC is that of its bits 287 to 0. -/
def frameGood (f : BitVec 320) : Bool := crc32c (bytesOf 36 f.toNat) == frameBits f 319 288

/-- What an accepted frame returns: acknowledged replay slots leave the replay buffer, and credits come back (R72, R73). -/
def Spire.returns (x : Spire) (f : BitVec 320) : Spire :=
  let a := frameBits f 277 270
  let x := if f.getLsbD 278 ∧ x.txBuf.any (fun g => frameSlot g.1 == a) then
      { x with txBuf := (x.txBuf.dropWhile fun g => frameSlot g.1 != a).drop 1 } else x
  let c := frameBits f 281 279
  { x with credits := Tbl.set x.credits c (min 64 (Tbl.get 64 x.credits c + frameBits f 285 282)) }

/-! ### Packets (R78) -/

/-- The fields of a header flit, and the payload flits' bytes, lowest first. -/
def flitField (f : BitVec 256) (hi lo : Nat) : Nat := bits f.toNat hi lo
def flitBytes (f : BitVec 256) : List Byte := bytesOf 32 f.toNat

/-- Payload flit `n`. -/
def payFlit (l : List (BitVec 256)) (n : Nat) : BitVec 256 := l.getD n 0

/-- The path of an engine's access that its code names. -/
def pathOfCode (n : Nat) : Path := if n = 1 then .se else if n = 2 then .ge else .ce

/-- An engine's data write (R123): the bytes of its mask, each with its mask, which NIB narrows to nibbles.  The engine's path in bits 27:26 of payload 0, and bit 25
for the counts of a stash command, are the model's: no rule carries either (DESIGN CHOICE, assumption 164). -/
def wireWrite (info : Word) (l : List (BitVec 256)) : Body :=
  let p := payFlit l 0
  if p.getLsbD 25 then
    .counts (flitField (payFlit l 1) 31 0, flitField (payFlit l 1) 63 32, flitField (payFlit l 1) 95 64) (flitField p 11 0) (flitField p 23 12)
  else
  let data := flitBytes (payFlit l 1) ++ flitBytes (payFlit l 2)
  let maskOf := fun i => if p.getLsbD 24 then BitVec.ofNat 8 (b2n (p.getLsbD (128 + 2 * i)) * 0x0F + b2n (p.getLsbD (129 + 2 * i)) * 0xF0) else 0xFF
  .engWrite (((List.range 64).filter fun i => info.getLsbD i).map fun i => (i, maskOf i, data.getD i 0)) (flitField p 11 0) (flitField p 23 12) (pathOfCode (flitField p 27 26))

/-- The starting lane of leg `k`, from the lanes at bit `at'` of payload 0 (assumption 141). -/
def wireLane (l : List (BitVec 256)) (at' k : Nat) : Nat := flitField (payFlit l 0) (at' + 2 * k + 1) (at' + 2 * k)

/-- The legs a command carries: the destination leg is number 8.  An empty string is no leg. -/
def wireLegs (l : List (BitVec 256)) : List (Nat × BitVec 256 × Nat) :=
  let mask := flitField (payFlit l 0) 167 160
  let ks := 8 :: (List.range 8).filter fun k => mask.testBit k
  ((List.range ks.length).map fun i => (ks.getD i 0, payFlit l (5 + i), wireLane l 168 (ks.getD i 0))).filter fun g => g.2.1 != 0

/-- A copy command (R104, R123). -/
def wireCopy (src slot dest : Nat) (info : Word) (l : List (BitVec 256)) : Cmd :=
  let w2 := flitField (payFlit l 0) 63 0
  let w3 := flitField (payFlit l 0) 127 64
  let desc := fun i => tensorOf ((payFlit l i).toNat + (payFlit l (i + 1)).toNat * 2 ^ 256)
  let s := if w2.testBit 17 then none else some (desc 1)
  let d := if w2.testBit 22 then none else some (desc 3)
  { op := .copy, words := (BitVec.ofNat 64 w2, BitVec.ofNat 64 w3), place := ⟨src / 128 % 32, src % 128, slot⟩, ownMod := bits info.toNat 23 12, ctx := bits info.toNat 11 0, chan := bits info.toNat 27 24,
    engUnit := bits w2 12 8, engIx := bits w2 7 4, src := s, dst := d, sfifo := if w2.testBit 17 then some (bits w2 16 13) else none,
    dfifo := if w2.testBit 22 then some (bits w2 27 23, bits w2 21 18) else none, ddesc := 0,
    bar := if w2.testBit 39 then some (bits w2 38 28) else none, ck := bits w2 41 40, first := w2.testBit 42, last := w2.testBit 43,
    expect := bits w3 31 0, dleg := if w2.testBit 52 then some (0x700 + bits w2 51 44) else none,
    legBase := if w2.testBit 61 then some (0x700 + bits w2 60 53) else none, cmdEntry := dest, region := 0, loc := 0, firstEl := 0, count := 0,
    ofmt := false, regData := none, image := (0, 0), range := if zeroBox s d then none else d.map tensorRange,
    carry := flitField (payFlit l 0) 159 128, legs := wireLegs l, mod := none }

/-- A stash command (R123, R133, R397), with its operands as `Cmd.operands` lays them out; the register form's elements are the four flits after the legs. -/
def wireStash (src slot dest : Nat) (info : Word) (l : List (BitVec 256)) : Cmd :=
  let w2 := flitField (payFlit l 0) 63 0
  let w3 := flitField (payFlit l 0) 127 64
  let w := fun (i k : Nat) => BitVec.ofNat 64 (flitField (payFlit l i) (64 * k + 63) (64 * k))
  let what := flitField (payFlit l 1) 129 128
  let reg := (payFlit l 1).getLsbD 130
  let legs := (List.range 8).filter fun k => (payFlit l 0).getLsbD (160 + k)
  let fifo := if w2.testBit 16 ∧ reg = false then some (bits w2 15 12) else none
  { op := if what = 1 then .stashOpen else if what = 3 then .restore else .stash, words := (BitVec.ofNat 64 w2, BitVec.ofNat 64 w3),
    place := ⟨src / 128 % 32, src % 128, slot⟩, ownMod := bits info.toNat 23 12, ctx := bits info.toNat 11 0, chan := bits info.toNat 27 24,
    engUnit := bits w2 11 7, engIx := bits w2 6 4, src := none, dst := none, sfifo := if what = 2 then fifo else none,
    dfifo := if what = 3 then fifo.map fun n => (bits w2 11 7, n) else none, ddesc := 0, bar := if w2.testBit 28 then some (bits w2 27 17) else none,
    ck := 0, first := false, last := false, expect := 0, dleg := if w2.testBit 48 then some (0x700 + bits w2 47 40) else none,
    legBase := if w2.testBit 57 then some (0x700 + bits w2 56 49) else none, cmdEntry := dest, region := w 1 0, loc := w 1 1, firstEl := bits w3 31 0,
    count := bits w3 63 32, ofmt := w2.testBit 29, regData := if reg then some ((l.drop (6 + legs.length)).flatMap flitBytes) else none,
    image := (w 2 0, w 2 1), range := if (payFlit l 3).getLsbD 128 then some (w 3 0, w 3 1) else none, carry := 0, legs := wireLegs l, mod := none }

/-- What the control planes of two modules say to each other, by bits 31:29 of INFO: a fill (R162), a snapshot request (R142), a pair (R152), a probe (R135).  No rule
lays these out; the form is the model's (DESIGN CHOICE, assumption 164). -/
def wireControl (what : Nat) (info : Word) (l : List (BitVec 256)) : Body :=
  let ws := wordsOf (l.flatMap flitBytes)
  let w := fun k => ws.getD k 0
  let ctx := bits info.toNat 11 0
  let own := bits info.toNat 23 12
  if what = 1 then .fill (w 0) (w 1) (w 2) own
  else if what = 2 then .snap (w 0) ((w 1).truncate 32)
  else if what = 3 then .pair (ws.take 8) ((w 8).truncate 32) (BitVec.ofNat 32 ((w 8).toNat / 2 ^ 32)) (w 9).toNat (w 10).toNat ctx own
  else if what = 4 then
    let mask := (w 1).toNat
    let ks := (List.range 6).filter fun k => mask.testBit k
    .probe (w 0) ctx own ((List.range ks.length).map fun i => (ks.getD i 0, payFlit l (1 + i), wireLane l 128 (ks.getD i 0)))
  else .none

/-- What a request that arrives from another module carries; a kind or command whose payload no rule lays out between modules carries nothing here. -/
def wireRequest (kind src slot dest : Nat) (info : Word) (l : List (BitVec 256)) : Body :=
  if kind = 1 then .miss (wordsOf (flitBytes (payFlit l 0)))
  else if kind = 5 then
    if info.getLsbD 28 then .quench (bits info.toNat 11 0) (bits info.toNat 23 12)
    else if 0 < bits info.toNat 31 29 then wireControl (bits info.toNat 31 29) info l
    else
      match engOfDest dest with
      | some e => .cmd (if e.kind = 0 then wireCopy src slot dest info l else wireStash src slot dest info l)
      | none => .none
  else if kind = 6 then wireWrite info l
  else if kind = 7 then .engRead (bits info.toNat 5 0 + 1) (bits info.toNat 17 6) (bits info.toNat 29 18) (pathOfCode (flitField (payFlit l 0) 65 64))
  else if kind = 0x10 then .message (l.flatMap flitBytes)
  else if kind = 0x11 then .bulk (l.flatMap flitBytes)
  else if kind = 0x13 then .mcmd (info.truncate 32) (BitVec.ofNat 64 (flitField (payFlit l 0) 63 0)) none
  else .none

/-- The region stamp a request carries (R181). -/
def wireStamp (kind : Nat) (l : List (BitVec 256)) : Word :=
  if kind = 6 then BitVec.ofNat 64 (flitField (payFlit l 0) 127 64) else if kind = 7 then BitVec.ofNat 64 (flitField (payFlit l 0) 63 0) else 0

/-- The body of a request, if it is known. -/
def reqBody (q : Option Pkt) : Body :=
  match q with
  | some q => q.body
  | none => .none

/-- What a response carries to a request, if that is known (R90, R123). -/
def wireResponse (kind : Nat) (req : Option Pkt) (info : Word) (l : List (BitVec 256)) : Body :=
  let bs := l.flatMap flitBytes
  let p := payFlit l 0
  if kind = 0x1A then .nack (bits info.toNat 3 0) (bits info.toNat 10 4) (bits info.toNat 15 11) 32
  else if kind = 0x18 then
    (if l = [] then .ack
     else if p.getLsbD 69 then .missed (wordsOf (flitBytes (payFlit l 1)))
     else
       let four := fun lo => (List.range 4).map fun i => flitField (payFlit l 1) (lo + 16 * i + 15) (lo + 16 * i)
       .progress (BitVec.ofNat 64 (flitField p 63 0)) (flitField p 67 64) (p.getLsbD 68) (flitField p 127 96) (BitVec.ofNat 64 (flitField p 191 128))
         (BitVec.ofNat 64 (flitField p 255 192)) (if 2 ≤ l.length then some (four 0, four 64) else none)
         (match reqBody req with
          | .cmd c => c.chan
          | _ => 0))
  else if l = [] then .bad
  else
    match reqBody req with
    | .engRead n _ _ _ => .data (bs.take n)
    | .load n _ => .data (bs.take n)
    | .rmw _ => .value (word64 (bs.take 8))
    | _ => .data bs

/-- Whether a packet that left is the one whose answer, or which itself, now comes back. -/
def outboxMatch (src slot iport : Nat) (q : Pkt) : Bool := !q.resp && q.src == src && q.slot == slot && q.iport == iport

/-- A packet's place and header from its first two flits (R78). -/
def wirePkt (n die : Nat) (route h : BitVec 256) (len : Nat) : Pkt :=
  let f := flitField h
  { route := route, lane := f 1 0, resp := h.getLsbD 2, kind := f 7 3, len := len, hop := f 19 13, last := f 21 20, lastv := h.getLsbD 22,
    xpl := h.getLsbD 23, src := f 47 24, slot := f 50 48, iport := f 52 51, dest := f 107 56, dmod := f 119 108, stamp := BitVec.ofNat 64 (f 191 128),
    info := BitVec.ofNat 64 (f 255 192), body := .none, loc := .gateway die true false, route0 := route, lane0 := f 1 0, entry := none, id := n, hopped := some false, rstamp := 0,
    gone := 0, got := [], req := (0, 0, .none) }

/-- Whether the gateways refuse what comes in over a Spire link: a data write of a quenched owner (R124). -/
def gateRefuses (s : State) : Body → Bool
  | .engWrite _ ctx own _ => s.gateRefuse.contains (own, ctx)
  | .counts _ ctx own => s.gateRefuse.contains (own, ctx)
  | _ => false

/-- A request arrives: one of this module's own is the packet that left; the gateway refuses a data write of a quenched owner (R124). -/
def requestArrives (s : State) (q : Pkt) (l : List (BitVec 256)) : State :=
  let mine := s.outbox.findIdx? fun o => outboxMatch q.src q.slot q.iport o && o.kind == q.kind && o.dest == q.dest && o.stamp == q.stamp
  match mine.bind fun k => s.outbox[k]?.map fun o => (k, o) with
  | some (k, o) =>
    let q := { q with body := o.body, id := o.id, entry := o.entry, rstamp := o.rstamp, route0 := o.route0, lane0 := o.lane0, gone := o.gone }
    { s with pkts := s.pkts ++ [if gateRefuses s q.body then nackOf q 5 else q],
             outbox := s.outbox.eraseIdx k }
  | none =>
    let q := { q with body := wireRequest q.kind q.src q.slot q.dest q.info l, rstamp := wireStamp q.kind l }
    { s with pkts := s.pkts ++ [if gateRefuses s q.body then nackOf q 5 else q] }

/-- A response arrives: it answers the oldest request of its source that left at the place to which its remaining items lead back (R80, R81). -/
def responseArrives (s : State) (q : Pkt) (l : List (BitVec 256)) : State :=
  let mine := s.outbox.findIdx? fun o => outboxMatch q.src q.slot q.iport o && o.hop == q.hop + 1
  match mine.bind fun k => s.outbox[k]?.map fun o => (k, o) with
  | some (k, o) =>
    let b := wireResponse q.kind (some o) q.info l
    let past : Bool := match b with
      | .progress _ _ fin _ _ _ _ _ => fin
      | .missed _ => false
      | _ => true
    { s with pkts := s.pkts ++ [{ q with body := b, id := o.id, entry := o.entry, rstamp := o.rstamp, route0 := o.route0, lane0 := o.lane0,
                                         dest := o.dest, dmod := o.dmod, req := (o.kind, o.len, o.body) }],
             outbox := if past then s.outbox.eraseIdx k else s.outbox }
  | none => { s with pkts := s.pkts ++ [{ q with body := wireResponse q.kind none q.info l }] }.tick

/-- The flits of one lane and class make up a packet (R71, R78). -/
def packetArrives (s : State) (die : Nat) (fs : List (BitVec 256)) : State :=
  match fs with
  | route :: h :: l =>
    let q := wirePkt s.free die route h l.length
    if q.resp then responseArrives s q l else requestArrives s q l
  | _ => s

/-! ### SPIRE_FRAME_RECEIVE (R72) -/

/-- An accepted frame's flit joins those of its lane and class; the last one completes its packet, whose flits leave the gateway's input, so that their credits
go back.  A frame without a flit carries the acknowledgement at once (R71 to R73). -/
def acceptFrame (s : State) (die link : Nat) (f : BitVec 320) : State :=
  let x := s.spire die link
  let ix := frameBits f 258 256
  let flit := f.truncate 256
  let got := if f.getLsbD 259 then [flit] else Tbl.get [] x.rx ix ++ [flit]
  let x := { x with rxSlot := frameBits f 269 262, rxAny := true, rxDiscard := false, rx := if f.getLsbD 260 then Tbl.erase x.rx ix else Tbl.set x.rx ix got,
                    owed := if f.getLsbD 260 then Tbl.set x.owed ix (Tbl.get 0 x.owed ix + got.length) else x.owed }
  let s := s.setSpire die link x.sendIdle
  if f.getLsbD 260 then packetArrives s die got else s

/-- SPIRE_FRAME_RECEIVE (R71 to R73): frame `arg.wide` arrives on link `arg.index` of link die `arg.unit`.  It is discarded when its CRC fails, and then every one
until the next in order; a frame that is not the next in order is one resent, and is discarded too. -/
def execSpireFrameReceive (s : State) : Host.Outcome State Fault Refusal :=
  let d := s.arg.unit
  let l := s.arg.index
  let f := s.arg.wide
  let x := s.spire d l
  if 2 ≤ d ∨ 12 ≤ l ∨ x.state ≠ 2 then .next s
  else if frameGood f = false then .next (s.setSpire d l { x with rxDiscard := true })
  else if f.getLsbD 261 then (if x.rxDiscard then .next s else .next (s.setSpire d l (x.returns f)))
  else if frameBits f 269 262 ≠ (x.rxSlot + 1) % 256 then .next s
  else .next (acceptFrame (s.setSpire d l (x.returns f)) d l f)

end Sys2Proof.Machine
end

