-- ==== Sys2Proof/Machine/Sync.lean ====
section
/-! DEFINITION. Barriers (R336 to R340) and slot counters (R341). -/

namespace Sys2Proof.Machine

/-- The descriptor-error trap of a barrier instruction; it has no block in memory, so `eaddr` is the PC of the word (assumption 8). -/
def State.barError (s : State) (sub : Nat) : Res := .trap s (Trap.of 14 sub s.wordPc)

/-- The checks of `bar.init` (R218, R337, R472): the number of the first that fails. -/
def barInitRefused (s : State) (p : Place) (n : Nat) (v : Word) : Option Nat :=
  let b := s.bar p.unit p.core n
  let kind := bits v.toNat 17 16
  let level := bits v.toNat 19 18
  let dom := (Tbl.get 0 (s.coreAt p).doms level).toNat
  if v.toNat / 2 ^ 21 ≠ 0 ∨ kind = 3 ∨ (bits v.toNat 15 0 = 0 ∧ kind ≠ 0) ∨ (v.getLsbD 20 ∧ kind ≠ 2) then some 1
  else if (List.range 8).any (fun k => (s.slot ⟨p.unit, p.core, k⟩).wait == some (.barrier n)) ∨ b.arrived ≠ 0 ∨ b.cdone then some 2
  else if kind = 2 ∧ (31 < n ∨ 12 ≤ p.unit ∨ dom.testBit 13 = false ∨ (dom.testBit 12 ∧ s.feat.getLsbD 10 = false) ∨
      (s.bed p.unit).dtab.all (fun e => !(e.2.v && e.2.w0.toNat % 2 ^ 12 == dom % 2 ^ 12 && bits e.2.w0.toNat 13 12 == level &&
        e.2.w0.getLsbD 14 == dom.testBit 12))) then some 3
  else none

/-- BAR_INIT (R337). -/
def execBarInit (a : BitVec 5) (n : BitVec 11) (s : State) : Host.Outcome State Fault Refusal :=
  word (.barInit a n) s fun s =>
    let p := s.cur.place
    let v := s.opG a
    match barInitRefused s p n.toNat v with
    | some k => s.barError k
    | none =>
      let b := s.bar p.unit p.core n.toNat
      .ok (s.setBar p.unit p.core n.toNat
        { b with count := bits v.toNat 15 0, kind := bits v.toNat 17 16, level := bits v.toNat 19 18, xalign := v.getLsbD 20, arrived := 0,
                 cdone := false, owed := false })

/-- BAR_ARRIVE: a release at `.m`, then one arrival, on a domain's barrier with the core's store buffer empty; the token is the phase's name (R199, R206, R219, R339). -/
def execBarArrive (d : BitVec 5) (n : BitVec 11) (s : State) : Host.Outcome State Fault Refusal :=
  word (.barArrive d n) s fun s =>
    let p := s.cur.place
    let b := s.bar p.unit p.core n.toNat
    if b.kind = 0 then s.barError 1
    else if allPerformed s p = false ∨ (b.kind = 2 ∧ (s.coreAt p).sbuf ≠ []) then s.waitFor .drain false
    else if b.cdone then s.waitFor (.barrier n.toNat) true
    else if b.owed then s.waitFor .time true
    else
      let tok := b.donets
      let s := s.modHere fun x => { x with arvBar := n.toNat, arvV := true, arvName := tok }
      let s := s.release (barrierKey s p.unit p.core n.toNat) (s.pending (s.knows s.here.name.toNat))
      .ok ((arriveBar s p.unit p.core n.toNat).setG d tok)

/-- The token of `bar.wait` and `bar.try`, when the operand or the arrival record gives one (R340), and whether the record gave it. -/
def barToken (s : State) (a : BitVec 5) (n : Nat) : Option Word × Bool :=
  if a ≠ 0 then (some (s.opG a), false)
  else if s.here.arvV ∧ s.here.arvBar = n then (some s.here.arvName, true)
  else (none, false)

/-- The cores of a bed that are members of a domain (R221). -/
def domainCores (s : State) (bed level dom : Nat) : List Nat :=
  (List.range 128).filter fun c =>
    let d := Tbl.get 0 (s.core bed c).doms level
    d.getLsbD 13 && d.toNat % 2 ^ 12 == dom

/-- Completing a wait on a domain's barrier makes the exchange stores to its members' memories performed for the LS reads of every member (R203, R206). -/
def closePhase (s : State) (p : Place) (b : Bar) : State :=
  if b.kind = 2 ∧ s.lag.any (fun l => l.writer == .xp) then
    let ms := domainCores s p.unit b.level ((Tbl.get 0 (s.coreAt p).doms b.level).toNat % 2 ^ 12)
    performOn s (ms.map (unitKey p.unit)) fun l => l.writer == .xp && ms.any fun c => decide (coreKey p.unit c 0 ≤ l.key ∧ l.key < coreKey p.unit c 0 + 2 ^ 20)
  else s

/-- BAR_WAIT (R199, R201, R206, R223, R340). -/
def execBarWait (a : BitVec 5) (n : BitVec 11) (s : State) : Host.Outcome State Fault Refusal :=
  word (.barWait a n) s fun s =>
    let p := s.cur.place
    let b := s.bar p.unit p.core n.toNat
    if b.kind = 0 then s.barError 1
    else
      let (tok, fromRec) := barToken s a n.toNat
      let woken := heldValue s.here.resp
      let past : Bool := match tok with
        | some t => decide (t.toNat < b.donets.toNat)
        | none => woken.isSome
      if past then
        let s := if fromRec then s.modHere fun x => { x with arvV := false } else s
        let s := closePhase s p b
        let s := acquireKeys s p [barrierKey s p.unit p.core n.toNat]
        let s := s.modHere fun x => { x with lastBlk := match x.lastBlk with
          | some (a, l, d) => if b.kind = 2 ∧ b.level = l then none else some (a, l, d)
          | none => none }
        let cut := (s.here.cut.map (·.1)) == some n.toNat
        let s := if cut then s.modHere fun x => { x with cut := none } else s
        if woken = some 1 ∧ cut = false then .aligned s n.toNat else .ok s
      else
        let s := if s.here.cut = some (n.toNat, b.donets) then s else s.modHere fun x => { x with cut := none }
        s.waitFor (.barrier n.toNat) true

/-- BAR_TRY: one that finds the phase complete is an acquire (R199, R201, R340). -/
def execBarTry (d a : BitVec 5) (n : BitVec 11) (s : State) : Host.Outcome State Fault Refusal :=
  word (.barTry d a n) s fun s =>
    let p := s.cur.place
    let b := s.bar p.unit p.core n.toNat
    if b.kind = 0 then s.barError 1
    else
      let (tok, fromRec) := barToken s a n.toNat
      let past : Bool := match tok with
        | some t => decide (t.toNat < b.donets.toNat)
        | none => false
      let s := if past ∧ fromRec then s.modHere fun x => { x with arvV := false } else s
      let s := if past then acquireKeys s p [barrierKey s p.unit p.core n.toNat] else s
      .ok (s.setG d (truth past))

/-! ### Slot counters -/

/-- A slot-counter operation (R229, R324, R341): at this core, or by a request to another core of the bed or rim die; one that takes is an
acquire (R229). -/
def counterOp (i : Instr) (a : BitVec 5) (op : Rmw) (n : Nat) (s : State) (f : State → Word → Res) : Host.Outcome State Fault Refusal :=
  word i s fun s =>
    let p := s.cur.place
    let core := (s.opG a).toNat % 128
    if coresOf p.unit ≤ core then .trap s (Trap.of 5 0 s.wordPc)
    else
      let taken := fun (s : State) (v : Word) => f (acquireKeys s p [counterKey p.unit core n]) v
      match heldValue s.here.resp with
      | some v => taken s v
      | none =>
        if rmwReady s p op = false then s.waitFor .drain false
        else if core = p.core then
          match rmwCounter s (slotKey p) p.unit core op with
          | (s, .value v) => taken s v
          | (s, .park w) => s.waitFor w true
          | (s, .bad) => s.waitFor .counter true
        else if s.here.blk.isSome then .trap s (s.blockTrap 5 s.wordPc)
        else
          let r : Rng := .page p.unit core (0x2000 + 8 * n)
          request s r (if p.unit < 12 then p.unit * 2 ^ 36 + core * 2 ^ 24 + 2 ^ 23 + 0x2000 + 8 * n
                       else 0x1F * 2 ^ 44 + (p.unit - 16) * 2 ^ 28 + core * 2 ^ 20 + 0x80000 + 0x2000 + 8 * n) 2 1 (.rmw op) true

/-- SLOT_TAKE (R341). -/
def execSlotTake (d a : BitVec 5) (c : BitVec 6) (s : State) :=
  counterOp (.slotTake d a c) a (.take c.toNat) c.toNat s fun s v => .ok (s.setG d v)
/-- SLOT_GIVE (R341). -/
def execSlotGive (a : BitVec 5) (c : BitVec 6) (s : State) :=
  counterOp (.slotGive a c) a (.give c.toNat) c.toNat s fun s _ => .ok s
/-- SLOT_TRY (R341). -/
def execSlotTry (d a : BitVec 5) (c : BitVec 6) (s : State) :=
  counterOp (.slotTry d a c) a (.try c.toNat) c.toNat s fun s v => .ok (s.setG d v)

end Sys2Proof.Machine
end

