-- ==== Sys2Proof/Machine/System.lean ====
section
/-! DEFINITION. Follow mode and going home (R410), system control (R411 to R413) and the special registers (R414 to R416). -/

namespace Sys2Proof.Machine

/-! ### Follow mode and going home (R225, R226, R410) -/

/-- The leader's slot of a slot's row (R224). -/
def leaderOf (p : Place) : Place := ⟨p.unit, p.core / 8 * 8, p.slot⟩

/-- Whether a slot holds a live thread of another context than `c`. -/
def otherContext (x : Slot) (c : BitVec 12) : Bool := (x.st == .run || x.st == .wait) && x.th.ctx != c

/-- FOLLOW: no effect on a row leader, nor for a slot that already follows; a leader of another context ends the join at once (R225, R410). -/
def execFollow (s : State) : Host.Outcome State Fault Refusal :=
  word .follow s fun s =>
    let p := s.cur.place
    if p.core % 8 = 0 ∨ s.here.folState ≠ 0 then .ok s
    else
      s.outsideBlock 5 fun s =>
        if otherContext (s.slot (leaderOf p)) s.ctx then .ok (s.modHere fun x => { x with folReason := 7, folLeft := true })
        else .ok (s.modHere fun x => { x with folState := 1 })

/-- Whether a leader's slot has followers. -/
def hasFollowers (s : State) (p : Place) : Bool :=
  p.heavy && p.core % 8 == 0 && (List.range 7).any fun k => (s.slot ⟨p.unit, p.core + k + 1, p.slot⟩).folState == 2

/-- UNFOLLOW: a follower leaves with REASON 2; a leader with followers stops its stream (R226, R410). -/
def execUnfollow (s : State) : Host.Outcome State Fault Refusal :=
  word .unfollow s fun s =>
    let p := s.cur.place
    if s.here.folState ≠ 0 then s.outsideBlock 5 fun s => .ok (leaveFollow s p 2)
    else if hasFollowers s p then s.outsideBlock 5 fun s => .ok (stopStream s p)
    else .ok s

/-- HOME: a light thread away from home migrates to its home slot; elsewhere no effect (R175, R410). -/
def execHome (s : State) : Host.Outcome State Fault Refusal :=
  word .home s fun s =>
    let p := s.cur.place
    if p.heavy ∨ s.away p = false then .ok s
    else
      let h := homePlace s.here.name
      migrate s (.core h.unit h.core 0 0) (resolveLa h.unit h.core (0x0F * 2 ^ 44)) false s.wordPc

/-! ### System control -/

/-- YIELD: with n above 0 the slot sits out n cycles, in RUN (R411). -/
def execYield (n : BitVec 11) (s : State) : Host.Outcome State Fault Refusal :=
  word (.yield n) s fun s =>
    s.outsideBlock 5 fun s => .ok (if n = 0 then s else { s with cur := { s.cur with rest := true } })

/-- TRAP: the user trap, once the bundle is complete (R251, R412). -/
def execTrap (n : BitVec 11) (s : State) : Host.Outcome State Fault Refusal :=
  word (.trap n) s fun s => .after s 18 n.toNat

/-- SYS: the system call, once the bundle is complete (R251, R412). -/
def execSys (n : BitVec 11) (s : State) : Host.Outcome State Fault Refusal :=
  word (.sys n) s fun s => .after s 19 n.toNat

/-- ERET: the target is checked in system mode, after TD has been cleared, then the mode is restored (R254, R286, R413).  A block it ends is aborted, and no rule states
the cause and SUB that abort names, which are free (R391).  TD stays cleared when the target's check traps (assumption 190). -/
def execEret (s : State) : Host.Outcome State Fault Refusal :=
  word .eret s fun s =>
    let p := s.cur.place
    match jumpTo s s.here.th.epc fun s =>
      if s.here.blk.isSome then
        let w := (Config.freeWord s.free).toNat
        let s := (abortBlock s p (w % 256) (w / 256 % 65536)).tick
        trapReturn (s.modHere fun x => { x with blk := none }) p
      else trapReturn s p with
    | .trap s t => .trap (s.modTh fun th => { th with td := false }) t
    | r => r

/-- HALT: once every earlier access has been performed, the thread ends (R244, R252, R256, R413). -/
def execHalt (s : State) : Host.Outcome State Fault Refusal :=
  word .halt s fun s =>
    s.outsideBlock 5 fun s =>
      let p := s.cur.place
      if s.here.pkt.isSome then s.illegal 4
      else if allPerformed s p = false then .wait s .drain true
      else .gone (endThread (stopStream s p) p false)

/-! ### Special registers -/

/-- The value of a special register (R415); `fit` and `mstat` read zero on a rim core. -/
def State.srRead (s : State) (n : Nat) : Word :=
  let p := s.cur.place
  let t := s.here.th
  if n = 0 then s.here.name.zeroExtend 64
  else if n = 1 then s.locWord p
  else if n = 2 then t.ctx.zeroExtend 64
  else if n = 3 then s.statusWord p
  else if n = 8 then t.epc
  else if n = 9 then t.ecause
  else if n = 0xA then t.eaddr
  else if n = 0xB then t.tvec
  else if n = 0x10 then (if p.rim then 0 else (s.coreAt p).fit)
  else if n = 0x11 then s.ts
  else if n = 0x18 then t.xlb
  else if n = 0x19 then t.xll
  else if n = 0x1A then t.xlc
  else if 0x20 ≤ n ∧ n < 0x30 then ((s.coreAt p).chan (n - 0x20)).wm
  else if n = 0x30 then (if p.rim then 0 else (s.coreAt p).mx.status)
  else 0

/-- A write of a special register (R270, R368, R415, R416); read-only registers and fields ignore it. -/
def State.srWrite (s : State) (n : Nat) (v : Word) : State :=
  let p := s.cur.place
  if n = 3 then s.modTh fun t => { t with pm := v.getLsbD 1, td := v.getLsbD 2 }
  else if n = 8 then s.modTh fun t => { t with epc := v }
  else if n = 9 then s.modTh fun t => { t with ecause := v &&& 0xFFFF07FF }
  else if n = 0xA then s.modTh fun t => { t with eaddr := v }
  else if n = 0xB then s.modTh fun t => { t with tvec := v &&& ~~~3 }
  else if n = 0x10 then (if p.rim then s else s.modCoreAt p fun c => { c with fit := v })
  else if n = 0x18 then s.modTh fun t => { t with xlb := v &&& 0xFFFF8 }
  else if n = 0x19 then s.modTh fun t => { t with xll := BitVec.ofNat 64 (min (v.toNat % 2 ^ 17) 122880) }
  else if n = 0x1A then s.modTh fun t => { t with xlc := v }
  else if n = 0x30 then
    (if p.rim = false ∧ v.getLsbD 0 then s.modCoreAt p fun c => { c with mx := { c.mx with ovf := false } } else s)
  else s

/-- MFSR (R414). -/
def execMfsr (d : BitVec 5) (n : BitVec 8) (s : State) : Host.Outcome State Fault Refusal :=
  word (.mfsr d n) s fun s => .ok (s.setG d (s.srRead n.toNat))

/-- MTSR (R414). -/
def execMtsr (a : BitVec 5) (n : BitVec 8) (s : State) : Host.Outcome State Fault Refusal :=
  word (.mtsr a n) s fun s => .ok (s.srWrite n.toNat (s.opG a))

end Sys2Proof.Machine
end

