-- ==== Sys2Proof/Machine/Dispatch.lean ====
section
/-! DEFINITION. The one match from an instruction to its meaning. -/

namespace Sys2Proof.Machine

def exec (i : Instr) (s : State) : Host.Outcome State Fault Refusal :=
  match i with
  | .b o => Sys2Proof.Machine.execB o s
  | .bl o => Sys2Proof.Machine.execBl o s
  | .br a imm => Sys2Proof.Machine.execBr a imm s
  | .brl d a imm => Sys2Proof.Machine.execBrl d a imm s
  | .beq a b o => Sys2Proof.Machine.execBeq a b o s
  | .bne a b o => Sys2Proof.Machine.execBne a b o s
  | .blt a b o => Sys2Proof.Machine.execBlt a b o s
  | .bge a b o => Sys2Proof.Machine.execBge a b o s
  | .bltn a b o => Sys2Proof.Machine.execBltn a b o s
  | .bgen a b o => Sys2Proof.Machine.execBgen a b o s
  | .bz a o => Sys2Proof.Machine.execBz a o s
  | .bnz a o => Sys2Proof.Machine.execBnz a o s
  | .ldB t a d => Sys2Proof.Machine.execLdB t a d s
  | .ldH t a d => Sys2Proof.Machine.execLdH t a d s
  | .ldW t a d => Sys2Proof.Machine.execLdW t a d s
  | .ldD t a d => Sys2Proof.Machine.execLdD t a d s
  | .ldBx t a d => Sys2Proof.Machine.execLdBx t a d s
  | .ldHx t a d => Sys2Proof.Machine.execLdHx t a d s
  | .ldWx t a d => Sys2Proof.Machine.execLdWx t a d s
  | .stB t a d => Sys2Proof.Machine.execStB t a d s
  | .stH t a d => Sys2Proof.Machine.execStH t a d s
  | .stW t a d => Sys2Proof.Machine.execStW t a d s
  | .stD t a d => Sys2Proof.Machine.execStD t a d s
  | .ldAcq t a sc d => Sys2Proof.Machine.execLdAcq t a sc d s
  | .stRel t a sc d => Sys2Proof.Machine.execStRel t a sc d s
  | .stNt t a z d => Sys2Proof.Machine.execStNt t a z d s
  | .amoAdd d a b z => Sys2Proof.Machine.execAmoAdd d a b z s
  | .amoAnd d a b z => Sys2Proof.Machine.execAmoAnd d a b z s
  | .amoOr d a b z => Sys2Proof.Machine.execAmoOr d a b z s
  | .amoXor d a b z => Sys2Proof.Machine.execAmoXor d a b z s
  | .amoMin d a b z => Sys2Proof.Machine.execAmoMin d a b z s
  | .amoMax d a b z => Sys2Proof.Machine.execAmoMax d a b z s
  | .amoMinn d a b z => Sys2Proof.Machine.execAmoMinn d a b z s
  | .amoMaxn d a b z => Sys2Proof.Machine.execAmoMaxn d a b z s
  | .amoSwap d a b z => Sys2Proof.Machine.execAmoSwap d a b z s
  | .amoCas d a b z => Sys2Proof.Machine.execAmoCas d a b z s
  | .ldRes d a => Sys2Proof.Machine.execLdRes d a s
  | .stCond d a b => Sys2Proof.Machine.execStCond d a b s
  | .wres d => Sys2Proof.Machine.execWres d s
  | .fget d a => Sys2Proof.Machine.execFget d a s
  | .fput d a b => Sys2Proof.Machine.execFput d a b s
  | .ftake d a => Sys2Proof.Machine.execFtake d a s
  | .redAdd a b z => Sys2Proof.Machine.execRedAdd a b z s
  | .redMin a b z => Sys2Proof.Machine.execRedMin a b z s
  | .redMax a b z => Sys2Proof.Machine.execRedMax a b z s
  | .redFadd a b z => Sys2Proof.Machine.execRedFadd a b z s
  | .redFaddGroup d a b => Sys2Proof.Machine.execRedFaddGroup d a b s
  | .fence sc => Sys2Proof.Machine.execFence sc s
  | .xfence x y sc => Sys2Proof.Machine.execXfence x y sc s
  | .isync => Sys2Proof.Machine.execIsync s
  | .barInit a n => Sys2Proof.Machine.execBarInit a n s
  | .barArrive d n => Sys2Proof.Machine.execBarArrive d n s
  | .barWait a n => Sys2Proof.Machine.execBarWait a n s
  | .barTry d a n => Sys2Proof.Machine.execBarTry d a n s
  | .slotTake d a c => Sys2Proof.Machine.execSlotTake d a c s
  | .slotGive a c => Sys2Proof.Machine.execSlotGive a c s
  | .slotTry d a c => Sys2Proof.Machine.execSlotTry d a c s
  | .bbInit a => Sys2Proof.Machine.execBbInit a s
  | .bbPeekImm d n => Sys2Proof.Machine.execBbPeekImm d n s
  | .bbPeekReg d a => Sys2Proof.Machine.execBbPeekReg d a s
  | .bbTakeImm d n => Sys2Proof.Machine.execBbTakeImm d n s
  | .bbTakeReg d a => Sys2Proof.Machine.execBbTakeReg d a s
  | .bbDec d a l => Sys2Proof.Machine.execBbDec d a l s
  | .bbCopy d a b => Sys2Proof.Machine.execBbCopy d a b s
  | .bbLit d n => Sys2Proof.Machine.execBbLit d n s
  | .cpy a => Sys2Proof.Machine.execCpy a s
  | .cpyCk a => Sys2Proof.Machine.execCpyCk a s
  | .cpyQ d w c => Sys2Proof.Machine.execCpyQ d w c s
  | .cpyQuench a => Sys2Proof.Machine.execCpyQuench a s
  | .stashOpen a => Sys2Proof.Machine.execStashOpen a s
  | .stash a => Sys2Proof.Machine.execStash a s
  | .stashReg v a => Sys2Proof.Machine.execStashReg v a s
  | .restore a => Sys2Proof.Machine.execRestore a s
  | .stashStat d a sc => Sys2Proof.Machine.execStashStat d a sc s
  | .graftCfg a sc => Sys2Proof.Machine.execGraftCfg a sc s
  | .graftGo sc => Sys2Proof.Machine.execGraftGo sc s
  | .graftStat d w sc => Sys2Proof.Machine.execGraftStat d w sc s
  | .psendOpen a => Sys2Proof.Machine.execPsendOpen a s
  | .psendAppend a => Sys2Proof.Machine.execPsendAppend a s
  | .psendEOpen a => Sys2Proof.Machine.execPsendEOpen a s
  | .psendEAppend a => Sys2Proof.Machine.execPsendEAppend a s
  | .psendEClose => Sys2Proof.Machine.execPsendEClose s
  | .spawn d a h => Sys2Proof.Machine.execSpawn d a h s
  | .dqPush d a => Sys2Proof.Machine.execDqPush d a s
  | .dqPop d => Sys2Proof.Machine.execDqPop d s
  | .launch a b => Sys2Proof.Machine.execLaunch a b s
  | .plotAlloc d a => Sys2Proof.Machine.execPlotAlloc d a s
  | .plotPass a sc => Sys2Proof.Machine.execPlotPass a sc s
  | .plotFree a => Sys2Proof.Machine.execPlotFree a s
  | .xbegin => Sys2Proof.Machine.execXbegin s
  | .xput d a r => Sys2Proof.Machine.execXput d a r s
  | .xend => Sys2Proof.Machine.execXend s
  | .follow => Sys2Proof.Machine.execFollow s
  | .unfollow => Sys2Proof.Machine.execUnfollow s
  | .home => Sys2Proof.Machine.execHome s
  | .yield n => Sys2Proof.Machine.execYield n s
  | .trap n => Sys2Proof.Machine.execTrap n s
  | .sys n => Sys2Proof.Machine.execSys n s
  | .eret => Sys2Proof.Machine.execEret s
  | .halt => Sys2Proof.Machine.execHalt s
  | .mfsr d sc => Sys2Proof.Machine.execMfsr d sc s
  | .mtsr a sc => Sys2Proof.Machine.execMtsr a sc s
  | .vld t a d => Sys2Proof.Machine.execVld t a d s
  | .vldW t a d => Sys2Proof.Machine.execVldW t a d s
  | .vst t a d => Sys2Proof.Machine.execVst t a d s
  | .vldS d a b => Sys2Proof.Machine.execVldS d a b s
  | .vstS d a b => Sys2Proof.Machine.execVstS d a b s
  | .mringCfg a b => Sys2Proof.Machine.execMringCfg a b s
  | .ringPutReserve d a b => Sys2Proof.Machine.execRingPutReserve d a b s
  | .ringPutPublish d a b => Sys2Proof.Machine.execRingPutPublish d a b s
  | .ringPop d a b => Sys2Proof.Machine.execRingPop d a b s
  | .maccLd c a b => Sys2Proof.Machine.execMaccLd c a b s
  | .maccSt c a b => Sys2Proof.Machine.execMaccSt c a b s
  | .mcap d a n => Sys2Proof.Machine.execMcap d a n s
  | .mcmd a => Sys2Proof.Machine.execMcmd a s
  | .mstat d a r => Sys2Proof.Machine.execMstat d a r s
  | .msave a => Sys2Proof.Machine.execMsave a s
  | .mload a => Sys2Proof.Machine.execMload a s
  | .or d a b => Sys2Proof.Machine.execOr d a b s
  | .and d a b => Sys2Proof.Machine.execAnd d a b s
  | .xor d a b => Sys2Proof.Machine.execXor d a b s
  | .andn d a b => Sys2Proof.Machine.execAndn d a b s
  | .add d a b => Sys2Proof.Machine.execAdd d a b s
  | .sub d a b => Sys2Proof.Machine.execSub d a b s
  | .mul d a b => Sys2Proof.Machine.execMul d a b s
  | .mulh d a b => Sys2Proof.Machine.execMulh d a b s
  | .mulhn d a b => Sys2Proof.Machine.execMulhn d a b s
  | .div d a b => Sys2Proof.Machine.execDiv d a b s
  | .divn d a b => Sys2Proof.Machine.execDivn d a b s
  | .rem d a b => Sys2Proof.Machine.execRem d a b s
  | .remn d a b => Sys2Proof.Machine.execRemn d a b s
  | .shl d a b => Sys2Proof.Machine.execShl d a b s
  | .shr d a b => Sys2Proof.Machine.execShr d a b s
  | .sha d a b => Sys2Proof.Machine.execSha d a b s
  | .rot d a b => Sys2Proof.Machine.execRot d a b s
  | .min d a b => Sys2Proof.Machine.execMin d a b s
  | .max d a b => Sys2Proof.Machine.execMax d a b s
  | .minn d a b => Sys2Proof.Machine.execMinn d a b s
  | .maxn d a b => Sys2Proof.Machine.execMaxn d a b s
  | .clz d a => Sys2Proof.Machine.execClz d a s
  | .ctz d a => Sys2Proof.Machine.execCtz d a s
  | .popc d a => Sys2Proof.Machine.execPopc d a s
  | .extB d a => Sys2Proof.Machine.execExtB d a s
  | .extH d a => Sys2Proof.Machine.execExtH d a s
  | .extW d a => Sys2Proof.Machine.execExtW d a s
  | .cmpEq d a b => Sys2Proof.Machine.execCmpEq d a b s
  | .cmpNe d a b => Sys2Proof.Machine.execCmpNe d a b s
  | .cmpLt d a b => Sys2Proof.Machine.execCmpLt d a b s
  | .cmpLe d a b => Sys2Proof.Machine.execCmpLe d a b s
  | .cmpLtn d a b => Sys2Proof.Machine.execCmpLtn d a b s
  | .cmpLen d a b => Sys2Proof.Machine.execCmpLen d a b s
  | .addi d a imm => Sys2Proof.Machine.execAddi d a imm s
  | .andi d a imm => Sys2Proof.Machine.execAndi d a imm s
  | .ori d a imm => Sys2Proof.Machine.execOri d a imm s
  | .xori d a imm => Sys2Proof.Machine.execXori d a imm s
  | .shli d a n => Sys2Proof.Machine.execShli d a n s
  | .shri d a n => Sys2Proof.Machine.execShri d a n s
  | .shai d a n => Sys2Proof.Machine.execShai d a n s
  | .lia d imm => Sys2Proof.Machine.execLia d imm s
  | .lea d a imm => Sys2Proof.Machine.execLea d a imm s
  | .lih j d k imm => Sys2Proof.Machine.execLih j d k imm s
  | .sel d a b x => Sys2Proof.Machine.execSel d a b x s
  | .fadd d a b t r => Sys2Proof.Machine.execFadd d a b t r s
  | .fsub d a b t r => Sys2Proof.Machine.execFsub d a b t r s
  | .fmul d a b t r => Sys2Proof.Machine.execFmul d a b t r s
  | .fdiv d a b t r => Sys2Proof.Machine.execFdiv d a b t r s
  | .fsqrt d a t r => Sys2Proof.Machine.execFsqrt d a t r s
  | .fma d a b t r x => Sys2Proof.Machine.execFma d a b t r x s
  | .fmin d a b t => Sys2Proof.Machine.execFmin d a b t s
  | .fmax d a b t => Sys2Proof.Machine.execFmax d a b t s
  | .fcmp d a b t e => Sys2Proof.Machine.execFcmp d a b t e s
  | .fcvt d a t r sc => Sys2Proof.Machine.execFcvt d a t r sc s
  | .fcvi d a t r imm => Sys2Proof.Machine.execFcvi d a t r imm s
  | .ficv d a t r imm => Sys2Proof.Machine.execFicv d a t r imm s
  | .fclass d a t => Sys2Proof.Machine.execFclass d a t s
  | .fneg d a t => Sys2Proof.Machine.execFneg d a t s
  | .fabs d a t => Sys2Proof.Machine.execFabs d a t s
  | .vadd d a b m t => Sys2Proof.Machine.execVadd d a b m t s
  | .vsub d a b m t => Sys2Proof.Machine.execVsub d a b m t s
  | .vmul d a b m t => Sys2Proof.Machine.execVmul d a b m t s
  | .vmla d a b m t => Sys2Proof.Machine.execVmla d a b m t s
  | .vand d a b m t => Sys2Proof.Machine.execVand d a b m t s
  | .vor d a b m t => Sys2Proof.Machine.execVor d a b m t s
  | .vxor d a b m t => Sys2Proof.Machine.execVxor d a b m t s
  | .vshl d a b m t => Sys2Proof.Machine.execVshl d a b m t s
  | .vshr d a b m t => Sys2Proof.Machine.execVshr d a b m t s
  | .vsha d a b m t => Sys2Proof.Machine.execVsha d a b m t s
  | .vmin d a b m t => Sys2Proof.Machine.execVmin d a b m t s
  | .vmax d a b m t => Sys2Proof.Machine.execVmax d a b m t s
  | .vfadd d a b m t => Sys2Proof.Machine.execVfadd d a b m t s
  | .vfsub d a b m t => Sys2Proof.Machine.execVfsub d a b m t s
  | .vfmul d a b m t => Sys2Proof.Machine.execVfmul d a b m t s
  | .vfma d a b m t => Sys2Proof.Machine.execVfma d a b m t s
  | .vfmin d a b m t => Sys2Proof.Machine.execVfmin d a b m t s
  | .vfmax d a b m t => Sys2Proof.Machine.execVfmax d a b m t s
  | .vcmp d a b m t o => Sys2Proof.Machine.execVcmp d a b m t o s
  | .vsel d a b m t => Sys2Proof.Machine.execVsel d a b m t s
  | .vcvt d a sc m t => Sys2Proof.Machine.execVcvt d a sc m t s
  | .vperm d a b m t => Sys2Proof.Machine.execVperm d a b m t s
  | .vbcast d a m t => Sys2Proof.Machine.execVbcast d a m t s
  | .vins d a b t => Sys2Proof.Machine.execVins d a b t s
  | .vext d a b t => Sys2Proof.Machine.execVext d a b t s
  | .vmov d a m t => Sys2Proof.Machine.execVmov d a m t s
  | .vmovGToM d a => Sys2Proof.Machine.execVmovGToM d a s
  | .vmovMToG d a => Sys2Proof.Machine.execVmovMToG d a s
  | .vredAdd d a m t => Sys2Proof.Machine.execVredAdd d a m t s
  | .vredMin d a m t => Sys2Proof.Machine.execVredMin d a m t s
  | .vredMax d a m t => Sys2Proof.Machine.execVredMax d a m t s
  | .vredFadd d a m t => Sys2Proof.Machine.execVredFadd d a m t s
  | .mand d a b => Sys2Proof.Machine.execMand d a b s
  | .mor d a b => Sys2Proof.Machine.execMor d a b s
  | .mnot d a => Sys2Proof.Machine.execMnot d a s
  | .mcnt d a t => Sys2Proof.Machine.execMcnt d a t s
  | .mma c a b z k => Sys2Proof.Machine.execMma c a b z k s
  | .mmaSp c a b n r z k => Sys2Proof.Machine.execMmaSp c a b n r z k s
  | .mmaMx c a b z k => Sys2Proof.Machine.execMmaMx c a b z k s
  | .maccZero c => Sys2Proof.Machine.execMaccZero c s
  | .maccMv c e => Sys2Proof.Machine.execMaccMv c e s
  | .startUp => Sys2Proof.Machine.execStartUp s
  | .firmwareImage => Sys2Proof.Machine.execFirmwareImage s
  | .firmwareBringup => Sys2Proof.Machine.execFirmwareBringup s
  | .feataccWrite => Sys2Proof.Machine.execFeataccWrite s
  | .attestationRequest => Sys2Proof.Machine.execAttestationRequest s
  | .streamFaultArm => Sys2Proof.Machine.execStreamFaultArm s
  | .launchSubmission => Sys2Proof.Machine.execLaunchSubmission s
  | .evrbWrite => Sys2Proof.Machine.execEvrbWrite s
  | .eventDelivery => Sys2Proof.Machine.execEventDelivery s
  | .eventDrain => Sys2Proof.Machine.execEventDrain s
  | .hpWrite => Sys2Proof.Machine.execHpWrite s
  | .hpRead => Sys2Proof.Machine.execHpRead s
  | .hostAccessTimeout => Sys2Proof.Machine.execHostAccessTimeout s
  | .bedResetRequest => Sys2Proof.Machine.execBedResetRequest s
  | .resetClear => Sys2Proof.Machine.execResetClear s
  | .checkpointRestore => Sys2Proof.Machine.execCheckpointRestore s
  | .clockReduction => Sys2Proof.Machine.execClockReduction s
  | .overtemperatureReset => Sys2Proof.Machine.execOvertemperatureReset s
  | .registerWrite => Sys2Proof.Machine.execRegisterWrite s
  | .ctloadRefill => Sys2Proof.Machine.execCtloadRefill s
  | .ctloadRefillComplete => Sys2Proof.Machine.execCtloadRefillComplete s
  | .scrubRead => Sys2Proof.Machine.execScrubRead s
  | .icacheRefill => Sys2Proof.Machine.execIcacheRefill s
  | .storeBufferDrain => Sys2Proof.Machine.execStoreBufferDrain s
  | .regionTableWrite => Sys2Proof.Machine.execRegionTableWrite s
  | .regionMove => Sys2Proof.Machine.execRegionMove s
  | .routerStep => Sys2Proof.Machine.execRouterStep s
  | .gatewayStep => Sys2Proof.Machine.execGatewayStep s
  | .responseStep => Sys2Proof.Machine.execResponseStep s
  | .linkFlitError => Sys2Proof.Machine.execLinkFlitError s
  | .spireFrameReceive => Sys2Proof.Machine.execSpireFrameReceive s
  | .spireReplayTimeout => Sys2Proof.Machine.execSpireReplayTimeout s
  | .spireSignalLoss => Sys2Proof.Machine.execSpireSignalLoss s
  | .spireTrain => Sys2Proof.Machine.execSpireTrain s
  | .spireDisable => Sys2Proof.Machine.execSpireDisable s
  | .spireMarkDown => Sys2Proof.Machine.execSpireMarkDown s
  | .spireTrainingComplete => Sys2Proof.Machine.execSpireTrainingComplete s
  | .spireTrainingTimeout => Sys2Proof.Machine.execSpireTrainingTimeout s
  | .turnmaskWrite => Sys2Proof.Machine.execTurnmaskWrite s
  | .loadRequest => Sys2Proof.Machine.execLoadRequest s
  | .storeRequest => Sys2Proof.Machine.execStoreRequest s
  | .atomicRequest => Sys2Proof.Machine.execAtomicRequest s
  | .reductionUpdate => Sys2Proof.Machine.execReductionUpdate s
  | .migrationArrival => Sys2Proof.Machine.execMigrationArrival s
  | .saveImageArrival => Sys2Proof.Machine.execSaveImageArrival s
  | .landingQueuePlace => Sys2Proof.Machine.execLandingQueuePlace s
  | .migrationAnswer => Sys2Proof.Machine.execMigrationAnswer s
  | .migrationBackoff => Sys2Proof.Machine.execMigrationBackoff s
  | .engineCommand => Sys2Proof.Machine.execEngineCommand s
  | .engineCommandExecute => Sys2Proof.Machine.execEngineCommandExecute s
  | .engineDataWrite => Sys2Proof.Machine.execEngineDataWrite s
  | .engineRead => Sys2Proof.Machine.execEngineRead s
  | .engineTlbMiss => Sys2Proof.Machine.execEngineTlbMiss s
  | .engineResponseTimeout => Sys2Proof.Machine.execEngineResponseTimeout s
  | .commandSend => Sys2Proof.Machine.execCommandSend s
  | .busyRetryTimer => Sys2Proof.Machine.execBusyRetryTimer s
  | .progressResponse => Sys2Proof.Machine.execProgressResponse s
  | .commandCompletion => Sys2Proof.Machine.execCommandCompletion s
  | .fifoctlWrite => Sys2Proof.Machine.execFifoctlWrite s
  | .quenchArrival => Sys2Proof.Machine.execQuenchArrival s
  | .quenchMessage => Sys2Proof.Machine.execQuenchMessage s
  | .quenchAck => Sys2Proof.Machine.execQuenchAck s
  | .stashCommand => Sys2Proof.Machine.execStashCommand s
  | .probe => Sys2Proof.Machine.execProbe s
  | .probeAnswer => Sys2Proof.Machine.execProbeAnswer s
  | .rankerSlotWrite => Sys2Proof.Machine.execRankerSlotWrite s
  | .goStart => Sys2Proof.Machine.execGoStart s
  | .snapshotRequest => Sys2Proof.Machine.execSnapshotRequest s
  | .snapshotCapture => Sys2Proof.Machine.execSnapshotCapture s
  | .ranking => Sys2Proof.Machine.execRanking s
  | .graftPair => Sys2Proof.Machine.execGraftPair s
  | .pairReport => Sys2Proof.Machine.execPairReport s
  | .pairTimeout => Sys2Proof.Machine.execPairTimeout s
  | .goEnd => Sys2Proof.Machine.execGoEnd s
  | .missMessage => Sys2Proof.Machine.execMissMessage s
  | .tlbFill => Sys2Proof.Machine.execTlbFill s
  | .tlbFillNp => Sys2Proof.Machine.execTlbFillNp s
  | .tlbFillEngine => Sys2Proof.Machine.execTlbFillEngine s
  | .tlbinvPage => Sys2Proof.Machine.execTlbinvPage s
  | .tlbinvContext => Sys2Proof.Machine.execTlbinvContext s
  | .tlbinvAll => Sys2Proof.Machine.execTlbinvAll s
  | .wfzRetryTimer => Sys2Proof.Machine.execWfzRetryTimer s
  | .nackReceived => Sys2Proof.Machine.execNackReceived s
  | .acknowledgement => Sys2Proof.Machine.execAcknowledgement s
  | .packetOpenTimeout => Sys2Proof.Machine.execPacketOpenTimeout s
  | .exchangeStoreArrival => Sys2Proof.Machine.execExchangeStoreArrival s
  | .exchangeAbortReport => Sys2Proof.Machine.execExchangeAbortReport s
  | .exchangeAbortApply => Sys2Proof.Machine.execExchangeAbortApply s
  | .explicitMessage => Sys2Proof.Machine.execExplicitMessage s
  | .explicitStore => Sys2Proof.Machine.execExplicitStore s
  | .spawnArrival => Sys2Proof.Machine.execSpawnArrival s
  | .spawnAnswer => Sys2Proof.Machine.execSpawnAnswer s
  | .remoteMatrixCommand => Sys2Proof.Machine.execRemoteMatrixCommand s
  | .remoteCommandStart => Sys2Proof.Machine.execRemoteCommandStart s
  | .mmaFetchEnd => Sys2Proof.Machine.execMmaFetchEnd s
  | .matrixOpStart => Sys2Proof.Machine.execMatrixOpStart s
  | .matrixOpRetire => Sys2Proof.Machine.execMatrixOpRetire s
  | .slotStart => Sys2Proof.Machine.execSlotStart s
  | .slotResume => Sys2Proof.Machine.execSlotResume s
  | .slotHold => Sys2Proof.Machine.execSlotHold s
  | .slotDiscard => Sys2Proof.Machine.execSlotDiscard s
  | .slotReleaseLost => Sys2Proof.Machine.execSlotReleaseLost s
  | .slotResumeHeld => Sys2Proof.Machine.execSlotResumeHeld s
  | .preemptRequest => Sys2Proof.Machine.execPreemptRequest s
  | .preemption => Sys2Proof.Machine.execPreemption s
  | .freezeImageWritten => Sys2Proof.Machine.execFreezeImageWritten s
  | .domWrite => Sys2Proof.Machine.execDomWrite s
  | .dtabWrite => Sys2Proof.Machine.execDtabWrite s
  | .barrierReport => Sys2Proof.Machine.execBarrierReport s
  | .linkDieBarrierReport => Sys2Proof.Machine.execLinkDieBarrierReport s
  | .domainRelease => Sys2Proof.Machine.execDomainRelease s
  | .followJoinTimeout => Sys2Proof.Machine.execFollowJoinTimeout s
  | .yieldExpiry => Sys2Proof.Machine.execYieldExpiry s
  | .waiterPollTimer => Sys2Proof.Machine.execWaiterPollTimer s
  | .reservationProtectExpiry => Sys2Proof.Machine.execReservationProtectExpiry s
  | .contextTableWrite => Sys2Proof.Machine.execContextTableWrite s
  | .ctxKill => Sys2Proof.Machine.execCtxKill s
  | .ctxCreate => Sys2Proof.Machine.execCtxCreate s
  | .ctxOpComplete => Sys2Proof.Machine.execCtxOpComplete s
  | .lqctlWrite => Sys2Proof.Machine.execLqctlWrite s
  | .placementStep => Sys2Proof.Machine.execPlacementStep s
  | .stealRequest => Sys2Proof.Machine.execStealRequest s
  | .stealAnswer => Sys2Proof.Machine.execStealAnswer s
  | .globalTimestampAdvance => Sys2Proof.Machine.execGlobalTimestampAdvance s
  | .performedForPath => Sys2Proof.Machine.execPerformedForPath s
  | .softError => Sys2Proof.Machine.execSoftError s
  | .overtemperatureRelease => Sys2Proof.Machine.execOvertemperatureRelease s
  | .graftStatAnswer => Sys2Proof.Machine.execGraftStatAnswer s
  | .launchRecordArrival => Sys2Proof.Machine.execLaunchRecordArrival s
  | .maccLdReadEnd => Sys2Proof.Machine.execMaccLdReadEnd s

end Sys2Proof.Machine
end

