-- ==== Sys2Proof/Machine/Issue.lean ====
section
/-! DEFINITION. The issue of one bundle in a slot: eligibility, pending traps, fetch, framing and decode, the two words of a pair, follow mode and the
schedule of a timed block (R224 to R227, R248, R251, R281 to R288, R295, R302).  `ex` is the meaning of an instruction. -/

namespace Sys2Proof.Machine

/-- The meaning of an instruction, as `step` passes it in. -/
abbrev Exec := Instr → State → Host.Outcome State Fault Refusal

/-! ### Eligibility -/

/-- While a slot runs a timed block, no other slot of that core issues (R204). -/
def coreBusy (s : State) (p : Place) : Bool :=
  (List.range 8).any fun k => k != p.slot && (s.slot ⟨p.unit, p.core, k⟩).blk.isSome

/-- A leader's slot issues only when every following slot of its number in the row has room (R224). -/
def leaderRoom (s : State) (p : Place) : Bool :=
  !(p.heavy && p.core % 8 == 0) ||
  (List.range 7).all fun k =>
    let x := s.slot ⟨p.unit, p.core + k + 1, p.slot⟩
    x.folState != 2 || decide (x.folQueue.length < 32)

/-- The slots of one block's domain in a bed run in step (R204): none issues while another stands so far behind that its exchange stores could still
reach the bank cycle of this one, while a slot released with it has not opened its block, while an exchange store due at this core's bank has not arrived or a
flit has still to meet a down link, or past the cycles at which an abort of the domain has reached the fabric and is applied (R96, R260). -/
def blockTurn (s : State) (p : Place) : Bool :=
  match (s.slot p).blk with
  | none => true
  | some b =>
    (s.slots.all fun e =>
      e.1 / 1024 != p.unit || (match e.2.blk with
        | some c => decide (c.level ≠ b.level ∨ c.dom ≠ b.dom ∨ b.cyc ≤ c.cyc + 1)
        | none => (match e.2.aligned with
          | some n =>
            let q : Place := ⟨p.unit, e.1 / 8 % 128, e.1 % 8⟩
            let l := (s.bar q.unit q.core n).level
            l != b.level || (Tbl.get 0 (s.coreAt q).doms l).toNat % 2 ^ 12 != b.dom || decide (b.cyc ≤ 2)
          | none => true))) &&
    (s.xstores.all fun x => !(ofBlock s x b) ||
      (!(x.unit == p.unit && x.core == p.core && decide (x.due ≤ b.cyc)) && (match downLink s x with
        | some cyc => decide (b.cyc ≤ cyc)
        | none => true))) &&
    s.xaborts.all fun a =>
      a.bed != p.unit || a.src % 4096 / 128 != p.unit || a.level != b.level || a.dom != b.dom ||
      ((a.reported || decide (b.cyc ≤ a.cyc + 8)) && decide (b.cyc < a.cyc + 24))

/-- Whether a slot may issue a bundle now (R215, R248). -/
def canIssue (s : State) (p : Place) : Bool :=
  let x := s.slot p
  x.st == .run && x.wait.isNone && !coreBusy s p && leaderRoom s p && blockTurn s p &&
  !(x.folState == 2 && x.folQueue.isEmpty)

/-! ### Fetch and decode -/

/-- Fetch the bundle at the slot's PC and settle its framing (R282, R283, R295). -/
def fetchBundle (s : State) : Res :=
  let a := s.pc
  fetchWord s a fun s w =>
    let s := { s with cur := { s.cur with pc := a, cword := w, next := a + 4, half := .lone } }
    if wordP w then
      if a.getLsbD 2 || wordK w then s.illegal 1
      else
        fetchWord s (a + 4) fun s v =>
          let s := { s with cur := { s.cur with aword := some v, next := a + 8, half := .c } }
          if wordP v || !wordK v then { s with cur := { s.cur with half := .a } }.illegal 1 else .ok s
    else .ok s

/-- The first bundle of a thread or handler passes the target check (R286). -/
def enter (s : State) : Res :=
  if s.here.entry then checkTarget s s.pc fun s => fetchBundle (s.modHere fun x => { x with entry := false })
  else fetchBundle s

/-- `ring.put` has two rows that differ in RESV of g[B] (R372): the value decides between them. -/
def resolveForm (s : State) (i : Instr) : Instr :=
  match i with
  | .ringPutPublish d a b => if (s.opG b).getLsbD 16 then .ringPutReserve d a b else i
  | i => i

/-- `xbegin` stands alone at an address 4 above a multiple of 8 (R288 item 1). -/
def xbeginPlaced (s : State) : Bool := s.cur.half == .lone && s.cur.pc.toNat % 8 == 4

/-- `CheckWord` of R295 for the word in execution. -/
def checkWord (s : State) (w : BitVec 32) : Except Trap Instr :=
  match decodeWord w with
  | .unassigned => .error (Trap.of 1 0 s.wordPc)
  | .reserved => .error (Trap.of 1 1 s.wordPc)
  | .instr i =>
    if i = .xbegin ∧ xbeginPlaced s = false then .error (Trap.of 1 1 s.wordPc)
    else
    match (gateOf i).check s with
    | some t => .error t
    | none => .ok (resolveForm s i)

/-- The bundle's words, decoded: the C word's checks come first (R251, R295). -/
inductive Words where
  | bad (s : State) (t : Trap)
  | one (s : State) (i : Instr)
  | two (s : State) (c a : Instr)
deriving DecidableEq, Repr

/-- Decode the bundle in execution. -/
def decodeBundle (s : State) : Words :=
  match checkWord s s.cur.cword with
  | .error t => .bad s t
  | .ok c =>
    match s.cur.aword with
    | none => .one s c
    | some v =>
      let sa := { s with cur := { s.cur with half := .a } }
      match checkWord sa v with
      | .error t => .bad sa t
      | .ok a => .two s c a

/-! ### Timed blocks (R204, R288, R302) -/

/-- Whether a register an instruction reads or writes is still to come. -/
def notReady (b : Block) (i : Instr) : Bool :=
  let (rd, wr, _) := usesOf i
  b.ready.any fun e => decide (b.cyc < e.2) && e.1 != 0 && (rd.contains e.1 || wr.contains e.1)

/-- The traps of the schedule: a bundle past the block's length, and a bundle that would wait for a register (R288, R302). -/
def scheduleTrap (s : State) (is : List Instr) : Option Trap :=
  match s.here.blk with
  | none => none
  | some b =>
    if b.len ≤ b.count then some (Trap.of 1 4 s.cur.pc)
    else if is.any (notReady b) then some (s.blockTrap 0 s.cur.pc)
    else none

/-- Whether an instruction takes `len` cycles of issue, not one: `bb.copy` (R345). -/
def isLong : Instr → Bool
  | .bbCopy _ _ _ => true
  | _ => false

/-- Whether an instruction's latency may follow from its operands: `Cur.lat` then gives it (R43, R319, R345). -/
def isTimed : Instr → Bool
  | .vldW _ _ _ => true
  | .bbInit _ => true
  | .bbPeekImm _ _ => true
  | .bbPeekReg _ _ => true
  | .bbTakeImm _ _ => true
  | .bbTakeReg _ _ => true
  | .bbDec _ _ _ => true
  | .bbCopy _ _ _ => true
  | .bbLit _ _ => true
  | _ => false

/-- Registers written by a bundle and the latency of each; `lat` is `Cur.lat`. -/
def resultsOf (is : List Instr) (lat : Nat) : List (Nat × Nat) :=
  is.flatMap fun i => let (_, wr, l) := usesOf i; wr.map fun r => (r, if isTimed i ∧ lat ≠ 0 then lat else l)

/-- Cycles from a bundle's issue to the next one's (R302, R345). -/
def issueCycles (is : List Instr) (jumped : Bool) (lat : Nat) : Nat := if jumped then 2 else if is.any isLong then max lat 1 else 1

/-- The block after a bundle has issued: one more bundle, the cycle of the next, and when its results are usable (R288, R302). -/
def Block.advance (b : Block) (is : List Instr) (jumped : Bool) (lat : Nat) : Block :=
  let new := (resultsOf is lat).map fun e => (e.1, b.cyc + e.2)
  let cyc := b.cyc + issueCycles is jumped lat
  { b with count := b.count + 1, cyc := cyc, ready := (new ++ b.ready.filter fun e => !(new.any fun f => f.1 == e.1)).filter fun e => decide (cyc < e.2) }

/-! ### The two words -/

/-- The registers as they stand before a bundle; a rim core's vector set is the core's (R214). -/
def snapOf (s : State) : Thread :=
  let t := s.here.th
  if s.cur.place.rim then { t with v := (s.coreAt s.cur.place).rv, m := (s.coreAt s.cur.place).rm } else t

/-- The wait that a state leaves the slot in execution in, put on the pair's state before either word: nothing of the pair stands (R284). -/
def pairWaits (s r : State) : State :=
  settle (match r.here.wait with
    | some w => .wait s w (r.here.st == .wait)
    | none => .wait s .again false)

/-- Whether the first word of a pair, from the state `s` before it, waits in `r` with a request of its own made: the second word is ready before that (R284). -/
def hasSent (s r : State) : Bool :=
  (match r.here.wait with
   | some (.answer _ _) => true
   | some .migrate => true
   | _ => false) || decide ((s.coreAt s.cur.place).mx.ops.length < (r.coreAt s.cur.place).mx.ops.length)

/-- Whether a word waits before all its checks are made: the other word's trap comes after them (R251). -/
def checksOpen (r : State) : Bool :=
  match r.here.wait with
  | some (.fill _ _) => true
  | some (.refill _) => true
  | some .event => true
  | some .drain => true
  | some .matrix => true
  | some _ => false
  | none => r.cur.ended == .wait

/-- Run a pair (R251, R284): the checks of the C word and then of the second word are made on what stood before; then the C word takes effect and the second
word follows it, on the operands that stood before.  Nothing of either stands unless both complete, but for the ownership of the matrix unit (R256).  Where the first word waits before its checks are done, the second's trap waits for
them; where it makes a request, it makes it once the second word is ready.  The order of the claims of two words of one pair is the model's (assumption 178). -/
def runPair (ex : Exec) (s0 : State) (c a : Instr) : Host.Outcome State Fault Refusal :=
  let (s, loading) := ownFirst s0 c
  let sn := some (snapOf s)
  let asA := fun (t : State) (commit : Bool) => { t with cur := { t.cur with half := .a, snap := sn, commit := commit } }
  if loading then done (.wait s .again false)
  else
    match ex c s with
    | .next r =>
      if r.cur.ended = .trap then .next r
      else
        match ex a (asA s false) with
        | .next ra =>
          if r.cur.ended = .wait ∧ hasSent s r = false ∧ checksOpen r then .next r
          else if ra.cur.ended = .trap then .next ra
          else if r.cur.ended = .wait ∧ hasSent s r ∧ ra.cur.ended = .wait then .next ra
          else if r.cur.ended ≠ .no then .next r
          else if ra.cur.ended ≠ .no then .next ra
          else
            match ex a (asA r true) with
            | .next rb =>
              (match rb.cur.ended, rb.cur.fault with
               | .wait, _ => .next (pairWaits s rb)
               | _, some (k, n, addr, d0, d1) => done (.trap (asA s false) ⟨k, n, addr, d0, d1⟩)
               | _, none => .next rb)
            | o => o
        | o => o
    | o => o

/-! ### After a bundle -/

/-- Send an issued bundle to the followers of the row, and let a joining slot whose next address it is take the stream (R224, R225). -/
def sendStream (s : State) : State :=
  let p := s.cur.place
  if p.heavy ∧ p.core % 8 = 0 then
    let e := (s.cur.pc, s.cur.cword, s.cur.aword, s.pc)
    (List.range 7).foldl (fun t k =>
      t.modSlot ⟨p.unit, p.core + k + 1, p.slot⟩ fun x =>
        if x.folState = 2 then { x with folQueue := x.folQueue ++ [e] }
        else if x.folState = 1 ∧ x.th.pc = s.cur.pc ∧ x.th.ctx = s.ctx then
          { x with folState := 2, folQueue := [e], wait := none, st := if x.st = .wait then .run else x.st }
        else if x.folState = 1 ∧ x.th.ctx ≠ s.ctx then
          { x with folState := 0, folReason := 7, folLeft := true, wait := none, st := if x.st = .wait then .run else x.st }
        else x) s
  else s

/-- The barrier that an instruction arrives on. -/
def arrivesOn : Instr → Option Nat
  | .barArrive _ n => some n.toNat
  | _ => none

/-- Registers still to come once a bundle has issued (R302): its own results and, after a transfer, the next bundle itself, which number 96 stands for; those
of earlier bundles have one cycle less to go.  After a block that it ends, they are those of the block.  Those of bundles up to a `bar.arrive` carry its barrier, as 128
times one more than its number: they are usable before any release of that phase (R221). -/
def lateAfter (was : Option Block) (x : Slot) (is : List Instr) (jumped : Bool) (lat : Nat) : List (Nat × Nat) :=
  let n := if jumped then 1 else issueCycles is false lat
  let new := (if jumped then [(96, 1)] else []) ++ (resultsOf is lat).map fun e => (e.1, e.2 - n)
  let old := match was, x.blk with
    | some b, none => b.ready.map fun (e : Nat × Nat) => (e.1, e.2 - b.cyc - n)
    | _, _ => x.late.map fun (e : Nat × Nat) => (e.1, e.2 - n)
  let all := (new ++ old.filter fun e => !(new.any fun f => f.1 == e.1 % 128)).filter fun e => decide (0 < e.2)
  match is.findSome? arrivesOn with
  | some b => all.map fun e => (e.1 % 128 + 128 * (b + 1), e.2)
  | none => all

/-- Whether the next pair's words use a register that is still to come, or follow a transfer too closely (R302). -/
def lateMeets (late : List (Nat × Nat)) (ws : List (BitVec 32)) : Bool :=
  late.any fun e => e.1 % 128 == 96 || ws.any fun w => match decodeWord w with
    | .instr i => let (rd, wr, _) := usesOf i; e.1 % 128 != 0 && (rd.contains (e.1 % 128) || wr.contains (e.1 % 128))
    | _ => false

/-- A bundle of one slot takes a cycle of its core: the other slots' results come nearer (R248, R302). -/
def passCycle (s : State) (p : Place) : State :=
  { s with slots := s.slots.map fun e =>
      if e.1 / 8 = unitKey p.unit p.core ∧ e.1 ≠ slotKey p ∧ e.2.late ≠ [] then
        (e.1, { e.2 with late := (e.2.late.map fun l => (l.1, l.2 - 1)).filter fun l => decide (0 < l.2) })
      else e }

/-- What follows a completed bundle: the schedule of a block, the stream, a slot that has begun to join, and the trap of `trap` and `sys`. -/
def finishBundle (was : Option Block) (is : List Instr) (s : State) : State :=
  if s.cur.ended ≠ .no then s
  else
    let s := s.modHere fun x =>
      { x with wait := if x.folState = 1 then some .follow else if s.cur.rest then some .yield else x.wait, resp := [], backoff := 0,
               st := if x.folState = 1 ∧ x.st = .run then .wait else x.st,
               late := if x.blk.isSome then [] else lateAfter was x is s.cur.jumped s.cur.lat,
               blk := match was, x.blk with
                 | some _, some b => some (b.advance is s.cur.jumped s.cur.lat)
                 | _, b => b }
    let s := passCycle s s.cur.place
    match s.cur.pend with
    | some (c, n) =>
      let p := s.cur.place
      let inb := s.here.blk.isSome
      takeTrap (abortBlock s p c n) p (Trap.of c n 0) false inb none
    | none => sendStream s

/-- Run the decoded words of the bundle in execution. -/
def runWords (ex : Exec) (w : Words) : Host.Outcome State Fault Refusal :=
  match w with
  | .bad s t => done (.trap s t)
  | .one s i =>
    match scheduleTrap s [i] with
    | some t => done (.trap s t)
    | none =>
      match ex i s with
      | .next r => .next (finishBundle s.here.blk [i] r)
      | o => o
  | .two s c a =>
    match scheduleTrap s [c, a] with
    | some t => done (.trap s t)
    | none =>
      match runPair ex s c a with
      | .next r => .next (finishBundle s.here.blk [c, a] r)
      | o => o

/-- LEAVEPC takes the address of the first pair that a slot issues from its own fetch after a leave (R227). -/
def leftAt (p : Place) (left : Bool) (pc : Word) (o : Host.Outcome State Fault Refusal) : Host.Outcome State Fault Refusal :=
  match o with
  | .next r => .next (if left ∧ r.cur.ended ≠ .wait then r.modSlot p fun x => { x with folLeave := pc, folLeft := false } else r)
  | o => o

/-- Issue from the slot's own fetch. -/
def issueOwn (ex : Exec) (s : State) : Host.Outcome State Fault Refusal :=
  match enter s with
  | .ok t =>
    (match decodeBundle t with
     | .bad u tr => done (.trap u tr)
     | w => leftAt s.cur.place s.here.folLeft s.pc (runWords ex w))
  | r => done r

/-- Execute the next bundle of the stream (R224); a next PC that differs from the streamed one ends following (R226). -/
def issueStream (ex : Exec) (s : State) : Host.Outcome State Fault Refusal :=
  let p := s.cur.place
  match s.here.folQueue with
  | [] => .next (leaveFollow s p 5)
  | (pc, c, a, nx) :: rest =>
    let s := (s.modTh fun t => { t with pc := pc })
    let s := { s with cur := { s.cur with pc := pc, cword := c, aword := a, next := pc + (if a.isSome then 8 else 4),
                                          half := if a.isSome then .c else .lone } }
    match runWords ex (decodeBundle s) with
    | .next r =>
      if r.cur.ended ≠ .no ∨ (r.slot p).folState = 0 then .next r
      else
        let r := r.modSlot p fun x => { x with folQueue := rest }
        if (r.slot p).th.pc ≠ nx then .next (leaveFollow r p 1)
        else if rest = [] ∧ (r.slot p).folState = 4 then .next (leaveFollow r p 5)
        else .next r
    | o => o

/-- The trap that waits for the slot's next boundary, once the block cycle it was met in has passed (R251). -/
def pendDue (x : Slot) : Option (Nat × Nat × Word × Word × Word) :=
  match x.blk with
  | some b => if x.pendAt < b.cyc then x.pend else none
  | none => x.pend

/-- Take the trap that waits for the slot's next boundary (R251); no bundle is in hand there, so the words its frame names are free (assumption 14).  In a block a
fault that is none of the exchange's own aborts the domain's block (R259); one met in a block has INXB 1 (R250). -/
def takePending (s : State) (p : Place) (c n : Nat) (addr d0 d1 : Word) : State :=
  let x := s.slot p
  let mine := c = 10 ∨ c = 11 ∨ c = 12 ∨ (c = 15 ∧ n = 4)
  let s := if mine then s else abortBlock s p c n
  let s := (quitWaits s p).modSlot p fun x => { x with pend := none, pendAt := 0 }
  let w := Config.freeWord s.free
  let s := { s with cur := { s.cur with cword := w.truncate 32, aword := some ((w >>> 32).truncate 32) } }.tick
  takeTrap s p ⟨c, n, addr, d0, d1⟩ false (x.blk.isSome || decide mine) (if c = 12 then some d1 else none)

/-- Whether a slot stands at the boundary where its pending trap is taken: the bundle before it has completed, whatever else the slot waits for (R247, R251). -/
def pendReady (s : State) (p : Place) : Bool :=
  let x := s.slot p
  (pendDue x).isSome && letGo s p && (x.st == .run || x.st == .wait) && !coreBusy s p

/-- After a bundle, a slot that it left parked has left the matrix unit (R256). -/
def leaving (p : Place) (o : Host.Outcome State Fault Refusal) : Host.Outcome State Fault Refusal :=
  match o with
  | .next s => .next (parkLeaves s p)
  | o => o

/-- Park at a bundle boundary on a route entry that a refused update has met; an entry valid again lets the slot go on (R92, R332). -/
def parkDue (s : State) (p : Place) (n : Nat) : State :=
  if saveHeld s p then s
  else
    let s := s.modSlot p fun x => { x with parkAt := none }
    if (s.routeEntry p.unit p.core n).valid then s else parkLeaves (parkRoute (quitWaits s p) p n) p

/-- Write the exception-list entries of a pair whose own store has been performed by now (R271). -/
def writeOwed (s : State) (p : Place) : State :=
  if storesPending s p then s else writeEntries (s.modSlot p fun x => { x with owed := [] }) p (s.slot p).owed

/-- The bundle of a slot: from its stream, or from its own fetch (R224). -/
def issueBundle (ex : Exec) (s : State) (p : Place) : Host.Outcome State Fault Refusal :=
  if (s.slot p).folState = 2 ∨ (s.slot p).folState = 4 then issueStream ex s else issueOwn ex s

/-! ### The rotation (R248) -/

/-- The state in which a slot's turn begins; `part` names the pieces of a long access that it makes, 0 for all.  No word is in hand yet: a trap of
the fetch writes CWORD and AWORDV 0 (assumption 187). -/
def beginTurn (s : State) (p : Place) (part : Nat) : State :=
  { s with maker := .thread (s.slot p).name.toNat, cur := { Cur.none with place := p, part := part, hot := (s.coreAt p).tlb.map fun e => (e.1, e.2.hot) } }

/-- Whether the next pair of a slot is certain to issue without an interlock: its operands have come, its words are cached, and it does not wait. -/
def sureToIssue (ex : Exec) (s : State) (q : Place) : Bool :=
  let x := s.slot q
  canIssue s q && x.ahead == [] && x.pend.isNone && x.parkAt.isNone && x.owed == [] && !x.preq &&
  (match issueBundle ex (beginTurn s q 0) q with
   | .next r => r.cur.ended != .wait && !(lateMeets x.late (r.cur.cword :: r.cur.aword.toList)) && (r.coreAt q).icache == (s.coreAt q).icache
   | _ => false)

/-- The slots that come before a slot in the rotation after the one that issued last (R248). -/
def slotsBefore (last slot : Nat) : List Nat := ((List.range 8).map fun i => (last + 1 + i) % 8).takeWhile fun k => k != slot

/-- Whether the rotation lets a slot issue: no slot before it in the rotation is sure to (R248).  A slot whose next pair may be held by an interlock may be passed
over, since cycles outside timed blocks are not counted (assumption 162). -/
def goesFirst (ex : Exec) (s : State) (p : Place) : Bool :=
  (slotsBefore (s.coreAt p).lastSlot p.slot).all fun k => !(sureToIssue ex s ⟨p.unit, p.core, k⟩)

/-- A pair that has issued is the last one its core issued (R248): one held by an interlock has not. -/
def recordIssue (p : Place) (o : Host.Outcome State Fault Refusal) : Host.Outcome State Fault Refusal :=
  match o with
  | .next r => .next (if r.cur.ended = .wait ∧ (r.slot p).st = .run then r else r.modCoreAt p fun c => { c with lastSlot := p.slot })
  | o => o

/-- A thread whose pair would raise an event that finds no entry waits, and its pair takes effect when it issues again after the event has entered (R263). -/
def holdForEvent (s : State) (p : Place) (o : Host.Outcome State Fault Refusal) : Host.Outcome State Fault Refusal :=
  match o with
  | .next r =>
    if r.heldCount ≤ s.heldCount then .next r
    else .next ((stopForEvent s r).modSlot p fun x => { x with wait := some .event, st := .wait })
  | o => o

/-! ### Loads that a thread goes on past (R193, R195) -/

/-- Where a request of a slot goes. -/
def requestRng (p : Place) (q : Pkt) : Rng := decodeLa p.unit p.core q.dest

/-- Whether LS accesses to a range are under release order and have plain memory behind them: rim-core memory, HBM, the host window (R191). -/
def releaseOrder : Rng → Bool
  | .core u _ _ _ => decide (12 ≤ u)
  | .hbm _ => true
  | .host _ => true
  | _ => false

/-- The class and major opcode of a word, without P. -/
def wordMajor (w : BitVec 32) : Nat := w.toNat / 2 ^ 24 % 128

/-- The bytes from `a` on meet those from `b` on. -/
def touches (a n b m : Nat) : Bool := decide (a < b + m ∧ b < a + n)

/-- With `past`, go on past a plain load that waits for its answer and is a bundle of its own (R195); a row leader, whose bundles are streamed, does not. -/
def goPast (past : Bool) (p : Place) (o : Host.Outcome State Fault Refusal) : Host.Outcome State Fault Refusal :=
  match o with
  | .next r =>
    match (r.slot p).wait with
    | some (.answer id false) =>
      match r.pkts.find? fun q => q.id == id && !q.resp with
      | some q =>
        let x := r.slot p
        match q.body with
        | .load n false =>
          if past ∧ r.cur.ended = .wait ∧ r.cur.half = .lone ∧ wordMajor r.cur.cword = 0x10 ∧ releaseOrder (requestRng p q) ∧ x.blk = none ∧ x.folState = 0 ∧ x.folLeft = false ∧
              x.entry = false ∧ ¬(p.heavy ∧ p.core % 8 = 0) then
            let a : Ahead := { th := x.th, word := r.cur.cword, id := id, reg := BitVec.ofNat 5 (bits r.cur.cword.toNat 23 19), got := x.resp.filter (·.isPage), due := false,
                               key := locKey (requestRng p q), len := n }
            .next { r.modSlot p fun x => { x with st := .run, wait := none, resp := [], th := { x.th with pc := r.cur.next }, ahead := x.ahead ++ [a] } with
                    cur := { r.cur with ended := .no } }
          else o
        | _ => o
      | none => o
    | _ => o
  | o => o

/-- What a thread may do while loads that it has gone on past are outstanding (R189, R193, R195): transfers, plain loads and stores, and scalar operations, none of
which uses a register still to be loaded or touches the bytes of such a load, and none of which traps, parks or migrates; or wait for an instruction line or a fill. -/
def mayPass (r : State) (p : Place) (as : List Ahead) : Bool :=
  let x := r.slot p
  let ws := r.cur.cword :: r.cur.aword.toList
  let plain := ws.all fun w =>
    let m := wordMajor w
    decide ((1 ≤ m ∧ m ≤ 0x11) ∨ (0x40 ≤ m ∧ m < 0x60)) && (match decodeWord w with
      | .instr i => let (rd, wr, _) := usesOf i; as.all fun a => a.reg == 0 || !(rd.contains a.reg.toNat || wr.contains a.reg.toNat)
      | _ => false)
  let apart := as.all fun a =>
    ((r.coreAt p).sbuf.all fun e => e.slot != p.slot || !(touches (locKey e.rng) e.bytes.length a.key a.len)) &&
    r.pkts.all fun q => q.resp || q.place != p || q.id == a.id || (match q.body with
      | .load n false => !(touches (locKey (requestRng p q)) n a.key a.len)
      | _ => true)
  match r.cur.ended with
  | .no => plain && apart
  | .wait =>
    (x.st == .run || x.st == .wait) && (match x.wait with
      | some (.refill _) => true
      | some (.fill _ _) => true
      | some .migrate => false
      | _ => plain && apart)
  | _ => false

/-- A bundle beside loads that its thread has gone on past: one that may not pass them, or that lists a conversion, waits (R195, R271). -/
def besideAhead (s : State) (p : Place) (o : Host.Outcome State Fault Refusal) : Host.Outcome State Fault Refusal :=
  match o with
  | .next r =>
    if (s.slot p).ahead = [] ∨ (mayPass r p (s.slot p).ahead ∧ (r.slot p).th.xlc = (s.slot p).th.xlc) then .next r else .next { s with cur := { s.cur with ended := .wait } }
  | o => o

/-- The value of a load that the thread of a slot went on past: its register takes it, in the threads kept for later loads too. -/
def Slot.loaded (x : Slot) (a : Ahead) (v : Word) : Slot :=
  let before := x.ahead.takeWhile fun b => b.id != a.id
  let later := (x.ahead.drop (before.length + 1)).map fun b => { b with th := b.th.writeG a.reg v }
  { x with th := x.th.writeG a.reg v, ahead := before ++ later }

/-- Take up a load that a slot's thread has gone on past, as the thread stood before it: its value has come, or its request goes out again.  Anything else it meets, a
trap or a route entry among them, takes the thread back to the load, once no earlier one is outstanding. -/
def takeUp (ex : Exec) (s : State) (p : Place) (a : Ahead) : Host.Outcome State Fault Refusal :=
  let x := s.slot p
  let t := s.modSlot p fun x => { x with th := a.th, st := .run, wait := none, resp := a.got, ahead := [] }
  let t := { t with cur := { t.cur with pc := a.th.pc, cword := a.word, next := a.th.pc + 4, half := .lone } }
  let held : Host.Outcome State Fault Refusal := .next { s with cur := { s.cur with ended := .wait } }
  match decodeWord a.word with
  | .instr i =>
    match ex i t with
    | .next r =>
      let y := r.slot p
      let first := (x.ahead.head?.map (·.id)) == some a.id
      match r.cur.ended, y.wait with
      | .no, _ => .next (r.modSlot p fun _ => x.loaded a (y.th.readG a.reg))
      | .wait, some (.answer id _) =>
        .next (r.modSlot p fun _ => { x with ahead := x.ahead.map fun b => if b.id = a.id then { b with id := id, got := y.resp.filter (·.isPage), due := false } else b })
      | .wait, some .drain => held
      | .wait, some (.channel _) => held
      | _, _ => if first then .next r else held
    | o => o
  | _ => held

/-- One turn of a slot: a pre-emption at its boundary, which no bundle passes (R255), the exception-list entries it owes (R271), a park or a trap decided earlier (R92, R251), a load gone
past (R195), or one bundle. -/
def issueSlot (ex : Exec) (s : State) (p : Place) (part : Nat) (past : Bool := false) : Host.Outcome State Fault Refusal :=
  let s := beginTurn s p part
  if p.ok = false then .fault .noSuchSlot
  else if (s.slot p).preq && atBoundary s p then .next (stopForEvent s (preempt s p))
  else if (s.slot p).owed ≠ [] then .next (stopForEvent s (writeOwed s p))
  else if (s.slot p).parkAt.isSome && atBoundary s p then .next (stopForEvent s (parkDue s p ((s.slot p).parkAt.getD 0)))
  else if pendReady s p then
    match pendDue (s.slot p) with
    | some (c, n, addr, d0, d1) => holdForEvent s p (.next (takePending s p c n addr d0 d1))
    | none => .next s
  else if ((s.slot p).ahead.any fun a => a.due) && ((s.slot p).st == .run || (s.slot p).st == .wait) then
    match (s.slot p).ahead.find? fun a => a.due with
    | some a => holdForEvent s p (leaving p (takeUp ex s p a))
    | none => .next s
  else if canIssue s p && goesFirst ex s p then
    holdForEvent s p (recordIssue p (leaving p (goPast past p (besideAhead s p (issueBundle ex s p)))))
  else .next s

end Sys2Proof.Machine
end

