-- ==== Sys2Proof/Machine/Step.lean ====
section
/-! DEFINITION. One step of the module: the next turn of the agenda, or a turn the arbiter chooses. -/

namespace Sys2Proof.Machine

/-- Whether a constructor is one of the part's own steps, which have no instruction word. -/
def isEvent (i : Instr) : Bool := (encodeNat i).isNone

/-- Take one turn: a slot issues a bundle, or one of the part's own steps runs with its arguments, unless an event it would raise finds no entry (R263). -/
def doTurn (s : State) : Turn → Host.Outcome State Fault Refusal
  | .issue p part => issueSlot exec s p part
  | .ahead p => issueSlot exec s p 0 true
  | .event i a =>
    if isEvent i then
      match exec i (beginEvent s a) with
      | .next r => .next (stopForEvent (beginEvent s a) r)
      | o => o
    else .next s

/-- After a turn, every slot that is READY and not held resumes at once (R215, R216). -/
def after (o : Host.Outcome State Fault Refusal) : Host.Outcome State Fault Refusal :=
  match o with
  | .next s => .next (resumeReady s)
  | o => o

/-- One step. -/
def step (s : State) : Host.Outcome State Fault Refusal :=
  match s.agenda with
  | t :: r => after (doTurn { s with agenda := r } t)
  | [] => after (doTurn { s with free := s.free + 1 } (Config.arbiter s.free))

/-- Where `State.withFetchWord` runs its instruction: slot h0 of core 0 of bed 0. -/
def fetchPlace : Place := ⟨0, 0, 0⟩

/-- The machine with an instruction's word at the next fetch: it stands at offset 0 of core 0's local memory in bed 0, slot h0 runs there in
system mode with every feature the part offers accepted, and its issue is the next turn.  This stands for start-up, bring-up and the launch
of a program (assumption 6). -/
def State.withFetchWord (s : State) (nbits w : Nat) : State :=
  let n := if nbits ≤ 32 then w % 2 ^ 32 else w % 2 ^ 64
  { s with
    mem := memSetMany s.mem 0 (bytesOf 8 n)
    slots := Tbl.set s.slots (slotKey fetchPlace)
      { Slot.empty with st := .run, name := fetchPlace.name, th := { Thread.zero with mode := true, pc := 0xF000F00000000000 } }
    feat := Config.featOff
    agenda := [.issue fetchPlace] }

end Sys2Proof.Machine
end

