-- ==== Sys2Proof/Safety.lean ====
section
/-! DEFINITION. What a safe run is, and the vocabulary of the statements: when a word may run, what every completed word does to its slot, and when a
slot's own memory answers an access at once. -/

namespace Sys2Proof

/-- A state whose memory is in its canonical form. -/
def Safe (s : Machine.State) : Prop := Machine.Memory.wf s.mem = true

/-- A run of `n` steps that meets no refusal. -/
def Unrefused (n : Nat) (s : Machine.State) : Prop := ∀ r, core.run n s ≠ .refused r

namespace Machine

/-- The word may run in the slot in execution: the part has its feature, the slot is of its kind, and it is not privileged in user mode (R295). -/
def Admitted (i : Instr) (s : State) : Prop :=
  s.feat.getLsbD (gateOf i).feature = true ∧
  ((gateOf i).slots = 0 ∨ s.cur.place.heavy = true ∨ ((gateOf i).slots = 1 ∧ s.cur.place.rim = true ∧ s.sysMode = true)) ∧
  ((gateOf i).sys = true → s.sysMode = true)

/-- What a completed word does to its slot beside its effect, with the next program counter and the barrier whose aligned completion it saw (R284, R223):
the first word of a pair and a lone word set the program counter; a lone word leaves the slot waiting for nothing. -/
def Slot.retire (x : Slot) (lone : Bool) (npc : Word) (al : Option Nat) : Slot :=
  if lone then { x with th := { x.th with pc := npc }, aligned := al, wait := none, resp := [], backoff := 0 }
  else { x with th := { x.th with pc := npc }, aligned := al }

/-- The state after a completed word that goes on at `npc`; the second word of a pair leaves the program counter to the first. -/
def State.retireTo (s : State) (npc : Word) (al : Option Nat) : State :=
  if s.cur.half = .a then s else s.setSlot s.cur.place (s.here.retire (s.cur.half == .lone) npc al)

/-- The state after a completed word that does not transfer control. -/
def State.retired (s : State) : State := s.retireTo s.cur.next none

/-- The state after a completed word that transfers to `t`. -/
def State.jumped (s : State) (t : Word) : State :=
  { s.retireTo t none with cur := { s.cur with jumped := true } }

/-- A program address that names `n` bytes of its core's own memory from offset `off` through window `w` (0 RAW, 1 FUTURE), by the self alias or by
the core's own name, aligned to `al` and below the system area (R17, R24, R32). -/
def OwnAt (p : Place) (pa : Word) (n al w off : Nat) : Prop :=
  pa.toNat / 2 ^ 52 = 0xF00 ∧ decodeLa p.unit p.core (pa.toNat % 2 ^ 52) = .core p.unit p.core w off ∧ w ≤ 1 ∧
  off + n ≤ sysOff p.unit ∧ 0 < n ∧ pa.toNat % al = 0 ∧ pa.toNat / 2 ^ 16 = (pa.toNat + n - 1) / 2 ^ 16

/-- The bytes of a core's own memory, as they stand. -/
def State.ownBytes (s : State) (p : Place) (off n : Nat) : List Byte := memGetMany s.mem (coreKey p.unit p.core off) n

/-- No channel of the core has a range, so none holds an access back (R111, R113). -/
def Unarmed (c : Core) : Prop := c.chans.all (fun e => e.2.hi == 0 && e.2.wm == 0) = true

/-- No reduction or explicit packet of the slot's thread is on its way to a store (R189). -/
def NoneSent (s : State) : Prop := (s.pkts ++ s.retries.map (·.pkt)).all (fun q => q.resp || q.place != s.cur.place || asyncLen q == 0) = true

/-- No write is still to be performed for the load-store path (R200). -/
def Performed (s : State) : Prop := s.lag.all (fun l => l.reader != .ls) = true

/-- A state with what its threads have observed of pending writes changed, and nothing else (R201): `seen` and `heard` are the model's own record of it. -/
def Observes (s t : State) : Prop := ∃ seen heard, t = { s with seen := seen, heard := heard }

/-- The core's memory answers the slot at once: no channel has a range, no store is buffered, streaming or on its way, no word holds a soft error, and
every write is performed. -/
def Quiet (s : State) : Prop :=
  Unarmed (s.coreAt s.cur.place) ∧ (s.coreAt s.cur.place).sbuf = [] ∧ s.here.ntOut = [] ∧ s.errs = [] ∧ Performed s ∧ NoneSent s

/-- No piece of a wide access of the bundle has been read in an earlier turn, and this turn reads all of them (R190). -/
def Whole (s : State) : Prop := s.cur.part = 0 ∧ ∀ k, heldData s.here.resp k = none

/-- The checks of R32 admit an access of the slot in execution, which changes nothing and is not cross (R25). -/
def Reaches (s : State) (pa : Word) (n al : Nat) (kind : Kind) (acc : Acc) : Prop :=
  addressCheck s s.cur.place pa n al kind false = .ok s acc ∧ acc.cross = false

/-- A request towards a range stays on its core or rim die (R77). -/
def Stays (s : State) (r : Rng) : Prop :=
  let p := s.cur.place
  s.homeOf p.unit r = some p.unit ∧ (p.rim = true ∨ (∃ w off, r = .core p.unit p.core w off) ∨ ∃ off, r = .page p.unit p.core off)

/-- A request towards a range goes out: it stays at home, or its route entry is valid and the string of that entry well formed, with no soft error to meet (R84,
R89). -/
def Routed (s : State) (r : Rng) : Prop :=
  let p := s.cur.place
  let n := s.routeIx p.unit r
  Stays s r ∨ (s.errs = [] ∧ (s.routeEntry p.unit p.core n).valid = true ∧ routeRefused p.rim false (s.routeString p.unit p.core n) = none)

/-- The slot has nothing outstanding: no buffered or streaming store, no reduction, no packet, no host-window store (R194, R196, R208). -/
def Settled (s : State) : Prop :=
  (s.coreAt s.cur.place).sbuf = [] ∧ s.here.ntOut = [] ∧ s.here.redOut = 0 ∧ s.here.expOut = 0 ∧ NoneSent s ∧
  (s.pkts ++ s.retries.map (·.pkt)).all (fun q => q.place != s.cur.place) = true ∧ s.hostOut.all (fun q => q.2 != s.here.name) = true

/-- A program address at which a bundle may start, in a line the core's instruction cache holds: the word there is no mark, and neither is it the
second word of a pair (R58, R282, R286). -/
def Lands (s : State) (t : Word) : Prop :=
  let p := s.cur.place
  let word := fun off => (Tbl.look (s.coreAt p).icache (coreKey p.unit p.core off / 64)).map fun l => lineWord l (coreKey p.unit p.core off)
  ∃ off w, OwnAt p t 4 4 0 off ∧ word off = some w ∧ isMark w = false ∧
    (t.getLsbD 2 = true → ∃ before v, OwnAt p (t - 4) 4 4 0 before ∧ word before = some v ∧ isMark v = false ∧ wordP v = false)

/-- A tensor of a command block: absent for a FIFO end, else the descriptor in the core's own memory that the block names (R104, R106, R107). -/
def TensorAt (s : State) (fifo : Bool) (pa : Nat) (t : Option Tensor) : Prop :=
  if fifo then t = none
  else ∃ w off, OwnAt s.cur.place (BitVec.ofNat 64 pa) 64 64 w off ∧ t = some (tensorOf (ofBytes (s.ownBytes s.cur.place off 64)))

/-- A command joins its channel's queue (R111). -/
def State.queued (s : State) (k : Cmd) (c : Chan) : State := s.modCoreAt s.cur.place fun x => { x with chans := Tbl.set x.chans k.chan c }

/-- A store enters the store buffer (R192). -/
def State.buffered (s : State) (pa : Word) (w off : Nat) (bs : List Byte) (rel : Option Nat) : State :=
  let p := s.cur.place
  (s.modCoreAt p fun c => { c with sbuf := c.sbuf ++ [{ slot := p.slot, pa := pa, rng := .core p.unit p.core w off, key := coreKey p.unit p.core off,
                                                          bytes := bs, sent := none, id := s.free, rel := rel, gone := 0,
                                                          ctx := s.ctx }] }).tick

/-- The slot's thread has read `n` bytes of a range, and observed the writes it read (R201); by an acquire (R193, R197). -/
def State.sees (s : State) (r : Rng) (n : Nat) : State := observeLoad s s.cur.place r n
def State.acquires (s : State) (r : Rng) (n : Nat) : State := acquired (s.sees r n) s.cur.place r n

/-- The range of an offset of the core's own memory through a window. -/
def State.ownRng (s : State) (w off : Nat) : Rng := .core s.cur.place.unit s.cur.place.core w off

/-- An admitted word that reads, changes and writes `n` bytes of its core's own memory as one action, which is an acquire, and gives the old value (R193, R323, R325). -/
def Swaps (i : Instr) (d : BitVec 5) (s : State) (w off n old new : Nat) : Prop :=
  Admitted i s → exec i s = .next ((((s.put .ls (coreKey s.cur.place.unit s.cur.place.core off) (bytesOf n new)).acquires (s.ownRng w off) n).setG d
    (BitVec.ofInt 64 (sintN (8 * n) old))).retired)

/-- An admitted word writes a general register with what it has read of `n` bytes of a range, and changes nothing else beside the record of what its thread has
observed (R201) and the slot's own bookkeeping. -/
def Reads (i : Instr) (d : BitVec 5) (s : State) (r : Rng) (n : Nat) (v : Word) : Prop := Admitted i s → exec i s = .next ((s.sees r n).setG d v).retired

/-- The same of a word that is an acquire (R193, R197). -/
def Acquires (i : Instr) (d : BitVec 5) (s : State) (r : Rng) (n : Nat) (v : Word) : Prop :=
  Admitted i s → exec i s = .next ((s.acquires r n).setG d v).retired

/-- An admitted word writes a general register and changes nothing else beside the slot's own bookkeeping. -/
def Gives (i : Instr) (d : BitVec 5) (s : State) (v : Word) : Prop := Admitted i s → exec i s = .next (s.setG d v).retired

/-- An admitted word writes a vector register so that each of its lanes of width `w` holds a given value if active, and else what it held. -/
def GivesLanes (i : Instr) (d : BitVec 5) (m : BitVec 3) (w : Nat) (s : State) (f : Nat → Nat) : Prop :=
  Admitted i s → ∃ r : VReg, exec i s = .next (s.setV d r).retired ∧
    ∀ k < 512 / w, lane w k r = if (s.opM m).getLsbD k then f k % 2 ^ w else lane w k (s.opV d)

/-- The registers of a slot's thread but for the program counter. -/
def sameRegs (x y : Thread) : Prop := { x with pc := 0 } = { y with pc := 0 }

/-! ### The part's own steps -/

/-- An instruction or step answers a next state, of which something holds. -/
def Acts (i : Instr) (s : State) (P : State → Prop) : Prop := ∃ t, exec i s = .next t ∧ P t

/-- Request `q` stands at its home as the packet the step names, and is the next of its route to act there (R79, R81). -/
def Due (s : State) (q : Pkt) : Prop := s.pkts[s.arg.index]? = some q ∧ homeDue s s.arg.index q = true

/-- Response `q` has come back to the port its request left by, as the packet the step names (R80). -/
def Back (s : State) (q : Pkt) : Prop := s.pkts[s.arg.index]? = some q ∧ q.resp = true ∧ q.loc.delivered = true

/-- The request the step names has left, and one response of a KIND goes back to its issuer (R80, R90). -/
def Answers (s : State) (q : Pkt) (t : State) (kind : Nat) (b : Body) : Prop :=
  ∃ r, t.pkts = s.pkts.eraseIdx s.arg.index ++ [r] ∧ r.resp = true ∧ r.kind = kind ∧ r.body = b ∧ r.src = q.src ∧ r.slot = q.slot ∧ r.id = q.id

/-- The request the step names is answered by a NACK with a REASON (R90). -/
def Nacks (s : State) (q : Pkt) (t : State) (reason : Nat) : Prop :=
  ∃ hop unit, Answers s q t 0x1A (.nack reason hop q.kind unit)

/-- An answer for the slot that waits for it by number: the slot runs again with what came, and the packet is gone (R80). -/
def Gets (s : State) (q : Pkt) (t : State) (r : Resp) : Prop :=
  t.pkts = s.pkts.eraseIdx s.arg.index ∧ r ∈ (t.slot q.place).resp ∧ (t.slot q.place).wait = none ∧ (t.slot q.place).th = (s.slot q.place).th ∧ t.mem = s.mem

/-- No slot of a bed has a thread in a timed block. -/
def noBlocks (s : State) (bed : Nat) : Bool := s.slots.all fun e => !(e.1 / 1024 == bed && e.2.blk.isSome)

end Machine
end Sys2Proof
end

