-- ==== Sys2Proof/Certificates/Slice0/Obligations.lean ====
section
/-! DEFINITION. The statements about the model, for the provers. -/

open Sys2Proof Sys2Proof.Machine

/-! ### General registers: scalar integer words -/

/-- R303: each integer register operation writes g[D] with the result shown, from its operands as the pair rule reads them.
R303: `clz` counts the leading zero bits, `ctz` the trailing ones (64 for zero), `popc` the 1 bits.
R306 to R308: the immediate forms, the constants and addresses they build, and the select. -/
def Obligations.IntegerResults : Prop :=
  (∀ (s : State) (d a b : BitVec 5), let x := s.opG a; let y := s.opG b; let n := y.toNat % 64
    Gives (.or d a b) d s (x ||| y) ∧ Gives (.and d a b) d s (x &&& y) ∧ Gives (.xor d a b) d s (x ^^^ y) ∧
    Gives (.andn d a b) d s (x &&& ~~~y) ∧ Gives (.add d a b) d s (x + y) ∧ Gives (.sub d a b) d s (x - y) ∧
    Gives (.mul d a b) d s (x * y) ∧
    Gives (.mulh d a b) d s ((x.signExtend 128 * y.signExtend 128).extractLsb' 64 64) ∧
    Gives (.mulhn d a b) d s ((x.zeroExtend 128 * y.zeroExtend 128).extractLsb' 64 64) ∧
    Gives (.shl d a b) d s (x <<< n) ∧ Gives (.shr d a b) d s (x >>> n) ∧ Gives (.sha d a b) d s (x.sshiftRight n) ∧
    Gives (.rot d a b) d s (if n = 0 then x else x >>> n ||| x <<< (64 - n)) ∧
    Gives (.min d a b) d s (if x.toInt ≤ y.toInt then x else y) ∧ Gives (.max d a b) d s (if x.toInt ≤ y.toInt then y else x) ∧
    Gives (.minn d a b) d s (if x.toNat ≤ y.toNat then x else y) ∧ Gives (.maxn d a b) d s (if x.toNat ≤ y.toNat then y else x) ∧
    Gives (.extB d a) d s ((x.setWidth 8).signExtend 64) ∧ Gives (.extH d a) d s ((x.setWidth 16).signExtend 64) ∧
    Gives (.extW d a) d s ((x.setWidth 32).signExtend 64) ∧
    Gives (.cmpEq d a b) d s (if x = y then 1 else 0) ∧ Gives (.cmpNe d a b) d s (if x = y then 0 else 1) ∧
    Gives (.cmpLt d a b) d s (if x.toInt < y.toInt then 1 else 0) ∧ Gives (.cmpLe d a b) d s (if x.toInt ≤ y.toInt then 1 else 0) ∧
    Gives (.cmpLtn d a b) d s (if x.toNat < y.toNat then 1 else 0) ∧ Gives (.cmpLen d a b) d s (if x.toNat ≤ y.toNat then 1 else 0)) ∧
  (∀ (s : State) (d a : BitVec 5), let x := s.opG a
    (∃ n ≤ 64, (∀ k < 64, 64 - n ≤ k → x.getLsbD k = false) ∧ (n < 64 → x.getLsbD (63 - n) = true) ∧
      Gives (.clz d a) d s (BitVec.ofNat 64 n)) ∧
    (∃ n ≤ 64, (∀ k < n, x.getLsbD k = false) ∧ (n < 64 → x.getLsbD n = true) ∧ Gives (.ctz d a) d s (BitVec.ofNat 64 n)) ∧
    Gives (.popc d a) d s (BitVec.ofNat 64 ((List.range 64).filter fun k => x.getLsbD k).length)) ∧
  (∀ (s : State) (d a b c : BitVec 5) (i : BitVec 14) (n : BitVec 6) (j : BitVec 1), let x := s.opG a
    Gives (.addi d a i) d s (x + i.signExtend 64) ∧ Gives (.andi d a i) d s (x &&& i.zeroExtend 64) ∧
    Gives (.ori d a i) d s (x ||| i.zeroExtend 64) ∧ Gives (.xori d a i) d s (x ^^^ i.zeroExtend 64) ∧
    Gives (.shli d a n) d s (x <<< n.toNat) ∧ Gives (.shri d a n) d s (x >>> n.toNat) ∧ Gives (.shai d a n) d s (x.sshiftRight n.toNat) ∧
    Gives (.lih j d a i) d s (((j ++ a ++ i : BitVec 20).signExtend 64) <<< 14) ∧
    Gives (.lia d i) d s (s.cur.pc + 4 * i.signExtend 64) ∧
    Gives (.lea d a i) d s (0xF000F00000000000 + BitVec.ofNat 64 ((x + i.signExtend 64).toNat % 2 ^ 23)) ∧
    Gives (.sel d a b c) d s (if s.opG c = 0 then s.opG b else x))

/-- R304: a zero divisor gives the quotient −1 and the dividend as remainder; otherwise the quotient is rounded toward zero and the remainder, smaller than the divisor, takes the dividend's sign. `div` and `rem` are signed, `divn` and `remn` unsigned. -/
def Obligations.Division : Prop :=
  ∀ (s : State) (d a b : BitVec 5), let x := s.opG a; let y := s.opG b
    (y = 0 → Gives (.div d a b) d s (-1) ∧ Gives (.divn d a b) d s (-1) ∧ Gives (.rem d a b) d s x ∧ Gives (.remn d a b) d s x) ∧
    (∀ q r : Int, y ≠ 0 → x.toInt = q * y.toInt + r → r.natAbs < y.toInt.natAbs → (r ≠ 0 → (r < 0 ↔ x.toInt < 0)) →
      Gives (.div d a b) d s (BitVec.ofInt 64 q) ∧ Gives (.rem d a b) d s (BitVec.ofInt 64 r)) ∧
    (∀ q r : Nat, y ≠ 0 → x.toNat = q * y.toNat + r → r < y.toNat →
      Gives (.divn d a b) d s (BitVec.ofNat 64 q) ∧ Gives (.remn d a b) d s (BitVec.ofNat 64 r))

/-! ### Floating point -/

/-- R301, R309 to R313: each scalar floating-point word writes g[D] with its operation on the values its operands hold in the type, rounded once in the mode.
R312, R271: an `fcvi` of anything but a NaN writes g[D] and lists nothing; a NaN writes 0, lists lane 0 and element 0 while the thread stands in its home slot and the list has room, and advances `xlc` wherever it stands, once every earlier store of the thread has been performed. -/
def Obligations.FloatResults : Prop :=
  (∀ (s : State) (d a b x : BitVec 5) (t r c e : BitVec 2) (i : BitVec 3),
    let va := readF t (s.opG a); let vb := readF t (s.opG b); let vx := readF t (s.opG x); let m := Mode.ofCode r
    Gives (.fadd d a b t r) d s (writeF t m (Val.add m va vb)) ∧ Gives (.fsub d a b t r) d s (writeF t m (Val.add m va vb.neg)) ∧
    Gives (.fmul d a b t r) d s (writeF t m (va.mul vb)) ∧ Gives (.fdiv d a b t r) d s (writeF t m (va.div vb)) ∧
    Gives (.fsqrt d a t r) d s (writeF t m va.sqrt) ∧ Gives (.fma d a b t r x) d s (writeF t m (Val.add m (va.mul vb) vx)) ∧
    Gives (.fmin d a b t) d s (writeF t .rne (va.min vb)) ∧ Gives (.fmax d a b t) d s (writeF t .rne (va.max vb)) ∧
    Gives (.fcmp d a b t e) d s (if relation e va vb then 1 else 0) ∧
    Gives (.fcvt d a t r c) d s (writeF t m (readF c (s.opG a))) ∧ Gives (.ficv d a t r i) d s (writeF t m (Val.int (readI i (s.opG a)))) ∧
    Gives (.fclass d a t) d s (classMask (fmtOf t) va) ∧ Gives (.fneg d a t) d s (writeF t .rne va.neg) ∧
    Gives (.fabs d a t) d s (writeF t .rne va.abs)) ∧
  (∀ (s : State) (d a : BitVec 5) (t r : BitVec 2) (i : BitVec 3), let p := s.cur.place
    let v := readF t (s.opG a)
    let at' := s.opTh.xlb.toNat + 8 * s.opTh.xlc.toNat
    let entry := BitVec.ofNat 64 (s.wordPc.toNat % 2 ^ 32)
    (v.isNan = false → Gives (.fcvi d a t r i) d s (BitVec.ofInt 64 (v.toIntTy (Mode.ofCode r) (intSigned i) (intWidth i)).1)) ∧
    (v.isNan = true → Admitted (.fcvi d a t r i) s → (s.coreAt p).sbuf.any (fun e => e.slot == p.slot) = false → (s.slot p).ntOut = [] →
      exec (.fcvi d a t r i) s = .next (((if s.away p = false ∧ s.opTh.xlc.toNat < s.opTh.xll.toNat ∧ at' + 8 ≤ listLimit p.unit
          then s.put .ls (coreKey p.unit p.core at') (bytesOf 8 entry.toNat) else s).modTh
        (fun t => { t with xlc := if s.opTh.xlc = BitVec.allOnes 64 then s.opTh.xlc else s.opTh.xlc + 1 })).setG d 0).retired))

/-! ### Vector registers -/

/-- R349, R356, R357: each lane operation gives every active lane its result modulo 2^w, and leaves the others.
R358, R363: what the words that move lanes write: `vsel`, `vperm`, `vbcast`, `vmov`, `vins` and `vext`. -/
def Obligations.LaneResults : Prop :=
  (∀ (s : State) (d a b : BitVec 5) (m : BitVec 3) (t : BitVec 4),
    let w := laneWidth t
    let x := fun k => lane w k (s.opV a); let y := fun k => lane w k (s.opV b); let z := fun k => lane w k (s.opV d)
    let f := laneFmt t
    (t.toNat < 8 →
      GivesLanes (.vadd d a b m t) d m w s (fun k => x k + y k) ∧ GivesLanes (.vsub d a b m t) d m w s (fun k => x k + 2 ^ w - y k) ∧
      GivesLanes (.vmul d a b m t) d m w s (fun k => x k * y k) ∧ GivesLanes (.vmla d a b m t) d m w s (fun k => z k + x k * y k) ∧
      GivesLanes (.vand d a b m t) d m w s (fun k => x k &&& y k) ∧ GivesLanes (.vor d a b m t) d m w s (fun k => x k ||| y k) ∧
      GivesLanes (.vxor d a b m t) d m w s (fun k => x k ^^^ y k) ∧
      GivesLanes (.vshl d a b m t) d m w s (fun k => if w ≤ y k then 0 else x k <<< y k) ∧
      GivesLanes (.vshr d a b m t) d m w s (fun k => if w ≤ y k then 0 else x k >>> y k) ∧
      GivesLanes (.vsha d a b m t) d m w s (fun k =>
        if w ≤ y k then (if 2 ^ (w - 1) ≤ x k then 2 ^ w - 1 else 0) else (sintN w (x k) / (2 ^ y k : Nat) % (2 ^ w : Nat)).toNat) ∧
      GivesLanes (.vmin d a b m t) d m w s (fun k => if laneInt t (x k) ≤ laneInt t (y k) then x k else y k) ∧
      GivesLanes (.vmax d a b m t) d m w s (fun k => if laneInt t (x k) ≤ laneInt t (y k) then y k else x k)) ∧
    (8 ≤ t.toNat → t.toNat < 12 →
      GivesLanes (.vfadd d a b m t) d m w s (fun k => f.round .rne (Val.add .rne (f.decode (x k)) (f.decode (y k)))) ∧
      GivesLanes (.vfsub d a b m t) d m w s (fun k => f.round .rne (Val.add .rne (f.decode (x k)) (f.decode (y k)).neg)) ∧
      GivesLanes (.vfmul d a b m t) d m w s (fun k => f.round .rne ((f.decode (x k)).mul (f.decode (y k)))) ∧
      GivesLanes (.vfma d a b m t) d m w s (fun k => f.round .rne (Val.add .rne ((f.decode (x k)).mul (f.decode (y k))) (f.decode (z k)))) ∧
      GivesLanes (.vfmin d a b m t) d m w s (fun k => f.round .rne ((f.decode (x k)).min (f.decode (y k)))) ∧
      GivesLanes (.vfmax d a b m t) d m w s (fun k => f.round .rne ((f.decode (x k)).max (f.decode (y k)))))) ∧
  (∀ (s : State) (d a b : BitVec 5) (m : BitVec 3) (t : BitVec 4), t.toNat < 12 →
    let w := laneWidth t; let n := 512 / w
    let x := fun k => lane w k (s.opV a); let y := fun k => lane w k (s.opV b)
    (Admitted (.vsel d a b m t) s → ∃ r : VReg, exec (.vsel d a b m t) s = .next (s.setV d r).retired ∧
      ∀ k < n, lane w k r = if (s.opM m).getLsbD k then x k else y k) ∧
    GivesLanes (.vperm d a b m t) d m w s (fun k => x (y k % n)) ∧
    GivesLanes (.vbcast d a m t) d m w s (fun _ => (s.opG a).toNat) ∧
    GivesLanes (.vmov d a m t) d m w s x ∧
    ((s.opG b).toNat < n → Admitted (.vins d a b t) s → ∃ r : VReg, exec (.vins d a b t) s = .next (s.setV d r).retired ∧
      ∀ k < n, lane w k r = if k = (s.opG b).toNat then (s.opG a).toNat % 2 ^ w else lane w k (s.opV d)) ∧
    ((s.opG b).toNat < n → Gives (.vext d a b t) d s
      (if t.toNat < 4 then BitVec.ofInt 64 (sintN w (x (s.opG b).toNat)) else BitVec.ofNat 64 (x (s.opG b).toNat))))

/-- R349, R358, R363, R365: comparisons and the mask words: `vcmp` writes the bits of active lanes, leaves the others and clears those at and above L.
R364: the reductions: a sum modulo 2^64, the smallest and largest lane with their values for no active lane, and the fixed tree of R279. -/
def Obligations.MaskResults : Prop :=
  (∀ (s : State) (g : BitVec 5) (d a b m : BitVec 3) (va vb : BitVec 5) (t : BitVec 4) (o : BitVec 2),
    let w := laneWidth t; let n := 512 / w
    (t.toNat < 12 → Admitted (.vcmp d va vb m t o) s → ∃ r : Word, exec (.vcmp d va vb m t o) s = .next (s.setM d r).retired ∧
      ∀ k < 64, r.getLsbD k = (decide (k < n) &&
        (if (s.opM m).getLsbD k then laneRel t o (lane w k (s.opV va)) (lane w k (s.opV vb)) else (s.opM d).getLsbD k))) ∧
    (Admitted (.mand d a b) s → exec (.mand d a b) s = .next (s.setM d (s.opM a &&& s.opM b)).retired) ∧
    (Admitted (.mor d a b) s → exec (.mor d a b) s = .next (s.setM d (s.opM a ||| s.opM b)).retired) ∧
    (Admitted (.mnot d a) s → exec (.mnot d a) s = .next (s.setM d (~~~ s.opM a)).retired) ∧
    (Admitted (.vmovGToM d g) s → exec (.vmovGToM d g) s = .next (s.setM d (s.opG g)).retired) ∧
    Gives (.vmovMToG g a) g s (s.opM a) ∧
    Gives (.mcnt g a t) g s (BitVec.ofNat 64 ((List.range n).filter fun k => (s.opM a).getLsbD k).length)) ∧
  (∀ (s : State) (d a : BitVec 5) (m : BitVec 3) (t : BitVec 4),
    let w := laneWidth t
    let act := (List.range (512 / w)).filter fun k => (s.opM m).getLsbD k
    let xs := act.map fun k => laneInt t (lane w k (s.opV a))
    (t.toNat < 8 →
      Gives (.vredAdd d a m t) d s (BitVec.ofInt 64 xs.sum) ∧
      (∀ v : Int, (v ∈ xs ∧ ∀ u ∈ xs, v ≤ u) ∨ (xs = [] ∧ v = intMax (t.toNat < 4) w) → Gives (.vredMin d a m t) d s (BitVec.ofInt 64 v)) ∧
      (∀ v : Int, (v ∈ xs ∧ ∀ u ∈ xs, u ≤ v) ∨ (xs = [] ∧ v = intMin (t.toNat < 4) w) → Gives (.vredMax d a m t) d s (BitVec.ofInt 64 v))) ∧
    (8 ≤ t.toNat → t.toNat < 12 →
      let vs := act.map fun k => (laneFmt t).decode (lane w k (s.opV a))
      Gives (.vredMin d a m t) d s (BitVec.ofNat 64 ((laneFmt t).round .rne (vs.foldl Val.min .nan))) ∧
      Gives (.vredMax d a m t) d s (BitVec.ofNat 64 ((laneFmt t).round .rne (vs.foldl Val.max .nan))) ∧
      Gives (.vredFadd d a m t) d s (BitVec.ofNat 64 (redFadd t (s.opM m) (s.opV a)))))

/-- R271 to R274, R359 to R362: `vcvt` writes v[D] with the conversion of its types; the forms through the decode tables find them at rest and without a soft error. What it lists goes into the thread's list in ascending order, as far as the list has room and the thread is at home, and advances `xlc` for each; of a floating-point source and an integer type those are the active lanes that hold a NaN. -/
def Obligations.VectorConversions : Prop :=
  ∀ (s : State) (d a : BitVec 5) (c t : BitVec 4) (m : BitVec 3), Admitted (.vcvt d a c m t) s →
    let p := s.cur.place; let r := convert s p t c (s.opM m) (s.opV d) (s.opV a); let x := s.opTh
    let ready := t = 12 ∨ t = 13 ∨ c = 12 ∨ c = 13 →
      tablesBusy s p (if t = 12 then List.range 256 else if c = 12 then fields 8 64 (s.opV a).toNat else []) = none ∧ s.errs = []
    (t.toNat = 14 ∨ t.toNat = 15 → exec (.vcvt d a c m t) s = .next (s.setV d (toMx (t == 15) c (s.opV a))).retired) ∧
    (t.toNat < 14 → 14 ≤ c.toNat → exec (.vcvt d a c m t) s = .next (s.setV d (fromMx (c == 15) t (s.opV a))).retired) ∧
    (t.toNat < 14 → c.toNat < 14 → ready → r.2 = [] → exec (.vcvt d a c m t) s = .next (s.setV d r.1).retired) ∧
    (t.toNat < 14 → c.toNat < 14 → ready → r.2 ≠ [] → storesPending s p = false → x.xlc.toNat + r.2.length < 2 ^ 64 →
      let room := fun (i : Nat) => s.away p = false ∧ x.xlc.toNat + i < x.xll.toNat ∧ x.xlb.toNat + 8 * (x.xlc.toNat + i) + 8 ≤ listLimit p.unit
      let entry := fun (i : Nat) => s.wordPc.toNat % 2 ^ 32 + (r.2.getD i (0, 0)).1 * 2 ^ 32 + (r.2.getD i (0, 0)).2 * 2 ^ 40
      exec (.vcvt d a c m t) s = .next (((((List.range r.2.length).foldl (fun u i =>
        if room i then u.put .ls (coreKey p.unit p.core (x.xlb.toNat + 8 * (x.xlc.toNat + i))) (bytesOf 8 (entry i)) else u) s).modTh fun y =>
          { y with xlc := x.xlc + BitVec.ofNat 64 r.2.length }).setV d r.1).retired)) ∧
    (t.toNat < 8 → 8 ≤ c.toNat → c.toNat < 12 → r.2 = ((List.range (Nat.min (512 / laneWidth t) (512 / laneWidth c))).filter fun k =>
      (s.opM m).getLsbD k && ((laneFmt c).decode (lane (laneWidth c) k (s.opV a))).isNan).map fun k => (k, k)) ∧
    (t.toNat < 8 → c.toNat < 8 → ∀ k < 512 / laneWidth t,
      lane (laneWidth t) k r.1 =
        if (s.opM m).getLsbD k = false then lane (laneWidth t) k (s.opV d)
        else if 512 / laneWidth c ≤ k then 0
        else (max (intMin (t.toNat < 4) (laneWidth t)) (min (intMax (t.toNat < 4) (laneWidth t)) (laneInt c (lane (laneWidth c) k (s.opV a))))
          % (2 ^ laneWidth t : Nat)).toNat)

/-! ### Transfers of control -/

/-- R315, R316: a transfer whose target may start a bundle goes there, with its link; a branch not taken goes on. -/
def Obligations.Transfers : Prop :=
  ∀ (s : State) (d a b : BitVec 5) (i o : BitVec 14) (l : BitVec 24),
    let x := s.opG a; let y := s.opG b; let near := s.cur.pc + 4 * o.signExtend 64; let far := s.cur.pc + 4 * l.signExtend 64
    let reg := x + i.signExtend 64
    let branch := fun (j : Instr) (c : Prop) => Admitted j s →
      (c → Lands s near → exec j s = .next (s.jumped near)) ∧ (¬ c → exec j s = .next s.retired)
    (Lands s far → (Admitted (.b l) s → exec (.b l) s = .next (s.jumped far)) ∧
      (Admitted (.bl l) s → exec (.bl l) s = .next ((s.setG 1 s.cur.next).jumped far))) ∧
    (Lands s reg → (Admitted (.br a i) s → exec (.br a i) s = .next (s.jumped reg)) ∧
      (Admitted (.brl d a i) s → exec (.brl d a i) s = .next ((s.setG d s.cur.next).jumped reg))) ∧
    branch (.beq a b o) (x = y) ∧ branch (.bne a b o) (x ≠ y) ∧ branch (.blt a b o) (x.toInt < y.toInt) ∧
    branch (.bge a b o) (y.toInt ≤ x.toInt) ∧ branch (.bltn a b o) (x.toNat < y.toNat) ∧ branch (.bgen a b o) (y.toNat ≤ x.toNat) ∧
    branch (.bz a o) (x = 0) ∧ branch (.bnz a o) (x ≠ 0)

/-! ### Vector registers -/

/-- R363: past the last lane `vins` and `vext` take the illegal-instruction trap with SUB 4.
R286, R316: a register target with bits 1:0 not zero takes the misaligned-target trap, and writes no link.
R353: a strided descriptor with a bit of 63:37 set makes the word take the illegal-instruction trap with SUB 4.
R336: on a barrier whose KIND is 0, `bar.arrive`, `bar.wait` and `bar.try` take the descriptor-error trap with SUB 1.
R404: a `spawn` to a unit that is neither a bed nor a rim die takes the descriptor-error trap with SUB 1, to a core that its unit lacks, or of a heavy child to a rim die, with SUB 2. -/
def Obligations.OperandTraps : Prop :=
  (∀ (s : State) (d a b : BitVec 5) (t : BitVec 4), t.toNat < 12 → 512 / laneWidth t ≤ (s.opG b).toNat →
    (Admitted (.vins d a b t) s → exec (.vins d a b t) s = done (.trap s ⟨1, 4, s.wordPc, 0, 0⟩)) ∧
    (Admitted (.vext d a b t) s → exec (.vext d a b t) s = done (.trap s ⟨1, 4, s.wordPc, 0, 0⟩))) ∧
  (∀ (s : State) (d a : BitVec 5) (i : BitVec 14), let t := s.opG a + i.signExtend 64
    t.toNat % 4 ≠ 0 →
      (Admitted (.br a i) s → exec (.br a i) s = done (.trap s ⟨2, 0, t, 0, 0⟩)) ∧
      (Admitted (.brl d a i) s → exec (.brl d a i) s = done (.trap s ⟨2, 0, t, 0, 0⟩))) ∧
  (∀ (s : State) (d a b : BitVec 5), 2 ^ 37 ≤ (s.opG b).toNat →
    (Admitted (.vldS d a b) s → exec (.vldS d a b) s = done (.trap s ⟨1, 4, s.wordPc, 0, 0⟩)) ∧
    (Admitted (.vstS d a b) s → exec (.vstS d a b) s = done (.trap s ⟨1, 4, s.wordPc, 0, 0⟩))) ∧
  (∀ (s : State) (d a : BitVec 5) (n : BitVec 11), (s.bar s.cur.place.unit s.cur.place.core n.toNat).kind = 0 →
    let trap := done (.trap s ⟨14, 1, s.wordPc, 0, 0⟩)
    (Admitted (.barArrive d n) s → exec (.barArrive d n) s = trap) ∧ (Admitted (.barWait a n) s → exec (.barWait a n) s = trap) ∧
    (Admitted (.barTry d a n) s → exec (.barTry d a n) s = trap)) ∧
  (∀ (s : State) (d a : BitVec 5) (h : BitVec 1), let t := (s.opG d).toNat; let unit := t / 128; let core := t % 128
    s.here.blk = none → t < 2 ^ 12 → Admitted (.spawn d a h) s →
    (12 ≤ unit ∧ unit < 16 ∨ 22 ≤ unit → exec (.spawn d a h) s = done (.trap s ⟨14, 1, s.wordPc, 0, 0⟩)) ∧
    (16 ≤ unit ∧ unit < 22 ∧ (32 ≤ core ∨ h = 1) → exec (.spawn d a h) s = done (.trap s ⟨14, 2, s.wordPc, 0, 0⟩)))

/-! ### Loads and stores -/

/-- R318, R320, R321: a load of its core's own memory, through RAW or FUTURE, aligned and quiet, writes its register with the value there, zero- or sign-extended; `ld.acq` at every scope with no host-window store pending.
R43, R351, R352: `vld` and `vld.w` through RAW or FUTURE load 64 bytes, `vld.w` with a latency of 4 cycles. -/
def Obligations.LoadResults : Prop :=
  (∀ (s : State) (t a : BitVec 5) (d : BitVec 11) (c : BitVec 2) (w off : Nat), Quiet s → s.here.blk = none →
    let p := s.cur.place; let ea := s.opG a + d.signExtend 64
    let r := s.ownRng w off; let v := fun n => ofBytes (s.ownBytes p off n)
    (OwnAt p ea 1 1 w off → Reads (.ldB t a d) t s r 1 (BitVec.ofNat 64 (v 1)) ∧ Reads (.ldBx t a d) t s r 1 (BitVec.ofInt 64 (sintN 8 (v 1)))) ∧
    (OwnAt p ea 2 2 w off → Reads (.ldH t a d) t s r 2 (BitVec.ofNat 64 (v 2)) ∧ Reads (.ldHx t a d) t s r 2 (BitVec.ofInt 64 (sintN 16 (v 2)))) ∧
    (OwnAt p ea 4 4 w off → Reads (.ldW t a d) t s r 4 (BitVec.ofNat 64 (v 4)) ∧ Reads (.ldWx t a d) t s r 4 (BitVec.ofInt 64 (sintN 32 (v 4)))) ∧
    (OwnAt p ea 8 8 w off → Reads (.ldD t a d) t s r 8 (BitVec.ofNat 64 (v 8)) ∧
      ((c = 3 → hostPending s p = false) → Acquires (.ldAcq t a c d) t s r 8 (BitVec.ofNat 64 (v 8))))) ∧
  (∀ (s : State) (t a : BitVec 5) (d : BitVec 11) (w off : Nat), Quiet s → Whole s → s.here.blk = none →
    let p := s.cur.place; let v : VReg := BitVec.ofNat 512 (ofBytes (s.ownBytes p off 64))
    OwnAt p (s.opG a + d.signExtend 64) 64 16 w off →
    (Admitted (.vld t a d) s → exec (.vld t a d) s = .next ((s.sees (s.ownRng w off) 64).setV t v).retired) ∧
    (Admitted (.vldW t a d) s → exec (.vldW t a d) s =
      .next (({ s with cur := { s.cur with lat := 4 } }.sees (s.ownRng w off) 64).setV t v).retired))

/-- R25, R84, R318: a load of any other home completes with the answer its slot holds for the address; its core has no store buffered and no channel armed.
R25, R84, R90: a load whose home is elsewhere and that holds no answer sends one request there and waits for it; no register and no memory changes.
R322: a streaming store sends its bytes to their home as it retires, and waits for their acknowledgement only at a later release.
R189, R193, R195: a turn that may go past a load leaves a plain load under release order outstanding, when it is a bundle of its own, and the thread at the next bundle; another turn does not. Beside such a load a bundle that may not pass it waits and changes nothing. When the load is taken up and its value has come, its register takes it, and no other register of the thread changes.
Which turns go past a load is the model's choice (log 176). -/
def Obligations.RemoteAccesses : Prop :=
  (∀ (s : State) (t a : BitVec 5) (d : BitVec 11) (acc : Acc) (bs : List Byte), let ea := s.opG a + d.signExtend 64
    Unarmed (s.coreAt s.cur.place) → (s.coreAt s.cur.place).sbuf = [] → s.here.ntOut = [] → NoneSent s → Performed s →
    acc.own = false → heldData s.here.resp acc.la = some bs →
    (Reaches s ea 1 1 .load acc → Reads (.ldB t a d) t s acc.rng 1 (BitVec.ofNat 64 (ofBytes bs))) ∧
    (Reaches s ea 4 4 .load acc → Reads (.ldWx t a d) t s acc.rng 4 (BitVec.ofInt 64 (sintN 32 (ofBytes bs)))) ∧
    (Reaches s ea 8 8 .load acc → Reads (.ldD t a d) t s acc.rng 8 (BitVec.ofNat 64 (ofBytes bs))) ∧
    (Reaches s ea 64 16 .vector acc → s.here.blk = none → Admitted (.vld t a d) s →
      exec (.vld t a d) s = .next ((s.sees acc.rng 64).setV t (BitVec.ofNat 512 (ofBytes bs))).retired)) ∧
  (∀ (s : State) (t a : BitVec 5) (d : BitVec 11) (acc : Acc), let ea := s.opG a + d.signExtend 64; let p := s.cur.place
    Unarmed (s.coreAt p) → (s.coreAt p).sbuf = [] → s.here.ntOut = [] → NoneSent s → s.here.blk = none → s.here.resp = [] → p.ok = true →
    acc.own = false → Reaches s ea 8 8 .load acc → Routed s acc.rng → Admitted (.ldD t a d) s →
    ∃ u q, exec (.ldD t a d) s = .next u ∧ u.pkts = s.pkts ++ [q] ∧ q.kind = 0 ∧ q.body = .load 8 false ∧ q.dest = acc.la ∧ q.id = s.free ∧
      q.place = p ∧ q.resp = false ∧ (u.slot p).wait = some (.answer s.free false) ∧ (u.slot p).th = s.here.th ∧ (u.slot p).st = s.here.st ∧
      u.mem = s.mem ∧ u.cur.ended = .wait) ∧
  (∀ (s : State) (t a : BitVec 5) (z : BitVec 2) (d : BitVec 11) (acc : Acc), let n := 2 ^ z.toNat; let p := s.cur.place
    let bs := bytesOf n (s.opG t).toNat
    Reaches s (s.opG a + d.signExtend 64) n n .store acc → s.here.blk = none → (s.coreAt p).sbuf.all (fun e => e.slot != p.slot) = true → NoneSent s →
    acc.rng.isRegion = false → refusalWaits s acc = false → refusedStore s acc bs = false → Routed s acc.rng → p.ok = true → Admitted (.stNt t a z d) s →
    ∃ u q, exec (.stNt t a z d) s = .next (State.retired u) ∧ u.pkts = s.pkts ++ [q] ∧ q.kind = 1 ∧ q.body = .store bs true ∧ q.dest = acc.la ∧
      q.place = p ∧ (u.slot p) = { s.here with ntOut := s.here.ntOut ++ [(s.free, locKey acc.rng, s.opG a + d.signExtend 64)] } ∧ q.id = s.free ∧ u.mem = s.mem ∧ u.cores = s.cores) ∧
  (∀ (s r : State) (p : Place), p.ok = true →
    (∀ o, goPast false p o = o) ∧
    (∀ id q n, let x := r.slot p; x.wait = some (.answer id false) → (r.pkts.find? fun q => q.id == id && !q.resp) = some q → q.body = .load n false → r.cur.ended = .wait →
      r.cur.half = .lone → wordMajor r.cur.cword = 0x10 → releaseOrder (requestRng p q) = true → x.blk = none → x.folState = 0 → x.folLeft = false → x.entry = false →
      ¬(p.heavy ∧ p.core % 8 = 0) → ∃ t, goPast true p (.next r) = .next t ∧ t.cur.ended = .no ∧ (t.slot p).st = .run ∧ (t.slot p).wait = none ∧
        (t.slot p).th = { x.th with pc := r.cur.next } ∧ (∃ a : Ahead, (t.slot p).ahead = x.ahead ++ [a] ∧ a.th = x.th ∧ a.id = id ∧ a.due = false) ∧ t.pkts = r.pkts ∧ t.mem = r.mem) ∧
    ((s.slot p).ahead ≠ [] → mayPass r p (s.slot p).ahead = false → besideAhead s p (.next r) = .next { s with cur := { s.cur with ended := .wait } }) ∧
    (∀ a i, decodeWord a.word = .instr i → (s.slot p).ahead = [a] →
      (let t := s.modSlot p fun x => { x with th := a.th, st := .run, wait := none, resp := a.got, ahead := [] }
       exec i { t with cur := { t.cur with pc := a.th.pc, cword := a.word, next := a.th.pc + 4, half := .lone } } = .next r) → r.cur.ended = .no →
      ∃ t, takeUp exec s p a = .next t ∧ (t.slot p).ahead = [] ∧ (t.slot p).wait = (s.slot p).wait ∧ (t.slot p).st = (s.slot p).st ∧
        (t.slot p).th = (s.slot p).th.writeG a.reg ((r.slot p).th.readG a.reg) ∧ t.mem = r.mem ∧ t.pkts = r.pkts))

/-- R192, R318, R320, R321: a store to its core's own memory enters the store buffer at retirement, as its low bytes; memory is unchanged until it leaves. `st.rel` at every scope, when nothing it waits for is outstanding.
R204, R322: inside a timed block a store to the core's own memory, a streaming one as well, is made at its bank at once, and the store buffer is not used.
R192: a load of the slot that wrote it sees the bytes of its buffered store, before they reach memory.
R192: a load that overlaps another slot's buffered store waits for it. -/
def Obligations.StoreResults : Prop :=
  (∀ (s : State) (t a : BitVec 5) (d : BitVec 11) (c : BitVec 2) (w off : Nat), s.here.blk = none → (s.coreAt s.cur.place).sbuf.length < 16 →
    s.here.ntOut = [] → NoneSent s →
    let p := s.cur.place; let ea := s.opG a + d.signExtend 64
    let into := fun (i : Instr) (n : Nat) (rel : Option Nat) => Admitted i s →
      exec i s = .next (s.buffered ea w off (bytesOf n (s.opG t).toNat) rel).retired
    (OwnAt p ea 1 1 w off → into (.stB t a d) 1 none) ∧ (OwnAt p ea 2 2 w off → into (.stH t a d) 2 none) ∧
    (OwnAt p ea 4 4 w off → into (.stW t a d) 4 none) ∧ (OwnAt p ea 8 8 w off → into (.stD t a d) 8 none) ∧
    (OwnAt p ea 8 8 w off → Settled s → into (.stRel t a c d) 8 (some c.toNat)) ∧
    (OwnAt p ea 64 16 w off → Admitted (.vst t a d) s →
      exec (.vst t a d) s = .next (s.buffered ea w off (bytesOf 64 (s.opV t).toNat) none).retired) ∧
    (∀ n bs rel, (s.buffered ea n off bs rel).mem = s.mem)) ∧
  (∀ (s : State) (t a : BitVec 5) (z : BitVec 2) (d : BitVec 11) (w off : Nat), s.here.blk.isSome = true → s.errs = [] →
    let p := s.cur.place; let ea := s.opG a + d.signExtend 64
    let into := fun (i : Instr) (bs : List Byte) => Admitted i s → ∃ u, exec i s = .next u ∧ u.mem = memSetMany s.mem (coreKey p.unit p.core off) bs ∧
      (u.coreAt p).sbuf = (s.coreAt p).sbuf ∧ (u.slot p).th.g = s.here.th.g
    (OwnAt p ea 1 1 w off → into (.stB t a d) (bytesOf 1 (s.opG t).toNat)) ∧ (OwnAt p ea 2 2 w off → into (.stH t a d) (bytesOf 2 (s.opG t).toNat)) ∧
    (OwnAt p ea 4 4 w off → into (.stW t a d) (bytesOf 4 (s.opG t).toNat)) ∧ (OwnAt p ea 8 8 w off → into (.stD t a d) (bytesOf 8 (s.opG t).toNat)) ∧
    (OwnAt p ea 64 16 w off → into (.vst t a d) (bytesOf 64 (s.opV t).toNat)) ∧
    (OwnAt p ea (2 ^ z.toNat) (2 ^ z.toNat) w off → into (.stNt t a z d) (bytesOf (2 ^ z.toNat) (s.opG t).toNat))) ∧
  (∀ (s : State) (t a : BitVec 5) (d : BitVec 11) (w off : Nat) (e : SbEntry), let p := s.cur.place; let ea := s.opG a + d.signExtend 64
    Unarmed (s.coreAt p) → s.errs = [] → s.here.ntOut = [] → NoneSent s → Performed s → s.here.blk = none →
    (s.coreAt p).sbuf = [e] → e.slot = p.slot → e.key = coreKey p.unit p.core off → e.bytes.length = 8 →
    OwnAt p ea 8 8 w off → Reads (.ldD t a d) t s (s.ownRng w off) 8 (BitVec.ofNat 64 (ofBytes e.bytes))) ∧
  (∀ (s : State) (t a : BitVec 5) (d : BitVec 11) (w off : Nat) (e : SbEntry), let p := s.cur.place; let ea := s.opG a + d.signExtend 64
    Unarmed (s.coreAt p) → s.here.blk = none → e ∈ (s.coreAt p).sbuf → e.slot ≠ p.slot → e.key = coreKey p.unit p.core off → e.bytes ≠ [] →
    OwnAt p ea 8 8 w off → Admitted (.ldD t a d) s → exec (.ldD t a d) s = done (.wait s .drain false))

/-- R46, R47, R351: `vld.w` through windows 2 to 6 of its bed core's own memory decodes the codes there: each lane is the table's or the format's value of its own code, scaled in the MX windows by its scale byte.
R353, R354: a strided access of its core's own memory with every active lane there: a load fills its active lanes, zero-extended, a store writes its active elements in ascending order, with no descriptor bit above 36. -/
def Obligations.VectorAccesses : Prop :=
  (∀ (s : State) (t a : BitVec 5) (d : BitVec 11) (off : Nat), Quiet s → Whole s → s.here.blk = none → (s.coreAt s.cur.place).ctBusy = none → s.cur.place.unit < 12 →
    let p := s.cur.place; let ea := s.opG a + d.signExtend 64
    let at' := fun (w n al : Nat) => ea.toNat / 2 ^ 52 = 0xF00 ∧ decodeLa p.unit p.core (ea.toNat % 2 ^ 52) = .core p.unit p.core w off ∧
      off + n ≤ 0xF0000 ∧ ea.toNat % al = 0 ∧ ea.toNat / 2 ^ 16 = (ea.toNat + n - 1) / 2 ^ 16
    let code := fun (bits k : Nat) => ofBytes (s.ownBytes p off 32) / 2 ^ (bits * k) % 2 ^ bits
    Admitted (.vldW t a d) s →
    (at' 2 16 16 → ∃ (u : State) (r : VReg), Observes s u ∧ exec (.vldW t a d) s = .next (u.setV t r).retired ∧
      ∀ k < 16, lane 32 k r = fp32.round .rne (codeTable s p (code 8 k)) % 2 ^ 32) ∧
    (at' 3 32 32 → ∃ (u : State) (r : VReg), Observes s u ∧ exec (.vldW t a d) s = .next (u.setV t r).retired ∧
      ∀ k < 64, lane 8 k r = (intTable s p (code 4 k) % 256).toNat) ∧
    (at' 6 32 32 → ∃ (u : State) (r : VReg), Observes s u ∧ exec (.vldW t a d) s = .next (u.setV t r).retired ∧
      ∀ k < 16, lane 32 k r = fp32.round .rne (bf16.decode (code 16 k)) % 2 ^ 32) ∧
    (at' 4 8 8 → scaleOff s p 4 off < 0xF0000 → ∃ (u : State) (r : VReg), Observes s u ∧ exec (.vldW t a d) s = .next (u.setV t r).retired ∧
      ∀ k < 16, lane 32 k r = fp32.round .rne (mxValue false (code 4 k) (memGet s.mem (coreKey p.unit p.core (scaleOff s p 4 off))).toNat) % 2 ^ 32) ∧
    (at' 5 16 16 → scaleOff s p 5 off < 0xF0000 → ∃ (u : State) (r : VReg), Observes s u ∧ exec (.vldW t a d) s = .next (u.setV t r).retired ∧
      ∀ k < 16, lane 32 k r = fp32.round .rne (mxValue true (code 8 k) (memGet s.mem (coreKey p.unit p.core (scaleOff s p 5 off))).toNat) % 2 ^ 32)) ∧
  (∀ (s : State) (d a b : BitVec 5) (offs : Nat → Nat), Quiet s → Whole s → s.here.blk = none → (s.opG b).toNat < 2 ^ 37 → s.here.resp = [] → (s.coreAt s.cur.place).ctBusy = none →
    let p := s.cur.place; let desc := (s.opG b).toNat; let n := 2 ^ (desc / 2 ^ 32 % 4); let m := s.opM (BitVec.ofNat 3 (desc / 2 ^ 34))
    (∀ k < 64 / n, m.getLsbD k = true → OwnAt p (s.opG a + BitVec.ofInt 64 (k * sintN 32 desc)) n n 0 (offs k)) →
    (Admitted (.vldS d a b) s → ∃ (u : State) (r : VReg), Observes s u ∧ exec (.vldS d a b) s = .next (u.setV d r).retired ∧
      ∀ k < 64 / n, lane (8 * n) k r = if m.getLsbD k then ofBytes (s.ownBytes p (offs k) n) else lane (8 * n) k (s.opV d)) ∧
    (Admitted (.vstS d a b) s → exec (.vstS d a b) s = .next (((List.range (64 / n)).foldl (fun u k =>
      if m.getLsbD k then u.put .ls (coreKey p.unit p.core (offs k)) (bytesOf n (lane (8 * n) k (s.opV d))) else u) s).retired)))

/-- R194, R197, R202, R334, R335: a fence of any scope completes when nothing of its thread is outstanding, and is an acquire; an `xfence` completes when besides no write of path P within the scope that its thread has observed is still to be performed for path Q, and waits for one that is; `isync` empties its core's instruction cache.
What each scope waits for at least is the model's choice (log 35, 37). -/
def Obligations.Fences : Prop :=
  ∀ (s : State) (sc : BitVec 2) (x y : BitVec 3), Settled s → let p := s.cur.place; let t := acquireHeard s p
    (Admitted (.fence sc) s → exec (.fence sc) s = .next t.retired) ∧ Observes s t ∧
    (∀ l ∈ s.lag, l.id ∈ Tbl.get [] s.heard s.here.name.toNat → observed t p l = true) ∧
    (y.toNat < 5 → (sc = 3 → x = 1 → engineInPort s = false) →
      (∀ l ∈ s.lag, ¬ (l.writer = pathOf x.toNat ∧ l.reader = pathOf y.toNat ∧ covered p sc.toNat l.key = true ∧ observed t p l = true)) →
      Admitted (.xfence x y sc) s → exec (.xfence x y sc) s = .next t.retired) ∧
    (y.toNat < 5 → (sc = 3 → x = 1 → engineInPort s = false) → s.here.blk = none →
      (∃ l ∈ s.lag, l.writer = pathOf x.toNat ∧ l.reader = pathOf y.toNat ∧ covered p sc.toNat l.key = true ∧ observed t p l = true) →
      Admitted (.xfence x y sc) s → exec (.xfence x y sc) s = done (.wait t .drain true)) ∧
    (Admitted .isync s → exec .isync s = .next (s.modCoreAt s.cur.place fun c => { c with icache := [] }).retired)

/-! ### Read-modify-writes -/

/-- R323 to R325: an atomic on its core's own memory writes its result and gives the old value sign-extended; a `cas` writes only where the word is the old g[D]. -/
def Obligations.Atomics : Prop :=
  ∀ (s : State) (d a b : BitVec 5) (z : BitVec 1) (w off : Nat), Quiet s → s.here.blk = none → s.here.resp = [] → (s.coreAt s.cur.place).ctBusy = none →
    let p := s.cur.place; let n := if z = 0 then 4 else 8
    OwnAt p (s.opG a) n n w off →
    let m := ofBytes (s.ownBytes p off n); let x := (s.opG b).toNat % 2 ^ (8 * n); let c := (s.opG d).toNat % 2 ^ (8 * n)
    let lt := fun u v => sintN (8 * n) u < sintN (8 * n) v
    Swaps (.amoAdd d a b z) d s w off n m ((m + x) % 2 ^ (8 * n)) ∧ Swaps (.amoAnd d a b z) d s w off n m (m &&& x) ∧
    Swaps (.amoOr d a b z) d s w off n m (m ||| x) ∧ Swaps (.amoXor d a b z) d s w off n m (m ^^^ x) ∧
    (lt x m → Swaps (.amoMin d a b z) d s w off n m x) ∧ (¬ lt x m → Swaps (.amoMin d a b z) d s w off n m m) ∧
    (lt m x → Swaps (.amoMax d a b z) d s w off n m x) ∧ (¬ lt m x → Swaps (.amoMax d a b z) d s w off n m m) ∧
    Swaps (.amoMinn d a b z) d s w off n m (min m x) ∧ Swaps (.amoMaxn d a b z) d s w off n m (max m x) ∧
    Swaps (.amoSwap d a b z) d s w off n m x ∧ (m = c → Swaps (.amoCas d a b z) d s w off n m x) ∧
    (m ≠ c → Acquires (.amoCas d a b z) d s (s.ownRng w off) n (BitVec.ofInt 64 (sintN (8 * n) m)))

/-- R326 to R328: `ld.res` loads the word and reserves it; `st.cond` on the reserved word writes and gives 1, on any other writes nothing and gives 0, and the reservation is gone in both; `wres` without a reservation gives 1 at once, and 0 when it has been woken.
R326: `wres` without a reservation gives 1 at once; with one it waits, registered, and gives 0 once it has been woken.
R207, R329: `fput` writes the word, makes it full and gives whether it was; `fget` on a full word gives it, `ftake` besides empties it; on an empty word both wait, registered. -/
def Obligations.ReservationsAndFutures : Prop :=
  (∀ (s : State) (d a b : BitVec 5) (w off : Nat), Quiet s → s.here.blk = none → s.here.resp = [] → (s.coreAt s.cur.place).ctBusy = none →
    let p := s.cur.place; let k := coreKey p.unit p.core off
    OwnAt p (s.opG a) 8 8 w off → protectedBy s (slotKey p) k = false → behindRes s (slotKey p) k = false →
    (Admitted (.ldRes d a) s → Tbl.look s.slots (slotKey p) = some s.here → ∃ u, exec (.ldRes d a) s = .next u ∧
      (u.slot p).resv = some k ∧ (u.slot p).th.g = (s.here.th.writeG d (BitVec.ofNat 64 (ofBytes (s.ownBytes p off 8)))).g ∧ u.mem = s.mem) ∧
    (s.here.resv = some k → Admitted (.stCond d a b) s → ∃ u, exec (.stCond d a b) s = .next u ∧ (u.slot p).resv = none ∧
      (u.slot p).th.g = (s.here.th.writeG d 1).g ∧ u.mem = memSetMany s.mem k (bytesOf 8 (s.opG b).toNat)) ∧
    (s.here.resv ≠ some k → Admitted (.stCond d a b) s → ∃ u, exec (.stCond d a b) s = .next u ∧ (u.slot p).resv = none ∧
      (u.slot p).th.g = (s.here.th.writeG d 0).g ∧ u.mem = s.mem)) ∧
  (∀ (s : State) (d : BitVec 5) (k : Nat),
    (s.here.resv = none → Gives (.wres d) d s 1) ∧
    (s.here.resv = some k → Resp.done ∈ s.here.resp → Gives (.wres d) d s 0) ∧
    (s.here.resv = some k → Resp.done ∉ s.here.resp → s.here.blk = none → Admitted (.wres d) s →
      exec (.wres d) s = done (.wait (registerWaiter s (slotKey s.cur.place) k) (.reserve k) true))) ∧
  (∀ (s : State) (d a b : BitVec 5) (off : Nat), Quiet s → s.here.blk = none → s.here.resp = [] → (s.coreAt s.cur.place).ctBusy = none →
    let p := s.cur.place; let r := s.ownRng 1 off; let k := coreKey p.unit p.core off; let v := BitVec.ofNat 64 (ofBytes (s.ownBytes p off 8))
    OwnAt p (s.opG a) 8 8 1 off →
    (ackedFor s p 2 = true → Admitted (.fput d a b) s → exec (.fput d a b) s = .next (((setTag (s.put .ls k (bytesOf 8 (s.opG b).toNat)) k true).acquires r 8).setG d
      (if k / 8 ∈ s.tags then 1 else 0)).retired) ∧
    (k / 8 ∈ s.tags → Acquires (.fget d a) d s r 8 v ∧
      (Admitted (.ftake d a) s → exec (.ftake d a) s = .next ((({ s with tags := s.tags.filter (· != k / 8) } : State).acquires r 8).setG d v).retired)) ∧
    (k / 8 ∉ s.tags → (Admitted (.fget d a) s → exec (.fget d a) s = done (.wait (registerWaiter s (slotKey p) k) (.future k) true)) ∧
      (Admitted (.ftake d a) s → exec (.ftake d a) s = done (.wait (registerWaiter s (slotKey p) k) (.future k) true))))

/-- R280, R330, R331: a reduction to its core's own memory leaves there the sum, the smaller, the larger or the rounded sum of the word and g[B], or contributes to the group there; one to another home sends one KIND 4 packet with its operation, element and contributor, counts it as unacknowledged, and reads nothing back; with sixteen of them out it waits.
R332: with sixteen reductions unacknowledged a further one, of any kind, waits. -/
def Obligations.Reductions : Prop :=
  (∀ (s : State) (d a b : BitVec 5) (z : BitVec 1) (acc : Acc) (w off : Nat), let p := s.cur.place
    s.here.blk = none → (s.coreAt p).sbuf.all (fun e => e.slot != p.slot) = true → s.here.redOut < 16 → p.ok = true →
    let n := if z = 1 then 8 else 4; let f := if z = 1 then fp64 else fp32; let x := (s.opG b).toNat % 2 ^ (8 * n); let g := s.opG b &&& 0xFFFFFFFF
    let k := coreKey p.unit p.core off; let m := ofBytes (s.ownBytes p off n); let lt := fun u v => sintN (8 * n) u < sintN (8 * n) v
    let makes := fun (i : Instr) (v : Nat) => Admitted i s → exec i s = .next (s.put .ls k (bytesOf n v)).retired
    let sends := fun (i : Instr) (op : Nat) (dbl group : Bool) (who : Nat) (v : Word) => Admitted i s →
      ∃ u q, exec i s = .next (State.retired u) ∧ u.pkts = s.pkts ++ [q] ∧ q.kind = 4 ∧ q.dest = acc.la ∧ q.body = .red op dbl group who v ∧ q.place = p ∧
        u.slot p = { s.here with redOut := s.here.redOut + 1 } ∧ u.mem = s.mem
    (OwnAt p (s.opG a) n n w off → s.errs = [] → Performed s →
      makes (.redAdd a b z) ((m + x) % 2 ^ (8 * n)) ∧ makes (.redMin a b z) (if lt x m then x else m) ∧ makes (.redMax a b z) (if lt m x then x else m) ∧
      makes (.redFadd a b z) (f.round .rne (Val.add .rne (f.decode m) (f.decode x)))) ∧
    (OwnAt p (s.opG a) 8 64 w off → Admitted (.redFaddGroup d a b) s → exec (.redFaddGroup d a b) s =
      .next (contribute s p.unit (.core p.unit p.core w off) (min (s.opG d).toNat 0xFFFF) g.toNat).retired) ∧
    (addressCheck s p (s.opG a) n n .red false = .ok s acc → acc.own = false → Routed s acc.rng → let v := if z = 1 then s.opG b else g
      sends (.redAdd a b z) 0 (z == 1) false 0 v ∧ sends (.redMin a b z) 1 (z == 1) false 0 v ∧ sends (.redMax a b z) 2 (z == 1) false 0 v ∧
      sends (.redFadd a b z) 3 (z == 1) false 0 v) ∧
    (addressCheck s p (s.opG a) 8 64 .red false = .ok s acc → acc.own = false → Routed s acc.rng →
      sends (.redFaddGroup d a b) 3 false true (min (s.opG d).toNat 0xFFFF) g)) ∧
  (∀ (s : State) (d a b : BitVec 5) (z : BitVec 1) (acc : Acc), let n := if z = 1 then 8 else 4
    s.here.blk = none → 16 ≤ s.here.redOut →
    let waits := fun (i : Instr) => Admitted i s → exec i s = done (.wait s .drain true)
    (addressCheck s s.cur.place (s.opG a) n n .red false = .ok s acc →
      waits (.redAdd a b z) ∧ waits (.redMin a b z) ∧ waits (.redMax a b z) ∧ waits (.redFadd a b z)) ∧
    (addressCheck s s.cur.place (s.opG a) 8 64 .red false = .ok s acc → waits (.redFaddGroup d a b)))

/-! ### Barriers and counters -/

/-- R337: `bar.init` whose checks pass writes COUNT, KIND, LEVEL and XALIGN and clears ARRIVED and CDONE, leaving DONETS; else it takes the descriptor-error trap with the number of the first check that fails.
R219, R338, R339: `bar.arrive` on a core barrier gives the token of the phase it belongs to, records it, and counts one arrival; the arrival that completes the phase names the next one by the timestamp and keeps the surplus. -/
def Obligations.BarrierArrivals : Prop :=
  (∀ (s : State) (a : BitVec 5) (n : BitVec 11), let p := s.cur.place; let v := s.opG a; let b := s.bar p.unit p.core n.toNat
    Admitted (.barInit a n) s →
    (barInitRefused s p n.toNat v = none → exec (.barInit a n) s = .next (s.setBar p.unit p.core n.toNat
      { count := v.toNat % 2 ^ 16, arrived := 0, kind := v.toNat / 2 ^ 16 % 4, level := v.toNat / 2 ^ 18 % 4, xalign := v.getLsbD 20, cdone := false,
        donets := b.donets, owed := false }).retired) ∧
    (∀ k, barInitRefused s p n.toNat v = some k → exec (.barInit a n) s = done (.trap s ⟨14, k, s.wordPc, 0, 0⟩)) ∧
    (2 ^ 21 ≤ v.toNat ∨ v.toNat / 2 ^ 16 % 4 = 3 → barInitRefused s p n.toNat v = some 1)) ∧
  (∀ (s : State) (d : BitVec 5) (n : BitVec 11), let p := s.cur.place; let b := s.bar p.unit p.core n.toNat
    b.kind = 1 → b.cdone = false → b.owed = false → allPerformed s p = true → Admitted (.barArrive d n) s →
    ∃ u, exec (.barArrive d n) s = .next u ∧ (u.slot p).th.g = (s.here.th.writeG d b.donets).g ∧ (u.slot p).arvV = true ∧
      (u.slot p).arvBar = n.toNat ∧ (u.slot p).arvName = b.donets ∧ u.mem = s.mem ∧
      (b.arrived + 1 < b.count → u.bar p.unit p.core n.toNat = { b with arrived := b.arrived + 1 }) ∧
      (b.count ≤ b.arrived + 1 → b.donets < s.ts → u.bar p.unit p.core n.toNat = { b with arrived := b.arrived + 1 - b.count, donets := s.ts }) ∧
      (b.count ≤ b.arrived + 1 → s.ts ≤ b.donets → u.bar p.unit p.core n.toNat = { b with arrived := b.arrived + 1, owed := true }))

/-- R340, R223: `bar.wait` and `bar.try` on a phase whose token is past: the wait completes, the try gives 1; a record that gave the token is used up. On a phase not past, by the operand, by the record or with neither, the wait waits and the try gives 0. A try that gives 1 is an acquire. A wait released aligned completes aligned, unless it was interrupted before. -/
def Obligations.BarrierWaits : Prop :=
  ∀ (s : State) (d a : BitVec 5) (n : BitVec 11), let p := s.cur.place; let b := s.bar p.unit p.core n.toNat
    let past := fun (t : Word) => t.toNat < b.donets.toNat
    let mine := s.here.arvV = true ∧ s.here.arvBar = n.toNat; let key := barrierKey s p.unit p.core n.toNat
    let waits := fun (_ : Unit) => exec (.barWait a n) s = done (.wait (if s.here.cut = some (n.toNat, b.donets) then s else s.modHere fun x => { x with cut := none })
      (.barrier n.toNat) true)
    let passes := fun (used : Bool) (al : Option Nat) => ∃ u, exec (.barWait a n) s = .next u ∧ sameRegs (u.slot p).th s.here.th ∧ u.mem = s.mem ∧
      u.cores = s.cores ∧ (u.slot p).arvV = (s.here.arvV && !used) ∧ (s.cur.half ≠ .a → (u.slot p).th.pc = s.cur.next ∧ (u.slot p).aligned = al)
    b.kind ≠ 0 →
    (Admitted (.barWait a n) s → s.here.blk = none →
      (a ≠ 0 → past (s.opG a) → s.here.resp = [] → passes false none) ∧
      (a = 0 → mine → past s.here.arvName → s.here.resp = [] → passes true none) ∧
      (a = 0 → ¬ mine → heldValue s.here.resp = some 1 → s.here.cut.map (·.1) ≠ some n.toNat → passes false (some n.toNat)) ∧
      (a = 0 → ¬ mine → heldValue s.here.resp = some 1 → s.here.cut.map (·.1) = some n.toNat → passes false none) ∧
      (a = 0 → ¬ mine → heldValue s.here.resp = some 0 → passes false none) ∧
      (a ≠ 0 → ¬ past (s.opG a) → waits ()) ∧ (a = 0 → mine → ¬ past s.here.arvName → waits ()) ∧
      (a = 0 → ¬ mine → heldValue s.here.resp = none → waits ())) ∧
    (a ≠ 0 → past (s.opG a) → Admitted (.barTry d a n) s → exec (.barTry d a n) s = .next ((acquireKeys s p [key]).setG d 1).retired) ∧
    (a ≠ 0 → ¬ past (s.opG a) → Gives (.barTry d a n) d s 0) ∧
    (a = 0 → ¬ mine → Gives (.barTry d a n) d s 0) ∧
    (a = 0 → mine → ¬ past s.here.arvName → Gives (.barTry d a n) d s 0) ∧
    (a = 0 → mine → past s.here.arvName → Admitted (.barTry d a n) s →
      exec (.barTry d a n) s = .next ((acquireKeys (s.modHere fun x => { x with arvV := false }) p [key]).setG d 1).retired)

/-- R229, R341: the counter words at their own core: a take of a VALUE above 0 with no slot waiting gives it and takes one; a try does so and gives 1, or gives 0 at VALUE 0; a give adds one, but at the largest VALUE. -/
def Obligations.SlotCounters : Prop :=
  ∀ (s : State) (d a : BitVec 5) (c : BitVec 6), let p := s.cur.place; let v := Tbl.get 0 (s.coreAt p).scnt c.toNat
    let value := fun (u : State) => Tbl.get 0 (u.coreAt p).scnt c.toNat
    p.ok = true → (s.opG a).toNat % 128 = p.core → (s.coreAt p).sbuf = [] → s.here.resp = [] → counterQueue s p.unit p.core c.toNat = [] →
    (v ≠ 0 → Admitted (.slotTake d a c) s → ∃ u, exec (.slotTake d a c) s = .next u ∧ value u = v - 1 ∧
      (u.slot p).th.g = (s.here.th.writeG d (v.zeroExtend 64)).g ∧ u.mem = s.mem) ∧
    (v ≠ 0 → Admitted (.slotTry d a c) s → ∃ u, exec (.slotTry d a c) s = .next u ∧ value u = v - 1 ∧
      (u.slot p).th.g = (s.here.th.writeG d 1).g ∧ u.mem = s.mem) ∧
    (v = 0 → Admitted (.slotTry d a c) s → exec (.slotTry d a c) s = .next ((acquireKeys s p [counterKey p.unit p.core c.toNat]).setG d 0).retired) ∧
    (ackedFor s p 1 = true → Admitted (.slotGive a c) s → ∃ u, exec (.slotGive a c) s = .next u ∧ value u = (if v = BitVec.allOnes 32 then v else v + 1) ∧
      sameRegs (u.slot p).th s.here.th ∧ u.mem = s.mem)

/-! ### The bit buffer -/

/-- R342, R343: `bb.init` places the buffer at a byte of the stream; a peek gives the first n bits and keeps them, a take drops them; either first refills 64 bits from its core's own memory when fewer than n are there.
R344, R346: with L bits there, `bb.dec` reads the entry they index in its core's own memory: a length from 1 to L gives the symbol and drops that many bits, any other length takes the stream-format trap with SUB 2 at the entry's address.
R345: a `bb.copy` with a distance and a length from 1 to 1,024 repeats the last `dist` bytes before its output, writes nothing else and advances g[D]; one of length 0 does nothing; `bb.lit` writes the next n bytes of the stream. -/
def Obligations.BitBuffer : Prop :=
  (∀ (s t : State) (d a : BitVec 5) (n : BitVec 6) (b' : Bits) (w off : Nat), Quiet s → s.here.blk = none →
    let p := s.cur.place
    let has := fun (b : Bits) (k : Nat) (c : Bits) => (k ≤ b.count ∧ c = b ∧ t = s) ∨
      (b.count < k ∧ OwnAt p b.ptr 8 8 w off ∧ t = s.sees (s.ownRng w off) 8 ∧
        c = { data := b.data ||| (BitVec.ofNat 128 (ofBytes (s.ownBytes p off 8)) <<< b.count), count := b.count + 64, ptr := b.ptr + 8 })
    let start : Bits := { data := 0, count := 0, ptr := s.opG a &&& ~~~(7 : Word) }
    let r := (s.opG a).toNat % 8
    let peeks := fun (i : Instr) (k : Nat) => has s.bb k b' → Admitted i s →
      exec i s = .next ((t.setBb b').setG d (BitVec.ofNat 64 (b'.data.toNat % 2 ^ k))).retired
    let takes := fun (i : Instr) (k : Nat) => has s.bb k b' → Admitted i s →
      exec i s = .next ((t.setBb { b' with data := b'.data >>> k, count := b'.count - k }).setG d (BitVec.ofNat 64 (b'.data.toNat % 2 ^ k))).retired
    (r = 0 → Admitted (.bbInit a) s → exec (.bbInit a) s = .next (s.setBb start).retired) ∧
    (r ≠ 0 → has start 1 b' → Admitted (.bbInit a) s →
      exec (.bbInit a) s = .next (t.setBb { b' with data := b'.data >>> (8 * r), count := b'.count - 8 * r }).retired) ∧
    (n.toNat ≤ 32 → peeks (.bbPeekImm d n) n.toNat ∧ takes (.bbTakeImm d n) n.toNat) ∧
    ((s.opG a).toNat ≤ 32 → peeks (.bbPeekReg d a) (s.opG a).toNat ∧ takes (.bbTakeReg d a) (s.opG a).toNat) ∧
    (32 < (s.opG a).toNat → Admitted (.bbTakeReg d a) s → exec (.bbTakeReg d a) s = done (.trap s ⟨13, 1, s.wordPc, 0, 0⟩))) ∧
  (∀ (s : State) (d a : BitVec 5) (l : BitVec 4) (w off : Nat), Quiet s → s.here.blk = none → l.toNat ≤ s.bb.count → Admitted (.bbDec d a l) s →
    let p := s.cur.place; let at' := s.opG a + 4 * BitVec.ofNat 64 (s.bb.data.toNat % 2 ^ l.toNat)
    OwnAt p at' 4 4 w off →
    let e := ofBytes (s.ownBytes p off 4); let len := e / 2 ^ 16 % 32
    (len ≠ 0 ∧ len ≤ l.toNat → exec (.bbDec d a l) s =
      .next (((s.sees (s.ownRng w off) 4).setBb { s.bb with data := s.bb.data >>> len, count := s.bb.count - len }).setG d (BitVec.ofNat 64 (e % 2 ^ 16))).retired) ∧
    (len = 0 ∨ l.toNat < len → exec (.bbDec d a l) s = done (.trap (s.sees (s.ownRng w off) 4) ⟨13, 2, at', 0, 0⟩))) ∧
  (∀ (s : State) (d a b : BitVec 5) (n : BitVec 4) (w v src : Nat), Quiet s → s.here.blk = none → Memory.wf s.mem = true →
    s.cur.part = 0 → heldValue s.here.resp = none → (s.coreAt s.cur.place).ctBusy = none →
    let p := s.cur.place; let o := s.opG d; let dist := (s.opG b).toNat % 2 ^ 32; let len := (s.opG b).toNat / 2 ^ 32 % 2 ^ 16
    let from' := o - BitVec.ofNat 64 dist
    (len = 0 → Admitted (.bbCopy d a b) s → exec (.bbCopy d a b) s = .next (State.retired { s with cur := { s.cur with lat := 1 } })) ∧
    (0 < len → len ≤ 1024 → 0 < dist → (s.opG a).toNat ≤ from'.toNat → OwnAt p from' len 1 w src → OwnAt p o len 1 v (src + dist) →
      Admitted (.bbCopy d a b) s → ∃ u, exec (.bbCopy d a b) s = .next u ∧ (u.slot p).th.g = (s.here.th.writeG d (o + BitVec.ofNat 64 len)).g ∧
        (∀ j < len, memGet u.mem (coreKey p.unit p.core (src + dist) + j) = memGet s.mem (coreKey p.unit p.core src + j % dist)) ∧
        (∀ k, k < coreKey p.unit p.core (src + dist) ∨ coreKey p.unit p.core (src + dist) + len ≤ k → memGet u.mem k = memGet s.mem k)) ∧
    (0 < n.toNat → n.toNat ≤ 8 → 8 * n.toNat ≤ s.bb.count → OwnAt p o n.toNat 1 v src → Admitted (.bbLit d n) s →
      exec (.bbLit d n) s = .next (((s.put .ls (coreKey p.unit p.core src) (bytesOf n.toNat s.bb.data.toNat)).setBb
        { s.bb with data := s.bb.data >>> (8 * n.toNat), count := s.bb.count - 8 * n.toNat }).setG d (o + BitVec.ofNat 64 n.toNat)).retired))

/-! ### Commands to the engines -/

/-- R104 to R112, R392, R394: a `cpy` or `cpy.ck` whose block and descriptors stand in its core's own memory and pass their checks joins its channel's queue; `cpy.q` gives the channel's status word at once, or when nothing is pending.
R111: a command with a range arms an idle channel: LOW and HIGH are its range, WM its start, and PEND is 1. -/
def Obligations.CopyCommands : Prop :=
  (∀ (s : State) (d a : BitVec 5) (ck : Bool) (q : BitVec 1) (n : BitVec 4) (w off : Nat) (src dst : Option Tensor) (c : Chan),
    Quiet s → Whole s → s.here.blk = none →
    let p := s.cur.place; let word := wordAt (s.ownBytes p off 32)
    let b : CopyBlk := { pa := s.opG a, w0 := word 0, w1 := word 1, w2 := word 2, w3 := word 3, src := src, dst := dst }
    let i : Instr := if ck then .cpyCk a else .cpy a
    (OwnAt p (s.opG a) 32 32 w off → TensorAt s ((word 2).testBit 17) (word 0) src → TensorAt s ((word 2).testBit 22) (word 1) dst →
      tensorRefused s src (BitVec.ofNat 64 (word 0)) = none → tensorRefused s dst (BitVec.ofNat 64 (word 1)) = none → b.refused s ck = none →
      ((s.coreAt p).chan (b.cmd s ck).chan).accept (b.cmd s ck) = some c →
      (Resp.late ∈ s.here.resp → ((s.coreAt p).chan (b.cmd s ck).chan).cmds = []) → Admitted i s →
      ∃ u, Observes s u ∧ exec i s = .next (u.queued (b.cmd s ck) c).retired) ∧
    (q = 0 ∨ ((s.coreAt p).chan n.toNat).cmds = [] → Admitted (.cpyQ d q n) s →
      exec (.cpyQ d q n) s = .next ((seeChannel s p p.unit p.core n.toNat).setG d ((s.coreAt p).chan n.toNat).word2).retired)) ∧
  (∀ (c : Chan) (k : Cmd) (lo hi : Word), k.range = some (lo, hi) → c.cmds = [] →
    ∃ c', c.accept k = some c' ∧ c'.lo = lo ∧ c'.hi = hi ∧ c'.wm = lo ∧ c'.cmds = [k])

/-- R133, R134, R396 to R398: the stash words whose block stands in their core's own memory and passes its checks: `stash.open` with its image, `stash` from memory, a FIFO or a register pair, `restore` after its probe's answer join their channel's queue, and `stash.stat` gives the header word its probe brought. -/
def Obligations.StashCommands : Prop :=
  ∀ (s : State) (d a : BitVec 5) (v : BitVec 4) (n : BitVec 2) (w off iw ioff : Nat) (c : Chan) (h : Word × Word × Word × Word),
    Quiet s → Whole s → s.here.blk = none →
    let p := s.cur.place; let word := wordAt (s.ownBytes p off 32)
    let b : StashBlk := { pa := s.opG a, region := BitVec.ofNat 64 (word 0), loc := BitVec.ofNat 64 (word 1), w2 := word 2, w3 := word 3 }
    let use := !b.fifoV
    let addresses := fun (u : Bool) (al : Nat) => commandRefused s p b.region = false ∧ (u = true → commandRefused s p b.loc = false) ∧
      b.region.toNat % 64 = 0 ∧ (u = true → b.loc.toNat % al = 0)
    let first := fun (k : Cmd) => Resp.late ∈ s.here.resp → ((s.coreAt p).chan k.chan).cmds = []
    let joins := fun (i : Instr) (k : Cmd) => ((s.coreAt p).chan k.chan).accept k = some c → first k → Admitted i s → ∃ u, Observes s u ∧ exec i s = .next (u.queued k c).retired
    OwnAt p (s.opG a) 32 32 w off →
    (let img := (word64 (s.ownBytes p ioff 8), word64 (s.ownBytes p (ioff + 8) 8))
     addresses true 8 → OwnAt p b.loc 8 8 iw ioff → OwnAt p (b.loc + 8) 8 8 iw (ioff + 8) → b.refused s .stashOpen true (some img) = none →
       joins (.stashOpen a) (b.cmd s .stashOpen none img none)) ∧
    (addresses use 2 → b.refused s .stash use none = none → s.lag = [] → joins (.stash a) (b.cmd s .stash none (0, 0) none)) ∧
    (addresses false 2 → b.refused s .stash false none = none →
       let k := b.cmd s .stash (some (bytesOf 64 (s.opV (v.zeroExtend 5 * 2)).toNat ++ bytesOf 64 (s.opV (v.zeroExtend 5 * 2 + 1)).toNat)) (0, 0) none
       joins (.stashReg v a) k) ∧
    (addresses use (if b.w2.testBit 29 then 2 else 4) → b.refused s .restore use none = none → probeOf s.here.resp = some h →
       h.2.2.1 = 0 → bits h.1.toNat 19 18 ≠ 3 →
       let wide := if b.w2.testBit 29 then fmtBytes (bits h.1.toNat 19 18) else 4
       let range := if use ∧ b.count ≠ 0 then some (b.loc, b.loc + BitVec.ofNat 64 (b.count * wide)) else none
       let k := b.cmd s .restore none (0, 0) range
       ((s.coreAt p).chan k.chan).accept k = some c → first k → Admitted (.restore a) s → ∃ u, Observes s u ∧ exec (.restore a) s = .next (u.tick.queued k c).retired) ∧
    (addresses false 2 → isUnit b.engU = true → 16 ≤ b.engU → b.legMissing s false = false → fixedFails p b.region (fun r => !r.isHbm) = false →
       probeOf s.here.resp = some h → Admitted (.stashStat d a n) s → ∃ u, Observes s u ∧
         exec (.stashStat d a n) s = .next (u.setG d (if n = 0 then h.2.2.1 else if n = 1 then h.2.2.2 &&& 0xFFFFFFFF else h.1)).retired)

/-- R141, R152, R399, R400: `graft.cfg` completes once the ranker's slot has been written, `graft.go` on a valid slot of its own context and module queues the go and sets GOBUSY, and `graft.stat` gives the word its read brought. -/
def Obligations.GraftCommands : Prop :=
  ∀ (s : State) (d a : BitVec 5) (w : BitVec 2) (n : BitVec 4) (v : Word), s.here.blk = none →
    (Resp.done ∈ s.here.resp → Admitted (.graftCfg a n) s → exec (.graftCfg a n) s = .next s.retired) ∧
    ((s.pop n.toNat).valid = true → (s.pop n.toNat).ctx = s.ctx → (s.pop n.toNat).ownMod = s.moduleNo → allPerformed s s.cur.place = true →
      s.ranker.queue.length < 16 → Admitted (.graftGo n) s → ∃ u, exec (.graftGo n) s = .next u ∧
        u.ranker.queue = s.ranker.queue ++ [(n.toNat, s.cur.place)] ∧ u.pop n.toNat = { s.pop n.toNat with gobusy := true } ∧
        sameRegs (u.slot s.cur.place).th s.here.th ∧ u.mem = s.mem) ∧
    ((s.pop n.toNat).valid = false → Admitted (.graftGo n) s → exec (.graftGo n) s = done (.trap s ⟨14, 1, s.wordPc, 0, 0⟩)) ∧
    (heldValue s.here.resp = some v → Admitted (.graftStat d w n) s → exec (.graftStat d w n) s = .next ((seeGrafts s s.cur.place).setG d v).retired)

/-! ### Tasks, plots and explicit packets -/

/-- R246, R405: `dq.push` of a non-zero PC with room writes the six words of its record at DQBOT, adds 1 to DQBOT and gives 1; with 64 records it gives 0 and writes nothing; a PC of zero is illegal with SUB 4.
R246, R405: `dq.pop` takes the newest record when it is of its own context, and gives its PC and arguments; with no record of its context and no victim it gives 0 and leaves g4 to g7; else it reserves an entry and asks the first victim.
R247, R404: a `spawn` whose target has taken the child completes; one answered BUSY becomes a call of the child: the link goes to g1.
R239, R240, R406: a `launch` whose record stands in its core's own memory and breaks no rule completes when its bed has queued it. -/
def Obligations.Tasks : Prop :=
  (∀ (s : State) (d a : BitVec 5), let p := s.cur.place; let c := s.coreAt p
    s.here.blk = none → Admitted (.dqPush d a) s →
    (s.opG a ≠ 0 → allPerformed s p = true → c.dequeFill < 64 → s.errs = [] → Memory.wf s.mem = true → ∃ u, exec (.dqPush d a) s = .next u ∧
      (u.coreAt p).dqbot = c.dqbot + 1 ∧ (u.slot p).th.g = (s.here.th.writeG d 1).g ∧
      dequeRead u p.unit p.core c.dqbot.toNat = [s.opG a, s.opG 4, s.opG 5, s.opG 6, s.opG 7, s.ctx.zeroExtend 64] ∧
      ∀ k, k < dequeKey p.unit p.core c.dqbot.toNat ∨ dequeKey p.unit p.core c.dqbot.toNat + 48 ≤ k → memGet u.mem k = memGet s.mem k) ∧
    (s.opG a ≠ 0 → allPerformed s p = true → 64 ≤ c.dequeFill → exec (.dqPush d a) s = .next (s.setG d 0).retired) ∧
    (s.opG a = 0 → exec (.dqPush d a) s = done (.trap s ⟨1, 4, s.wordPc, 0, 0⟩))) ∧
  (∀ (s : State) (d : BitVec 5), let p := s.cur.place; let c := s.coreAt p; let ws := dequeRead s p.unit p.core (c.dqbot - 1).toNat
    let mine := c.dqbot ≠ c.dqtop ∧ recCtx ws = s.ctx
    s.here.blk = none → s.errs = [] → stolenOf s.here.resp = none → Admitted (.dqPop d) s → ¬ (4 ≤ d.toNat ∧ d.toNat ≤ 7) →
    (mine → ∃ u, exec (.dqPop d) s = .next u ∧ (u.coreAt p).dqbot = c.dqbot - 1 ∧ u.mem = s.mem ∧
      (u.slot p).th.g = (((((s.here.th.writeG d (ws.getD 0 0)).writeG 4 (ws.getD 1 0)).writeG 5 (ws.getD 2 0)).writeG 6 (ws.getD 3 0)).writeG 7 (ws.getD 4 0)).g) ∧
    (¬ mine → nextVictim s p 0 = none → exec (.dqPop d) s = .next (s.setG d 0).retired) ∧
    (∀ j, ¬ mine → c.dequeFill < 64 → nextVictim s p 0 = some j → ∃ u, exec (.dqPop d) s = .next u ∧ (u.coreAt p).dqRsv = c.dqRsv + 1 ∧
      (u.slot p).st = .wait ∧ (u.slot p).th = s.here.th ∧ ∃ e, (u.coreAt p).steals = c.steals ++ [e] ∧ e.j = j ∧ e.slot = p.slot ∧ e.ctx = s.ctx)) ∧
  (∀ (s : State) (d a : BitVec 5) (h : BitVec 1), let t := (s.opG d).toNat; let unit := t / 128; let core := t % 128
    s.here.blk = none → t < 2 ^ 12 → core < coresOf unit → (h = 1 → unit < 12) → allPerformed s s.cur.place = true → Admitted (.spawn d a h) s →
    (Resp.done ∈ s.here.resp → Resp.busy ∉ s.here.resp → exec (.spawn d a h) s = .next s.retired) ∧
    (Resp.busy ∈ s.here.resp → Lands s (s.opG a) → exec (.spawn d a h) s = .next ((s.setG 1 s.cur.next).jumped (s.opG a)))) ∧
  (∀ (s : State) (a : BitVec 5) (b : BitVec 4) (w off : Nat), let p := s.cur.place; let bed := if b = 15 then p.unit else b.toNat
    let ws := wordsOf (s.ownBytes p off 64 ++ s.ownBytes p (off + 64) 64 ++ s.ownBytes p (off + 128) 64); let pa := s.opG a
    Quiet s → Whole s → s.here.blk = none → bed < 12 → OwnAt p pa 64 64 w off → OwnAt p (pa + 64) 64 64 w (off + 64) → OwnAt p (pa + 128) 64 64 w (off + 128) →
    gangBad ws = false → ¬ (ws.getD 2 0 = 0 ∧ ws.getD 3 0 = 0) → (Tbl.get 0 (s.bed bed).ctxTab (gangCtx ws).toNat).getLsbD 63 = true →
    (s.sysMode = true ∨ gangCtx ws = s.ctx) → allPerformed s p = true → Resp.done ∈ s.here.resp → Resp.busy ∉ s.here.resp →
    Admitted (.launch a b) s → ∃ u, Observes s u ∧ exec (.launch a b) s = .next u.retired)

/-- R232, R233, R407: `plot.alloc` takes the lowest free entry, writes it for the issuing slot and context, and gives the handle with its timestamp; `plot.pass` makes another slot the owner, and `plot.free` clears V, for the owner only. -/
def Obligations.Plots : Prop :=
  ∀ (s : State) (d a : BitVec 5) (t : BitVec 3) (e : Nat), let p := s.cur.place; let v := (s.opG a).toNat
    let base := v % 2 ^ 20; let len := v / 2 ^ 20 % 2 ^ 20; let valid := fun k => (plotRead s p k).1.testBit 43
    s.here.blk = none → s.errs = [] →
    (v < 2 ^ 40 → e < 64 → valid e = false → (∀ k < e, valid k = true) → base % 64 = 0 → len % 64 = 0 → 64 ≤ len → base + len ≤ sysOff p.unit →
      (∀ k < 64, valid k = true → meets ((plotRead s p k).1 % 2 ^ 20) ((plotRead s p k).1 / 2 ^ 20 % 2 ^ 20) base len = false) →
      (plotRead s p e).2.toNat < s.ts.toNat → Admitted (.plotAlloc d a) s →
      exec (.plotAlloc d a) s = .next ((s.putWs (plotKey p e) [BitVec.ofNat 64 (base + len * 2 ^ 20 + p.slot * 2 ^ 40 + 2 ^ 43 + s.ctx.toNat * 2 ^ 44), s.ts]).setG d
        (BitVec.ofNat 64 (e + s.ts.toNat % 2 ^ 58 * 64))).retired) ∧
    (plotMine s (s.opG a) = true → storesDone s p 0 = true → ackedFor s p 0 = true → Admitted (.plotPass a t) s →
      exec (.plotPass a t) s = .next (s.putWs (plotKey p (v % 64)) [setBits (BitVec.ofNat 64 (plotRead s p (v % 64)).1) 42 40 t.toNat]).retired) ∧
    (plotMine s (s.opG a) = true → Admitted (.plotFree a) s →
      exec (.plotFree a) s = .next (s.putWs (plotKey p (v % 64)) [setBits (BitVec.ofNat 64 (plotRead s p (v % 64)).1) 43 43 0]).retired) ∧
    (plotMine s (s.opG a) = false → Admitted (.plotFree a) s → exec (.plotFree a) s = done (.trap s ⟨5, 6, s.wordPc, 0, 0⟩))

/-- R95, R401, R402: `psend` opens, fills and closes the slot's packet from blocks in its core's own memory; a close injects the whole packet and reserves one mailbox entry, whether or not earlier packets have been acknowledged; out of turn each is illegal with SUB 4. -/
def Obligations.ExplicitPackets : Prop :=
  ∀ (s : State) (a : BitVec 5) (w off : Nat) (k : OpenPkt), Quiet s → Whole s → s.here.blk = none →
    let p := s.cur.place; let pa := s.opG a; let head := s.ownBytes p off 64; let ws := wordsOf head; let w5 := (ws.getD 5 0).toNat
    let dest := (ws.getD 4 0).toNat % 2 ^ 52; let fa := BitVec.ofNat 64 (0xF * 2 ^ 60 + dest); let str := BitVec.ofNat 256 (ofBytes (head.take 32))
    let new : OpenPkt := { route := str, lane := w5 / 2 ^ 5 % 4, kind := w5 % 32, dest := resolveLa p.unit p.core dest,
                           dmod := (ws.getD 4 0).toNat / 2 ^ 52, info := ws.getD 6 0, flits := [] }
    let more : OpenPkt := { k with flits := k.flits ++ [s.ownBytes p off 32] }
    let opens := s.here.pkt = none ∧ OwnAt p pa 64 64 w off ∧ headRefused ws (fixedRng p fa) = none ∧ (s.sysMode = true ∨ commandRefused s p fa = false) ∧
      routeRefused p.rim false str = none
    let fills := s.here.pkt = some k ∧ OwnAt p pa 32 32 w off ∧ k.flits.length < (if k.kind = 0x10 then 1 else 16)
    let sends := fun (i : Instr) (o : OpenPkt) => closeRefused o = false → s.here.redOut = 0 → (s.coreAt p).mailRoom ≠ 0 → Admitted i s →
      ∃ u q, exec i s = .next (State.retired u) ∧ u.pkts = s.pkts ++ [q] ∧ q.kind = o.kind ∧ q.dest = o.dest ∧ q.dmod = o.dmod ∧ q.route = o.route ∧ q.info = o.info ∧
        q.xpl = true ∧ q.hop = 0 ∧ q.len = o.flits.length ∧ q.stamp = s.ts ∧ (u.coreAt p).mbrsv = (s.coreAt p).mbrsv + 1 ∧ u.mem = s.mem ∧
        u.slot p = { s.here with pkt := none, expOut := s.here.expOut + 1 }
    let illegal := done (.trap s ⟨1, 4, s.wordPc, 0, 0⟩)
    (opens → Admitted (.psendOpen a) s → ∃ u, Observes s u ∧ exec (.psendOpen a) s = .next (u.modHere fun x => { x with pkt := some new }).retired) ∧
    (fills → Admitted (.psendAppend a) s → ∃ u, Observes s u ∧ exec (.psendAppend a) s = .next (u.modHere fun x => { x with pkt := some more }).retired) ∧
    (opens → sends (.psendEOpen a) new) ∧ (fills → sends (.psendEAppend a) more) ∧ (s.here.pkt = some k → sends .psendEClose k) ∧
    (s.here.pkt = none → (Admitted (.psendAppend a) s → exec (.psendAppend a) s = illegal) ∧
      (Admitted (.psendEAppend a) s → exec (.psendEAppend a) s = illegal) ∧ (Admitted .psendEClose s → exec .psendEClose s = illegal)) ∧
    (s.here.pkt = some k → (Admitted (.psendOpen a) s → exec (.psendOpen a) s = illegal) ∧ (Admitted (.psendEOpen a) s → exec (.psendEOpen a) s = illegal))

/-! ### Timed exchange -/

/-- R287, R288, R223: `xbegin` right after the aligned completion of its domain's barrier, with a header in a cached line, opens the block its header names and goes on behind the header; `xend` closes the slot's block.
R96, R204, R409: an `xput` in a block, with a valid route of moves within the bed and no link of it down or in use, sends the doubleword to the bank of the core its route ends at, three cycles and two for each move later. -/
def Obligations.TimedExchange : Prop :=
  (∀ (s : State) (o0 o1 : Nat) (l0 l1 : List Byte), let p := s.cur.place; let pc := s.cur.pc
    let key := fun o => coreKey p.unit p.core o
    let h0 := lineWord l0 (key o0); let h1 := lineWord l1 (key o1)
    (p.unit < 12 → s.away p = false → OwnAt p (pc + 4) 4 4 0 o0 → OwnAt p (pc + 8) 4 4 0 o1 → Tbl.look (s.coreAt p).icache (key o0 / 64) = some l0 →
      Tbl.look (s.coreAt p).icache (key o1 / 64) = some l1 → isMark h0 = true → h0.toNat % 32 = 0 → h1.toNat < 2 ^ 20 → mayOpen s (blockOf pc h0 h1 (lateReady s)) = true →
      s.cur.half = .lone → Admitted .xbegin s → ∃ u b, exec .xbegin s = .next u ∧ (u.slot p).blk = some b ∧ b.xb = pc ∧ b.count = 0 ∧
        b.len = h0.toNat / 2 ^ 12 % 2 ^ 12 + 1 ∧ b.bar = h0.toNat / 2 ^ 5 % 32 ∧ b.level = h0.toNat / 2 ^ 10 % 4 ∧ b.dom = h1.toNat / 2 ^ 8 % 2 ^ 12 ∧
        b.rbase = h1.toNat % 2 ^ 8 ∧ (u.slot p).th.pc = pc + 12 ∧ sameRegs (u.slot p).th s.here.th ∧ u.mem = s.mem) ∧
    (∀ b, s.here.blk = some b → Admitted .xend s →
      exec .xend s = .next (s.modHere fun x => { x with blk := none, lastBlk := some (b.xb, b.level, b.dom) }).retired) ∧
    (s.here.blk = none → Admitted .xend s → exec .xend s = done (.trap s ⟨1, 4, s.wordPc, 0, 0⟩))) ∧
  (∀ (s : State) (d a : BitVec 5) (r : BitVec 8) (b : Block) (ms : List (Nat × Nat × Nat)) (x y : Nat), let p := s.cur.place; let off := (s.opG a).toNat
    let n := 0x700 + b.rbase + r.toNat; let e := s.routeEntry p.unit p.core n
    s.here.blk = some b → off % 8 = 0 → off < 0xF0000 → n ≤ 0x7FF → e.valid = true → e.ext = false →
    exchangeMoves 36 p.unit (coreXY p.unit p.core).1 (coreXY p.unit p.core).2 e.codes = some (ms, x, y) →
    (s.sysMode = true ∨ reachOk p s.here.reach (.core (xyCore x y).1 (xyCore x y).2 0 off) = true) →
    (∀ m ∈ ms, s.isDown m.1 m.2.1 m.2.2 = false) → s.xstores = [] → Admitted (.xput d a r) s →
    ∃ q, exec (.xput d a r) s = .next (State.retired { s with xstores := [q] }) ∧ q.unit = (xyCore x y).1 ∧ q.core = (xyCore x y).2 ∧ q.off = off ∧
      q.data = s.opG d ∧ q.due = b.cyc + 3 + 2 * ms.length ∧ q.place = p)

/-! ### System control and special registers -/

/-- R225, R226, R410, R411: `follow` by a slot that may join starts the join, and has no effect on a row leader; `unfollow` outside following and leading, `home` in a heavy thread or at home, and `yield 0` only advance; `yield n` sits out its cycles.
R251, R412: `trap n` and `sys n` complete, and leave their trap (causes 18 and 19, SUB n) to be taken once the bundle has.
R254, R413: `eret` to an address where a bundle may start restores MODE from PM, clears TD, ends the reservation, reloads the reach descriptor from the save area and goes to `epc`.
R413: `halt` with every access performed and no packet open ends the thread: its slot is FREE.
That a `follow` by a slot that already follows has no effect is the model's choice (log 40). -/
def Obligations.SystemWords : Prop :=
  (∀ (s : State) (n : BitVec 11), let p := s.cur.place
    (p.core % 8 = 0 ∨ s.here.folState ≠ 0 → Admitted .follow s → exec .follow s = .next s.retired) ∧
    (p.core % 8 ≠ 0 → s.here.folState = 0 → s.here.blk = none → otherContext (s.slot (leaderOf p)) s.ctx = false → Admitted .follow s →
      exec .follow s = .next (s.modHere fun x => { x with folState := 1 }).retired) ∧
    (s.here.folState = 0 → hasFollowers s p = false → Admitted .unfollow s → exec .unfollow s = .next s.retired) ∧
    (s.here.folState ≠ 0 → s.here.blk = none → Admitted .unfollow s → ∃ u, exec .unfollow s = .next u ∧ (u.slot p).folState = 0 ∧ (u.slot p).folReason = 2 ∧ u.mem = s.mem) ∧
    (p.heavy = true ∨ s.away p = false → Admitted .home s → exec .home s = .next s.retired) ∧
    (s.here.blk = none → Admitted (.yield n) s →
      exec (.yield n) s = .next (State.retired (if n = 0 then s else { s with cur := { s.cur with rest := true } })))) ∧
  (∀ (s : State) (n : BitVec 11),
    (Admitted (.trap n) s → exec (.trap n) s = .next { s.retired with cur := { s.cur with pend := some (18, n.toNat) } }) ∧
    (Admitted (.sys n) s → exec (.sys n) s = .next { s.retired with cur := { s.cur with pend := some (19, n.toNat) } })) ∧
  (∀ (s : State), let p := s.cur.place; let t := s.here.th.epc
    Lands s t → s.here.blk = none → s.errs = [] → Admitted .eret s → ∃ u, exec .eret s = .next u ∧ (u.slot p).th.mode = s.here.th.pm ∧ (u.slot p).th.td = false ∧
      (u.slot p).resv = none ∧ (u.slot p).reach = s.loadReach p ∧ (s.cur.half ≠ .a → (u.slot p).th.pc = t) ∧ (u.slot p).th.g = s.here.th.g ∧
      (u.slot p).th.pm = s.here.th.pm ∧ (u.slot p).th.epc = t ∧ u.mem = s.mem) ∧
  (∀ (s : State), let p := s.cur.place
    s.here.blk = none → s.here.pkt = none → allPerformed s p = true → s.here.name = p.name → p.ok = true → Admitted .halt s →
      ∃ u, exec .halt s = .next u ∧ (u.slot p).st = .free ∧ u.cur.ended = .gone ∧ u.mem = s.mem)

/-- R414 to R416, R170: `mfsr` gives each special register, `mtsr` writes each that is writable as far as its fields are, and ignores the others. -/
def Obligations.SpecialRegisters : Prop :=
  ∀ (s : State) (d a : BitVec 5), let p := s.cur.place; let t := s.here.th; let v := s.opG a
    let writes := fun (n : BitVec 8) (f : Thread → Thread) => Admitted (.mtsr a n) s → exec (.mtsr a n) s = .next (s.modTh f).retired
    let ignores := fun (n : BitVec 8) => Admitted (.mtsr a n) s → exec (.mtsr a n) s = .next s.retired
    Gives (.mfsr d 0) d s (s.here.name.zeroExtend 64) ∧ Gives (.mfsr d 1) d s (s.locWord p) ∧ Gives (.mfsr d 2) d s (t.ctx.zeroExtend 64) ∧
    Gives (.mfsr d 3) d s (s.statusWord p) ∧ Gives (.mfsr d 8) d s t.epc ∧ Gives (.mfsr d 9) d s t.ecause ∧ Gives (.mfsr d 10) d s t.eaddr ∧
    Gives (.mfsr d 11) d s t.tvec ∧ Gives (.mfsr d 0x10) d s (if p.unit < 12 then (s.coreAt p).fit else 0) ∧ Gives (.mfsr d 0x11) d s s.ts ∧
    Gives (.mfsr d 0x18) d s t.xlb ∧ Gives (.mfsr d 0x19) d s t.xll ∧ Gives (.mfsr d 0x1A) d s t.xlc ∧
    (∀ k : Nat, k < 16 → Gives (.mfsr d (BitVec.ofNat 8 (0x20 + k))) d s ((s.coreAt p).chan k).wm) ∧
    Gives (.mfsr d 0x30) d s (if p.unit < 12 then (s.coreAt p).mx.status else 0) ∧
    writes 3 (fun t => { t with pm := v.getLsbD 1, td := v.getLsbD 2 }) ∧ writes 8 (fun t => { t with epc := v }) ∧
    writes 9 (fun t => { t with ecause := v &&& 0xFFFF07FF }) ∧ writes 10 (fun t => { t with eaddr := v }) ∧
    writes 11 (fun t => { t with tvec := v &&& ~~~(3 : Word) }) ∧ writes 0x18 (fun t => { t with xlb := v &&& 0xFFFF8 }) ∧
    writes 0x19 (fun t => { t with xll := BitVec.ofNat 64 (min (v.toNat % 2 ^ 17) 122880) }) ∧ writes 0x1A (fun t => { t with xlc := v }) ∧
    (p.unit < 12 → Admitted (.mtsr a 0x10) s → exec (.mtsr a 0x10) s = .next (s.modCoreAt p fun c => { c with fit := v }).retired) ∧
    (p.unit < 12 → Admitted (.mtsr a 0x30) s → exec (.mtsr a 0x30) s =
      .next (State.retired (if v.getLsbD 0 then s.modCoreAt p fun c => { c with mx := { c.mx with ovf := false } } else s))) ∧
    ignores 0 ∧ ignores 1 ∧ ignores 2 ∧ ignores 0x11 ∧ (∀ k : Nat, k < 16 → ignores (BitVec.ofNat 8 (0x20 + k)))

/-! ### The matrix unit -/

/-- R256, R370 to R373: a context that owns its core's unit configures a ring that nothing claims, reserves and publishes tiles, and pops them.
That a publish waits for the stores below their banks is the model's choice (log 36). -/
def Obligations.MatrixRings : Prop :=
  ∀ (s : State) (d a b : BitVec 5), let p := s.cur.place; let n := (s.opG a).toNat; let v := s.opG b; let r := s.mx.ring n; let cnt := v.toNat % 2 ^ 13
    s.here.blk = none → s.mx.own = some s.ctx → s.mx.freezing = none → s.mx.loading = none → n < 8 →
    (cfgRefused v = none → r.claim = r.head → s.mx.ops.any (·.names n) = false → Admitted (.mringCfg a b) s →
      exec (.mringCfg a b) s = .next (feedRings (wakeMatrix (s.modMx fun m => m.modRing n fun _ => { Ring.empty with cfg := v &&& 0x1FFFFFFFFFFF }) p.unit p.core) p.unit p.core).retired) ∧
    (countBad v false = false → r.en = true → 0 < cnt → cnt ≤ r.nslot → cnt ≤ r.room → Gives (.ringPutReserve d a b) d s (r.tail.zeroExtend 64)) ∧
    (countBad v false = false → r.en = true → cnt ≤ r.room → (r.chv = false ∨ cnt = 0) → storesForMx s = true → Admitted (.ringPutPublish d a b) s →
      ∃ u, exec (.ringPutPublish d a b) s = .next u ∧ ((u.coreAt p).mx.ring n).tail = r.tail + BitVec.ofNat 32 cnt ∧
        (u.slot p).th.g = (s.here.th.writeG d ((r.tail + BitVec.ofNat 32 cnt).zeroExtend 64)).g ∧ u.mem = s.mem) ∧
    (countBad v true = false → r.en = true → cnt = 0 → Gives (.ringPop d a b) d s (r.claim.zeroExtend 64)) ∧
    (countBad v true = false → r.en = true → 0 < cnt → cnt ≤ r.nslot → cnt ≤ r.unclaimed → s.mx.local' < 4 → Admitted (.ringPop d a b) s →
      exec (.ringPop d a b) s = .next ((s.modMx fun m => (m.claimTiles n cnt).accept .pop [(n, r.claim)] none none).setG d
        ((r.claim + BitVec.ofNat 32 cnt).zeroExtend 64)).retired)

/-- R376, R377: a product that passes its checks, with its tiles there and room for it, claims KCH tiles of each of its rings and begins its fetch; once the unit has accepted it the word completes, and what a word of a pair has fetched is accepted with it. -/
def Obligations.MatrixProducts : Prop :=
  ∀ (s : State) (c : BitVec 2) (a b r k : BitVec 3) (z n : BitVec 1), let p := s.cur.place
    let held := s.mx.fetches.find? fun f => f.slot == p.slot && f.half == s.aHalf && f.act.isSome
    let takesUp := fun (i : Instr) => ∃ u, exec i s = .next (State.retired u) ∧ (held = none → u = s) ∧
      ∀ f act, held = some f → f.act = some act → u = s.modMx fun m =>
        { m with fetches := m.fetches.erase f }.accept act (f.job.claims.map fun (c : Nat × BitVec 32 × Nat) => (c.1, c.2.1)) none none
    let goes := fun (i : Instr) (q : Prod) =>
      (unitAnswer s = some none → Admitted i s → takesUp i) ∧
      (unitAnswer s = none → fetching s = false → q.refused s.mx = none → q.ready s.mx = true → tablesBusy s p (if q.coded s.mx then [255] else []) = none → s.mx.local' < 4 →
        Admitted i s → ∃ u, exec i s = .next u ∧ (u.slot p).wait = some .matrix ∧ (u.slot p).th = s.here.th ∧ u.mem = s.mem ∧
          (u.coreAt p).mx.fetches = s.mx.fetches ++ [{ slot := p.slot, half := s.aHalf, job := q.job s.mx, got := [], remote := none, pair := s.cur.half != .lone, act := none }] ∧
          ∀ j ∈ q.rings, ((u.coreAt p).mx.ring j).claim = (s.mx.ring j).claim + BitVec.ofNat 32 q.kch)
    s.here.blk = none → s.mx.own = some s.ctx → s.mx.freezing = none → s.mx.loading = none →
    goes (.mma c a b z k) { form := 0, acc := c.toNat, acz := z == 1, a := a.toNat, b := b.toNat, m := 0, kch := k.toNat + 1 } ∧
    goes (.mmaSp c a b n r z k) { form := if n = 0 then 1 else 2, acc := c.toNat, acz := z == 1, a := a.toNat, b := b.toNat, m := r.toNat, kch := k.toNat + 1 } ∧
    goes (.mmaMx c a b z k) { form := 3, acc := c.toNat, acz := z == 1, a := a.toNat, b := b.toNat, m := 0, kch := k.toNat + 1 }

/-- R380, R381, R386, R387: the accumulator words of a context that owns its core's unit: a zero or a move is accepted at the end of the unit's order with room for it; a load of 32 rows in the core's own memory begins their fetch, and a store of them is accepted, each once with room for it, and each completes once the unit has done with it; `mstat` gives the unit's status, and clears OVF when asked to, with DRAIN once every operation accepted before it has retired.
R257, R258, R382, R383, R387: `mcap` writes its core's capability entry with the context, the issuer's mask and the timestamp, and gives the token, or revokes it and gives 0; `msave` of the owner freezes the unit with the place of its image, and completes once the image is written; `mload` of an image that passes its checks gives the unit to the context and marks the image used: FROZEN, bit 8 of its word 1, becomes 0, and no other byte of memory changes. -/
def Obligations.MatrixUnit : Prop :=
  (∀ (s : State) (d a b : BitVec 5) (c e : BitVec 2) (dr : BitVec 1) (offs : List Nat), let p := s.cur.place
    let v := (s.opG b).toNat; let pitch := v % 2 ^ 20; let fmt := v / 2 ^ 20 % 4; let n := if fmt = 0 then 128 else 64
    let rows := v < 2 ^ 22 ∧ fmt ≠ 3 ∧ pitch % 16 = 0 ∧ n ≤ pitch ∧ offs.length = 32 ∧
      ∀ k (h : k < offs.length), ∃ w, OwnAt p (s.opG a + BitVec.ofNat 64 (k * pitch)) n 16 w offs[k]
    s.mx.own = some s.ctx → s.mx.freezing = none → s.mx.loading = none →
    (s.here.blk = none → s.mx.local' < 4 →
      (Admitted (.maccZero c) s → exec (.maccZero c) s = .next (s.modMx fun m => m.accept (.zero c.toNat) [] none none).retired) ∧
      (Admitted (.maccMv c e) s → exec (.maccMv c e) s = .next (s.modMx fun m => m.accept (.move c.toNat e.toNat) [] none none).retired) ∧
      (rows → unitAnswer s = none → fetching s = false → storesForMx s = true → Admitted (.maccLd c a b) s → ∃ u, exec (.maccLd c a b) s = .next u ∧
        (u.coreAt p).mx.fetches = s.mx.fetches ++ [{ slot := p.slot, half := s.aHalf, job := .rows c.toNat offs fmt, got := [], remote := none, pair := s.cur.half != .lone, act := none }] ∧
        (u.slot p).wait = some .matrix ∧ (u.slot p).th = s.here.th ∧ u.mem = s.mem) ∧
      (rows → unitAnswer s = none → storing s = false → Admitted (.maccSt c a b) s → ∃ u, exec (.maccSt c a b) s = .next u ∧
        (u.coreAt p).mx.ops = (s.mx.accept (.store c.toNat offs fmt) [] (some (p.slot, s.aHalf)) none).ops ∧
        (u.slot p).wait = some .matrix ∧ (u.slot p).th = s.here.th ∧ u.mem = s.mem)) ∧
    (s.here.blk = none → unitAnswer s = some none → (Admitted (.maccLd c a b) s → exec (.maccLd c a b) s = .next (acceptFetched s).retired ∧
        ((∀ f ∈ s.mx.fetches, f.act = none) → acceptFetched s = s)) ∧
      (Admitted (.maccSt c a b) s → exec (.maccSt c a b) s = .next s.retired)) ∧
    (dr = 0 ∨ s.here.blk = none → dr = 0 ∨ (∀ o ∈ s.mx.ops, (acceptedBy s.here.resp).getD s.mx.taken ≤ o.num) → Admitted (.mstat d a dr) s →
      exec (.mstat d a dr) s = .next ((if (s.opG a).getLsbD 0 then s.modMx fun m => { m with ovf := false } else s).setG d s.mx.status).retired)) ∧
  (∀ (s : State) (d a : BitVec 5) (n : BitVec 4) (key : Img), let p := s.cur.place; let v := (s.opG a).toNat; let k := capKey p.unit p.core n.toNat
    s.here.blk = none → s.errs = [] →
    (s.mx.own = some s.ctx → s.mx.freezing = none → s.mx.loading = none → v < 2 ^ 43 → v.testBit 42 = true → (s.peekW (k + 8)).toNat < s.ts.toNat →
      Admitted (.mcap d a n) s →
      exec (.mcap d a n) s = .next ((s.putWs k [BitVec.ofNat 64 (s.ctx.toNat + 2 ^ 12 + v % 2 ^ 42 * 2 ^ 13), s.ts, 0, 0]).setG d
        (BitVec.ofNat 64 (n.toNat + s.ts.toNat % 2 ^ 60 * 16))).retired) ∧
    (s.mx.own = some s.ctx → s.mx.freezing = none → s.mx.loading = none → v < 2 ^ 42 → Admitted (.mcap d a n) s →
      exec (.mcap d a n) s = .next ((s.putWs k [setBits (s.peekW k) 12 12 0]).setG d 0).retired) ∧
    (unitAnswer s = some none → Admitted (.msave a) s → exec (.msave a) s = .next s.retired) ∧
    (unitAnswer s = none → (∀ f, imageAt s (s.opG a) .store f = f s key) → s.mx.own = some s.ctx → s.mx.freezing = none → s.mx.loading = none → Admitted (.msave a) s →
      ∃ u, exec (.msave a) s = .next u ∧ (u.coreAt p).mx = { s.mx with freezing := some (p.slot, some key) } ∧ (u.slot p).wait = some .freeze ∧ (u.slot p).th = s.here.th ∧
        u.mem = s.mem) ∧
    ((∀ f, imageAt s (s.opG a) .matrix f = f s key) → imageRefused s p.unit p.core key s.ctx = none → Resp.done ∉ s.here.resp → s.cur.part = 0 →
      s.mx.own = none → Admitted (.mload a) s → ∃ u, exec (.mload a) s = .next u ∧ (u.coreAt p).mx.own = some s.ctx ∧
        sameRegs (u.slot p).th s.here.th ∧ ofBytes (imgBytes u key 8 8) + 256 = ofBytes (imgBytes s key 8 8) ∧
        ∀ j, (∀ e ∈ Img.parts key 8 8, j < e.1 ∨ e.1 + e.2 ≤ j) → memGet u.mem j = memGet s.mem j))

/-- R384: an `mcmd` whose block stands in its core's own memory, with a legal word, a bed core as target and a well-formed valid route, sends one KIND 0x13 packet and reserves one mailbox entry.
R124, R125, R395: `cpy.quench` of a context number below 4,096, with every valid entry it sends along well formed, starts a quench of it: QUENCH shows it busy until every party has answered. -/
def Obligations.RemoteCommands : Prop :=
  (∀ (s : State) (a : BitVec 5) (w off : Nat), let p := s.cur.place; let word := wordAt (s.ownBytes p off 32)
    let unit := word 2 / 2 ^ 7 % 2 ^ 5; let core := word 2 % 2 ^ 7
    let ix := if (word 2).testBit 24 then 0x700 + word 2 / 2 ^ 25 % 2 ^ 8 else 128 * unit + core
    Quiet s → Whole s → s.here.blk = none → OwnAt p (s.opG a) 32 32 w off → word 1 < 2 ^ 32 → word 2 < 2 ^ 33 → word 3 = 0 →
    (remoteWord (BitVec.ofNat 32 (word 1))).isSome = true → unit < 12 → (s.routeEntry p.unit p.core ix).valid = true →
    routeRefused p.rim false (s.routeString p.unit p.core ix) = none → allPerformed s p = true → (s.coreAt p).mailRoom ≠ 0 → Admitted (.mcmd a) s →
    ∃ u q, exec (.mcmd a) s = .next (State.retired u) ∧ u.pkts = s.pkts ++ [q] ∧ q.kind = 0x13 ∧ q.dest = unit * 2 ^ 36 + core * 2 ^ 24 ∧
      q.route = s.routeString p.unit p.core ix ∧ q.body = .mcmd (BitVec.ofNat 32 (word 1)) (BitVec.ofNat 64 (word 0))
        (if (word 2).testBit 23 then some (word 2 / 2 ^ 12 % 2 ^ 11) else none) ∧
      (u.coreAt p).mbrsv = (s.coreAt p).mbrsv + 1 ∧ u.mem = s.mem ∧ u.slots = s.slots) ∧
  (∀ (s : State) (a : BitVec 5), let p := s.cur.place; let v := (s.opG a).toNat
    s.here.blk = none → v < 2 ^ 12 → (s.coreAt p).qBusy = false → s.errs = [] → routeStored s p = false →
    (∀ k < 32, s.entryOk (0x7E0 + k) = true → routeRefused p.rim false (s.routeString p.unit p.core (0x7E0 + k)) = none) → Admitted (.cpyQuench a) s →
    ∃ u, exec (.cpyQuench a) s = .next u ∧ (u.coreAt p).qBusy = true ∧ (u.coreAt p).qDone = false ∧ (u.coreAt p).qCtx = BitVec.ofNat 12 v ∧
      u.quenches = s.quenches ++ [(s.moduleNo.toNat, v, p.unit, p.core, [])] ∧ (u.slot p).th.g = s.here.th.g ∧ u.mem = s.mem)

/-! ### Start-up, firmware and the Lantern port -/

/-- R469 to R473: the boot ROM takes an image only once started, runs it only when its four checks pass and names the failed one else; bring-up sets the module number and the timestamp; once it has ended the one accepted write of FEATACC sets the feature register, with bit 0 always 1; a report carries the caller's nonce, what R473 lists and its signature, and the public part of the identity key is readable.
That START_UP acts once, FEATACC needs state 2 and bring-up does not lower the timestamp are the model's choices (log 131, 133, 134). -/
def Obligations.StartUpSteps : Prop :=
  ∀ (s : State), let b := s.boot; let img := b.image; let len := ofBytes ((img.drop 4).take 4); let digest := imageMessage img
    let good := ofBytes (img.take 2) = 0x5A4A ∧ len ≤ 2 ^ 26 - 5376 ∧ ofBytes ((img.drop 8).take 1) = 1 ∧
      Config.keyDigests.contains (Config.shake256 ((img.drop 64).take 1952) 32, true) = true ∧
      Config.mldsaVerify ((img.drop 64).take 1952) digest ((img.drop 2016).take 3309) = true
    let v : BitVec 256 := (s.arg.wide.truncate 256 &&& 0x7FF) ||| 1
    (b.started = false → exec .startUp s = .next { s with boot := { b with started := true, state := 0, cause := 0, image := [] } }) ∧
    (b.started = true → b.state ≠ 1 → b.state ≠ 2 → exec .firmwareImage s = .next { s with boot := { b with state := 1, cause := 0, image := s.arg.bytes } }) ∧
    (b.started = true → b.state = 1 → good → Acts .firmwareImage s fun t => t.boot.state = 2 ∧ t.boot.fwDigest = digest ∧ t.mem = s.mem) ∧
    (b.started = true → b.state = 1 → ¬ good → Acts .firmwareImage s fun t => t.boot.state = 3 ∧ t.boot.image = [] ∧
      t.boot.cause = (if ofBytes (img.take 2) ≠ 0x5A4A ∨ 2 ^ 26 - 5376 < len then 1 else if ofBytes ((img.drop 8).take 1) ≠ 1 then 2
        else if Config.keyDigests.contains (Config.shake256 ((img.drop 64).take 1952) 32, true) = false then 3 else 4)) ∧
    (∀ u, s.arg.setup = some u → b.state = 2 → b.broughtUp = false → b.ctxMade = false → ¬ u.ts < s.ts → Acts .firmwareBringup s fun t =>
      t.boot.broughtUp = true ∧ t.boot.bootts = u.ts ∧ t.ts = u.ts ∧ t.moduleNo = u.moduleNo ∧ t.feat = s.feat) ∧
    (b.state = 2 → b.broughtUp = true → b.featWritten = false → b.ctxMade = false →
      exec .feataccWrite s = .next { s with boot := { b with featAcc := v, featWritten := true }, feat := v }) ∧
    (b.state = 2 → b.broughtUp = false → exec .feataccWrite s = .next s) ∧
    (b.state = 2 → b.featWritten = true ∨ b.ctxMade = true → Acts .feataccWrite s fun t => t.feat = s.feat ∧ t.boot.featAcc = b.featAcc) ∧
    (b.state = 2 → s.arg.flag = false → s.arg.bytes.length = 32 → b.fwDigest.length = 64 →
      let r := s.arg.bytes ++ b.fwDigest ++ bytesOf 32 b.featAcc.toNat ++ bytesOf 2 s.moduleNo.toNat ++ [1] ++ List.replicate 5 0 ++ bytesOf 8 b.bootts.toNat ++
        bytesOf 8 s.ts.toNat ++ bytesOf 8 s.resetCount
      Acts .attestationRequest s fun t =>
        t.boot.answers = b.answers ++ [(0, r ++ bytesOf 3309 (Config.mldsaSign s.free (Config.shake256 r 64)).toNat)] ∧ t.mem = s.mem) ∧
    (b.state = 2 → s.arg.flag = true → Acts .attestationRequest s fun t => t.boot.answers = b.answers ++ [(5, Config.identityKey)])

/-- R464 to R468, R263: the control node's submissions are queued or answered with the refusing rule's code, its accesses to vaults are made at once, those outside its reach are answered RANGE, and events reach its ring in order while that has room.
That RESETTING comes before the check of the contexts and before FULL (log 173) and that EVRB keeps its low bits (log 137) are the model's choices. -/
def Obligations.HostPortSteps : Prop :=
  ∀ (s : State) (n v off : Nat) (e : EvRec) (rest : List EvRec) (q : Pkt),
    let alone := s.arg.flag = false ∧ s.arg.flag2 = false ∧ s.hpq = []
    let bed := s.arg.v.toNat % 16; let ws := s.arg.words; let pr := (ws.getD 0 0).toNat / 2 ^ 4 % 4; let l := Tbl.get [] (s.bed bed).lq pr
    let ok := bed < 12 ∧ gangBad ws = false ∧ ¬ (ws.getD 2 0 = 0 ∧ ws.getD 3 0 = 0) ∧ (Tbl.get 0 (s.bed bed).ctxTab (gangCtx ws).toNat).getLsbD 63 = true
    let named := bed < 12 ∧ gangBad ws = false ∧ ¬ (ws.getD 2 0 = 0 ∧ ws.getD 3 0 = 0)
    let code := fun (t : State) (c : Byte) => t.boot.answers = s.boot.answers ++ [(1, [c])]
    (ok → l.length < 16 → (s.bed bed).rst.state = 0 → Acts .launchSubmission s fun t => code t 0 ∧
      Tbl.get [] (t.bed bed).lq pr = l ++ [{ words := ws, arrts := s.ts, blk := false, victims := [] }] ∧ t.mem = s.mem ∧ t.slots = s.slots) ∧
    (12 ≤ bed → Acts .launchSubmission s fun t => code t 1 ∧ t.beds = s.beds) ∧
    (ok → 16 ≤ l.length → (s.bed bed).rst.state = 0 → Acts .launchSubmission s fun t => code t 2 ∧ t.beds = s.beds) ∧
    (named → (s.bed bed).rst.state ≠ 0 → Acts .launchSubmission s fun t => code t 3 ∧ t.beds = s.beds) ∧
    (let log := s.arg.v.toNat / 2 ^ 51 % 2 ^ 5
     6 ≤ log → log ≤ 20 → ¬ (s.evrb.getLsbD 56 = true ∧ s.arg.v.getLsbD 56 = true) → exec .evrbWrite s = .next { s with evrb := s.arg.v &&& 0x1FFFFFFFFFFFFFF }) ∧
    (let log := s.evrb.toNat / 2 ^ 51 % 2 ^ 5; let at' := hostKey (s.evrb.toNat % 2 ^ 51 + 32 * (s.evprod.toNat % 2 ^ log))
     s.evq = e :: rest → s.evrb.getLsbD 56 = true → (s.evprod - s.evcons).toNat ≠ 2 ^ log → s.errs = [] → Acts .eventDelivery s fun t =>
       t.evprod = s.evprod + 1 ∧ (∃ more, t.evq = rest ++ more) ∧
       t.mem = memSetMany (memSetMany s.mem at' e.bytes) (hostKey (s.evpw.toNat % 2 ^ 51)) (bytesOf 8 (s.evprod + 1).toNat)) ∧
    (n < 12 → s.arg.unit = n → (s.bed n).stage.recs = e :: rest → queueRoom s.evq = true → Acts .eventDrain s fun t => t.evq = s.evq ++ [e] ∧ t.mem = s.mem) ∧
    (alone → decodeLa 31 0 s.arg.index = .vault n v off → (s.bed n).rst.state = 0 → s.errs = [] →
      (s.arg.bytes ≠ [] → off + s.arg.bytes.length ≤ 2 ^ 26 → Acts .hpWrite s fun t =>
        t.mem = memSetMany s.mem (vaultKey n v off) s.arg.bytes ∧ t.boot.answers = s.boot.answers ++ [(2, [0])]) ∧
      (0 < s.arg.aux → off + s.arg.aux ≤ 2 ^ 26 → s.lag.all (fun l => l.reader != .hp) = true → Acts .hpRead s fun t =>
        t.mem = s.mem ∧ t.boot.answers = s.boot.answers ++ [(3, 0 :: memGetMany s.mem (vaultKey n v off) s.arg.aux)])) ∧
    (alone → decodeLa 31 0 s.arg.index = .hole → Acts .hpWrite s fun t => t.mem = s.mem ∧ t.boot.answers = s.boot.answers ++ [(2, [1])]) ∧
    (∀ a k f, Due s q → q.loc = .atLink 0 → q.rng = .host a → q.body = .load k f → Acts .hostAccessTimeout s fun t => Nacks s q t 2 ∧ t.mem = s.mem)

/-! ### Reset, clock and temperature -/

/-- R474 to R479, R67: a request to reset a READY bed drains it: its threads end, its matrix units and its cores' commands are emptied, and its queued launch records stand; CLEAR leaves every byte of its memories at its default and no other byte changed, and the bed READY; firmware then restores it once, from the listed checkpoint of the bed with the greatest stamp below RSTTS, if one is good; the clock goes down only between timed blocks; too hot a die holds every bed in reset. -/
def Obligations.ResetSteps : Prop :=
  ∀ (s : State), let b := s.arg.unit; let r := (s.bed b).rst
    (b < 12 → s.arg.flag = true ∨ s.arg.flag2 = true → r.state = 0 → Acts .bedResetRequest s fun t =>
      (t.bed b).rst = { r with state := 1, reqc := s.arg.flag, reqm := s.arg.flag2, count := if r.count = BitVec.allOnes 32 then r.count else r.count + 1,
                               rstts := s.ts, owed := false } ∧
      (∀ e ∈ t.slots, e.1 / 1024 = b → e.2.st = .free) ∧ (∀ e ∈ t.cores, e.1 / 128 = b → e.2.mx = Matrix.empty ∧ e.2.chans = [] ∧ e.2.sbuf = []) ∧
      (t.bed b).lq = (s.bed b).lq) ∧
    (b < 12 → s.arg.flag = true ∨ s.arg.flag2 = true → r.state ≠ 0 → exec .bedResetRequest s =
      .next (s.modBed b fun d => { d with rst := { r with reqc := r.reqc || s.arg.flag, reqm := r.reqm || s.arg.flag2 } })) ∧
    (b < 12 → r.state = 1 → (s.bed b).stage.recs = [] → (s.bed b).stage.held = [] →
      exec .resetClear s = .next (s.modBed b fun d => { d with rst := { r with state := 2 } })) ∧
    (b < 12 → r.state = 2 → s.boot.hot = false → Acts .resetClear s fun t => (t.bed b).rst = { r with state := 0, readyts := s.ts, owed := true } ∧
      (∀ k, inBedMem b k = true → memGet t.mem k = memDefault k) ∧ (∀ k, inBedMem b k = false → memGet t.mem k = memGet s.mem k) ∧
      (∀ w ∈ t.tags, inBedMem b (8 * w) = false) ∧ ∀ e ∈ t.slots, e.1 / 1024 ≠ b) ∧
    (b < 12 → r.state = 0 → r.owed = true → s.arg.words = [] → Acts .checkpointRestore s fun t =>
      (t.bed b).rst.owed = false ∧ t.boot.answers = s.boot.answers ++ [(4, bytesOf 8 0)]) ∧
    (∀ w c, let u := restoreTrellis (s.modBed b fun d => { d with rst := { d.rst with owed := false } }) b
      b < 12 → r.state = 0 → r.owed = true → s.arg.words = [w] → readCkpt u w.toNat = c → c.magic = 0x4B43 → c.bed = b → c.stamp < r.rstts.toNat →
      crc32c (c.listBytes ++ c.segs.flatMap fun g => hbmPeek u g.2.1 g.2.2) = c.check → Acts .checkpointRestore s fun t =>
        (t.bed b).rst.owed = false ∧ t.boot.answers = s.boot.answers ++ [(4, bytesOf 8 c.stamp)] ∧
        ∀ a v off o n, c.segs = [(a, o, n)] → a < 2 ^ 52 → decodeLa 31 0 a = .vault b v off → off + n ≤ 2 ^ 26 → u.errs = [] →
          t.mem = memSetMany u.mem (vaultKey b v off) (hbmPeek u o n)) ∧
    (∀ c d l, ckptBest l = some c → d ∈ l → d.stamp ≤ c.stamp) ∧
    (b < 12 → noBlocks s b = false → exec .clockReduction s = .next s) ∧
    (b < 12 → noBlocks s b = true → exec .clockReduction s = .next (s.modBed b fun d => { d with clock := min 4 (d.clock + 1) })) ∧
    (s.boot.hot = false → Acts .overtemperatureReset s fun t => t.boot.hot = true ∧ ∀ n < 12, (t.bed n).rst.state ≠ 0) ∧
    exec .overtemperatureRelease s = .next { s with boot := { s.boot with hot := false } }

/-! ### Control registers -/

/-- R10, R22, R54, R66, R86, R120, R179, R183, R217, R220, R236, R240, R456, R467: what the stores to control registers that come as steps of their own leave in their registers, where the register accepts them, and that one which does not is left as it was.
That EVPW keeps its low bits is the model's choice (log 137). -/
def Obligations.ControlRegisterSteps : Prop :=
  ∀ (s : State) (b off k : Nat) (r : Rng), let v := s.arg.v; let n := s.arg.index; let u := s.arg.unit; let c := s.arg.core
    (s.arg.flag2 = true → s.arg.aux = 2 → exec .registerWrite s = .next { s with evcons := v }) ∧
    (s.arg.flag2 = true → s.arg.aux = 1 → exec .registerWrite s = .next { s with evpw := v &&& 0x7FFFFFFFFFFFF }) ∧
    (s.arg.flag2 = false → s.arg.flag = true → decodeOutside (n / 8 * 8) = .bedCtl b 3 off → 0x100 ≤ off → off < 0x180 → v = 0 → Acts .registerWrite s fun t =>
      Tbl.get 0 (t.bed b).vce ((off - 0x100) / 8) = 0 ∧ Tbl.get 0 (t.bed b).vue ((off - 0x100) / 8) = 0 ∧ t.mem = s.mem) ∧
    (s.arg.flag2 = false → decodeOutside (n / 8 * 8) = r → (∀ d k o, r = .bedCtl d k o → k ≠ 0 ∧ k ≠ 3) → r.isCtl = true → tableHeld s r 8 = false →
      readOnlyStore ⟨31, 0, 0⟩ r = none → exec .registerWrite s = .next (s.ctlWrite r v)) ∧
    (s.arg.flag2 = false → decodeOutside (n / 8 * 8) = .bedCtl b 0 off → off < 0x8000 ∨ ctxEarly s b v = false → exec .registerWrite s = .next (s.ctlWrite (.bedCtl b 0 off) v)) ∧
    (s.boot.turnWritten = false → s.boot.ctxMade = false → ((List.range 4).all fun l => laneSafe ((turnFix v).toNat / 2 ^ (16 * l) % 2 ^ 16)) = true →
      Acts .turnmaskWrite s fun t => t.turnmask = turnFix v ∧ t.boot.turnWritten = true) ∧
    (s.boot.turnWritten = true → Acts .turnmaskWrite s fun t => t.turnmask = s.turnmask) ∧
    (u < 6 → n < 64 → s.arg.flag = false → Acts .regionTableWrite s fun t => Tbl.get 0 (t.rim u).heldW0 n = v ∧ t.rimRegion u n = s.rimRegion u n) ∧
    (u < 6 → n < 64 → s.arg.flag = true → regionHalf s u n = false → regionBad (s.rim u) n (regionNext s u n v) = false →
      Acts .regionTableWrite s fun t => t.rimRegion u n = regionNext s u n v ∧ t.mem = s.mem) ∧
    (let x := s.arg.aux; let ea := s.rimRegion 0 n; let ex := s.rimRegion 0 x
     s.move = none → u < 6 → n < 64 → x < 64 → n ≠ x → (∀ d < 6, s.rimRegion d n = ea ∧ s.rimRegion d x = ex) → ea.mode ≠ 3 → ex.mode ≠ 3 → ea.wfz = false →
       regionHalf s u n = false → ea.stamp.toNat < s.ts.toNat → ex.stamp.toNat < s.ts.toNat →
       Acts .regionMove s fun t => t.rimRegion u n = { ea with wfz := true, stamp := s.ts } ∧ t.mem = s.mem ∧ ∀ d < 6, d ≠ u → t.rimRegion d n = ea) ∧
    (∀ m st, s.move = some m → m.step ≠ 2 → m.left.contains u = true → m.stamp = some st → (m.step = 1 → regionHalf s u m.a = false) →
      Acts .regionMove s fun t => t.rimRegion u (m.entry st).1 = (m.entry st).2 ∧ t.mem = s.mem) ∧
    (∀ m, s.move = some m → m.step = 2 → s.errs = [] → Acts .regionMove s fun t => t.move = m.next ∧ t.rims = s.rims) ∧
    (u < 12 → n < 4096 → (v.getLsbD 63 = true → s.boot.broughtUp = true ∧ s.boot.featWritten = true ∧ (s.bed u).rst.owed = false) → ctxBad u v = false → Acts .contextTableWrite s fun t => Tbl.get 0 (t.bed u).ctxTab n = v &&& 0x800FFFFFFFFFFFFF) ∧
    (u < 12 → n < 4096 → ctxEarly s u v = true → exec .contextTableWrite s = .next s) ∧
    (u < 12 → n < 4096 → ctxEarly s u v = false → ctxBad u v = true → Acts .contextTableWrite s fun t => t.beds = s.beds ∧ t.boot.refused = s.boot.refused + 1) ∧
    (u < 12 → exec .lqctlWrite s = .next (s.modBed u fun d => { d with lqctl := v &&& 0x1FFFF, placing := d.placing || (d.lqctl.getLsbD 16 && !v.getLsbD 16) })) ∧
    (isUnit u = true → n < 16 → (s.fifo u n).prod = [] → (s.fifo u n).cons = [] → Acts .fifoctlWrite s fun t => (t.fifo u n).en = v.getLsbD 0 ∧
      (t.fifo u n).ctx = BitVec.ofNat 12 (v.toNat / 2) ∧ (v.getLsbD 0 ≠ (s.fifo u n).en → (t.fifo u n).bytes = [])) ∧
    (u < 12 → c < 128 → n < 4 → domLocked (s.core u c) n = false → Acts .domWrite s fun t => Tbl.get 0 (t.core u c).doms n = v &&& 0x3FFF) ∧
    (u < 12 → c < 128 → n < 4 → domLocked (s.core u c) n = true → exec .domWrite s = .next s) ∧
    (u < 12 → n < 64 → s.arg.flag = false → (Tbl.get default (s.bed u).dtab n).v = false → v.getLsbD 35 = false →
      Acts .dtabWrite s fun t => (Tbl.get default (t.bed u).dtab n).w0 = v &&& 0xFFFFFFFFF) ∧
    (let e := Tbl.get default (s.bed u).dtab n; let clash := ∃ x ∈ (s.bed u).dtab, x.1 ≠ n ∧ x.2.v = true ∧ x.2.w0.toNat % 2 ^ 14 = v.toNat % 2 ^ 14
     u < 12 → n < 64 →
      (s.arg.flag = true → exec .dtabWrite s = .next s) ∧
      (s.arg.flag = false → e.v = false → v.getLsbD 35 = true → ¬ clash → Acts .dtabWrite s fun t => (Tbl.get default (t.bed u).dtab n).w0 = v &&& 0xFFFFFFFFF) ∧
      (s.arg.flag = false → v.getLsbD 35 = true → clash → exec .dtabWrite s = .next s) ∧
      (s.arg.flag = false → e.v = true → v.getLsbD 35 = false → e.bcmp = 0 → Acts .dtabWrite s fun t => (Tbl.get default (t.bed u).dtab n).w0 = v &&& 0xFFFFFFFFF) ∧
      (s.arg.flag = false → e.v = true → v.getLsbD 35 = true ∨ e.bcmp ≠ 0 → exec .dtabWrite s = .next s)) ∧
    (s.feat.getLsbD 8 = true → (⟨u, 0, n⟩ : Eng).ok = true → v.toNat % 4 = 0 → k < 2 ^ 32 → s.arg.aux = k →
      Acts .streamFaultArm s fun t => (t.eng ⟨u, 0, n⟩).armed = some (v, BitVec.ofNat 32 k) ∧ t.mem = s.mem) ∧
    (s.feat.getLsbD 8 = false → Acts .streamFaultArm s fun t => t.beds = s.beds ∧ t.rims = s.rims ∧ t.boot.refused = s.boot.refused + 1) ∧
    (u < 12 → s.arg.aux % 4 < 2 → Acts .ctloadRefill s fun t => (t.core u c).ctBusy = some (s.arg.aux % 4, 0) ∧ t.mem = s.mem)

/-! ### The fabric and the Spire links -/

/-- R70, R74 to R77, R80, R81, R86: the head of a request takes its leading item: a move to the next router with its reversed item, a lane change, a delivery, a Spire link; a turn that is not permitted and a link that is down are answered from there; a response unwinds the items; a flit that fails twice marks its link down at both ends.
R71 to R73, R101: the states of a Spire link end: training, its end and its time limit, down, disabled; a frame whose CRC fails starts discarding, the next in order is accepted; the eighth resend of one frame marks the link down. -/
def Obligations.FabricSteps : Prop :=
  (∀ (s : State) (q : Pkt) (x y x' y' d : Nat) (sp ch : Bool), let i := s.arg.index
    let c := q.route.toNat % 8; let top := q.route.toNat / 2 ^ 253; let port := q.route.toNat / 8 % 16
    let request := s.pkts[i]? = some q ∧ q.resp = false ∧ inOrder s i q = true
    let response := s.pkts[i]? = some q ∧ q.resp = true ∧ inOrder s i q = true
    let e := (x, y, s.arg.slot)
    (request → q.loc = .router x y → c ≤ 3 → neighbour x y c = some (x', y') → s.isDown x y c = false → (q.lastv = true → turnOk s.turnmask q.lane q.last c = true) →
      Acts .routerStep s fun t => ∃ r, t.pkts = s.pkts.set i r ∧ r.loc = .router x' y' ∧ r.hop = q.hop + 1 ∧ r.last = c ∧ r.lane = q.lane ∧
        r.route.toNat = q.route.toNat / 8 + (c + 2) % 4 * 2 ^ 253) ∧
    (request → q.loc = .router x y → c ≤ 3 → q.lastv = true → turnOk s.turnmask q.lane q.last c = false → Acts .routerStep s fun t => Nacks s q t 0) ∧
    (request → q.loc = .router x y → c ≤ 3 → neighbour x y c = some (x', y') → s.isDown x y c = true → (q.lastv = true → turnOk s.turnmask q.lane q.last c = true) →
      Acts .routerStep s fun t => Nacks s q t 2) ∧
    (request → q.loc = .router x y → c = 6 → q.lane < 3 → Acts .routerStep s fun t => ∃ r, t.pkts = s.pkts.set i r ∧ r.lane = q.lane + 1 ∧ r.loc = q.loc ∧ r.lastv = false) ∧
    (request → q.loc = .router x y → c = 4 → q.route.toNat / 8 % 8 = 7 → kindKnown q.kind = true → holdsDest s { q with hop := q.hop + 1, loc := .atCore x y } = true →
      Acts .routerStep s fun t => t.pkts = s.pkts.set i { q with hop := q.hop + 1, loc := .atCore x y }) ∧
    (request → q.loc = .gateway d sp ch → c = 5 → ¬ (sp = true ∧ ch = false) → port ≤ 11 → (s.spire d port).state = 2 → (s.spire d port).canSend q = true →
      Acts .gatewayStep s fun t => ∃ r, t.pkts = s.pkts.eraseIdx i ∧ t.outbox = s.outbox ++ [r] ∧ r.loc = .left d port ∧ r.hop = q.hop + 1 ∧ r.body = q.body ∧ r.id = q.id) ∧
    (request → q.loc = .gateway d sp ch → c = 5 → ¬ (sp = true ∧ ch = false) → port ≤ 11 → (s.spire d port).state ≠ 2 → Acts .gatewayStep s fun t => Nacks s q t 2) ∧
    (response → q.loc = .router x y → q.hop = 0 → q.iport = 0 → Acts .responseStep s fun t => t.pkts = s.pkts.set i { q with loc := .atCore x y }) ∧
    (response → q.loc = .router x y → 0 < q.hop → top ≤ 3 → neighbour x y top = some (x', y') → s.isDown x y top = false →
      Acts .responseStep s fun t => t.pkts = s.pkts.set i { q with route := q.route <<< 3, hop := q.hop - 1, loc := .router x' y' }) ∧
    (s.arg.unit = x → s.arg.core = y → x < 48 → y < 32 → (farEnd x y s.arg.slot).isSome = true → s.arg.slot < 6 → s.arg.flag = false →
      (e ∉ s.flitErr → exec .linkFlitError s = .next { s with flitErr := s.flitErr ++ [e] }) ∧
      (e ∈ s.flitErr → Acts .linkFlitError s fun t => t.isDown x y s.arg.slot = true ∧ e ∉ t.flitErr ∧ t.mem = s.mem))) ∧
  (∀ (s : State) (u : Bringup) (k : LinkSetup), let d := s.arg.unit; let l := s.arg.index; let x := s.spire d l; let f := s.arg.wide
    let slot := f.toNat / 2 ^ 262 % 2 ^ 8; let lane := f.toNat / 2 ^ 256 % 8
    (x.state = 0 → Acts .spireTrain s fun t => (t.spire d l).state = 1) ∧ (x.state ≠ 0 → exec .spireTrain s = .next s) ∧
    Acts .spireDisable s (fun t => (t.spire d l).state = 3) ∧ Acts .spireMarkDown s (fun t => (t.spire d l).state = 0) ∧
    (x.state = 1 → s.arg.setup = some u → u.links.head? = some k → Acts .spireTrainingComplete s fun t => (t.spire d l).state = 2 ∧ (t.spire d l).farmod = k.farmod ∧
      (t.spire d l).fardie = k.fardie ∧ (t.spire d l).farlink = k.farlink ∧ (t.spire d l).txBuf = []) ∧
    (x.state = 1 → Acts .spireTrainingTimeout s fun t => (t.spire d l).state = 0) ∧
    (x.state = 2 → Acts .spireSignalLoss s fun t => (t.spire d l).state = 0) ∧
    (x.state = 2 → x.txBuf ≠ [] → Acts .spireReplayTimeout s fun t => (t.spire d l).state = (if x.txBuf.any (fun g => decide (7 ≤ g.2)) then 0 else 2) ∧
      (x.txBuf.all (fun g => decide (g.2 < 7)) = true → (t.spire d l).txBuf = x.txBuf.map (fun g => (g.1, g.2 + 1)) ∧ (t.spire d l).line = x.line ++ x.txBuf.map (·.1))) ∧
    (d < 2 → l < 12 → x.state = 2 → frameGood f = false → Acts .spireFrameReceive s fun t => (t.spire d l).rxDiscard = true ∧ t.pkts = s.pkts) ∧
    (d < 2 → l < 12 → x.state = 2 → frameGood f = true → f.getLsbD 261 = false → f.getLsbD 260 = false → slot = (x.rxSlot + 1) % 256 → Acts .spireFrameReceive s fun t =>
      (t.spire d l).rxSlot = slot ∧ (t.spire d l).rxDiscard = false ∧ t.pkts = s.pkts ∧
      Tbl.get [] (t.spire d l).rx lane = (if f.getLsbD 259 then [] else Tbl.get [] x.rx lane) ++ [f.truncate 256]))

/-! ### Requests at their home -/

/-- R79, R116, R123, R135, R158, R192, R208, R240, R323 to R332, R403, R406: a request that reaches its home in a core's memory, its control page, the Lantern port or an engine is performed there and answered: the bytes read, an acknowledgement of a write, the old value of an atomic, BUSY where a queue is full, REJECT under a quench. -/
def Obligations.HomeRequests : Prop :=
  ∀ (s : State) (q : Pkt) (u c w off n : Nat), Due s q → s.errs = [] →
    let k := coreKey u c off; let atCore := q.rng = .core u c w off; let read := memGetMany s.mem k
    let quiet := fun (p : Path) => s.lag.all (fun l => l.reader != p) = true
    (∀ f, q.body = .load n f → s.arg.flag2 = false → q.got = [] → atCore → quiet .ls → Acts .loadRequest s fun t => Answers s q t 0x19 (.data (read n)) ∧ t.mem = s.mem ∧ t.slots = s.slots) ∧
    (∀ bs f, s.arg.flag = false → q.body = .store bs f →
      (s.arg.flag2 = false → q.gone = 0 → atCore → off + bs.length ≤ sysOff u → Acts .storeRequest s fun t => Answers s q t 0x18 .ack ∧ t.mem = memSetMany s.mem k bs) ∧
      (∀ a, s.arg.flag2 = false → q.gone = 0 → q.rng = .host a → Acts .storeRequest s fun t => Answers s q t 0x18 .ack ∧ t.mem = memSetMany s.mem (hostKey a) bs ∧
        ∃ name, t.hostOut = s.hostOut ++ [(q, name)] ∧ (q.src / 4096 = s.moduleNo.toNat → name = (s.slot q.place).name))) ∧
    (∀ x y, n = 4 ∨ n = 8 → q.body = .rmw (.amo 0 n x y) → atCore → off + 8 ≤ sysOff u → quiet .ls → Acts .atomicRequest s fun t =>
      Answers s q t 0x19 (.value (BitVec.ofInt 64 (sintN (8 * n) (ofBytes (read n))))) ∧
      t.mem = memSetMany s.mem k (bytesOf n ((ofBytes (read n) + x.toNat % 2 ^ (8 * n)) % 2 ^ (8 * n)))) ∧
    (q.body = .rmw .ftake → atCore → off + 8 ≤ sysOff u → k / 8 ∉ s.tags → (s.slot q.place).wait = some (.answer q.id true) → Acts .atomicRequest s fun t =>
      t.pkts = s.pkts.eraseIdx s.arg.index ∧ (t.slot q.place).wait = some (.future k) ∧ t.mem = s.mem) ∧
    (∀ x v, q.body = .red 0 true false x v → atCore → off + 8 ≤ sysOff u → quiet .ls → Acts .reductionUpdate s fun t =>
      Answers s q t 0x18 .ack ∧ t.mem = memSetMany s.mem k (bytesOf 8 ((ofBytes (read 8) + v.toNat) % 2 ^ 64))) ∧
    (∀ pay, q.body = .message pay → atCore →
      ((s.core u c).mailRoom ≠ 0 → Acts .explicitMessage s fun t => Answers s q t 0x18 .ack ∧ (t.core u c).mbhead = (s.core u c).mbhead + 1) ∧
      ((s.core u c).mailRoom = 0 → Acts .explicitMessage s fun t => Nacks s q t 4 ∧ t.mem = s.mem)) ∧
    (∀ pay, q.body = .bulk pay → s.arg.flag2 = false → q.gone = 0 → atCore → off + pay.length ≤ sysOff u → Acts .explicitStore s fun t => Answers s q t 0x18 .ack ∧ t.mem = memSetMany s.mem k pay) ∧
    (∀ ws, q.body = .miss ws → q.rng = .page u c off → let x := s.core u c
      ((x.mqhead - x.mqtail).toNat < 64 → Acts .missMessage s fun t => Answers s q t 0x18 .ack ∧ (t.core u c).mqhead = x.mqhead + 1 ∧
        Tbl.get [] (t.core u c).missq (x.mqhead.toNat % 64) = ws) ∧
      (64 ≤ (x.mqhead - x.mqtail).toNat → Acts .missMessage s fun t => Nacks s q t 4)) ∧
    (∀ ws, q.body = .record ws → q.rng = .bedCtl u c off → let pr := (ws.getD 0 0).toNat / 2 ^ 4 % 4; let l := Tbl.get [] (s.bed u).lq pr
      killing s u (BitVec.ofNat 12 ((ws.getD 0 0).toNat / 256)) = false →
      (l.length < 16 → Acts .launchRecordArrival s fun t => Answers s q t 0x18 .ack ∧
        Tbl.get [] (t.bed u).lq pr = l ++ [{ words := ws, arrts := s.ts, blk := false, victims := [] }]) ∧
      (16 ≤ l.length → Acts .launchRecordArrival s fun t => Nacks s q t 4)) ∧
    (∀ o m v ctx own p, o < 64 → q.body = .engWrite [(o, m, v)] ctx own p → atCore → off + 64 ≤ sysOff u → Acts .engineDataWrite s fun t =>
      Answers s q t 0x18 .ack ∧ t.mem = memSetMany s.mem (k + o) [maskByte (memGet s.mem (k + o)) m v]) ∧
    (∀ ctx own p, q.body = .engRead n ctx own p → atCore → quiet p → Acts .engineRead s fun t => Answers s q t 0x19 (.data (read n)) ∧ t.mem = s.mem) ∧
    (∀ cmd e, q.body = .cmd cmd → engOfDest q.dest = some e →
      ((s.eng e).refuse.contains (cmd.ownMod, cmd.ctx) = false → (s.eng e).queue.length < 16 → Acts .engineCommand s fun t =>
        t.pkts = s.pkts.eraseIdx s.arg.index ∧ (t.eng e).queue = (s.eng e).queue ++ [q]) ∧
      ((s.eng e).refuse.contains (cmd.ownMod, cmd.ctx) = true → Acts .engineCommand s fun t => Nacks s q t 5) ∧
      ((s.eng e).refuse.contains (cmd.ownMod, cmd.ctx) = false → 16 ≤ (s.eng e).queue.length → Acts .engineCommand s fun t => Nacks s q t 4)) ∧
    (∀ pa ctx own legs e key, q.body = .probe pa ctx own legs → off % 64 = 0 → engOfDest q.dest = some e → probeAt (s.eng e) ctx own pa = some (some (s.moduleNo.toNat, .hbm off)) →
      s.keyOf e.unit (.hbm off) = some key → quiet .se → Acts .probe s fun t =>
        Answers s q t 0x19 (.data ([0, 1, 2, 5].flatMap fun i => memGetMany s.mem (key + 8 * i) 8)) ∧ t.mem = s.mem)

/-! ### Memory, timers and the timestamp -/

/-- R6, R54, R58, R61 to R64, R192, R200, R204, R207, R225, R328, R411: what the memory and the timers do between instructions: the oldest buffered store reaches memory, a refill writes the default table, a line fills, the scrubber corrects a single-bit error, writes become performed for another path, an exchange store reaches its bank, and each timer releases its slot.
That a write becomes performed for another path in a step of its own is the model's choice (log 33). -/
def Obligations.MemorySteps : Prop :=
  ∀ (s : State) (e : SbEntry) (rest : List SbEntry) (q : Pkt) (x : XStore) (off w key : Nat) (bs : List Byte), let u := s.arg.unit; let c := s.arg.core; let p := s.argPlace
    (s.errs = [] → (s.core u c).sbuf = e :: rest → e.sent = none → e.rng = .core u c w off → off + e.bytes.length ≤ sysOff u →
      (s.core u c).ctBusy = none → s.arg.flag = false → e.gone = 0 → Acts .storeBufferDrain s fun t =>
      t.mem = memSetMany s.mem (coreKey u c off) e.bytes ∧ (t.core u c).sbuf = rest) ∧
    (∀ kind pos, s.errs = [] → Memory.wf s.mem = true → (s.core u c).ctBusy = some (kind, pos) → pos ≤ 256 → (s.core u c).mx.reading = false → s.arg.aux = 0 → u < 12 → c < 128 →
      Acts .ctloadRefillComplete s fun t => (t.core u c).ctBusy = none ∧
        ∀ j, pos ≤ j → j < 256 → memGetMany t.mem (coreKey u c (0xFC800 + 4 * j)) 4 = bytesOf 4 (defaultCode kind j)) ∧
    (s.arg.flag = false → Back s q → q.kind = 0x19 → q.req.2.2 = .load 64 true → q.gone = 0 → q.body = .data bs → Acts .icacheRefill s fun t =>
      t.pkts = s.pkts.eraseIdx s.arg.index ∧ Tbl.look (t.core q.place.unit q.place.core).icache (locKey q.rng / 64) = some bs ∧ t.mem = s.mem) ∧
    (∀ n, errOf s (s.arg.index / 8 * 8) = some (some n) → Acts .scrubRead s fun t => errOf t (s.arg.index / 8 * 8) = none ∧ t.mem = s.mem) ∧
    (errOf s (s.arg.index / 8 * 8) = some none → Acts .scrubRead s fun t => t.errs = s.errs ∧ t.mem = s.mem) ∧
    (s.arg.flag2 = false → s.arg.index = key → isBedCore key = true → isHbm key = false → key % 2 ^ 24 < 2 ^ 20 → s.errs = [] → s.arg.flag = true → s.arg.v = 0 →
      exec .softError s = .next { s with errs := [(key / 8 * 8, some 64)] }) ∧
    (∀ a b, u < 7 → c < 7 → pathOf u = a → pathOf c = b → s.arg.flag = false → Acts .performedForPath s fun t =>
      (∀ l ∈ t.lag, ¬ (l.writer = a ∧ l.reader = b)) ∧ t.mem = s.mem) ∧
    (s.xstores = [x] → s.arg.index = 0 → downLink s x = none → storeDue s x = true → localMeets s x = [] → s.arg.flag = false → s.errs = [] → Acts .exchangeStoreArrival s fun t =>
      t.xstores = [] ∧ t.mem = memSetMany s.mem (coreKey x.unit x.core x.off) (bytesOf 8 x.data.toNat)) ∧
    (s.ts.toNat + s.arg.index < 2 ^ 64 → Acts .globalTimestampAdvance s fun t => t.ts = s.ts + BitVec.ofNat 64 s.arg.index ∧ t.mem = s.mem ∧ ∀ p, (t.slot p).wait ≠ some .time) ∧
    ((s.slot p).folState = 1 → Acts .followJoinTimeout s fun t => (t.slot p).folState = 0 ∧ (t.slot p).folReason = 6) ∧
    ((s.slot p).wait = some .yield → Acts .yieldExpiry s fun t => (t.slot p).wait = none ∧ (t.slot p).th = (s.slot p).th) ∧
    (∀ k, (s.slot p).wait = some (.future k) → registered s (slotKey p) k = false → Acts .waiterPollTimer s fun t => (t.slot p).wait = none ∧
      (t.slot p).backoff = (if (s.slot p).backoff = 0 then 16 else min (2 * (s.slot p).backoff) 4096)) ∧
    (∀ k, (s.slot p).wait = some (.reserve k) → (s.slot p).resTurn = none → registered s (slotKey p) k = false → Acts .waiterPollTimer s fun t => (t.slot p).wait = none ∧
      (t.slot p).resp = [.done]) ∧
    (∀ k, (s.slot p).resv = some k → Acts .reservationProtectExpiry s fun t => (slotKey p, k + 1) ∉ Tbl.get [] t.resvs (resBank k))

/-! ### Answers at their issuer -/

/-- R80, R91, R92, R94, R106, R117, R122, R152, R182, R192, R247, R332: what an answer does at the port its request left by: it reaches the slot that waits for it by number, completes a store, a reduction or a packet, parks an access whose route entry failed, and is sent again after a wait. -/
def Obligations.AnswerSteps : Prop :=
  ∀ (s : State) (q : Pkt) (bs : List Byte) (reason hop k unit id : Nat) (keep : Bool), let p := q.place; let i := s.arg.index; let b := q.req.2.2
    let waits := (s.slot p).wait = some (.answer q.id keep); let nacked := Back s q ∧ q.body = .nack reason hop k unit ∧ engineOf s q.id = none
    let mine := Back s q ∧ q.kind ≠ 0x1A ∧ engineOf s q.id = none
    (∀ n, mine → b = .load n false → q.body = .data bs → waits → Acts .acknowledgement s fun t => Gets s q t (.data q.dest bs)) ∧
    (∀ e rest a, mine → b = .store a false → (s.coreAt p).sbuf = e :: rest → e.id = q.id → e.sent.isSome = true → Acts .acknowledgement s fun t =>
      (t.coreAt p).sbuf = rest ∧ t.mem = s.mem) ∧
    (∀ o d g x v, mine → b = .red o d g x v → Acts .acknowledgement s fun t => (t.slot p).redOut = (s.slot p).redOut - 1 ∧ t.mem = s.mem) ∧
    (∀ m, mine → b = .message m → Acts .acknowledgement s fun t => (t.slot p).expOut = (s.slot p).expOut - 1 ∧ (t.coreAt p).mbrsv = (s.coreAt p).mbrsv - 1) ∧
    (∀ o d g x v, nacked → b = .red o d g x v → reason = 4 → Acts .nackReceived s fun t => t.retries = s.retries ++ [{ pkt := q.again, why := 0 }] ∧
      t.pkts = s.pkts.eraseIdx i) ∧
    (∀ m, nacked → b = .message m → s.errs = [] → nackHeld s q reason = false → Acts .nackReceived s fun t => (t.coreAt p).mbhead = (s.coreAt p).mbhead + 1 ∧
      (t.coreAt p).mbrsv = (s.coreAt p).mbrsv - 1 ∧ (t.slot p).expOut = (s.slot p).expOut - 1) ∧
    (∀ n e raw, nacked → b = .load n false → reason ≤ 2 → q.entry = some (e, raw) → (s.routeEntry p.unit p.core e).raw = raw → waits → (s.slot p).ahead = [] → saveHeld s p = false → Acts .nackReceived s fun t =>
      (t.slot p).st = .park ∧ (t.slot p).parkWhy = 1 ∧ (t.slot p).wait = some (.route e)) ∧
    (∀ pa ctx own legs, Back s q → b = .probe pa ctx own legs → q.body = .data bs → waits → Acts .probeAnswer s fun t =>
      Gets s q t (.probe (word64 (bs.take 8)) (word64 ((bs.drop 8).take 8)) (word64 ((bs.drop 16).take 8)) (word64 ((bs.drop 24).take 8)))) ∧
    (∀ r, Back s q → b = .spawn r → q.body = .ack → waits → Acts .spawnAnswer s fun t => Gets s q t .done) ∧
    (∀ r n f, s.retries[i]? = some r → r.why = 0 → r.pkt.body = .load n f → engineOf { s with retries := s.retries.eraseIdx i } r.pkt.id = none →
      (s.slot r.pkt.place).wait = some (.answer r.pkt.id keep) → r.pkt.entry = none → Acts .busyRetryTimer s fun t =>
        t.retries = s.retries.eraseIdx i ∧ (t.slot r.pkt.place).wait = none) ∧
    (∀ r a, s.retries[i]? = some r → r.why = 1 → r.pkt.body = .store a false → r.pkt.entry = none → engineOf { s with retries := s.retries.eraseIdx i } r.pkt.id = none →
      Acts .wfzRetryTimer s fun t => t.retries = s.retries.eraseIdx i ∧ ∀ e ∈ (t.coreAt r.pkt.place).sbuf, e.id = r.pkt.id → e.sent = none) ∧
    (∀ at' n w, s.ranker.stats[i]? = some (id, at', n, w) → (s.slot at').wait = some (.answer id keep) → Acts .graftStatAnswer s fun t =>
      Resp.value ((s.pop n).word w) ∈ (t.slot at').resp ∧ (t.slot at').wait = none ∧ t.ranker.stats = s.ranker.stats.eraseIdx i) ∧
    (∀ a, let e : Eng := ⟨s.arg.unit, s.arg.aux, i⟩
      s.arg.flag = false → e.ok = true → (s.eng e).rd = some (id, a) → inFlight s id = false → (s.eng e).err = none → Acts .engineResponseTimeout s fun t =>
        (t.eng e).err = some (2, BitVec.ofNat 64 a, 0) ∧ (t.eng e).rd = none ∧ t.mem = s.mem)

/-! ### Translation -/

/-- R158 to R163, R166, R167: a committed fill puts its entry into the TLB and lets the waiting slot run; one with NP hands the slot the pager; one with ENG goes to its engine; an invalidation leaves no entry of its scope; an engine's miss leaves as a miss message with ENG set from the core that issued its command, or ends the command with PAGE where no service core serves that. -/
def Obligations.TranslationSteps : Prop :=
  ∀ (s : State) (va pa : Word) (wr : Bool) (kind : Kind) (c : Cmd), let v := s.arg.v; let u := s.arg.unit; let k := s.arg.core; let x := s.core u k
    let p : Place := ⟨u, k, v.toNat / 2 ^ 6 % 8⟩; let ctx : BitVec 12 := BitVec.ofNat 12 v.toNat; let scope := v.toNat / 2 ^ 12 % 4; let pager := v.toNat / 2 ^ 10 % 32
    let e : Eng := ⟨v.toNat / 2 ^ 16 % 32, v.toNat / 2 ^ 25 % 4, v.toNat / 2 ^ 21 % 16⟩; let n := v.toNat % 32; let f := s.eng ⟨u, s.arg.aux, s.arg.index⟩
    k < coresOf u →
    (v.getLsbD 9 = false → v.getLsbD 15 = false → fillBad x.fw0 x.fw1 = false → (s.slot p).wait = some (.fill va kind) → Acts .tlbFill s fun t =>
      (∃ y, Tbl.look (t.core u k).tlb (v.toNat % 64) = some y ∧ y.word0 = x.fw0 &&& 0x3FFFFFFFFFFFFFFF ∧ y.spn = x.fw1.toNat % 2 ^ 48 ∧
        y.rd = x.fw1.getLsbD 48 ∧ y.wr = x.fw1.getLsbD 49 ∧ y.ex = x.fw1.getLsbD 50 ∧ y.usr = x.fw1.getLsbD 51) ∧
      (t.slot p).wait = none ∧ (t.slot p).resp = (s.slot p).resp.filter (fun a => a.missed != some va) ∧ t.mem = s.mem) ∧
    (v.getLsbD 9 = true → v.getLsbD 15 = false → 16 ≤ pager → pager < 22 → (s.slot p).wait = some (.fill va kind) → Acts .tlbFillNp s fun t =>
      (t.slot p).wait = none ∧ (t.slot p).resp = .notPresent (pager - 16) va :: (s.slot p).resp.filter (fun a => a.missed != some va) ∧ (t.core u k).tlb = x.tlb) ∧
    (v.getLsbD 15 = true → v.getLsbD 9 = false → x.farMiss = [] → fillBad x.fw0 x.fw1 = false → e.ok = true → Acts .tlbFillEngine s fun t =>
      ∃ y, Tbl.look (t.eng e).tlb n = some y ∧ y.word0 = x.fw0 &&& 0x3FFFFFFFFFFFFFFF ∧ y.own = s.moduleNo.toNat) ∧
    (scope = 0 → Acts .tlbinvPage s fun t => ∀ y ∈ (t.core u k).tlb, ¬ (y.2.own = 0 ∧ y.2.ctx = ctx ∧ y.2.holds x.iva = true)) ∧
    (scope = 1 → Acts .tlbinvContext s fun t => ∀ y ∈ (t.core u k).tlb, ¬ (y.2.own = 0 ∧ y.2.ctx = ctx)) ∧
    (scope = 2 → Acts .tlbinvAll s fun t => ∀ y ∈ (t.core u k).tlb, y.2.own ≠ 0) ∧
    (s.arg.flag = false → f.miss = some (pa, wr, none) → f.cmd = some c → c.ownMod = s.moduleNo.toNat → 12 ≤ s.serviceBed c.place → f.err = none → (⟨u, s.arg.aux, s.arg.index⟩ : Eng).ok = true →
      Acts .engineTlbMiss s fun t => (t.eng ⟨u, s.arg.aux, s.arg.index⟩).err = some (3, pa, 0) ∧ t.mem = s.mem) ∧
    (let g : Eng := ⟨u, s.arg.aux, s.arg.index⟩; let z := c.place; let b := s.serviceBed z; let r := Rng.page b (serviceCore pa) 0x960; let ix := s.routeIx z.unit r
      s.arg.flag = false → f.miss = some (pa, wr, none) → f.cmd = some c → c.ownMod = s.moduleNo.toNat → b < 12 → g.ok = true → z.ok = true →
      (z.unit = b ∧ z.core = serviceCore pa) ∨ (s.errs = [] ∧ (s.routeEntry z.unit z.core ix).valid = true ∧ routeRefused z.rim false (s.routeString z.unit z.core ix) = none) →
      Acts .engineTlbMiss s fun t => (t.coreAt z).txMiss = min ((s.coreAt z).txMiss + 1) 0xFFFFFFFF ∧ t.mem = s.mem ∧ (∃ n, (t.eng g).miss = some (pa, wr, some n) ∧ n < 32) ∧
        ∃ m w1 vw user, t.pkts = s.pkts ++ [m] ∧ m.kind = 1 ∧ m.resp = false ∧ m.body = .miss [pa, w1, vw, s.ts] ∧ user < 2 ∧
          w1.toNat % 2 ^ 42 = c.ctx % 2 ^ 12 + z.unit * 2 ^ 12 + z.core * 2 ^ 17 + z.slot * 2 ^ 24 + b2n wr * 2 ^ 27 + user * 2 ^ 29 + 2 ^ 30 + u * 2 ^ 31 +
            s.arg.index * 2 ^ 36 + s.arg.aux * 2 ^ 40)

/-! ### Engines and quenches -/

/-- R103, R106, R112, R114, R117, R118, R121 to R126, R137: an idle engine takes the next command, a failed one with nothing outstanding reports its status and is idle; a channel sends its head, raises its watermark, completes; a quench is recorded at each party, which refuses the context from then on, and is done when all have acknowledged.
WM after a quench of a channel whose head is another context's is the model's choice (log 100). -/
def Obligations.EngineSteps : Prop :=
  ∀ (s : State) (q : Pkt) (rest : List Pkt) (c k : Cmd) (ks : List Cmd) (n st own ctx a b : Nat) (fa info wm : Word) (ack : List Nat), let i := s.arg.index; let u := s.arg.unit
    let x := s.core u s.arg.core; let ch := x.chan i; let p := q.place; let chan := fun (t : State) => (t.coreAt p).chan n
    let mapped := (k.place.rim = true ∧ k.cmdEntry = unitIx k.place.unit) ∨ (s.errs = [] ∧
      (s.routeEntry k.place.unit k.place.core k.cmdEntry).valid = true ∧ routeRefused k.place.rim false (s.routeString k.place.unit k.place.core k.cmdEntry) = none)
    let takes := fun (j : Instr) (e : Eng) => e.ok = true → (s.eng e).active = none → (s.eng e).queue = q :: rest → q.body = .cmd c → c.sfifo = none → c.dfifo = none →
      Acts j s fun t => (t.eng e).active = some q ∧ (t.eng e).queue = rest ∧ (t.eng e).ck = ckStart c c.carry ∧ t.mem = s.mem
    let ends := fun (j : Instr) (e : Eng) => e.ok = true → (s.eng e).active = some q → q.body = .cmd c → (s.eng e).err = some (st, fa, info) → (s.eng e).outs = [] →
      (s.eng e).rd = none → (s.eng e).ent = none → Acts j s fun t => (t.eng e).active = none ∧ (t.eng e).queue = (s.eng e).queue ∧
        ∃ r clip, t.pkts = s.pkts ++ [r] ∧ r.resp = true ∧ r.id = q.id ∧ r.body = .progress (s.eng e).wm st true (s.eng e).ck fa info clip c.chan
    takes .engineCommandExecute ⟨u, 0, i⟩ ∧ takes .stashCommand ⟨u, 1, i⟩ ∧ ends .engineCommandExecute ⟨u, 0, i⟩ ∧ ends .stashCommand ⟨u, 1, i⟩ ∧
    (ch.cmds = k :: ks → ch.sent = false → 2 ≤ x.mailRoom → k.empty = false → mapped → Acts .commandSend s fun t =>
      ((t.core u s.arg.core).chan i).sent = true ∧ (t.core u s.arg.core).mbrsv = x.mbrsv + 2 ∧ t.mem = s.mem ∧ ∃ r, t.pkts = s.pkts ++ [r] ∧ r.kind = 5 ∧ r.resp = false) ∧
    (ch.cmds = k :: ks → ch.sent = false → 2 ≤ x.mailRoom → k.empty = true → 1 ≤ x.mailRoom → k.ck = 0 → s.errs = [] → k.bar = none → Acts .commandSend s fun t =>
      ((t.core u s.arg.core).chan i).cmds = ks ∧ ((t.core u s.arg.core).chan i).status = 0) ∧
    (∀ ck clip j, Back s q → q.req.2.2 = .cmd c → q.body = .progress wm st false ck fa info clip j → chanOf (s.coreAt p) q.id = some n →
      ((s.coreAt p).chan n).wm.toNat < (c.ownMark wm).toNat → (c.ownMark wm).toNat ≤ ((s.coreAt p).chan n).hi.toNat →
      Acts .progressResponse s fun t => (chan t).wm = c.ownMark wm ∧ t.mem = s.mem) ∧
    (∀ ck clip j, Back s q → q.req.2.2 = .cmd c → q.body = .progress wm 0 true ck fa info clip j → chanOf (s.coreAt p) q.id = some n →
      ((s.coreAt p).chan n).cmds = k :: ks → k.bar = none → s.errs = [] → Acts .commandCompletion s fun t => (chan t).cmds = ks ∧ (chan t).status = 0 ∧ (chan t).sent = false) ∧
    (∀ e, s.quenches[i]? = some (own, ctx, a, b, ack) → s.arg.aux ∉ ack → partyEng s.arg.aux = some e → (partiesOf s own).contains s.arg.aux = true →
      (s.eng e).active = none → Acts .quenchArrival s fun t => t.quenches = s.quenches.set i (own, ctx, a, b, s.arg.aux :: ack) ∧
        (own, ctx) ∈ (t.eng e).refuse ∧ ∀ r ∈ (t.eng e).queue, ownedBy own ctx r = false) ∧
    (Due s q → q.body = .quench ctx own → s.quenches = [] → Acts .quenchMessage s fun t => t.quenches = [(own, ctx, 32, q.id, [])] ∧ t.pkts = s.pkts) ∧
    (Due s q → q.body = .quench ctx own → s.quenches = [(own, ctx, 32, q.id, ack)] → quenchDone s own ack = true → Acts .quenchMessage s fun t =>
      Answers s q t 0x18 .ack ∧ t.quenches = []) ∧
    (s.arg.flag = false → s.quenches[i]? = some (own, ctx, a, b, ack) → a ≠ 32 → quenchDone s own ack = true → Acts .quenchAck s fun t =>
      t.quenches = s.quenches.eraseIdx i ∧ (t.core a b).qLocal = false ∧ ((s.core a b).qBusy = true → (s.core a b).qPeers = 0 → (t.core a b).qDone = true ∧ (t.core a b).qBusy = false))

/-! ### The population engine -/

/-- R141 to R150, R152: the ranker writes a slot, takes the oldest go and sets T, asks and captures members, ranks them by descending SCORE with NaNs last and ties by source number, pairs best and worst, takes the losers that are ready, hands pairs to graft units, records their reports and their time limits, and ends the go.
When a pair meets its time limit is the model's choice (log 107). -/
def Obligations.GraftSteps : Prop :=
  ∀ (s : State) (go : Go) (g : PopSlot) (m : BitVec 32) (p : Place) (pr : Pair) (id n st : Nat) (rest : List (Nat × Place)) (keep : Bool),
    let i := s.arg.index; let running := s.ranker.go = some go; let ps := s.pop go.slot
    (s.ranker.cfgs[i]? = some (id, p, n, g) → (s.pop n).gobusy = false → (s.slot p).wait = some (.answer id keep) → Acts .rankerSlotWrite s fun t =>
      (t.pop n).header = g.header ∧ (t.pop n).members = g.members ∧ (t.pop n).lnext = (s.pop n).lnext ∧ Resp.done ∈ (t.slot p).resp ∧ (t.slot p).wait = none ∧ t.mem = s.mem) ∧
    (s.ranker.go = none → s.ranker.queue = (n, p) :: rest → Acts .goStart s fun t => t.ranker.queue = rest ∧
      ∃ h, t.ranker.go = some h ∧ h.slot = n ∧ h.place = p ∧ h.t = s.ts + BitVec.ofNat 64 (1000 * (s.pop n).lead) ∧ h.snaps = []) ∧
    (running → s.arg.flag = false → go.ranked = false → i ∉ go.asked → ps.members[i]? = some m → Acts .snapshotRequest s fun t => ∃ h, t.ranker.go = some h ∧
      h.asked = go.asked ++ [i] ∧ h.late = (if s.ownMember m = true ∧ go.t.toNat < s.ts.toNat then go.late + 1 else go.late)) ∧
    (∀ q at' w, s.arg.flag = true → Due s q → q.body = .snap at' w → at'.toNat ≤ s.ts.toNat → let c := s.core (memUnit w) (memCore w)
      Acts .snapshotRequest s fun t => Answers s q t 0x19 (.data (bytesOf 8 c.fit.toNat ++ [BitVec.ofNat 8 (b2n c.grdy), BitVec.ofNat 8 (b2n (decide (at'.toNat < s.ts.toNat)))])) ∧
        t.mem = s.mem) ∧
    (∀ q bs k, running → s.arg.flag = true → Back s q → q.req.2.2 = .snap go.t m → q.body = .data bs → ps.members.findIdx? (fun w => w == m) = some k → k ∈ go.asked →
      Tbl.look go.snaps k = none → Acts .snapshotCapture s fun t => ∃ h, t.ranker.go = some h ∧ Tbl.look h.snaps k = some (word64 (bs.take 8), bs.getD 8 0 != 0) ∧
        h.late = go.late + b2n (bs.getD 9 0 != 0) ∧ t.pkts = s.pkts.eraseIdx i) ∧
    (running → s.arg.flag = false → ps.members[i]? = some m → s.ownMember m = true → go.asked = [i] → Tbl.look go.snaps i = none → go.t.toNat ≤ s.ts.toNat → go.ranked = false →
      Acts .snapshotCapture s fun t => ∃ h, t.ranker.go = some h ∧ Tbl.look h.snaps i = some ((s.core (memUnit m) (memCore m)).fit, (s.core (memUnit m) (memCore m)).grdy)) ∧
    (let snap := fun (k : Nat) => (Tbl.look go.snaps k).getD (0, false); let score := fun (k : Nat) => fp32.decode ((snap k).1.toNat % 2 ^ 32)
      let mem := fun (k : Nat) => ps.members.getD k 0; let src := fun (k : Nat) => memModule (mem k) * 4096 + memUnit (mem k) * 128 + memCore (mem k)
      let above := fun (a b : Nat) => (score b).isNan = true ∧ ((score a).isNan = true → src a ≤ src b) ∨
        ((score a).isNan = false ∧ (score b).isNan = false ∧ (score a).lt (score b) = false ∧ ((score b).lt (score a) = false → src a ≤ src b))
      running → go.ranked = false → go.quenched = false → ps.members.length ≤ go.snaps.length → Acts .ranking s fun t => ∃ (h : Go) (order : List Nat), t.ranker.go = some h ∧ h.ranked = true ∧
      order.Perm (List.range ps.members.length) ∧ order.Pairwise above ∧
      (∀ j y, h.pairs[j]? = some y → y.i = j ∧ y.winner = order.getD j 0 ∧ y.loser = order.getD (ps.nmem - 1 - j) 0 ∧ y.taken = (snap y.loser).2 ∧
        y.lslot = ps.lnext + BitVec.ofNat 32 ((h.pairs.take j).filter (·.taken)).length ∧
        (y.taken = true → s.ownMember (mem y.loser) = true → (t.core (memUnit (mem y.loser)) (memCore (mem y.loser))).grdy = false)) ∧
      h.pairs.length = ps.k ∧ (t.pop go.slot).lnext = ps.lnext + BitVec.ofNat 32 (h.pairs.filter (·.taken)).length ∧ t.mem = s.mem) ∧
    (s.arg.unit < 12 → s.arg.flag = false → s.arg.flag2 = false → nextPair s s.arg.unit = some (go, g, pr) → graftRoom s s.arg.unit g.ownMod.toNat g.ctx.toNat = true → go.quenched = false →
      Acts .graftPair s fun t => (∃ q, (t.eng ⟨s.arg.unit, 2, 0⟩).queue = (s.eng ⟨s.arg.unit, 2, 0⟩).queue ++ [q]) ∧
        ∃ h, t.ranker.go = some h ∧ ∀ x ∈ h.pairs, x.i = pr.i → x.started = true) ∧
    (∀ q hd w l ix k ctx own, s.arg.flag = false → s.arg.flag2 = true → Due s q → q.body = .pair hd w l ix k ctx own → memUnit l < 12 → memModule l = s.moduleNo.toNat →
      graftRoom s (memUnit l) own ctx = true → Acts .graftPair s fun t => t.pkts = s.pkts.eraseIdx s.arg.index ∧ (t.core (memUnit l) (memCore l)).grdy = false ∧
        ∃ c, (t.eng ⟨memUnit l, 2, 0⟩).queue = (s.eng ⟨memUnit l, 2, 0⟩).queue ++ [{ q with body := .cmd c }]) ∧
    (running → s.arg.flag = false → s.ranker.reports[i]? = some (go.id, n, st) → go.quenched = false → pr ∈ go.pairs → pr.i = n → pr.taken = true → pr.started = true → pr.status = none →
      Acts .pairReport s fun t => t.ranker.reports = s.ranker.reports.eraseIdx i ∧ ∃ h, t.ranker.go = some h ∧ ∀ x ∈ h.pairs, x.i = n → x.status = some st) ∧
    (running → pairAlive s go.id i = false → go.quenched = false → pr ∈ go.pairs → pr.i = i → pr.taken = true → pr.started = true → pr.status = none →
      Acts .pairTimeout s fun t => ∃ h, t.ranker.go = some h ∧ ∀ x ∈ h.pairs, x.i = i → x.status = some 2) ∧
    (running → go.finished = true → Acts .goEnd s fun t => t.ranker.go = none ∧ (t.pop go.slot).snapts = go.t ∧ (t.pop go.slot).late = go.late ∧
      (t.pop go.slot).skipped = (go.pairs.filter fun x => !x.taken).length ∧ (t.pop go.slot).gobusy = s.ranker.queue.any fun x => x.1 == go.slot)

/-! ### The matrix unit's own steps -/

/-- R234, R371, R377 to R381, R385: a remote command is queued or turned away at its target and starts in its turn; a fetch ends in an accepted operation and lets its word complete; the operation at the head starts, and with its retirement takes its effect and answers. -/
def Obligations.MatrixSteps : Prop :=
  ∀ (s v : State) (q : Pkt) (rest : List Pkt) (x y n : Nat) (d : BitVec 2) (f : MFetch) (a : MAct) (o : MOp) (os : List MOp), let u := s.arg.unit; let c := s.arg.core
    let m := (s.core u c).mx; let w := s.core (xyCore x y).1 (xyCore x y).2; let p := s.argPlace
    let arrives := s.errs = [] ∧ s.pkts[s.arg.index]? = some q ∧ q.loc = .atCore x y ∧ q.resp = false ∧ q.kind = 0x13
    let fetched := fun (j : Instr) (product : Bool) => fetchOf s p product = some f → f.remote = none → f.pair = false → s.arg.flag = false → runFetch s f.got u c f.job = (v, .ok a) → Acts j s fun t =>
      (t.coreAt p).mx.fetches = (v.coreAt p).mx.fetches.erase f ∧ (∃ b, (t.coreAt p).mx.ops = (v.coreAt p).mx.ops ++ [b] ∧ b.act = a ∧ b.started = false) ∧
      Resp.matrix f.half none ∈ (t.slot p).resp ∧ (t.slot p).wait = none ∧ t.mem = v.mem
    (arrives → (remoteOk s (xyCore x y).1 (xyCore x y).2 q true).isSome = true → w.mx.remq.length < 2 → Acts .remoteMatrixCommand s fun t =>
      t.pkts = s.pkts.eraseIdx s.arg.index ∧ (t.core (xyCore x y).1 (xyCore x y).2).mx.remq = w.mx.remq ++ [q]) ∧
    (arrives → remoteOk s (xyCore x y).1 (xyCore x y).2 q true = none → Acts .remoteMatrixCommand s fun t => Nacks s q t 5 ∧ t.cores = s.cores) ∧
    (arrives → (remoteOk s (xyCore x y).1 (xyCore x y).2 q true).isSome = true → 2 ≤ w.mx.remq.length → Acts .remoteMatrixCommand s fun t => Nacks s q t 4 ∧ t.cores = s.cores) ∧
    (s.errs = [] → m.remq = q :: rest → m.begun = none → remoteOk s u c q false = some (n, .maccZero d) → m.idle = true → m.ops = [] → Acts .remoteCommandStart s fun t =>
      (t.core u c).mx.remq = rest ∧ (t.core u c).mx.ops = [{ act := .zero d.toNat, claims := [], slot := none, remote := some (q, n), started := true, gone := 0, num := m.taken }]) ∧
    (∀ g, m.remq = q :: rest → m.begun = some g → g.act = none → g.job = none → exec .remoteCommandStart s = .next s) ∧
    (s.errs = [] → m.remq = q :: rest → m.begun = none → remoteOk s u c q false = none → Acts .remoteCommandStart s fun t => (t.core u c).mx.remq = rest ∧
      ∃ r hop k unit, t.pkts = s.pkts ++ [r] ∧ r.body = .nack 5 hop k unit ∧ r.id = q.id) ∧
    fetched .mmaFetchEnd true ∧ fetched .maccLdReadEnd false ∧
    (m.ops = o :: os → m.idle = true → (remoteReady s u c = false ∨ m.lastRemote = true) →
      ((∀ k rows fmt, o.act ≠ .store k rows fmt) → Acts .matrixOpStart s fun t => (t.core u c).mx.ops = { o with started := true } :: os ∧ (t.core u c).mx.acc = m.acc) ∧
      (∀ k rows fmt, o.act = .store k rows fmt → s.arg.flag = false → rowsHeld s u c fmt rows = false → Acts .matrixOpStart s fun t =>
        (t.core u c).mx.ops = { o with started := true, gone := 2 ^ rows.length - 1 } :: os ∧ (t.core u c).mx.acc = m.acc ∧
        t.mem = (writeRows s u c k rows fmt fun i => !o.gone.testBit i).mem)) ∧
    (m.ops = o :: os → o.started = true → o.written = true → m.freezing = none → Acts .matrixOpRetire s fun t => (t.core u c).mx.ops = os ∧ (t.core u c).mx.acc = (o.act.apply m).acc ∧ t.mem = s.mem ∧
      (∀ k h, o.slot = some (k, h) → Resp.matrix h none ∈ (t.slot ⟨u, c, k⟩).resp) ∧
      (∀ r k, o.remote = some (r, k) → ∃ z, t.pkts = s.pkts ++ [z] ∧ z.kind = 0x18 ∧ z.id = r.id))

/-! ### Slots, threads and contexts -/

/-- R215, R216, R255 to R257: the stores to a slot's state, each from the state that admits it, a pre-emption at its boundary, and the end of a freeze.
The body of a freeze image is the model's own (log 10). -/
def Obligations.SlotSteps : Prop :=
  ∀ (s : State), let p := s.argPlace; let x := s.slot p
    p.ok = true →
    (x.st = .free → (s.bed p.unit).rst.state = 0 → Acts .slotStart s fun t => (t.slot p).st = .ready ∧ (t.slot p).held = false ∧ (t.slot p).name = p.name ∧
      (t.slot p).arvV = false ∧ (t.slot p).resv = none ∧ t.mem = s.mem) ∧
    (x.st ≠ .free → exec .slotStart s = .next s) ∧
    (x.st = .park → exec .slotResume s = .next (s.setSlot p { x with st := .ready, parkWhy := 0, held := false, wait := none })) ∧
    (x.st = .ready → exec .slotHold s = .next (s.setSlot p { x with st := .park, parkWhy := 0, held := false })) ∧
    (x.st = .ready ∨ x.st = .park → x.gang = none → Acts .slotDiscard s fun t => (t.slot p).st = .free ∧ (t.slot p).resv = none ∧ t.mem = s.mem) ∧
    (x.st = .lost → Acts .slotReleaseLost s fun t => (t.slot p).st = .free ∧ t.mem = s.mem) ∧
    (x.st = .ready → x.held = true → exec .slotResumeHeld s = .next (s.setSlot p { x with held := false })) ∧
    (x.st = .run ∨ x.st = .wait → exec .preemptRequest s = .next (s.setSlot p { x with preq := true })) ∧
    (mayPreempt s p = true → s.away p = false → (s.coreAt p).mx.own ≠ some x.th.ctx → Acts .preemption s fun t => (t.slot p).st = .ready ∧ (t.slot p).held = true ∧
      (t.slot p).preq = false ∧ (t.slot p).resv = none ∧ (t.slot p).wait = none) ∧
    ((s.coreAt p).mx.freezing = some (p.slot, none) → x.wait = some .freeze → s.errs = [] →
      ((s.imageKey p.unit p.core x.th.ctx).isSome = true → Acts .freezeImageWritten s fun t => (t.slot p).st = .ready ∧ (t.slot p).held = true ∧ (t.coreAt p).mx.own = none) ∧
      (s.imageKey p.unit p.core x.th.ctx = none → Acts .freezeImageWritten s fun t => (t.slot p).st = .park ∧ (t.slot p).parkWhy = 5 ∧ (t.coreAt p).mx.own = none))

/-- R171 to R176, R237, R238, R241, R242, R246, R247: a spawn starts the lowest free slot or is answered BUSY; a steal gives the oldest record of the thief's context; a gang that fits is started; a context's kill frees its slots, and its creation ends refusals; an image lands, queues, or is answered BUSY, and the source leaves its slot. -/
def Obligations.ThreadSteps : Prop :=
  ∀ (s : State) (q : Pkt) (r : SpawnRec) (u c k : Nat) (e : Steal) (ws : List Word) (l : LaunchRec) (plan : List (Nat × List Nat)) (p : Place) (rest : List Pkt),
    let i := s.arg.index; let b := s.arg.unit; let bed := s.bed b; let st := (s.core b s.arg.core).steals; let h := homePlace (imageName q)
    let lands := fun (t : State) (o : Pkt) (a : Place) => (t.slot a).st = .run ∧ (t.slot a).name = imageName o
    (Due s q → q.body = .spawn r → q.rng = .core u c 0 k → killing s u r.ctx = false → serviceHeld s u c = false →
      (∀ j, ((if 16 ≤ u then List.range 8 else if r.heavy then [0, 1, 2, 3] else [4, 5, 6, 7]).find? fun j => (s.slot ⟨u, c, j⟩).st == .free) = some j →
        Acts .spawnArrival s fun t => Answers s q t 0x18 .ack ∧ (t.slot ⟨u, c, j⟩).st = .ready ∧ (t.slot ⟨u, c, j⟩).th.ctx = r.ctx ∧ (t.slot ⟨u, c, j⟩).th.mode = r.mode) ∧
      (((if 16 ≤ u then List.range 8 else if r.heavy then [0, 1, 2, 3] else [4, 5, 6, 7]).find? fun j => (s.slot ⟨u, c, j⟩).st == .free) = none →
        Acts .spawnArrival s fun t => Nacks s q t 4 ∧ t.slots = s.slots)) ∧
    (∀ v, s.errs = [] → st[i]? = some e → e.ans = none → victimAt s ⟨b, s.arg.core, 0⟩ e.j = some v → (s.core b v).dqbot ≠ (s.core b v).dqtop →
      recCtx (dequeRead s b v (s.core b v).dqtop.toNat) = e.ctx → Acts .stealRequest s fun t => (t.core b v).dqtop = (s.core b v).dqtop + 1 ∧
        (t.core b s.arg.core).steals = st.set i { e with ans := some (some (dequeRead s b v (s.core b v).dqtop.toNat)) } ∧ t.mem = s.mem) ∧
    (s.errs = [] → st[i]? = some e → e.ans = some (some ws) → stealAwaited s b s.arg.core e = true → Acts .stealAnswer s fun t =>
      Resp.stolen (some ws) ∈ (t.slot ⟨b, s.arg.core, e.slot⟩).resp ∧ (t.core b s.arg.core).steals = st.eraseIdx i ∧
      (t.core b s.arg.core).dqRsv = (s.core b s.arg.core).dqRsv - 1 ∧
      t.mem = memSetMany s.mem (dequeKey b s.arg.core (s.core b s.arg.core).dqbot.toNat) (wordsBytes ws)) ∧
    (∀ pr n key, b < 12 → bed.placing = true → bed.lqctl.getLsbD 16 = false → bed.rst.state = 0 → firstHead s b = some (pr, n, l) → Tbl.get [] bed.lq n = [l] →
      (∀ j < 4, j ≠ n → Tbl.get [] bed.lq j = []) → recordKey s b (gangCtx l.words) = some key → fitGang s b l.words (fun p => (s.slot p).st == .free) = some plan →
      Acts .placementStep s fun t => Tbl.get [] (t.bed b).lq n = [] ∧ ∀ g ∈ plan, ∀ j ∈ g.2, (t.slot ⟨b, g.1, j⟩).st = .ready ∧ (t.slot ⟨b, g.1, j⟩).th.ctx = gangCtx l.words) ∧
    (b < 12 → bed.placing = true → bed.rst.state = 0 → bed.lqctl.getLsbD 16 = true → exec .placementStep s = .next (s.modBed b fun d => { d with placing := false })) ∧
    (b < 12 → bed.placing = false → exec .placementStep s = .next s) ∧
    (bed.opBusy = some 1 → s.arg.aux ∈ killUnits → s.arg.aux ∉ bed.opUnits → Acts .ctxKill s fun t =>
      ∀ n < coresOf s.arg.aux, ∀ j < 8, (t.slot ⟨s.arg.aux, n, j⟩).st = .free ∨ (t.slot ⟨s.arg.aux, n, j⟩).th.ctx ≠ bed.opCtx) ∧
    (bed.opBusy = some 2 → s.arg.aux ∉ bed.opUnits → 16 ≤ s.arg.aux → s.arg.aux < 22 → Acts .ctxCreate s fun t =>
      ∀ n < 16, (s.moduleNo.toNat, bed.opCtx.toNat) ∉ (t.eng ⟨s.arg.aux, 0, n⟩).refuse) ∧
    (bed.opBusy = some 2 → (∀ n ∈ createUnits, n ∈ bed.opUnits) → exec .ctxOpComplete s = .next (s.modBed b fun d => { d with opBusy := none, opDone := true, opUnits := [] })) ∧
    (∀ bs rf reach g gang wh x y n cap cores, q.body = .image bs rf false false reach g gang wh → q.loc = .atCore x y → q.kind = 3 →
      Due s q → killing s q.loc.unit (imageCtx q) = false → landingOf q = .queue u n cap cores →
      (freeLight s u cores = some p → s.landQ u n = [] → Acts .migrationArrival s fun t => Answers s q t 0x18 .ack ∧ lands t q p ∧ (t.slot p).reach = reach ∧ t.mem = s.mem) ∧
      (freeLight s u cores = none → (s.landQ u n).length < cap → Acts .migrationArrival s fun t => Answers s q t 0x18 .ack ∧ t.landQ u n = s.landQ u n ++ [q]) ∧
      (freeLight s u cores = none → cap ≤ (s.landQ u n).length → Acts .migrationArrival s fun t => Nacks s q t 4 ∧ t.slots = s.slots)) ∧
    (∀ bs rf reach g gang wh cap cores, q.body = .image bs rf false false reach g gang wh → s.landQ b i = q :: rest → landingOf q = .queue b i cap cores → freeLight s b cores = some p →
      (s.slot h).preq = false → Acts .landingQueuePlace s fun t => t.landQ b i = rest ∧ lands t q p) ∧
    (∀ bs rf reach g wh, Due s q → q.kind = 3 → q.body = .image bs rf false true reach g none wh → homeLeaving s q = false → killing s q.loc.unit (imageCtx q) = false →
      ((s.slot h).st = .away → (s.slot h).name = imageName q → saveHeld s h = false → Acts .saveImageArrival s fun t => Answers s q t 0x18 .ack ∧ (t.slot h).st = .ready ∧ (t.slot h).held = true) ∧
      ((s.slot h).st ≠ .away → Acts .saveImageArrival s fun t => Nacks s q t 5 ∧ t.mem = s.mem)) ∧
    (∀ bs rf ship reach g gang wh, Back s q → q.req.2.2 = .image bs rf ship false reach g gang wh → q.body = .ack → (s.slot q.place).wait = some .migrate →
      (s.slot q.place).resp.contains .busy = false → (s.slot q.place).preq = false → Acts .migrationAnswer s fun t =>
        (t.slot q.place).st = (if s.away q.place then .free else .away) ∧ t.mem = s.mem) ∧
    (∀ j o, let p := s.argPlace; let ix := s.routeIx p.unit o.pkt.rng
      s.retries.findIdx? (fun r => r.why == 4 && r.pkt.place == p) = some j → s.retries[j]? = some o → (s.slot p).wait = some .migrate → saveHeld s p = false → s.errs = [] →
      s.homeOf p.unit o.pkt.rng ≠ some p.unit → (s.routeEntry p.unit p.core ix).valid = true → routeRefused p.rim false (s.routeString p.unit p.core ix) = none →
      Acts .migrationBackoff s fun t => (∃ q, t.pkts = s.pkts ++ [q] ∧ q.body = o.pkt.body ∧ q.info = o.pkt.info ∧ q.dest = o.pkt.dest) ∧ t.retries = s.retries.eraseIdx j ∧
        (t.slot p).wait = some .migrate ∧ (t.slot p).th = (s.slot p).th ∧ t.mem = s.mem)

/-! ### Barrier fabrics and aborted blocks -/

/-- R95, R219 to R221, R259, R260: a report is counted at its fabric entry, or held; a complete SPAN 1 barrier is reported to link die 0; a release is applied on every member core in one step; an abort goes to the fabric and then takes every member slot out of its block; an open packet is discarded at its time limit. -/
def Obligations.BarrierFabricSteps : Prop :=
  ∀ (s : State) (r : BarRep) (n : Nat) (e : DomE) (a : XAbort) (p : Place) (b : Block), let bed := s.arg.unit; let i := s.arg.index; let bar := s.arg.aux
    let d := Tbl.get default (s.bed bed).dtab i; let level := d.w0.toNat / 2 ^ 12 % 4; let dom := d.w0.toNat % 2 ^ 12; let cs := memberCores s bed d bar
    let entry := fun (t : State) (k : Nat) => Tbl.get default (t.bed bed).dtab k
    ((s.bed bed).reps[i]? = some r → fabricEntry s bed r.level (r.dom.toNat % 2 ^ 12) (r.dom.getLsbD 12) = some (n, e) → Acts .barrierReport s fun t =>
      (entry t n).reps = e.reps ++ [(r.bar, r.core)] ∧ (t.bed bed).reps = (s.bed bed).reps.eraseIdx i ∧
      (r.bar < 32 → e.w0.toNat / 2 ^ 15 % 2 ^ 8 ≤ ((e.reps ++ [(r.bar, r.core)]).filter fun x => x.1 == r.bar).length → (entry t n).bcmp.getLsbD r.bar = true)) ∧
    ((s.bed bed).reps[i]? = some r → fabricEntry s bed r.level (r.dom.toNat % 2 ^ 12) (r.dom.getLsbD 12) = none → r.atFabric = false → bed < 12 → Acts .barrierReport s fun t =>
      (t.bed bed).reps = (s.bed bed).reps.set i { r with atFabric := true } ∧ (t.bed bed).dtab = (s.bed bed).dtab) ∧
    (d.v = true → d.w0.getLsbD 14 = true → d.bcmp.getLsbD bar = true → bed < 12 → d.w0.toNat / 2 ^ 23 % 2 ^ 12 = 2 ^ bed → s.ld0 = [] → s.releases.contains (bed, level, dom, bar) = false →
      Acts .linkDieBarrierReport s fun t => t.releases = s.releases ++ [(bed, level, dom, bar)] ∧ t.ld0 = []) ∧
    (d.v = true → d.w0.getLsbD 14 = false → d.bcmp.getLsbD bar = true → bar < 32 → xputsPending s bed level dom = false → (∀ c ∈ cs, (s.bar bed c bar).donets.toNat < s.ts.toNat) →
      Acts .domainRelease s fun t => (entry t i).bcmp.getLsbD bar = false ∧ (∀ c ∈ cs, (t.bar bed c bar).donets = s.ts) ∧ t.mem = s.mem) ∧
    (s.xaborts[i]? = some a → a.reported = false → a.span = false → abortDue s a 8 = true → exec .exchangeAbortReport s = .next { s with xaborts := s.xaborts.set i { a with reported := true } }) ∧
    (s.xaborts = [a] → i = 0 → a.reported = true → abortDue s a 24 = true → a.cause ≠ 15 → p.unit = a.bed → p.core < 128 → p.slot < 8 → (s.slot p).blk = some b → b.level = a.level → b.dom = a.dom →
      (s.slot p).pend = none → Acts .exchangeAbortApply s fun t => t.xaborts = [] ∧ ∃ d0, (t.slot p).pend = some (12, 0, b.xb, d0, b.xb)) ∧
    ((s.slot s.argPlace).pkt.isSome = true → (s.slot s.argPlace).pend = none → Acts .packetOpenTimeout s fun t => (t.slot s.argPlace).pkt = none ∧
      ∃ d0, (t.slot s.argPlace).pend = some (15, 2, (s.slot s.argPlace).th.pc, d0, 0) ∧ d0.toNat % 128 = 0x7F)

/-! ### Registers, memory, checks and traps -/

/-- R9, R36, R214, R284, R290, R303: a general register holds what was written last, g0 reads zero and discards writes; a mask register the same with m0 reading all ones; a write changes no other register; a rim core's slots share one vector set; the second word of a pair reads what stood before the pair.
R9: what a write of bytes leaves: the bytes read back where no word holds a soft error, every other byte is as it was, and the memory keeps its canonical form; no thread's register changes. -/
def Obligations.StateAccess : Prop :=
  (∀ (s : State) (d r : BitVec 5) (e m : BitVec 3) (v : Word) (x : VReg), let p := s.cur.place
    let lone := s.cur.half ≠ .a
    (lone → (s.setG d v).opG r = if r = 0 then 0 else if r = d then v else s.opG r) ∧
    (lone → (s.setV d x).opV r = if r = d then x else s.opV r) ∧
    (lone → (s.setM e v).opM m = if m = 0 then BitVec.allOnes 64 else if m = e then v else s.opM m) ∧
    (s.setG d v).here = { s.here with th := { s.here.th with g := (s.setG d v).here.th.g } } ∧
    (p.rim = false → (s.setV d x).here = { s.here with th := { s.here.th with v := (s.setV d x).here.th.v } }) ∧
    (p.rim = true → (s.setV d x).slots = s.slots) ∧
    (s.setG d v).mem = s.mem ∧ (s.setV d x).mem = s.mem ∧ (s.setG d v).cores = s.cores ∧
    (∀ t, s.cur.half = .a → s.cur.snap = some t → s.opG r = t.readG r ∧ (s.setG d v).opG r = t.readG r)) ∧
  (∀ (s : State) (w : Path) (k : Nat) (bs : List Byte), Memory.wf s.mem = true →
    Memory.wf (s.put w k bs).mem = true ∧ (s.errs = [] → memGetMany (s.put w k bs).mem k bs.length = bs) ∧
    (∀ j, j < k ∨ k + bs.length ≤ j → memGet (s.put w k bs).mem j = memGet s.mem j) ∧
    (∀ p, ((s.put w k bs).slot p).th = (s.slot p).th))

/-! ### Frames -/

/-- R284, R303, R415: the frame of every word that completes in its slot: no general, vector or mask register changes but those it names as written (R302's list), only `mtsr`, `eret` and the words that list a conversion or use the bit buffer write any other register of the thread, and its context stays. -/
def Obligations.RegisterFrame : Prop :=
  ∀ (i : Instr) (s u : State) (n : Nat), encodeNat i = some n → exec i s = .next u → u.cur.ended = .no →
    let p := s.cur.place; let x := s.here.th; let y := (u.slot p).th; let writes := (usesOf i).2.1
    (∀ r : BitVec 5, r.toNat ∉ writes → y.readG r = x.readG r) ∧
    (∀ r (h : r < 32), 32 + r ∉ writes → y.v[r] = x.v[r] ∧ (u.coreAt p).rv[r] = (s.coreAt p).rv[r]) ∧
    (∀ r (h : r < 8), 64 + r ∉ writes → y.m[r] = x.m[r] ∧ (u.coreAt p).rm[r] = (s.coreAt p).rm[r]) ∧
    y.ctx = x.ctx ∧
    ((∀ a k, i ≠ .mtsr a k) → i ≠ .eret → y.mode = x.mode ∧ y.pm = x.pm ∧ y.td = x.td ∧ y.tvec = x.tvec ∧ y.epc = x.epc ∧ y.ecause = x.ecause ∧ y.eaddr = x.eaddr ∧
      y.xlb = x.xlb ∧ y.xll = x.xll ∧ ((∀ d a t r k, i ≠ .fcvi d a t r k) → (∀ d a c m t, i ≠ .vcvt d a c m t) → y.xlc = x.xlc)) ∧
    (n / 2 ^ 24 % 128 ≠ 0x1C → y.bbData = x.bbData ∧ y.bbCount = x.bbCount ∧ y.bbPtr = x.bbPtr)

/-- R192, R318: the frame of memory: a word that completes changes no byte of memory, unless it is one of those that write memory when they execute: an atomic, a reservation or future operation, a strided store, a bit-buffer write, a conversion that lists its element, a reduction to its own core's memory, a task or plot operation, a matrix word (which may first load its unit's image). A plain store only enters the store buffer, but inside a timed block is made at its bank at once (R204). -/
def Obligations.MemoryFrame : Prop :=
  ∀ (i : Instr) (s u : State) (n : Nat), encodeNat i = some n → exec i s = .next u → u.cur.ended = .no →
    let major := n / 2 ^ 24 % 128
    major ∉ [0x15, 0x18, 0x1C, 0x24, 0x25, 0x30, 0x31, 0x32, 0x70, 0x71, 0x72, 0x73] → (∀ d a b, i ≠ .stCond d a b ∧ i ≠ .fput d a b ∧ i ≠ .vstS d a b) →
    (∀ d a t r k, i ≠ .fcvi d a t r k) → (∀ d a c m t, i ≠ .vcvt d a c m t) → (major ∈ [0x11, 0x13, 0x14, 0x2A] → s.here.blk = none) → u.mem = s.mem

/-! ### Registers, memory, checks and traps -/

/-- R214, R294, R295, R390, R414: the checks before every word's own: a part without its feature traps with SUB 2, a slot of the wrong kind with SUB 3, a privileged word in user mode with the protection trap SUB 2, in this order, at the word (a pair's second word is checked before the first takes effect, R251); and which words are privileged, need a slot with vector registers or a heavy one, and of which feature each major is. -/
def Obligations.WordChecks : Prop :=
  ∀ (i : Instr) (s : State) (n : Nat), encodeNat i = some n → s.cur.commit = false →
    let g := gateOf i; let p := s.cur.place; let major := n / 2 ^ 24 % 128
    let feature := s.feat.getLsbD g.feature = true
    let kind := g.slots = 0 ∨ p.heavy = true ∨ (g.slots = 1 ∧ p.rim = true ∧ s.sysMode = true)
    (¬ feature → exec i s = done (.trap s ⟨1, 2, s.wordPc, 0, 0⟩)) ∧
    (feature → ¬ kind → exec i s = done (.trap s ⟨1, 3, s.wordPc, 0, 0⟩)) ∧
    (feature → kind → g.sys = true → s.sysMode = false → exec i s = done (.trap s ⟨5, 2, s.wordPc, 0, 0⟩)) ∧
    g.feature = (if major = 0x71 then 1 else if major = 0x72 then 2 else if major = 0x21 then 3 else if major = 0x22 then 4
      else if i = .follow ∨ i = .unfollow then 5 else if major = 0x26 then 6 else if major = 0x1C then 7 else 0) ∧
    (major = 0x2A ∨ major = 0x2B ∨ (0x60 ≤ major ∧ major ≤ 0x6C ∧ major ≠ 0x68) → g.slots = 1) ∧
    (major = 0x30 ∨ major = 0x31 ∨ (major = 0x32 ∧ ∀ a, i ≠ .mcmd a) ∨ (0x70 ≤ major ∧ major ≤ 0x73) ∨ i = .follow → g.slots = 2) ∧
    (major < 0x21 ∨ major = 0x22 ∨ (∃ a, i = .mcmd a) ∨ (0x40 ≤ major ∧ major < 0x60) → g.slots = 0) ∧
    (g.sys = true ↔ i = .eret ∨ (∃ a, i = .cpyQuench a ∨ i = .msave a ∨ i = .mload a) ∨ (∃ d k, i = .mfsr d k ∧ 8 ≤ k.toNat ∧ k.toNat ≤ 11) ∨
      (∃ a k, i = .mtsr a k ∧ (k = 3 ∨ (8 ≤ k.toNat ∧ k.toNat ≤ 11))))

/-- R249 to R253: taking a trap with TD clear: `epc` names the bundle, `ecause`, `eaddr` and the frame are written, PM takes MODE, MODE is system, TD is set, the PC is `tvec`, an open packet and the reservation are gone and no other register of the thread changes; with TD set it is a double trap: the slot is FREE, a fatal DOUBLE event names the thread and both causes (in the staging buffer, or held for an entry, or entered before the thread went on), and a home slot held AWAY for the thread is LOST. -/
def Obligations.TrapEntry : Prop :=
  ∀ (s : State) (t : Trap), let p := s.cur.place; let x := s.slot p; let k := coreKey p.unit p.core (frameOff p)
    let cause := BitVec.ofNat 64 (t.cause + (if s.cur.half = .a then 1 else 0) * 2 ^ 8 + (if x.pkt.isSome then 1 else 0) * 2 ^ 9 +
      (if x.blk.isSome ∨ s.cur.xfault = true then 1 else 0) * 2 ^ 10 + t.sub % 2 ^ 16 * 2 ^ 16)
    (p.ok = true → s.cur.commit = false → x.th.td = false → ∃ u, done (.trap s t) = .next u ∧ u.cur.ended = .trap ∧
      (u.slot p).th = { x.th with epc := x.th.pc, ecause := cause, eaddr := t.addr, pm := x.th.mode, mode := true, td := true, pc := x.th.tvec } ∧
      (u.slot p).pkt = none ∧ (u.slot p).resv = none ∧ (u.slot p).blk = none ∧ (u.slot p).st = .run ∧ (u.slot p).wait = none ∧
      (s.errs = [] → Memory.wf s.mem = true → memGetMany u.mem k 128 = wordsBytes [x.th.pc, cause, t.addr, s.statusWord p, BitVec.ofNat 64 (s.cur.cword.toNat + (s.cur.aword.getD 0).toNat * 2 ^ 32),
        t.d0, t.d1, s.ts, s.locWord p, 0, 0, 0, 0, 0, 0, 0]) ∧
      (∀ j, j < k ∨ k + 128 ≤ j → memGet u.mem j = memGet s.mem j) ∧
      (∀ q : Place, q.ok = true → q ≠ p → (u.slot q).th = (s.slot q).th)) ∧
    (p.ok = true → s.cur.commit = false → x.th.td = true → ∃ u, done (.trap s t) = .next u ∧ (u.slot p).st = .free ∧ (u.slot p).resv = none ∧
      (∃ e : EvRec, (e ∈ (u.stage p.unit).recs ∨ e ∈ (u.stage p.unit).held ∨ (s.stage p.unit).owed.any e.same = true) ∧ e.ty = 7 ∧ e.fatal = true ∧
        e.d0 = x.name.zeroExtend 64 ∧ (s.errs = [] → e.d1 = BitVec.ofNat 64 (t.cause + (s.peekW (k + 8)).toNat % 2 ^ 8 * 2 ^ 8))) ∧
      (x.name ≠ p.name → (s.slot (homePlace x.name)).st = .away → (s.slot (homePlace x.name)).name = x.name → (u.slot (homePlace x.name)).st = .lost))

/-! ### Every instruction and every step -/

/-- R281 to R286, R295: every word and every step of the part's own answers a next state in every state; and no step is refused. A turn of a slot that no module has is the one fault.
The model's own property: the spec lets the machine go on everywhere, with free values where it states none (log 148). -/
def Obligations.NothingStops : Prop :=
  (∀ (i : Instr) (s : State), ∃ t, exec i s = .next t) ∧
  (∀ (s : State) (r : Refusal), step s ≠ .refused r) ∧
  (∀ (s : State) (p : Place) (part : Nat) (r : List Turn), s.agenda = .issue p part :: r → (p.ok = true → ∃ t, step s = .next t) ∧ (p.ok = false → step s = .fault .noSuchSlot)) ∧
  (∀ (s : State) (p : Place) (r : List Turn), s.agenda = .ahead p :: r → (p.ok = true → ∃ t, step s = .next t) ∧ (p.ok = false → step s = .fault .noSuchSlot)) ∧
  (∀ (s : State) (i : Instr) (a : EvArgs) (r : List Turn), s.agenda = .event i a :: r → ∃ t, step s = .next t)

/-- R281 to R285, R288: a step whose turn is a slot's runs the decoded instruction at its program counter: a lone word by `exec`, and what is around a bundle (the block, a trap of `trap` and `sys`, the slot the rotation starts from, an event that finds no entry, a load gone past, the slots that resume). A step whose turn is the part's own runs that step with its arguments.
The agenda of turns is the model's own (log 3). -/
def Obligations.StepRunsDecoded : Prop :=
  ∀ (s : State) (p : Place) (part : Nat) (past : Bool) (r : List Turn) (off : Nat) (line : List Byte) (w : BitVec 32) (i : Instr),
    let x := s.slot p; let s0 := beginTurn { s with agenda := r } p part
    let s1 : State := { s0 with cur := { s0.cur with pc := x.th.pc, cword := w, next := x.th.pc + 4, half := .lone } }
    ((past = false ∧ s.agenda = .issue p part :: r) ∨ (past = true ∧ part = 0 ∧ s.agenda = .ahead p :: r) →
      p.ok = true → canIssue s0 p = true → goesFirst exec s0 p = true →
      x.preq = false → x.owed = [] → x.parkAt = none → x.pend = none → x.folState = 0 → x.folLeft = false → x.entry = false → x.blk = none → x.ahead = [] →
      OwnAt p x.th.pc 4 4 0 off → Tbl.look (s.coreAt p).icache (coreKey p.unit p.core off / 64) = some line → lineWord line (coreKey p.unit p.core off) = w →
      wordP w = false → decodeWord w = .instr i → i ≠ .xbegin → Admitted i s1 →
      ∃ u, exec (resolveForm s1 i) s1 = .next u ∧
        step s = after (holdForEvent s0 p (recordIssue p (leaving p (goPast past p (.next (finishBundle none [resolveForm s1 i] u))))))) ∧
    (∀ a, s.agenda = .event i a :: r → isEvent i = true → let s2 : State := { s with agenda := r, arg := a, maker := .other }
      ∃ u, exec i s2 = .next u ∧ step s = .next (resumeReady (stopForEvent s2 u)))

/-- R289 to R293: encoding and decoding agree: the word of every well-formed instruction, alone or as the C word of a pair, decodes to that instruction with every operand; the two rows of `ring.put` share one word, which the value of g[B] tells apart (R372). -/
def Obligations.EncodingsDecode : Prop :=
  ∀ (i : Instr) (c : Bool) (w : BitVec 32), encode c i = some w →
    wordP w = c ∧
    decodeWord w = .instr (match i with
      | .ringPutReserve d a b => .ringPutPublish d a b
      | j => j)

/-- R63, R215, R216: a slot that is READY and not held after a step is one whose save area holds an uncorrectable word, whose event still has to find an entry: every other such slot the hardware resumes at once. -/
def Obligations.ReadySlotsResume : Prop :=
  ∀ (s t : State) (p : Place), step s = .next t → p.core < 128 → p.slot < 8 → (t.slot p).st = .ready → (t.slot p).held = false →
    (anyBad t (coreKey p.unit p.core (saveOff p)) (saveLen p)).isSome = true

/-- R61, R86, R110, R179, R215, R218, R240, R467, R470, R475: the values the spec gives for reset, the memory's canonical form, and the invariant `ReadySlotsResume` states for every step. -/
def Obligations.ResetValues : Prop :=
  let s := State.reset
  s.turnmask = 0xD471D471D471D471 ∧ s.evrb = 0 ∧ s.evpw = 0 ∧ s.evcons = 0 ∧ s.evprod = 0 ∧ s.boot.state = 0 ∧ s.boot.cause = 0 ∧ s.boot.featAcc = 0 ∧
  Memory.wf s.mem = true ∧
  (∀ p : Place, (s.slot p).st = .free ∧ (s.slot p).parkWhy = 0 ∧ (s.slot p).held = false ∧ ¬ ((s.slot p).st = .ready ∧ (s.slot p).held = false)) ∧
  (∀ u c n : Nat, s.bar u c n = Bar.empty ∧ ((s.core u c).chan n).cmds = []) ∧
  (∀ u n : Nat, (s.bed u).lqctl = 0 ∧ (s.bed u).rst.state = 0 ∧ Tbl.get 0 (s.bed u).ctxTab n = 0 ∧ (s.spire u n).state = 0)

/-- R284, R289 to R293, R313, R320, R351, R360, R376, R402: the words the spec writes out decode to the instructions it names. -/
def Obligations.DecodedWords : Prop :=
  decodeWord 0x90219810 = .instr (.ldD 4 6 16) ∧ decodeWord 0x40390A04 = .instr (.add 7 4 5) ∧ decodeWord 0x01000008 = .instr (.b 8) ∧
  decodeWord 0x20018800 = .instr (.cpyCk 6) ∧ decodeWord 0x244A8001 = .instr (.spawn 9 10 1) ∧ decodeWord 0x2401980F = .instr (.launch 6 15) ∧
  decodeWord 0x29200011 = .instr (.mfsr 4 0x11) ∧ decodeWord 0x29014110 = .instr (.mtsr 5 0x10) ∧ decodeWord 0x190800A0 = .instr (.xfence 1 0 1) ∧
  decodeWord 0x23024000 = .instr (.psendOpen 9) ∧ decodeWord 0x23014001 = .instr (.psendAppend 5) ∧ decodeWord 0x7008860B = .instr (.mma 1 2 3 1 3) ∧
  decodeWord 0x40000000 = .instr (.or 0 0 0) ∧ decodeWord 0x26000000 = .instr .xbegin ∧ decodeWord 0 = .unassigned ∧ decodeWord 0x7F000000 = .reserved ∧
  decodeWord 0x15000021 = .reserved

/-! ### Reserved words -/

/-- R305: in major 0x00 of the A class every MINOR from 33 on is reserved, and so is a B field other than 0 of `clz`, `ctz`, `popc`, `ext.b`, `ext.h` and `ext.w`. -/
def Obligations.ReservedMinors : Prop :=
  ∀ w : BitVec 32, w.toNat / 2 ^ 24 % 128 = 0x40 →
    (33 ≤ w.toNat % 512 → decodeWord w = .reserved) ∧
    (21 ≤ w.toNat % 512 → w.toNat % 512 ≤ 26 → w.toNat / 2 ^ 9 % 32 ≠ 0 → decodeWord w = .reserved)
end

