-- ==== Sys2Proof/Laws/Tables.lean ====
section
/-! SUPPORT. The sparse tables: what a read gives after a write, and that a second write of an entry replaces the first. -/

namespace Sys2Proof

variable {α : Type}

/-- The entry just written is read back. -/
theorem Tbl.look_set_same (t : Tbl α) (k : Nat) (a : α) : Tbl.look (Tbl.set t k a) k = some a := by
  induction t with
  | nil => simp [Tbl.set, Tbl.look]
  | cons e r ih =>
    obtain ⟨j, b⟩ := e
    simp only [Tbl.set]
    split
    · rw [Tbl.look, if_neg (by omega), ih]
    · split <;> simp [Tbl.look]

/-- Every other entry is unchanged. -/
theorem Tbl.look_set_other (t : Tbl α) (k j : Nat) (a : α) (h : j ≠ k) : Tbl.look (Tbl.set t k a) j = Tbl.look t j := by
  induction t with
  | nil => simp [Tbl.set, Tbl.look, Ne.symm h]
  | cons e r ih =>
    obtain ⟨i, b⟩ := e
    simp only [Tbl.set]
    split
    · simp [Tbl.look, ih]
    · split
      · next hi => subst hi; simp [Tbl.look, Ne.symm h]
      · simp [Tbl.look, Ne.symm h]

@[simp] theorem Tbl.get_set_same (d : α) (t : Tbl α) (k : Nat) (a : α) : Tbl.get d (Tbl.set t k a) k = a := by
  simp [Tbl.get, Tbl.look_set_same]

theorem Tbl.get_set_other (d : α) (t : Tbl α) (k j : Nat) (a : α) (h : j ≠ k) : Tbl.get d (Tbl.set t k a) j = Tbl.get d t j := by
  simp [Tbl.get, Tbl.look_set_other t k j a h]

/-- The last of two writes of an entry stands. -/
@[simp] theorem Tbl.set_set (t : Tbl α) (k : Nat) (a b : α) : Tbl.set (Tbl.set t k a) k b = Tbl.set t k b := by
  induction t with
  | nil => simp [Tbl.set]
  | cons e r ih =>
    obtain ⟨j, c⟩ := e
    simp only [Tbl.set]
    split
    · next h => simp [Tbl.set, h, ih]
    · next h =>
      split
      · simp [Tbl.set]
      · next h' => simp [Tbl.set]

/-- Writing what an entry holds changes nothing. -/
theorem Tbl.set_look (t : Tbl α) (k : Nat) (a : α) (hs : (t.map (·.1)).Pairwise (· < ·)) (h : Tbl.look t k = some a) :
    Tbl.set t k a = t := by
  induction t with
  | nil => simp [Tbl.look] at h
  | cons e r ih =>
    obtain ⟨j, b⟩ := e
    simp only [List.map_cons, List.pairwise_cons] at hs
    by_cases hj : j = k
    · subst hj
      simp [Tbl.look] at h
      simp [Tbl.set, h]
    · simp only [Tbl.look, if_neg hj] at h
      have hlt : j < k := by
        by_contra hc
        have : ∀ (l : Tbl α), (∀ x ∈ l.map (·.1), j < x) → k ≤ j → Tbl.look l k = none := by
          intro l hl hk
          induction l with
          | nil => rfl
          | cons e l ihl =>
            obtain ⟨i, c⟩ := e
            have hi := hl i (by simp)
            rw [Tbl.look, if_neg (by omega)]
            exact ihl (fun x hx => hl x (by simp_all))
        rw [this r hs.1 (by omega)] at h
        cases h
      simp [Tbl.set, hlt, ih hs.2 h]

@[simp] theorem Tbl.look_nil (k : Nat) : Tbl.look ([] : Tbl α) k = none := rfl
@[simp] theorem Tbl.get_nil (d : α) (k : Nat) : Tbl.get d ([] : Tbl α) k = d := rfl

/-- The bytes of a value are as many as asked for. -/
@[simp] theorem length_bytesOf (n v : Nat) : (bytesOf n v).length = n := by
  induction n generalizing v with
  | zero => rfl
  | succ n ih => simp [bytesOf, ih]

/-- Little-endian bytes give the value back, as far as they reach (R9). -/
theorem ofBytes_bytesOf (n v : Nat) : ofBytes (bytesOf n v) = v % 256 ^ n := by
  induction n generalizing v with
  | zero => simp [bytesOf, ofBytes, Nat.mod_one]
  | succ n ih =>
    simp only [bytesOf, ofBytes, ih, BitVec.toNat_ofNat]
    have h := Nat.mod_mul (x := v) (a := 256) (b := 256 ^ n)
    have e : 256 ^ (n + 1) = 256 * 256 ^ n := by ring
    rw [e, h]

end Sys2Proof
end

