-- ==== Sys2Proof/Laws/State.lean ====
section
/-! SUPPORT. The state under its updates: what each leaves alone, field by field, and what a read of a slot, core, bed or die gives after one. -/

namespace Sys2Proof.Machine

/-! ### Fields an update leaves alone -/

@[simp] theorem State.setSlot_mem (s : State) (p : Place) (x : Slot) : (s.setSlot p x).mem = s.mem := rfl
@[simp] theorem State.setSlot_tags (s : State) (p : Place) (x : Slot) : (s.setSlot p x).tags = s.tags := rfl
@[simp] theorem State.setSlot_errs (s : State) (p : Place) (x : Slot) : (s.setSlot p x).errs = s.errs := rfl
@[simp] theorem State.setSlot_lag (s : State) (p : Place) (x : Slot) : (s.setSlot p x).lag = s.lag := rfl
@[simp] theorem State.setSlot_writes (s : State) (p : Place) (x : Slot) : (s.setSlot p x).writes = s.writes := rfl
@[simp] theorem State.setSlot_seen (s : State) (p : Place) (x : Slot) : (s.setSlot p x).seen = s.seen := rfl
@[simp] theorem State.setSlot_maker (s : State) (p : Place) (x : Slot) : (s.setSlot p x).maker = s.maker := rfl
@[simp] theorem State.setSlot_rels (s : State) (p : Place) (x : Slot) : (s.setSlot p x).rels = s.rels := rfl
@[simp] theorem State.setSlot_heard (s : State) (p : Place) (x : Slot) : (s.setSlot p x).heard = s.heard := rfl
@[simp] theorem State.setSlot_cores (s : State) (p : Place) (x : Slot) : (s.setSlot p x).cores = s.cores := rfl
@[simp] theorem State.setSlot_beds (s : State) (p : Place) (x : Slot) : (s.setSlot p x).beds = s.beds := rfl
@[simp] theorem State.setSlot_rims (s : State) (p : Place) (x : Slot) : (s.setSlot p x).rims = s.rims := rfl
@[simp] theorem State.setSlot_spires (s : State) (p : Place) (x : Slot) : (s.setSlot p x).spires = s.spires := rfl
@[simp] theorem State.setSlot_linkCache (s : State) (p : Place) (x : Slot) : (s.setSlot p x).linkCache = s.linkCache := rfl
@[simp] theorem State.setSlot_turnmask (s : State) (p : Place) (x : Slot) : (s.setSlot p x).turnmask = s.turnmask := rfl
@[simp] theorem State.setSlot_down (s : State) (p : Place) (x : Slot) : (s.setSlot p x).down = s.down := rfl
@[simp] theorem State.setSlot_flitErr (s : State) (p : Place) (x : Slot) : (s.setSlot p x).flitErr = s.flitErr := rfl
@[simp] theorem State.setSlot_evq (s : State) (p : Place) (x : Slot) : (s.setSlot p x).evq = s.evq := rfl
@[simp] theorem State.setSlot_linkHeld (s : State) (p : Place) (x : Slot) : (s.setSlot p x).linkHeld = s.linkHeld := rfl
@[simp] theorem State.setSlot_linkOwed (s : State) (p : Place) (x : Slot) : (s.setSlot p x).linkOwed = s.linkOwed := rfl
@[simp] theorem State.setSlot_move (s : State) (p : Place) (x : Slot) : (s.setSlot p x).move = s.move := rfl
@[simp] theorem State.setSlot_evrb (s : State) (p : Place) (x : Slot) : (s.setSlot p x).evrb = s.evrb := rfl
@[simp] theorem State.setSlot_evpw (s : State) (p : Place) (x : Slot) : (s.setSlot p x).evpw = s.evpw := rfl
@[simp] theorem State.setSlot_evcons (s : State) (p : Place) (x : Slot) : (s.setSlot p x).evcons = s.evcons := rfl
@[simp] theorem State.setSlot_evprod (s : State) (p : Place) (x : Slot) : (s.setSlot p x).evprod = s.evprod := rfl
@[simp] theorem State.setSlot_resvs (s : State) (p : Place) (x : Slot) : (s.setSlot p x).resvs = s.resvs := rfl
@[simp] theorem State.setSlot_waiters (s : State) (p : Place) (x : Slot) : (s.setSlot p x).waiters = s.waiters := rfl
@[simp] theorem State.setSlot_ranker (s : State) (p : Place) (x : Slot) : (s.setSlot p x).ranker = s.ranker := rfl
@[simp] theorem State.setSlot_pkts (s : State) (p : Place) (x : Slot) : (s.setSlot p x).pkts = s.pkts := rfl
@[simp] theorem State.setSlot_retries (s : State) (p : Place) (x : Slot) : (s.setSlot p x).retries = s.retries := rfl
@[simp] theorem State.setSlot_outbox (s : State) (p : Place) (x : Slot) : (s.setSlot p x).outbox = s.outbox := rfl
@[simp] theorem State.setSlot_ld0 (s : State) (p : Place) (x : Slot) : (s.setSlot p x).ld0 = s.ld0 := rfl
@[simp] theorem State.setSlot_releases (s : State) (p : Place) (x : Slot) : (s.setSlot p x).releases = s.releases := rfl
@[simp] theorem State.setSlot_xstores (s : State) (p : Place) (x : Slot) : (s.setSlot p x).xstores = s.xstores := rfl
@[simp] theorem State.setSlot_xaborts (s : State) (p : Place) (x : Slot) : (s.setSlot p x).xaborts = s.xaborts := rfl
@[simp] theorem State.setSlot_hostOut (s : State) (p : Place) (x : Slot) : (s.setSlot p x).hostOut = s.hostOut := rfl
@[simp] theorem State.setSlot_hpq (s : State) (p : Place) (x : Slot) : (s.setSlot p x).hpq = s.hpq := rfl
@[simp] theorem State.setSlot_gateRefuse (s : State) (p : Place) (x : Slot) : (s.setSlot p x).gateRefuse = s.gateRefuse := rfl
@[simp] theorem State.setSlot_quenches (s : State) (p : Place) (x : Slot) : (s.setSlot p x).quenches = s.quenches := rfl
@[simp] theorem State.setSlot_boot (s : State) (p : Place) (x : Slot) : (s.setSlot p x).boot = s.boot := rfl
@[simp] theorem State.setSlot_feat (s : State) (p : Place) (x : Slot) : (s.setSlot p x).feat = s.feat := rfl
@[simp] theorem State.setSlot_moduleNo (s : State) (p : Place) (x : Slot) : (s.setSlot p x).moduleNo = s.moduleNo := rfl
@[simp] theorem State.setSlot_ts (s : State) (p : Place) (x : Slot) : (s.setSlot p x).ts = s.ts := rfl
@[simp] theorem State.setSlot_frozen (s : State) (p : Place) (x : Slot) : (s.setSlot p x).frozen = s.frozen := rfl
@[simp] theorem State.setSlot_free (s : State) (p : Place) (x : Slot) : (s.setSlot p x).free = s.free := rfl
@[simp] theorem State.setSlot_agenda (s : State) (p : Place) (x : Slot) : (s.setSlot p x).agenda = s.agenda := rfl
@[simp] theorem State.setSlot_cur (s : State) (p : Place) (x : Slot) : (s.setSlot p x).cur = s.cur := rfl
@[simp] theorem State.setSlot_arg (s : State) (p : Place) (x : Slot) : (s.setSlot p x).arg = s.arg := rfl

@[simp] theorem State.modSlot_mem (s : State) (p : Place) (f : Slot → Slot) : (s.modSlot p f).mem = s.mem := rfl
@[simp] theorem State.modSlot_tags (s : State) (p : Place) (f : Slot → Slot) : (s.modSlot p f).tags = s.tags := rfl
@[simp] theorem State.modSlot_errs (s : State) (p : Place) (f : Slot → Slot) : (s.modSlot p f).errs = s.errs := rfl
@[simp] theorem State.modSlot_lag (s : State) (p : Place) (f : Slot → Slot) : (s.modSlot p f).lag = s.lag := rfl
@[simp] theorem State.modSlot_writes (s : State) (p : Place) (f : Slot → Slot) : (s.modSlot p f).writes = s.writes := rfl
@[simp] theorem State.modSlot_seen (s : State) (p : Place) (f : Slot → Slot) : (s.modSlot p f).seen = s.seen := rfl
@[simp] theorem State.modSlot_maker (s : State) (p : Place) (f : Slot → Slot) : (s.modSlot p f).maker = s.maker := rfl
@[simp] theorem State.modSlot_rels (s : State) (p : Place) (f : Slot → Slot) : (s.modSlot p f).rels = s.rels := rfl
@[simp] theorem State.modSlot_heard (s : State) (p : Place) (f : Slot → Slot) : (s.modSlot p f).heard = s.heard := rfl
@[simp] theorem State.modSlot_cores (s : State) (p : Place) (f : Slot → Slot) : (s.modSlot p f).cores = s.cores := rfl
@[simp] theorem State.modSlot_beds (s : State) (p : Place) (f : Slot → Slot) : (s.modSlot p f).beds = s.beds := rfl
@[simp] theorem State.modSlot_rims (s : State) (p : Place) (f : Slot → Slot) : (s.modSlot p f).rims = s.rims := rfl
@[simp] theorem State.modSlot_spires (s : State) (p : Place) (f : Slot → Slot) : (s.modSlot p f).spires = s.spires := rfl
@[simp] theorem State.modSlot_linkCache (s : State) (p : Place) (f : Slot → Slot) : (s.modSlot p f).linkCache = s.linkCache := rfl
@[simp] theorem State.modSlot_turnmask (s : State) (p : Place) (f : Slot → Slot) : (s.modSlot p f).turnmask = s.turnmask := rfl
@[simp] theorem State.modSlot_down (s : State) (p : Place) (f : Slot → Slot) : (s.modSlot p f).down = s.down := rfl
@[simp] theorem State.modSlot_flitErr (s : State) (p : Place) (f : Slot → Slot) : (s.modSlot p f).flitErr = s.flitErr := rfl
@[simp] theorem State.modSlot_evq (s : State) (p : Place) (f : Slot → Slot) : (s.modSlot p f).evq = s.evq := rfl
@[simp] theorem State.modSlot_linkHeld (s : State) (p : Place) (f : Slot → Slot) : (s.modSlot p f).linkHeld = s.linkHeld := rfl
@[simp] theorem State.modSlot_linkOwed (s : State) (p : Place) (f : Slot → Slot) : (s.modSlot p f).linkOwed = s.linkOwed := rfl
@[simp] theorem State.modSlot_move (s : State) (p : Place) (f : Slot → Slot) : (s.modSlot p f).move = s.move := rfl
@[simp] theorem State.modSlot_evrb (s : State) (p : Place) (f : Slot → Slot) : (s.modSlot p f).evrb = s.evrb := rfl
@[simp] theorem State.modSlot_evpw (s : State) (p : Place) (f : Slot → Slot) : (s.modSlot p f).evpw = s.evpw := rfl
@[simp] theorem State.modSlot_evcons (s : State) (p : Place) (f : Slot → Slot) : (s.modSlot p f).evcons = s.evcons := rfl
@[simp] theorem State.modSlot_evprod (s : State) (p : Place) (f : Slot → Slot) : (s.modSlot p f).evprod = s.evprod := rfl
@[simp] theorem State.modSlot_resvs (s : State) (p : Place) (f : Slot → Slot) : (s.modSlot p f).resvs = s.resvs := rfl
@[simp] theorem State.modSlot_waiters (s : State) (p : Place) (f : Slot → Slot) : (s.modSlot p f).waiters = s.waiters := rfl
@[simp] theorem State.modSlot_ranker (s : State) (p : Place) (f : Slot → Slot) : (s.modSlot p f).ranker = s.ranker := rfl
@[simp] theorem State.modSlot_pkts (s : State) (p : Place) (f : Slot → Slot) : (s.modSlot p f).pkts = s.pkts := rfl
@[simp] theorem State.modSlot_retries (s : State) (p : Place) (f : Slot → Slot) : (s.modSlot p f).retries = s.retries := rfl
@[simp] theorem State.modSlot_outbox (s : State) (p : Place) (f : Slot → Slot) : (s.modSlot p f).outbox = s.outbox := rfl
@[simp] theorem State.modSlot_ld0 (s : State) (p : Place) (f : Slot → Slot) : (s.modSlot p f).ld0 = s.ld0 := rfl
@[simp] theorem State.modSlot_releases (s : State) (p : Place) (f : Slot → Slot) : (s.modSlot p f).releases = s.releases := rfl
@[simp] theorem State.modSlot_xstores (s : State) (p : Place) (f : Slot → Slot) : (s.modSlot p f).xstores = s.xstores := rfl
@[simp] theorem State.modSlot_xaborts (s : State) (p : Place) (f : Slot → Slot) : (s.modSlot p f).xaborts = s.xaborts := rfl
@[simp] theorem State.modSlot_hostOut (s : State) (p : Place) (f : Slot → Slot) : (s.modSlot p f).hostOut = s.hostOut := rfl
@[simp] theorem State.modSlot_hpq (s : State) (p : Place) (f : Slot → Slot) : (s.modSlot p f).hpq = s.hpq := rfl
@[simp] theorem State.modSlot_gateRefuse (s : State) (p : Place) (f : Slot → Slot) : (s.modSlot p f).gateRefuse = s.gateRefuse := rfl
@[simp] theorem State.modSlot_quenches (s : State) (p : Place) (f : Slot → Slot) : (s.modSlot p f).quenches = s.quenches := rfl
@[simp] theorem State.modSlot_boot (s : State) (p : Place) (f : Slot → Slot) : (s.modSlot p f).boot = s.boot := rfl
@[simp] theorem State.modSlot_feat (s : State) (p : Place) (f : Slot → Slot) : (s.modSlot p f).feat = s.feat := rfl
@[simp] theorem State.modSlot_moduleNo (s : State) (p : Place) (f : Slot → Slot) : (s.modSlot p f).moduleNo = s.moduleNo := rfl
@[simp] theorem State.modSlot_ts (s : State) (p : Place) (f : Slot → Slot) : (s.modSlot p f).ts = s.ts := rfl
@[simp] theorem State.modSlot_frozen (s : State) (p : Place) (f : Slot → Slot) : (s.modSlot p f).frozen = s.frozen := rfl
@[simp] theorem State.modSlot_free (s : State) (p : Place) (f : Slot → Slot) : (s.modSlot p f).free = s.free := rfl
@[simp] theorem State.modSlot_agenda (s : State) (p : Place) (f : Slot → Slot) : (s.modSlot p f).agenda = s.agenda := rfl
@[simp] theorem State.modSlot_cur (s : State) (p : Place) (f : Slot → Slot) : (s.modSlot p f).cur = s.cur := rfl
@[simp] theorem State.modSlot_arg (s : State) (p : Place) (f : Slot → Slot) : (s.modSlot p f).arg = s.arg := rfl

@[simp] theorem State.setCore_mem (s : State) (u c : Nat) (x : Core) : (s.setCore u c x).mem = s.mem := rfl
@[simp] theorem State.setCore_tags (s : State) (u c : Nat) (x : Core) : (s.setCore u c x).tags = s.tags := rfl
@[simp] theorem State.setCore_errs (s : State) (u c : Nat) (x : Core) : (s.setCore u c x).errs = s.errs := rfl
@[simp] theorem State.setCore_lag (s : State) (u c : Nat) (x : Core) : (s.setCore u c x).lag = s.lag := rfl
@[simp] theorem State.setCore_writes (s : State) (u c : Nat) (x : Core) : (s.setCore u c x).writes = s.writes := rfl
@[simp] theorem State.setCore_seen (s : State) (u c : Nat) (x : Core) : (s.setCore u c x).seen = s.seen := rfl
@[simp] theorem State.setCore_maker (s : State) (u c : Nat) (x : Core) : (s.setCore u c x).maker = s.maker := rfl
@[simp] theorem State.setCore_rels (s : State) (u c : Nat) (x : Core) : (s.setCore u c x).rels = s.rels := rfl
@[simp] theorem State.setCore_heard (s : State) (u c : Nat) (x : Core) : (s.setCore u c x).heard = s.heard := rfl
@[simp] theorem State.setCore_slots (s : State) (u c : Nat) (x : Core) : (s.setCore u c x).slots = s.slots := rfl
@[simp] theorem State.setCore_beds (s : State) (u c : Nat) (x : Core) : (s.setCore u c x).beds = s.beds := rfl
@[simp] theorem State.setCore_rims (s : State) (u c : Nat) (x : Core) : (s.setCore u c x).rims = s.rims := rfl
@[simp] theorem State.setCore_spires (s : State) (u c : Nat) (x : Core) : (s.setCore u c x).spires = s.spires := rfl
@[simp] theorem State.setCore_linkCache (s : State) (u c : Nat) (x : Core) : (s.setCore u c x).linkCache = s.linkCache := rfl
@[simp] theorem State.setCore_turnmask (s : State) (u c : Nat) (x : Core) : (s.setCore u c x).turnmask = s.turnmask := rfl
@[simp] theorem State.setCore_down (s : State) (u c : Nat) (x : Core) : (s.setCore u c x).down = s.down := rfl
@[simp] theorem State.setCore_flitErr (s : State) (u c : Nat) (x : Core) : (s.setCore u c x).flitErr = s.flitErr := rfl
@[simp] theorem State.setCore_evq (s : State) (u c : Nat) (x : Core) : (s.setCore u c x).evq = s.evq := rfl
@[simp] theorem State.setCore_linkHeld (s : State) (u c : Nat) (x : Core) : (s.setCore u c x).linkHeld = s.linkHeld := rfl
@[simp] theorem State.setCore_linkOwed (s : State) (u c : Nat) (x : Core) : (s.setCore u c x).linkOwed = s.linkOwed := rfl
@[simp] theorem State.setCore_move (s : State) (u c : Nat) (x : Core) : (s.setCore u c x).move = s.move := rfl
@[simp] theorem State.setCore_evrb (s : State) (u c : Nat) (x : Core) : (s.setCore u c x).evrb = s.evrb := rfl
@[simp] theorem State.setCore_evpw (s : State) (u c : Nat) (x : Core) : (s.setCore u c x).evpw = s.evpw := rfl
@[simp] theorem State.setCore_evcons (s : State) (u c : Nat) (x : Core) : (s.setCore u c x).evcons = s.evcons := rfl
@[simp] theorem State.setCore_evprod (s : State) (u c : Nat) (x : Core) : (s.setCore u c x).evprod = s.evprod := rfl
@[simp] theorem State.setCore_resvs (s : State) (u c : Nat) (x : Core) : (s.setCore u c x).resvs = s.resvs := rfl
@[simp] theorem State.setCore_waiters (s : State) (u c : Nat) (x : Core) : (s.setCore u c x).waiters = s.waiters := rfl
@[simp] theorem State.setCore_ranker (s : State) (u c : Nat) (x : Core) : (s.setCore u c x).ranker = s.ranker := rfl
@[simp] theorem State.setCore_pkts (s : State) (u c : Nat) (x : Core) : (s.setCore u c x).pkts = s.pkts := rfl
@[simp] theorem State.setCore_retries (s : State) (u c : Nat) (x : Core) : (s.setCore u c x).retries = s.retries := rfl
@[simp] theorem State.setCore_outbox (s : State) (u c : Nat) (x : Core) : (s.setCore u c x).outbox = s.outbox := rfl
@[simp] theorem State.setCore_ld0 (s : State) (u c : Nat) (x : Core) : (s.setCore u c x).ld0 = s.ld0 := rfl
@[simp] theorem State.setCore_releases (s : State) (u c : Nat) (x : Core) : (s.setCore u c x).releases = s.releases := rfl
@[simp] theorem State.setCore_xstores (s : State) (u c : Nat) (x : Core) : (s.setCore u c x).xstores = s.xstores := rfl
@[simp] theorem State.setCore_xaborts (s : State) (u c : Nat) (x : Core) : (s.setCore u c x).xaborts = s.xaborts := rfl
@[simp] theorem State.setCore_hostOut (s : State) (u c : Nat) (x : Core) : (s.setCore u c x).hostOut = s.hostOut := rfl
@[simp] theorem State.setCore_hpq (s : State) (u c : Nat) (x : Core) : (s.setCore u c x).hpq = s.hpq := rfl
@[simp] theorem State.setCore_gateRefuse (s : State) (u c : Nat) (x : Core) : (s.setCore u c x).gateRefuse = s.gateRefuse := rfl
@[simp] theorem State.setCore_quenches (s : State) (u c : Nat) (x : Core) : (s.setCore u c x).quenches = s.quenches := rfl
@[simp] theorem State.setCore_boot (s : State) (u c : Nat) (x : Core) : (s.setCore u c x).boot = s.boot := rfl
@[simp] theorem State.setCore_feat (s : State) (u c : Nat) (x : Core) : (s.setCore u c x).feat = s.feat := rfl
@[simp] theorem State.setCore_moduleNo (s : State) (u c : Nat) (x : Core) : (s.setCore u c x).moduleNo = s.moduleNo := rfl
@[simp] theorem State.setCore_ts (s : State) (u c : Nat) (x : Core) : (s.setCore u c x).ts = s.ts := rfl
@[simp] theorem State.setCore_frozen (s : State) (u c : Nat) (x : Core) : (s.setCore u c x).frozen = s.frozen := rfl
@[simp] theorem State.setCore_free (s : State) (u c : Nat) (x : Core) : (s.setCore u c x).free = s.free := rfl
@[simp] theorem State.setCore_agenda (s : State) (u c : Nat) (x : Core) : (s.setCore u c x).agenda = s.agenda := rfl
@[simp] theorem State.setCore_cur (s : State) (u c : Nat) (x : Core) : (s.setCore u c x).cur = s.cur := rfl
@[simp] theorem State.setCore_arg (s : State) (u c : Nat) (x : Core) : (s.setCore u c x).arg = s.arg := rfl

@[simp] theorem State.modCore_mem (s : State) (u c : Nat) (f : Core → Core) : (s.modCore u c f).mem = s.mem := rfl
@[simp] theorem State.modCore_tags (s : State) (u c : Nat) (f : Core → Core) : (s.modCore u c f).tags = s.tags := rfl
@[simp] theorem State.modCore_errs (s : State) (u c : Nat) (f : Core → Core) : (s.modCore u c f).errs = s.errs := rfl
@[simp] theorem State.modCore_lag (s : State) (u c : Nat) (f : Core → Core) : (s.modCore u c f).lag = s.lag := rfl
@[simp] theorem State.modCore_writes (s : State) (u c : Nat) (f : Core → Core) : (s.modCore u c f).writes = s.writes := rfl
@[simp] theorem State.modCore_seen (s : State) (u c : Nat) (f : Core → Core) : (s.modCore u c f).seen = s.seen := rfl
@[simp] theorem State.modCore_maker (s : State) (u c : Nat) (f : Core → Core) : (s.modCore u c f).maker = s.maker := rfl
@[simp] theorem State.modCore_rels (s : State) (u c : Nat) (f : Core → Core) : (s.modCore u c f).rels = s.rels := rfl
@[simp] theorem State.modCore_heard (s : State) (u c : Nat) (f : Core → Core) : (s.modCore u c f).heard = s.heard := rfl
@[simp] theorem State.modCore_slots (s : State) (u c : Nat) (f : Core → Core) : (s.modCore u c f).slots = s.slots := rfl
@[simp] theorem State.modCore_beds (s : State) (u c : Nat) (f : Core → Core) : (s.modCore u c f).beds = s.beds := rfl
@[simp] theorem State.modCore_rims (s : State) (u c : Nat) (f : Core → Core) : (s.modCore u c f).rims = s.rims := rfl
@[simp] theorem State.modCore_spires (s : State) (u c : Nat) (f : Core → Core) : (s.modCore u c f).spires = s.spires := rfl
@[simp] theorem State.modCore_linkCache (s : State) (u c : Nat) (f : Core → Core) : (s.modCore u c f).linkCache = s.linkCache := rfl
@[simp] theorem State.modCore_turnmask (s : State) (u c : Nat) (f : Core → Core) : (s.modCore u c f).turnmask = s.turnmask := rfl
@[simp] theorem State.modCore_down (s : State) (u c : Nat) (f : Core → Core) : (s.modCore u c f).down = s.down := rfl
@[simp] theorem State.modCore_flitErr (s : State) (u c : Nat) (f : Core → Core) : (s.modCore u c f).flitErr = s.flitErr := rfl
@[simp] theorem State.modCore_evq (s : State) (u c : Nat) (f : Core → Core) : (s.modCore u c f).evq = s.evq := rfl
@[simp] theorem State.modCore_linkHeld (s : State) (u c : Nat) (f : Core → Core) : (s.modCore u c f).linkHeld = s.linkHeld := rfl
@[simp] theorem State.modCore_linkOwed (s : State) (u c : Nat) (f : Core → Core) : (s.modCore u c f).linkOwed = s.linkOwed := rfl
@[simp] theorem State.modCore_move (s : State) (u c : Nat) (f : Core → Core) : (s.modCore u c f).move = s.move := rfl
@[simp] theorem State.modCore_evrb (s : State) (u c : Nat) (f : Core → Core) : (s.modCore u c f).evrb = s.evrb := rfl
@[simp] theorem State.modCore_evpw (s : State) (u c : Nat) (f : Core → Core) : (s.modCore u c f).evpw = s.evpw := rfl
@[simp] theorem State.modCore_evcons (s : State) (u c : Nat) (f : Core → Core) : (s.modCore u c f).evcons = s.evcons := rfl
@[simp] theorem State.modCore_evprod (s : State) (u c : Nat) (f : Core → Core) : (s.modCore u c f).evprod = s.evprod := rfl
@[simp] theorem State.modCore_resvs (s : State) (u c : Nat) (f : Core → Core) : (s.modCore u c f).resvs = s.resvs := rfl
@[simp] theorem State.modCore_waiters (s : State) (u c : Nat) (f : Core → Core) : (s.modCore u c f).waiters = s.waiters := rfl
@[simp] theorem State.modCore_ranker (s : State) (u c : Nat) (f : Core → Core) : (s.modCore u c f).ranker = s.ranker := rfl
@[simp] theorem State.modCore_pkts (s : State) (u c : Nat) (f : Core → Core) : (s.modCore u c f).pkts = s.pkts := rfl
@[simp] theorem State.modCore_retries (s : State) (u c : Nat) (f : Core → Core) : (s.modCore u c f).retries = s.retries := rfl
@[simp] theorem State.modCore_outbox (s : State) (u c : Nat) (f : Core → Core) : (s.modCore u c f).outbox = s.outbox := rfl
@[simp] theorem State.modCore_ld0 (s : State) (u c : Nat) (f : Core → Core) : (s.modCore u c f).ld0 = s.ld0 := rfl
@[simp] theorem State.modCore_releases (s : State) (u c : Nat) (f : Core → Core) : (s.modCore u c f).releases = s.releases := rfl
@[simp] theorem State.modCore_xstores (s : State) (u c : Nat) (f : Core → Core) : (s.modCore u c f).xstores = s.xstores := rfl
@[simp] theorem State.modCore_xaborts (s : State) (u c : Nat) (f : Core → Core) : (s.modCore u c f).xaborts = s.xaborts := rfl
@[simp] theorem State.modCore_hostOut (s : State) (u c : Nat) (f : Core → Core) : (s.modCore u c f).hostOut = s.hostOut := rfl
@[simp] theorem State.modCore_hpq (s : State) (u c : Nat) (f : Core → Core) : (s.modCore u c f).hpq = s.hpq := rfl
@[simp] theorem State.modCore_gateRefuse (s : State) (u c : Nat) (f : Core → Core) : (s.modCore u c f).gateRefuse = s.gateRefuse := rfl
@[simp] theorem State.modCore_quenches (s : State) (u c : Nat) (f : Core → Core) : (s.modCore u c f).quenches = s.quenches := rfl
@[simp] theorem State.modCore_boot (s : State) (u c : Nat) (f : Core → Core) : (s.modCore u c f).boot = s.boot := rfl
@[simp] theorem State.modCore_feat (s : State) (u c : Nat) (f : Core → Core) : (s.modCore u c f).feat = s.feat := rfl
@[simp] theorem State.modCore_moduleNo (s : State) (u c : Nat) (f : Core → Core) : (s.modCore u c f).moduleNo = s.moduleNo := rfl
@[simp] theorem State.modCore_ts (s : State) (u c : Nat) (f : Core → Core) : (s.modCore u c f).ts = s.ts := rfl
@[simp] theorem State.modCore_frozen (s : State) (u c : Nat) (f : Core → Core) : (s.modCore u c f).frozen = s.frozen := rfl
@[simp] theorem State.modCore_free (s : State) (u c : Nat) (f : Core → Core) : (s.modCore u c f).free = s.free := rfl
@[simp] theorem State.modCore_agenda (s : State) (u c : Nat) (f : Core → Core) : (s.modCore u c f).agenda = s.agenda := rfl
@[simp] theorem State.modCore_cur (s : State) (u c : Nat) (f : Core → Core) : (s.modCore u c f).cur = s.cur := rfl
@[simp] theorem State.modCore_arg (s : State) (u c : Nat) (f : Core → Core) : (s.modCore u c f).arg = s.arg := rfl

@[simp] theorem State.setBed_mem (s : State) (b : Nat) (x : Bed) : (s.setBed b x).mem = s.mem := rfl
@[simp] theorem State.setBed_tags (s : State) (b : Nat) (x : Bed) : (s.setBed b x).tags = s.tags := rfl
@[simp] theorem State.setBed_errs (s : State) (b : Nat) (x : Bed) : (s.setBed b x).errs = s.errs := rfl
@[simp] theorem State.setBed_lag (s : State) (b : Nat) (x : Bed) : (s.setBed b x).lag = s.lag := rfl
@[simp] theorem State.setBed_writes (s : State) (b : Nat) (x : Bed) : (s.setBed b x).writes = s.writes := rfl
@[simp] theorem State.setBed_seen (s : State) (b : Nat) (x : Bed) : (s.setBed b x).seen = s.seen := rfl
@[simp] theorem State.setBed_maker (s : State) (b : Nat) (x : Bed) : (s.setBed b x).maker = s.maker := rfl
@[simp] theorem State.setBed_rels (s : State) (b : Nat) (x : Bed) : (s.setBed b x).rels = s.rels := rfl
@[simp] theorem State.setBed_heard (s : State) (b : Nat) (x : Bed) : (s.setBed b x).heard = s.heard := rfl
@[simp] theorem State.setBed_slots (s : State) (b : Nat) (x : Bed) : (s.setBed b x).slots = s.slots := rfl
@[simp] theorem State.setBed_cores (s : State) (b : Nat) (x : Bed) : (s.setBed b x).cores = s.cores := rfl
@[simp] theorem State.setBed_rims (s : State) (b : Nat) (x : Bed) : (s.setBed b x).rims = s.rims := rfl
@[simp] theorem State.setBed_spires (s : State) (b : Nat) (x : Bed) : (s.setBed b x).spires = s.spires := rfl
@[simp] theorem State.setBed_linkCache (s : State) (b : Nat) (x : Bed) : (s.setBed b x).linkCache = s.linkCache := rfl
@[simp] theorem State.setBed_turnmask (s : State) (b : Nat) (x : Bed) : (s.setBed b x).turnmask = s.turnmask := rfl
@[simp] theorem State.setBed_down (s : State) (b : Nat) (x : Bed) : (s.setBed b x).down = s.down := rfl
@[simp] theorem State.setBed_flitErr (s : State) (b : Nat) (x : Bed) : (s.setBed b x).flitErr = s.flitErr := rfl
@[simp] theorem State.setBed_evq (s : State) (b : Nat) (x : Bed) : (s.setBed b x).evq = s.evq := rfl
@[simp] theorem State.setBed_linkHeld (s : State) (b : Nat) (x : Bed) : (s.setBed b x).linkHeld = s.linkHeld := rfl
@[simp] theorem State.setBed_linkOwed (s : State) (b : Nat) (x : Bed) : (s.setBed b x).linkOwed = s.linkOwed := rfl
@[simp] theorem State.setBed_move (s : State) (b : Nat) (x : Bed) : (s.setBed b x).move = s.move := rfl
@[simp] theorem State.setBed_evrb (s : State) (b : Nat) (x : Bed) : (s.setBed b x).evrb = s.evrb := rfl
@[simp] theorem State.setBed_evpw (s : State) (b : Nat) (x : Bed) : (s.setBed b x).evpw = s.evpw := rfl
@[simp] theorem State.setBed_evcons (s : State) (b : Nat) (x : Bed) : (s.setBed b x).evcons = s.evcons := rfl
@[simp] theorem State.setBed_evprod (s : State) (b : Nat) (x : Bed) : (s.setBed b x).evprod = s.evprod := rfl
@[simp] theorem State.setBed_resvs (s : State) (b : Nat) (x : Bed) : (s.setBed b x).resvs = s.resvs := rfl
@[simp] theorem State.setBed_waiters (s : State) (b : Nat) (x : Bed) : (s.setBed b x).waiters = s.waiters := rfl
@[simp] theorem State.setBed_ranker (s : State) (b : Nat) (x : Bed) : (s.setBed b x).ranker = s.ranker := rfl
@[simp] theorem State.setBed_pkts (s : State) (b : Nat) (x : Bed) : (s.setBed b x).pkts = s.pkts := rfl
@[simp] theorem State.setBed_retries (s : State) (b : Nat) (x : Bed) : (s.setBed b x).retries = s.retries := rfl
@[simp] theorem State.setBed_outbox (s : State) (b : Nat) (x : Bed) : (s.setBed b x).outbox = s.outbox := rfl
@[simp] theorem State.setBed_ld0 (s : State) (b : Nat) (x : Bed) : (s.setBed b x).ld0 = s.ld0 := rfl
@[simp] theorem State.setBed_releases (s : State) (b : Nat) (x : Bed) : (s.setBed b x).releases = s.releases := rfl
@[simp] theorem State.setBed_xstores (s : State) (b : Nat) (x : Bed) : (s.setBed b x).xstores = s.xstores := rfl
@[simp] theorem State.setBed_xaborts (s : State) (b : Nat) (x : Bed) : (s.setBed b x).xaborts = s.xaborts := rfl
@[simp] theorem State.setBed_hostOut (s : State) (b : Nat) (x : Bed) : (s.setBed b x).hostOut = s.hostOut := rfl
@[simp] theorem State.setBed_hpq (s : State) (b : Nat) (x : Bed) : (s.setBed b x).hpq = s.hpq := rfl
@[simp] theorem State.setBed_gateRefuse (s : State) (b : Nat) (x : Bed) : (s.setBed b x).gateRefuse = s.gateRefuse := rfl
@[simp] theorem State.setBed_quenches (s : State) (b : Nat) (x : Bed) : (s.setBed b x).quenches = s.quenches := rfl
@[simp] theorem State.setBed_boot (s : State) (b : Nat) (x : Bed) : (s.setBed b x).boot = s.boot := rfl
@[simp] theorem State.setBed_feat (s : State) (b : Nat) (x : Bed) : (s.setBed b x).feat = s.feat := rfl
@[simp] theorem State.setBed_moduleNo (s : State) (b : Nat) (x : Bed) : (s.setBed b x).moduleNo = s.moduleNo := rfl
@[simp] theorem State.setBed_ts (s : State) (b : Nat) (x : Bed) : (s.setBed b x).ts = s.ts := rfl
@[simp] theorem State.setBed_frozen (s : State) (b : Nat) (x : Bed) : (s.setBed b x).frozen = s.frozen := rfl
@[simp] theorem State.setBed_free (s : State) (b : Nat) (x : Bed) : (s.setBed b x).free = s.free := rfl
@[simp] theorem State.setBed_agenda (s : State) (b : Nat) (x : Bed) : (s.setBed b x).agenda = s.agenda := rfl
@[simp] theorem State.setBed_cur (s : State) (b : Nat) (x : Bed) : (s.setBed b x).cur = s.cur := rfl
@[simp] theorem State.setBed_arg (s : State) (b : Nat) (x : Bed) : (s.setBed b x).arg = s.arg := rfl

@[simp] theorem State.modBed_mem (s : State) (b : Nat) (f : Bed → Bed) : (s.modBed b f).mem = s.mem := rfl
@[simp] theorem State.modBed_tags (s : State) (b : Nat) (f : Bed → Bed) : (s.modBed b f).tags = s.tags := rfl
@[simp] theorem State.modBed_errs (s : State) (b : Nat) (f : Bed → Bed) : (s.modBed b f).errs = s.errs := rfl
@[simp] theorem State.modBed_lag (s : State) (b : Nat) (f : Bed → Bed) : (s.modBed b f).lag = s.lag := rfl
@[simp] theorem State.modBed_writes (s : State) (b : Nat) (f : Bed → Bed) : (s.modBed b f).writes = s.writes := rfl
@[simp] theorem State.modBed_seen (s : State) (b : Nat) (f : Bed → Bed) : (s.modBed b f).seen = s.seen := rfl
@[simp] theorem State.modBed_maker (s : State) (b : Nat) (f : Bed → Bed) : (s.modBed b f).maker = s.maker := rfl
@[simp] theorem State.modBed_rels (s : State) (b : Nat) (f : Bed → Bed) : (s.modBed b f).rels = s.rels := rfl
@[simp] theorem State.modBed_heard (s : State) (b : Nat) (f : Bed → Bed) : (s.modBed b f).heard = s.heard := rfl
@[simp] theorem State.modBed_slots (s : State) (b : Nat) (f : Bed → Bed) : (s.modBed b f).slots = s.slots := rfl
@[simp] theorem State.modBed_cores (s : State) (b : Nat) (f : Bed → Bed) : (s.modBed b f).cores = s.cores := rfl
@[simp] theorem State.modBed_rims (s : State) (b : Nat) (f : Bed → Bed) : (s.modBed b f).rims = s.rims := rfl
@[simp] theorem State.modBed_spires (s : State) (b : Nat) (f : Bed → Bed) : (s.modBed b f).spires = s.spires := rfl
@[simp] theorem State.modBed_linkCache (s : State) (b : Nat) (f : Bed → Bed) : (s.modBed b f).linkCache = s.linkCache := rfl
@[simp] theorem State.modBed_turnmask (s : State) (b : Nat) (f : Bed → Bed) : (s.modBed b f).turnmask = s.turnmask := rfl
@[simp] theorem State.modBed_down (s : State) (b : Nat) (f : Bed → Bed) : (s.modBed b f).down = s.down := rfl
@[simp] theorem State.modBed_flitErr (s : State) (b : Nat) (f : Bed → Bed) : (s.modBed b f).flitErr = s.flitErr := rfl
@[simp] theorem State.modBed_evq (s : State) (b : Nat) (f : Bed → Bed) : (s.modBed b f).evq = s.evq := rfl
@[simp] theorem State.modBed_linkHeld (s : State) (b : Nat) (f : Bed → Bed) : (s.modBed b f).linkHeld = s.linkHeld := rfl
@[simp] theorem State.modBed_linkOwed (s : State) (b : Nat) (f : Bed → Bed) : (s.modBed b f).linkOwed = s.linkOwed := rfl
@[simp] theorem State.modBed_move (s : State) (b : Nat) (f : Bed → Bed) : (s.modBed b f).move = s.move := rfl
@[simp] theorem State.modBed_evrb (s : State) (b : Nat) (f : Bed → Bed) : (s.modBed b f).evrb = s.evrb := rfl
@[simp] theorem State.modBed_evpw (s : State) (b : Nat) (f : Bed → Bed) : (s.modBed b f).evpw = s.evpw := rfl
@[simp] theorem State.modBed_evcons (s : State) (b : Nat) (f : Bed → Bed) : (s.modBed b f).evcons = s.evcons := rfl
@[simp] theorem State.modBed_evprod (s : State) (b : Nat) (f : Bed → Bed) : (s.modBed b f).evprod = s.evprod := rfl
@[simp] theorem State.modBed_resvs (s : State) (b : Nat) (f : Bed → Bed) : (s.modBed b f).resvs = s.resvs := rfl
@[simp] theorem State.modBed_waiters (s : State) (b : Nat) (f : Bed → Bed) : (s.modBed b f).waiters = s.waiters := rfl
@[simp] theorem State.modBed_ranker (s : State) (b : Nat) (f : Bed → Bed) : (s.modBed b f).ranker = s.ranker := rfl
@[simp] theorem State.modBed_pkts (s : State) (b : Nat) (f : Bed → Bed) : (s.modBed b f).pkts = s.pkts := rfl
@[simp] theorem State.modBed_retries (s : State) (b : Nat) (f : Bed → Bed) : (s.modBed b f).retries = s.retries := rfl
@[simp] theorem State.modBed_outbox (s : State) (b : Nat) (f : Bed → Bed) : (s.modBed b f).outbox = s.outbox := rfl
@[simp] theorem State.modBed_ld0 (s : State) (b : Nat) (f : Bed → Bed) : (s.modBed b f).ld0 = s.ld0 := rfl
@[simp] theorem State.modBed_releases (s : State) (b : Nat) (f : Bed → Bed) : (s.modBed b f).releases = s.releases := rfl
@[simp] theorem State.modBed_xstores (s : State) (b : Nat) (f : Bed → Bed) : (s.modBed b f).xstores = s.xstores := rfl
@[simp] theorem State.modBed_xaborts (s : State) (b : Nat) (f : Bed → Bed) : (s.modBed b f).xaborts = s.xaborts := rfl
@[simp] theorem State.modBed_hostOut (s : State) (b : Nat) (f : Bed → Bed) : (s.modBed b f).hostOut = s.hostOut := rfl
@[simp] theorem State.modBed_hpq (s : State) (b : Nat) (f : Bed → Bed) : (s.modBed b f).hpq = s.hpq := rfl
@[simp] theorem State.modBed_gateRefuse (s : State) (b : Nat) (f : Bed → Bed) : (s.modBed b f).gateRefuse = s.gateRefuse := rfl
@[simp] theorem State.modBed_quenches (s : State) (b : Nat) (f : Bed → Bed) : (s.modBed b f).quenches = s.quenches := rfl
@[simp] theorem State.modBed_boot (s : State) (b : Nat) (f : Bed → Bed) : (s.modBed b f).boot = s.boot := rfl
@[simp] theorem State.modBed_feat (s : State) (b : Nat) (f : Bed → Bed) : (s.modBed b f).feat = s.feat := rfl
@[simp] theorem State.modBed_moduleNo (s : State) (b : Nat) (f : Bed → Bed) : (s.modBed b f).moduleNo = s.moduleNo := rfl
@[simp] theorem State.modBed_ts (s : State) (b : Nat) (f : Bed → Bed) : (s.modBed b f).ts = s.ts := rfl
@[simp] theorem State.modBed_frozen (s : State) (b : Nat) (f : Bed → Bed) : (s.modBed b f).frozen = s.frozen := rfl
@[simp] theorem State.modBed_free (s : State) (b : Nat) (f : Bed → Bed) : (s.modBed b f).free = s.free := rfl
@[simp] theorem State.modBed_agenda (s : State) (b : Nat) (f : Bed → Bed) : (s.modBed b f).agenda = s.agenda := rfl
@[simp] theorem State.modBed_cur (s : State) (b : Nat) (f : Bed → Bed) : (s.modBed b f).cur = s.cur := rfl
@[simp] theorem State.modBed_arg (s : State) (b : Nat) (f : Bed → Bed) : (s.modBed b f).arg = s.arg := rfl

@[simp] theorem State.setRim_mem (s : State) (k : Nat) (x : Rim) : (s.setRim k x).mem = s.mem := rfl
@[simp] theorem State.setRim_tags (s : State) (k : Nat) (x : Rim) : (s.setRim k x).tags = s.tags := rfl
@[simp] theorem State.setRim_errs (s : State) (k : Nat) (x : Rim) : (s.setRim k x).errs = s.errs := rfl
@[simp] theorem State.setRim_lag (s : State) (k : Nat) (x : Rim) : (s.setRim k x).lag = s.lag := rfl
@[simp] theorem State.setRim_writes (s : State) (k : Nat) (x : Rim) : (s.setRim k x).writes = s.writes := rfl
@[simp] theorem State.setRim_seen (s : State) (k : Nat) (x : Rim) : (s.setRim k x).seen = s.seen := rfl
@[simp] theorem State.setRim_maker (s : State) (k : Nat) (x : Rim) : (s.setRim k x).maker = s.maker := rfl
@[simp] theorem State.setRim_rels (s : State) (k : Nat) (x : Rim) : (s.setRim k x).rels = s.rels := rfl
@[simp] theorem State.setRim_heard (s : State) (k : Nat) (x : Rim) : (s.setRim k x).heard = s.heard := rfl
@[simp] theorem State.setRim_slots (s : State) (k : Nat) (x : Rim) : (s.setRim k x).slots = s.slots := rfl
@[simp] theorem State.setRim_cores (s : State) (k : Nat) (x : Rim) : (s.setRim k x).cores = s.cores := rfl
@[simp] theorem State.setRim_beds (s : State) (k : Nat) (x : Rim) : (s.setRim k x).beds = s.beds := rfl
@[simp] theorem State.setRim_spires (s : State) (k : Nat) (x : Rim) : (s.setRim k x).spires = s.spires := rfl
@[simp] theorem State.setRim_linkCache (s : State) (k : Nat) (x : Rim) : (s.setRim k x).linkCache = s.linkCache := rfl
@[simp] theorem State.setRim_turnmask (s : State) (k : Nat) (x : Rim) : (s.setRim k x).turnmask = s.turnmask := rfl
@[simp] theorem State.setRim_down (s : State) (k : Nat) (x : Rim) : (s.setRim k x).down = s.down := rfl
@[simp] theorem State.setRim_flitErr (s : State) (k : Nat) (x : Rim) : (s.setRim k x).flitErr = s.flitErr := rfl
@[simp] theorem State.setRim_evq (s : State) (k : Nat) (x : Rim) : (s.setRim k x).evq = s.evq := rfl
@[simp] theorem State.setRim_linkHeld (s : State) (k : Nat) (x : Rim) : (s.setRim k x).linkHeld = s.linkHeld := rfl
@[simp] theorem State.setRim_linkOwed (s : State) (k : Nat) (x : Rim) : (s.setRim k x).linkOwed = s.linkOwed := rfl
@[simp] theorem State.setRim_move (s : State) (k : Nat) (x : Rim) : (s.setRim k x).move = s.move := rfl
@[simp] theorem State.setRim_evrb (s : State) (k : Nat) (x : Rim) : (s.setRim k x).evrb = s.evrb := rfl
@[simp] theorem State.setRim_evpw (s : State) (k : Nat) (x : Rim) : (s.setRim k x).evpw = s.evpw := rfl
@[simp] theorem State.setRim_evcons (s : State) (k : Nat) (x : Rim) : (s.setRim k x).evcons = s.evcons := rfl
@[simp] theorem State.setRim_evprod (s : State) (k : Nat) (x : Rim) : (s.setRim k x).evprod = s.evprod := rfl
@[simp] theorem State.setRim_resvs (s : State) (k : Nat) (x : Rim) : (s.setRim k x).resvs = s.resvs := rfl
@[simp] theorem State.setRim_waiters (s : State) (k : Nat) (x : Rim) : (s.setRim k x).waiters = s.waiters := rfl
@[simp] theorem State.setRim_ranker (s : State) (k : Nat) (x : Rim) : (s.setRim k x).ranker = s.ranker := rfl
@[simp] theorem State.setRim_pkts (s : State) (k : Nat) (x : Rim) : (s.setRim k x).pkts = s.pkts := rfl
@[simp] theorem State.setRim_retries (s : State) (k : Nat) (x : Rim) : (s.setRim k x).retries = s.retries := rfl
@[simp] theorem State.setRim_outbox (s : State) (k : Nat) (x : Rim) : (s.setRim k x).outbox = s.outbox := rfl
@[simp] theorem State.setRim_ld0 (s : State) (k : Nat) (x : Rim) : (s.setRim k x).ld0 = s.ld0 := rfl
@[simp] theorem State.setRim_releases (s : State) (k : Nat) (x : Rim) : (s.setRim k x).releases = s.releases := rfl
@[simp] theorem State.setRim_xstores (s : State) (k : Nat) (x : Rim) : (s.setRim k x).xstores = s.xstores := rfl
@[simp] theorem State.setRim_xaborts (s : State) (k : Nat) (x : Rim) : (s.setRim k x).xaborts = s.xaborts := rfl
@[simp] theorem State.setRim_hostOut (s : State) (k : Nat) (x : Rim) : (s.setRim k x).hostOut = s.hostOut := rfl
@[simp] theorem State.setRim_hpq (s : State) (k : Nat) (x : Rim) : (s.setRim k x).hpq = s.hpq := rfl
@[simp] theorem State.setRim_gateRefuse (s : State) (k : Nat) (x : Rim) : (s.setRim k x).gateRefuse = s.gateRefuse := rfl
@[simp] theorem State.setRim_quenches (s : State) (k : Nat) (x : Rim) : (s.setRim k x).quenches = s.quenches := rfl
@[simp] theorem State.setRim_boot (s : State) (k : Nat) (x : Rim) : (s.setRim k x).boot = s.boot := rfl
@[simp] theorem State.setRim_feat (s : State) (k : Nat) (x : Rim) : (s.setRim k x).feat = s.feat := rfl
@[simp] theorem State.setRim_moduleNo (s : State) (k : Nat) (x : Rim) : (s.setRim k x).moduleNo = s.moduleNo := rfl
@[simp] theorem State.setRim_ts (s : State) (k : Nat) (x : Rim) : (s.setRim k x).ts = s.ts := rfl
@[simp] theorem State.setRim_frozen (s : State) (k : Nat) (x : Rim) : (s.setRim k x).frozen = s.frozen := rfl
@[simp] theorem State.setRim_free (s : State) (k : Nat) (x : Rim) : (s.setRim k x).free = s.free := rfl
@[simp] theorem State.setRim_agenda (s : State) (k : Nat) (x : Rim) : (s.setRim k x).agenda = s.agenda := rfl
@[simp] theorem State.setRim_cur (s : State) (k : Nat) (x : Rim) : (s.setRim k x).cur = s.cur := rfl
@[simp] theorem State.setRim_arg (s : State) (k : Nat) (x : Rim) : (s.setRim k x).arg = s.arg := rfl

@[simp] theorem State.modRim_mem (s : State) (k : Nat) (f : Rim → Rim) : (s.modRim k f).mem = s.mem := rfl
@[simp] theorem State.modRim_tags (s : State) (k : Nat) (f : Rim → Rim) : (s.modRim k f).tags = s.tags := rfl
@[simp] theorem State.modRim_errs (s : State) (k : Nat) (f : Rim → Rim) : (s.modRim k f).errs = s.errs := rfl
@[simp] theorem State.modRim_lag (s : State) (k : Nat) (f : Rim → Rim) : (s.modRim k f).lag = s.lag := rfl
@[simp] theorem State.modRim_writes (s : State) (k : Nat) (f : Rim → Rim) : (s.modRim k f).writes = s.writes := rfl
@[simp] theorem State.modRim_seen (s : State) (k : Nat) (f : Rim → Rim) : (s.modRim k f).seen = s.seen := rfl
@[simp] theorem State.modRim_maker (s : State) (k : Nat) (f : Rim → Rim) : (s.modRim k f).maker = s.maker := rfl
@[simp] theorem State.modRim_rels (s : State) (k : Nat) (f : Rim → Rim) : (s.modRim k f).rels = s.rels := rfl
@[simp] theorem State.modRim_heard (s : State) (k : Nat) (f : Rim → Rim) : (s.modRim k f).heard = s.heard := rfl
@[simp] theorem State.modRim_slots (s : State) (k : Nat) (f : Rim → Rim) : (s.modRim k f).slots = s.slots := rfl
@[simp] theorem State.modRim_cores (s : State) (k : Nat) (f : Rim → Rim) : (s.modRim k f).cores = s.cores := rfl
@[simp] theorem State.modRim_beds (s : State) (k : Nat) (f : Rim → Rim) : (s.modRim k f).beds = s.beds := rfl
@[simp] theorem State.modRim_spires (s : State) (k : Nat) (f : Rim → Rim) : (s.modRim k f).spires = s.spires := rfl
@[simp] theorem State.modRim_linkCache (s : State) (k : Nat) (f : Rim → Rim) : (s.modRim k f).linkCache = s.linkCache := rfl
@[simp] theorem State.modRim_turnmask (s : State) (k : Nat) (f : Rim → Rim) : (s.modRim k f).turnmask = s.turnmask := rfl
@[simp] theorem State.modRim_down (s : State) (k : Nat) (f : Rim → Rim) : (s.modRim k f).down = s.down := rfl
@[simp] theorem State.modRim_flitErr (s : State) (k : Nat) (f : Rim → Rim) : (s.modRim k f).flitErr = s.flitErr := rfl
@[simp] theorem State.modRim_evq (s : State) (k : Nat) (f : Rim → Rim) : (s.modRim k f).evq = s.evq := rfl
@[simp] theorem State.modRim_linkHeld (s : State) (k : Nat) (f : Rim → Rim) : (s.modRim k f).linkHeld = s.linkHeld := rfl
@[simp] theorem State.modRim_linkOwed (s : State) (k : Nat) (f : Rim → Rim) : (s.modRim k f).linkOwed = s.linkOwed := rfl
@[simp] theorem State.modRim_move (s : State) (k : Nat) (f : Rim → Rim) : (s.modRim k f).move = s.move := rfl
@[simp] theorem State.modRim_evrb (s : State) (k : Nat) (f : Rim → Rim) : (s.modRim k f).evrb = s.evrb := rfl
@[simp] theorem State.modRim_evpw (s : State) (k : Nat) (f : Rim → Rim) : (s.modRim k f).evpw = s.evpw := rfl
@[simp] theorem State.modRim_evcons (s : State) (k : Nat) (f : Rim → Rim) : (s.modRim k f).evcons = s.evcons := rfl
@[simp] theorem State.modRim_evprod (s : State) (k : Nat) (f : Rim → Rim) : (s.modRim k f).evprod = s.evprod := rfl
@[simp] theorem State.modRim_resvs (s : State) (k : Nat) (f : Rim → Rim) : (s.modRim k f).resvs = s.resvs := rfl
@[simp] theorem State.modRim_waiters (s : State) (k : Nat) (f : Rim → Rim) : (s.modRim k f).waiters = s.waiters := rfl
@[simp] theorem State.modRim_ranker (s : State) (k : Nat) (f : Rim → Rim) : (s.modRim k f).ranker = s.ranker := rfl
@[simp] theorem State.modRim_pkts (s : State) (k : Nat) (f : Rim → Rim) : (s.modRim k f).pkts = s.pkts := rfl
@[simp] theorem State.modRim_retries (s : State) (k : Nat) (f : Rim → Rim) : (s.modRim k f).retries = s.retries := rfl
@[simp] theorem State.modRim_outbox (s : State) (k : Nat) (f : Rim → Rim) : (s.modRim k f).outbox = s.outbox := rfl
@[simp] theorem State.modRim_ld0 (s : State) (k : Nat) (f : Rim → Rim) : (s.modRim k f).ld0 = s.ld0 := rfl
@[simp] theorem State.modRim_releases (s : State) (k : Nat) (f : Rim → Rim) : (s.modRim k f).releases = s.releases := rfl
@[simp] theorem State.modRim_xstores (s : State) (k : Nat) (f : Rim → Rim) : (s.modRim k f).xstores = s.xstores := rfl
@[simp] theorem State.modRim_xaborts (s : State) (k : Nat) (f : Rim → Rim) : (s.modRim k f).xaborts = s.xaborts := rfl
@[simp] theorem State.modRim_hostOut (s : State) (k : Nat) (f : Rim → Rim) : (s.modRim k f).hostOut = s.hostOut := rfl
@[simp] theorem State.modRim_hpq (s : State) (k : Nat) (f : Rim → Rim) : (s.modRim k f).hpq = s.hpq := rfl
@[simp] theorem State.modRim_gateRefuse (s : State) (k : Nat) (f : Rim → Rim) : (s.modRim k f).gateRefuse = s.gateRefuse := rfl
@[simp] theorem State.modRim_quenches (s : State) (k : Nat) (f : Rim → Rim) : (s.modRim k f).quenches = s.quenches := rfl
@[simp] theorem State.modRim_boot (s : State) (k : Nat) (f : Rim → Rim) : (s.modRim k f).boot = s.boot := rfl
@[simp] theorem State.modRim_feat (s : State) (k : Nat) (f : Rim → Rim) : (s.modRim k f).feat = s.feat := rfl
@[simp] theorem State.modRim_moduleNo (s : State) (k : Nat) (f : Rim → Rim) : (s.modRim k f).moduleNo = s.moduleNo := rfl
@[simp] theorem State.modRim_ts (s : State) (k : Nat) (f : Rim → Rim) : (s.modRim k f).ts = s.ts := rfl
@[simp] theorem State.modRim_frozen (s : State) (k : Nat) (f : Rim → Rim) : (s.modRim k f).frozen = s.frozen := rfl
@[simp] theorem State.modRim_free (s : State) (k : Nat) (f : Rim → Rim) : (s.modRim k f).free = s.free := rfl
@[simp] theorem State.modRim_agenda (s : State) (k : Nat) (f : Rim → Rim) : (s.modRim k f).agenda = s.agenda := rfl
@[simp] theorem State.modRim_cur (s : State) (k : Nat) (f : Rim → Rim) : (s.modRim k f).cur = s.cur := rfl
@[simp] theorem State.modRim_arg (s : State) (k : Nat) (f : Rim → Rim) : (s.modRim k f).arg = s.arg := rfl

@[simp] theorem State.setSpire_mem (s : State) (d l : Nat) (x : Spire) : (s.setSpire d l x).mem = s.mem := rfl
@[simp] theorem State.setSpire_tags (s : State) (d l : Nat) (x : Spire) : (s.setSpire d l x).tags = s.tags := rfl
@[simp] theorem State.setSpire_errs (s : State) (d l : Nat) (x : Spire) : (s.setSpire d l x).errs = s.errs := rfl
@[simp] theorem State.setSpire_lag (s : State) (d l : Nat) (x : Spire) : (s.setSpire d l x).lag = s.lag := rfl
@[simp] theorem State.setSpire_writes (s : State) (d l : Nat) (x : Spire) : (s.setSpire d l x).writes = s.writes := rfl
@[simp] theorem State.setSpire_seen (s : State) (d l : Nat) (x : Spire) : (s.setSpire d l x).seen = s.seen := rfl
@[simp] theorem State.setSpire_maker (s : State) (d l : Nat) (x : Spire) : (s.setSpire d l x).maker = s.maker := rfl
@[simp] theorem State.setSpire_rels (s : State) (d l : Nat) (x : Spire) : (s.setSpire d l x).rels = s.rels := rfl
@[simp] theorem State.setSpire_heard (s : State) (d l : Nat) (x : Spire) : (s.setSpire d l x).heard = s.heard := rfl
@[simp] theorem State.setSpire_slots (s : State) (d l : Nat) (x : Spire) : (s.setSpire d l x).slots = s.slots := rfl
@[simp] theorem State.setSpire_cores (s : State) (d l : Nat) (x : Spire) : (s.setSpire d l x).cores = s.cores := rfl
@[simp] theorem State.setSpire_beds (s : State) (d l : Nat) (x : Spire) : (s.setSpire d l x).beds = s.beds := rfl
@[simp] theorem State.setSpire_rims (s : State) (d l : Nat) (x : Spire) : (s.setSpire d l x).rims = s.rims := rfl
@[simp] theorem State.setSpire_linkCache (s : State) (d l : Nat) (x : Spire) : (s.setSpire d l x).linkCache = s.linkCache := rfl
@[simp] theorem State.setSpire_turnmask (s : State) (d l : Nat) (x : Spire) : (s.setSpire d l x).turnmask = s.turnmask := rfl
@[simp] theorem State.setSpire_down (s : State) (d l : Nat) (x : Spire) : (s.setSpire d l x).down = s.down := rfl
@[simp] theorem State.setSpire_flitErr (s : State) (d l : Nat) (x : Spire) : (s.setSpire d l x).flitErr = s.flitErr := rfl
@[simp] theorem State.setSpire_evq (s : State) (d l : Nat) (x : Spire) : (s.setSpire d l x).evq = s.evq := rfl
@[simp] theorem State.setSpire_linkHeld (s : State) (d l : Nat) (x : Spire) : (s.setSpire d l x).linkHeld = s.linkHeld := rfl
@[simp] theorem State.setSpire_linkOwed (s : State) (d l : Nat) (x : Spire) : (s.setSpire d l x).linkOwed = s.linkOwed := rfl
@[simp] theorem State.setSpire_move (s : State) (d l : Nat) (x : Spire) : (s.setSpire d l x).move = s.move := rfl
@[simp] theorem State.setSpire_evrb (s : State) (d l : Nat) (x : Spire) : (s.setSpire d l x).evrb = s.evrb := rfl
@[simp] theorem State.setSpire_evpw (s : State) (d l : Nat) (x : Spire) : (s.setSpire d l x).evpw = s.evpw := rfl
@[simp] theorem State.setSpire_evcons (s : State) (d l : Nat) (x : Spire) : (s.setSpire d l x).evcons = s.evcons := rfl
@[simp] theorem State.setSpire_evprod (s : State) (d l : Nat) (x : Spire) : (s.setSpire d l x).evprod = s.evprod := rfl
@[simp] theorem State.setSpire_resvs (s : State) (d l : Nat) (x : Spire) : (s.setSpire d l x).resvs = s.resvs := rfl
@[simp] theorem State.setSpire_waiters (s : State) (d l : Nat) (x : Spire) : (s.setSpire d l x).waiters = s.waiters := rfl
@[simp] theorem State.setSpire_ranker (s : State) (d l : Nat) (x : Spire) : (s.setSpire d l x).ranker = s.ranker := rfl
@[simp] theorem State.setSpire_pkts (s : State) (d l : Nat) (x : Spire) : (s.setSpire d l x).pkts = s.pkts := rfl
@[simp] theorem State.setSpire_retries (s : State) (d l : Nat) (x : Spire) : (s.setSpire d l x).retries = s.retries := rfl
@[simp] theorem State.setSpire_outbox (s : State) (d l : Nat) (x : Spire) : (s.setSpire d l x).outbox = s.outbox := rfl
@[simp] theorem State.setSpire_ld0 (s : State) (d l : Nat) (x : Spire) : (s.setSpire d l x).ld0 = s.ld0 := rfl
@[simp] theorem State.setSpire_releases (s : State) (d l : Nat) (x : Spire) : (s.setSpire d l x).releases = s.releases := rfl
@[simp] theorem State.setSpire_xstores (s : State) (d l : Nat) (x : Spire) : (s.setSpire d l x).xstores = s.xstores := rfl
@[simp] theorem State.setSpire_xaborts (s : State) (d l : Nat) (x : Spire) : (s.setSpire d l x).xaborts = s.xaborts := rfl
@[simp] theorem State.setSpire_hostOut (s : State) (d l : Nat) (x : Spire) : (s.setSpire d l x).hostOut = s.hostOut := rfl
@[simp] theorem State.setSpire_hpq (s : State) (d l : Nat) (x : Spire) : (s.setSpire d l x).hpq = s.hpq := rfl
@[simp] theorem State.setSpire_gateRefuse (s : State) (d l : Nat) (x : Spire) : (s.setSpire d l x).gateRefuse = s.gateRefuse := rfl
@[simp] theorem State.setSpire_quenches (s : State) (d l : Nat) (x : Spire) : (s.setSpire d l x).quenches = s.quenches := rfl
@[simp] theorem State.setSpire_boot (s : State) (d l : Nat) (x : Spire) : (s.setSpire d l x).boot = s.boot := rfl
@[simp] theorem State.setSpire_feat (s : State) (d l : Nat) (x : Spire) : (s.setSpire d l x).feat = s.feat := rfl
@[simp] theorem State.setSpire_moduleNo (s : State) (d l : Nat) (x : Spire) : (s.setSpire d l x).moduleNo = s.moduleNo := rfl
@[simp] theorem State.setSpire_ts (s : State) (d l : Nat) (x : Spire) : (s.setSpire d l x).ts = s.ts := rfl
@[simp] theorem State.setSpire_frozen (s : State) (d l : Nat) (x : Spire) : (s.setSpire d l x).frozen = s.frozen := rfl
@[simp] theorem State.setSpire_free (s : State) (d l : Nat) (x : Spire) : (s.setSpire d l x).free = s.free := rfl
@[simp] theorem State.setSpire_agenda (s : State) (d l : Nat) (x : Spire) : (s.setSpire d l x).agenda = s.agenda := rfl
@[simp] theorem State.setSpire_cur (s : State) (d l : Nat) (x : Spire) : (s.setSpire d l x).cur = s.cur := rfl
@[simp] theorem State.setSpire_arg (s : State) (d l : Nat) (x : Spire) : (s.setSpire d l x).arg = s.arg := rfl

@[simp] theorem State.modTh_mem (s : State) (f : Thread → Thread) : (s.modTh f).mem = s.mem := rfl
@[simp] theorem State.modTh_tags (s : State) (f : Thread → Thread) : (s.modTh f).tags = s.tags := rfl
@[simp] theorem State.modTh_errs (s : State) (f : Thread → Thread) : (s.modTh f).errs = s.errs := rfl
@[simp] theorem State.modTh_lag (s : State) (f : Thread → Thread) : (s.modTh f).lag = s.lag := rfl
@[simp] theorem State.modTh_writes (s : State) (f : Thread → Thread) : (s.modTh f).writes = s.writes := rfl
@[simp] theorem State.modTh_seen (s : State) (f : Thread → Thread) : (s.modTh f).seen = s.seen := rfl
@[simp] theorem State.modTh_maker (s : State) (f : Thread → Thread) : (s.modTh f).maker = s.maker := rfl
@[simp] theorem State.modTh_rels (s : State) (f : Thread → Thread) : (s.modTh f).rels = s.rels := rfl
@[simp] theorem State.modTh_heard (s : State) (f : Thread → Thread) : (s.modTh f).heard = s.heard := rfl
@[simp] theorem State.modTh_cores (s : State) (f : Thread → Thread) : (s.modTh f).cores = s.cores := rfl
@[simp] theorem State.modTh_beds (s : State) (f : Thread → Thread) : (s.modTh f).beds = s.beds := rfl
@[simp] theorem State.modTh_rims (s : State) (f : Thread → Thread) : (s.modTh f).rims = s.rims := rfl
@[simp] theorem State.modTh_spires (s : State) (f : Thread → Thread) : (s.modTh f).spires = s.spires := rfl
@[simp] theorem State.modTh_linkCache (s : State) (f : Thread → Thread) : (s.modTh f).linkCache = s.linkCache := rfl
@[simp] theorem State.modTh_turnmask (s : State) (f : Thread → Thread) : (s.modTh f).turnmask = s.turnmask := rfl
@[simp] theorem State.modTh_down (s : State) (f : Thread → Thread) : (s.modTh f).down = s.down := rfl
@[simp] theorem State.modTh_flitErr (s : State) (f : Thread → Thread) : (s.modTh f).flitErr = s.flitErr := rfl
@[simp] theorem State.modTh_evq (s : State) (f : Thread → Thread) : (s.modTh f).evq = s.evq := rfl
@[simp] theorem State.modTh_linkHeld (s : State) (f : Thread → Thread) : (s.modTh f).linkHeld = s.linkHeld := rfl
@[simp] theorem State.modTh_linkOwed (s : State) (f : Thread → Thread) : (s.modTh f).linkOwed = s.linkOwed := rfl
@[simp] theorem State.modTh_move (s : State) (f : Thread → Thread) : (s.modTh f).move = s.move := rfl
@[simp] theorem State.modTh_evrb (s : State) (f : Thread → Thread) : (s.modTh f).evrb = s.evrb := rfl
@[simp] theorem State.modTh_evpw (s : State) (f : Thread → Thread) : (s.modTh f).evpw = s.evpw := rfl
@[simp] theorem State.modTh_evcons (s : State) (f : Thread → Thread) : (s.modTh f).evcons = s.evcons := rfl
@[simp] theorem State.modTh_evprod (s : State) (f : Thread → Thread) : (s.modTh f).evprod = s.evprod := rfl
@[simp] theorem State.modTh_resvs (s : State) (f : Thread → Thread) : (s.modTh f).resvs = s.resvs := rfl
@[simp] theorem State.modTh_waiters (s : State) (f : Thread → Thread) : (s.modTh f).waiters = s.waiters := rfl
@[simp] theorem State.modTh_ranker (s : State) (f : Thread → Thread) : (s.modTh f).ranker = s.ranker := rfl
@[simp] theorem State.modTh_pkts (s : State) (f : Thread → Thread) : (s.modTh f).pkts = s.pkts := rfl
@[simp] theorem State.modTh_retries (s : State) (f : Thread → Thread) : (s.modTh f).retries = s.retries := rfl
@[simp] theorem State.modTh_outbox (s : State) (f : Thread → Thread) : (s.modTh f).outbox = s.outbox := rfl
@[simp] theorem State.modTh_ld0 (s : State) (f : Thread → Thread) : (s.modTh f).ld0 = s.ld0 := rfl
@[simp] theorem State.modTh_releases (s : State) (f : Thread → Thread) : (s.modTh f).releases = s.releases := rfl
@[simp] theorem State.modTh_xstores (s : State) (f : Thread → Thread) : (s.modTh f).xstores = s.xstores := rfl
@[simp] theorem State.modTh_xaborts (s : State) (f : Thread → Thread) : (s.modTh f).xaborts = s.xaborts := rfl
@[simp] theorem State.modTh_hostOut (s : State) (f : Thread → Thread) : (s.modTh f).hostOut = s.hostOut := rfl
@[simp] theorem State.modTh_hpq (s : State) (f : Thread → Thread) : (s.modTh f).hpq = s.hpq := rfl
@[simp] theorem State.modTh_gateRefuse (s : State) (f : Thread → Thread) : (s.modTh f).gateRefuse = s.gateRefuse := rfl
@[simp] theorem State.modTh_quenches (s : State) (f : Thread → Thread) : (s.modTh f).quenches = s.quenches := rfl
@[simp] theorem State.modTh_boot (s : State) (f : Thread → Thread) : (s.modTh f).boot = s.boot := rfl
@[simp] theorem State.modTh_feat (s : State) (f : Thread → Thread) : (s.modTh f).feat = s.feat := rfl
@[simp] theorem State.modTh_moduleNo (s : State) (f : Thread → Thread) : (s.modTh f).moduleNo = s.moduleNo := rfl
@[simp] theorem State.modTh_ts (s : State) (f : Thread → Thread) : (s.modTh f).ts = s.ts := rfl
@[simp] theorem State.modTh_frozen (s : State) (f : Thread → Thread) : (s.modTh f).frozen = s.frozen := rfl
@[simp] theorem State.modTh_free (s : State) (f : Thread → Thread) : (s.modTh f).free = s.free := rfl
@[simp] theorem State.modTh_agenda (s : State) (f : Thread → Thread) : (s.modTh f).agenda = s.agenda := rfl
@[simp] theorem State.modTh_cur (s : State) (f : Thread → Thread) : (s.modTh f).cur = s.cur := rfl
@[simp] theorem State.modTh_arg (s : State) (f : Thread → Thread) : (s.modTh f).arg = s.arg := rfl

@[simp] theorem State.modHere_mem (s : State) (f : Slot → Slot) : (s.modHere f).mem = s.mem := rfl
@[simp] theorem State.modHere_tags (s : State) (f : Slot → Slot) : (s.modHere f).tags = s.tags := rfl
@[simp] theorem State.modHere_errs (s : State) (f : Slot → Slot) : (s.modHere f).errs = s.errs := rfl
@[simp] theorem State.modHere_lag (s : State) (f : Slot → Slot) : (s.modHere f).lag = s.lag := rfl
@[simp] theorem State.modHere_writes (s : State) (f : Slot → Slot) : (s.modHere f).writes = s.writes := rfl
@[simp] theorem State.modHere_seen (s : State) (f : Slot → Slot) : (s.modHere f).seen = s.seen := rfl
@[simp] theorem State.modHere_maker (s : State) (f : Slot → Slot) : (s.modHere f).maker = s.maker := rfl
@[simp] theorem State.modHere_rels (s : State) (f : Slot → Slot) : (s.modHere f).rels = s.rels := rfl
@[simp] theorem State.modHere_heard (s : State) (f : Slot → Slot) : (s.modHere f).heard = s.heard := rfl
@[simp] theorem State.modHere_cores (s : State) (f : Slot → Slot) : (s.modHere f).cores = s.cores := rfl
@[simp] theorem State.modHere_beds (s : State) (f : Slot → Slot) : (s.modHere f).beds = s.beds := rfl
@[simp] theorem State.modHere_rims (s : State) (f : Slot → Slot) : (s.modHere f).rims = s.rims := rfl
@[simp] theorem State.modHere_spires (s : State) (f : Slot → Slot) : (s.modHere f).spires = s.spires := rfl
@[simp] theorem State.modHere_linkCache (s : State) (f : Slot → Slot) : (s.modHere f).linkCache = s.linkCache := rfl
@[simp] theorem State.modHere_turnmask (s : State) (f : Slot → Slot) : (s.modHere f).turnmask = s.turnmask := rfl
@[simp] theorem State.modHere_down (s : State) (f : Slot → Slot) : (s.modHere f).down = s.down := rfl
@[simp] theorem State.modHere_flitErr (s : State) (f : Slot → Slot) : (s.modHere f).flitErr = s.flitErr := rfl
@[simp] theorem State.modHere_evq (s : State) (f : Slot → Slot) : (s.modHere f).evq = s.evq := rfl
@[simp] theorem State.modHere_linkHeld (s : State) (f : Slot → Slot) : (s.modHere f).linkHeld = s.linkHeld := rfl
@[simp] theorem State.modHere_linkOwed (s : State) (f : Slot → Slot) : (s.modHere f).linkOwed = s.linkOwed := rfl
@[simp] theorem State.modHere_move (s : State) (f : Slot → Slot) : (s.modHere f).move = s.move := rfl
@[simp] theorem State.modHere_evrb (s : State) (f : Slot → Slot) : (s.modHere f).evrb = s.evrb := rfl
@[simp] theorem State.modHere_evpw (s : State) (f : Slot → Slot) : (s.modHere f).evpw = s.evpw := rfl
@[simp] theorem State.modHere_evcons (s : State) (f : Slot → Slot) : (s.modHere f).evcons = s.evcons := rfl
@[simp] theorem State.modHere_evprod (s : State) (f : Slot → Slot) : (s.modHere f).evprod = s.evprod := rfl
@[simp] theorem State.modHere_resvs (s : State) (f : Slot → Slot) : (s.modHere f).resvs = s.resvs := rfl
@[simp] theorem State.modHere_waiters (s : State) (f : Slot → Slot) : (s.modHere f).waiters = s.waiters := rfl
@[simp] theorem State.modHere_ranker (s : State) (f : Slot → Slot) : (s.modHere f).ranker = s.ranker := rfl
@[simp] theorem State.modHere_pkts (s : State) (f : Slot → Slot) : (s.modHere f).pkts = s.pkts := rfl
@[simp] theorem State.modHere_retries (s : State) (f : Slot → Slot) : (s.modHere f).retries = s.retries := rfl
@[simp] theorem State.modHere_outbox (s : State) (f : Slot → Slot) : (s.modHere f).outbox = s.outbox := rfl
@[simp] theorem State.modHere_ld0 (s : State) (f : Slot → Slot) : (s.modHere f).ld0 = s.ld0 := rfl
@[simp] theorem State.modHere_releases (s : State) (f : Slot → Slot) : (s.modHere f).releases = s.releases := rfl
@[simp] theorem State.modHere_xstores (s : State) (f : Slot → Slot) : (s.modHere f).xstores = s.xstores := rfl
@[simp] theorem State.modHere_xaborts (s : State) (f : Slot → Slot) : (s.modHere f).xaborts = s.xaborts := rfl
@[simp] theorem State.modHere_hostOut (s : State) (f : Slot → Slot) : (s.modHere f).hostOut = s.hostOut := rfl
@[simp] theorem State.modHere_hpq (s : State) (f : Slot → Slot) : (s.modHere f).hpq = s.hpq := rfl
@[simp] theorem State.modHere_gateRefuse (s : State) (f : Slot → Slot) : (s.modHere f).gateRefuse = s.gateRefuse := rfl
@[simp] theorem State.modHere_quenches (s : State) (f : Slot → Slot) : (s.modHere f).quenches = s.quenches := rfl
@[simp] theorem State.modHere_boot (s : State) (f : Slot → Slot) : (s.modHere f).boot = s.boot := rfl
@[simp] theorem State.modHere_feat (s : State) (f : Slot → Slot) : (s.modHere f).feat = s.feat := rfl
@[simp] theorem State.modHere_moduleNo (s : State) (f : Slot → Slot) : (s.modHere f).moduleNo = s.moduleNo := rfl
@[simp] theorem State.modHere_ts (s : State) (f : Slot → Slot) : (s.modHere f).ts = s.ts := rfl
@[simp] theorem State.modHere_frozen (s : State) (f : Slot → Slot) : (s.modHere f).frozen = s.frozen := rfl
@[simp] theorem State.modHere_free (s : State) (f : Slot → Slot) : (s.modHere f).free = s.free := rfl
@[simp] theorem State.modHere_agenda (s : State) (f : Slot → Slot) : (s.modHere f).agenda = s.agenda := rfl
@[simp] theorem State.modHere_cur (s : State) (f : Slot → Slot) : (s.modHere f).cur = s.cur := rfl
@[simp] theorem State.modHere_arg (s : State) (f : Slot → Slot) : (s.modHere f).arg = s.arg := rfl

@[simp] theorem State.setG_mem (s : State) (r : BitVec 5) (v : Word) : (s.setG r v).mem = s.mem := rfl
@[simp] theorem State.setG_tags (s : State) (r : BitVec 5) (v : Word) : (s.setG r v).tags = s.tags := rfl
@[simp] theorem State.setG_errs (s : State) (r : BitVec 5) (v : Word) : (s.setG r v).errs = s.errs := rfl
@[simp] theorem State.setG_lag (s : State) (r : BitVec 5) (v : Word) : (s.setG r v).lag = s.lag := rfl
@[simp] theorem State.setG_writes (s : State) (r : BitVec 5) (v : Word) : (s.setG r v).writes = s.writes := rfl
@[simp] theorem State.setG_seen (s : State) (r : BitVec 5) (v : Word) : (s.setG r v).seen = s.seen := rfl
@[simp] theorem State.setG_maker (s : State) (r : BitVec 5) (v : Word) : (s.setG r v).maker = s.maker := rfl
@[simp] theorem State.setG_rels (s : State) (r : BitVec 5) (v : Word) : (s.setG r v).rels = s.rels := rfl
@[simp] theorem State.setG_heard (s : State) (r : BitVec 5) (v : Word) : (s.setG r v).heard = s.heard := rfl
@[simp] theorem State.setG_cores (s : State) (r : BitVec 5) (v : Word) : (s.setG r v).cores = s.cores := rfl
@[simp] theorem State.setG_beds (s : State) (r : BitVec 5) (v : Word) : (s.setG r v).beds = s.beds := rfl
@[simp] theorem State.setG_rims (s : State) (r : BitVec 5) (v : Word) : (s.setG r v).rims = s.rims := rfl
@[simp] theorem State.setG_spires (s : State) (r : BitVec 5) (v : Word) : (s.setG r v).spires = s.spires := rfl
@[simp] theorem State.setG_linkCache (s : State) (r : BitVec 5) (v : Word) : (s.setG r v).linkCache = s.linkCache := rfl
@[simp] theorem State.setG_turnmask (s : State) (r : BitVec 5) (v : Word) : (s.setG r v).turnmask = s.turnmask := rfl
@[simp] theorem State.setG_down (s : State) (r : BitVec 5) (v : Word) : (s.setG r v).down = s.down := rfl
@[simp] theorem State.setG_flitErr (s : State) (r : BitVec 5) (v : Word) : (s.setG r v).flitErr = s.flitErr := rfl
@[simp] theorem State.setG_evq (s : State) (r : BitVec 5) (v : Word) : (s.setG r v).evq = s.evq := rfl
@[simp] theorem State.setG_linkHeld (s : State) (r : BitVec 5) (v : Word) : (s.setG r v).linkHeld = s.linkHeld := rfl
@[simp] theorem State.setG_linkOwed (s : State) (r : BitVec 5) (v : Word) : (s.setG r v).linkOwed = s.linkOwed := rfl
@[simp] theorem State.setG_move (s : State) (r : BitVec 5) (v : Word) : (s.setG r v).move = s.move := rfl
@[simp] theorem State.setG_evrb (s : State) (r : BitVec 5) (v : Word) : (s.setG r v).evrb = s.evrb := rfl
@[simp] theorem State.setG_evpw (s : State) (r : BitVec 5) (v : Word) : (s.setG r v).evpw = s.evpw := rfl
@[simp] theorem State.setG_evcons (s : State) (r : BitVec 5) (v : Word) : (s.setG r v).evcons = s.evcons := rfl
@[simp] theorem State.setG_evprod (s : State) (r : BitVec 5) (v : Word) : (s.setG r v).evprod = s.evprod := rfl
@[simp] theorem State.setG_resvs (s : State) (r : BitVec 5) (v : Word) : (s.setG r v).resvs = s.resvs := rfl
@[simp] theorem State.setG_waiters (s : State) (r : BitVec 5) (v : Word) : (s.setG r v).waiters = s.waiters := rfl
@[simp] theorem State.setG_ranker (s : State) (r : BitVec 5) (v : Word) : (s.setG r v).ranker = s.ranker := rfl
@[simp] theorem State.setG_pkts (s : State) (r : BitVec 5) (v : Word) : (s.setG r v).pkts = s.pkts := rfl
@[simp] theorem State.setG_retries (s : State) (r : BitVec 5) (v : Word) : (s.setG r v).retries = s.retries := rfl
@[simp] theorem State.setG_outbox (s : State) (r : BitVec 5) (v : Word) : (s.setG r v).outbox = s.outbox := rfl
@[simp] theorem State.setG_ld0 (s : State) (r : BitVec 5) (v : Word) : (s.setG r v).ld0 = s.ld0 := rfl
@[simp] theorem State.setG_releases (s : State) (r : BitVec 5) (v : Word) : (s.setG r v).releases = s.releases := rfl
@[simp] theorem State.setG_xstores (s : State) (r : BitVec 5) (v : Word) : (s.setG r v).xstores = s.xstores := rfl
@[simp] theorem State.setG_xaborts (s : State) (r : BitVec 5) (v : Word) : (s.setG r v).xaborts = s.xaborts := rfl
@[simp] theorem State.setG_hostOut (s : State) (r : BitVec 5) (v : Word) : (s.setG r v).hostOut = s.hostOut := rfl
@[simp] theorem State.setG_hpq (s : State) (r : BitVec 5) (v : Word) : (s.setG r v).hpq = s.hpq := rfl
@[simp] theorem State.setG_gateRefuse (s : State) (r : BitVec 5) (v : Word) : (s.setG r v).gateRefuse = s.gateRefuse := rfl
@[simp] theorem State.setG_quenches (s : State) (r : BitVec 5) (v : Word) : (s.setG r v).quenches = s.quenches := rfl
@[simp] theorem State.setG_boot (s : State) (r : BitVec 5) (v : Word) : (s.setG r v).boot = s.boot := rfl
@[simp] theorem State.setG_feat (s : State) (r : BitVec 5) (v : Word) : (s.setG r v).feat = s.feat := rfl
@[simp] theorem State.setG_moduleNo (s : State) (r : BitVec 5) (v : Word) : (s.setG r v).moduleNo = s.moduleNo := rfl
@[simp] theorem State.setG_ts (s : State) (r : BitVec 5) (v : Word) : (s.setG r v).ts = s.ts := rfl
@[simp] theorem State.setG_frozen (s : State) (r : BitVec 5) (v : Word) : (s.setG r v).frozen = s.frozen := rfl
@[simp] theorem State.setG_free (s : State) (r : BitVec 5) (v : Word) : (s.setG r v).free = s.free := rfl
@[simp] theorem State.setG_agenda (s : State) (r : BitVec 5) (v : Word) : (s.setG r v).agenda = s.agenda := rfl
@[simp] theorem State.setG_cur (s : State) (r : BitVec 5) (v : Word) : (s.setG r v).cur = s.cur := rfl
@[simp] theorem State.setG_arg (s : State) (r : BitVec 5) (v : Word) : (s.setG r v).arg = s.arg := rfl

@[simp] theorem State.tick_mem (s : State) : s.tick.mem = s.mem := rfl
@[simp] theorem State.tick_tags (s : State) : s.tick.tags = s.tags := rfl
@[simp] theorem State.tick_errs (s : State) : s.tick.errs = s.errs := rfl
@[simp] theorem State.tick_lag (s : State) : s.tick.lag = s.lag := rfl
@[simp] theorem State.tick_writes (s : State) : s.tick.writes = s.writes := rfl
@[simp] theorem State.tick_seen (s : State) : s.tick.seen = s.seen := rfl
@[simp] theorem State.tick_maker (s : State) : s.tick.maker = s.maker := rfl
@[simp] theorem State.tick_rels (s : State) : s.tick.rels = s.rels := rfl
@[simp] theorem State.tick_heard (s : State) : s.tick.heard = s.heard := rfl
@[simp] theorem State.tick_slots (s : State) : s.tick.slots = s.slots := rfl
@[simp] theorem State.tick_cores (s : State) : s.tick.cores = s.cores := rfl
@[simp] theorem State.tick_beds (s : State) : s.tick.beds = s.beds := rfl
@[simp] theorem State.tick_rims (s : State) : s.tick.rims = s.rims := rfl
@[simp] theorem State.tick_spires (s : State) : s.tick.spires = s.spires := rfl
@[simp] theorem State.tick_linkCache (s : State) : s.tick.linkCache = s.linkCache := rfl
@[simp] theorem State.tick_turnmask (s : State) : s.tick.turnmask = s.turnmask := rfl
@[simp] theorem State.tick_down (s : State) : s.tick.down = s.down := rfl
@[simp] theorem State.tick_flitErr (s : State) : s.tick.flitErr = s.flitErr := rfl
@[simp] theorem State.tick_evq (s : State) : s.tick.evq = s.evq := rfl
@[simp] theorem State.tick_linkHeld (s : State) : s.tick.linkHeld = s.linkHeld := rfl
@[simp] theorem State.tick_linkOwed (s : State) : s.tick.linkOwed = s.linkOwed := rfl
@[simp] theorem State.tick_move (s : State) : s.tick.move = s.move := rfl
@[simp] theorem State.tick_evrb (s : State) : s.tick.evrb = s.evrb := rfl
@[simp] theorem State.tick_evpw (s : State) : s.tick.evpw = s.evpw := rfl
@[simp] theorem State.tick_evcons (s : State) : s.tick.evcons = s.evcons := rfl
@[simp] theorem State.tick_evprod (s : State) : s.tick.evprod = s.evprod := rfl
@[simp] theorem State.tick_resvs (s : State) : s.tick.resvs = s.resvs := rfl
@[simp] theorem State.tick_waiters (s : State) : s.tick.waiters = s.waiters := rfl
@[simp] theorem State.tick_ranker (s : State) : s.tick.ranker = s.ranker := rfl
@[simp] theorem State.tick_pkts (s : State) : s.tick.pkts = s.pkts := rfl
@[simp] theorem State.tick_retries (s : State) : s.tick.retries = s.retries := rfl
@[simp] theorem State.tick_outbox (s : State) : s.tick.outbox = s.outbox := rfl
@[simp] theorem State.tick_ld0 (s : State) : s.tick.ld0 = s.ld0 := rfl
@[simp] theorem State.tick_releases (s : State) : s.tick.releases = s.releases := rfl
@[simp] theorem State.tick_xstores (s : State) : s.tick.xstores = s.xstores := rfl
@[simp] theorem State.tick_xaborts (s : State) : s.tick.xaborts = s.xaborts := rfl
@[simp] theorem State.tick_hostOut (s : State) : s.tick.hostOut = s.hostOut := rfl
@[simp] theorem State.tick_hpq (s : State) : s.tick.hpq = s.hpq := rfl
@[simp] theorem State.tick_gateRefuse (s : State) : s.tick.gateRefuse = s.gateRefuse := rfl
@[simp] theorem State.tick_quenches (s : State) : s.tick.quenches = s.quenches := rfl
@[simp] theorem State.tick_boot (s : State) : s.tick.boot = s.boot := rfl
@[simp] theorem State.tick_feat (s : State) : s.tick.feat = s.feat := rfl
@[simp] theorem State.tick_moduleNo (s : State) : s.tick.moduleNo = s.moduleNo := rfl
@[simp] theorem State.tick_ts (s : State) : s.tick.ts = s.ts := rfl
@[simp] theorem State.tick_frozen (s : State) : s.tick.frozen = s.frozen := rfl
@[simp] theorem State.tick_agenda (s : State) : s.tick.agenda = s.agenda := rfl
@[simp] theorem State.tick_cur (s : State) : s.tick.cur = s.cur := rfl
@[simp] theorem State.tick_arg (s : State) : s.tick.arg = s.arg := rfl

@[simp] theorem State.tick_free (s : State) : s.tick.free = s.free + 1 := rfl

/-! ### Reads after updates -/

@[simp] theorem State.slot_setSlot (s : State) (p : Place) (x : Slot) : (s.setSlot p x).slot p = x := Tbl.get_set_same _ _ _ _
@[simp] theorem State.slot_modSlot (s : State) (p : Place) (f : Slot → Slot) : (s.modSlot p f).slot p = f (s.slot p) := Tbl.get_set_same _ _ _ _
theorem State.slot_setSlot_other (s : State) (p q : Place) (x : Slot) (h : slotKey q ≠ slotKey p) : (s.setSlot p x).slot q = s.slot q :=
  Tbl.get_set_other _ _ _ _ _ h
theorem State.slot_modSlot_other (s : State) (p q : Place) (f : Slot → Slot) (h : slotKey q ≠ slotKey p) : (s.modSlot p f).slot q = s.slot q :=
  Tbl.get_set_other _ _ _ _ _ h
@[simp] theorem State.setSlot_setSlot (s : State) (p : Place) (x y : Slot) : (s.setSlot p x).setSlot p y = s.setSlot p y := by
  simp [State.setSlot]
@[simp] theorem State.modSlot_modSlot (s : State) (p : Place) (f g : Slot → Slot) : (s.modSlot p f).modSlot p g = s.modSlot p (g ∘ f) := by
  simp [State.modSlot, State.setSlot, State.slot]
@[simp] theorem State.core_setCore (s : State) (u c : Nat) (x : Core) : (s.setCore u c x).core u c = x := Tbl.get_set_same _ _ _ _
@[simp] theorem State.core_modCore (s : State) (u c : Nat) (f : Core → Core) : (s.modCore u c f).core u c = f (s.core u c) :=
  Tbl.get_set_same _ _ _ _
@[simp] theorem State.bed_setBed (s : State) (b : Nat) (x : Bed) : (s.setBed b x).bed b = x := Tbl.get_set_same _ _ _ _
@[simp] theorem State.bed_modBed (s : State) (b : Nat) (f : Bed → Bed) : (s.modBed b f).bed b = f (s.bed b) := Tbl.get_set_same _ _ _ _
@[simp] theorem State.rim_setRim (s : State) (k : Nat) (x : Rim) : (s.setRim k x).rim k = x := Tbl.get_set_same _ _ _ _
@[simp] theorem State.rim_modRim (s : State) (k : Nat) (f : Rim → Rim) : (s.modRim k f).rim k = f (s.rim k) := Tbl.get_set_same _ _ _ _
@[simp] theorem State.spire_setSpire (s : State) (d l : Nat) (x : Spire) : (s.setSpire d l x).spire d l = x := Tbl.get_set_same _ _ _ _

@[simp] theorem State.core_setSlot (s : State) (p : Place) (x : Slot) (u c : Nat) : (s.setSlot p x).core u c = s.core u c := rfl
@[simp] theorem State.bed_setSlot (s : State) (p : Place) (x : Slot) (i : Nat) : (s.setSlot p x).bed i = s.bed i := rfl
@[simp] theorem State.core_modSlot (s : State) (p : Place) (f : Slot → Slot) (u c : Nat) : (s.modSlot p f).core u c = s.core u c := rfl
@[simp] theorem State.bed_modSlot (s : State) (p : Place) (f : Slot → Slot) (i : Nat) : (s.modSlot p f).bed i = s.bed i := rfl
@[simp] theorem State.slot_setCore (s : State) (u c : Nat) (x : Core) (p : Place) : (s.setCore u c x).slot p = s.slot p := rfl
@[simp] theorem State.bed_setCore (s : State) (u c : Nat) (x : Core) (i : Nat) : (s.setCore u c x).bed i = s.bed i := rfl
@[simp] theorem State.slot_modCore (s : State) (u c : Nat) (f : Core → Core) (p : Place) : (s.modCore u c f).slot p = s.slot p := rfl
@[simp] theorem State.bed_modCore (s : State) (u c : Nat) (f : Core → Core) (i : Nat) : (s.modCore u c f).bed i = s.bed i := rfl
@[simp] theorem State.slot_setBed (s : State) (b : Nat) (x : Bed) (p : Place) : (s.setBed b x).slot p = s.slot p := rfl
@[simp] theorem State.core_setBed (s : State) (b : Nat) (x : Bed) (u c : Nat) : (s.setBed b x).core u c = s.core u c := rfl
@[simp] theorem State.slot_modBed (s : State) (b : Nat) (f : Bed → Bed) (p : Place) : (s.modBed b f).slot p = s.slot p := rfl
@[simp] theorem State.core_modBed (s : State) (b : Nat) (f : Bed → Bed) (u c : Nat) : (s.modBed b f).core u c = s.core u c := rfl
@[simp] theorem State.slot_setRim (s : State) (k : Nat) (x : Rim) (p : Place) : (s.setRim k x).slot p = s.slot p := rfl
@[simp] theorem State.core_setRim (s : State) (k : Nat) (x : Rim) (u c : Nat) : (s.setRim k x).core u c = s.core u c := rfl
@[simp] theorem State.bed_setRim (s : State) (k : Nat) (x : Rim) (i : Nat) : (s.setRim k x).bed i = s.bed i := rfl
@[simp] theorem State.slot_modRim (s : State) (k : Nat) (f : Rim → Rim) (p : Place) : (s.modRim k f).slot p = s.slot p := rfl
@[simp] theorem State.core_modRim (s : State) (k : Nat) (f : Rim → Rim) (u c : Nat) : (s.modRim k f).core u c = s.core u c := rfl
@[simp] theorem State.bed_modRim (s : State) (k : Nat) (f : Rim → Rim) (i : Nat) : (s.modRim k f).bed i = s.bed i := rfl
@[simp] theorem State.slot_setSpire (s : State) (d l : Nat) (x : Spire) (p : Place) : (s.setSpire d l x).slot p = s.slot p := rfl
@[simp] theorem State.core_setSpire (s : State) (d l : Nat) (x : Spire) (u c : Nat) : (s.setSpire d l x).core u c = s.core u c := rfl
@[simp] theorem State.bed_setSpire (s : State) (d l : Nat) (x : Spire) (i : Nat) : (s.setSpire d l x).bed i = s.bed i := rfl
@[simp] theorem State.core_modTh (s : State) (f : Thread → Thread) (u c : Nat) : (s.modTh f).core u c = s.core u c := rfl
@[simp] theorem State.bed_modTh (s : State) (f : Thread → Thread) (i : Nat) : (s.modTh f).bed i = s.bed i := rfl
@[simp] theorem State.core_modHere (s : State) (f : Slot → Slot) (u c : Nat) : (s.modHere f).core u c = s.core u c := rfl
@[simp] theorem State.bed_modHere (s : State) (f : Slot → Slot) (i : Nat) : (s.modHere f).bed i = s.bed i := rfl
@[simp] theorem State.core_setG (s : State) (r : BitVec 5) (v : Word) (u c : Nat) : (s.setG r v).core u c = s.core u c := rfl
@[simp] theorem State.bed_setG (s : State) (r : BitVec 5) (v : Word) (i : Nat) : (s.setG r v).bed i = s.bed i := rfl
@[simp] theorem State.slot_tick (s : State) (p : Place) : s.tick.slot p = s.slot p := rfl
@[simp] theorem State.core_tick (s : State) (u c : Nat) : s.tick.core u c = s.core u c := rfl
@[simp] theorem State.bed_tick (s : State) (i : Nat) : s.tick.bed i = s.bed i := rfl

/-! ### Registers of a thread -/

/-- g0 reads zero (R303). -/
@[simp] theorem Thread.readG_zero (t : Thread) : t.readG 0 = 0 := rfl
/-- A write to g0 is discarded (R284). -/
@[simp] theorem Thread.writeG_zero (t : Thread) (v : Word) : t.writeG 0 v = t := rfl
/-- A written register holds its value. -/
theorem Thread.readG_writeG_same (t : Thread) (r : BitVec 5) (v : Word) (h : r ≠ 0) : (t.writeG r v).readG r = v := by
  unfold Thread.readG Thread.writeG
  rw [if_neg h, if_neg h]
  simp
/-- Every other register is unchanged. -/
theorem Thread.readG_writeG_other (t : Thread) (r q : BitVec 5) (v : Word) (h : q ≠ r) : (t.writeG r v).readG q = t.readG q := by
  have hn : r.toNat ≠ q.toNat := fun e => h (BitVec.eq_of_toNat_eq e.symm)
  unfold Thread.readG Thread.writeG
  by_cases hq : q = 0
  · simp [hq]
  · by_cases hr : r = 0
    · simp [hr]
    · rw [if_neg hq, if_neg hq, if_neg hr]
      simp [Vector.getElem_set, hn]

@[simp] theorem Thread.writeG_v (t : Thread) (r : BitVec 5) (v : Word) : (t.writeG r v).v = t.v := by unfold Thread.writeG; split <;> rfl
@[simp] theorem Thread.writeG_m (t : Thread) (r : BitVec 5) (v : Word) : (t.writeG r v).m = t.m := by unfold Thread.writeG; split <;> rfl
@[simp] theorem Thread.writeG_pc (t : Thread) (r : BitVec 5) (v : Word) : (t.writeG r v).pc = t.pc := by unfold Thread.writeG; split <;> rfl
@[simp] theorem Thread.writeG_mode (t : Thread) (r : BitVec 5) (v : Word) : (t.writeG r v).mode = t.mode := by unfold Thread.writeG; split <;> rfl
@[simp] theorem Thread.writeG_pm (t : Thread) (r : BitVec 5) (v : Word) : (t.writeG r v).pm = t.pm := by unfold Thread.writeG; split <;> rfl
@[simp] theorem Thread.writeG_td (t : Thread) (r : BitVec 5) (v : Word) : (t.writeG r v).td = t.td := by unfold Thread.writeG; split <;> rfl
@[simp] theorem Thread.writeG_ctx (t : Thread) (r : BitVec 5) (v : Word) : (t.writeG r v).ctx = t.ctx := by unfold Thread.writeG; split <;> rfl
@[simp] theorem Thread.writeG_tvec (t : Thread) (r : BitVec 5) (v : Word) : (t.writeG r v).tvec = t.tvec := by unfold Thread.writeG; split <;> rfl
@[simp] theorem Thread.writeG_epc (t : Thread) (r : BitVec 5) (v : Word) : (t.writeG r v).epc = t.epc := by unfold Thread.writeG; split <;> rfl
@[simp] theorem Thread.writeG_ecause (t : Thread) (r : BitVec 5) (v : Word) : (t.writeG r v).ecause = t.ecause := by unfold Thread.writeG; split <;> rfl
@[simp] theorem Thread.writeG_eaddr (t : Thread) (r : BitVec 5) (v : Word) : (t.writeG r v).eaddr = t.eaddr := by unfold Thread.writeG; split <;> rfl
@[simp] theorem Thread.writeG_xlb (t : Thread) (r : BitVec 5) (v : Word) : (t.writeG r v).xlb = t.xlb := by unfold Thread.writeG; split <;> rfl
@[simp] theorem Thread.writeG_xll (t : Thread) (r : BitVec 5) (v : Word) : (t.writeG r v).xll = t.xll := by unfold Thread.writeG; split <;> rfl
@[simp] theorem Thread.writeG_xlc (t : Thread) (r : BitVec 5) (v : Word) : (t.writeG r v).xlc = t.xlc := by unfold Thread.writeG; split <;> rfl
@[simp] theorem Thread.writeG_bbData (t : Thread) (r : BitVec 5) (v : Word) : (t.writeG r v).bbData = t.bbData := by unfold Thread.writeG; split <;> rfl
@[simp] theorem Thread.writeG_bbCount (t : Thread) (r : BitVec 5) (v : Word) : (t.writeG r v).bbCount = t.bbCount := by unfold Thread.writeG; split <;> rfl
@[simp] theorem Thread.writeG_bbPtr (t : Thread) (r : BitVec 5) (v : Word) : (t.writeG r v).bbPtr = t.bbPtr := by unfold Thread.writeG; split <;> rfl

end Sys2Proof.Machine
end

