-- ==== Sys2Proof/Laws/Mem.lean ====
section
/-! SUPPORT. Storage: the canonical form is kept by every memory operation, a read after a write to the same byte gives the byte, and every other byte is
unchanged. -/

namespace Sys2Proof.Machine

/-! ### The canonical form -/

/-- What the canonical form says of a list with a first entry. -/
theorem Memory.wf_cons (a : Nat) (b : Byte) (r : List Host.Cell) :
    Memory.wf ((a, b) :: r) = true ↔ b ≠ memDefault a ∧ (∀ e ∈ r, a < e.1) ∧ Memory.wf r = true := by
  simp [Memory.wf, and_assoc]

/-- A byte below the first entry is unlisted. -/
theorem memGet_below (m : List Host.Cell) (k : Nat) (h : ∀ e ∈ m, k < e.1) : memGet m k = memDefault k := by
  induction m with
  | nil => rfl
  | cons e r ih =>
    obtain ⟨a, b⟩ := e
    have := h (a, b) (by simp)
    simp only at this
    rw [memGet, if_neg (by omega), ih fun x hx => h x (by simp [hx])]

theorem memInsert_keys (m : List Host.Cell) (k : Nat) (b : Byte) (e : Host.Cell) (h : e ∈ memInsert m k b) : e.1 = k ∨ e ∈ m := by
  induction m with
  | nil => simp [memInsert] at h; simp [h]
  | cons x r ih =>
    obtain ⟨a, c⟩ := x
    simp only [memInsert] at h
    split at h
    · rcases List.mem_cons.1 h with h | h
      · simp [h]
      · rcases ih h with h | h <;> simp [h]
    · split at h
      · rcases List.mem_cons.1 h with h | h <;> simp [h]
      · rcases List.mem_cons.1 h with h | h
        · simp [h]
        · exact .inr h

theorem memErase_sub (m : List Host.Cell) (k : Nat) (e : Host.Cell) (h : e ∈ memErase m k) : e ∈ m := by
  induction m with
  | nil => simp [memErase] at h
  | cons x r ih =>
    obtain ⟨a, c⟩ := x
    simp only [memErase] at h
    split at h
    · simp [h]
    · rcases List.mem_cons.1 h with h | h
      · simp [h]
      · simp [ih h]

theorem Memory.wf_insert (m : List Host.Cell) (k : Nat) (b : Byte) (hb : b ≠ memDefault k) (h : Memory.wf m = true) :
    Memory.wf (memInsert m k b) = true := by
  induction m with
  | nil => simp [memInsert, Memory.wf, hb]
  | cons x r ih =>
    obtain ⟨a, c⟩ := x
    rw [Memory.wf_cons] at h
    simp only [memInsert]
    split
    · next hlt =>
      rw [Memory.wf_cons]
      refine ⟨h.1, fun e he => ?_, ih h.2.2⟩
      rcases memInsert_keys r k b e he with he | he
      · omega
      · exact h.2.1 e he
    · split
      · next _ heq => subst heq; rw [Memory.wf_cons]; exact ⟨hb, h.2.1, h.2.2⟩
      · rw [Memory.wf_cons]
        refine ⟨hb, fun e he => ?_, (Memory.wf_cons a c r).2 h⟩
        rcases List.mem_cons.1 he with he | he
        · simp [he]; omega
        · have := h.2.1 e he; omega

theorem Memory.wf_erase (m : List Host.Cell) (k : Nat) (h : Memory.wf m = true) : Memory.wf (memErase m k) = true := by
  induction m with
  | nil => simpa [memErase] using h
  | cons x r ih =>
    obtain ⟨a, c⟩ := x
    rw [Memory.wf_cons] at h
    simp only [memErase]
    split
    · exact h.2.2
    · rw [Memory.wf_cons]
      exact ⟨h.1, fun e he => h.2.1 e (memErase_sub r k e he), ih h.2.2⟩

/-- Writing a byte keeps the canonical form. -/
theorem Memory.wf_memSet (m : List Host.Cell) (k : Nat) (b : Byte) (h : Memory.wf m = true) : Memory.wf (memSet m k b) = true := by
  unfold memSet
  split
  · exact Memory.wf_erase m k h
  · next hb => exact Memory.wf_insert m k b hb h

/-- Writing bytes keeps the canonical form. -/
theorem Memory.wf_memSetMany (bs : List Byte) (m : List Host.Cell) (k : Nat) (h : Memory.wf m = true) :
    Memory.wf (memSetMany m k bs) = true := by
  induction bs generalizing m k with
  | nil => exact h
  | cons b r ih => exact ih _ _ (Memory.wf_memSet m k b h)

/-- Dropping entries keeps the canonical form. -/
theorem Memory.wf_filter (f : Host.Cell → Bool) (m : List Host.Cell) (h : Memory.wf m = true) : Memory.wf (m.filter f) = true := by
  induction m with
  | nil => exact h
  | cons x r ih =>
    obtain ⟨a, c⟩ := x
    rw [Memory.wf_cons] at h
    simp only [List.filter]
    split
    · rw [Memory.wf_cons]
      exact ⟨h.1, fun e he => h.2.1 e (List.mem_of_mem_filter he), ih h.2.2⟩
    · exact ih h.2.2

/-! ### Read after write -/

theorem memGet_memInsert_same (m : List Host.Cell) (k : Nat) (b : Byte) : memGet (memInsert m k b) k = b := by
  induction m with
  | nil => simp [memInsert, memGet]
  | cons x r ih =>
    obtain ⟨a, c⟩ := x
    simp only [memInsert]
    split
    · rw [memGet, if_neg (by omega), ih]
    · split <;> simp [memGet]

theorem memGet_memInsert_other (m : List Host.Cell) (k j : Nat) (b : Byte) (h : j ≠ k) : memGet (memInsert m k b) j = memGet m j := by
  induction m with
  | nil => simp [memInsert, memGet, Ne.symm h]
  | cons x r ih =>
    obtain ⟨a, c⟩ := x
    simp only [memInsert]
    split
    · simp [memGet, ih]
    · split
      · next _ e => subst e; simp [memGet, Ne.symm h]
      · simp [memGet, Ne.symm h]

theorem memGet_memErase_other (m : List Host.Cell) (k j : Nat) (h : j ≠ k) : memGet (memErase m k) j = memGet m j := by
  induction m with
  | nil => rfl
  | cons x r ih =>
    obtain ⟨a, c⟩ := x
    simp only [memErase]
    split
    · next e => subst e; simp [memGet, Ne.symm h]
    · simp [memGet, ih]

theorem memGet_memErase_same (m : List Host.Cell) (k : Nat) (h : Memory.wf m = true) : memGet (memErase m k) k = memDefault k := by
  induction m with
  | nil => rfl
  | cons x r ih =>
    obtain ⟨a, c⟩ := x
    rw [Memory.wf_cons] at h
    simp only [memErase]
    split
    · next e => subst e; exact memGet_below r a h.2.1
    · next e => rw [memGet, if_neg e, ih h.2.2]

/-- The byte just written is read back. -/
theorem memGet_memSet_same (m : List Host.Cell) (k : Nat) (b : Byte) (h : Memory.wf m = true) : memGet (memSet m k b) k = b := by
  unfold memSet
  split
  · next e => rw [memGet_memErase_same m k h, e]
  · exact memGet_memInsert_same m k b

/-- Every other byte is unchanged. -/
theorem memGet_memSet_other (m : List Host.Cell) (k j : Nat) (b : Byte) (h : j ≠ k) : memGet (memSet m k b) j = memGet m j := by
  unfold memSet
  split
  · exact memGet_memErase_other m k j h
  · exact memGet_memInsert_other m k j b h

/-- Bytes outside those written are unchanged. -/
theorem memGet_memSetMany_other (bs : List Byte) (m : List Host.Cell) (k j : Nat) (h : j < k ∨ k + bs.length ≤ j) :
    memGet (memSetMany m k bs) j = memGet m j := by
  induction bs generalizing m k with
  | nil => rfl
  | cons b r ih =>
    simp only [List.length_cons] at h
    rw [memSetMany, ih _ _ (by omega), memGet_memSet_other _ _ _ _ (by omega)]

/-- Byte `i` of those written is read back. -/
theorem memGet_memSetMany_same (bs : List Byte) (m : List Host.Cell) (k i : Nat) (hw : Memory.wf m = true) (h : i < bs.length) :
    memGet (memSetMany m k bs) (k + i) = bs[i] := by
  induction bs generalizing m k i with
  | nil => simp at h
  | cons b r ih =>
    rw [memSetMany]
    cases i with
    | zero => rw [memGet_memSetMany_other _ _ _ _ (by omega)]; exact memGet_memSet_same m k b hw
    | succ i =>
      have := ih (memSet m k b) (k + 1) i (Memory.wf_memSet m k b hw) (by simpa using h)
      rw [show k + (i + 1) = k + 1 + i by omega, this]; rfl

theorem memSetMany_append (a b : List Byte) (m : List Host.Cell) (k : Nat) :
    memSetMany m k (a ++ b) = memSetMany (memSetMany m k a) (k + a.length) b := by
  induction a generalizing m k with
  | nil => rfl
  | cons x r ih => simp only [List.cons_append, memSetMany, ih, List.length_cons]; congr 1; omega

/-! ### Writes at the home -/

@[simp] theorem errsIn_noErrs (s : State) (k n : Nat) (h : s.errs = []) : errsIn s k n = [] := by simp [errsIn, h]
@[simp] theorem correct_noErrs (s : State) (k n : Nat) (h : s.errs = []) : correct s k n = s := by simp [correct, h]
@[simp] theorem anyBad_noErrs (s : State) (k n : Nat) (h : s.errs = []) : anyBad s k n = none := by simp [anyBad, h]
@[simp] theorem meet_noErrs (s : State) (k n : Nat) (h : s.errs = []) : s.meet k n = (s, false) := by simp [State.meet, h]
@[simp] theorem see_noErrs (s : State) (k n : Nat) (h : s.errs = []) : s.see k n = s := by simp [State.see, h]
@[simp] theorem peek_noErrs (s : State) (k n : Nat) (h : s.errs = []) : s.peek k n = memGetMany s.mem k n := by simp [State.peek, h]
theorem heal_noErrs (s : State) (k n : Nat) (h : s.errs = []) : heal s k n = s := by cases s; simp_all [heal]
@[simp] theorem errOf_noErrs (s : State) (w : Nat) (h : s.errs = []) : errOf s w = none := by simp [errOf, h]

/-- A read where no word holds an error changes nothing and gives what the path sees (R200). -/
theorem State.take_noErrs (s : State) (p : Path) (k n who : Nat) (h : s.errs = []) : s.take p k n who = (s, some (pathBytes s p k n who)) := by
  simp [State.take, h]

/-- What the path sees of a byte no write of which is still to be performed for it. -/
theorem pathByte_noLag (s : State) (q : Path) (k who : Nat) (h : ∀ l ∈ s.lag, l.reader = q → l.key ≠ k) : pathByte s q k who = memGet s.mem k := by
  have h0 : (s.lag.filter fun l => l.reader == q && l.key == k) = [] := by
    simp only [List.filter_eq_nil_iff, Bool.and_eq_true, beq_iff_eq, not_and]
    exact h
  simp [pathByte, h0, dropPerformed]

theorem putBytes_fold (p : Path) (bs : List Byte) (s : State) (k : Nat) (n : Nat) (hn : n ≤ bs.length) :
    ((List.range n).foldl (fun u i => putByte u p (k + i) (bs.getD i 0)) s).mem = memSetMany s.mem k (bs.take n) ∧
    ((List.range n).foldl (fun u i => putByte u p (k + i) (bs.getD i 0)) s).errs = s.errs := by
  induction n with
  | zero => simp [memSetMany]
  | succ n ih =>
    have hlt : n < bs.length := by omega
    obtain ⟨h1, h2⟩ := ih (by omega)
    rw [List.range_succ, List.foldl_append]
    simp only [List.foldl_cons, List.foldl_nil]
    refine ⟨?_, h2⟩
    show memSet _ (k + n) (bs.getD n 0) = _
    rw [h1]
    rw [List.take_succ, List.getElem?_eq_getElem hlt]
    simp only [Option.toList_some]
    rw [memSetMany_append]
    simp [memSetMany, List.getD_eq_getElem?_getD, List.getElem?_eq_getElem hlt, List.length_take, Nat.min_eq_left (Nat.le_of_lt hlt)]

theorem putWord_noErrs (s : State) (p : Path) (k : Nat) (bs : List Byte) (h : s.errs = []) :
    (putWord s p k bs).mem = memSetMany s.mem k bs ∧ (putWord s p k bs).errs = [] := by
  have := putBytes_fold p bs s k bs.length (Nat.le_refl _)
  simp only [putWord, errOf_noErrs s _ h, correct_noErrs s _ _ h, List.take_length, h] at this ⊢
  exact this

theorem putWords_noErrs (p : Path) (f : Nat) (s : State) (k : Nat) (bs : List Byte) (h : s.errs = []) (hf : bs.length < f) :
    (putWords s p f k bs).mem = memSetMany s.mem k bs ∧ (putWords s p f k bs).errs = [] := by
  induction f generalizing s k bs with
  | zero => omega
  | succ f ih =>
    rw [putWords]
    split
    · next e => subst e; exact ⟨rfl, h⟩
    · next e =>
      obtain ⟨h1, h2⟩ := putWord_noErrs s p k (bs.take (8 - k % 8)) h
      have hl : 0 < bs.length := List.length_pos_iff.2 e
      obtain ⟨h3, h4⟩ := ih (putWord s p k (bs.take (8 - k % 8))) (k + (8 - k % 8)) (bs.drop (8 - k % 8)) h2 (by
        rw [List.length_drop]; have := Nat.mod_lt k (show 0 < 8 by omega); omega)
      refine ⟨?_, h4⟩
      rw [h3, h1]
      by_cases hc : 8 - k % 8 ≤ bs.length
      · conv_rhs => rw [← List.take_append_drop (8 - k % 8) bs, memSetMany_append, List.length_take, Nat.min_eq_left hc]
      · rw [List.drop_of_length_le (by omega), List.take_of_length_le (by omega)]; rfl

@[simp] theorem endResv_mem (s : State) (k n : Nat) : (endResv s k n).mem = s.mem := rfl
@[simp] theorem wakeIf_mem (s : State) (f : Nat → Wait → Bool) : (wakeIf s f).mem = s.mem := rfl
@[simp] theorem wakeWaiters_mem (s : State) (k : Nat) : (wakeWaiters s k).mem = s.mem := rfl
@[simp] theorem wakeWords_mem (s : State) (k n : Nat) : (wakeWords s k n).mem = s.mem :=
  List.foldlRecOn (motive := fun t : State => t.mem = s.mem) _ _ rfl fun _ h _ _ => h
@[simp] theorem wakeRoute_mem (s : State) (k : Nat) : (wakeRoute s k).mem = s.mem := by unfold wakeRoute; split <;> [rfl; (split <;> rfl)]

@[simp] theorem release_mem (s : State) (key : Nat) (ids : List Nat) : (s.release key ids).mem = s.mem := rfl
@[simp] theorem releaseStore_mem (s : State) (k n : Nat) : (releaseStore s k n).mem = s.mem := by
  unfold releaseStore; split <;> rfl

/-- What a write at the home leaves in memory, where no word holds an error: the bytes at the key, and nothing else. -/
theorem State.put_mem (s : State) (p : Path) (k : Nat) (bs : List Byte) (h : s.errs = []) : (s.put p k bs).mem = memSetMany s.mem k bs := by
  unfold State.put
  split
  · next e => subst e; rfl
  · split <;> simp [heal_noErrs s k _ h, (putWords_noErrs p (bs.length + 1) s k bs h (by omega)).1]

/-- Doublewords written by the hardware. -/
theorem State.putWs_mem (s : State) (k : Nat) (ws : List Word) (h : s.errs = []) :
    (s.putWs k ws).mem = memSetMany s.mem k (ws.flatMap fun w => bytesOf 8 w.toNat) := s.put_mem .ls k _ h

/-- A write at the home keeps the canonical form. -/
theorem State.put_wf (s : State) (p : Path) (k : Nat) (bs : List Byte) (h : s.errs = []) (hw : Memory.wf s.mem = true) :
    Memory.wf (s.put p k bs).mem = true := by
  rw [s.put_mem p k bs h]; exact Memory.wf_memSetMany bs s.mem k hw

end Sys2Proof.Machine
end

