-- ==== Sys2Proof/Laws/Dispatch.lean ====
section
/-! SUPPORT. The meaning of each instruction, one lemma per arm: proofs cite these and never unfold the match. -/

namespace Sys2Proof.Machine

theorem exec_b (o) (s : State) : exec (.b o) s = execB o s := rfl
theorem exec_bl (o) (s : State) : exec (.bl o) s = execBl o s := rfl
theorem exec_br (a imm) (s : State) : exec (.br a imm) s = execBr a imm s := rfl
theorem exec_brl (d a imm) (s : State) : exec (.brl d a imm) s = execBrl d a imm s := rfl
theorem exec_beq (a b o) (s : State) : exec (.beq a b o) s = execBeq a b o s := rfl
theorem exec_bne (a b o) (s : State) : exec (.bne a b o) s = execBne a b o s := rfl
theorem exec_blt (a b o) (s : State) : exec (.blt a b o) s = execBlt a b o s := rfl
theorem exec_bge (a b o) (s : State) : exec (.bge a b o) s = execBge a b o s := rfl
theorem exec_bltn (a b o) (s : State) : exec (.bltn a b o) s = execBltn a b o s := rfl
theorem exec_bgen (a b o) (s : State) : exec (.bgen a b o) s = execBgen a b o s := rfl
theorem exec_bz (a o) (s : State) : exec (.bz a o) s = execBz a o s := rfl
theorem exec_bnz (a o) (s : State) : exec (.bnz a o) s = execBnz a o s := rfl
theorem exec_ldB (t a d) (s : State) : exec (.ldB t a d) s = execLdB t a d s := rfl
theorem exec_ldH (t a d) (s : State) : exec (.ldH t a d) s = execLdH t a d s := rfl
theorem exec_ldW (t a d) (s : State) : exec (.ldW t a d) s = execLdW t a d s := rfl
theorem exec_ldD (t a d) (s : State) : exec (.ldD t a d) s = execLdD t a d s := rfl
theorem exec_ldBx (t a d) (s : State) : exec (.ldBx t a d) s = execLdBx t a d s := rfl
theorem exec_ldHx (t a d) (s : State) : exec (.ldHx t a d) s = execLdHx t a d s := rfl
theorem exec_ldWx (t a d) (s : State) : exec (.ldWx t a d) s = execLdWx t a d s := rfl
theorem exec_stB (t a d) (s : State) : exec (.stB t a d) s = execStB t a d s := rfl
theorem exec_stH (t a d) (s : State) : exec (.stH t a d) s = execStH t a d s := rfl
theorem exec_stW (t a d) (s : State) : exec (.stW t a d) s = execStW t a d s := rfl
theorem exec_stD (t a d) (s : State) : exec (.stD t a d) s = execStD t a d s := rfl
theorem exec_ldAcq (t a sc d) (s : State) : exec (.ldAcq t a sc d) s = execLdAcq t a sc d s := rfl
theorem exec_stRel (t a sc d) (s : State) : exec (.stRel t a sc d) s = execStRel t a sc d s := rfl
theorem exec_stNt (t a z d) (s : State) : exec (.stNt t a z d) s = execStNt t a z d s := rfl
theorem exec_amoAdd (d a b z) (s : State) : exec (.amoAdd d a b z) s = execAmoAdd d a b z s := rfl
theorem exec_amoAnd (d a b z) (s : State) : exec (.amoAnd d a b z) s = execAmoAnd d a b z s := rfl
theorem exec_amoOr (d a b z) (s : State) : exec (.amoOr d a b z) s = execAmoOr d a b z s := rfl
theorem exec_amoXor (d a b z) (s : State) : exec (.amoXor d a b z) s = execAmoXor d a b z s := rfl
theorem exec_amoMin (d a b z) (s : State) : exec (.amoMin d a b z) s = execAmoMin d a b z s := rfl
theorem exec_amoMax (d a b z) (s : State) : exec (.amoMax d a b z) s = execAmoMax d a b z s := rfl
theorem exec_amoMinn (d a b z) (s : State) : exec (.amoMinn d a b z) s = execAmoMinn d a b z s := rfl
theorem exec_amoMaxn (d a b z) (s : State) : exec (.amoMaxn d a b z) s = execAmoMaxn d a b z s := rfl
theorem exec_amoSwap (d a b z) (s : State) : exec (.amoSwap d a b z) s = execAmoSwap d a b z s := rfl
theorem exec_amoCas (d a b z) (s : State) : exec (.amoCas d a b z) s = execAmoCas d a b z s := rfl
theorem exec_ldRes (d a) (s : State) : exec (.ldRes d a) s = execLdRes d a s := rfl
theorem exec_stCond (d a b) (s : State) : exec (.stCond d a b) s = execStCond d a b s := rfl
theorem exec_wres (d) (s : State) : exec (.wres d) s = execWres d s := rfl
theorem exec_fget (d a) (s : State) : exec (.fget d a) s = execFget d a s := rfl
theorem exec_fput (d a b) (s : State) : exec (.fput d a b) s = execFput d a b s := rfl
theorem exec_ftake (d a) (s : State) : exec (.ftake d a) s = execFtake d a s := rfl
theorem exec_redAdd (a b z) (s : State) : exec (.redAdd a b z) s = execRedAdd a b z s := rfl
theorem exec_redMin (a b z) (s : State) : exec (.redMin a b z) s = execRedMin a b z s := rfl
theorem exec_redMax (a b z) (s : State) : exec (.redMax a b z) s = execRedMax a b z s := rfl
theorem exec_redFadd (a b z) (s : State) : exec (.redFadd a b z) s = execRedFadd a b z s := rfl
theorem exec_redFaddGroup (d a b) (s : State) : exec (.redFaddGroup d a b) s = execRedFaddGroup d a b s := rfl
theorem exec_fence (sc) (s : State) : exec (.fence sc) s = execFence sc s := rfl
theorem exec_xfence (x y sc) (s : State) : exec (.xfence x y sc) s = execXfence x y sc s := rfl
theorem exec_isync (s : State) : exec (.isync) s = execIsync s := rfl
theorem exec_barInit (a n) (s : State) : exec (.barInit a n) s = execBarInit a n s := rfl
theorem exec_barArrive (d n) (s : State) : exec (.barArrive d n) s = execBarArrive d n s := rfl
theorem exec_barWait (a n) (s : State) : exec (.barWait a n) s = execBarWait a n s := rfl
theorem exec_barTry (d a n) (s : State) : exec (.barTry d a n) s = execBarTry d a n s := rfl
theorem exec_slotTake (d a c) (s : State) : exec (.slotTake d a c) s = execSlotTake d a c s := rfl
theorem exec_slotGive (a c) (s : State) : exec (.slotGive a c) s = execSlotGive a c s := rfl
theorem exec_slotTry (d a c) (s : State) : exec (.slotTry d a c) s = execSlotTry d a c s := rfl
theorem exec_bbInit (a) (s : State) : exec (.bbInit a) s = execBbInit a s := rfl
theorem exec_bbPeekImm (d n) (s : State) : exec (.bbPeekImm d n) s = execBbPeekImm d n s := rfl
theorem exec_bbPeekReg (d a) (s : State) : exec (.bbPeekReg d a) s = execBbPeekReg d a s := rfl
theorem exec_bbTakeImm (d n) (s : State) : exec (.bbTakeImm d n) s = execBbTakeImm d n s := rfl
theorem exec_bbTakeReg (d a) (s : State) : exec (.bbTakeReg d a) s = execBbTakeReg d a s := rfl
theorem exec_bbDec (d a l) (s : State) : exec (.bbDec d a l) s = execBbDec d a l s := rfl
theorem exec_bbCopy (d a b) (s : State) : exec (.bbCopy d a b) s = execBbCopy d a b s := rfl
theorem exec_bbLit (d n) (s : State) : exec (.bbLit d n) s = execBbLit d n s := rfl
theorem exec_cpy (a) (s : State) : exec (.cpy a) s = execCpy a s := rfl
theorem exec_cpyCk (a) (s : State) : exec (.cpyCk a) s = execCpyCk a s := rfl
theorem exec_cpyQ (d w c) (s : State) : exec (.cpyQ d w c) s = execCpyQ d w c s := rfl
theorem exec_cpyQuench (a) (s : State) : exec (.cpyQuench a) s = execCpyQuench a s := rfl
theorem exec_stashOpen (a) (s : State) : exec (.stashOpen a) s = execStashOpen a s := rfl
theorem exec_stash (a) (s : State) : exec (.stash a) s = execStash a s := rfl
theorem exec_stashReg (v a) (s : State) : exec (.stashReg v a) s = execStashReg v a s := rfl
theorem exec_restore (a) (s : State) : exec (.restore a) s = execRestore a s := rfl
theorem exec_stashStat (d a sc) (s : State) : exec (.stashStat d a sc) s = execStashStat d a sc s := rfl
theorem exec_graftCfg (a sc) (s : State) : exec (.graftCfg a sc) s = execGraftCfg a sc s := rfl
theorem exec_graftGo (sc) (s : State) : exec (.graftGo sc) s = execGraftGo sc s := rfl
theorem exec_graftStat (d w sc) (s : State) : exec (.graftStat d w sc) s = execGraftStat d w sc s := rfl
theorem exec_psendOpen (a) (s : State) : exec (.psendOpen a) s = execPsendOpen a s := rfl
theorem exec_psendAppend (a) (s : State) : exec (.psendAppend a) s = execPsendAppend a s := rfl
theorem exec_psendEOpen (a) (s : State) : exec (.psendEOpen a) s = execPsendEOpen a s := rfl
theorem exec_psendEAppend (a) (s : State) : exec (.psendEAppend a) s = execPsendEAppend a s := rfl
theorem exec_psendEClose (s : State) : exec (.psendEClose) s = execPsendEClose s := rfl
theorem exec_spawn (d a h) (s : State) : exec (.spawn d a h) s = execSpawn d a h s := rfl
theorem exec_dqPush (d a) (s : State) : exec (.dqPush d a) s = execDqPush d a s := rfl
theorem exec_dqPop (d) (s : State) : exec (.dqPop d) s = execDqPop d s := rfl
theorem exec_launch (a b) (s : State) : exec (.launch a b) s = execLaunch a b s := rfl
theorem exec_plotAlloc (d a) (s : State) : exec (.plotAlloc d a) s = execPlotAlloc d a s := rfl
theorem exec_plotPass (a sc) (s : State) : exec (.plotPass a sc) s = execPlotPass a sc s := rfl
theorem exec_plotFree (a) (s : State) : exec (.plotFree a) s = execPlotFree a s := rfl
theorem exec_xbegin (s : State) : exec (.xbegin) s = execXbegin s := rfl
theorem exec_xput (d a r) (s : State) : exec (.xput d a r) s = execXput d a r s := rfl
theorem exec_xend (s : State) : exec (.xend) s = execXend s := rfl
theorem exec_follow (s : State) : exec (.follow) s = execFollow s := rfl
theorem exec_unfollow (s : State) : exec (.unfollow) s = execUnfollow s := rfl
theorem exec_home (s : State) : exec (.home) s = execHome s := rfl
theorem exec_yield (n) (s : State) : exec (.yield n) s = execYield n s := rfl
theorem exec_trap (n) (s : State) : exec (.trap n) s = execTrap n s := rfl
theorem exec_sys (n) (s : State) : exec (.sys n) s = execSys n s := rfl
theorem exec_eret (s : State) : exec (.eret) s = execEret s := rfl
theorem exec_halt (s : State) : exec (.halt) s = execHalt s := rfl
theorem exec_mfsr (d sc) (s : State) : exec (.mfsr d sc) s = execMfsr d sc s := rfl
theorem exec_mtsr (a sc) (s : State) : exec (.mtsr a sc) s = execMtsr a sc s := rfl
theorem exec_vld (t a d) (s : State) : exec (.vld t a d) s = execVld t a d s := rfl
theorem exec_vldW (t a d) (s : State) : exec (.vldW t a d) s = execVldW t a d s := rfl
theorem exec_vst (t a d) (s : State) : exec (.vst t a d) s = execVst t a d s := rfl
theorem exec_vldS (d a b) (s : State) : exec (.vldS d a b) s = execVldS d a b s := rfl
theorem exec_vstS (d a b) (s : State) : exec (.vstS d a b) s = execVstS d a b s := rfl
theorem exec_mringCfg (a b) (s : State) : exec (.mringCfg a b) s = execMringCfg a b s := rfl
theorem exec_ringPutReserve (d a b) (s : State) : exec (.ringPutReserve d a b) s = execRingPutReserve d a b s := rfl
theorem exec_ringPutPublish (d a b) (s : State) : exec (.ringPutPublish d a b) s = execRingPutPublish d a b s := rfl
theorem exec_ringPop (d a b) (s : State) : exec (.ringPop d a b) s = execRingPop d a b s := rfl
theorem exec_maccLd (c a b) (s : State) : exec (.maccLd c a b) s = execMaccLd c a b s := rfl
theorem exec_maccSt (c a b) (s : State) : exec (.maccSt c a b) s = execMaccSt c a b s := rfl
theorem exec_mcap (d a n) (s : State) : exec (.mcap d a n) s = execMcap d a n s := rfl
theorem exec_mcmd (a) (s : State) : exec (.mcmd a) s = execMcmd a s := rfl
theorem exec_mstat (d a r) (s : State) : exec (.mstat d a r) s = execMstat d a r s := rfl
theorem exec_msave (a) (s : State) : exec (.msave a) s = execMsave a s := rfl
theorem exec_mload (a) (s : State) : exec (.mload a) s = execMload a s := rfl
theorem exec_or (d a b) (s : State) : exec (.or d a b) s = execOr d a b s := rfl
theorem exec_and (d a b) (s : State) : exec (.and d a b) s = execAnd d a b s := rfl
theorem exec_xor (d a b) (s : State) : exec (.xor d a b) s = execXor d a b s := rfl
theorem exec_andn (d a b) (s : State) : exec (.andn d a b) s = execAndn d a b s := rfl
theorem exec_add (d a b) (s : State) : exec (.add d a b) s = execAdd d a b s := rfl
theorem exec_sub (d a b) (s : State) : exec (.sub d a b) s = execSub d a b s := rfl
theorem exec_mul (d a b) (s : State) : exec (.mul d a b) s = execMul d a b s := rfl
theorem exec_mulh (d a b) (s : State) : exec (.mulh d a b) s = execMulh d a b s := rfl
theorem exec_mulhn (d a b) (s : State) : exec (.mulhn d a b) s = execMulhn d a b s := rfl
theorem exec_div (d a b) (s : State) : exec (.div d a b) s = execDiv d a b s := rfl
theorem exec_divn (d a b) (s : State) : exec (.divn d a b) s = execDivn d a b s := rfl
theorem exec_rem (d a b) (s : State) : exec (.rem d a b) s = execRem d a b s := rfl
theorem exec_remn (d a b) (s : State) : exec (.remn d a b) s = execRemn d a b s := rfl
theorem exec_shl (d a b) (s : State) : exec (.shl d a b) s = execShl d a b s := rfl
theorem exec_shr (d a b) (s : State) : exec (.shr d a b) s = execShr d a b s := rfl
theorem exec_sha (d a b) (s : State) : exec (.sha d a b) s = execSha d a b s := rfl
theorem exec_rot (d a b) (s : State) : exec (.rot d a b) s = execRot d a b s := rfl
theorem exec_min (d a b) (s : State) : exec (.min d a b) s = execMin d a b s := rfl
theorem exec_max (d a b) (s : State) : exec (.max d a b) s = execMax d a b s := rfl
theorem exec_minn (d a b) (s : State) : exec (.minn d a b) s = execMinn d a b s := rfl
theorem exec_maxn (d a b) (s : State) : exec (.maxn d a b) s = execMaxn d a b s := rfl
theorem exec_clz (d a) (s : State) : exec (.clz d a) s = execClz d a s := rfl
theorem exec_ctz (d a) (s : State) : exec (.ctz d a) s = execCtz d a s := rfl
theorem exec_popc (d a) (s : State) : exec (.popc d a) s = execPopc d a s := rfl
theorem exec_extB (d a) (s : State) : exec (.extB d a) s = execExtB d a s := rfl
theorem exec_extH (d a) (s : State) : exec (.extH d a) s = execExtH d a s := rfl
theorem exec_extW (d a) (s : State) : exec (.extW d a) s = execExtW d a s := rfl
theorem exec_cmpEq (d a b) (s : State) : exec (.cmpEq d a b) s = execCmpEq d a b s := rfl
theorem exec_cmpNe (d a b) (s : State) : exec (.cmpNe d a b) s = execCmpNe d a b s := rfl
theorem exec_cmpLt (d a b) (s : State) : exec (.cmpLt d a b) s = execCmpLt d a b s := rfl
theorem exec_cmpLe (d a b) (s : State) : exec (.cmpLe d a b) s = execCmpLe d a b s := rfl
theorem exec_cmpLtn (d a b) (s : State) : exec (.cmpLtn d a b) s = execCmpLtn d a b s := rfl
theorem exec_cmpLen (d a b) (s : State) : exec (.cmpLen d a b) s = execCmpLen d a b s := rfl
theorem exec_addi (d a imm) (s : State) : exec (.addi d a imm) s = execAddi d a imm s := rfl
theorem exec_andi (d a imm) (s : State) : exec (.andi d a imm) s = execAndi d a imm s := rfl
theorem exec_ori (d a imm) (s : State) : exec (.ori d a imm) s = execOri d a imm s := rfl
theorem exec_xori (d a imm) (s : State) : exec (.xori d a imm) s = execXori d a imm s := rfl
theorem exec_shli (d a n) (s : State) : exec (.shli d a n) s = execShli d a n s := rfl
theorem exec_shri (d a n) (s : State) : exec (.shri d a n) s = execShri d a n s := rfl
theorem exec_shai (d a n) (s : State) : exec (.shai d a n) s = execShai d a n s := rfl
theorem exec_lia (d imm) (s : State) : exec (.lia d imm) s = execLia d imm s := rfl
theorem exec_lea (d a imm) (s : State) : exec (.lea d a imm) s = execLea d a imm s := rfl
theorem exec_lih (j d k imm) (s : State) : exec (.lih j d k imm) s = execLih j d k imm s := rfl
theorem exec_sel (d a b x) (s : State) : exec (.sel d a b x) s = execSel d a b x s := rfl
theorem exec_fadd (d a b t r) (s : State) : exec (.fadd d a b t r) s = execFadd d a b t r s := rfl
theorem exec_fsub (d a b t r) (s : State) : exec (.fsub d a b t r) s = execFsub d a b t r s := rfl
theorem exec_fmul (d a b t r) (s : State) : exec (.fmul d a b t r) s = execFmul d a b t r s := rfl
theorem exec_fdiv (d a b t r) (s : State) : exec (.fdiv d a b t r) s = execFdiv d a b t r s := rfl
theorem exec_fsqrt (d a t r) (s : State) : exec (.fsqrt d a t r) s = execFsqrt d a t r s := rfl
theorem exec_fma (d a b t r x) (s : State) : exec (.fma d a b t r x) s = execFma d a b t r x s := rfl
theorem exec_fmin (d a b t) (s : State) : exec (.fmin d a b t) s = execFmin d a b t s := rfl
theorem exec_fmax (d a b t) (s : State) : exec (.fmax d a b t) s = execFmax d a b t s := rfl
theorem exec_fcmp (d a b t e) (s : State) : exec (.fcmp d a b t e) s = execFcmp d a b t e s := rfl
theorem exec_fcvt (d a t r sc) (s : State) : exec (.fcvt d a t r sc) s = execFcvt d a t r sc s := rfl
theorem exec_fcvi (d a t r imm) (s : State) : exec (.fcvi d a t r imm) s = execFcvi d a t r imm s := rfl
theorem exec_ficv (d a t r imm) (s : State) : exec (.ficv d a t r imm) s = execFicv d a t r imm s := rfl
theorem exec_fclass (d a t) (s : State) : exec (.fclass d a t) s = execFclass d a t s := rfl
theorem exec_fneg (d a t) (s : State) : exec (.fneg d a t) s = execFneg d a t s := rfl
theorem exec_fabs (d a t) (s : State) : exec (.fabs d a t) s = execFabs d a t s := rfl
theorem exec_vadd (d a b m t) (s : State) : exec (.vadd d a b m t) s = execVadd d a b m t s := rfl
theorem exec_vsub (d a b m t) (s : State) : exec (.vsub d a b m t) s = execVsub d a b m t s := rfl
theorem exec_vmul (d a b m t) (s : State) : exec (.vmul d a b m t) s = execVmul d a b m t s := rfl
theorem exec_vmla (d a b m t) (s : State) : exec (.vmla d a b m t) s = execVmla d a b m t s := rfl
theorem exec_vand (d a b m t) (s : State) : exec (.vand d a b m t) s = execVand d a b m t s := rfl
theorem exec_vor (d a b m t) (s : State) : exec (.vor d a b m t) s = execVor d a b m t s := rfl
theorem exec_vxor (d a b m t) (s : State) : exec (.vxor d a b m t) s = execVxor d a b m t s := rfl
theorem exec_vshl (d a b m t) (s : State) : exec (.vshl d a b m t) s = execVshl d a b m t s := rfl
theorem exec_vshr (d a b m t) (s : State) : exec (.vshr d a b m t) s = execVshr d a b m t s := rfl
theorem exec_vsha (d a b m t) (s : State) : exec (.vsha d a b m t) s = execVsha d a b m t s := rfl
theorem exec_vmin (d a b m t) (s : State) : exec (.vmin d a b m t) s = execVmin d a b m t s := rfl
theorem exec_vmax (d a b m t) (s : State) : exec (.vmax d a b m t) s = execVmax d a b m t s := rfl
theorem exec_vfadd (d a b m t) (s : State) : exec (.vfadd d a b m t) s = execVfadd d a b m t s := rfl
theorem exec_vfsub (d a b m t) (s : State) : exec (.vfsub d a b m t) s = execVfsub d a b m t s := rfl
theorem exec_vfmul (d a b m t) (s : State) : exec (.vfmul d a b m t) s = execVfmul d a b m t s := rfl
theorem exec_vfma (d a b m t) (s : State) : exec (.vfma d a b m t) s = execVfma d a b m t s := rfl
theorem exec_vfmin (d a b m t) (s : State) : exec (.vfmin d a b m t) s = execVfmin d a b m t s := rfl
theorem exec_vfmax (d a b m t) (s : State) : exec (.vfmax d a b m t) s = execVfmax d a b m t s := rfl
theorem exec_vcmp (d a b m t o) (s : State) : exec (.vcmp d a b m t o) s = execVcmp d a b m t o s := rfl
theorem exec_vsel (d a b m t) (s : State) : exec (.vsel d a b m t) s = execVsel d a b m t s := rfl
theorem exec_vcvt (d a sc m t) (s : State) : exec (.vcvt d a sc m t) s = execVcvt d a sc m t s := rfl
theorem exec_vperm (d a b m t) (s : State) : exec (.vperm d a b m t) s = execVperm d a b m t s := rfl
theorem exec_vbcast (d a m t) (s : State) : exec (.vbcast d a m t) s = execVbcast d a m t s := rfl
theorem exec_vins (d a b t) (s : State) : exec (.vins d a b t) s = execVins d a b t s := rfl
theorem exec_vext (d a b t) (s : State) : exec (.vext d a b t) s = execVext d a b t s := rfl
theorem exec_vmov (d a m t) (s : State) : exec (.vmov d a m t) s = execVmov d a m t s := rfl
theorem exec_vmovGToM (d a) (s : State) : exec (.vmovGToM d a) s = execVmovGToM d a s := rfl
theorem exec_vmovMToG (d a) (s : State) : exec (.vmovMToG d a) s = execVmovMToG d a s := rfl
theorem exec_vredAdd (d a m t) (s : State) : exec (.vredAdd d a m t) s = execVredAdd d a m t s := rfl
theorem exec_vredMin (d a m t) (s : State) : exec (.vredMin d a m t) s = execVredMin d a m t s := rfl
theorem exec_vredMax (d a m t) (s : State) : exec (.vredMax d a m t) s = execVredMax d a m t s := rfl
theorem exec_vredFadd (d a m t) (s : State) : exec (.vredFadd d a m t) s = execVredFadd d a m t s := rfl
theorem exec_mand (d a b) (s : State) : exec (.mand d a b) s = execMand d a b s := rfl
theorem exec_mor (d a b) (s : State) : exec (.mor d a b) s = execMor d a b s := rfl
theorem exec_mnot (d a) (s : State) : exec (.mnot d a) s = execMnot d a s := rfl
theorem exec_mcnt (d a t) (s : State) : exec (.mcnt d a t) s = execMcnt d a t s := rfl
theorem exec_mma (c a b z k) (s : State) : exec (.mma c a b z k) s = execMma c a b z k s := rfl
theorem exec_mmaSp (c a b n r z k) (s : State) : exec (.mmaSp c a b n r z k) s = execMmaSp c a b n r z k s := rfl
theorem exec_mmaMx (c a b z k) (s : State) : exec (.mmaMx c a b z k) s = execMmaMx c a b z k s := rfl
theorem exec_maccZero (c) (s : State) : exec (.maccZero c) s = execMaccZero c s := rfl
theorem exec_maccMv (c e) (s : State) : exec (.maccMv c e) s = execMaccMv c e s := rfl
theorem exec_startUp (s : State) : exec (.startUp) s = execStartUp s := rfl
theorem exec_firmwareImage (s : State) : exec (.firmwareImage) s = execFirmwareImage s := rfl
theorem exec_firmwareBringup (s : State) : exec (.firmwareBringup) s = execFirmwareBringup s := rfl
theorem exec_feataccWrite (s : State) : exec (.feataccWrite) s = execFeataccWrite s := rfl
theorem exec_attestationRequest (s : State) : exec (.attestationRequest) s = execAttestationRequest s := rfl
theorem exec_streamFaultArm (s : State) : exec (.streamFaultArm) s = execStreamFaultArm s := rfl
theorem exec_launchSubmission (s : State) : exec (.launchSubmission) s = execLaunchSubmission s := rfl
theorem exec_evrbWrite (s : State) : exec (.evrbWrite) s = execEvrbWrite s := rfl
theorem exec_eventDelivery (s : State) : exec (.eventDelivery) s = execEventDelivery s := rfl
theorem exec_eventDrain (s : State) : exec (.eventDrain) s = execEventDrain s := rfl
theorem exec_hpWrite (s : State) : exec (.hpWrite) s = execHpWrite s := rfl
theorem exec_hpRead (s : State) : exec (.hpRead) s = execHpRead s := rfl
theorem exec_hostAccessTimeout (s : State) : exec (.hostAccessTimeout) s = execHostAccessTimeout s := rfl
theorem exec_bedResetRequest (s : State) : exec (.bedResetRequest) s = execBedResetRequest s := rfl
theorem exec_resetClear (s : State) : exec (.resetClear) s = execResetClear s := rfl
theorem exec_checkpointRestore (s : State) : exec (.checkpointRestore) s = execCheckpointRestore s := rfl
theorem exec_clockReduction (s : State) : exec (.clockReduction) s = execClockReduction s := rfl
theorem exec_overtemperatureReset (s : State) : exec (.overtemperatureReset) s = execOvertemperatureReset s := rfl
theorem exec_registerWrite (s : State) : exec (.registerWrite) s = execRegisterWrite s := rfl
theorem exec_ctloadRefill (s : State) : exec (.ctloadRefill) s = execCtloadRefill s := rfl
theorem exec_ctloadRefillComplete (s : State) : exec (.ctloadRefillComplete) s = execCtloadRefillComplete s := rfl
theorem exec_scrubRead (s : State) : exec (.scrubRead) s = execScrubRead s := rfl
theorem exec_icacheRefill (s : State) : exec (.icacheRefill) s = execIcacheRefill s := rfl
theorem exec_storeBufferDrain (s : State) : exec (.storeBufferDrain) s = execStoreBufferDrain s := rfl
theorem exec_regionTableWrite (s : State) : exec (.regionTableWrite) s = execRegionTableWrite s := rfl
theorem exec_regionMove (s : State) : exec (.regionMove) s = execRegionMove s := rfl
theorem exec_routerStep (s : State) : exec (.routerStep) s = execRouterStep s := rfl
theorem exec_gatewayStep (s : State) : exec (.gatewayStep) s = execGatewayStep s := rfl
theorem exec_responseStep (s : State) : exec (.responseStep) s = execResponseStep s := rfl
theorem exec_linkFlitError (s : State) : exec (.linkFlitError) s = execLinkFlitError s := rfl
theorem exec_spireFrameReceive (s : State) : exec (.spireFrameReceive) s = execSpireFrameReceive s := rfl
theorem exec_spireReplayTimeout (s : State) : exec (.spireReplayTimeout) s = execSpireReplayTimeout s := rfl
theorem exec_spireSignalLoss (s : State) : exec (.spireSignalLoss) s = execSpireSignalLoss s := rfl
theorem exec_spireTrain (s : State) : exec (.spireTrain) s = execSpireTrain s := rfl
theorem exec_spireDisable (s : State) : exec (.spireDisable) s = execSpireDisable s := rfl
theorem exec_spireMarkDown (s : State) : exec (.spireMarkDown) s = execSpireMarkDown s := rfl
theorem exec_spireTrainingComplete (s : State) : exec (.spireTrainingComplete) s = execSpireTrainingComplete s := rfl
theorem exec_spireTrainingTimeout (s : State) : exec (.spireTrainingTimeout) s = execSpireTrainingTimeout s := rfl
theorem exec_turnmaskWrite (s : State) : exec (.turnmaskWrite) s = execTurnmaskWrite s := rfl
theorem exec_loadRequest (s : State) : exec (.loadRequest) s = execLoadRequest s := rfl
theorem exec_storeRequest (s : State) : exec (.storeRequest) s = execStoreRequest s := rfl
theorem exec_atomicRequest (s : State) : exec (.atomicRequest) s = execAtomicRequest s := rfl
theorem exec_reductionUpdate (s : State) : exec (.reductionUpdate) s = execReductionUpdate s := rfl
theorem exec_migrationArrival (s : State) : exec (.migrationArrival) s = execMigrationArrival s := rfl
theorem exec_saveImageArrival (s : State) : exec (.saveImageArrival) s = execSaveImageArrival s := rfl
theorem exec_landingQueuePlace (s : State) : exec (.landingQueuePlace) s = execLandingQueuePlace s := rfl
theorem exec_migrationAnswer (s : State) : exec (.migrationAnswer) s = execMigrationAnswer s := rfl
theorem exec_migrationBackoff (s : State) : exec (.migrationBackoff) s = execMigrationBackoff s := rfl
theorem exec_engineCommand (s : State) : exec (.engineCommand) s = execEngineCommand s := rfl
theorem exec_engineCommandExecute (s : State) : exec (.engineCommandExecute) s = execEngineCommandExecute s := rfl
theorem exec_engineDataWrite (s : State) : exec (.engineDataWrite) s = execEngineDataWrite s := rfl
theorem exec_engineRead (s : State) : exec (.engineRead) s = execEngineRead s := rfl
theorem exec_engineTlbMiss (s : State) : exec (.engineTlbMiss) s = execEngineTlbMiss s := rfl
theorem exec_engineResponseTimeout (s : State) : exec (.engineResponseTimeout) s = execEngineResponseTimeout s := rfl
theorem exec_commandSend (s : State) : exec (.commandSend) s = execCommandSend s := rfl
theorem exec_busyRetryTimer (s : State) : exec (.busyRetryTimer) s = execBusyRetryTimer s := rfl
theorem exec_progressResponse (s : State) : exec (.progressResponse) s = execProgressResponse s := rfl
theorem exec_commandCompletion (s : State) : exec (.commandCompletion) s = execCommandCompletion s := rfl
theorem exec_fifoctlWrite (s : State) : exec (.fifoctlWrite) s = execFifoctlWrite s := rfl
theorem exec_quenchArrival (s : State) : exec (.quenchArrival) s = execQuenchArrival s := rfl
theorem exec_quenchMessage (s : State) : exec (.quenchMessage) s = execQuenchMessage s := rfl
theorem exec_quenchAck (s : State) : exec (.quenchAck) s = execQuenchAck s := rfl
theorem exec_stashCommand (s : State) : exec (.stashCommand) s = execStashCommand s := rfl
theorem exec_probe (s : State) : exec (.probe) s = execProbe s := rfl
theorem exec_probeAnswer (s : State) : exec (.probeAnswer) s = execProbeAnswer s := rfl
theorem exec_rankerSlotWrite (s : State) : exec (.rankerSlotWrite) s = execRankerSlotWrite s := rfl
theorem exec_goStart (s : State) : exec (.goStart) s = execGoStart s := rfl
theorem exec_snapshotRequest (s : State) : exec (.snapshotRequest) s = execSnapshotRequest s := rfl
theorem exec_snapshotCapture (s : State) : exec (.snapshotCapture) s = execSnapshotCapture s := rfl
theorem exec_ranking (s : State) : exec (.ranking) s = execRanking s := rfl
theorem exec_graftPair (s : State) : exec (.graftPair) s = execGraftPair s := rfl
theorem exec_pairReport (s : State) : exec (.pairReport) s = execPairReport s := rfl
theorem exec_pairTimeout (s : State) : exec (.pairTimeout) s = execPairTimeout s := rfl
theorem exec_goEnd (s : State) : exec (.goEnd) s = execGoEnd s := rfl
theorem exec_missMessage (s : State) : exec (.missMessage) s = execMissMessage s := rfl
theorem exec_tlbFill (s : State) : exec (.tlbFill) s = execTlbFill s := rfl
theorem exec_tlbFillNp (s : State) : exec (.tlbFillNp) s = execTlbFillNp s := rfl
theorem exec_tlbFillEngine (s : State) : exec (.tlbFillEngine) s = execTlbFillEngine s := rfl
theorem exec_tlbinvPage (s : State) : exec (.tlbinvPage) s = execTlbinvPage s := rfl
theorem exec_tlbinvContext (s : State) : exec (.tlbinvContext) s = execTlbinvContext s := rfl
theorem exec_tlbinvAll (s : State) : exec (.tlbinvAll) s = execTlbinvAll s := rfl
theorem exec_wfzRetryTimer (s : State) : exec (.wfzRetryTimer) s = execWfzRetryTimer s := rfl
theorem exec_nackReceived (s : State) : exec (.nackReceived) s = execNackReceived s := rfl
theorem exec_acknowledgement (s : State) : exec (.acknowledgement) s = execAcknowledgement s := rfl
theorem exec_packetOpenTimeout (s : State) : exec (.packetOpenTimeout) s = execPacketOpenTimeout s := rfl
theorem exec_exchangeStoreArrival (s : State) : exec (.exchangeStoreArrival) s = execExchangeStoreArrival s := rfl
theorem exec_exchangeAbortReport (s : State) : exec (.exchangeAbortReport) s = execExchangeAbortReport s := rfl
theorem exec_exchangeAbortApply (s : State) : exec (.exchangeAbortApply) s = execExchangeAbortApply s := rfl
theorem exec_explicitMessage (s : State) : exec (.explicitMessage) s = execExplicitMessage s := rfl
theorem exec_explicitStore (s : State) : exec (.explicitStore) s = execExplicitStore s := rfl
theorem exec_spawnArrival (s : State) : exec (.spawnArrival) s = execSpawnArrival s := rfl
theorem exec_spawnAnswer (s : State) : exec (.spawnAnswer) s = execSpawnAnswer s := rfl
theorem exec_remoteMatrixCommand (s : State) : exec (.remoteMatrixCommand) s = execRemoteMatrixCommand s := rfl
theorem exec_remoteCommandStart (s : State) : exec (.remoteCommandStart) s = execRemoteCommandStart s := rfl
theorem exec_mmaFetchEnd (s : State) : exec (.mmaFetchEnd) s = execMmaFetchEnd s := rfl
theorem exec_matrixOpStart (s : State) : exec (.matrixOpStart) s = execMatrixOpStart s := rfl
theorem exec_matrixOpRetire (s : State) : exec (.matrixOpRetire) s = execMatrixOpRetire s := rfl
theorem exec_slotStart (s : State) : exec (.slotStart) s = execSlotStart s := rfl
theorem exec_slotResume (s : State) : exec (.slotResume) s = execSlotResume s := rfl
theorem exec_slotHold (s : State) : exec (.slotHold) s = execSlotHold s := rfl
theorem exec_slotDiscard (s : State) : exec (.slotDiscard) s = execSlotDiscard s := rfl
theorem exec_slotReleaseLost (s : State) : exec (.slotReleaseLost) s = execSlotReleaseLost s := rfl
theorem exec_slotResumeHeld (s : State) : exec (.slotResumeHeld) s = execSlotResumeHeld s := rfl
theorem exec_preemptRequest (s : State) : exec (.preemptRequest) s = execPreemptRequest s := rfl
theorem exec_preemption (s : State) : exec (.preemption) s = execPreemption s := rfl
theorem exec_freezeImageWritten (s : State) : exec (.freezeImageWritten) s = execFreezeImageWritten s := rfl
theorem exec_domWrite (s : State) : exec (.domWrite) s = execDomWrite s := rfl
theorem exec_dtabWrite (s : State) : exec (.dtabWrite) s = execDtabWrite s := rfl
theorem exec_barrierReport (s : State) : exec (.barrierReport) s = execBarrierReport s := rfl
theorem exec_linkDieBarrierReport (s : State) : exec (.linkDieBarrierReport) s = execLinkDieBarrierReport s := rfl
theorem exec_domainRelease (s : State) : exec (.domainRelease) s = execDomainRelease s := rfl
theorem exec_followJoinTimeout (s : State) : exec (.followJoinTimeout) s = execFollowJoinTimeout s := rfl
theorem exec_yieldExpiry (s : State) : exec (.yieldExpiry) s = execYieldExpiry s := rfl
theorem exec_waiterPollTimer (s : State) : exec (.waiterPollTimer) s = execWaiterPollTimer s := rfl
theorem exec_reservationProtectExpiry (s : State) : exec (.reservationProtectExpiry) s = execReservationProtectExpiry s := rfl
theorem exec_contextTableWrite (s : State) : exec (.contextTableWrite) s = execContextTableWrite s := rfl
theorem exec_ctxKill (s : State) : exec (.ctxKill) s = execCtxKill s := rfl
theorem exec_ctxCreate (s : State) : exec (.ctxCreate) s = execCtxCreate s := rfl
theorem exec_ctxOpComplete (s : State) : exec (.ctxOpComplete) s = execCtxOpComplete s := rfl
theorem exec_lqctlWrite (s : State) : exec (.lqctlWrite) s = execLqctlWrite s := rfl
theorem exec_placementStep (s : State) : exec (.placementStep) s = execPlacementStep s := rfl
theorem exec_stealRequest (s : State) : exec (.stealRequest) s = execStealRequest s := rfl
theorem exec_stealAnswer (s : State) : exec (.stealAnswer) s = execStealAnswer s := rfl
theorem exec_globalTimestampAdvance (s : State) : exec (.globalTimestampAdvance) s = execGlobalTimestampAdvance s := rfl
theorem exec_performedForPath (s : State) : exec (.performedForPath) s = execPerformedForPath s := rfl
theorem exec_softError (s : State) : exec (.softError) s = execSoftError s := rfl
theorem exec_overtemperatureRelease (s : State) : exec (.overtemperatureRelease) s = execOvertemperatureRelease s := rfl
theorem exec_graftStatAnswer (s : State) : exec (.graftStatAnswer) s = execGraftStatAnswer s := rfl
theorem exec_launchRecordArrival (s : State) : exec (.launchRecordArrival) s = execLaunchRecordArrival s := rfl
theorem exec_maccLdReadEnd (s : State) : exec (.maccLdReadEnd) s = execMaccLdReadEnd s := rfl

end Sys2Proof.Machine
end

