-- ==== Sys2Proof/Laws/Ops.lean ====
section
/-! SUPPORT. How a word's meaning becomes a step: the checks before it, and the slot after it. -/

namespace Sys2Proof.Machine

/-- The checks of R295 pass exactly when the word is admitted. -/
theorem check_none_iff (i : Instr) (s : State) : (gateOf i).check s = none ↔ Admitted i s := by
  unfold Gate.check Admitted
  by_cases hf : s.feat.getLsbD (gateOf i).feature <;> by_cases hh : s.cur.place.heavy <;> by_cases hr : s.cur.place.rim <;>
    by_cases hm : s.sysMode <;> by_cases h0 : (gateOf i).slots = 0 <;> by_cases h1 : (gateOf i).slots = 1 <;>
    by_cases hs : (gateOf i).sys <;> simp_all

/-- An admitted word runs its meaning. -/
theorem word_admitted {i : Instr} {s : State} (h : Admitted i s) (f : State → Res) : word i s f = done (f s) := by
  simp [word, (check_none_iff i s).2 h]

/-- What completing a word does to its slot. -/
theorem completeWord_eq (s : State) (npc : Option Word) (al : Option Nat) : completeWord s npc al = s.retireTo (npc.getD s.cur.next) al := by
  unfold completeWord State.retireTo Slot.retire
  cases h : s.cur.half <;> simp [h, State.modHere, State.modSlot, State.here]

/-- A word that completes. -/
theorem done_ok (s : State) : done (.ok s) = .next s.retired := by
  simp [done, settle, completeWord_eq, State.retired]

/-- A word that completes aligned. -/
theorem done_aligned (s : State) (n : Nat) : done (.aligned s n) = .next (s.retireTo s.cur.next (some n)) := by
  simp [done, settle, completeWord_eq]

@[simp] theorem State.retireTo_cur (s : State) (t : Word) (al : Option Nat) : (s.retireTo t al).cur = s.cur := by
  unfold State.retireTo; split <;> rfl

/-- A word that completes and transfers. -/
theorem done_jump (s : State) (t : Word) : done (.jump s t) = .next (s.jumped t) := by
  simp [done, settle, completeWord_eq, State.jumped]

/-- A word whose trap is taken once its bundle is complete. -/
theorem done_after (s : State) (c n : Nat) : done (.after s c n) = .next { s.retired with cur := { s.cur with pend := some (c, n) } } := by
  simp [done, settle, completeWord_eq, State.retired]

/-- A word that is a register operation gives its value. -/
theorem gives_regOp {i : Instr} {d : BitVec 5} {s : State} {f : State → Word} {v : Word} (h : exec i s = regOp i d s f) (hv : f s = v) : Gives i d s v := by
  intro ha
  rw [h, regOp, word_admitted ha, done_ok, hv]

end Sys2Proof.Machine
end

