-- ==== Sys2Proof/Laws/Access.lean ====
section
/-! SUPPORT. Accesses of a slot to its core's own memory: the checks of R32 pass, loads read the bytes as they stand, stores enter the store buffer. -/

namespace Sys2Proof.Machine

/-- The access that the checks make of an own address. -/
def ownAcc (p : Place) (pa : Word) (w off : Nat) : Acc :=
  { pa := pa, rng := .core p.unit p.core w off, la := resolveLa p.unit p.core (pa.toNat % 2 ^ 52), own := true, cross := false }

@[simp] theorem ownAcc_own (p : Place) (pa : Word) (w off : Nat) : (ownAcc p pa w off).own = true := rfl
@[simp] theorem ownAcc_cross (p : Place) (pa : Word) (w off : Nat) : (ownAcc p pa w off).cross = false := rfl
@[simp] theorem ownAcc_pa (p : Place) (pa : Word) (w off : Nat) : (ownAcc p pa w off).pa = pa := rfl
@[simp] theorem ownAcc_rng (p : Place) (pa : Word) (w off : Nat) : (ownAcc p pa w off).rng = .core p.unit p.core w off := rfl

@[simp] theorem ownRange_core (p : Place) (w off : Nat) : ownRange p (.core p.unit p.core w off) = true := by simp [ownRange]

/-- A range of the core's own memory passes the tests after the range is known. -/
theorem rangeCheck_own (s : State) (p : Place) (pa : Word) (kind : Kind) (w off la : Nat) (ho : off < sysOff p.unit) (hw : w ≤ 1)
    (hk : kind = .future → w = 1) (hf : kind = .fetch → w = 0) :
    rangeCheck s p pa kind false (.core p.unit p.core w off) la =
      .ok s { pa := pa, rng := .core p.unit p.core w off, la := resolveLa p.unit p.core la, own := true, cross := false } := by
  have h1 : windowAllowed p kind false (.core p.unit p.core w off) = true := by
    unfold windowAllowed
    by_cases h : kind = .future
    · simp [h, hk h]
    · by_cases h' : kind = .fetch
      · simp [h', hf h']
      · simp [h, h', hw]
  have h2 : inSystemArea (.core p.unit p.core w off) = false := by simp [inSystemArea]; omega
  have h3 : s.isCross p (.core p.unit p.core w off) = false := by simp [State.isCross, State.homeOf]
  simp [rangeCheck, portLoad, readOnlyStore, Rng.isCtl, isRemote, h1, h2, h3]

/-- The checks of R32 admit an own address (R17, R24, R28, R32). -/
theorem addressCheck_own {s : State} {p : Place} {pa : Word} {n al w off : Nat} {kind : Kind} (h : OwnAt p pa n al w off)
    (hk : kind = .future → w = 1) (hf : kind = .fetch → w = 0) :
    addressCheck s p pa n al kind false = .ok s (ownAcc p pa w off) := by
  obtain ⟨hp, hd, hw, ho, hn, ha, hx⟩ := h
  have h60 : pa.toNat / 2 ^ 60 = 0xF := by omega
  have hb : bits pa.toNat 59 52 = 0 := by unfold bits; rw [Nat.shiftRight_eq_div_pow]; omega
  have hs : inSystemArea (.core p.unit p.core w off) = false := by simp [inSystemArea]; omega
  unfold addressCheck fixedCheck
  rw [if_neg (by omega), if_neg (by omega), if_pos h60]
  simp only [hd, hb]
  rw [if_neg (by simp [State.isHole]), if_neg (by simp [sysOnly, Rng.isCtl, hs, reachOk]),
    rangeCheck_own s p pa kind w off _ (by omega) hw hk hf]
  rfl

/-- An access to an own address goes straight on. -/
theorem accessing_own {s : State} {pa : Word} {n al w off : Nat} {kind : Kind} (h : OwnAt s.cur.place pa n al w off)
    (hk : kind = .future → w = 1) (hf : kind = .fetch → w = 0) (f : State → Acc → Res) :
    accessing s pa n al kind false f = f s (ownAcc s.cur.place pa w off) := by
  unfold accessing
  simp [addressCheck_own h hk hf, crossing]

/-! ### Reading -/

/-- The bytes of two adjoining reads. -/
theorem memGetMany_add (m : List Host.Cell) (k a b : Nat) : memGetMany m k (a + b) = memGetMany m k a ++ memGetMany m (k + a) b := by
  simp [memGetMany, List.range_add, Function.comp_def, Nat.add_assoc]

@[simp] theorem length_memGetMany (m : List Host.Cell) (k n : Nat) : (memGetMany m k n).length = n := by simp [memGetMany]

/-- With nothing lagging, a path reads memory as it stands. -/
theorem pathBytes_noLag {s : State} {q : Path} (h : s.lag.all (fun l => l.reader != q) = true) (k n who : Nat) :
    pathBytes s q k n who = memGetMany s.mem k n := by
  unfold pathBytes memGetMany
  refine List.map_congr_left fun i _ => pathByte_noLag s q (k + i) who fun l hl hr => ?_
  have := List.all_eq_true.1 h l hl
  simp [hr] at this

@[simp] theorem Rng.add_core (u c w o n : Nat) : (Rng.core u c w o).add n = .core u c w (o + n) := rfl

theorem coreKey_add (u c o n : Nat) : coreKey u c (o + n) = coreKey u c o + n := by
  unfold coreKey; split <;> omega

/-- A load of a core's memory reads the bytes as they stand. -/
theorem readAt_core {s : State} (unit u c w off n : Nat) (q : Path) (he : s.errs = []) (hl : s.lag.all (fun l => l.reader != q) = true) (who : Nat) :
    readAt s unit q (.core u c w off) n who = (s, some (memGetMany s.mem (coreKey u c off) n)) := by
  have key : ∀ j, ((List.range j).map fun i => (16 * i, min 16 (n - 16 * i))).foldl (fun (acc : State × Option (List Byte)) pc =>
        match acc.1.keyOf unit ((Rng.core u c w off).add pc.1) with
        | none => (acc.1, acc.2.map fun bs => bs ++ List.replicate pc.2 0)
        | some k =>
          let (t, got) := acc.1.take q k pc.2 who
          (t, acc.2.bind fun bs => got.map fun g => bs ++ g)) (s, some []) = (s, some (memGetMany s.mem (coreKey u c off) (min (16 * j) n))) := by
    intro j
    induction j with
    | zero => simp [memGetMany]
    | succ j ih =>
      rw [List.range_succ, List.map_append, List.foldl_append, ih]
      simp only [List.map_cons, List.map_nil, List.foldl_cons, List.foldl_nil, Rng.add_core, State.keyOf, State.take_noErrs _ _ _ _ _ he,
        Option.map_some, Option.bind_some, pathBytes_noLag hl, coreKey_add]
      by_cases hj : 16 * j ≤ n
      · rw [show min (16 * (j + 1)) n = 16 * j + min 16 (n - 16 * j) by omega, show min (16 * j) n = 16 * j by omega, memGetMany_add]
      · rw [show min (16 * (j + 1)) n = n by omega, show min (16 * j) n = n by omega, show min 16 (n - 16 * j) = 0 by omega]
        simp [memGetMany]
  have h := key ((n + 15) / 16)
  rw [show min (16 * ((n + 15) / 16)) n = n by omega] at h
  unfold readAt
  rw [if_neg (by simp [Rng.isCtl])]
  exact h

/-- A slot in no block makes no bank access of a block. -/
theorem blockAccess_noBlock {s : State} (h : s.here.blk = none) (off n : Nat) : blockAccess s off n = s := by simp [blockAccess, h]

/-- An empty store buffer forwards nothing. -/
theorem forward_empty {s : State} {p : Place} (h : (s.coreAt p).sbuf = []) (k : Nat) (bs : List Byte) : forward s p k bs = bs := by
  simp [forward, h]

/-- A core none of whose channels has a range holds no access back. -/
theorem stalledBy_unarmed {s : State} {p : Place} (h : Unarmed (s.coreAt p)) (pa : Word) (n : Nat) : stalledBy s p pa n = none := by
  simp only [Unarmed, List.all_eq_true, Bool.and_eq_true, beq_iff_eq] at h
  simp only [stalledBy, Option.map_eq_none_iff, List.find?_eq_none, decide_eq_true_eq]
  intro e he
  simp [h e he]

/-- With no range on any channel, no access passes a watermark check. -/
theorem passMarks_unarmed {s : State} {p : Place} (h : Unarmed (s.coreAt p)) (pa : Word) (n : Nat) : passMarks s p pa n = s := by
  simp only [Unarmed, List.all_eq_true, Bool.and_eq_true, beq_iff_eq] at h
  have hn : ((s.coreAt p).chans.filter fun e => passesMark pa n e.2) = [] := by
    refine List.filter_eq_nil_iff.2 fun e he => ?_
    simp [passesMark, (h e he).2]
  simp [passMarks, hn]

/-- An observation changes what the thread has observed, and nothing else. -/
theorem observe_frame (s : State) (p : Place) (f : Lag → Bool) : Observes s (observe s p f) := by
  unfold observe; dsimp only; split <;> exact ⟨_, _, rfl⟩

theorem Observes.refl (s : State) : Observes s s := ⟨_, _, rfl⟩

theorem Observes.trans {s t u : State} (h : Observes s t) (h' : Observes t u) : Observes s u := by
  obtain ⟨a, b, rfl⟩ := h
  obtain ⟨c, d, rfl⟩ := h'
  exact ⟨c, d, rfl⟩

theorem acquireKeys_frame (s : State) (p : Place) (ks : List Nat) : Observes s (acquireKeys s p ks) := by
  unfold acquireKeys; dsimp only; split
  · exact .refl s
  · exact observe_frame s p _

theorem hear_frame (s : State) (p : Place) (ks : List Nat) : Observes s (hear s p ks) := by
  unfold hear; dsimp only; split <;> exact ⟨_, _, rfl⟩

theorem acquireHeard_frame (s : State) (p : Place) : Observes s (acquireHeard s p) := by
  unfold acquireHeard; dsimp only; split
  · exact .refl s
  · exact (observe_frame s p _).trans ⟨_, _, rfl⟩

theorem observeRead_frame (s : State) (p : Place) (r : Rng) (n : Nat) : Observes s (observeRead s p r n) := by
  unfold observeRead
  dsimp only
  split
  · split
    · exact (observe_frame s p _).trans (observe_frame _ p _)
    · exact observe_frame s p _
  · exact observe_frame s p _

/-- What a load observes changes nothing but the record of it (R201). -/
theorem observeLoad_frame (s : State) (p : Place) (r : Rng) (n : Nat) : Observes s (observeLoad s p r n) := by
  unfold observeLoad
  split
  · exact .refl s
  · dsimp only
    split
    · exact (observeRead_frame s p r n).trans (acquireKeys_frame _ p _)
    · exact (observeRead_frame s p r n).trans (hear_frame _ p _)

/-- With nothing pending there is nothing to observe. -/
theorem observeLoad_noLag {s : State} (h : s.lag = []) (p : Place) (r : Rng) (n : Nat) : observeLoad s p r n = s := by simp [observeLoad, h]

theorem ntMeets_none {s : State} {p : Place} (h : (s.slot p).ntOut = []) (k n : Nat) : ntMeets s p k n = false := by simp [ntMeets, h]

theorem asyncMeets_none {s : State} (h : NoneSent s) (k n : Nat) : asyncMeets s s.cur.place k n = false := by
  refine List.any_eq_false.2 fun q hq => ?_
  have := List.all_eq_true.1 h q hq
  simp only [Bool.or_eq_true, bne_iff_ne, ne_eq, beq_iff_eq] at this
  simp only [Bool.and_eq_true, Bool.not_eq_true', beq_iff_eq, decide_eq_true_eq, not_and]
  rintro ⟨⟨h1, h2⟩, h3⟩
  rcases this with (h4 | h4) | h4
  · simp [h1] at h4
  · exact absurd h2 h4
  · omega

/-- With no piece held, an own access is read whole. -/
theorem readOwn_core {s : State} (he : s.errs = []) (hl : s.lag.all (fun l => l.reader != .ls) = true) (hs : (s.coreAt s.cur.place).sbuf = [])
    (pa : Word) (w off n : Nat) (hn : n ≤ 16 ∨ ∀ k, heldData s.here.resp k = none) :
    readOwn s s.cur.place (ownAcc s.cur.place pa w off) n = (s, some (s.ownBytes s.cur.place off n)) := by
  have hr : ∀ o m, readAt s s.cur.place.unit .ls (.core s.cur.place.unit s.cur.place.core w o) m (unitKey s.cur.place.unit s.cur.place.core) =
      (s, some (memGetMany s.mem (coreKey s.cur.place.unit s.cur.place.core o) m)) := fun o m => readAt_core _ _ _ _ _ _ _ he hl _
  unfold readOwn
  split
  · simp [hr, forward_empty hs, State.ownBytes]
  · next h =>
    have hn : ∀ k, heldData s.here.resp k = none := hn.resolve_left fun h' => h (.inl h')
    have key : ∀ j, ((List.range j).map fun i => (16 * i, min 16 (n - 16 * i))).foldl (fun (acc : State × Option (List Byte)) pc =>
        let (t, got) := pieceAt acc.1 s.cur.place (ownAcc s.cur.place pa w off) (pc.1 / 16) pc.2
        (t, acc.2.bind fun bs => got.map fun g => bs ++ g)) (s, some []) =
          (s, some (memGetMany s.mem (coreKey s.cur.place.unit s.cur.place.core off) (min (16 * j) n))) := by
      intro j
      induction j with
      | zero => simp [memGetMany]
      | succ j ih =>
        rw [List.range_succ, List.map_append, List.foldl_append, ih]
        simp only [List.map_cons, List.map_nil, List.foldl_cons, List.foldl_nil, pieceAt, hn, ownAcc_rng, Rng.add_core,
          show 16 * (16 * j / 16) = 16 * j by omega, hr, forward_empty hs, Option.map_some, Option.bind_some, coreKey_add]
        by_cases hj : 16 * j ≤ n
        · rw [show min (16 * (j + 1)) n = 16 * j + min 16 (n - 16 * j) by omega, show min (16 * j) n = 16 * j by omega, memGetMany_add]
        · rw [show min (16 * (j + 1)) n = n by omega, show min (16 * j) n = n by omega, show min 16 (n - 16 * j) = 0 by omega]
          simp [memGetMany]
    have h := key ((n + 15) / 16)
    rw [show min (16 * ((n + 15) / 16)) n = n by omega] at h
    exact h

/-- A load of an own address by a slot in no block, with its core quiet, has its bytes at once (R25, R192, R318). -/
theorem loadBytes_own {s : State} (hq : Quiet s) (hb : s.here.blk = none) (pa : Word) (w off n : Nat) (hn : n ≤ 16 ∨ Whole s) (f : State → List Byte → Res) :
    loadBytes s (ownAcc s.cur.place pa w off) n f =
      f (observeLoad s s.cur.place (.core s.cur.place.unit s.cur.place.core w off) n) (s.ownBytes s.cur.place off n) := by
  obtain ⟨hc, hs, ht, he, hl, ha⟩ := hq
  have h1 := stalledBy_unarmed hc pa n
  have h2 : loadBlocked s s.cur.place (locKey (.core s.cur.place.unit s.cur.place.core w off)) n = false := by
    simp [loadBlocked, hs, ntMeets_none ht, asyncMeets_none ha]
  have h4 := readOwn_core he hl hs pa w off n (hn.imp_right (·.2))
  have h5 : ¬(16 < n ∧ s.cur.part ≠ 0 ∧ s.here.blk = none) := by
    rintro ⟨h, h', -⟩
    rcases hn with hn | hn
    · omega
    · exact h' hn.1
  unfold loadBytes
  simp [h1, h2, h5, passMarks_unarmed hc, blockAccess_noBlock hb, h4, forwards, hs]

/-- A store to an own address by a slot in no block, none of whose stores is on its way, enters the store buffer while it has room (R189, R192). -/
theorem storeBytes_own {s : State} (hb : s.here.blk = none) (hr : (s.coreAt s.cur.place).sbuf.length < 16) (ht : s.here.ntOut = []) (ha : NoneSent s)
    (pa : Word) (w off : Nat) (bs : List Byte) (rel : Option Nat) (f : State → Res) :
    storeBytes s (ownAcc s.cur.place pa w off) bs rel f = f (s.buffered pa w off bs rel) := by
  unfold storeBytes
  rw [if_neg (by simp [hb]), if_neg (by simp [Rng.isRegion]), if_neg (by simp [hr, ntMeets_none ht, asyncMeets_none ha])]
  rfl

/-- A store to memory is refused by no register. -/
theorem refusedStore_own (s : State) (pa : Word) (w off : Nat) (bs : List Byte) : refusedStore s (ownAcc s.cur.place pa w off) bs = false := by
  simp [refusedStore, Rng.isCtl]

theorem unlessRefused_own (s : State) (pa : Word) (w off : Nat) (bs : List Byte) (r : Res) : unlessRefused s (ownAcc s.cur.place pa w off) bs r = r := by
  simp [unlessRefused, refusedStore_own, refusalWaits, Rng.isCtl]

/-- A read-modify-write of an own address below the system area by a slot in no block, with its core quiet, its code table at rest and nothing answered yet, is made at
once (R54, R323, R324). -/
theorem rmwAccess_own {s : State} (hq : Quiet s) (hb : s.here.blk = none) (hr : s.here.resp = [])
    (hk : (s.coreAt s.cur.place).ctBusy = none) (pa : Word) (w off n : Nat) (ho : off + n ≤ sysOff s.cur.place.unit) (op : Rmw) (h4 : rmwReady s s.cur.place op = true) (f : State → Word → Res) :
    rmwAccess s (ownAcc s.cur.place pa w off) n op f =
      match rmwWord s (slotKey s.cur.place) (coreKey s.cur.place.unit s.cur.place.core off) op with
      | (t, .value v) => rmwDone t (ownAcc s.cur.place pa w off) n v f
      | (t, .park k) => t.waitAt k (k == .future (coreKey s.cur.place.unit s.cur.place.core off)) pa
      | (t, .bad) => dataError t pa := by
  obtain ⟨hc, hs, ht, he, hl, hx⟩ := hq
  have h1 := fun pa => stalledBy_unarmed hc pa n
  have h5 : tableHeld s (.core s.cur.place.unit s.cur.place.core w off) n = false := by
    unfold tableHeld
    unfold sysOff at ho
    split at ho
    · simp [show ¬(off < 0xFCC10 ∧ 0xFC800 < off + n) by omega]
    · next h => simp [h]
  have h6 : ownHeld s s.cur.place (.core s.cur.place.unit s.cur.place.core w off) n = false := by simp [ownHeld, h5, hk]
  unfold rmwAccess
  cases op <;> simp [h1, h4, h6, hr, heldValue, State.keyOf, passMarks_unarmed hc, ntMeets_none ht, asyncMeets_none hx, blockAccess_noBlock hb] <;>
    (generalize rmwWord s _ _ _ = r; obtain ⟨t, r⟩ := r; cases r <;> rfl)

/-- A request that is routed goes out, and adds itself to the packets under way. -/
theorem inject_routed {s : State} {r : Rng} (h : Routed s r) (q : Pkt) :
    ∃ q', inject s s.cur.place r q = .sent { s with pkts := s.pkts ++ [q'] } ∧ q'.kind = q.kind ∧ q'.dest = q.dest ∧ q'.body = q.body ∧
      q'.src = q.src ∧ q'.slot = q.slot ∧ q'.resp = q.resp ∧ q'.id = q.id := by
  have on : s.errs = [] → (s.routeEntry s.cur.place.unit s.cur.place.core (s.routeIx s.cur.place.unit r)).valid = true →
      routeRefused s.cur.place.rim false (s.routeString s.cur.place.unit s.cur.place.core (s.routeIx s.cur.place.unit r)) = none →
      ∃ q', injectOn s s.cur.place (s.routeIx s.cur.place.unit r) q = .sent { s with pkts := s.pkts ++ [q'] } ∧ q'.kind = q.kind ∧ q'.dest = q.dest ∧
        q'.body = q.body ∧ q'.src = q.src ∧ q'.slot = q.slot ∧ q'.resp = q.resp ∧ q'.id = q.id := by
    intro h1 h2 h3
    have h0 : s.seeRoute s.cur.place.unit s.cur.place.core 3 (s.routeIx s.cur.place.unit r) = s := by unfold State.seeRoute; simp [h1]
    unfold injectOn
    simp only [h0, h2, h3]
    exact ⟨_, rfl, rfl, rfl, rfl, rfl, rfl, rfl, rfl⟩
  unfold inject
  rcases h with ⟨h1, h2⟩ | ⟨h1, h2, h3⟩
  · simp only [h1]
    split
    · exact ⟨_, rfl, rfl, rfl, rfl, rfl, rfl, rfl, rfl⟩
    · next hx =>
      rcases h2 with h2 | ⟨w, off, h2⟩ | ⟨off, h2⟩
      · exact absurd ⟨trivial, h2⟩ hx
      · subst h2; simp only [and_self, if_true]; exact ⟨_, rfl, rfl, rfl, rfl, rfl, rfl, rfl, rfl⟩
      · subst h2; simp only [and_self, if_true]; exact ⟨_, rfl, rfl, rfl, rfl, rfl, rfl, rfl, rfl⟩
  · split
    · next hh =>
      split
      · exact ⟨_, rfl, rfl, rfl, rfl, rfl, rfl, rfl, rfl⟩
      · split
        · split
          · exact ⟨_, rfl, rfl, rfl, rfl, rfl, rfl, rfl, rfl⟩
          · exact on h1 h2 h3
        · split
          · exact ⟨_, rfl, rfl, rfl, rfl, rfl, rfl, rfl, rfl⟩
          · exact on h1 h2 h3
        · exact on h1 h2 h3
    · exact on h1 h2 h3

end Sys2Proof.Machine
end

