-- ==== Sys2Proof/Tests/Slice0.lean ====
section
/-! SUPPORT. Tests: words the spec writes out, ill-formed fields, the spec's worked cases, and for every statement small states that meet its
hypotheses, with what the spec then says of one field of the result. -/

open Sys2Proof Sys2Proof.Machine

set_option Elab.async false
set_option synthInstance.maxSize 4000

namespace Sys2Proof.Tests

/-- Slot h0 and slot l0 of core 0 of bed 0, and slot 0 of core 0 of rim die 1. -/
def h0 : Place := ⟨0, 0, 0⟩
def l0 : Place := ⟨0, 0, 4⟩
def r0 : Place := ⟨17, 0, 0⟩

/-- A slot that runs in system mode at the start of its core's memory. -/
def slotAt (p : Place) : Slot :=
  { Slot.empty with st := .run, name := p.name, th := { Thread.zero with mode := true, pc := 0xF000F00000000000 } }

/-- A machine with every instruction feature where one slot runs a lone word. -/
def base (p : Place) : State :=
  { State.reset with feat := 0x7FF, ts := 1000, slots := [(slotKey p, slotAt p)],
                     cur := { Cur.none with place := p, pc := 0xF000F00000000000, next := 0xF000F00000000004 } }

/-- A program address of the executing core's memory at an offset, through RAW (R17). -/
def own (off : Nat) : Word := BitVec.ofNat 64 (0xF000F00000000000 + off)

/-- Set general registers. -/
def regs (l : List (Nat × Word)) (s : State) : State := l.foldl (fun t e => t.setG (BitVec.ofNat 5 e.1) e.2) s

/-- Put bytes into the executing core's memory, and doublewords. -/
def poke (off : Nat) (bs : List Byte) (s : State) : State :=
  { s with mem := memSetMany s.mem (coreKey s.cur.place.unit s.cur.place.core off) bs }
def words (off : Nat) (ws : List Nat) (s : State) : State := poke off (ws.flatMap (bytesOf 8)) s

/-- Change the executing slot, its core and its thread. -/
def onSlot (f : Slot → Slot) (s : State) : State := s.modSlot s.cur.place f
def onCore (f : Core → Core) (s : State) : State := s.modCoreAt s.cur.place f

/-- What holds of the state after an instruction. -/
def acts (i : Instr) (s : State) (f : State → Bool) : Bool :=
  match exec i s with
  | .next t => f t
  | _ => false

/-- The general register an instruction leaves, from given registers of a heavy slot. -/
def gives (i : Instr) (l : List (Nat × Word)) (d : BitVec 5) : Word :=
  match exec i (regs l (base h0)) with
  | .next t => t.opG d
  | _ => 0xBAD

/-- The cause and SUB of the trap an instruction takes. -/
def trapOf (i : Instr) (s : State) : Nat × Nat :=
  match exec i s with
  | .next t => (t.here.th.ecause.toNat % 256, t.here.th.ecause.toNat / 65536)
  | _ => (0, 0)

/-- A route-table entry of the executing core with a string of items (R83). -/
def route (n codes : Nat) (s : State) : State := poke (0xF0000 + 16 * n) (bytesOf 16 (codes + 2 ^ 122)) s

/-- The string from core 0 to core 1 of a bed: one move, then the core port. -/
def toCore1 : Nat := 0o741

/-- A program address in core 1 of bed 0, and its access as the checks of R32 pass it. -/
def far (off : Nat) : Word := BitVec.ofNat 64 (0xF00 * 2 ^ 52 + 2 ^ 24 + off)
def farAcc (off : Nat) : Acc := { pa := far off, rng := .core 0 1 0 off, la := 2 ^ 24 + off, own := false, cross := false }

/-- A line of words 0 in the instruction cache, the second line of the executing core's memory. -/
def cached (s : State) : State := onCore (fun c => { c with icache := [(1, List.replicate 64 0)] }) s

/-- A buffered doubleword store of a slot. -/
def stored (slot off v : Nat) : SbEntry :=
  { slot := slot, pa := own off, rng := .core 0 0 0 off, key := off, bytes := bytesOf 8 v, sent := none, id := 7, rel := none, gone := 0, ctx := 0 }

theorem lands40 : Lands (cached (base h0)) (own 0x40) :=
  ⟨0x40, 0, by unfold OwnAt; decide +kernel, by decide +kernel, by decide, fun h => absurd h (by decide +kernel)⟩

theorem lands44 : Lands (cached (base h0)) (own 0x44) :=
  ⟨0x44, 0, by unfold OwnAt; decide +kernel, by decide +kernel, by decide,
    fun _ => ⟨0x40, 0, by unfold OwnAt; decide +kernel, by decide +kernel, by decide, by decide⟩⟩

theorem routed_far (off : Nat) : Routed (route 1 toCore1 (base h0)) (farAcc off).rng := by
  refine .inr ⟨rfl, ?_, ?_⟩
  · show ((route 1 toCore1 (base h0)).routeEntry 0 0 1).valid = true
    decide +kernel
  · show routeRefused false false ((route 1 toCore1 (base h0)).routeString 0 0 1) = none
    decide +kernel

/-- A configured core barrier of the executing core (R218). -/
def coreBar (n arrived count : Nat) (donets : Word) (s : State) : State :=
  s.setBar s.cur.place.unit s.cur.place.core n { Bar.empty with kind := 1, count := count, arrived := arrived, donets := donets }

/-- A one-dimensional byte tensor of 64 bytes (R107). -/
def tensor64 (b : Nat) : List Byte := bytesOf 64 (b + 64 * 2 ^ 128 + 64 * 2 ^ 320)

/-- Program addresses of vault 0 of bed 0 and of HBM. -/
def vaultPa (off : Nat) : Nat := 0xF00 * 2 ^ 52 + 2 ^ 31 + off
def hbmPa (off : Nat) : Nat := 0xF00 * 2 ^ 52 + 0x100 * 2 ^ 40 + off

/-- A copy between two places of vault 0 by engine 0 of bed 0 on channel 3, with its route entry (R104). -/
def copyState : State :=
  route 0x6C0 toCore1 (poke 0x1040 (tensor64 (vaultPa 0x100)) (poke 0x1080 (tensor64 (vaultPa 0x400))
    (words 0x1000 [(own 0x1040).toNat, (own 0x1080).toNat, 3, 0] (regs [(6, own 0x1000)] (base h0)))))

/-- A stash command block for engine 0 of rim die 0 on channel 2: 32 elements from local offset 0x2000, DRTE 0x10 and legs from 0x20 (R133). -/
def stashState (w2 : Nat) : State :=
  route 0x6CC toCore1 (route 0x710 toCore1 (route 0x720 toCore1 (route 0x721 toCore1
    (words 0x1000 [hbmPa 0, (own 0x2000).toNat, w2, 32 * 2 ^ 32] (regs [(6, own 0x1000)] (base h0))))))
def stashW2 : Nat := 2 + 16 * 2 ^ 7 + 0x10 * 2 ^ 40 + 2 ^ 48 + 0x20 * 2 ^ 49 + 2 ^ 57
def stashBlk (w2 : Nat) : StashBlk := { pa := own 0x1000, region := BitVec.ofNat 64 (hbmPa 0), loc := own 0x2000, w2 := w2, w3 := 32 * 2 ^ 32 }

/-- A bundle may start at an even word of a line the cache holds. -/
theorem lands_of {s : State} {t : Word} (off : Nat) (w : BitVec 32) (h1 : OwnAt s.cur.place t 4 4 0 off) (h2 : t.getLsbD 2 = false) (h3 : isMark w = false)
    (h4 : (Tbl.look (s.coreAt s.cur.place).icache (coreKey s.cur.place.unit s.cur.place.core off / 64)).map
      (fun l => lineWord l (coreKey s.cur.place.unit s.cur.place.core off)) = some w) : Lands s t :=
  ⟨off, w, h1, h4, h3, fun h => absurd h (by rw [h2]; decide)⟩

/-- A deque record of the executing core (R246), and one bed's context-table entry (R257). -/
def record (i : Nat) (ws : List Nat) (s : State) : State := words (dequeOff s.cur.place.unit + 48 * (i % 64)) ws s
def ctxEntry (bed ctx : Nat) (v : Word) (s : State) : State := s.modBed bed fun x => { x with ctxTab := Tbl.set x.ctxTab ctx v }

/-- The executing core's matrix unit. -/
def unitOf (f : Matrix → Matrix) (s : State) : State := onCore (fun c => { c with mx := f c.mx }) s

/-- A unit of context 0 with rings 0 and 1 of INT8 tiles, four slots each (R369, R370), two tiles in each. -/
def fed : State :=
  unitOf (fun m => ((({ m with own := some 0 } : Matrix).modRing 0 fun r => { r with cfg := 0x8000400000 + 0x1000, tail := 2 }).modRing 1 fun r =>
    { r with cfg := 0x8000400000 + 0x3000, tail := 2 })) (base h0)

/-- A freeze image of context 0 on core 0 of bed 0, not yet used, of zeros, under their CRC-32C (R257). -/
@[irreducible] def blankCrc : Nat := crc32c (List.replicate 20416 0)
theorem blankCrc_eq : blankCrc = crc32c (List.replicate 20416 0) := by unfold blankCrc; exact Eq.refl _
def header : List Byte := bytesOf 8 (1 + 2 ^ 16 + 20480 * 2 ^ 32) ++ bytesOf 8 (2 ^ 8) ++ bytesOf 8 0 ++ bytesOf 8 0 ++ bytesOf 8 blankCrc
def imagedBy (bs : List Byte) : State := poke 0x10000 bs (regs [(3, own 0x10000)] (base h0))
def imaged : State := imagedBy header

theorem crcByte_lt (v : Nat) (b : Byte) (h : v < 2 ^ 32) : crcByte v b < 2 ^ 32 := by
  unfold crcByte
  have go : ∀ (l : List Nat) (x : Nat), x < 2 ^ 32 →
      l.foldl (fun x _ => if x % 2 = 1 then (x / 2) ^^^ 0x82F63B78 else x / 2) x < 2 ^ 32 := by
    intro l
    induction l with
    | nil => exact fun x h => h
    | cons a r ih =>
      intro x hx
      refine ih _ ?_
      show (if x % 2 = 1 then (x / 2) ^^^ 0x82F63B78 else x / 2) < 2 ^ 32
      split
      · exact Nat.xor_lt_two_pow (by omega) (by decide)
      · omega
  exact go _ _ (Nat.xor_lt_two_pow h (by have := b.isLt; omega))

theorem crc32c_lt (bs : List Byte) : crc32c bs < 2 ^ 32 := by
  have go : ∀ (l : List Byte) (x : Nat), x < 2 ^ 32 → l.foldl crcByte x < 2 ^ 32 := by
    intro l
    induction l with
    | nil => exact fun x h => h
    | cons a r ih => exact fun x h => ih _ (crcByte_lt x a h)
  exact Nat.xor_lt_two_pow (go bs _ (by decide)) (by decide)

theorem imagedBy_mem (bs : List Byte) : (imagedBy bs).mem = memSetMany [] 0x10000 bs := rfl
theorem imagedBy_lag (bs : List Byte) : (imagedBy bs).lag.all (fun l => l.reader != .mx) = true := rfl
theorem imagedBy_errs (bs : List Byte) : (imagedBy bs).errs = [] := rfl
theorem imaged_errs : imaged.errs = [] := imagedBy_errs header
theorem imaged_mem : imaged.mem = memSetMany [] 0x10000 header := imagedBy_mem header
theorem imaged_lag : imaged.lag.all (fun l => l.reader != .mx) = true := imagedBy_lag header

theorem header_length : header.length = 40 := by
  have : ∀ n v, (bytesOf n v).length = n := by
    intro n
    induction n with
    | zero => exact fun _ => rfl
    | succ n ih => exact fun v => by simp [bytesOf, ih]
  simp [header, this]

/-- Bytes written and read back. -/
theorem memGetMany_part (a b c : List Byte) (k : Nat) : memGetMany (memSetMany [] k (a ++ b ++ c)) (k + a.length) b.length = b := by
  refine List.ext_getElem (by simp [memGetMany]) fun i h1 h2 => ?_
  have := memGet_memSetMany_same (a ++ b ++ c) [] k (a.length + i) rfl (by simp; omega)
  simp only [memGetMany, List.getElem_map, List.getElem_range]
  rw [Nat.add_assoc, this]
  simp [List.getElem_append_right, List.getElem_append_left h2]

theorem imaged_body : pathBytes imaged .mx (0x10000 + 64) 20416 = List.replicate 20416 0 := by
  rw [pathBytes_noLag imaged_lag]
  refine List.ext_getElem (by rw [length_memGetMany, List.length_replicate]) fun i h1 h2 => ?_
  simp only [memGetMany, List.getElem_map, List.getElem_range, List.getElem_replicate]
  rw [imaged_mem, memGet_memSetMany_other _ _ _ _ (by rw [header_length]; omega)]
  rw [List.length_replicate] at h2
  have hd : (65536 + 64 + i) % 2 ^ 24 < 0xFC800 := by omega
  unfold memGet memDefault
  simp only [show ¬ (0xFC800 ≤ (65536 + 64 + i) % 2 ^ 24 ∧ (65536 + 64 + i) % 2 ^ 24 < 0xFCC00) by omega,
    show ¬ (0xFCC00 ≤ (65536 + 64 + i) % 2 ^ 24 ∧ (65536 + 64 + i) % 2 ^ 24 < 0xFCC10) by omega, if_false, ite_self]

theorem imaged_word (a c : List Byte) (v n : Nat) (h : header = a ++ bytesOf 8 v ++ c) (hn : a.length = n) (hv : (bytesOf 8 v).length = 8) :
    ofBytes (pathBytes imaged .mx (0x10000 + n) 8) = v % 256 ^ 8 := by
  subst hn
  have e := memGetMany_part a (bytesOf 8 v) c 0x10000
  rw [hv] at e
  rw [pathBytes_noLag imaged_lag, imaged_mem, h, e, ofBytes_bytesOf]

theorem imgBytes_whole (s : State) (k off n : Nat) (h : off + n ≤ 20480) (hn : n ≠ 0) : imgBytes s (wholeAt k) off n = pathBytes s .mx (k + off) n := by
  have e : min n (20480 - off) = n := by omega
  have z : n - (20480 - off) = 0 := by omega
  simp [imgBytes, wholeAt, Img.parts, hn, e, show off < 20480 by omega]

theorem imgBad_whole (s : State) (k : Nat) (h : s.errs = []) : imgBad s (wholeAt k) = false := by
  simp [imgBad, wholeAt, anyBad_noErrs s _ _ h]

theorem bits_word (x : Nat) (h : x < 2 ^ 32) : bits (x % 256 ^ 8) 31 0 = x := by
  unfold bits; rw [Nat.shiftRight_zero]; omega

/-- An open block of core 0 at block cycle 20 with domain 3 (R287). -/
def inBlock (s : State) : State :=
  onSlot (fun x => { x with blk := some { (default : Block) with xb := own 0, len := 100, bar := 5, dom := 3, cyc := 20 } }) s

/-- A step of the part itself, with its arguments. -/
def ev : EvArgs := default
def given (a : EvArgs) (s : State) : State := { s with arg := a }

/-- A packet of slot h0 with number 7, as the only one on its way. -/
def pkt (kind len dest : Nat) (body : Body) (l : Loc) : Pkt := { mkPkt (base h0) h0 kind len dest body with loc := l, id := 7 }
def sole (q : Pkt) (s : State) : State := { s with pkts := [q] }

/-- The start-up state, and that of one bed's reset. -/
def boot (f : Boot → Boot) (s : State) : State := { s with boot := f s.boot }
def resetOf (bed : Nat) (f : Reset → Reset) (s : State) : State := s.modBed bed fun b => { b with rst := f b.rst }

/-- A good frame with given content (R72): its CRC-32C stands on top. -/
def frame (b : Nat) : BitVec 320 := BitVec.ofNat 320 (b + crc32c (bytesOf 36 b) * 2 ^ 288)

/-- An event record. -/
def rec1 (src : Nat) : EvRec := { (default : EvRec) with src := src, ty := 3 }

/-- What holds of the next state of an outcome. -/
def after (o : Host.Outcome State Fault Refusal) (f : State → Bool) : Bool :=
  match o with
  | .next t => f t
  | _ => false
def noSlot (o : Host.Outcome State Fault Refusal) : Bool :=
  match o with
  | .fault .noSuchSlot => true
  | _ => false

/-- A rim core with `ld.d g4, [g6]` of the next core's memory and a second word after it in its cache; g8 points to its own memory. -/
def passing (w : Nat) : State :=
  regs [(4, 30), (5, 12), (6, BitVec.ofNat 64 (0xF00 * 2 ^ 52 + Rng.la (.core 17 1 1 0x100))), (8, own 0x1000)]
    (onCore (fun c => { c with icache := [(coreKey 17 0 0 / 64, bytesOf 4 0x10219800 ++ bytesOf 4 w ++ List.replicate 56 0)] }) (base r0))

/-! ### Words the spec writes out (R284, R289 to R293 and the worked cases of chapters 11 to 16) -/

theorem test_decode_transfers : decodeWord 0x01000008 = .instr (.b 8) ∧ decodeWord 0x03004000 = .instr (.br 1 0) ∧ decodeWord 0x8E600004 = .instr (.bz 12 4) ∧
  decodeWord 0x81FFFFFD = .instr (.b (-3)) := by
  decide +kernel

theorem test_decode_memory : decodeWord 0x90219810 = .instr (.ldD 4 6 16) ∧ decodeWord 0x1029A7FC = .instr (.ldBx 5 6 (-4)) ∧ decodeWord 0x133A1000 = .instr (.stRel 7 8 2 0) ∧
  decodeWord 0x15218A10 = .instr (.amoAdd 4 6 5 1) ∧ decodeWord 0x15000120 = .instr (.amoCas 0 0 0 0) ∧ decodeWord 0x190800A0 = .instr (.xfence 1 0 1) ∧
  decodeWord 0x19000100 = .instr .isync ∧ decodeWord 0x1A001005 = .instr (.barWait 0 5) := by
  decide +kernel

theorem test_decode_bits : decodeWord 0x1C010000 = .instr (.bbInit 4) ∧ decodeWord 0x1C281003 = .instr (.bbTakeImm 5 3) ∧ decodeWord 0x1C31D802 = .instr (.bbDec 6 7 2) := by
  decide +kernel

theorem test_decode_scalar : decodeWord 0x40390A04 = .instr (.add 7 4 5) ∧ decodeWord 0x40000000 = .instr (.or 0 0 0) ∧ decodeWord 0x48280104 = .instr (.lih 0 5 0 0x104) ∧
  decodeWord 0x48348D16 = .instr (.lih 0 6 18 0xD16) ∧ decodeWord 0x47294008 = .instr (.lea 5 5 8) ∧ decodeWord 0x4131A789 = .instr (.addi 6 6 (-6263)) ∧
  decodeWord 0x50214D60 = .instr (.fadd 4 5 6 2 3) := by
  decide +kernel

theorem test_decode_vector : decodeWord 0x2A090000 = .instr (.vld 1 4 0) ∧ decodeWord 0x2A194800 = .instr (.vldW 3 5 0) ∧ decodeWord 0x6420442A = .instr (.vfmul 4 1 2 0 10) ∧
  decodeWord 0x6420CA2B = .instr (.vfma 4 3 5 0 10) ∧ decodeWord 0x6B21002B = .instr (.vredFadd 4 4 0 10) := by
  decide +kernel

theorem test_decode_engine : decodeWord 0x20018800 = .instr (.cpyCk 6) ∧ decodeWord 0x20201013 = .instr (.cpyQ 4 1 3) ∧ decodeWord 0x244A8001 = .instr (.spawn 9 10 1) ∧
  decodeWord 0x2401980F = .instr (.launch 6 15) ∧ decodeWord 0x23024000 = .instr (.psendOpen 9) ∧ decodeWord 0x23014801 = .instr (.psendEAppend 5) ∧
  decodeWord 0x26000000 = .instr .xbegin := by
  decide +kernel

theorem test_decode_system : decodeWord 0x29200011 = .instr (.mfsr 4 0x11) ∧ decodeWord 0x29014110 = .instr (.mtsr 5 0x10) := by
  decide +kernel

theorem test_decode_matrix : decodeWord 0x7008860B = .instr (.mma 1 2 3 1 3) := by
  decide +kernel

theorem test_decode_refused : decodeWord 0 = .unassigned ∧ decodeWord 0x7F000000 = .reserved ∧ decodeWord 0x15000021 = .reserved ∧ encode true .xbegin = none ∧ encode true (.add 1 2 3) = none := by
  decide +kernel

/-- The edges of R305: MINOR 32 and 33, 511, `clz` and `ext.w` with B not 0, `cmp.eq` after them. -/
theorem test_decode_reserved_minors : decodeWord 0x40390A20 = .instr (.cmpLen 7 4 5) ∧ decodeWord 0x40390A21 = .reserved ∧ decodeWord 0x40390BFF = .reserved ∧
  decodeWord 0x40390215 = .reserved ∧ decodeWord 0x40390015 = .instr (.clz 7 4) ∧ decodeWord 0x40393E1A = .reserved ∧ decodeWord 0x40393E1B = .instr (.cmpEq 7 4 31) := by
  decide +kernel

/-- The C word of a pair is read with P set; an A word and `xbegin` never are (R283, R288). -/
theorem test_decode_table_pair : decodeTableWord 32 0x90219810 = some (.ldD 4 6 16) ∧ decodeTableWord 32 0xA6000000 = none ∧ decodeTableWord 32 0xC0390A04 = none := by
  decide +kernel

/-! ### Field values that the descriptions reserve (R290, R295) -/

theorem test_wf_paths : (Instr.xfence 7 0 0).wf = false ∧ (Instr.xfence 0 7 0).wf = false ∧ (Instr.xfence 6 4 0).wf = true := by
  decide +kernel

theorem test_wf_bits : (Instr.bbPeekImm 1 33).wf = false ∧ (Instr.bbTakeImm 1 33).wf = false ∧ (Instr.bbTakeImm 1 32).wf = true ∧ (Instr.bbPeekReg 1 0).wf = false ∧
  (Instr.bbTakeReg 1 0).wf = false ∧ (Instr.bbDec 1 2 0).wf = false ∧ (Instr.bbLit 1 0).wf = false ∧ (Instr.bbLit 1 9).wf = false ∧ (Instr.bbLit 1 8).wf = true := by
  decide +kernel

theorem test_wf_engine : (Instr.stashStat 1 2 3).wf = false ∧ (Instr.stashStat 1 2 2).wf = true ∧ (Instr.dqPop 4).wf = false ∧ (Instr.dqPop 7).wf = false ∧ (Instr.dqPop 8).wf = true := by
  decide +kernel

theorem test_wf_special : (Instr.mfsr 1 4).wf = false ∧ (Instr.mtsr 1 0x31).wf = false ∧ (Instr.mtsr 1 0x12).wf = false ∧ (Instr.mfsr 1 0x30).wf = true := by
  decide +kernel

theorem test_wf_lanes : (Instr.vadd 1 2 3 0 8).wf = false ∧ (Instr.vsub 1 2 3 0 8).wf = false ∧ (Instr.vmul 1 2 3 0 9).wf = false ∧ (Instr.vmla 1 2 3 0 10).wf = false ∧
  (Instr.vand 1 2 3 0 11).wf = false ∧ (Instr.vor 1 2 3 0 12).wf = false ∧ (Instr.vxor 1 2 3 0 8).wf = false ∧ (Instr.vshl 1 2 3 0 8).wf = false ∧
  (Instr.vshr 1 2 3 0 8).wf = false ∧ (Instr.vsha 1 2 3 0 8).wf = false ∧ (Instr.vmin 1 2 3 0 8).wf = false ∧ (Instr.vmax 1 2 3 0 8).wf = false := by
  decide +kernel

theorem test_wf_float_lanes : (Instr.vfadd 1 2 3 0 7).wf = false ∧ (Instr.vfsub 1 2 3 0 12).wf = false ∧ (Instr.vfmul 1 2 3 0 7).wf = false ∧ (Instr.vfma 1 2 3 0 7).wf = false ∧
  (Instr.vfmin 1 2 3 0 7).wf = false ∧ (Instr.vfmax 1 2 3 0 7).wf = false ∧ (Instr.vredFadd 1 2 0 7).wf = false ∧ (Instr.vredAdd 1 2 0 8).wf = false := by
  decide +kernel

theorem test_wf_moves : (Instr.vcmp 0 1 2 0 0 0).wf = false ∧ (Instr.vcmp 1 1 2 0 12 0).wf = false ∧ (Instr.vsel 1 2 3 0 12).wf = false ∧ (Instr.vperm 1 2 3 0 12).wf = false ∧
  (Instr.vbcast 1 2 0 12).wf = false ∧ (Instr.vins 1 2 3 12).wf = false ∧ (Instr.vext 1 2 3 12).wf = false ∧ (Instr.vmov 1 2 0 12).wf = false ∧
  (Instr.vredMin 1 2 0 12).wf = false ∧ (Instr.vredMax 1 2 0 12).wf = false := by
  decide +kernel

theorem test_wf_masks : (Instr.vmovGToM 0 1).wf = false ∧ (Instr.mand 0 1 2).wf = false ∧ (Instr.mor 0 1 2).wf = false ∧ (Instr.mnot 0 1).wf = false ∧ (Instr.mcnt 1 2 12).wf = false := by
  decide +kernel

theorem test_wf_conversions : (Instr.vcvt 1 2 12 0 0).wf = false ∧ (Instr.vcvt 1 2 10 1 14).wf = false ∧ (Instr.vcvt 1 2 8 1 15).wf = false ∧ (Instr.vcvt 1 2 13 0 12).wf = false ∧
  (Instr.vcvt 1 2 8 0 15).wf = true ∧ (Instr.vcvt 1 2 12 0 10).wf = true := by
  decide +kernel

/-! ### Scalar words -/

/-- What every result statement of a scalar word assumes. -/
theorem witness_scalar : Admitted (.add 1 2 3) (base h0) ∧ Admitted (.fma 1 2 3 2 0 4) (base l0) ∧ Admitted (.div 1 2 3) (base r0) := by
  unfold Admitted; decide +kernel

/-- The table of R304. -/
theorem test_division : gives (.div 1 2 3) [(2, 7), (3, -2)] 1 = 0xFFFFFFFFFFFFFFFD ∧ gives (.rem 1 2 3) [(2, 7), (3, -2)] 1 = 1 ∧ gives (.rem 1 2 3) [(2, -7), (3, 2)] 1 = -1 ∧
  gives (.div 1 2 3) [(2, 0x8000000000000000), (3, -1)] 1 = 0x8000000000000000 ∧ gives (.rem 1 2 3) [(2, 0x8000000000000000), (3, -1)] 1 = 0 := by
  decide +kernel

/-- The table of R304. -/
theorem test_division_zero : gives (.div 1 2 3) [(2, 5)] 1 = -1 ∧ gives (.divn 1 2 3) [(2, 5)] 1 = -1 ∧ gives (.rem 1 2 3) [(2, 5)] 1 = 5 ∧ gives (.remn 1 2 3) [(2, 5)] 1 = 5 ∧
  gives (.divn 1 2 3) [(2, 0xFFFFFFFFFFFFFFFD), (3, 2)] 1 = 0x7FFFFFFFFFFFFFFE := by
  decide +kernel

/-- Quotient and remainder of 7 and −2, and of 2^64 − 3 and 2, as the statement's hypotheses take them. -/
theorem witness_Division : (-2 : Word) ≠ 0 ∧ (7 : Word).toInt = -3 * (-2 : Word).toInt + 1 ∧ (1 : Int).natAbs < (-2 : Word).toInt.natAbs ∧ ((1 : Int) ≠ 0 → ((1 : Int) < 0 ↔ (7 : Word).toInt < 0)) ∧
  (-3 : Word).toNat = 9223372036854775806 * (2 : Word).toNat + 1 ∧ 1 < (2 : Word).toNat := by
  decide +kernel

/-- The worked case of R307. -/
theorem test_constants : gives (.lih 0 5 0 0x104) [] 5 = 0x410000 ∧ gives (.lea 5 5 8) [(5, 0x410000)] 5 = 0xF000F00000410008 ∧ gives (.lih 0 6 18 0xD16) [] 6 = 0x123458000 ∧
  gives (.addi 6 6 (-6263)) [(6, 0x123458000)] 6 = 0x123456789 := by
  decide +kernel

/-- Only bits 5:0 of a count are used (R303); `rot` goes right. -/
theorem test_shifts : gives (.shl 1 2 3) [(2, 5), (3, 64)] 1 = 5 ∧ gives (.sha 1 2 3) [(2, -8), (3, 2)] 1 = -2 ∧ gives (.rot 1 2 3) [(2, 1), (3, 1)] 1 = 0x8000000000000000 ∧
  gives (.clz 1 2) [] 1 = 64 ∧ gives (.ctz 1 2) [(2, 8)] 1 = 3 ∧ gives (.popc 1 2) [(2, 0xFF)] 1 = 8 := by
  decide +kernel

/-- R303. -/
theorem test_signed_and_unsigned : gives (.mulh 1 2 3) [(2, -1), (3, -1)] 1 = 0 ∧ gives (.mulhn 1 2 3) [(2, -1), (3, -1)] 1 = 0xFFFFFFFFFFFFFFFE ∧ gives (.min 1 2 3) [(2, -1), (3, 1)] 1 = -1 ∧
  gives (.minn 1 2 3) [(2, -1), (3, 1)] 1 = 1 ∧ gives (.cmpLt 1 2 3) [(2, -1), (3, 1)] 1 = 1 ∧ gives (.cmpLtn 1 2 3) [(2, -1), (3, 1)] 1 = 0 ∧ gives (.extB 1 2) [(2, 0x80)] 1 = 0xFFFFFFFFFFFFFF80 := by
  decide +kernel

/-- R308: g[A] if g[X] is not zero. -/
theorem test_select : gives (.sel 1 2 3 4) [(2, 8), (3, 9), (4, 1)] 1 = 8 ∧ gives (.sel 1 2 3 4) [(2, 8), (3, 9)] 1 = 9 := by
  decide +kernel

/-- The rows of R313. -/
theorem test_float_sums : gives (.fadd 1 2 3 2 0) [(2, 0x3F800000), (3, 0x33800000)] 1 = 0x3F800000 ∧ gives (.fadd 1 2 3 2 3) [(2, 0x3F800000), (3, 0x33800000)] 1 = 0x3F800001 ∧
  gives (.fadd 1 2 3 2 2) [(2, 0x3F800000), (3, 0xBF800000)] 1 = 0x80000000 ∧ gives (.fadd 1 2 3 2 0) [(2, 0x3F800000), (3, 0xBF800000)] 1 = 0 := by
  decide +kernel

/-- The rows of R313. -/
theorem test_float_products : gives (.fmul 1 2 3 2 1) [(2, 0x7F7FFFFF), (3, 0x40000000)] 1 = 0x7F7FFFFF ∧ gives (.fmul 1 2 3 2 0) [(2, 0x7F7FFFFF), (3, 0x40000000)] 1 = 0x7F800000 ∧
  gives (.fdiv 1 2 3 2 0) [(2, 0x3F800000), (3, 0x80000000)] 1 = 0xFF800000 ∧ gives (.fsqrt 1 2 2 0) [(2, 0x80000000)] 1 = 0x80000000 := by
  decide +kernel

/-- The rows of R313. -/
theorem test_float_order : gives (.fmin 1 2 3 2) [(3, 0x80000000)] 1 = 0x80000000 ∧ gives (.fmax 1 2 3 2) [(2, 0x7FC00000), (3, 0x40000000)] 1 = 0x40000000 ∧ gives (.fneg 1 2 2) [(2, 0x7FC00000)] 1 = 0x7FC00000 := by
  decide +kernel

/-- The rows of R313. -/
theorem test_float_conversions : gives (.fcvt 1 2 1 0 2) [(2, 0x3F808000)] 1 = 0x3F80 ∧ gives (.fcvt 1 2 1 3 2) [(2, 0x3F808000)] 1 = 0x3F81 ∧ gives (.fcvi 1 2 2 1 2) [(2, 0x4F32D05E)] 1 = 0x7FFFFFFF ∧
  gives (.fcvi 1 2 2 2 2) [(2, 0xC02CCCCD)] 1 = 0xFFFFFFFFFFFFFFFD := by
  decide +kernel

/-- R313: a NaN converted by a thread in its home slot, with nothing outstanding: the entry stands at xlb + 8 xlc, and xlc advances. -/
theorem witness_FloatResults : let s := onSlot (fun x => { x with th := { x.th with xlb := 0x80000, xll := 16, xlc := 3 } }) (regs [(2, 0x7FC00000)] (base h0))
  (readF 2 (s.opG 2)).isNan = true ∧ Admitted (.fcvi 1 2 2 0 4) s ∧ (s.coreAt h0).sbuf.any (fun e => e.slot == h0.slot) = false ∧ (s.slot h0).ntOut = [] ∧
  (readF 2 0x3F800000).isNan = false ∧ acts (.fcvi 1 2 2 0 4) s (fun t => t.opG 1 == 0 && t.here.th.xlc == 4 && memGetMany t.mem (0x80000 + 24) 8 == bytesOf 8 0) = true := by
  unfold Admitted; decide +kernel

/-! ### Vector words (R349 to R365) -/

/-- What the lane statements assume: an integer type, a floating type, and a lane number in range and past it. -/
theorem witness_lanes : Admitted (.vadd 1 2 3 0 2) (base h0) ∧ Admitted (.vsel 1 2 3 0 2) (base h0) ∧ Admitted (.vadd 1 2 3 0 2) (base r0) ∧ Admitted (.vins 1 2 3 0) (base h0) ∧
  Admitted (.mand 1 2 3) (base h0) ∧ (2 : BitVec 4).toNat < 8 ∧ 8 ≤ (10 : BitVec 4).toNat ∧ ((base h0).opG 3).toNat < 512 / laneWidth 0 ∧
  512 / laneWidth 0 ≤ ((regs [(3, 64)] (base h0)).opG 3).toNat := by
  unfold Admitted; decide +kernel

/-- A lane wraps modulo 2^w and an inactive one stays (R349, R356). -/
theorem test_lane_sums : acts (.vadd 1 2 3 1 0) ((((base h0).setV 2 0xFFFF).setV 3 0x0202).setM 1 1) (fun t => t.opV 1 == 0x01) = true ∧
  acts (.vmul 1 2 3 0 0) (((base h0).setV 2 0x10FF).setV 3 0x1002) (fun t => t.opV 1 == 0xFE) = true := by
  decide +kernel

/-- A count at or past the width (R356). -/
theorem test_lane_shifts : acts (.vshl 1 2 3 0 0) (((base h0).setV 2 0xFF).setV 3 0x08) (fun t => lane 8 0 (t.opV 1) == 0) = true ∧
  acts (.vsha 1 2 3 0 0) (((base h0).setV 2 0x80).setV 3 0x09) (fun t => lane 8 0 (t.opV 1) == 0xFF) = true := by
  decide +kernel

/-- Signed and unsigned lanes (R356). -/
theorem test_lane_order : acts (.vmin 1 2 3 0 0) (((base h0).setV 2 0x80).setV 3 0x01) (fun t => lane 8 0 (t.opV 1) == 0x80) = true ∧
  acts (.vmin 1 2 3 0 4) (((base h0).setV 2 0x80).setV 3 0x01) (fun t => lane 8 0 (t.opV 1) == 0x01) = true := by
  decide +kernel

/-- An inactive lane's bit stays; a bit at or above L is cleared (R349, R358). -/
theorem test_compares : acts (.vcmp 2 1 3 1 3 0) (((base h0).setM 1 1).setM 2 0x8000000000000002) (fun t => t.opM 2 == 3) = true := by
  decide +kernel

/-- R358, R363. -/
theorem test_lane_moves : acts (.vsel 1 2 3 1 0) ((((base h0).setV 2 0x1111).setV 3 0x2222).setM 1 1) (fun t => t.opV 1 == 0x2211) = true ∧
  acts (.vperm 1 2 3 0 0) (((base h0).setV 2 0x0807).setV 3 0x41) (fun t => lane 8 0 (t.opV 1) == 0x08) = true ∧
  acts (.vext 4 2 3 0) (regs [(3, 1)] ((base h0).setV 2 0x8000)) (fun t => t.opG 4 == 0xFFFFFFFFFFFFFF80) = true := by
  decide +kernel

/-- R365: m0 reads all ones; `mcnt` counts the lanes of its type. -/
theorem test_mask_words : acts (.mand 1 0 2) ((base h0).setM 2 5) (fun t => t.opM 1 == 5) = true ∧ acts (.mcnt 4 0 3) (base h0) (fun t => t.opG 4 == 8) = true := by
  decide +kernel

/-- R363: the last lane is no trap, the one past it is illegal with SUB 4. -/
theorem test_lane_traps : trapOf (.vins 1 2 3 3) (regs [(3, 8)] (base h0)) = (1, 4) ∧ acts (.vins 1 2 3 3) (regs [(2, 6), (3, 7)] (base h0)) (fun t => lane 64 7 (t.opV 1) == 6) = true := by
  decide +kernel

/-- The smallest of the lanes 3 and −1, and the reductions of no lane. -/
theorem witness_VectorReductions : let xs := [laneInt 0 3, laneInt 0 0xFF]
  laneInt 0 0xFF ∈ xs ∧ (∀ u ∈ xs, laneInt 0 0xFF ≤ u) ∧ ((List.range (512 / laneWidth 0)).filter fun k => (((base h0).setM 1 0).opM 1).getLsbD k) = [] ∧
  Admitted (.vredMin 4 2 1 0) ((base h0).setM 1 0) := by
  unfold Admitted; decide +kernel

/-- R364: no active lane gives the type's largest or smallest value. -/
theorem test_reductions : acts (.vredAdd 4 2 0 0) ((base h0).setV 2 0x01FF) (fun t => t.opG 4 == 0) = true ∧ acts (.vredMin 4 2 1 0) ((base h0).setM 1 0) (fun t => t.opG 4 == 127) = true ∧
  acts (.vredMax 4 2 1 4) ((base h0).setM 1 0) (fun t => t.opG 4 == 0) = true := by
  decide +kernel

/-- The worked case of R365: Σ (16 + 2 l) over sixteen lanes is 496. -/
theorem test_dot_product : let v : Nat := (List.range 16).foldl (fun (n l : Nat) => n + fp32.round .rne (Val.int (16 + 2 * l : Nat)) * 2 ^ (32 * l)) 0
  acts (.vredFadd 4 4 0 10) ((base h0).setV 4 (BitVec.ofNat 512 v)) (fun t => t.opG 4 == 0x43F80000) = true := by
  decide +kernel

/-- The worked case of R362. -/
theorem test_block_scale : acts (.vcvt 4 5 9 0 15) ((base h0).setV 5 0x37003B00BD804040) (fun t => t.opV 4 == BitVec.ofNat 512 (0x0028D07C + 0x78 * 2 ^ 256)) = true := by
  decide +kernel

/-- The rows of R272 under the default table. -/
theorem test_code_table : (convert (base h0) h0 12 10 1 0 (BitVec.ofNat 512 (fp32.round .rne (Val.int 300)))).1 = 0x79 ∧
  (convert (base h0) h0 12 10 1 0 (BitVec.ofNat 512 (fp32.round .rne (Val.int 304)))).1 = 0x7A ∧
  (convert (base h0) h0 12 10 1 0 (BitVec.ofNat 512 (fp32.round .rne (Val.int 1000)))).1 = 0x7E ∧ (convert (base h0) h0 12 10 1 0 0x7FC00000).1 = 0x7F ∧
  (convert (base h0) h0 12 10 1 0 0x80000000).1 = 0x80 := by
  decide +kernel

/-- An MX pair, a decode-table pair with the tables at rest, and two integer types. -/
theorem witness_VectorConversions : Admitted (.vcvt 4 5 9 0 15) (base h0) ∧ Admitted (.vcvt 4 5 15 0 9) (base h0) ∧ Admitted (.vcvt 4 5 12 1 10) (base h0) ∧ tablesBusy (base h0) h0 [9, 15, 255] = none ∧ (base h0).errs = [] ∧
  (convert (base h0) h0 10 12 ((base h0).opM 1) ((base h0).opV 4) ((base h0).opV 5)).2 = [] ∧ (4 : BitVec 4).toNat < 8 ∧ (15 : BitVec 4).toNat = 15 := by
  unfold Admitted; decide +kernel

/-- Lane 1 of an FP32 source holds a NaN: it is listed in the first entry, and its lane of the result is free of it (R271, R272). -/
theorem test_nan_listed : let s := onSlot (fun x => { x with th := { x.th with xlb := 0x8000, xll := 2 } }) ((base h0).setV 5 (BitVec.ofNat 512 (0x7FC00000 * 2 ^ 32 + 0x3F800000))); let r := convert s h0 4 10 (s.opM 0) (s.opV 4) (s.opV 5)
  r.2 = [(1, 1)] ∧ storesPending s h0 = false ∧ s.opTh.xlc.toNat + r.2.length < 2 ^ 64 ∧ s.away h0 = false ∧ (0x8000 : Nat) + 8 ≤ listLimit 0 ∧
    acts (.vcvt 4 5 10 0 4) s (fun t => t.here.th.xlc == 1 && memGetMany t.mem (coreKey 0 0 0x8000) 8 == bytesOf 8 (2 ^ 32 + 2 ^ 40)) = true := by
  decide +kernel

/-- −5 becomes 0 in an unsigned type (R359). -/
theorem test_saturation : acts (.vcvt 4 5 0 0 4) ((base h0).setV 5 0x7FFB) (fun t => t.opV 4 == 0x7F00) = true := by
  decide +kernel

/-! ### Transfers of control (R286, R315, R316) -/

/-- A target that is a lone word, and one that is the second word of its eight bytes: both may start a bundle. -/
theorem witness_Transfers : Lands (cached (base h0)) ((cached (base h0)).cur.pc + 4 * (16 : BitVec 24).signExtend 64) ∧ Lands (cached (base h0)) ((cached (base h0)).cur.pc + 4 * (17 : BitVec 14).signExtend 64) ∧
  Lands (cached (regs [(2, own 0x40)] (base h0))) ((cached (regs [(2, own 0x40)] (base h0))).opG 2 + (0 : BitVec 14).signExtend 64) := ⟨lands40, lands44, 0x40, 0, by unfold OwnAt; decide +kernel, by decide +kernel, by decide, fun h => absurd h (by decide +kernel)⟩

/-- A taken branch goes to P + 4 OFF, one not taken goes on; `bl` links to g1 (R315). -/
theorem test_transfers : acts (.beq 2 3 16) (cached (base h0)) (fun t => t.pc == own 0x40) = true ∧ acts (.bne 2 3 16) (cached (base h0)) (fun t => t.pc == own 4) = true ∧
  acts (.bl 16) (cached (base h0)) (fun t => t.pc == own 0x40 && t.opG 1 == own 4) = true := by
  decide +kernel

/-- `brl` links to g[D] (R316); a target not a multiple of 4 traps (R286). -/
theorem test_register_transfers : acts (.brl 5 2 0) (cached (regs [(2, own 0x40)] (base h0))) (fun t => t.pc == own 0x40 && t.opG 5 == own 4) = true ∧
  trapOf (.br 2 0) (cached (regs [(2, own 0x42)] (base h0))) = (2, 0) ∧ ((regs [(2, own 0x42)] (base h0)).opG 2 + (0 : BitVec 14).signExtend 64).toNat % 4 ≠ 0 := by
  decide +kernel

/-! ### Loads and stores of a core's own memory (R192, R318 to R321) -/

/-- The first and the last doubleword that programs own, through RAW and FUTURE. -/
theorem witness_LoadResults : let s := words 0x40 [0x8182838485868788] (regs [(6, own 0x40), (7, own 0xEFFF8), (8, own 0x100040)] (base h0))
  Quiet s ∧ s.here.blk = none ∧ OwnAt h0 (s.opG 6 + (0 : BitVec 11).signExtend 64) 8 8 0 0x40 ∧ OwnAt h0 (s.opG 7 + (0 : BitVec 11).signExtend 64) 8 8 0 0xEFFF8 ∧
    OwnAt h0 (s.opG 8 + (0 : BitVec 11).signExtend 64) 8 8 1 0x40 ∧ OwnAt h0 (s.opG 6) 1 1 0 0x40 ∧ OwnAt h0 (s.opG 6) 2 2 0 0x40 ∧ OwnAt h0 (s.opG 6) 4 4 0 0x40 ∧
    OwnAt h0 (s.opG 6) 64 16 0 0x40 ∧ hostPending s h0 = false ∧ Admitted (.ldD 4 6 0) s ∧ Admitted (.vld 4 6 0) s := by
  unfold Quiet OwnAt Admitted Unarmed Performed NoneSent; decide +kernel

/-- Nothing of a wide access has been read, in the states of the wide accesses below. -/
theorem witness_Whole : Whole (words 0x40 [0x8182838485868788] (regs [(6, own 0x40), (7, own 0xEFFF8), (8, own 0x100040)] (base h0))) ∧
  Whole (onCore (fun c => { c with mxbase := 0xE0000 }) (regs [(5, own 0x410008), (2, own 0x200010), (3, own 0x300020), (4, own 0x500010), (6, own 0x600020)] (base h0))) ∧
  Whole (regs [(2, own 0x1000), (3, 0x7FFFFFFF0), (4, 0x1FFFFFFFFF)] ((base h0).setM 1 3)) ∧ Whole copyState ∧
  Whole (poke 0x2000 (bytesOf 16 (16 * 2 ^ 64 + 2 ^ 32)) (stashState stashW2)) ∧
  Whole (onSlot (fun x => { x with resp := [.probe 0 0 0 5] }) (poke 0x2000 (bytesOf 16 (16 * 2 ^ 64 + 2 ^ 32)) (stashState stashW2))) := ⟨⟨rfl, fun _ => rfl⟩, ⟨rfl, fun _ => rfl⟩, ⟨rfl, fun _ => rfl⟩, ⟨rfl, fun _ => rfl⟩, ⟨rfl, fun _ => rfl⟩, ⟨rfl, fun _ => rfl⟩⟩

/-- The low bytes, zero- or sign-extended (R320). -/
theorem test_loads : let s := words 0x40 [0x8182838485868788] (regs [(6, own 0x40)] (base h0))
  acts (.ldB 4 6 0) s (fun t => t.opG 4 == 0x88) = true ∧ acts (.ldBx 4 6 0) s (fun t => t.opG 4 == 0xFFFFFFFFFFFFFF88) = true ∧
    acts (.ldHx 4 6 2) s (fun t => t.opG 4 == 0xFFFFFFFFFFFF8586) = true ∧ acts (.ldW 4 6 4) s (fun t => t.opG 4 == 0x81828384) = true ∧
    acts (.ldAcq 4 6 3 0) s (fun t => t.opG 4 == 0x8182838485868788) = true ∧ acts (.vld 4 6 0) s (fun t => lane 64 0 (t.opV 4) == 0x8182838485868788) = true := by
  decide +kernel

/-- A misaligned load traps with cause 4; the system area is not a user's (R32). -/
theorem test_load_traps : trapOf (.ldW 4 6 2) (regs [(6, own 0x40)] (base h0)) = (4, 0) := by
  decide +kernel

theorem witness_StoreResults : let s := regs [(6, own 0xEFFF8), (7, own 0xEFFC0), (4, 0x1122334455667788)] (base h0)
  s.here.blk = none ∧ (s.coreAt h0).sbuf.length < 16 ∧ OwnAt h0 (s.opG 6) 8 8 0 0xEFFF8 ∧ OwnAt h0 (s.opG 6) 1 1 0 0xEFFF8 ∧ OwnAt h0 (s.opG 6) 2 2 0 0xEFFF8 ∧
    OwnAt h0 (s.opG 6) 4 4 0 0xEFFF8 ∧ OwnAt h0 (s.opG 7) 64 16 0 0xEFFC0 ∧ s.here.ntOut = [] ∧ NoneSent s ∧ Settled s ∧ Admitted (.stD 4 6 0) s ∧ Admitted (.vst 4 6 0) s := by
  unfold OwnAt Admitted Settled NoneSent; decide +kernel

/-- A store waits in the buffer as its low bytes (R192); `st.rel` is marked. -/
theorem test_stores : let s := regs [(6, own 0xEFFF8), (4, 0x1122334455667788)] (base h0)
  acts (.stH 4 6 0) s (fun t => (t.coreAt h0).sbuf.map (fun e => (e.key, ofBytes e.bytes)) == [(0xEFFF8, 0x7788)] && t.mem == s.mem) = true ∧
    acts (.stRel 4 6 0 0) s (fun t => (t.coreAt h0).sbuf.map (fun e => (e.bytes.length, e.rel)) == [(8, some 0)]) = true := by
  decide +kernel

/-- Inside a block the bytes are in memory at once, at the last byte too (R204). -/
theorem test_block_stores : let s := inBlock (regs [(3, 0x1122334455667788), (4, own 0xEFFF8)] (base h0))
  s.here.blk.isSome = true ∧ s.errs = [] ∧ OwnAt h0 (s.opG 4 + 7) 1 1 0 0xEFFFF ∧ OwnAt h0 (s.opG 4) 8 8 0 0xEFFF8 ∧ Admitted (.stD 3 4 0) s ∧ Admitted (.stNt 3 4 3 0) s ∧ acts (.stNt 3 4 3 0) s (fun t => memGetMany t.mem 0xEFFF8 8 == bytesOf 8 0x1122334455667788 && t.pkts == []) = true ∧ acts (.stD 3 4 0) s (fun t => memGetMany t.mem 0xEFFF8 8 == bytesOf 8 0x1122334455667788 && (t.coreAt h0).sbuf == []) = true ∧
    acts (.stB 3 4 7) s (fun t => memGet t.mem 0xEFFFF == 0x88) = true := by
  unfold OwnAt Admitted; decide +kernel

/-- A buffered store of the loading slot, and one of another slot. -/
theorem witness_StoreForwarding : let s := onCore (fun c => { c with sbuf := [stored 0 0x40 5] }) (regs [(6, own 0x40)] (base h0))
  Unarmed (s.coreAt h0) ∧ s.errs = [] ∧ s.here.ntOut = [] ∧ NoneSent s ∧ Performed s ∧ s.here.blk = none ∧ (s.coreAt h0).sbuf = [stored 0 0x40 5] ∧ (stored 0 0x40 5).slot = h0.slot ∧
    (stored 0 0x40 5).key = coreKey 0 0 0x40 ∧ (stored 0 0x40 5).bytes.length = 8 ∧ OwnAt h0 (s.opG 6) 8 8 0 0x40 ∧ Admitted (.ldD 4 6 0) s ∧
    (stored 3 0x40 5).slot ≠ h0.slot ∧ (stored 3 0x40 5).bytes ≠ [] := by
  unfold Unarmed OwnAt Admitted Performed NoneSent; decide +kernel

/-- A load sees its own slot's buffered store, and waits for another's (R192). -/
theorem test_forwarding : acts (.ldD 4 6 0) (onCore (fun c => { c with sbuf := [stored 0 0x40 5] }) (regs [(6, own 0x40)] (base h0))) (fun t => t.opG 4 == 5) = true ∧
  acts (.ldD 4 6 0) (onCore (fun c => { c with sbuf := [stored 3 0x40 5] }) (regs [(6, own 0x40)] (base h0))) (fun t => t.here.wait == some .drain && t.cur.ended == .wait) = true := by
  decide +kernel

/-! ### Accesses to another core (R25, R84, R90, R318, R322) -/

theorem witness_RemoteAccesses : let s := regs [(6, far 0x40)] (route 1 toCore1 (base h0)); let a := onSlot (fun x => { x with resp := [.data (2 ^ 24 + 0x40) (bytesOf 8 77)] }) s
  Unarmed (s.coreAt h0) ∧ (s.coreAt h0).sbuf = [] ∧ s.here.ntOut = [] ∧ NoneSent s ∧ Performed s ∧ NoneSent a ∧ Performed a ∧ s.here.blk = none ∧ s.here.resp = [] ∧ h0.ok = true ∧ (farAcc 0x40).own = false ∧
    (s.coreAt h0).sbuf.all (fun e => e.slot != h0.slot) = true ∧ (farAcc 0x40).rng.isRegion = false ∧ refusalWaits s (farAcc 0x40) = false ∧
    Reaches s (s.opG 6 + (0 : BitVec 11).signExtend 64) 8 8 .load (farAcc 0x40) ∧ Reaches s (s.opG 6) 1 1 .load (farAcc 0x40) ∧ Reaches s (s.opG 6) 4 4 .load (farAcc 0x40) ∧
    Reaches s (s.opG 6) 64 16 .vector (farAcc 0x40) ∧ heldData a.here.resp (farAcc 0x40).la = some (bytesOf 8 77) ∧ Reaches a (a.opG 6) 8 8 .load (farAcc 0x40) ∧
    Reaches s (s.opG 6) 2 2 .store (farAcc 0x40) ∧ refusedStore s (farAcc 0x40) (bytesOf 2 0) = false ∧ Admitted (.ldD 4 6 0) s ∧ Admitted (.stNt 4 6 1 0) s := by
  unfold Unarmed Admitted Reaches Performed NoneSent; decide +kernel

/-- The route entries of the states above admit a request to core 1. -/
theorem witness_Routed : Routed (regs [(6, far 0x40)] (route 1 toCore1 (base h0))) (farAcc 0x40).rng ∧ Routed (regs [(6, far 0x40), (5, 3), (4, 0x10000)] (route 1 toCore1 (base h0))) (farAcc 0x40).rng := ⟨.inr ⟨by decide +kernel, by decide +kernel, by decide +kernel⟩, .inr ⟨by decide +kernel, by decide +kernel, by decide +kernel⟩⟩

/-- The load sends one KIND 0 request and waits; with its answer held it completes. -/
theorem test_remote_loads : let s := regs [(6, far 0x40)] (route 1 toCore1 (base h0)); let a := onSlot (fun x => { x with resp := [.data (2 ^ 24 + 0x40) (bytesOf 8 77)] }) s
  acts (.ldD 4 6 0) s (fun t => t.pkts.map (fun q => (q.kind, q.dest, q.resp)) == [(0, 2 ^ 24 + 0x40, false)] && t.here.wait == some (.answer 0 false) && t.pc == own 0) = true ∧
    acts (.ldD 4 6 0) a (fun t => t.opG 4 == 77) = true ∧
    acts (.stNt 4 6 1 0) s (fun t => t.pkts.map (fun q => (q.kind, q.dest)) == [(1, 2 ^ 24 + 0x40)] && t.here.ntOut.length == 1 && t.pc == own 4) = true := by
  decide +kernel

/-! ### Vector accesses (R46 to R50, R351 to R354) -/

/-- An offset of each window's alignment, the worked case of R50 among them. -/
theorem witness_WindowLoads : let s := onCore (fun c => { c with mxbase := 0xE0000 }) (regs [(5, own 0x410008), (2, own 0x200010), (3, own 0x300020), (4, own 0x500010), (6, own 0x600020)] (base h0))
  let at' := fun (ea : Word) (w n al off : Nat) => ea.toNat / 2 ^ 52 = 0xF00 ∧ decodeLa 0 0 (ea.toNat % 2 ^ 52) = .core 0 0 w off ∧ off + n ≤ 0xF0000 ∧ ea.toNat % al = 0 ∧ ea.toNat / 2 ^ 16 = (ea.toNat + n - 1) / 2 ^ 16
  Quiet s ∧ s.here.blk = none ∧ (s.coreAt h0).ctBusy = none ∧ h0.unit < 12 ∧ Admitted (.vldW 3 5 0) s ∧ at' (s.opG 2) 2 16 16 0x10 ∧ at' (s.opG 3) 3 32 32 0x20 ∧
    at' (s.opG 6) 6 32 32 0x20 ∧ at' (s.opG 5) 4 8 8 0x10008 ∧ scaleOff s h0 4 0x10008 = 0xE1000 ∧ at' (s.opG 4) 5 16 16 0x10 ∧ scaleOff s h0 5 0x10 < 0xF0000 := by
  unfold Quiet Admitted Unarmed Performed NoneSent; decide +kernel

/-- The worked case of R50. -/
theorem test_window_load : let s := onCore (fun c => { c with mxbase := 0xE0000 }) (poke 0xE1000 [0x7E] (poke 0x10008 [0xF3] (regs [(5, own 0x410008)] (base h0))))
  acts (.vldW 3 5 0) s (fun t => lane 32 0 (t.opV 3) == 0x3F400000 && lane 32 1 (t.opV 3) == 0xC0400000) = true := by
  decide +kernel

/-- A code of the default E4M3 table through CODE8 (R46, R272). -/
theorem test_table_window : acts (.vldW 3 5 0) (poke 0x10 [0x79] (regs [(5, own 0x200010)] (base h0))) (fun t => lane 32 0 (t.opV 3) == 0x43900000) = true := by
  decide +kernel

/-- Two active doublewords, with a stride of −16; and the largest descriptor. -/
theorem witness_StridedAccesses : let s := regs [(2, own 0x1000), (3, 0x7FFFFFFF0), (4, 0x1FFFFFFFFF)] ((base h0).setM 1 3)
  Quiet s ∧ s.here.blk = none ∧ (s.coreAt h0).ctBusy = none ∧ (s.opG 3).toNat < 2 ^ 37 ∧ (s.opG 4).toNat + 1 = 2 ^ 37 ∧ s.here.resp = [] ∧ 2 ^ ((s.opG 3).toNat / 2 ^ 32 % 4) = 8 ∧ BitVec.ofNat 3 ((s.opG 3).toNat / 2 ^ 34) = 1 ∧
    (∀ k < 8, (s.opM 1).getLsbD k = true → OwnAt h0 (s.opG 2 + BitVec.ofInt 64 ((k : Nat) * sintN 32 (s.opG 3).toNat)) 8 8 0 (0x1000 - 16 * k)) ∧ Admitted (.vldS 1 2 3) s := by
  unfold Quiet OwnAt Admitted Unarmed Performed NoneSent; decide +kernel

/-- Lane 1 stands 16 bytes below lane 0 (R353, R354). -/
theorem test_strided : let s := regs [(2, own 0x1000), (3, 0x7FFFFFFF0)] ((base h0).setM 1 3)
  acts (.vldS 1 2 3) (words 0xFF0 [9] s) (fun t => lane 64 1 (t.opV 1) == 9 && lane 64 2 (t.opV 1) == 0) = true ∧
    acts (.vstS 1 2 3) (s.setV 1 (0x5 * 2 ^ 64 + 4)) (fun t => memGetMany t.mem 0xFF0 8 == bytesOf 8 5 && memGetMany t.mem 0x1000 8 == bytesOf 8 4) = true := by
  decide +kernel

/-- A bit of 63:37 makes it illegal (R353). -/
theorem test_strided_descriptor : trapOf (.vldS 1 2 3) (regs [(3, 0x2000000000)] (base h0)) = (1, 4) ∧ 2 ^ 37 ≤ ((regs [(3, 0x2000000000)] (base h0)).opG 3).toNat := by
  decide +kernel

/-! ### Fences and read-modify-writes (R194, R202, R323 to R335) -/

theorem witness_Fences : Settled (base h0) ∧ (4 : BitVec 3).toNat < 5 ∧ (∀ l ∈ (base h0).lag, ¬ (l.writer = pathOf 1 ∧ l.reader = pathOf 0 ∧ covered h0 1 l.key = true)) ∧ Admitted (.fence 3) (base h0) ∧
  Admitted (.xfence 1 0 1) (base h0) ∧ Admitted .isync (base h0) ∧ engineInPort (base h0) = false ∧ (base h0).here.blk = none ∧ pathOf 1 = .ce ∧ pathOf 0 = .ls ∧ covered h0 0 0x40 = true := by
  unfold Admitted Settled NoneSent; decide +kernel

/-- `isync` empties the instruction cache; a write of another path that LS has not seen holds an `xfence` back; a Q of XP is illegal. -/
theorem test_fences : acts .isync (cached (base h0)) (fun t => (t.coreAt h0).icache == []) = true ∧
  acts (.xfence 1 0 0) { base h0 with seen := [(h0.name.toNat, [4])], lag := [{ reader := .ls, writer := .ce, maker := .other, key := 0x40, old := 0, id := 4, done := [] }] } (fun t => t.here.wait == some .drain) = true ∧
  acts (.fence 1) { base h0 with heard := [(h0.name.toNat, [4])], lag := [{ reader := .ls, writer := .ce, maker := .other, key := 0x40, old := 0, id := 4, done := [] }] } (fun t => Tbl.get [] t.seen h0.name.toNat == [4] && t.pc == own 4) = true ∧
  acts (.xfence 1 0 0) { base h0 with lag := [{ reader := .ls, writer := .ce, maker := .other, key := 0x40, old := 0, id := 4, done := [] }] } (fun t => t.pc == own 4) = true ∧
  trapOf (.xfence 1 5 0) (base h0) = (1, 4) := by
  decide +kernel

/-- The words of both sizes, a smaller and a larger operand, and a match and a mismatch of `cas`. -/
theorem witness_Atomics : let s := words 0x40 [0x80000000FFFFFFFF] (regs [(6, own 0x40), (5, 1), (4, 0x80000000FFFFFFFF)] (base h0))
  Quiet s ∧ s.here.blk = none ∧ (s.coreAt h0).ctBusy = none ∧ s.here.resp = [] ∧ OwnAt h0 (s.opG 6) 4 4 0 0x40 ∧ OwnAt h0 (s.opG 6) 8 8 0 0x40 ∧ Admitted (.amoAdd 4 6 5 1) s ∧
    sintN 64 (ofBytes (s.ownBytes h0 0x40 8)) < sintN 64 1 ∧ ¬ sintN 64 1 < sintN 64 (ofBytes (s.ownBytes h0 0x40 8)) ∧ ofBytes (s.ownBytes h0 0x40 8) = (s.opG 4).toNat ∧
    ofBytes (s.ownBytes h0 0x40 4) ≠ (s.opG 5).toNat % 2 ^ 32 := by
  unfold Quiet OwnAt Admitted Unarmed Performed NoneSent; decide +kernel

/-- The old value comes back sign-extended; `amo.max` keeps the larger (R323, R325). -/
theorem test_atomics : let s := words 0x40 [0x80000000FFFFFFFF] (regs [(6, own 0x40), (5, 1)] (base h0))
  acts (.amoAdd 4 6 5 0) s (fun t => t.opG 4 == 0xFFFFFFFFFFFFFFFF && memGetMany t.mem 0x40 8 == bytesOf 8 0x8000000000000000) = true ∧
    acts (.amoMax 4 6 5 1) s (fun t => t.opG 4 == 0x80000000FFFFFFFF && memGetMany t.mem 0x40 8 == bytesOf 8 1) = true := by
  decide +kernel

/-- The comparand is the old g[D] (R325). -/
theorem test_compare_and_swap : let s := words 0x40 [7] (regs [(6, own 0x40), (5, 1), (4, 7)] (base h0))
  acts (.amoCas 4 6 5 1) s (fun t => t.opG 4 == 7 && memGetMany t.mem 0x40 8 == bytesOf 8 1) = true ∧
    acts (.amoCas 3 6 5 1) s (fun t => t.opG 3 == 7 && memGetMany t.mem 0x40 8 == bytesOf 8 7) = true := by
  decide +kernel

/-- A reservation of the word, of none, and a wake-up. -/
theorem witness_Reservations : let s := words 0x40 [7] (regs [(6, own 0x40), (5, 1)] (base h0)); let a := onSlot (fun x => { x with resv := some 0x40 }) s
  Quiet s ∧ s.here.blk = none ∧ (s.coreAt h0).ctBusy = none ∧ s.here.resp = [] ∧ OwnAt h0 (s.opG 6) 8 8 0 0x40 ∧ protectedBy s (slotKey h0) 0x40 = false ∧ behindRes s (slotKey h0) 0x40 = false ∧ Admitted (.ldRes 4 6) s ∧
    Tbl.look s.slots (slotKey h0) = some s.here ∧ s.here.resv = none ∧ a.here.resv = some (coreKey 0 0 0x40) ∧ Admitted (.stCond 4 6 5) a ∧ Resp.done ∉ a.here.resp ∧ Admitted (.wres 4) a ∧
    Resp.done ∈ (onSlot (fun x => { x with resp := [.done] }) a).here.resp := by
  unfold Quiet OwnAt Admitted Unarmed Performed NoneSent; decide +kernel

/-- `st.cond` writes under its reservation only, which is then gone (R326). -/
theorem test_reservations : let s := words 0x40 [7] (regs [(6, own 0x40), (5, 1), (4, 9)] (base h0)); let a := onSlot (fun x => { x with resv := some 0x40 }) s
  acts (.ldRes 4 6) s (fun t => t.here.resv == some 0x40 && t.opG 4 == 7) = true ∧ acts (.stCond 4 6 5) a (fun t => t.opG 4 == 1 && t.here.resv == none && memGetMany t.mem 0x40 8 == bytesOf 8 1) = true ∧
    acts (.stCond 4 6 5) s (fun t => t.opG 4 == 0 && memGetMany t.mem 0x40 8 == bytesOf 8 7) = true ∧ acts (.wres 4) s (fun t => t.opG 4 == 1) = true ∧
    acts (.wres 4) a (fun t => t.here.wait == some (.reserve 0x40) && t.here.st == .wait) = true := by
  decide +kernel

/-- A full and an empty FUTURE word. -/
theorem witness_Futures : let s := words 0x40 [7] (regs [(6, own 0x100040), (5, 1)] (base h0)); let f := { s with tags := [8] }
  Quiet s ∧ s.here.blk = none ∧ (s.coreAt h0).ctBusy = none ∧ s.here.resp = [] ∧ OwnAt h0 (s.opG 6) 8 8 1 0x40 ∧ coreKey 0 0 0x40 / 8 ∉ s.tags ∧ coreKey 0 0 0x40 / 8 ∈ f.tags ∧ ackedFor s h0 2 = true ∧ Admitted (.fput 4 6 5) s ∧ Admitted (.ftake 4 6) f := by
  unfold Quiet OwnAt Admitted Unarmed Performed NoneSent; decide +kernel

/-- `fput` gives whether the word was full; `ftake` empties it; an empty word holds the slot (R329). -/
theorem test_futures : let s := words 0x40 [7] (regs [(6, own 0x100040), (5, 1), (4, 9)] (base h0)); let f := { s with tags := [8] }
  acts (.fput 4 6 5) s (fun t => t.opG 4 == 0 && t.tags == [8] && memGetMany t.mem 0x40 8 == bytesOf 8 1) = true ∧ acts (.ftake 4 6) f (fun t => t.opG 4 == 7 && t.tags == []) = true ∧
    acts (.fget 4 6) s (fun t => t.here.wait == some (.future 0x40) && t.here.st == .wait) = true := by
  decide +kernel

/-- A routed reduction, one to a reduction group's line, and sixteen out. -/
theorem witness_Reductions : let s := regs [(6, far 0x40), (5, 3), (4, 0x10000)] (route 1 toCore1 (base h0))
  s.here.blk = none ∧ h0.ok = true ∧ Reaches s (s.opG 6) 4 4 .red (farAcc 0x40) ∧ Reaches s (s.opG 6) 8 8 .red (farAcc 0x40) ∧ Reaches s (s.opG 6) 8 64 .red (farAcc 0x40) ∧ s.here.redOut < 16 ∧
    16 ≤ (onSlot (fun x => { x with redOut := 16 }) s).here.redOut ∧ Admitted (.redAdd 6 5 1) s ∧ (farAcc 0x40).own = false ∧ (s.coreAt h0).sbuf.all (fun e => e.slot != h0.slot) = true ∧
    s.errs = [] ∧ Performed s ∧ OwnAt h0 ((regs [(6, own 0xEFFF8)] s).opG 6) 8 8 0 0xEFFF8 ∧ OwnAt h0 ((regs [(6, own 0x40)] s).opG 6) 4 4 0 0x40 ∧ OwnAt h0 ((regs [(6, own 0x40)] s).opG 6) 8 64 0 0x40 ∧ Admitted (.redFaddGroup 4 6 5) s := by
  unfold OwnAt Admitted Reaches Performed; decide +kernel

/-- In its core's own memory a reduction leaves its result as it completes (R330): a sum modulo 2^32, and the smaller doubleword. -/
theorem test_reductions_made : let s := words 0x40 [0x80000000FFFFFFFF] (regs [(6, own 0x40), (5, 2)] (base h0))
  acts (.redAdd 6 5 0) s (fun t => memGetMany t.mem 0x40 8 == bytesOf 8 0x8000000000000001 && t.here.redOut == 0) = true ∧
    acts (.redMin 6 5 1) s (fun t => memGetMany t.mem 0x40 8 == bytesOf 8 0x80000000FFFFFFFF) = true := by
  decide +kernel

/-- One KIND 4 packet, counted; the contributor is at most 0xFFFF; with sixteen out a word of each kind waits (R330 to R332). -/
theorem test_reductions_sent : let w := onSlot (fun x => { x with redOut := 16 }) (regs [(6, far 0x40), (5, 3), (4, 0x10000)] (route 1 toCore1 (base h0))); let s := regs [(6, far 0x40), (5, 3), (4, 0x10000)] (route 1 toCore1 (base h0))
  ([.redAdd 6 5 1, .redMin 6 5 1, .redMax 6 5 1, .redFadd 6 5 1, .redFaddGroup 4 6 5] : List Instr).all (fun i => acts i w fun t => t.here.wait == some .drain && t.pkts == []) = true ∧
  acts (.redMax 6 5 1) s (fun t => t.pkts.map (fun q => (q.kind, q.body)) == [(4, .red 2 true false 0 3)] && t.here.redOut == 1) = true ∧
    acts (.redFaddGroup 4 6 5) s (fun t => t.pkts.map (·.body) == [.red 3 false true 0xFFFF 3]) = true ∧
    acts (.redAdd 6 5 1) (onSlot (fun x => { x with redOut := 16 }) s) (fun t => t.here.wait == some .drain && t.pkts == []) = true := by
  decide +kernel

/-! ### Barriers and counters (R219, R229, R337 to R341) -/

/-- Set-up admitted and refused; an arrival that does not complete, one that does, and one at the present timestamp. -/
theorem witness_BarrierArrivals : let s := coreBar 5 0 2 900 (base h0)
  Admitted (.barInit 2 5) s ∧ barInitRefused s h0 5 0x10003 = none ∧ barInitRefused s h0 5 0x10000 = some 1 ∧ (2 : Nat) ^ 21 ≤ (0x200000 : Word).toNat ∧ (0x30001 : Nat) / 2 ^ 16 % 4 = 3 ∧
    (s.bar 0 0 5).kind = 1 ∧ (s.bar 0 0 5).cdone = false ∧ (s.bar 0 0 5).owed = false ∧ allPerformed s h0 = true ∧ Admitted (.barArrive 4 5) s ∧
    (s.bar 0 0 5).arrived + 1 < (s.bar 0 0 5).count ∧ ((coreBar 5 1 2 900 s).bar 0 0 5).count ≤ ((coreBar 5 1 2 900 s).bar 0 0 5).arrived + 1 ∧
    ((coreBar 5 1 2 900 s).bar 0 0 5).donets < s.ts ∧ s.ts ≤ ((coreBar 5 1 2 1000 s).bar 0 0 5).donets := by
  unfold Admitted; decide +kernel

/-- R337. -/
theorem test_barrier_setup : acts (.barInit 2 5) (regs [(2, 0x10003)] (coreBar 5 0 2 900 (base h0))) (fun t => (t.bar 0 0 5).count == 3 && (t.bar 0 0 5).donets == 900) = true ∧
  trapOf (.barInit 2 5) (regs [(2, 0x10000)] (base h0)) = (14, 1) ∧ trapOf (.barArrive 2 5) (base h0) = (14, 1) ∧ ((base h0).bar 0 0 5).kind = 0 := by
  decide +kernel

/-- The arrival that completes names the next phase by the timestamp (R219). -/
theorem test_barrier_arrivals : acts (.barArrive 4 5) (coreBar 5 0 2 900 (base h0)) (fun t => t.opG 4 == 900 && (t.bar 0 0 5).arrived == 1 && t.here.arvV) = true ∧
  acts (.barArrive 4 5) (coreBar 5 1 2 900 (base h0)) (fun t => (t.bar 0 0 5).arrived == 0 && (t.bar 0 0 5).donets == 1000) = true ∧
  acts (.barArrive 4 5) (coreBar 5 1 2 1000 (base h0)) (fun t => (t.bar 0 0 5).owed) = true := by
  decide +kernel

/-- A token past and not past, a record of the thread's own and none, and a wait released either way. -/
theorem witness_BarrierWaits : let s := regs [(2, 899), (3, 900)] (coreBar 5 0 2 900 (base h0)); let m := onSlot (fun x => { x with arvV := true, arvBar := 5, arvName := 899 }) s
  (s.bar 0 0 5).kind ≠ 0 ∧ Admitted (.barWait 2 5) s ∧ s.here.blk = none ∧ s.here.resp = [] ∧ (s.opG 2).toNat < 900 ∧ ¬ (s.opG 3).toNat < 900 ∧
    m.here.arvV = true ∧ m.here.arvBar = (5 : BitVec 11).toNat ∧ m.here.arvName.toNat < 900 ∧ s.here.arvV = false ∧ heldValue s.here.resp = none ∧
    heldValue (onSlot (fun x => { x with resp := [.value 1] }) s).here.resp = some 1 ∧ heldValue (onSlot (fun x => { x with resp := [.value 0] }) s).here.resp = some 0 ∧
    Admitted (.barTry 4 0 5) m ∧ ¬ (onSlot (fun x => { x with arvName := 900 }) m).here.arvName.toNat < 900 ∧
    (onSlot (fun x => { x with resp := [.value 1], cut := some (5, 900) }) s).here.cut.map (·.1) = some (5 : BitVec 11).toNat ∧ s.here.cut.map (·.1) ≠ some 5 := by
  unfold Admitted; decide +kernel

/-- R223, R340. -/
theorem test_barrier_waits : let s := regs [(2, 899), (3, 900)] (coreBar 5 0 2 900 (base h0)); let m := onSlot (fun x => { x with arvV := true, arvBar := 5, arvName := 899 }) s
  acts (.barWait 2 5) s (fun t => t.pc == own 4) = true ∧ acts (.barWait 3 5) s (fun t => t.here.wait == some (.barrier 5) && t.here.st == .wait) = true ∧
    acts (.barWait 0 5) m (fun t => t.pc == own 4 && !t.here.arvV) = true ∧
    acts (.barWait 0 5) (onSlot (fun x => { x with resp := [.value 1] }) s) (fun t => t.here.aligned == some 5) = true ∧
    acts (.barWait 0 5) (onSlot (fun x => { x with resp := [.value 1], cut := some (5, 900) }) s) (fun t => t.here.aligned == none && t.pc == own 4) = true ∧
    acts (.barWait 0 5) (onSlot (fun x => { x with arvName := 900 }) m) (fun t => t.here.wait == some (.barrier 5)) = true ∧
    acts (.barTry 4 3 5) (regs [(4, 9)] s) (fun t => t.opG 4 == 0) = true ∧ acts (.barTry 4 0 5) m (fun t => t.opG 4 == 1 && !t.here.arvV) = true := by
  decide +kernel

/-- A counter at 0, at 1 and at its largest value. -/
theorem witness_SlotCounters : let s := onCore (fun c => { c with scnt := [(1, 1), (2, BitVec.allOnes 32)] }) (base h0)
  h0.ok = true ∧ ackedFor s h0 1 = true ∧ (s.opG 2).toNat % 128 = h0.core ∧ (s.coreAt h0).sbuf = [] ∧ s.here.resp = [] ∧ counterQueue s 0 0 1 = [] ∧ Tbl.get 0 (s.coreAt h0).scnt 1 ≠ 0 ∧ Tbl.get 0 (s.coreAt h0).scnt 0 = 0 ∧
    Admitted (.slotTake 4 2 1) s ∧ Admitted (.slotTry 4 2 0) s ∧ Admitted (.slotGive 2 2) s := by
  unfold Admitted; decide +kernel

/-- R229, R341. -/
theorem test_slot_counters : let s := onCore (fun c => { c with scnt := [(1, 1), (2, BitVec.allOnes 32)] }) (base h0)
  acts (.slotTake 4 2 1) s (fun t => t.opG 4 == 1 && Tbl.get 0 (t.coreAt h0).scnt 1 == 0) = true ∧ acts (.slotTry 4 2 0) s (fun t => t.opG 4 == 0) = true ∧
    acts (.slotGive 2 2) s (fun t => Tbl.get 0 (t.coreAt h0).scnt 2 == BitVec.allOnes 32) = true ∧ acts (.slotGive 2 0) s (fun t => Tbl.get 0 (t.coreAt h0).scnt 0 == 1) = true ∧
    acts (.slotTake 4 2 0) s (fun t => t.here.wait.isSome && t.here.st == .wait) = true := by
  decide +kernel

/-! ### The bit buffer (R342 to R346) -/

/-- An empty buffer that refills, one with bits enough, both kinds of stream address, and each outcome of an entry. -/
theorem witness_BitBuffer : let s := words 0x2000 [0x25] (words 0x3000 [0x2004200010041] (regs [(4, own 0x2000), (7, own 0x3000), (8, own 0x2003), (9, 33)] (base h0)))
  let b : Bits := { data := 0x25, count := 64, ptr := own 0x2008 }
  let f := s.setBb { data := 0x25, count := 64, ptr := own 0x2008 }
  Quiet s ∧ s.here.blk = none ∧ (s.opG 4).toNat % 8 = 0 ∧ (s.opG 8).toNat % 8 ≠ 0 ∧ (0 : Nat) < 3 ∧ OwnAt h0 (own 0x2000) 8 8 0 0x2000 ∧ (3 : BitVec 6).toNat ≤ b.count ∧
    32 < (s.opG 9).toNat ∧ Admitted (.bbTakeImm 5 3) s ∧ (2 : BitVec 4).toNat ≤ f.bb.count ∧ OwnAt h0 (s.opG 7 + 4) 4 4 0 0x3004 ∧
    f.bb.data.toNat % 2 ^ 2 = 1 ∧ ofBytes (s.ownBytes h0 0x3004 4) / 2 ^ 16 % 32 = 2 ∧ ofBytes (s.ownBytes h0 0x3000 4) / 2 ^ 16 % 32 = 1 ∧ ofBytes (s.ownBytes h0 0x3008 4) / 2 ^ 16 % 32 = 0 := by
  unfold Quiet OwnAt Admitted Unarmed Performed NoneSent; decide +kernel

/-- The first rows of the worked case of R346, with a stream 0x25. -/
theorem test_bit_reads : let s := words 0x2000 [0x25] (regs [(4, own 0x2000)] (base h0)); let b : Bits := { data := 0, count := 0, ptr := own 0x2000 }
  acts (.bbInit 4) s (fun t => t.bb == b) = true ∧ acts (.bbTakeImm 5 3) (s.setBb b) (fun t => t.opG 5 == 5 && t.bb == ({ data := 4, count := 61, ptr := own 0x2008 } : Bits)) = true ∧
    acts (.bbPeekImm 5 3) (s.setBb b) (fun t => t.opG 5 == 5 && t.bb.count == 64) = true ∧ trapOf (.bbTakeReg 5 9) (regs [(9, 33)] s) = (13, 1) := by
  decide +kernel

/-- A symbol and its length; LEN 0 traps with SUB 2 (R344, R346). -/
theorem test_bit_decode : let s := (words 0x3000 [0x2004100000000] (regs [(7, own 0x3000)] (base h0))).setBb { data := 0x25, count := 61, ptr := own 0x2008 }
  acts (.bbDec 6 7 2) s (fun t => t.opG 6 == 0x41 && t.bb.count == 59) = true ∧ trapOf (.bbDec 6 7 2) (s.setBb { data := 0x24, count := 61, ptr := own 0x2008 }) = (13, 2) := by
  decide +kernel

/-- A copy of the shortest and longest lengths, one of length 0, and a literal of eight bytes. -/
theorem witness_BitBuffer_writes : let s := words 0x2000 [0x0807060504030201] (regs [(5, own 0x2004), (6, own 0x2000), (8, 0x600000004), (9, 0x4), (10, 0x40000000004)] (base h0))
  Quiet s ∧ s.here.blk = none ∧ (s.coreAt h0).ctBusy = none ∧ s.cur.part = 0 ∧ heldValue s.here.resp = none ∧ Memory.wf s.mem = true ∧ (s.opG 9).toNat / 2 ^ 32 % 2 ^ 16 = 0 ∧ (s.opG 8).toNat / 2 ^ 32 % 2 ^ 16 = 6 ∧ (s.opG 10).toNat / 2 ^ 32 % 2 ^ 16 = 1024 ∧
    (s.opG 6).toNat ≤ (s.opG 5 - 4).toNat ∧ OwnAt h0 (s.opG 5 - 4) 6 1 0 0x2000 ∧ OwnAt h0 (s.opG 5) 6 1 0 0x2004 ∧ OwnAt h0 (s.opG 5) 1024 1 0 0x2004 ∧ Admitted (.bbCopy 5 6 8) s ∧
    8 * 8 ≤ (s.setBb { data := 1, count := 64, ptr := 0 }).bb.count ∧ OwnAt h0 (s.opG 5) 8 1 0 0x2004 ∧ Admitted (.bbLit 5 8) s := by
  unfold Quiet OwnAt Admitted Unarmed Performed NoneSent; decide +kernel

/-- A copy repeats the last `dist` bytes; a literal takes the stream's next bytes (R345). -/
theorem test_bit_writes : let s := words 0x2000 [0x0000000004030201] (regs [(5, own 0x2004), (6, own 0x2000), (8, 0x600000004)] (base h0))
  acts (.bbCopy 5 6 8) s (fun t => memGetMany t.mem 0x2004 6 == [1, 2, 3, 4, 1, 2] && t.opG 5 == own 0x200A) = true ∧
    acts (.bbLit 5 2) (s.setBb { data := 0xABCDEF, count := 24, ptr := 0 }) (fun t => memGetMany t.mem 0x2004 2 == [0xEF, 0xCD] && t.bb.count == 8 && t.opG 5 == own 0x2006) = true := by
  decide +kernel

/-! ### Commands to the engines (R104 to R112, R133, R152, R392 to R400) -/

theorem witness_CopyCommands : let s := copyState; let word := wordAt (s.ownBytes h0 0x1000 32)
  let src := some (tensorOf (ofBytes (s.ownBytes h0 0x1040 64))); let dst := some (tensorOf (ofBytes (s.ownBytes h0 0x1080 64)))
  let b : CopyBlk := { pa := own 0x1000, w0 := word 0, w1 := word 1, w2 := word 2, w3 := word 3, src := src, dst := dst }
  Quiet s ∧ s.here.blk = none ∧ OwnAt h0 (s.opG 6) 32 32 0 0x1000 ∧ OwnAt h0 (BitVec.ofNat 64 (word 0)) 64 64 0 0x1040 ∧ (word 2).testBit 17 = false ∧ (word 2).testBit 22 = false ∧
    OwnAt h0 (BitVec.ofNat 64 (word 1)) 64 64 0 0x1080 ∧ tensorRefused s src (BitVec.ofNat 64 (word 0)) = none ∧ tensorRefused s dst (BitVec.ofNat 64 (word 1)) = none ∧
    b.refused s false = none ∧ (((s.coreAt h0).chan 3).accept (b.cmd s false)).isSome = true ∧ (b.cmd s false).chan = 3 ∧ Admitted (.cpy 6) s ∧ ((s.coreAt h0).chan 5).cmds = [] ∧
    (b.cmd s false).range.isSome = true ∧ Admitted (.cpyQ 4 1 5) s := by
  unfold Quiet OwnAt Admitted Unarmed Performed NoneSent; decide +kernel

/-- The command joins channel 3, whose range is the destination's (R111); a bad block names its check. -/
theorem test_copy : acts (.cpy 6) copyState (fun t => ((t.coreAt h0).chan 3).cmds.length == 1 && ((t.coreAt h0).chan 3).lo == BitVec.ofNat 64 (vaultPa 0x400) &&
    ((t.coreAt h0).chan 3).hi == BitVec.ofNat 64 (vaultPa 0x440) && ((t.coreAt h0).chan 3).wm == BitVec.ofNat 64 (vaultPa 0x400)) = true ∧
  trapOf (.cpy 6) (words 0x1010 [3 + 12 * 2 ^ 8] copyState) = (14, 2) ∧ acts (.cpyQ 4 1 5) (regs [(4, 9)] copyState) (fun t => t.opG 4 == ((t.coreAt h0).chan 5).word2) = true := by
  decide +kernel

/-- Each word's block, with the probe's answer held for `restore` and `stash.stat`. -/
theorem witness_StashCommands : let s := poke 0x2000 (bytesOf 16 (16 * 2 ^ 64 + 2 ^ 32)) (stashState stashW2); let b := stashBlk stashW2; let f := stashBlk (stashW2 + 2 ^ 16)
  let a := onSlot (fun x => { x with resp := [.probe 0 0 0 5] }) s
  Quiet s ∧ s.here.blk = none ∧ OwnAt h0 (s.opG 6) 32 32 0 0x1000 ∧ wordAt (s.ownBytes h0 0x1000 32) 2 = stashW2 ∧ commandRefused s h0 b.region = false ∧ commandRefused s h0 b.loc = false ∧
    b.region.toNat % 64 = 0 ∧ b.loc.toNat % 8 = 0 ∧ OwnAt h0 b.loc 8 8 0 0x2000 ∧ OwnAt h0 (b.loc + 8) 8 8 0 0x2008 ∧
    b.refused s .stashOpen true (some (word64 (s.ownBytes h0 0x2000 8), word64 (s.ownBytes h0 0x2008 8))) = none ∧ b.refused s .stash true none = none ∧ f.refused s .stash false none = none ∧
    b.refused s .restore true none = none ∧ s.lag = [] ∧ probeOf a.here.resp = some (0, 0, 0, 5) ∧ Resp.late ∉ a.here.resp ∧ Resp.late ∉ s.here.resp ∧ bits 0 19 18 ≠ 3 ∧ Admitted (.stashOpen 6) s ∧ Admitted (.stash 6) s ∧ Admitted (.stashReg 1 6) s ∧
    Admitted (.restore 6) a ∧ Admitted (.stashStat 4 6 1) a ∧ isUnit b.engU = true ∧ 16 ≤ b.engU ∧ b.legMissing s false = false ∧ fixedFails h0 b.region (fun r => !r.isHbm) = false ∧
    (((s.coreAt h0).chan 2).accept (b.cmd s .stash none (0, 0) none)).isSome = true := by
  unfold Quiet OwnAt Admitted Unarmed Performed NoneSent; decide +kernel

/-- A `stash` joins its channel; `stash.stat` gives header word 5's ULPs as its word 1 (R398). -/
theorem test_stash : let s := stashState stashW2
  acts (.stash 6) s (fun t => ((t.coreAt h0).chan 2).cmds.map (fun k => (k.op == .stash, k.count, k.dleg)) == [(true, 32, some 0x710)]) = true ∧
    acts (.stashStat 4 6 1) (onSlot (fun x => { x with resp := [.probe 0 0 0 5] }) s) (fun t => t.opG 4 == 5) = true ∧
    trapOf (.stash 6) (words 0x1018 [1 + 32 * 2 ^ 32] s) = (14, 2) ∧ acts (.restore 6) s (fun t => t.pkts.map (·.kind) == [5] && t.here.wait.isSome) = true := by
  decide +kernel

/-- A valid slot of the thread's context, an invalid one, a written one, and a status word read. -/
theorem witness_GraftCommands : let s := (base h0).setPop 3 { (default : PopSlot) with valid := true }
  s.here.blk = none ∧ (s.pop 3).valid = true ∧ (s.pop 3).ctx = s.ctx ∧ (s.pop 3).ownMod = s.moduleNo ∧ allPerformed s h0 = true ∧ s.ranker.queue.length < 16 ∧ Admitted (.graftGo 3) s ∧
    (s.pop 15).valid = false ∧ Resp.done ∈ (onSlot (fun x => { x with resp := [.done] }) s).here.resp ∧ heldValue (onSlot (fun x => { x with resp := [.value 6] }) s).here.resp = some 6 ∧
    Admitted (.graftCfg 2 3) s ∧ Admitted (.graftStat 4 1 3) s := by
  unfold Admitted; decide +kernel

/-- R399, R400. -/
theorem test_graft : let s := (base h0).setPop 3 { (default : PopSlot) with valid := true }
  acts (.graftGo 3) s (fun t => t.ranker.queue == [(3, h0)] && (t.pop 3).gobusy) = true ∧ trapOf (.graftGo 15) s = (14, 1) ∧
    acts (.graftStat 4 1 3) (onSlot (fun x => { x with resp := [.value 6] }) s) (fun t => t.opG 4 == 6) = true ∧ acts (.graftStat 4 1 3) s (fun t => t.ranker.stats.length == 1 && t.here.wait.isSome) = true := by
  decide +kernel

/-! ### Tasks (R233, R239, R246, R247) -/

/-- A free entry and a full deque, records of the thread's context and of another, and a victim. -/
theorem witness_Tasks_deque : let s := regs [(2, own 0x40)] (base h0); let f := onCore (fun c => { c with dqbot := 64 }) s
  let q := record 0 [0x40, 4, 5, 6, 7, 0] (onCore (fun c => { c with dqbot := 1 }) s); let o := record 0 [0x40, 4, 5, 6, 7, 9] (onCore (fun c => { c with dqbot := 1 }) s)
  let v := onCore (fun c => { c with stealord := 0x8100 }) s
  s.here.blk = none ∧ s.opG 2 ≠ 0 ∧ s.opG 0 = 0 ∧ allPerformed s h0 = true ∧ (s.coreAt h0).dequeFill = 0 ∧ (f.coreAt h0).dequeFill = 64 ∧ s.errs = [] ∧ Memory.wf s.mem = true ∧
    Admitted (.dqPush 8 2) s ∧ Admitted (.dqPush 8 2) f ∧ Admitted (.dqPush 8 0) s ∧ stolenOf s.here.resp = none ∧ Admitted (.dqPop 8) q ∧ ¬ (4 ≤ (8 : BitVec 5).toNat ∧ (8 : BitVec 5).toNat ≤ 7) ∧
    (q.coreAt h0).dqbot ≠ (q.coreAt h0).dqtop ∧ recCtx (dequeRead q 0 0 0) = q.ctx ∧ recCtx (dequeRead o 0 0 0) ≠ o.ctx ∧ nextVictim o h0 0 = none ∧ nextVictim v h0 0 = some 1 ∧
    (v.coreAt h0).dqbot = (v.coreAt h0).dqtop ∧ (v.coreAt h0).dequeFill < 64 := by
  unfold Admitted; decide +kernel

/-- A push gives 1 and its record is what a pop takes; a full deque gives 0 (R405). -/
theorem test_deque : let s := regs [(2, own 0x40), (5, 55)] (base h0); let q := record 0 [0x40, 4, 5, 6, 7, 0] (onCore (fun c => { c with dqbot := 1 }) s)
  acts (.dqPush 8 2) s (fun t => t.opG 8 == 1 && (t.coreAt h0).dqbot == 1 && dequeRead t 0 0 0 == [own 0x40, 0, 55, 0, 0, 0]) = true ∧
    acts (.dqPop 8) q (fun t => t.opG 8 == 0x40 && t.opG 7 == 7 && (t.coreAt h0).dqbot == 0) = true ∧
    acts (.dqPush 8 2) (onCore (fun c => { c with dqbot := 64 }) s) (fun t => t.opG 8 == 0) = true ∧ trapOf (.dqPush 8 0) s = (1, 4) ∧
    acts (.dqPop 8) (regs [(8, 3)] s) (fun t => t.opG 8 == 0) = true := by
  decide +kernel

/-- The least and the largest targets, and those each refusal covers. -/
theorem witness_Tasks_spawn : let s := regs [(2, 0), (3, 2815), (4, 1536), (5, 2080), (6, 2048)] (base h0); let a := onSlot (fun x => { x with resp := [.done] }) s
  s.here.blk = none ∧ (s.opG 3).toNat / 128 = 21 ∧ (s.opG 2).toNat % 128 < coresOf 0 ∧ allPerformed s h0 = true ∧ Admitted (.spawn 2 9 1) s ∧ Resp.done ∈ a.here.resp ∧
    Resp.busy ∉ a.here.resp ∧ Resp.busy ∈ (onSlot (fun x => { x with resp := [.busy] }) s).here.resp ∧ (s.opG 4).toNat / 128 = 12 ∧ (s.opG 5).toNat / 128 = 16 ∧
    (s.opG 5).toNat % 128 = 32 ∧ (s.opG 6).toNat / 128 = 16 ∧ (s.opG 6).toNat % 128 = 0 := by
  unfold Admitted; decide +kernel

theorem witness_Tasks_spawn_call : Lands (regs [(2, 0), (9, own 0x40)] (cached (base h0))) ((regs [(2, 0), (9, own 0x40)] (cached (base h0))).opG 9) := lands_of 0x40 0 (by unfold OwnAt; decide +kernel) (by decide +kernel) (by decide) (by decide +kernel)

/-- R247, R404. -/
theorem test_spawn : let s := regs [(2, 0), (4, 1536), (5, 2080), (6, 2048), (9, own 0x40)] (cached (base h0))
  acts (.spawn 2 9 0) (onSlot (fun x => { x with resp := [.done] }) s) (fun t => t.pc == own 4) = true ∧
    acts (.spawn 2 9 0) (onSlot (fun x => { x with resp := [.busy] }) s) (fun t => t.pc == own 0x40 && t.opG 1 == own 4) = true ∧
    trapOf (.spawn 4 9 0) s = (14, 1) ∧ trapOf (.spawn 5 9 0) s = (14, 2) ∧ trapOf (.spawn 6 9 1) s = (14, 2) := by
  decide +kernel

/-- A record of one kernel for core 0 of the own bed, and of bed 11. -/
theorem witness_Tasks_launch : let s := onSlot (fun x => { x with resp := [.done] }) (ctxEntry 11 0 (BitVec.ofNat 64 (2 ^ 63)) (ctxEntry 0 0 (BitVec.ofNat 64 (2 ^ 63))
    (words 0x1000 ([1, 0, 1, 0, 0, 0, 0, 0, 0, 1] ++ List.replicate 14 0) (regs [(6, own 0x1000)] (base h0)))))
  let ws := wordsOf (s.ownBytes h0 0x1000 64 ++ s.ownBytes h0 0x1040 64 ++ s.ownBytes h0 0x1080 64)
  Quiet s ∧ s.here.blk = none ∧ OwnAt h0 (s.opG 6) 64 64 0 0x1000 ∧ OwnAt h0 (s.opG 6 + 64) 64 64 0 0x1040 ∧ OwnAt h0 (s.opG 6 + 128) 64 64 0 0x1080 ∧ gangBad ws = false ∧
    ¬ (ws.getD 2 0 = 0 ∧ ws.getD 3 0 = 0) ∧ (Tbl.get 0 (s.bed 0).ctxTab (gangCtx ws).toNat).getLsbD 63 = true ∧ (Tbl.get 0 (s.bed 11).ctxTab (gangCtx ws).toNat).getLsbD 63 = true ∧
    s.sysMode = true ∧ allPerformed s h0 = true ∧ Resp.done ∈ s.here.resp ∧ Resp.busy ∉ s.here.resp ∧ Admitted (.launch 6 15) s ∧ Admitted (.launch 6 11) s := by
  unfold Quiet OwnAt Admitted Unarmed Performed NoneSent; decide +kernel

/-- A queued launch completes; a record without a kernel is a descriptor error (R239, R406). -/
theorem test_launch : let s := ctxEntry 0 0 (BitVec.ofNat 64 (2 ^ 63)) (words 0x1000 ([1, 0, 1, 0, 0, 0, 0, 0, 0, 1] ++ List.replicate 14 0) (regs [(6, own 0x1000)] (base h0)))
  acts (.launch 6 15) (onSlot (fun x => { x with resp := [.done] }) s) (fun t => t.pc == own 4) = true ∧
    trapOf (.launch 6 15) (words 0x1000 [0] s) = (14, 1) := by
  decide +kernel

/-! ### Plots (R232, R233) -/

/-- The shortest plot and one that ends at the system area, an owner's handle and another slot's. -/
theorem witness_Plots : let s := regs [(2, 0x4000000), (3, 0x400EFFC0), (4, 1000 * 64)] (words (plotOff 0) [64 * 2 ^ 20 + 2 ^ 43, 1000] (base h0)); let z := regs [(3, 0x40EFFC0)] s
  let valid := fun (t : State) k => (plotRead t h0 k).1.testBit 43
  let wrap := fun (v : Nat) => v < 2 ^ 40 ∧ v % 2 ^ 20 % 64 = 0 ∧ v / 2 ^ 20 % 2 ^ 20 % 64 = 0 ∧ 64 ≤ v / 2 ^ 20 % 2 ^ 20 ∧ v % 2 ^ 20 + v / 2 ^ 20 % 2 ^ 20 ≤ sysOff 0
  s.here.blk = none ∧ wrap (64 * 2 ^ 20) ∧ wrap (64 * 2 ^ 20 + 0xEFFC0) ∧ (z.opG 3).toNat = 64 * 2 ^ 20 + 0xEFFC0 ∧ valid s 1 = false ∧ (∀ k < 1, valid s k = true) ∧
    (∀ k < 64, valid s k = true → meets ((plotRead s h0 k).1 % 2 ^ 20) ((plotRead s h0 k).1 / 2 ^ 20 % 2 ^ 20) 0xEFFC0 64 = false) ∧ (plotRead s h0 1).2.toNat < s.ts.toNat ∧
    Admitted (.plotAlloc 8 3) z ∧ plotMine s (s.opG 4) = true ∧ storesDone s h0 0 = true ∧ ackedFor s h0 0 = true ∧ Admitted (.plotPass 4 7) s ∧ Admitted (.plotFree 4) s ∧
    plotMine s (s.opG 2) = false ∧ Admitted (.plotFree 2) s := by
  unfold Admitted; decide +kernel

/-- The handle has the entry's number and the timestamp (R407). -/
theorem test_plots : let s := regs [(3, 0x40EFFC0), (4, 1000 * 64)] (words (plotOff 0) [64 * 2 ^ 20 + 2 ^ 43, 1000] (base h0))
  acts (.plotAlloc 8 3) s (fun t => t.opG 8 == BitVec.ofNat 64 (1 + 1000 * 64)) = true ∧ acts (.plotPass 4 7) s (fun t => (plotRead t h0 0).1 / 2 ^ 40 % 8 == 7) = true ∧
    acts (.plotFree 4) s (fun t => (plotRead t h0 0).1.testBit 43 == false) = true ∧ trapOf (.plotFree 3) s = (5, 6) := by
  decide +kernel

/-! ### Explicit packets (R95, R401, R402) -/

/-- A KIND 0x10 head, a KIND 0x11 packet with its first and its sixteenth flit, and no packet open. -/
theorem witness_ExplicitPackets : let h := fun (k : Nat) => words 0x1000 [toCore1, 0, 0, 0, 2 ^ 24 + 0x100, k, 9, 0] (regs [(6, own 0x1000), (7, own 0x1020)] (base h0))
  let ws := fun (s : State) => wordsOf (s.ownBytes h0 0x1000 64); let fa := BitVec.ofNat 64 (0xF * 2 ^ 60 + 2 ^ 24 + 0x100)
  let k : OpenPkt := { (default : OpenPkt) with route := BitVec.ofNat 256 toCore1, kind := 0x11, dest := 2 ^ 24 + 0x100, flits := List.replicate 15 [] }
  let o := onSlot (fun x => { x with pkt := some k }) (h 0x11)
  Quiet (h 0x10) ∧ (h 0x10).here.blk = none ∧ (h 0x10).here.pkt = none ∧ OwnAt h0 ((h 0x10).opG 6) 64 64 0 0x1000 ∧ headRefused (ws (h 0x10)) (fixedRng h0 fa) = none ∧
    headRefused (ws (h 0x11)) (fixedRng h0 fa) = none ∧ (h 0x10).sysMode = true ∧ routeRefused false false (BitVec.ofNat 256 (ofBytes (((h 0x10).ownBytes h0 0x1000 64).take 32))) = none ∧
    OwnAt h0 ((h 0x11).opG 7) 32 32 0 0x1020 ∧ k.flits.length < 16 ∧ o.here.pkt = some k ∧ closeRefused k = false ∧ closeRefused { k with flits := k.flits ++ [[]] } = false ∧
    closeRefused { k with kind := 0x10, flits := [] } = false ∧ closeRefused { k with flits := [] } = true ∧ o.here.redOut = 0 ∧ (o.coreAt h0).mailRoom = 64 ∧
    Admitted (.psendOpen 6) (h 0x10) ∧ Admitted (.psendEOpen 6) (h 0x10) ∧ Admitted (.psendAppend 7) o ∧ Admitted (.psendEAppend 7) o ∧ Admitted .psendEClose o := by
  unfold Quiet OwnAt Admitted Unarmed Performed NoneSent; decide +kernel

/-- A closed packet leaves with its KIND and INFO and reserves a mailbox entry; out of turn is illegal (R95, R402). -/
theorem test_explicit : let s := words 0x1000 [toCore1, 0, 0, 0, 2 ^ 24 + 0x100, 0x10, 9, 0] (regs [(6, own 0x1000)] (base h0))
  acts (.psendOpen 6) s (fun t => t.here.pkt.map (fun k => (k.kind, k.dest, k.info)) == some (0x10, 2 ^ 24 + 0x100, 9)) = true ∧
    acts (.psendEOpen 6) s (fun t => t.pkts.map (fun q => (q.kind, q.info, q.len)) == [(0x10, 9, 0)] && (t.coreAt h0).mbrsv == 1 && t.here.pkt == none) = true ∧
    trapOf .psendEClose s = (1, 4) ∧ trapOf (.psendAppend 6) s = (1, 4) := by
  decide +kernel

/-! ### Timed exchange (R204, R287, R409) -/

/-- A header behind the aligned completion of its barrier, of the shortest and longest blocks; a store at the last doubleword and with no move. -/
theorem witness_TimedExchange : let line := bytesOf 4 0 ++ bytesOf 4 (0xFF * 2 ^ 24 + 5 * 2 ^ 5) ++ bytesOf 4 (3 * 2 ^ 8 + 7) ++ List.replicate 52 0
  let s := coreBar 5 0 1 0 (onSlot (fun x => { x with aligned := some 5 }) (onCore (fun c => { c with icache := [(0, line)], doms := [(0, 0x2003)] }) (base h0)))
  let s := s.setBar 0 0 5 { Bar.empty with kind := 2, count := 1, xalign := true }; let a := lineWord line 4; let b := lineWord line 8
  let t := regs [(2, 0xEFFF8), (3, 77)] (inBlock (route 0x700 toCore1 (route 0x7FF 0o74 (base h0))))
  s.away h0 = false ∧ OwnAt h0 (own 4) 4 4 0 4 ∧ OwnAt h0 (own 8) 4 4 0 8 ∧ Tbl.look (s.coreAt h0).icache (coreKey 0 0 4 / 64) = some line ∧ isMark a = true ∧ a.toNat % 32 = 0 ∧
    b.toNat < 2 ^ 20 ∧ mayOpen s (blockOf (own 0) a b (lateReady s)) = true ∧ (blockOf (own 0) a b []).len = 1 ∧ (blockOf (own 0) (a ||| 0xFFF000) b []).len = 4096 ∧ h0.unit < 12 ∧ Tbl.look (s.coreAt h0).icache (coreKey 0 0 8 / 64) = some line ∧ s.cur.half = .lone ∧ Admitted .xbegin s ∧
    t.here.blk.isSome = true ∧ s.here.blk = none ∧ Admitted .xend t ∧ Admitted .xend s ∧ (t.opG 2).toNat % 8 = 0 ∧ (t.opG 2).toNat < 0xF0000 ∧ 0x700 + 0 + (255 : BitVec 8).toNat ≤ 0x7FF ∧
    (t.routeEntry 0 0 0x700).valid = true ∧ (t.routeEntry 0 0 0x700).ext = false ∧ (exchangeMoves 36 0 (coreXY 0 0).1 (coreXY 0 0).2 (t.routeEntry 0 0 0x700).codes).isSome = true ∧
    exchangeMoves 36 0 (coreXY 0 0).1 (coreXY 0 0).2 (t.routeEntry 0 0 0x7FF).codes = some ([], (coreXY 0 0).1, (coreXY 0 0).2) ∧ t.sysMode = true ∧ t.down = [] ∧ t.xstores = [] ∧
    Admitted (.xput 3 2 0) t := by
  unfold OwnAt Admitted; decide +kernel

/-- The block goes on behind its header (R287); one move, two cycles more (R409). -/
theorem test_exchange : let line := bytesOf 4 0 ++ bytesOf 4 (0xFF * 2 ^ 24 + 5 * 2 ^ 5) ++ bytesOf 4 (3 * 2 ^ 8 + 7) ++ List.replicate 52 0
  let s := (onSlot (fun x => { x with aligned := some 5 }) (onCore (fun c => { c with icache := [(0, line)], doms := [(0, 0x2003)] }) (base h0))).setBar 0 0 5 { Bar.empty with kind := 2, count := 1, xalign := true }
  acts .xbegin s (fun t => t.pc == own 12 && t.here.blk.map (fun b => (b.len, b.bar, b.dom, b.rbase)) == some (1, 5, 3, 7)) = true ∧
    acts (.xput 3 2 0) (regs [(2, 0xEFFF8), (3, 77)] (inBlock (route 0x700 toCore1 (base h0)))) (fun t => t.xstores.map (fun q => (q.core, q.off, q.data, q.due)) == [(1, 0xEFFF8, 77, 25)]) = true ∧
    acts .xend (inBlock (base h0)) (fun t => t.here.blk == none && t.pc == own 4) = true ∧ trapOf .xend (base h0) = (1, 4) := by
  decide +kernel

/-! ### System control and special registers (R251, R254, R410 to R416) -/

/-- A row leader and a slot that may follow, a follower, and a light thread at home. -/
theorem witness_FlowControl : let s := base h0; let f := base ⟨0, 1, 0⟩; let g := onSlot (fun x => { x with folState := 2 }) f
  s.cur.place.core % 8 = 0 ∧ f.cur.place.core % 8 ≠ 0 ∧ f.here.folState = 0 ∧ f.here.blk = none ∧ otherContext (f.slot (leaderOf ⟨0, 1, 0⟩)) f.ctx = false ∧ g.here.folState ≠ 0 ∧ hasFollowers s h0 = false ∧
    h0.heavy = true ∧ l0.heavy = false ∧ (base l0).away l0 = false ∧ Admitted .follow f ∧ Admitted .follow s ∧ Admitted .unfollow g ∧ Admitted .home (base l0) ∧ Admitted (.yield 2047) s := by
  unfold Admitted; decide +kernel

/-- R225, R226, R410, R411. -/
theorem test_flow : acts .follow (base ⟨0, 1, 0⟩) (fun t => t.here.folState == 1) = true ∧ acts .follow (base h0) (fun t => t.here.folState == 0 && t.pc == own 4) = true ∧
  acts .unfollow (onSlot (fun x => { x with folState := 2 }) (base ⟨0, 1, 0⟩)) (fun t => t.here.folState == 0 && t.here.folReason == 2) = true ∧
  acts .home (base l0) (fun t => t.pc == own 4) = true ∧ acts (.yield 9) (base h0) (fun t => t.cur.rest) = true := by
  decide +kernel

/-- A return address, and a thread that may end. -/
theorem witness_SystemWords : let s := onSlot (fun x => { x with th := { x.th with epc := own 0x40 } }) (cached (base h0))
  s.here.blk = none ∧ s.cur.half ≠ .a ∧ Admitted .eret s ∧ s.here.pkt = none ∧ allPerformed s h0 = true ∧ s.here.name = h0.name ∧ h0.ok = true ∧ Admitted .halt s ∧ Admitted (.sys 2047) s ∧
    Admitted (.trap 0) s := by
  unfold Admitted; decide +kernel

theorem witness_TrapReturns : Lands (onSlot (fun x => { x with th := { x.th with epc := own 0x40 } }) (cached (base h0))) (onSlot (fun x => { x with th := { x.th with epc := own 0x40 } }) (cached (base h0))).here.th.epc := lands_of 0x40 0 (by unfold OwnAt; decide +kernel) (by decide +kernel) (by decide) (by decide +kernel)

/-- `eret` takes MODE from PM and clears TD (R254); `halt` frees the slot (R413). -/
theorem test_system : acts .eret (onSlot (fun x => { x with th := { x.th with epc := own 0x40, pm := false, td := true } }) (cached (base h0))) (fun t => t.pc == own 0x40 && !t.here.th.mode && !t.here.th.td) = true ∧
  acts .halt (base h0) (fun t => t.here.st == .free) = true ∧ acts (.sys 5) (base h0) (fun t => t.cur.pend == some (19, 5)) = true ∧ acts (.trap 7) (base h0) (fun t => t.cur.pend == some (18, 7)) = true := by
  decide +kernel

/-- Heavy and light readers, on a bed and on a rim die. -/
theorem witness_SpecialRegisters : Admitted (.mfsr 4 0x11) (base h0) ∧ Admitted (.mfsr 4 0x11) (base l0) ∧ Admitted (.mfsr 4 0x10) (base r0) ∧ Admitted (.mtsr 4 9) (base h0) ∧ Admitted (.mtsr 4 0x30) (base h0) ∧ h0.unit < 12 ∧ ¬ r0.unit < 12 := by
  unfold Admitted; decide +kernel

/-- R415: the timestamp; `ecause` keeps its fields only; `tvec` drops two bits; `tid` ignores a write. -/
theorem test_special : acts (.mfsr 4 0x11) (base h0) (fun t => t.opG 4 == 1000) = true ∧ acts (.mtsr 4 9) (regs [(4, BitVec.allOnes 64)] (base h0)) (fun t => t.here.th.ecause == 0xFFFF07FF) = true ∧
  acts (.mtsr 4 11) (regs [(4, 0x1007)] (base h0)) (fun t => t.here.th.tvec == 0x1004) = true ∧ acts (.mtsr 4 0) (regs [(4, 5)] (base h0)) (fun t => t.here.name == h0.name) = true ∧
  acts (.mfsr 4 0x18) (onSlot (fun x => { x with th := { x.th with xlb := 0x88 } }) (base h0)) (fun t => t.opG 4 == 0x88) = true := by
  decide +kernel

/-! ### The matrix unit (R256, R368 to R387) -/

/-- A ring that nothing claims, a reserve and a publish up to its room, a pop of all its tiles and of none. -/
theorem witness_MatrixRings : let s := regs [(2, 1), (3, 0x8000403000), (4, 2), (5, 3), (6, 7)] fed; let r := s.mx.ring 1
  s.here.blk = none ∧ s.mx.own = some s.ctx ∧ s.mx.freezing = none ∧ (s.opG 2).toNat < 8 ∧ (s.opG 6).toNat < 8 ∧ cfgRefused (s.opG 3) = none ∧ r.claim = r.head ∧ s.mx.ops.any (·.names 1) = false ∧
    countBad (s.opG 4) false = false ∧ countBad (s.opG 4) true = false ∧ countBad 0 true = false ∧ r.en = true ∧ r.nslot = 4 ∧ r.room = 2 ∧ r.unclaimed = 2 ∧ r.chv = false ∧ storesForMx s = true ∧ s.mx.local' = 0 ∧
    Admitted (.mringCfg 2 3) s ∧ Admitted (.ringPutReserve 8 2 4) s ∧ Admitted (.ringPutPublish 8 2 4) s ∧ Admitted (.ringPop 8 2 4) s := by
  unfold Admitted; decide +kernel

/-- R372, R373. -/
theorem test_rings : let s := regs [(2, 1), (3, 0x8000403000), (4, 2)] fed
  acts (.ringPutReserve 8 2 4) s (fun t => t.opG 8 == 2) = true ∧ acts (.ringPutPublish 8 2 4) s (fun t => t.opG 8 == 4 && (t.mx.ring 1).tail == 4) = true ∧
    acts (.ringPop 8 2 4) s (fun t => t.opG 8 == 2 && (t.mx.ring 1).claim == 2) = true ∧ acts (.mringCfg 2 3) s (fun t => (t.mx.ring 1).tail == 0 && (t.mx.ring 1).nslot == 4) = true := by
  decide +kernel

/-- A product of the most chunks its rings hold, and the answer of an accepted one. -/
theorem witness_MatrixProducts : let q : Prod := { form := 0, acc := 1, acz := true, a := 0, b := 1, m := 0, kch := (1 : BitVec 3).toNat + 1 }
  let x : Prod := { form := 1, acc := 1, acz := true, a := 0, b := 1, m := 2, kch := 1 }; let y : Prod := { form := 3, acc := 3, acz := false, a := 0, b := 1, m := 0, kch := 1 }
  let sp := unitOf (fun m => (m.modRing 0 fun r => { r with cfg := 0x9000400000 + 0x1000 }).modRing 2 fun r => { r with cfg := 0x8A00400000 + 0x5000, tail := 1 }) fed
  let mx := unitOf (fun m => (m.modRing 0 fun r => { r with cfg := 0x8800400000 + 0x1000 }).modRing 1 fun r => { r with cfg := 0x8900400000 + 0x3000 }) fed
  unitAnswer (onSlot (fun z => { z with resp := [.matrix fed.aHalf none] }) fed) = some none ∧ unitAnswer fed = none ∧ fetching fed = false ∧ q.refused fed.mx = none ∧ q.ready fed.mx = true ∧
    tablesBusy fed h0 (if q.coded fed.mx then [255] else []) = none ∧ fed.mx.local' < 4 ∧ fed.mx.freezing = none ∧ Admitted (.mma 1 0 1 1 1) fed ∧ Admitted (.mmaSp 1 0 1 0 2 1 0) sp ∧ Admitted (.mmaMx 3 0 1 0 0) mx ∧
    x.refused sp.mx = none ∧ x.ready sp.mx = true ∧ y.refused mx.mx = none ∧ y.ready mx.mx = true := by
  unfold Admitted; decide +kernel

/-- R377: the product claims its tiles and its fetch begins; a ring named twice is refused. -/
theorem test_product : acts (.mma 1 0 1 1 1) fed (fun t => (t.mx.ring 0).claim == 2 && (t.mx.ring 1).claim == 2 && t.mx.fetches.length == 1 && t.here.wait == some .matrix) = true ∧
  acts (.mma 1 0 1 1 1) (onSlot (fun z => { z with resp := [.matrix fed.aHalf none] }) fed) (fun t => t.pc == own 4) = true ∧
  acts (.mma 1 0 1 1 1) (unitOf (fun m => { m with fetches := [{ slot := 0, half := false, job := .rows 1 [] 0, got := [], remote := none, pair := true, act := some (.zero 1) }] }) (onSlot (fun z => { z with resp := [.matrix fed.aHalf none] }) fed))
    (fun t => t.pc == own 4 && t.mx.fetches == [] && t.mx.ops.length == 1) = true ∧ (trapOf (.mma 1 0 0 1 1) fed).2 = 1 := by
  decide +kernel

/-- The unit's own words, an entry with an older timestamp, and words that claim and that revoke. -/
theorem witness_MatrixUnit : let s := regs [(3, BitVec.ofNat 64 (2 ^ 42 + 5)), (4, 7)] fed; let a := onSlot (fun z => { z with resp := [.matrix fed.aHalf none] }) s
  s.here.blk = none ∧ s.mx.freezing = none ∧ s.mx.own = some s.ctx ∧ s.mx.local' < 4 ∧ s.mx.ops = [] ∧ unitAnswer a = some none ∧ Admitted (.maccZero 3) s ∧ Admitted (.maccMv 0 3) s ∧ Admitted (.maccLd 1 2 3) a ∧
    Admitted (.maccSt 1 2 3) a ∧ Admitted (.mstat 8 3 1) s ∧ Admitted (.msave 3) a ∧ (s.opG 3).toNat < 2 ^ 43 ∧ (s.opG 3).toNat.testBit 42 = true ∧ (s.opG 4).toNat < 2 ^ 42 ∧
    (s.peekW (capKey 0 0 15 + 8)).toNat < s.ts.toNat ∧ Admitted (.mcap 8 3 15) s ∧ imaged.mx.own = none ∧ imaged.errs = [] ∧ imaged.here.blk = none ∧ imaged.mx.freezing = none ∧ Admitted (.mload 3) imaged := by
  unfold Admitted; decide +kernel

/-- Thirty-two rows of the core's own memory, a pitch of their own length: a load begins their fetch, a store is accepted (R380, R381), and `msave` freezes the unit (R387). -/
theorem test_matrix_rows : let s := regs [(2, own 0x4000), (3, 128), (5, own 0x10000)] fed; let offs := (List.range 32).map fun k => 0x4000 + 128 * k
  (s.opG 3).toNat < 2 ^ 22 ∧ (s.opG 3).toNat % 2 ^ 20 = 128 ∧ (s.opG 3).toNat / 2 ^ 20 % 4 = 0 ∧ offs.length = 32 ∧ (∀ k < 32, OwnAt h0 (s.opG 2 + BitVec.ofNat 64 (k * 128)) 128 16 0 (offs.getD k 0)) ∧
    s.mx.loading = none ∧ s.mx.freezing = none ∧ s.mx.own = some s.ctx ∧ unitAnswer s = none ∧ fetching s = false ∧ storing s = false ∧ storesForMx s = true ∧ s.mx.local' < 4 ∧ Admitted (.maccLd 1 2 3) s ∧ Admitted (.msave 5) s ∧
    acts (.maccLd 1 2 3) s (fun t => t.mx.fetches.map (·.job) == [.rows 1 offs 0] && t.here.wait == some .matrix) = true ∧
    acts (.maccSt 1 2 3) s (fun t => t.mx.ops.map (·.act) == [.store 1 offs 0] && t.here.wait == some .matrix) = true ∧
    acts (.msave 5) s (fun t => t.mx.freezing == some (0, some (wholeAt 0x10000)) && t.here.wait == some .freeze) = true := by
  unfold OwnAt Admitted; decide +kernel

theorem witness_MatrixCapabilities_place : ∀ f, imageAt imaged (imaged.opG 3) .matrix f = f imaged (wholeAt (coreKey 0 0 0x10000)) := by
  intro f
  have e : imaged.opG 3 = own 0x10000 := by decide +kernel
  have h : addressCheck imaged imaged.cur.place (own 0x10000) 20480 1 .matrix false = .ok imaged (ownAcc h0 (own 0x10000) 0 0x10000) :=
    addressCheck_own (by unfold OwnAt; decide +kernel) (by decide) (by decide)
  have p : imagePlace imaged.cur.place (.core 0 0 0 0x10000) 20480 = true := by decide +kernel
  have k : imaged.keyOf imaged.cur.place.unit (.core 0 0 0 0x10000) = some (coreKey 0 0 0x10000) := by decide +kernel
  have n : (own 0x10000).toNat = 0xF000F00000010000 := by decide +kernel
  rw [e]
  unfold imageAt
  simp only [n]
  rw [if_neg (by decide)]
  simp only [imagePieces, n]
  rw [if_neg (by decide), show min 20480 (65536 - 0xF000F00000010000 % 65536) = 20480 from rfl, h]
  simp only [ownAcc_rng, Nat.sub_self, if_true, Option.all_none, Bool.and_true, p, k, List.nil_append]
  rfl

theorem witness_MatrixCapabilities_image : imageRefused imaged 0 0 (wholeAt (coreKey 0 0 0x10000)) 0 = none := by
  have w0 := imaged_word [] (bytesOf 8 (2 ^ 8) ++ bytesOf 8 0 ++ bytesOf 8 0 ++ bytesOf 8 blankCrc) (1 + 2 ^ 16 + 20480 * 2 ^ 32) (8 * 0) (by simp [header]) rfl rfl
  have w1 := imaged_word (bytesOf 8 (1 + 2 ^ 16 + 20480 * 2 ^ 32)) (bytesOf 8 0 ++ bytesOf 8 0 ++ bytesOf 8 blankCrc) (2 ^ 8) (8 * 1) (by simp [header]) rfl rfl
  have w2 := imaged_word (bytesOf 8 (1 + 2 ^ 16 + 20480 * 2 ^ 32) ++ bytesOf 8 (2 ^ 8)) (bytesOf 8 0 ++ bytesOf 8 blankCrc) 0 (8 * 2) (by simp [header]) rfl rfl
  have w4 := imaged_word (bytesOf 8 (1 + 2 ^ 16 + 20480 * 2 ^ 32) ++ bytesOf 8 (2 ^ 8) ++ bytesOf 8 0 ++ bytesOf 8 0) [] blankCrc (8 * 4) (by simp [header]) rfl
    (by simp [bytesOf])
  have k : coreKey 0 0 0x10000 = 0x10000 := rfl
  have b4 := bits_word blankCrc (blankCrc_eq ▸ crc32c_lt _)
  unfold imageRefused
  have i := fun (n : Nat) (h : n < 5) => imgBytes_whole imaged 0x10000 (8 * n) 8 (by omega) (by decide)
  simp only [k, i 0 (by decide), i 1 (by decide), i 2 (by decide), i 4 (by decide), imgBytes_whole imaged 0x10000 64 20416 (by decide) (by decide), w0, w1, w2, w4, b4, imaged_body,
    imgBad_whole imaged _ imaged_errs]
  rw [if_neg (by decide), if_neg (by decide), if_neg (by decide), if_neg (by decide)]
  refine if_neg ?_
  rintro (h | h)
  · cases h
  · exact h blankCrc_eq

/-- R380, R382, R386. -/
theorem test_matrix_words : let s := regs [(3, BitVec.ofNat 64 (2 ^ 42 + 5)), (4, 7)] fed
  acts (.maccZero 3) s (fun t => t.mx.ops.length == 1) = true ∧ acts (.mcap 8 3 15) s (fun t => t.opG 8 == BitVec.ofNat 64 (15 + 1000 * 16) && t.peekW (capKey 0 0 15) == BitVec.ofNat 64 (2 ^ 12 + 5 * 2 ^ 13)) = true ∧
    acts (.mcap 8 4 15) s (fun t => t.opG 8 == 0) = true ∧ trapOf (.mload 3) (regs [(3, own 0x10000)] (base h0)) = (14, 1) := by
  decide +kernel

/-- Each word a remote command may carry, to the first and last bed, and a quench of the last context. -/
theorem witness_RemoteCommands : let s := route 0x7FF toCore1 (words 0x1000 [5, 0, 2 ^ 24 + 255 * 2 ^ 25, 0] (regs [(6, own 0x1000), (7, 4095)] (base h0)))
  Quiet s ∧ s.here.blk = none ∧ OwnAt h0 (s.opG 6) 32 32 0 0x1000 ∧ (s.routeEntry 0 0 0x7FF).valid = true ∧ routeRefused false false (s.routeString 0 0 0x7FF) = none ∧ allPerformed s h0 = true ∧ routeStored s h0 = false ∧ s.errs = [] ∧
    (s.coreAt h0).mailRoom ≠ 0 ∧ Admitted (.mcmd 6) s ∧ (s.opG 7).toNat < 2 ^ 12 ∧ (s.coreAt h0).qBusy = false ∧ Admitted (.cpyQuench 7) s ∧
    ∀ i ∈ ([.mma 1 0 1 1 1, .mmaSp 1 0 1 0 2 1 0, .mmaMx 3 0 1 0 0, .maccZero 3, .maccMv 0 3] : List Instr), (remoteWord ((encode false i).getD 0)).isSome = true := by
  unfold Quiet OwnAt Admitted Unarmed Performed NoneSent; decide +kernel

/-- R124: the quench shows busy until every party has answered. -/
theorem test_quench : acts (.cpyQuench 7) (regs [(7, 4095)] (base h0)) (fun t => (t.coreAt h0).qBusy && (t.coreAt h0).qCtx == 4095 && t.quenches.length == 1) = true := by
  decide +kernel

/-! ### Start-up and the Lantern port (R464 to R473) -/

/-- Each state that R470 to R473 name; the two signature checks of a good image stand on the part's own keys. -/
theorem steps_startup : let n := State.reset; let g := boot (fun b => { b with started := true, state := 1, image := [0x4A, 0x5A, 0, 0, 0, 0, 0, 0, 1] }) n; let w := boot (fun b => { b with started := true }) n
  let r := boot (fun b => { b with started := true, state := 2 }) n; let br := boot (fun b => { b with broughtUp := true, fwDigest := List.replicate 64 0 }) r
  n.boot.started = false ∧ acts .startUp n (fun t => t.boot.started && t.boot.state == 0) = true ∧ w.boot.state ≠ 1 ∧ w.boot.state ≠ 2 ∧ acts .firmwareImage (given { ev with bytes := [7] } w) (fun t => t.boot.state == 1 && t.boot.image == [7]) = true ∧
    g.boot.started = true ∧ g.boot.state = 1 ∧ ofBytes (g.boot.image.take 2) = 0x5A4A ∧ ofBytes ((g.boot.image.drop 4).take 4) ≤ 2 ^ 26 - 5376 ∧ ofBytes ((g.boot.image.drop 8).take 1) = 1 ∧
    acts .firmwareImage (boot (fun b => { b with image := [0x4B, 0x5A] }) g) (fun t => t.boot.state == 3 && t.boot.cause == 1) = true ∧ r.boot.state = 2 ∧ r.boot.broughtUp = false ∧ ¬ (1 : Word) < r.ts ∧
    acts .firmwareBringup (given { ev with setup := some { (default : Bringup) with ts := 1, moduleNo := 4095 } } r) (fun t => t.ts == 1 && t.moduleNo == 4095 && t.boot.broughtUp) = true ∧
    r.boot.featWritten = false ∧ r.boot.ctxMade = false ∧ acts .feataccWrite (given { ev with wide := 6 } br) (fun t => t.feat == 7) = true ∧
    acts .feataccWrite (given { ev with wide := 6 } r) (fun t => t.feat == 0 && t.boot.refused == 0) = true ∧ acts .firmwareImage (boot (fun b => { b with image := [0x4A, 0x5A, 0, 0, 0, 0, 0, 0, 2] }) g) (fun t => t.boot.cause == 2) = true ∧
    br.boot.fwDigest.length = 64 ∧ br.boot.state = 2 ∧ acts .attestationRequest (given { ev with flag := true } br) (fun t => t.boot.answers.map (·.1) == [5]) = true ∧
    acts .feataccWrite (given { ev with wide := 6 } (boot (fun b => { b with featWritten := true }) br)) (fun t => t.feat == 0) = true ∧
    (List.replicate 32 (9 : Byte)).length = 32 := by
  decide +kernel

/-- R464, R465: the codes of a submission, from room for one more record to none. -/
theorem steps_host : let ws : List Word := [1, 0, 1, 0, 0, 0, 0, 0, 0, 1]; let s := given { ev with v := 11, words := ws } (ctxEntry 11 0 (BitVec.ofNat 64 (2 ^ 63)) (base h0))
  let full := s.modBed 11 fun b => { b with lq := [(0, List.replicate 16 { words := ws, arrts := 0, blk := false, victims := [] })] }
  let code := fun (t : State) => t.boot.answers.map fun a => (a.1, a.2)
  s.arg.v.toNat % 16 < 12 ∧ gangBad ws = false ∧ ¬ (ws.getD 2 0 = 0 ∧ ws.getD 3 0 = 0) ∧ (Tbl.get 0 (s.bed 11).ctxTab (gangCtx ws).toNat).getLsbD 63 = true ∧ (s.bed 11).rst.state = 0 ∧
    acts .launchSubmission s (fun t => code t == [(1, [0])] && (Tbl.get [] (t.bed 11).lq 0).length == 1) = true ∧ acts .launchSubmission (given { s.arg with v := 12 } s) (fun t => code t == [(1, [1])]) = true ∧
    acts .launchSubmission full (fun t => code t == [(1, [2])]) = true ∧ acts .launchSubmission (resetOf 11 (fun r => { r with state := 1 }) s) (fun t => code t == [(1, [3])]) = true := by
  decide +kernel

/-- R263, R467: a ring of the least and the largest size; the event at the front goes to the slot that EVPROD names. -/
theorem steps_events : let v := fun (l : Nat) => BitVec.ofNat 64 (0x8000 + l * 2 ^ 51 + 2 ^ 56); let s := { base h0 with evrb := v 6, evpw := 0x4000, evprod := 64 + 5, evcons := 6, evq := [rec1 1, rec1 2] }
  let e := given { ev with unit := 11 } ((base h0).modBed 11 fun b => { b with stage := { b.stage with recs := [rec1 3] } })
  acts .evrbWrite (given { ev with v := v 20 } (base h0)) (fun t => t.evrb == v 20) = true ∧ acts .evrbWrite (given { ev with v := v 6 } (base h0)) (fun t => t.evrb == v 6) = true ∧
    s.evrb.toNat / 2 ^ 51 % 2 ^ 5 = 6 ∧ s.evrb.getLsbD 56 = true ∧ (s.evprod - s.evcons).toNat ≠ 2 ^ 6 ∧ s.errs = [] ∧ s.evq = [rec1 1, rec1 2] ∧
    acts .eventDelivery s (fun t => t.evprod == 70 && t.evq == [rec1 2] && memGetMany t.mem (hostKey (0x8000 + 32 * 5)) 32 == (rec1 1).bytes && memGetMany t.mem (hostKey 0x4000) 1 == [70]) = true ∧
    (e.bed 11).stage.recs = [rec1 3] ∧ queueRoom e.evq = true ∧ acts .eventDrain e (fun t => t.evq == [rec1 3]) = true := by
  decide +kernel

/-- R466: the first and the last byte of a vault, and an address of none. -/
theorem steps_vaults : let a := fun (n : Nat) => given { ev with index := n, bytes := [5], aux := 1 } (base h0); let last := 11 * 2 ^ 36 + 2 ^ 31 + 15 * 2 ^ 26 + 2 ^ 26 - 1
  let q := pkt 0 0 0 (.load 8 false) (.atLink 0); let h := sole { q with dest := 2 ^ 51 } (base h0)
  decodeLa 31 0 (2 ^ 31) = .vault 0 0 0 ∧ decodeLa 31 0 last = .vault 11 15 (2 ^ 26 - 1) ∧ (a 0).errs = [] ∧ (a 0).hpq = [] ∧ (a 0).arg.flag = false ∧ (a 0).arg.flag2 = false ∧ (base h0).lag = [] ∧ acts .hpWrite (a (2 ^ 31)) (fun t => memGet t.mem (vaultKey 0 0 0) == 5 && t.boot.answers == [(2, [0])]) = true ∧
    acts .hpWrite (a last) (fun t => memGet t.mem (vaultKey 11 15 (2 ^ 26 - 1)) == 5) = true ∧ acts .hpRead (a last) (fun t => t.boot.answers == [(3, [0, 0])]) = true ∧
    decodeLa 31 0 (12 * 2 ^ 36) = .hole ∧ acts .hpWrite (a (12 * 2 ^ 36)) (fun t => t.boot.answers == [(2, [1])] && t.mem == []) = true ∧
    Due h { q with dest := 2 ^ 51 } ∧ ({ q with dest := 2 ^ 51 } : Pkt).rng = .host 0 ∧ acts .hostAccessTimeout h (fun t => t.pkts.map (fun r => (r.kind, r.resp)) == [(0x1A, true)]) = true := by
  unfold Due; decide +kernel

/-! ### Reset, clock and temperature (R474 to R479) -/

/-- A bed of each state, with a byte and a slot of its own and of another. -/
theorem steps_reset : let u := fun (b : Nat) (s : State) => given { ev with unit := b, flag := true } s; let s := poke 0x100 [7] (base h0)
  acts .bedResetRequest (u 0 s) (fun t => (t.bed 0).rst.state == 1 && t.here.st == .free) = true ∧ acts .bedResetRequest (u 11 s) (fun t => (t.bed 11).rst.state == 1 && t.slots.length == 1) = true ∧
    acts .bedResetRequest (u 0 (resetOf 0 (fun r => { r with state := 1 }) s)) (fun t => (t.bed 0).rst.reqc && !(t.bed 0).rst.reqm) = true ∧
    (s.bed 0).stage.recs = [] ∧ (s.bed 0).stage.held = [] ∧ acts .resetClear (u 0 (resetOf 0 (fun r => { r with state := 1 }) s)) (fun t => (t.bed 0).rst.state == 2) = true ∧ s.boot.hot = false ∧
    acts .resetClear (u 0 (resetOf 0 (fun r => { r with state := 2 }) s)) (fun t => (t.bed 0).rst.state == 0 && memGet t.mem 0x100 == 0 && t.slots == []) = true ∧
    acts .resetClear (u 1 (resetOf 1 (fun r => { r with state := 2 }) s)) (fun t => memGet t.mem 0x100 == 7 && (t.bed 1).rst.readyts == 1000) = true ∧
    acts .checkpointRestore (u 1 (resetOf 1 (fun r => { r with owed := true }) s)) (fun t => !(t.bed 1).rst.owed && t.boot.answers == [(4, bytesOf 8 0)]) = true ∧ acts .clockReduction (u 0 (inBlock s)) (fun t => t == u 0 (inBlock s)) = true ∧
    noBlocks s 0 = true ∧ noBlocks (inBlock s) 0 = false ∧ acts .clockReduction (u 0 s) (fun t => (t.bed 0).clock == 1) = true ∧
    acts .overtemperatureReset s (fun t => t.boot.hot && (List.range 12).all fun n => (t.bed n).rst.state != 0) = true ∧ acts .overtemperatureRelease (boot (fun b => { b with hot := true }) s) (fun t => !t.boot.hot) = true := by
  decide +kernel

/-- R478: the one listed checkpoint, of eight bytes, is copied into the bed's vault. -/
theorem steps_checkpoint : let rg : Region := { Region.none with mode := 1 }; let g := (List.range 6).foldl (fun t d => t.modRim d fun r => { r with regions := [(0, rg)] }) (base h0)
  let at' := fun (off : Nat) (bs : List Byte) (s : State) => (List.range bs.length).foldl (fun t i => match t.hbmPlace 16 (off + i) with
    | some (_, st, a) => { t with mem := memSet t.mem (hbmKey st a) (bs.getD i 0) }
    | none => t) s
  let l := bytesOf 8 (2 ^ 36 + 2 ^ 31 + 0x800000) ++ bytesOf 8 128 ++ bytesOf 8 8 ++ bytesOf 8 0; let d := bytesOf 8 0x1122334455667788
  let h := bytesOf 2 0x4B43 ++ bytesOf 6 1 ++ bytesOf 8 900 ++ bytesOf 4 1 ++ bytesOf 4 0 ++ bytesOf 4 (crc32c (l ++ d)) ++ bytesOf 4 0
  let s := given { ev with unit := 1, words := [0] } (resetOf 1 (fun r => { r with owed := true, rstts := 950 }) (at' 128 d (at' 0 (h ++ l) g))); let c := readCkpt s 0
  (s.bed 1).rst.state = 0 ∧ c.magic = 0x4B43 ∧ c.bed = 1 ∧ c.stamp = 900 ∧ c.segs = [(2 ^ 36 + 2 ^ 31 + 0x800000, 128, 8)] ∧ crc32c (c.listBytes ++ hbmPeek s 128 8) = c.check ∧ decodeLa 31 0 (2 ^ 36 + 2 ^ 31 + 0x800000) = .vault 1 0 0x800000 ∧ s.errs = [] ∧
    acts .checkpointRestore s (fun t => !(t.bed 1).rst.owed && t.boot.answers == [(4, bytesOf 8 900)] && memGetMany t.mem (vaultKey 1 0 0x800000) 8 == d) = true := by
  decide +kernel

/-! ### Control registers (R10, R22, R54, R66, R86, R120, R179, R183, R217, R220, R236, R240, R456, R467) -/

/-- The event registers, the counts of a vault, the turn mask and the region table, at the first and last numbers. -/
theorem steps_registers : let s := base h0; let a := fun (e : EvArgs) => given e s; let n := fun (off : Nat) => 11 * 2 ^ 36 + 3 * 2 ^ 30 + 3 * 2 ^ 16 + off
  let rg : Region := { Region.none with mode := 1 }; let rx : Region := { rg with frame := 1 }; let g := (List.range 6).foldl (fun t d => t.modRim d fun r => { r with regions := [(0, rg), (63, rx)] }) s
  let mv : Move := { a := 0, x := 63, ea := rg, ex := rx, step := 1, stamp := some 900, left := [5] }; let m1 := { g with move := some mv }; let m2 := { g with move := some { mv with step := 2, left := [] } }
  let c := s.modBed 11 fun b => { b with vce := [(15, 4)] }
  acts .registerWrite (a { ev with flag2 := true, aux := 2, v := 9 }) (fun t => t.evcons == 9) = true ∧ acts .registerWrite (a { ev with flag2 := true, aux := 1, v := BitVec.allOnes 64 }) (fun t => t.evpw == 0x7FFFFFFFFFFFF) = true ∧
    decodeLa 31 0 (n 0x178 / 8 * 8) = .bedCtl 11 3 0x178 ∧ decodeLa 31 0 (n 0x100 / 8 * 8) = .bedCtl 11 3 0x100 ∧ acts .registerWrite (given { ev with flag := true, index := n 0x178 } c) (fun t => Tbl.get 0 (t.bed 11).vce 15 == 0) = true ∧
    decodeOutside (2 ^ 23 + 0x900) = .page 0 0 0x900 ∧ (Rng.page 0 0 0x900).isCtl = true ∧ tableHeld s (.page 0 0 0x900) 8 = false ∧ readOnlyStore ⟨31, 0, 0⟩ (.page 0 0 0x900) = none ∧
    acts .registerWrite (a { ev with index := 2 ^ 23 + 0x900, v := 3 }) (fun t => (t.core 0 0).txctl == 1) = true ∧ decodeOutside (3 * 2 ^ 30 + 8) = .bedCtl 0 0 8 ∧ regionHalf s 5 63 = false ∧
    s.boot.turnWritten = false ∧ s.boot.ctxMade = false ∧ ((List.range 4).all fun l => laneSafe ((turnFix 0xD673D673D673D673).toNat / 2 ^ (16 * l) % 2 ^ 16)) = true ∧
    acts .turnmaskWrite (a { ev with v := 0xD673D673D673D673 }) (fun t => t.boot.turnWritten && t.turnmask == turnFix 0xD673D673D673D673) = true ∧
    acts .turnmaskWrite (boot (fun b => { b with turnWritten := true }) s) (fun t => t.turnmask == s.turnmask) = true ∧
    acts .regionTableWrite (a { ev with unit := 5, index := 63, v := 3 }) (fun t => Tbl.get 0 (t.rim 5).heldW0 63 == 3) = true ∧
    regionBad (s.rim 5) 63 (regionNext s 5 63 0) = false ∧ acts .regionTableWrite (a { ev with unit := 5, index := 63, flag := true }) (fun t => t.rimRegion 5 63 == regionNext s 5 63 0) = true ∧
    (∀ d < 6, g.rimRegion d 0 = rg ∧ g.rimRegion d 63 = rx) ∧ rg.mode ≠ 3 ∧ rx.mode ≠ 3 ∧ rg.wfz = false ∧ rg.stamp.toNat < g.ts.toNat ∧ g.move = none ∧
    acts .regionMove (given { ev with unit := 5, index := 0, aux := 63 } g) (fun t => (t.rimRegion 5 0).wfz && (t.rimRegion 5 0).stamp == 1000 && !(t.rimRegion 4 0).wfz) = true ∧
    acts .regionMove (given { ev with unit := 5 } m1) (fun t => t.rimRegion 5 (mv.entry 900).1 == (mv.entry 900).2) = true ∧ mv.step ≠ 2 ∧ mv.left.contains 5 = true ∧ g.errs = [] ∧
    acts .regionMove m2 (fun t => t.move == ({ mv with step := 2, left := [] } : Move).next && t.rims == g.rims) = true := by
  decide +kernel

/-- The context, domain and FIFO tables at their last entries, a locked level, and the armed fault. -/
theorem steps_tables : let s := base h0; let a := fun (e : EvArgs) => given e s; let v := BitVec.ofNat 64 (2 ^ 63 + 11 * 2 ^ 36 + 2 ^ 31 + 64)
  let up := boot (fun b => { b with broughtUp := true, featWritten := true }) s
  let en := fun (n : BitVec 32) => ({ w0 := 0x800000003, bcmp := n, reps := [] } : DomE); let tab := fun (l : List (Nat × DomE)) (v : Word) => given { ev with index := 63, v := v } (s.modBed 0 fun b => { b with dtab := l })
  let k := s.modCore 11 127 fun c => { c with bars := [(31, { Bar.empty with kind := 2, level := 3 })] }
  ctxBad 11 v = false ∧ ctxBad 0 v = true ∧ acts .contextTableWrite (given { ev with unit := 11, index := 4095, v := v } up) (fun t => Tbl.get 0 (t.bed 11).ctxTab 4095 == v) = true ∧
    acts .contextTableWrite (given { ev with v := v } up) (fun t => t.boot.refused == 1 && t.beds == s.beds) = true ∧ up.boot.broughtUp = true ∧ up.boot.featWritten = true ∧ acts .lqctlWrite (a { ev with unit := 11, v := BitVec.allOnes 64 }) (fun t => (t.bed 11).lqctl == 0x1FFFF) = true ∧
    isUnit 21 = true ∧ (s.fifo 21 15).prod = [] ∧ (s.fifo 21 15).cons = [] ∧ acts .fifoctlWrite (a { ev with unit := 21, index := 15, v := 0x1FFF }) (fun t => (t.fifo 21 15).en && (t.fifo 21 15).ctx == 4095) = true ∧
    domLocked (s.core 11 127) 3 = false ∧ acts .domWrite (a { ev with unit := 11, core := 127, index := 3, v := BitVec.allOnes 64 }) (fun t => Tbl.get 0 (t.core 11 127).doms 3 == 0x3FFF) = true ∧
    domLocked (k.core 11 127) 3 = true ∧ acts .domWrite (given { ev with unit := 11, core := 127, index := 3, v := 5 } k) (fun t => Tbl.get 0 (t.core 11 127).doms 3 == 0) = true ∧
    (Tbl.get default (s.bed 11).dtab 63).v = false ∧ acts .dtabWrite (a { ev with unit := 11, index := 63, v := 0x7FFFFFFFF }) (fun t => (Tbl.get default (t.bed 11).dtab 63).w0 == 0x7FFFFFFFF) = true ∧
    acts .dtabWrite (a { ev with unit := 11, flag := true, v := 0x7FFFFFFFF }) (fun t => t.beds == s.beds) = true ∧ acts .dtabWrite (tab [] 0x800000003) (fun t => (Tbl.get default (t.bed 0).dtab 63).w0 == 0x800000003) = true ∧
    acts .dtabWrite (tab [(0, en 0)] 0x800000003) (fun t => (t.bed 0).dtab.length == 1) = true ∧ acts .dtabWrite (tab [(63, en 0)] 3) (fun t => (Tbl.get default (t.bed 0).dtab 63).w0 == 3) = true ∧
    acts .dtabWrite (tab [(63, en 1)] 3) (fun t => (Tbl.get default (t.bed 0).dtab 63).w0 == 0x800000003) = true ∧ (en 0).v = true ∧
    ctxEarly s 0 v = true ∧ acts .contextTableWrite (a { ev with v := v }) (fun t => t.beds == s.beds && t.boot.refused == 0) = true ∧ ctxEarly up 0 v = false ∧ (up.bed 11).rst.owed = false ∧
    s.feat.getLsbD 8 = true ∧ (⟨11, 0, 3⟩ : Eng).ok = true ∧ acts .streamFaultArm (given { ev with unit := 11, index := 3, v := 4, aux := 1 } { s with feat := 0xFF }) (fun t => t.boot.refused == 1 && t.beds == s.beds) = true ∧
    acts .streamFaultArm (a { ev with unit := 11, index := 3, v := 4, aux := 0xFFFFFFFF }) (fun t => (t.eng ⟨11, 0, 3⟩).armed == some (4, 0xFFFFFFFF)) = true ∧
    acts .ctloadRefill (a { ev with unit := 11, core := 127, aux := 1 }) (fun t => (t.core 11 127).ctBusy == some (1, 0)) = true := by
  decide +kernel

/-! ### The fabric and the Spire links (R70 to R81, R101) -/

/-- A move, a turn that is not permitted, a link that is down, a lane change, a delivery and a way back. -/
theorem steps_router : let q := { pkt 0 0 (2 ^ 24) (.load 8 false) (.router 1 0) with route := 1 }; let r := { q with last := 0, lastv := true, route := 0 }; let l := { q with route := 6, lane := 2 }
  let d := { q with route := BitVec.ofNat 256 0o74, loc := .router 1 0 }; let b := { q with resp := true, kind := 0x19, hop := 1, route := BitVec.ofNat 256 (3 * 2 ^ 253) }
  let s := fun (p : Pkt) => sole p (base h0); let down := { s q with down := [(1, 0, 1)] }
  (s q).pkts[0]? = some q ∧ q.resp = false ∧ inOrder (s q) 0 q = true ∧ neighbour 1 0 1 = some (2, 0) ∧ (s q).isDown 1 0 1 = false ∧ q.lastv = false ∧
    acts .routerStep (s q) (fun t => t.pkts.map (fun p => (p.loc, p.hop, p.last, p.route.toNat)) == [(.router 2 0, 1, 1, 3 * 2 ^ 253)]) = true ∧
    turnOk (s r).turnmask 0 0 0 = true ∧ turnOk (s r).turnmask 0 2 0 = false ∧ acts .routerStep (s { r with last := 2 }) (fun t => t.pkts.map (·.body) == [.nack 0 0 0 0]) = true ∧
    down.isDown 1 0 1 = true ∧ acts .routerStep down (fun t => t.pkts.map (·.body) == [.nack 2 0 0 0]) = true ∧ acts .routerStep (s l) (fun t => t.pkts.map (fun p => (p.lane, p.lastv)) == [(3, false)]) = true ∧
    kindKnown d.kind = true ∧ holdsDest (s d) { d with hop := 1, loc := .atCore 1 0 } = true ∧ acts .routerStep (s d) (fun t => t.pkts.map (·.loc) == [.atCore 1 0]) = true ∧
    neighbour 1 0 3 = some (0, 0) ∧ acts .responseStep (s b) (fun t => t.pkts.map (fun p => (p.loc, p.hop, p.route.toNat)) == [(.router 0 0, 0, 0)]) = true ∧
    acts .responseStep (s { b with hop := 0, loc := .router 0 0 }) (fun t => t.pkts.map (·.loc) == [.atCore 0 0]) = true := by
  decide +kernel

/-- R76: the first and the last link of a die, one that is active and one that is down; R70: a second failure marks the link down. -/
theorem steps_gateway : let q := { pkt 0 0 (2 ^ 24) (.load 8 false) (.gateway 1 false false) with route := BitVec.ofNat 256 (5 + 11 * 8) }; let s := sole q (base h0)
  let up := s.setSpire 1 11 { s.spire 1 11 with state := 2 }; let f := given { ev with unit := 47, core := 31, slot := 3 } s
  (up.spire 1 11).state = 2 ∧ (up.spire 1 11).canSend q = true ∧ inOrder up 0 q = true ∧ (s.spire 1 11).state ≠ 2 ∧ acts .gatewayStep up (fun t => t.pkts == [] && t.outbox.map (·.loc) == [.left 1 11]) = true ∧
    acts .gatewayStep s (fun t => t.pkts.map (·.body) == [.nack 2 0 0 25]) = true ∧ (farEnd 47 31 3).isSome = true ∧ acts .linkFlitError f (fun t => t.flitErr == [(47, 31, 3)]) = true ∧
    acts .linkFlitError { f with flitErr := [(47, 31, 3)] } (fun t => t.isDown 47 31 3 && t.flitErr == []) = true := by
  decide +kernel

/-- R71, R101: each state of a link, and the last link of the second die. -/
theorem steps_spire : let a := { ev with unit := 1, index := 11, setup := some { (default : Bringup) with links := [{ (default : LinkSetup) with farmod := 4095 }] } }
  let x := fun (st : Nat) (f : Spire → Spire) => given a ((base h0).setSpire 1 11 (f { (base h0).spire 1 11 with state := st }))
  acts .spireTrain (x 0 id) (fun t => (t.spire 1 11).state == 1) = true ∧ acts .spireTrain (x 3 id) (fun t => (t.spire 1 11).state == 3) = true ∧ acts .spireDisable (x 2 id) (fun t => (t.spire 1 11).state == 3) = true ∧
    acts .spireMarkDown (x 2 id) (fun t => (t.spire 1 11).state == 0) = true ∧ acts .spireTrainingComplete (x 1 id) (fun t => (t.spire 1 11).state == 2 && (t.spire 1 11).farmod == 4095) = true ∧
    acts .spireTrainingTimeout (x 1 id) (fun t => (t.spire 1 11).state == 0) = true ∧ acts .spireSignalLoss (x 2 id) (fun t => (t.spire 1 11).state == 0) = true ∧
    acts .spireReplayTimeout (x 2 fun l => { l with txBuf := [(1, 6), (2, 0)] }) (fun t => (t.spire 1 11).txBuf == [(1, 7), (2, 1)] && (t.spire 1 11).state == 2) = true ∧
    acts .spireReplayTimeout (x 2 fun l => { l with txBuf := [(2, 1), (1, 7)] }) (fun t => (t.spire 1 11).state == 0) = true := by
  decide +kernel

/-- R71 to R73: a frame in order, with slot 0 after slot 255, and one whose CRC fails. -/
theorem steps_frames : let s := fun (f : BitVec 320) => given { ev with unit := 1, index := 11, wide := f } ((base h0).setSpire 1 11 { (base h0).spire 1 11 with state := 2, rxSlot := 255 }); let f := frame (2 ^ 259 + 3 * 2 ^ 256 + 77)
  frameGood f = true ∧ f.getLsbD 261 = false ∧ f.getLsbD 260 = false ∧ f.toNat / 2 ^ 262 % 2 ^ 8 = 0 ∧ frameGood (f ^^^ 1) = false ∧
    acts .spireFrameReceive (s f) (fun t => (t.spire 1 11).rxSlot == 0 && Tbl.get [] (t.spire 1 11).rx 3 == [f.truncate 256]) = true ∧
    acts .spireFrameReceive (s (f ^^^ 1)) (fun t => (t.spire 1 11).rxDiscard && (t.spire 1 11).rxSlot == 255) = true := by
  decide +kernel

/-! ### Requests at their home (R79, R90, R116, R123, R135, R158, R192, R240) -/

/-- A load of the last bytes below the system area, a store there and to the host window, an atomic, a `ftake` of an empty word, and a reduction. -/
theorem steps_home_access : let l := Loc.atCore 1 0; let d := 2 ^ 24 + 0xEFFF8; let k := coreKey 0 1 0xEFFF8; let g := fun (kind : Nat) (b : Body) => pkt kind 0 d b l; let s := fun (q : Pkt) => sole q (base h0)
  let ld := g 0 (.load 8 false); let st := g 1 (.store [1, 2, 3, 4, 5, 6, 7, 8] false); let am := g 2 (.rmw (.amo 0 4 (BitVec.allOnes 64) 0)); let ft := g 2 (.rmw .ftake); let rd := g 4 (.red 0 true false 0 5)
  let hs := { pkt 1 0 (2 ^ 51) (.store [1] false) (.atLink 0) with slot := 0 }; let w := onSlot (fun x => { x with wait := some (.answer 7 true) }) (s ft)
  ld.rng = .core 0 1 0 0xEFFF8 ∧ Due (s ld) ld ∧ Due (s st) st ∧ Due (s am) am ∧ Due w ft ∧ Due (s rd) rd ∧ Due (s hs) hs ∧ hs.rng = .host 0 ∧ (s ld).errs = [] ∧ (s ld).lag = [] ∧ (s st).arg.flag = false ∧ (s st).arg.flag2 = false ∧ st.gone = 0 ∧ 0xEFFF8 + 8 ≤ sysOff 0 ∧
    acts .loadRequest (s ld) (fun t => t.pkts.map (fun r => (r.kind, r.body)) == [(0x19, .data [0, 0, 0, 0, 0, 0, 0, 0])]) = true ∧ acts .storeRequest (s st) (fun t => t.pkts.map (·.kind) == [0x18] && memGetMany t.mem k 8 == [1, 2, 3, 4, 5, 6, 7, 8]) = true ∧
    acts .storeRequest (s hs) (fun t => t.pkts.map (·.kind) == [0x18] && t.hostOut == [(hs, h0.name)] && memGet t.mem (hostKey 0) == 1 && hs.src / 4096 == (base h0).moduleNo.toNat && hs.got == [] && ld.got == []) = true ∧ acts .atomicRequest (s am) (fun t => t.pkts.map (·.body) == [.value 0] && memGetMany t.mem k 5 == [255, 255, 255, 255, 0]) = true ∧
    k / 8 ∉ w.tags ∧ (w.slot ft.place).wait = some (.answer ft.id true) ∧ acts .atomicRequest w (fun t => t.pkts == [] && (t.slot h0).wait == some (.future k)) = true ∧
    acts .reductionUpdate (s rd) (fun t => t.pkts.map (·.kind) == [0x18] && memGet t.mem k == 5) = true := by
  unfold Due; decide +kernel

/-- A mailbox and a miss queue with room for one more and with none, and a bulk store. -/
theorem steps_home_messages : let l := Loc.atCore 1 0; let s := fun (q : Pkt) => sole q (base h0); let me := pkt 0x10 1 (2 ^ 24) (.message []) l; let bk := pkt 0x11 1 (2 ^ 24 + 0x100) (.bulk (List.replicate 32 6)) l
  let mi := { pkt 7 1 0 (.miss [8, 9]) l with dest := 2 ^ 24 + 15 * 2 ^ 20 }; let c := fun (f : Core → Core) (s : State) => s.modCore 0 1 f; let kinds := fun (t : State) => t.pkts.map fun r => (r.kind, r.body)
  Due (s me) me ∧ me.rng = .core 0 1 0 0 ∧ ((c (fun x => { x with mbhead := 63 }) (s me)).core 0 1).mailRoom = 1 ∧ ((c (fun x => { x with mbhead := 64 }) (s me)).core 0 1).mailRoom = 0 ∧
    acts .explicitMessage (c (fun x => { x with mbhead := 63 }) (s me)) (fun t => (t.core 0 1).mbhead == 64 && t.pkts.map (·.kind) == [0x18]) = true ∧
    acts .explicitMessage (c (fun x => { x with mbhead := 64 }) (s me)) (fun t => kinds t == [(0x1A, .nack 4 0 0x10 0)]) = true ∧ Due (s bk) bk ∧ 0x100 + 32 ≤ sysOff 0 ∧ acts .explicitStore (s bk) (fun t => memGet t.mem (coreKey 0 1 0x11F) == 6) = true := by
  unfold Due; decide +kernel

/-- R158, R240: a queue with one entry free and with none. -/
theorem steps_home_misses : let mi := pkt 7 1 (2 ^ 24 + 2 ^ 23) (.miss [8, 9]) (.atCore 1 0); let s := fun (h : BitVec 32) => (sole mi (base h0)).modCore 0 1 fun x => { x with mqhead := h }
  let ws : List Word := [1, 0, 1, 0, 0, 0, 0, 0, 0, 1]; let la := pkt 6 6 (11 * 2 ^ 36 + 3 * 2 ^ 30) (.record ws) (.atVault (coreXY 11 0).1 (coreXY 11 0).2)
  let q := fun (n : Nat) => (sole la (base h0)).modBed 11 fun b => { b with lq := [(0, List.replicate n { words := ws, arrts := 0, blk := false, victims := [] })] }
  (match mi.rng with | .page u c _ => u == 0 && c == 1 | _ => false) = true ∧ Due (s 63) mi ∧ acts .missMessage (s 63) (fun t => (t.core 0 1).mqhead == 64 && Tbl.get [] (t.core 0 1).missq 63 == [8, 9] && t.pkts.map (·.kind) == [0x18]) = true ∧
    acts .missMessage (s 64) (fun t => t.pkts.map (·.kind) == [0x1A] && (t.core 0 1).mqhead == 64) = true ∧ la.rng = .bedCtl 11 0 0 ∧ Due (q 15) la ∧ killing (q 15) 11 0 = false ∧
    acts .launchRecordArrival (q 15) (fun t => (Tbl.get [] (t.bed 11).lq 0).length == 16 && t.pkts.map (·.kind) == [0x18]) = true ∧ acts .launchRecordArrival (q 16) (fun t => t.pkts.map (·.kind) == [0x1A]) = true := by
  unfold Due; decide +kernel

/-- A write of one byte of a block, a read, a command taken, refused and turned away, and a probe. -/
theorem steps_home_engines : let l := Loc.atCore 1 0; let s := fun (q : Pkt) => sole q (base h0); let wr := pkt 1 1 (2 ^ 24 + 0x100) (.engWrite [(63, 255, 9)] 0 0 .ce) l; let rd := pkt 0 1 (2 ^ 24 + 0x100) (.engRead 4 0 0 .ce) l
  let e : Eng := ⟨11, 0, 3⟩; let cm := pkt 5 2 (11 * 2 ^ 36 + 3 * 2 ^ 30 + 5 * 2 ^ 16 + 0x30) (.cmd default) (.atVault (coreXY 11 0).1 (coreXY 11 0).2); let c := fun (f : Engine → Engine) => (s cm).setEng e (f ((s cm).eng e))
  Due (s wr) wr ∧ 0x100 + 64 ≤ sysOff 0 ∧ acts .engineDataWrite (s wr) (fun t => memGet t.mem (coreKey 0 1 0x13F) == 9 && t.pkts.map (·.kind) == [0x18]) = true ∧ Due (s rd) rd ∧
    acts .engineRead (s rd) (fun t => t.pkts.map (·.body) == [.data [0, 0, 0, 0]]) = true ∧ engOfDest cm.dest = some e ∧ Due (s cm) cm ∧ ((s cm).eng e).refuse = [] ∧
    acts .engineCommand (c fun x => { x with queue := List.replicate 15 cm }) (fun t => t.pkts == [] && (t.eng e).queue.length == 16) = true ∧
    acts .engineCommand (c fun x => { x with refuse := [(0, 0)] }) (fun t => t.pkts.map (·.body) == [.nack 5 0 5 11]) = true ∧
    acts .engineCommand (c fun x => { x with queue := List.replicate 16 cm }) (fun t => t.pkts.map (·.body) == [.nack 4 0 5 11]) = true := by
  unfold Due; decide +kernel

theorem steps_home_probe : let pr := pkt 5 1 (16 * 2 ^ 44) (.probe (BitVec.ofNat 64 (hbmPa 0)) 0 0 []) (.atRim 0 none); let e : Eng := ⟨16, 1, 0⟩; let pr := { pr with dest := 0x1F * 2 ^ 44 + 2 ^ 27 + 2 * 2 ^ 24 }
  let s := (sole pr (base h0)).modRim 0 fun r => { r with regions := [(0, { Region.none with mode := 1, die := 0, frame := 0 })] }
  Due s pr ∧ engOfDest pr.dest = some e ∧ probeAt (s.eng e) 0 0 (BitVec.ofNat 64 (hbmPa 0)) = some (some (s.moduleNo.toNat, .hbm 0)) ∧ (s.keyOf e.unit (.hbm 0)).isSome = true ∧ s.lag = [] ∧ s.errs = [] ∧
    acts .probe s (fun t => t.pkts.map (·.body) == [.data (List.replicate 32 0)]) = true := by
  unfold Due; decide +kernel

/-! ### Memory, timers and the timestamp (R6, R54, R58, R61 to R64, R192, R200, R204, R207, R225) -/

/-- A buffered store, a refill from its start and from its end, a line, a scrubbed word, the paths, and an exchange store. -/
theorem steps_memory : let s := base h0; let b := onCore (fun c => { c with sbuf := [stored 0 0xEFFF8 5] }) s; let r := fun (k pos : Nat) => onCore (fun c => { c with ctBusy := some (k, pos) }) s
  let ic := { pkt 0x19 2 0x40 (.data (List.replicate 64 3)) (.atCore 0 0) with resp := true, req := (0, 0, .load 64 true), hop := 0, iport := 0 }; let x : XStore := { (default : XStore) with place := h0, off := 0xEFFF8, data := 9, due := 20 }
  (b.core 0 0).sbuf = [stored 0 0xEFFF8 5] ∧ (b.core 0 0).ctBusy = none ∧ b.errs = [] ∧ b.arg.flag = false ∧ (stored 0 0xEFFF8 5).gone = 0 ∧ acts .storeBufferDrain b (fun t => memGet t.mem 0xEFFF8 == 5 && (t.core 0 0).sbuf == []) = true ∧ Memory.wf s.mem = true ∧ (s.core 0 0).mx.fetches = [] ∧ s.arg.aux = 0 ∧
    acts .ctloadRefillComplete (r 1 256) (fun t => (t.core 0 0).ctBusy == none && t.mem == []) = true ∧ Back (sole ic s) ic ∧
    acts .icacheRefill (sole ic s) (fun t => Tbl.look (t.core 0 0).icache (locKey ic.rng / 64) == some (List.replicate 64 3) && t.pkts == []) = true ∧ errOf { s with errs := [(16, some 3)] } 16 = some (some 3) ∧ errOf { s with errs := [(16, none)] } 16 = some none ∧
    acts .scrubRead (given { ev with index := 16 } { s with errs := [(16, some 3)] }) (fun t => t.errs == []) = true ∧
    acts .scrubRead (given { ev with index := 23 } { s with errs := [(16, none)] }) (fun t => t.errs == [(16, none)]) = true ∧ isBedCore 0xFFFF8 = true ∧ isHbm 0xFFFF8 = false ∧ 0xFFFF8 % 2 ^ 24 < 2 ^ 20 ∧
    acts .softError (given { ev with index := 0xFFFF8, flag := true } s) (fun t => t.errs == [(0xFFFF8, some 64)]) = true ∧
    acts .performedForPath (given { ev with unit := 0, core := 1 } { s with lag := [{ (default : Lag) with reader := pathOf 1, writer := pathOf 0 }, { (default : Lag) with reader := pathOf 6, writer := pathOf 0 }] }) (fun t => t.lag.length == 1) = true ∧
    downLink { s with xstores := [x] } x = none ∧ storeDue { s with xstores := [x] } x = true ∧ localMeets { s with xstores := [x] } x = [] ∧ acts .exchangeStoreArrival { s with xstores := [x] } (fun t => t.xstores == [] && memGet t.mem 0xEFFF8 == 9) = true := by
  unfold Back; decide +kernel

/-- R6, R207, R225, R328, R411: each timer with its slot. -/
theorem steps_timers : let s := base h0; let w := fun (k : Wait) (n : Nat) => onSlot (fun x => { x with wait := some k, st := .wait, backoff := n }) s
  acts .globalTimestampAdvance (given { ev with index := 5 } s) (fun t => t.ts == 1005) = true ∧ acts .followJoinTimeout (onSlot (fun x => { x with folState := 1 }) s) (fun t => t.here.folState == 0 && t.here.folReason == 6) = true ∧
    acts .yieldExpiry (w .yield 0) (fun t => t.here.wait == none) = true ∧ registered s (slotKey h0) 8 = false ∧ acts .waiterPollTimer (w (.future 8) 0) (fun t => t.here.wait == none && t.here.backoff == 16) = true ∧
    acts .waiterPollTimer (w (.future 8) 4096) (fun t => t.here.backoff == 4096) = true ∧ acts .waiterPollTimer (w (.reserve 8) 0) (fun t => t.here.wait == none && t.here.resp == [.done]) = true ∧ s.here.resTurn = none ∧
    s.ts.toNat + 5 < 2 ^ 64 ∧
    acts .reservationProtectExpiry (onSlot (fun x => { x with resv := some 8 }) { s with resvs := [(resBank 8, [(slotKey h0, 9)])] }) (fun t => !((Tbl.get [] t.resvs (resBank 8)).contains (slotKey h0, 9))) = true := by
  decide +kernel

/-! ### Answers at their issuer (R80, R91, R92) -/

/-- An answer that a slot waits for, that of a store, a reduction and a packet, and their refusals. -/
theorem steps_answers : let b := fun (kind : Nat) (body req : Body) => { pkt kind 0 (2 ^ 24 + 8) body (.atCore 0 0) with resp := true, req := (0, 0, req) }; let w := onSlot (fun x => { x with wait := some (.answer 7 false), st := .wait, redOut := 1, expOut := 1 }) (base h0)
  let w := onCore (fun c => { c with mbrsv := 1, sbuf := [{ stored 0 8 5 with sent := some 7 }] }) w; let s := fun (q : Pkt) => sole q w
  let ld := b 0x19 (.data [4]) (.load 1 false); let st := b 0x18 .ack (.store [4] false); let rd := b 0x18 .ack (.red 0 true false 0 5); let me := b 0x18 .ack (.message []); let nr := b 0x1A (.nack 4 0 4 0) (.red 0 true false 0 5)
  let nm := b 0x1A (.nack 0 0 4 0) (.message []); let nl := { b 0x1A (.nack 2 0 0 0) (.load 1 false) with entry := some (1, 0) }
  let z := fun (q : Pkt) => sole q (onSlot (fun x => { x with wait := some (.answer 7 false), st := .wait, expOut := 1 }) (base h0)); let pr := b 0x19 (.data (List.replicate 32 0)) (.probe 0 0 0 []); let sp := b 0x18 .ack (.spawn { pc := 0, args := [], ctx := 0, mode := true, tvec := 0, reach := Vector.replicate 4 0, prio := 0, heavy := false })
  Back (s ld) ld ∧ Back (s nr) nr ∧ engineOf (s ld) 7 = none ∧ ld.place = h0 ∧ (w.slot ld.place).wait = some (.answer ld.id false) ∧ (w.routeEntry 0 0 1).raw = 0 ∧ saveHeld (z nl) h0 = false ∧ ((z nl).slot h0).ahead = [] ∧ nackHeld (z nm) nm 0 = false ∧ w.errs = [] ∧ Back (z nl) nl ∧ Back (z nm) nm ∧
    acts .acknowledgement (s ld) (fun t => t.here.resp == [.data (2 ^ 24 + 8) [4]] && t.here.wait == none && t.pkts == []) = true ∧ acts .acknowledgement (s st) (fun t => (t.coreAt h0).sbuf == []) = true ∧
    acts .acknowledgement (s rd) (fun t => t.here.redOut == 0) = true ∧ acts .acknowledgement (s me) (fun t => t.here.expOut == 0 && (t.coreAt h0).mbrsv == 0) = true ∧
    acts .nackReceived (s nr) (fun t => t.retries.map (·.why) == [0] && t.pkts == []) = true ∧ acts .nackReceived (z nm) (fun t => (t.coreAt h0).mbhead == 1 && t.here.expOut == 0) = true ∧
    acts .nackReceived (z nl) (fun t => t.here.st == .park && t.here.wait == some (.route 1)) = true ∧ acts .probeAnswer (s pr) (fun t => t.here.resp == [.probe 0 0 0 0]) = true ∧ acts .spawnAnswer (s sp) (fun t => t.here.resp == [.done]) = true := by
  unfold Back; decide +kernel

/-- R91, R182, R400, R122: a packet that goes out again, a read of a population slot, and an engine whose answer is lost. -/
theorem steps_retries : let w := onSlot (fun x => { x with wait := some (.answer 7 false), st := .wait }) (base h0); let ld := pkt 0 0 (2 ^ 24) (.load 8 false) (.router 0 0); let st := pkt 1 0 (2 ^ 24) (.store [1] false) (.router 0 0)
  let r := { w with retries := [{ pkt := ld, why := 0 }] }; let f := onCore (fun c => { c with sbuf := [{ stored 0 8 5 with sent := some 7 }] }) { w with retries := [{ pkt := st, why := 1 }] }
  let g := { w with ranker := { w.ranker with stats := [(7, h0, 15, 2)] } }; let e : Eng := ⟨21, 1, 7⟩; let l := given { ev with unit := 21, aux := 1, index := 7 } (w.setEng e { w.eng e with rd := some (7, 64) })
  engineOf r 7 = none ∧ ld.entry = none ∧ acts .busyRetryTimer r (fun t => t.retries == [] && t.here.wait == none) = true ∧ acts .wfzRetryTimer f (fun t => t.retries == [] && (t.coreAt h0).sbuf.map (·.sent) == [none]) = true ∧
    acts .graftStatAnswer g (fun t => t.here.wait == none && t.ranker.stats == []) = true ∧ e.ok = true ∧ (l.eng e).rd = some (7, 64) ∧ inFlight l 7 = false ∧ (l.eng e).err = none ∧
    acts .engineResponseTimeout l (fun t => (t.eng e).err == some (2, 64, 0)) = true := by
  decide +kernel

/-! ### Translation (R158 to R167) -/

/-- A fill of each form of TXFILL, each scope, and a miss on a rim die without service cores. -/
theorem steps_translation : let s := onSlot (fun x => { x with wait := some (.fill 0x10000 .load), st := .wait }) (onCore (fun c => { c with fw0 := 1, fw1 := 2 + 2 ^ 48 }) (base h0)); let v := fun (n : Nat) => given { ev with v := BitVec.ofNat 64 n } s
  let y : TlbE := { (default : TlbE) with valid := true }; let t2 := onCore (fun c => { c with tlb := [(3, y), (4, { y with own := 9 })] }) s; let e : Eng := ⟨11, 0, 3⟩; let f : Eng := ⟨21, 0, 15⟩
  let q := pkt 5 1 0 (.cmd { (default : Cmd) with place := ⟨21, 0, 0⟩, ownMod := 0 }) (.atRim 5 none); let m := given { ev with unit := 21, index := 15 } ((base h0).setEng f { (base h0).eng f with miss := some (64, false, none), active := some q })
  let mq := pkt 5 1 0 (.cmd { (default : Cmd) with place := h0, ownMod := 0, ctx := 9 }) (.atRim 5 none)
  let ms := given { ev with unit := 21, index := 15 } ((route 127 toCore1 (base h0)).setEng f { (base h0).eng f with miss := some (0x10000, true, none), active := some mq })
  fillBad 1 (2 + 2 ^ 48) = false ∧ (s.slot h0).wait = some (.fill 0x10000 .load) ∧ acts .tlbFill (v 63) (fun t => t.here.wait == none && (Tbl.look (t.coreAt h0).tlb 63).map (fun y => (y.spn, y.rd, y.wr)) == some (2, true, false)) = true ∧
    acts .tlbFillNp (v (2 ^ 9 + 2 ^ 14 + 5 * 2 ^ 10)) (fun t => t.here.wait == none && t.here.resp == [.notPresent 5 0x10000]) = true ∧ e.ok = true ∧ f.ok = true ∧ (m.eng f).err = none ∧ (s.coreAt h0).farMiss = [] ∧ ms.serviceBed h0 = 0 ∧ serviceCore 0x10000 = 127 ∧ ms.errs = [] ∧ (ms.routeEntry 0 0 (ms.routeIx 0 (.page 0 127 0x960))).valid = true ∧
    routeRefused false false (ms.routeString 0 0 (ms.routeIx 0 (.page 0 127 0x960))) = none ∧ (ms.eng f).cmd.map (·.place) = some h0 ∧
    acts .engineTlbMiss ms (fun t => t.pkts.map (fun p => (p.kind, match p.body with | .miss ws => (ws.getD 0 0, ws.length) | _ => (0, 0))) == [(1, 0x10000, 4)] &&
      (t.coreAt h0).txMiss == 1 && (t.eng f).miss.map (fun m => (m.1, m.2.2.isSome)) == some (0x10000, true)) = true ∧
    acts .tlbFillEngine (v (31 + 2 ^ 15 + 11 * 2 ^ 16 + 3 * 2 ^ 21)) (fun t => (Tbl.look (t.eng e).tlb 31).map (·.spn) == some 2) = true ∧
    acts .tlbinvAll (given { ev with v := 0x2000 } t2) (fun t => (t.coreAt h0).tlb.map (·.2.own) == [9]) = true ∧ acts .tlbinvContext (given { ev with v := 0x1000 } t2) (fun t => (t.coreAt h0).tlb.map (·.1) == [4]) = true ∧
    acts .tlbinvPage t2 (fun t => (t.coreAt h0).tlb.map (·.1) == [4]) = true ∧ m.serviceBed ⟨21, 0, 0⟩ = 0 ∧ (m.eng f).cmd.isSome = true := by
  decide +kernel

/-! ### Engines and quenches (R111 to R126) -/

/-- A command taken and one that ends, at a bed's and a rim die's last engines. -/
theorem steps_engines : let c : Cmd := { (default : Cmd) with carry := 5, chan := 2 }; let q := pkt 5 2 0 (.cmd c) (.atRim 5 none); let e : Eng := ⟨21, 0, 15⟩; let f : Eng := ⟨21, 1, 7⟩; let a := fun (i : Nat) (s : State) => given { ev with unit := 21, index := i } s
  let s := (base h0).setEng e { (base h0).eng e with queue := [q] }; let s := s.setEng f { s.eng f with queue := [q] }
  let d := (base h0).setEng e { (base h0).eng e with active := some q, err := some (4, 9, 0) }; let d := d.setEng f { d.eng f with active := some q, err := some (4, 9, 0) }
  e.ok = true ∧ f.ok = true ∧ (s.eng e).active = none ∧ c.sfifo = none ∧ c.dfifo = none ∧ acts .engineCommandExecute (a 15 s) (fun t => (t.eng e).active == some q && (t.eng e).queue == [] && (t.eng e).ck == ckStart c 5) = true ∧
    acts .stashCommand (a 7 s) (fun t => (t.eng f).active == some q) = true ∧ (d.eng e).outs = [] ∧ (d.eng e).rd = none ∧ (d.eng e).ent = none ∧
    acts .engineCommandExecute (a 15 d) (fun t => (t.eng e).active == none && t.pkts.map (·.resp) == [true]) = true ∧ acts .stashCommand (a 7 d) (fun t => (t.eng f).active == none && t.pkts.length == 1) = true := by
  decide +kernel

/-- R112, R114: an empty command that completes at once, a report that raises the watermark to its end, and a completion. -/
theorem steps_channels : let k : Cmd := { (default : Cmd) with op := .stash, chan := 15 }; let ch : Chan := { (default : Chan) with cmds := [k], hi := 100, wm := 50 }; let s := fun (c : Chan) => onCore (fun x => { x with chans := [(15, c)], mbrsv := 2 }) (base h0)
  let b := fun (st : Nat) (dn : Bool) (w : Word) => { pkt 0x1B 1 0 (.progress w st dn 0 0 0 none 15) (.atCore 0 0) with resp := true, req := (5, 2, .cmd k) }; let up := s { ch with sent := true, id := 7 }
  k.empty = true ∧ k.ck = 0 ∧ k.bar = none ∧ (s ch).errs = [] ∧ k.ownMark 100 = 100 ∧ (50 : Word).toNat < (k.ownMark 100).toNat ∧ ((s ch).core 0 0).mailRoom = 62 ∧ acts .commandSend (given { ev with index := 15 } (s ch)) (fun t => ((t.core 0 0).chan 15).cmds == [] && ((t.core 0 0).chan 15).status == 0) = true ∧
    chanOf (up.coreAt h0) 7 = some 15 ∧ Back (sole (b 0 false 100) up) (b 0 false 100) ∧ acts .progressResponse (sole (b 0 false 100) up) (fun t => ((t.coreAt h0).chan 15).wm == 100) = true ∧
    acts .commandCompletion (sole (b 0 true 100) up) (fun t => ((t.coreAt h0).chan 15).cmds == [] && !((t.coreAt h0).chan 15).sent) = true := by
  unfold Back; decide +kernel

/-- A bed core's command with a valid route entry leaves on it (R104, R109). -/
theorem test_command_route : let k : Cmd := { (default : Cmd) with op := .stash, place := h0, cmdEntry := 9, count := 1 }; let s := onCore (fun x => { x with chans := [(15, { (default : Chan) with cmds := [k] })] }) (route 9 toCore1 (base h0))
  s.errs = [] ∧ (s.routeEntry 0 0 9).valid = true ∧ routeRefused false false (s.routeString 0 0 9) = none ∧
    acts .commandSend (given { ev with index := 15 } s) (fun t => ((t.core 0 0).chan 15).sent && (t.core 0 0).mbrsv == 2 && t.pkts.map (·.kind) == [5]) = true := by
  decide +kernel

/-- A rim core reaches its own die's engines without a route. -/
theorem witness_CommandSend : ∀ r, ∃ t, injectCommand (base r0) r0 { (default : Cmd) with cmdEntry := unitIx 17, count := 1 } r = .sent t := fun r => ⟨_, if_pos (by decide)⟩

theorem test_command_send : let k : Cmd := { (default : Cmd) with op := .stash, place := r0, cmdEntry := unitIx 17, count := 1 }; let s := onCore (fun x => { x with chans := [(15, { (default : Chan) with cmds := [k] })], mbrsv := 62 }) (base r0)
  k.empty = false ∧ (s.core 17 0).mailRoom = 2 ∧ acts .commandSend (given { ev with unit := 17, index := 15 } s) (fun t => ((t.core 17 0).chan 15).sent && (t.core 17 0).mbrsv == 64 && t.pkts.map (·.kind) == [5]) = true := by
  decide +kernel

/-- R124: a party that is idle, the first and the last of a quench from another module, and the last acknowledgement. -/
theorem steps_quenches : let q := pkt 6 1 0 (.quench 5 9) (.atLink 0); let s := { base h0 with quenches := [(0, 5, 0, 0, [])] }; let a := fun (n : Nat) (s : State) => given { ev with aux := n } s; let e : Eng := ⟨21, 0, 15⟩
  let d := { onCore (fun c => { c with qBusy := true, qLocal := true }) (base h0) with quenches := [(0, 5, 0, 0, quenchParties)] }; let f := { sole q (base h0) with quenches := [(9, 5, 32, 7, quenchParties)] }
  partyEng 159 = some e ∧ (partiesOf s 0).contains 159 = true ∧ (s.eng e).active = none ∧ acts .quenchArrival (a 159 s) (fun t => t.quenches == [(0, 5, 0, 0, [159])] && (t.eng e).refuse == [(0, 5)]) = true ∧ Due (sole q (base h0)) q ∧
    acts .quenchMessage (sole q (base h0)) (fun t => t.quenches == [(9, 5, 32, 7, [])] && t.pkts.length == 1) = true ∧ Due f q ∧ f.quenches = [(9, 5, 32, q.id, quenchParties)] ∧ (d.coreAt h0).qPeers = 0 ∧ (d.coreAt h0).qBusy = true := by
  unfold Due; decide +kernel

/-- Every party's acknowledgement is enough for every owner. -/
theorem witness_QuenchDone : ∀ (s : State) (o : Nat), quenchDone s o quenchParties = true := by
  intro s o
  unfold quenchDone partiesOf
  rw [List.all_eq_true]
  intro n h
  have : n ∈ quenchParties := by
    split at h
    · exact h
    · exact List.mem_of_mem_filter h
  simpa using this

/-! ### The population engine (R141 to R152) -/

/-- A go of one member from its start to its end, the write of a slot, and the six members of R143's and R144's worked case. -/
theorem steps_graft : let g : PopSlot := { (default : PopSlot) with valid := true, members := [0], header := [1] }; let go : Go := { (default : Go) with slot := 15, place := h0, t := 1000, id := 3 }
  let s := fun (f : Go → Go) => { (base h0).setPop 15 g with ranker := { ((base h0).setPop 15 g).ranker with go := some (f go) } }; let q := { (base h0).setPop 15 g with ranker := { ((base h0).setPop 15 g).ranker with queue := [(15, h0)] } }
  let w := onSlot (fun x => { x with wait := some (.answer 7 false), st := .wait }) { base h0 with ranker := { (base h0).ranker with cfgs := [(7, h0, 15, g)] } }; let pr : Pair := { (default : Pair) with i := 0, taken := true }
  let rk : PopSlot := { (default : PopSlot) with valid := true, members := [0, 1, 2, 3, 4, 5], header := [6 + 2 * 2 ^ 13], lnext := 7 }
  let run := fun (h : State → Bool) (i : Instr) (s : State) => acts i s h; let goOf := fun (t : State) (f : Go → Bool) => (t.ranker.go.map f) == some true
  run (fun t => (t.pop 15).members == [0] && t.here.wait == none && t.here.resp == [.done]) .rankerSlotWrite w = true ∧ run (fun t => goOf t (fun h => h.t == 3000 && h.place == h0) && t.ranker.queue == []) .goStart q = true ∧
    run (fun t => goOf t fun h => h.asked == [0] && h.late == 0) .snapshotRequest (s id) = true ∧ (s id).ownMember 0 = true ∧ (s id).ownMember 0x1000 = false ∧
    run (fun t => goOf t fun h => (Tbl.look h.snaps 0).map (·.1) == some 0x7FC00000) .snapshotCapture (s fun h => { h with asked := [0] }) = true ∧ g.k = 0 ∧
    run (fun t => goOf t fun h => h.ranked && h.pairs == []) .ranking (s fun h => { h with asked := [0], snaps := [(0, (5, true))] }) = true ∧ graftRoom (s id) 0 0 0 = true ∧
    (nextPair (s fun h => { h with ranked := true, pairs := [pr] }) 0).isSome = true ∧ run (fun t => goOf t (fun h => h.pairs.all (·.started)) && (t.eng ⟨0, 2, 0⟩).queue.length == 1) .graftPair (s fun h => { h with ranked := true, pairs := [pr] }) = true ∧
    run (fun t => goOf t (fun h => h.pairs.map (·.status) == [some 4]) && t.ranker.reports == []) .pairReport
      { (s fun h => { h with pairs := [{ pr with started := true }] }) with ranker := { (s fun h => { h with pairs := [{ pr with started := true }] }).ranker with reports := [(3, 0, 4)] } } = true ∧
    pairAlive (s id) 3 0 = false ∧ run (fun t => goOf t fun h => h.pairs.map (·.status) == [some 2]) .pairTimeout (s fun h => { h with pairs := [{ pr with started := true }] }) = true ∧
    rk.k = 2 ∧ rk.nmem = 6 ∧ run (fun t => goOf t (fun h => h.ranked && h.pairs.map (fun p => (p.winner, p.loser, p.taken, p.lslot)) == [(2, 1, true, 7), (0, 4, false, 8)]) && (t.pop 15).lnext == 8) .ranking
      { (base h0).setPop 15 rk with ranker := { ((base h0).setPop 15 rk).ranker with go := some { go with snaps := [(0, (0x40400000, true)), (1, (0x7FC00000, true)), (2, (0x40A00000, true)), (3, (0x40400000, true)), (4, (0xFF800000, false)), (5, (0x3F800000, true))] } } } = true ∧
    Go.finished { go with ranked := true } = true ∧ run (fun t => t.ranker.go == none && (t.pop 15).snapts == 1000) .goEnd (s fun h => { h with ranked := true }) = true := by
  decide +kernel

/-- R142, R152: another module's request for a snapshot is served at link die 1, its answer is recorded at the ranker, and another module's pair goes to its loser's bed. -/
theorem steps_graft_remote : let rq := pkt 5 1 0 (.snap 900 0x1081) (.atLink 1); let go : Go := { (default : Go) with slot := 15, place := h0, t := 2000, id := 3, asked := [0] }; let g : PopSlot := { (default : PopSlot) with valid := true, members := [0x5081], header := [1] }
  let an := { pkt 0x19 2 0 (.data (bytesOf 8 77 ++ [1, 1])) (.atLink 0) with resp := true, req := (5, 1, .snap 2000 0x5081) }; let s := given { ev with flag := true } (sole rq (base h0))
  let r := given { ev with flag := true } { sole an ((base h0).setPop 15 g) with ranker := { ((base h0).setPop 15 g).ranker with go := some go } }
  let pq := pkt 5 3 0 (.pair [1] 0x2000 0x85 1 0 7 2) (.atLink 1); let m := given { ev with flag2 := true } (sole pq ((base h0).modCore 1 5 fun c => { c with grdy := true }))
  Due s rq ∧ s.arg.flag = true ∧ (900 : Word).toNat ≤ s.ts.toNat ∧ acts .snapshotRequest s (fun t => t.pkts.map (fun p => (p.kind, p.body)) == [(0x19, .data (bytesOf 8 0x7FC00000 ++ [0, 1]))]) = true ∧
    Back r an ∧ g.members.findIdx? (fun w => w == 0x5081) = some 0 ∧ Tbl.look go.snaps 0 = none ∧
    acts .snapshotCapture r (fun t => t.pkts == [] && (t.ranker.go.map fun h => (h.snaps, h.late)) == some ([(0, (77, true))], 1)) = true ∧
    Due m pq ∧ m.arg.flag = false ∧ m.arg.flag2 = true ∧ memUnit 0x85 = 1 ∧ memModule 0x85 = m.moduleNo.toNat ∧ graftRoom m 1 2 7 = true ∧
    acts .graftPair m (fun t => t.pkts == [] && !(t.core 1 5).grdy && (t.eng ⟨1, 2, 0⟩).queue.length == 1) = true := by
  unfold Due Back; decide +kernel

/-! ### The matrix unit's own steps (R234, R377, R385) -/

/-- A remote zero that is queued, turned away and refused, one that starts, an operation that starts and retires, and a fetch that ends. -/
theorem steps_matrix : let w := (encode false (.maccZero 3)).getD 0; let q := pkt 0x13 1 (2 ^ 24) (.mcmd w 0x10 none) (.atCore 1 0); let one := fun (s : State) (f : Matrix → Matrix) => s.modUnit 0 1 f
  let cap := fun (s : State) => { s with mem := memSetMany s.mem (capKey 0 1 0) (bytesOf 8 (2 ^ 12 + 0x1F * 2 ^ 25 + 0xF * 2 ^ 21) ++ bytesOf 8 1) }; let s := one (cap (base h0)) fun m => { m with own := some 0 }; let a := given { ev with core := 1 } s
  let o : MOp := { act := .zero 3, claims := [], slot := some (0, false), remote := none, started := false, gone := 0, num := 0 }; let kinds := fun (t : State) => t.pkts.map fun r => (r.kind, r.body)
  (remoteOk (sole q s) 0 1 q true).isSome = true ∧ acts .remoteMatrixCommand (sole q (one s fun m => { m with remq := [q] })) (fun t => t.pkts == [] && (t.core 0 1).mx.remq.length == 2) = true ∧
    acts .remoteMatrixCommand (sole q (one s fun m => { m with remq := [q, q] })) (fun t => kinds t == [(0x1A, .nack 4 0 0x13 0)]) = true ∧ remoteOk (base h0) 0 1 q true = none ∧
    acts .remoteMatrixCommand (sole q (base h0)) (fun t => kinds t == [(0x1A, .nack 5 0 0x13 0)]) = true ∧
    acts .remoteCommandStart (one a fun m => { m with remq := [q] }) (fun t => (t.core 0 1).mx.remq == [] && (t.core 0 1).mx.ops.map (·.started) == [true]) = true ∧
    acts .remoteCommandStart (given { ev with core := 1 } (one (base h0) fun m => { m with remq := [q] })) (fun t => (t.core 0 1).mx.remq == [] && kinds t == [(0x1A, .nack 5 0 0x13 0)]) = true ∧
    acts .remoteCommandStart (one a fun m => { m with remq := [q], begun := some ⟨0, some default, none, none⟩ }) (fun t => (t.core 0 1).mx.remq == [q] && t.pkts == []) = true ∧ (a.core 0 1).mx.begun = none ∧
    acts .matrixOpStart (one a fun m => { m with ops := [o] }) (fun t => (t.core 0 1).mx.ops.map (·.started) == [true]) = true ∧
    acts .matrixOpRetire (one a fun m => { m with ops := [{ o with started := true }] }) (fun t => (t.core 0 1).mx.ops == [] && (t.slot ⟨0, 1, 0⟩).resp == [.matrix false none]) = true := by
  decide +kernel

/-- A `macc.st` of one row that starts and writes it, and one whose remote sender is answered (R381, R385). -/
theorem steps_stores : let o : MOp := { act := .store 2 [0x1000] 0, claims := [], slot := some (0, false), remote := none, started := false, gone := 0, num := 0 }; let q := pkt 0x13 1 (2 ^ 24) (.mcmd 0 0x10 none) (.atCore 1 0)
  let s := given { ev with unit := 0 } (unitOf (fun m => { m with ops := [o] }) fed); let z := unitOf (fun m => { m with ops := [{ o with act := .zero 1, started := true, remote := some (q, 0), slot := none }] }) fed
  s.arg.flag = false ∧ s.mx.idle = true ∧ remoteReady s 0 0 = false ∧ rowsHeld s 0 0 0 [0x1000] = false ∧ ({ o with started := true, gone := 1 } : MOp).written = true ∧ ({ o with act := .zero 1, started := true } : MOp).written = true ∧ s.mx.freezing = none ∧
    acts .matrixOpStart s (fun t => t.mx.ops.map (fun p => (p.started, p.gone)) == [(true, 1)]) = true ∧ acts .matrixOpRetire z (fun t => t.mx.ops == [] && t.pkts.map (fun r => (r.kind, r.id)) == [(0x18, 7)]) = true := by
  decide +kernel

/-- R377, R381: the fetch of a product and of an accumulator's rows end in accepted operations. -/
theorem steps_fetches : let x : Prod := { form := 0, acc := 1, acz := true, a := 0, b := 1, m := 0, kch := 1 }; let s := fun (j : MJob) => onSlot (fun z => { z with wait := some .matrix, st := .wait }) (unitOf (fun m => { m with fetches := [{ slot := 0, half := false, job := j, got := [], remote := none, pair := false, act := none }] }) fed)
  let p := s (.product x 0 0 0); let r := s (.rows 2 [0x1000] 0); let ok := fun (f : Fetched MAct) => match f with | .ok _ => true | _ => false
  (fetchOf p h0 true).isSome = true ∧ p.arg.flag = false ∧ ok (runFetch p [] 0 0 (.product x 0 0 0)).2 = true ∧ acts .mmaFetchEnd p (fun t => t.mx.fetches == [] && t.mx.ops.length == 1 && t.here.wait == none) = true ∧
    (fetchOf r h0 false).isSome = true ∧ ok (runFetch r [] 0 0 (.rows 2 [0x1000] 0)).2 = true ∧ acts .maccLdReadEnd r (fun t => t.mx.fetches == [] && t.mx.ops.length == 1 && t.here.wait == none) = true := by
  decide +kernel

/-! ### Slots, threads and contexts (R171 to R176, R215, R216, R237 to R247, R255) -/

/-- Each state of a slot, from the first to the last. -/
theorem steps_slots : let s := base h0; let x := fun (f : Slot → Slot) => onSlot f s; let st := fun (t : State) => (t.slot h0).st; let fz := unitOf (fun m => { m with own := some 0, freezing := some (0, none) }) (x fun y => { y with wait := some .freeze, st := .wait })
  let fi := ctxEntry 0 0 (BitVec.ofNat 64 (2 ^ 63 + 2 ^ 31)) { fz with mem := memSetMany [] (vaultKey 0 0 40) (bytesOf 8 (2 ^ 31 + 0x10000)) }
  acts .slotStart (x fun y => { y with st := .free }) (fun t => st t == .ready) = true ∧ acts .slotStart s (fun t => t == s) = true ∧ acts .slotResume (x fun y => { y with st := .park, parkWhy := 2 }) (fun t => st t == .ready) = true ∧
    acts .slotHold (x fun y => { y with st := .ready }) (fun t => st t == .park) = true ∧ acts .slotDiscard (x fun y => { y with st := .park }) (fun t => st t == .free) = true ∧ acts .slotReleaseLost (x fun y => { y with st := .lost }) (fun t => st t == .free) = true ∧
    acts .slotResumeHeld (x fun y => { y with st := .ready, held := true }) (fun t => !(t.slot h0).held) = true ∧ acts .preemptRequest s (fun t => (t.slot h0).preq) = true ∧ mayPreempt (x fun y => { y with preq := true }) h0 = true ∧
    s.away h0 = false ∧ (s.coreAt h0).mx.own ≠ some 0 ∧ acts .preemption (x fun y => { y with preq := true }) (fun t => st t == .ready && (t.slot h0).held) = true ∧ (fz.imageKey 0 0 0).isNone = true ∧
    acts .freezeImageWritten fz (fun t => st t == .park && (t.slot h0).parkWhy == 5 && (t.coreAt h0).mx.own == none) = true ∧ (fi.imageKey 0 0 0).isSome = true := by
  decide +kernel

/-- A spawn that finds the last slot free and one that finds none, a steal, and a gang of one kernel. -/
theorem steps_tasks : let r : SpawnRec := { pc := 0x40, args := [1, 2, 3, 4], ctx := 9, mode := false, tvec := 0, reach := Vector.replicate 4 0, prio := 0, heavy := false }; let q := pkt 8 3 (2 ^ 24) (.spawn r) (.atCore 1 0)
  let busy := fun (n : Nat) => (List.range n).foldl (fun t k => t.setSlot ⟨0, 1, 4 + k⟩ { Slot.empty with st := .run }) (sole q (base h0)); let full := busy 4; let e : Steal := { id := 7, slot := 0, ctx := 0, j := 0, ans := none }
  let k := onCore (fun c => { c with stealord := 0x81, steals := [e] }) ((record 0 [0x40, 0, 0, 0, 0, 0] (base ⟨0, 1, 0⟩)).modCore 0 1 fun c => { c with dqbot := 1 }); let k := { onCore (fun c => { c with stealord := 0x81, steals := [e] }) (base h0) with mem := k.mem }
  let k := k.modCore 0 1 fun c => { c with dqbot := 1 }; let w := onSlot (fun x => { x with wait := some (.answer 7 true), st := .wait }) (onCore (fun c => { c with steals := [{ e with ans := some (some [5]) }] }) (base h0))
  (match q.rng with | .core u c 0 _ => u == 0 && c == 1 | _ => false) = true ∧ Due (busy 3) q ∧ killing (busy 3) 0 9 = false ∧ serviceHeld (busy 3) 0 1 = false ∧
    acts .spawnArrival (busy 3) (fun t => (t.slot ⟨0, 1, 7⟩).st == .ready && (t.slot ⟨0, 1, 7⟩).th.ctx == 9 && t.pkts.map (·.kind) == [0x18]) = true ∧ acts .spawnArrival full (fun t => t.pkts.map (·.body) == [.nack 4 0 8 0]) = true ∧
    victimAt k h0 0 = some 1 ∧ recCtx (dequeRead k 0 1 0) = 0 ∧ acts .stealRequest k (fun t => (t.core 0 1).dqtop == 1 && (t.core 0 0).steals.map (·.ans.isSome) == [true]) = true ∧ stealAwaited w 0 0 { e with ans := some (some [5]) } = true ∧
    acts .stealAnswer w (fun t => t.here.resp == [.stolen (some [5])] && (t.core 0 0).steals == []) = true := by
  unfold Due; decide +kernel

/-- R241, R242: a gang that fits, an empty queue that is stopped. -/
theorem steps_gangs : let ws : List Word := [1 + 9 * 256, 0, 1, 0, 0, 0, 0, 0, 0, 1, 0, 0, 0, 0, 0, 0, 0, 0, 0, 0, 0, 0, 0, 0]; let l : LaunchRec := { words := ws, arrts := 0, blk := false, victims := [] }
  let s := ctxEntry 11 9 (BitVec.ofNat 64 (2 ^ 63 + 11 * 2 ^ 36 + 2 ^ 31)) ((given { ev with unit := 11 } (base h0)).modBed 11 fun b => { b with lq := [(0, [l])], placing := true })
  gangCtx ws = 9 ∧ (s.bed 11).lqctl.getLsbD 16 = false ∧ (s.bed 11).rst.state = 0 ∧ (firstHead s 11).map (fun x => (x.2.1, x.2.2)) = some (0, l) ∧ (recordKey s 11 9).isSome = true ∧ (fitGang s 11 ws fun p => (s.slot p).st == .free).isSome = true ∧
    acts .placementStep s (fun t => Tbl.get [] (t.bed 11).lq 0 == [] && t.slots.any fun e => e.1 / 1024 == 11 && e.2.st == .ready && e.2.th.ctx == 9) = true ∧
    acts .placementStep (s.modBed 11 fun b => { b with lqctl := 0x10000 }) (fun t => (Tbl.get [] (t.bed 11).lq 0).length == 1 && !(t.bed 11).placing) = true ∧ (s.bed 11).placing = true ∧ Tbl.get [] (s.bed 11).lq 0 = [l] ∧ (∀ j < 4, j ≠ 0 → Tbl.get [] (s.bed 11).lq j = []) ∧
    acts .placementStep (s.modBed 11 fun b => { b with placing := false }) (fun t => (Tbl.get [] (t.bed 11).lq 0).length == 1) = true := by
  decide +kernel

/-- R237, R238: the last unit of a kill and of a creation. -/
theorem steps_contexts : let o := fun (n u : Nat) (us : List Nat) => given { ev with unit := 0, aux := u } ((base h0).modBed 0 fun b => { b with opBusy := some n, opUnits := us })
  21 ∈ killUnits ∧ ((o 1 21 []).bed 0).opBusy = some 1 ∧ (21 ∉ ((o 1 21 []).bed 0).opUnits) ∧
    acts .ctxCreate (let s := o 2 21 []; s.setEng ⟨21, 0, 15⟩ { s.eng ⟨21, 0, 15⟩ with refuse := [(0, 0)] }) (fun t => (t.eng ⟨21, 0, 15⟩).refuse == []) = true ∧ (∀ n ∈ createUnits, n ∈ createUnits) ∧
    acts .ctxOpComplete (o 2 0 createUnits) (fun t => (t.bed 0).opBusy == none && (t.bed 0).opDone) = true := by
  decide +kernel

/-- R172 to R176: an image that lands, one that queues, one that is turned away, one saved, and the source's side. -/
theorem steps_migration : let im := fun (save : Bool) => Body.image (List.replicate 512 0) 0 false save (Vector.replicate 4 3) 0 none (0, false, false); let q := { pkt 3 17 (2 ^ 24) (im false) (.atCore 1 0) with info := 5 }
  let busy := (List.range 4).foldl (fun t k => t.setSlot ⟨0, 1, 4 + k⟩ { Slot.empty with st := .run }) (sole q (base h0)); let two := busy.setLandQ 0 1 [q, q]; let p : Place := ⟨0, 1, 4⟩; let sv := { q with body := im true, loc := .atCore 0 0, dest := 0 }
  let aw := (sole sv (base h0)).setSlot ⟨0, 0, 5⟩ { Slot.empty with st := .away, name := 5 }; let bk := { q with resp := true, body := .ack, loc := .atCore 0 0, req := (3, 17, im false) }
  let src := onSlot (fun x => { x with wait := some .migrate, st := .wait }) (sole bk (base h0)); let o : Retry := { pkt := { q with dest := 2 ^ 36 + 2 ^ 24, loc := .atCore 0 0 }, why := 4 }; let b2 := { onSlot (fun x => { x with wait := some .migrate, resp := [.busy], st := .wait }) (route 129 toCore1 (base h0)) with retries := [o] }
  imageName q = 5 ∧ landingOf q = .queue 0 1 2 [1] ∧ Due (sole q (base h0)) q ∧ killing (base h0) q.loc.unit (imageCtx q) = false ∧ freeLight (base h0) 0 [1] = some p ∧ freeLight busy 0 [1] = none ∧
    acts .migrationArrival (sole q (base h0)) (fun t => (t.slot p).st == .run && (t.slot p).name == 5 && t.pkts.map (·.kind) == [0x18]) = true ∧ acts .migrationArrival busy (fun t => (t.landQ 0 1).length == 1 && t.pkts.map (·.kind) == [0x18]) = true ∧
    acts .migrationArrival two (fun t => (t.landQ 0 1).length == 2 && t.pkts.map (·.body) == [.nack 4 0 3 0]) = true ∧
    acts .landingQueuePlace (given { ev with index := 1 } ((base h0).setLandQ 0 1 [q])) (fun t => (t.slot p).st == .run && t.landQ 0 1 == []) = true ∧ homePlace 5 = ⟨0, 0, 5⟩ ∧ (((base h0).setLandQ 0 1 [q]).slot ⟨0, 0, 5⟩).preq = false ∧ saveHeld aw ⟨0, 0, 5⟩ = false ∧ homeLeaving aw sv = false ∧ Due aw sv ∧
    acts .saveImageArrival aw (fun t => (t.slot ⟨0, 0, 5⟩).st == .ready && (t.slot ⟨0, 0, 5⟩).held) = true ∧ acts .saveImageArrival (sole sv (base h0)) (fun t => t.pkts.map (·.body) == [.nack 5 0 3 0]) = true ∧ Back src bk ∧ bk.place = h0 ∧
    acts .migrationAnswer src (fun t => (t.slot h0).st == .away) = true ∧ acts .migrationBackoff b2 (fun t => (t.slot h0).wait == some .migrate && t.retries == [] && t.pkts.map (fun r => (r.body, r.info, r.dest)) == [(im false, 5, 2 ^ 36 + 2 ^ 24)]) = true ∧
    b2.retries.findIdx? (fun r => r.why == 4 && r.pkt.place == b2.argPlace) = some 0 ∧ saveHeld b2 h0 = false ∧ b2.homeOf 0 o.pkt.rng ≠ some 0 ∧ b2.routeIx 0 o.pkt.rng = 129 ∧ (b2.routeEntry 0 0 129).valid = true ∧
    routeRefused false false (b2.routeString 0 0 129) = none ∧ b2.errs = [] ∧ (src.slot h0).resp.contains .busy = false ∧ (src.slot h0).preq = false := by
  unfold Due Back; decide +kernel

/-! ### Barrier fabrics and aborted blocks (R95, R219 to R221, R259) -/

/-- A report that completes its barrier, one without an entry, a release, and the two steps of an abort. -/
theorem steps_fabrics : let en : DomE := { w0 := BitVec.ofNat 64 (3 + 2 ^ 15 + 2 ^ 35), bcmp := 0, reps := [] }; let sp : DomE := { en with w0 := BitVec.ofNat 64 (3 + 2 ^ 14 + 2 ^ 15 + 2 ^ 23 + 2 ^ 35), bcmp := 1 <<< 31 }
  let r : BarRep := { bed := 0, core := 0, bar := 31, level := 0, dom := 3, atFabric := false }; let d := fun (e : List (Nat × DomE)) => (base h0).modBed 0 fun b => { b with dtab := e, reps := [r] }
  let b := given { ev with index := 63, aux := 31 } (onCore (fun c => { c with doms := [(0, 0x2003)], bars := [(31, { Bar.empty with kind := 2, count := 1, cdone := true })] }) (d [(63, { en with bcmp := 1 <<< 31 })]))
  let a : XAbort := { (default : XAbort) with level := 0, dom := 3 }; let x := { onSlot (fun y => { y with blk := y.blk.map fun k => { k with cyc := 24 } }) (inBlock (base h0)) with xaborts := [{ a with reported := true }] }; let o := onSlot (fun y => { y with pkt := some default }) (base h0)
  (fabricEntry (d [(63, en)]) 0 0 3 false).map (·.1) = some 63 ∧ acts .barrierReport (d [(63, en)]) (fun t => (Tbl.get default (t.bed 0).dtab 63).bcmp.getLsbD 31 && (t.bed 0).reps == []) = true ∧
    fabricEntry (d []) 0 0 3 false = none ∧ acts .barrierReport (d []) (fun t => (t.bed 0).reps.map (·.atFabric) == [true]) = true ∧
    acts .linkDieBarrierReport (given { ev with index := 63, aux := 31 } (d [(63, sp)])) (fun t => t.releases == [(0, 0, 3, 31)] && t.ld0 == []) = true ∧ xputsPending b 0 0 3 = false ∧ memberCores b 0 { en with bcmp := 1 <<< 31 } 31 = [0] ∧ (b.bar 0 0 31).donets.toNat < b.ts.toNat ∧
    acts .domainRelease b (fun t => (t.bar 0 0 31).donets == 1000 && !(Tbl.get default (t.bed 0).dtab 63).bcmp.getLsbD 31) = true ∧ acts .exchangeAbortReport { base h0 with xaborts := [a] } (fun t => t.xaborts.map (·.reported) == [true]) = true ∧
    abortDue (base h0) a 8 = true ∧ a.span = false ∧ abortDue x a 24 = true ∧ a.cause ≠ 15 ∧ acts .exchangeAbortApply x (fun t => t.xaborts == [] && t.here.pend.map (fun p => (p.1, p.2.1)) == some (12, 0)) = true ∧ acts .packetOpenTimeout o (fun t => t.here.pkt == none && t.here.pend.map (fun p => (p.1, p.2.1)) == some (15, 2)) = true := by
  decide +kernel

/-! ### Registers, memory, checks and traps (R9, R214, R249 to R253, R294, R295) -/

/-- A lone word, the second word of a pair, a bed's core and a rim core, and a memory in its form. -/
theorem witness_StateAccess : let s := regs [(3, 5)] (base h0); let a := { s with cur := { s.cur with half := .a, snap := some s.here.th } }
  s.cur.half ≠ .a ∧ a.cur.half = .a ∧ a.cur.snap = some s.here.th ∧ h0.rim = false ∧ r0.rim = true ∧ (s.setG 0 7).opG 0 = 0 ∧ (s.setG 31 7).opG 31 = 7 ∧ (a.setG 3 7).opG 3 = 5 ∧ (s.setM 0 7).opM 0 = BitVec.allOnes 64 ∧
    Memory.wf (poke 0 [1, 0, 2] s).mem = true ∧ memGetMany ((poke 0 [1, 0, 2] s).put .ls 0 [0, 9]).mem 0 3 = [0, 9, 2] := by
  decide +kernel

/-- A word of a part that is not there, a vector word on a light slot and a system word in user mode (R294, R295, R390). -/
theorem test_word_checks : let u := onSlot (fun x => { x with th := { x.th with mode := false } }) (base h0)
  encodeNat (.mmaMx 0 0 1 0 0) ≠ none ∧ trapOf .xend { base h0 with feat := 0x7BF } = (1, 2) ∧ trapOf (.vadd 1 2 3 0 0) (base l0) = (1, 3) ∧ trapOf .eret u = (5, 2) ∧ trapOf (.mfsr 4 8) u = (5, 2) ∧
    acts (.mfsr 4 3) u (fun t => t.pc == own 4) = true ∧ acts (.vadd 1 2 3 0 0) (base r0) (fun t => t.pc == own 4) = true := by
  decide +kernel

/-- TD clear and set, and a thread away from home. -/
theorem witness_TrapEntry : let s := base h0; let d := onSlot (fun x => { x with th := { x.th with td := true } }) s
  h0.ok = true ∧ s.cur.commit = false ∧ s.here.th.td = false ∧ d.here.th.td = true ∧ s.errs = [] ∧ Memory.wf s.mem = true ∧ (13 : BitVec 15) ≠ l0.name ∧ homePlace 13 = ⟨0, 1, 5⟩ := by
  decide +kernel

/-- The frame's first words and the thread (R249, R252, R253). -/
theorem test_trap : let s := onSlot (fun x => { x with th := { x.th with mode := false, tvec := 0x800 } }) (base h0)
  after (done (.trap s ⟨5, 2, own 0, 0, 0⟩)) (fun t => t.here.th.epc == own 0 && t.pc == 0x800 && t.here.th.mode && !t.here.th.pm && t.here.th.td &&
    memGetMany t.mem (coreKey 0 0 (frameOff h0) + 8) 3 == [5, 0, 2]) = true := by
  decide +kernel

/-- R252: the slot is FREE, the event names both causes, and the home slot held AWAY is LOST. -/
theorem test_double_trap : let s := onSlot (fun x => { x with name := 13, th := { x.th with td := true } }) ((base l0).setSlot ⟨0, 1, 5⟩ { Slot.empty with st := .away, name := 13 })
  after (done (.trap s ⟨5, 2, own 0, 0, 0⟩)) (fun t => t.here.st == .free && (t.slot ⟨0, 1, 5⟩).st == .lost && (t.bed 0).stage.recs.map (fun e => (e.ty, e.fatal, e.d0.toNat)) == [(7, true, 13)]) = true := by
  decide +kernel

/-! ### Every step (R215, R216, R281 to R293) -/

/-- A lone `add` at the program counter, in a line its cache holds. -/
theorem witness_StepRunsDecoded : let s := regs [(4, 30), (5, 12)] (onCore (fun c => { c with icache := [(0, bytesOf 4 0x40390A04 ++ List.replicate 60 0)] }) (base h0)); let s := { s with agenda := [.issue h0] }; let x := s.slot h0
  let s0 := beginTurn { s with agenda := [] } h0 0
  let s1 : State := { s0 with cur := { s0.cur with pc := x.th.pc, cword := 0x40390A04, next := x.th.pc + 4, half := .lone } }
  canIssue s0 h0 = true ∧ goesFirst exec s0 h0 = true ∧ x.preq = false ∧ x.owed = [] ∧ x.parkAt = none ∧ x.pend = none ∧ x.folState = 0 ∧ x.folLeft = false ∧ x.entry = false ∧ x.blk = none ∧ x.ahead = [] ∧ OwnAt h0 x.th.pc 4 4 0 0 ∧
    Tbl.look (s.coreAt h0).icache (coreKey 0 0 0 / 64) = some (bytesOf 4 0x40390A04 ++ List.replicate 60 0) ∧ lineWord (bytesOf 4 0x40390A04 ++ List.replicate 60 0) (coreKey 0 0 0) = 0x40390A04 ∧ wordP 0x40390A04 = false ∧
    decodeWord 0x40390A04 = .instr (.add 7 4 5) ∧ Admitted (.add 7 4 5) s1 ∧
    after (step s) (fun t => (t.slot h0).th.readG 7 == 42 && (t.slot h0).th.pc == own 4 &&
      after (exec (resolveForm s1 (.add 7 4 5)) s1) fun u => after (Sys2Proof.Machine.after (holdForEvent s0 h0 (recordIssue h0 (leaving h0 (goPast false h0 (.next (finishBundle none [resolveForm s1 (.add 7 4 5)] u))))))) fun w => t == w) = true := by
  unfold OwnAt Admitted; decide +kernel

/-- A step of the part's own, with its arguments. -/
theorem witness_StepRunsEvent : let a := { ev with unit := 1, index := 11 }; let s := { base h0 with agenda := [.event .spireTrain a] }
  isEvent .spireTrain = true ∧ after (step s) (fun t => (t.spire 1 11).state == 1 && after (exec .spireTrain { s with agenda := [], arg := a }) fun u => t == resumeReady (stopForEvent { s with agenda := [], arg := a } u)) = true := by
  decide +kernel

/-- A slot that a module has, and one that none has. -/
theorem witness_NothingStops : (⟨11, 127, 7⟩ : Place).ok = true ∧ (⟨21, 31, 7⟩ : Place).ok = true ∧ (⟨12, 0, 0⟩ : Place).ok = false ∧ noSlot (step { base h0 with agenda := [.issue ⟨12, 0, 0⟩] }) = true := by
  decide +kernel

/-- A slot that is READY and not held before a step runs after it. -/
theorem witness_ReadySlotsResume : let s := { (base h0).setSlot l0 { Slot.empty with st := .ready } with agenda := [.event .spireTrain ev] }
  (s.slot l0).st = .ready ∧ (s.slot l0).held = false ∧ after (step s) (fun t => (t.slot l0).st == .run) = true ∧ l0.core < 128 ∧ l0.slot < 8 ∧
    (let b := { { s with errs := [(coreKey 0 0 (saveOff l0), none)] }.modBed 0 fun d => { d with stage := { d.stage with recs := List.replicate 64 (rec1 1), held := [rec1 1] } } with agenda := s.agenda }
     after (step b) (fun t => (t.slot l0).st == .ready && (anyBad t (coreKey 0 0 (saveOff l0)) (saveLen l0)).isSome) = true) := by
  decide +kernel

/-- A C word and a lone word with every field at its largest value. -/
theorem witness_EncodingsDecode : encode false (.sel 31 31 31 31) ≠ none ∧ encode true (.stD 31 31 2047) ≠ none ∧ ((encode false (.ringPutReserve 1 2 3)).map decodeWord == some (.instr (.ringPutPublish 1 2 3))) = true := by
  decide +kernel

/-- Words that complete: one that writes a register, one that stores, and one that changes a system register. -/
theorem witness_Frames : let n := fun (i : Instr) (s : State) => acts i s fun t => t.cur.ended == .no
  encodeNat (.add 7 4 5) ≠ none ∧ n (.add 7 4 5) (base h0) = true ∧ encodeNat (.stD 3 4 0) ≠ none ∧ n (.stD 3 4 0) (regs [(4, own 0x100)] (base h0)) = true ∧ n (.mtsr 4 9) (base h0) = true ∧ (usesOf (.add 7 4 5)).2.1 = [7] := by
  decide +kernel

/-! ### Loads that a thread goes past (R189, R193, R195) -/

/-- `ld.d g4, [g6]` of another rim core's memory: a turn of `.ahead` leaves it outstanding and goes on, another waits for it. -/
theorem witness_LoadsPassed : let s := passing 0x40390A04; let turn := fun (u : Turn) => step { s with agenda := [u] }
  (r0.heavy ∧ r0.core % 8 = 0 → False) ∧
  after (turn (.ahead r0)) (fun t => let x := t.slot r0; x.st == .run && x.wait.isNone && x.th.pc == own 4 && x.th.readG 4 == 30 && x.ahead.length == 1 && t.pkts.length == 1) = true ∧
  after (turn (.issue r0)) (fun t => let x := t.slot r0; x.wait.isSome && x.th.pc == own 0 && x.ahead.isEmpty && t.pkts.length == 1) = true := by
  decide +kernel

/-- An `add` that reads g4 waits for the load; a store of g5 goes on. -/
theorem test_load_passed_use : let run := fun (w : Nat) (f : State → Bool) => after (step { passing w with agenda := [.ahead r0] }) fun t => after (step { t with agenda := [.issue r0] }) f
  run 0x40390A04 (fun t => let x := t.slot r0; x.th.pc == own 4 && x.th.readG 7 == 0 && x.ahead.length == 1) = true ∧
  run 0x11299800 (fun t => (t.slot r0).wait.isSome || (t.coreAt r0).sbuf.isEmpty) = true ∧
  run 0x112A1800 (fun t => (t.slot r0).th.pc == own 8 && (t.coreAt r0).sbuf.length == 1 && (t.slot r0).ahead.length == 1) = true := by
  decide +kernel

/-- Its value comes: g4 takes it, and the thread stands where it has got to. -/
theorem test_load_passed_answer : after (step { passing 0x40390A04 with agenda := [.ahead r0] }) (fun t =>
    match t.pkts with
    | [q] => after (step { t.modSlot r0 (fun x => x.gets q.id [.data q.dest (bytesOf 8 77)]) with agenda := [.issue r0] }) fun u =>
      let x := u.slot r0; x.th.readG 4 == 77 && x.th.pc == own 4 && x.ahead.isEmpty
    | _ => false) = true := by
  decide +kernel

end Sys2Proof.Tests
end

section
/-! PROOFS. What a write at the home leaves, whatever soft errors it meets: memory outside its own bytes, the canonical form and every thread's registers. -/

namespace Sys2Proof

/-- An entry of a table whose entries a function changes under their keys. -/
theorem Tbl.look_map {α : Type} (f : Nat × α → Nat × α) (hf : ∀ e, (f e).1 = e.1) (t : Tbl α) (k : Nat) :
    Tbl.look (t.map f) k = (Tbl.look t k).map fun a => (f (k, a)).2 := by
  induction t with
  | nil => rfl
  | cons e r ih =>
    obtain ⟨j, a⟩ := e
    have hj := hf (j, a)
    rw [List.map_cons, show f (j, a) = (j, (f (j, a)).2) from Prod.ext hj rfl, Tbl.look, Tbl.look]
    split
    · next h => subst h; rfl
    · exact ih

end Sys2Proof

namespace Sys2Proof.Machine

/-! ### Counting and reporting an error -/

/-- A state with the counts of errors and the events on their way changed, and nothing else (R63, R262, R263). -/
def Reports (s t : State) : Prop :=
  ∃ cores beds rims evq linkHeld linkOwed, t = { s with cores := cores, beds := beds, rims := rims, evq := evq, linkHeld := linkHeld, linkOwed := linkOwed }

theorem Reports.trans {s t u : State} (h : Reports s t) (h' : Reports t u) : Reports s u := by
  obtain ⟨_, _, _, _, _, _, rfl⟩ := h
  obtain ⟨_, _, _, _, _, _, rfl⟩ := h'
  exact ⟨_, _, _, _, _, _, rfl⟩

theorem countErr_reports (s : State) (k : Nat) (uncorr : Bool) : Reports s (countErr s k uncorr) := by
  unfold countErr
  dsimp only
  split
  · exact ⟨_, _, _, _, _, _, rfl⟩
  · split
    · exact ⟨_, _, _, _, _, _, rfl⟩
    · split <;> exact ⟨_, _, _, _, _, _, rfl⟩

theorem pushEvent_reports (s : State) (unit : Nat) (e : EvRec) : Reports s (s.pushEvent unit e) := by
  unfold State.pushEvent State.setStage State.addLink
  split
  · split <;> exact ⟨_, _, _, _, _, _, rfl⟩
  · split
    · exact ⟨_, _, _, _, _, _, rfl⟩
    · split <;> exact ⟨_, _, _, _, _, _, rfl⟩

theorem meetBad_reports (s : State) (k : Nat) : Reports s (meetBad s k) := (countErr_reports s _ true).trans (pushEvent_reports _ _ _)

@[simp] theorem meetBad_mem (s : State) (k : Nat) : (meetBad s k).mem = s.mem := by
  obtain ⟨_, _, _, _, _, _, h⟩ := meetBad_reports s k; rw [h]
@[simp] theorem meetBad_errs (s : State) (k : Nat) : (meetBad s k).errs = s.errs := by
  obtain ⟨_, _, _, _, _, _, h⟩ := meetBad_reports s k; rw [h]
@[simp] theorem meetBad_slots (s : State) (k : Nat) : (meetBad s k).slots = s.slots := by
  obtain ⟨_, _, _, _, _, _, h⟩ := meetBad_reports s k; rw [h]
@[simp] theorem countErr_mem (s : State) (k : Nat) (u : Bool) : (countErr s k u).mem = s.mem := by
  obtain ⟨_, _, _, _, _, _, h⟩ := countErr_reports s k u; rw [h]
@[simp] theorem countErr_errs (s : State) (k : Nat) (u : Bool) : (countErr s k u).errs = s.errs := by
  obtain ⟨_, _, _, _, _, _, h⟩ := countErr_reports s k u; rw [h]
@[simp] theorem countErr_slots (s : State) (k : Nat) (u : Bool) : (countErr s k u).slots = s.slots := by
  obtain ⟨_, _, _, _, _, _, h⟩ := countErr_reports s k u; rw [h]

/-! ### Memory outside the bytes written -/

/-- A change of memory only at the `n` bytes from a key on, which keeps the canonical form and leaves the slots alone. -/
structure WritesWithin (s t : State) (k n : Nat) : Prop where
  wf : Memory.wf s.mem = true → Memory.wf t.mem = true
  other : ∀ j, j < k ∨ k + n ≤ j → memGet t.mem j = memGet s.mem j
  slots : t.slots = s.slots

theorem WritesWithin.of_eq {s t : State} (k n : Nat) (hm : t.mem = s.mem) (hs : t.slots = s.slots) : WritesWithin s t k n :=
  ⟨fun h => hm ▸ h, fun _ _ => by rw [hm], hs⟩

theorem WritesWithin.trans {s t u : State} {k n : Nat} (h : WritesWithin s t k n) (h' : WritesWithin t u k n) : WritesWithin s u k n :=
  ⟨fun hw => h'.wf (h.wf hw), fun j hj => (h'.other j hj).trans (h.other j hj), h'.slots.trans h.slots⟩

theorem WritesWithin.mono {s t : State} {k n k' n' : Nat} (h : WritesWithin s t k n) (hk : k' ≤ k) (hn : k + n ≤ k' + n') : WritesWithin s t k' n' :=
  ⟨h.wf, fun j hj => h.other j (by omega), h.slots⟩

theorem WritesWithin.foldl {β : Type} {f : State → β → State} {k n : Nat} (l : List β) (s : State) (h : ∀ u, ∀ x ∈ l, WritesWithin u (f u x) k n) :
    WritesWithin s (l.foldl f s) k n :=
  List.foldlRecOn (motive := fun t => WritesWithin s t k n) l f (.of_eq k n rfl rfl) fun u hu x hx => hu.trans (h u x hx)

theorem correct_within (s : State) (k n k' n' : Nat) : WritesWithin s (correct s k n) k' n' :=
  .foldl _ s fun u e _ => .of_eq k' n' (by simp [clearErr]) (by simp [clearErr])

theorem heal_within (s : State) (k n k' n' : Nat) : WritesWithin s (heal s k n) k' n' := by
  have h : ∀ l : List (Nat × Option Nat), WritesWithin s (l.foldl (fun t e => meetBad t e.1) s) k' n' := fun l =>
    .foldl l s fun u e _ => .of_eq k' n' (meetBad_mem u e.1) (meetBad_slots u e.1)
  exact (h _).trans (.of_eq k' n' rfl rfl)

theorem putByte_within (s : State) (p : Path) (k : Nat) (b : Byte) : WritesWithin s (putByte s p k b) k 1 :=
  ⟨Memory.wf_memSet s.mem k b, fun j hj => memGet_memSet_other s.mem k j b (by omega), rfl⟩

theorem putWord_within (s : State) (p : Path) (k : Nat) (bs : List Byte) : WritesWithin s (putWord s p k bs) k bs.length := by
  unfold putWord
  split
  · exact .of_eq _ _ (meetBad_mem s k) (meetBad_slots s k)
  · refine (correct_within s k _ _ _).trans (.foldl _ _ fun u i hi => ?_)
    have := List.mem_range.1 hi
    exact (putByte_within u p (k + i) _).mono (by omega) (by omega)

theorem putWords_within (p : Path) (f : Nat) (s : State) (k : Nat) (bs : List Byte) : WritesWithin s (putWords s p f k bs) k bs.length := by
  induction f generalizing s k bs with
  | zero => exact .of_eq _ _ rfl rfl
  | succ f ih =>
    rw [putWords]
    split
    · exact .of_eq _ _ rfl rfl
    · dsimp only
      by_cases hl : 8 - k % 8 ≤ bs.length
      · have h1 := putWord_within s p k (bs.take (8 - k % 8))
        have h2 := ih (putWord s p k (bs.take (8 - k % 8))) (k + (8 - k % 8)) (bs.drop (8 - k % 8))
        exact (h1.mono (Nat.le_refl k) (by simp)).trans (h2.mono (by omega) (by simp; omega))
      · rw [List.drop_of_length_le (by omega), List.take_of_length_le (by omega)]
        have h2 := ih (putWord s p k bs) (k + (8 - k % 8)) []
        refine (putWord_within s p k bs).trans ⟨h2.wf, fun j _ => ?_, h2.slots⟩
        cases f <;> simp [putWords]

/-! ### Threads under what a write ends and wakes -/

/-- No thread's registers differ. -/
def SameThreads (s t : State) : Prop := ∀ p, (t.slot p).th = (s.slot p).th

theorem SameThreads.of_slots {s t : State} (h : t.slots = s.slots) : SameThreads s t := fun p => by simp [State.slot, h]

theorem SameThreads.trans {s t u : State} (h : SameThreads s t) (h' : SameThreads t u) : SameThreads s u := fun p => (h' p).trans (h p)

/-- Changing the listed slots in what is not their thread. -/
theorem SameThreads.of_map {s t : State} (f : Nat × Slot → Nat × Slot) (hk : ∀ e, (f e).1 = e.1) (ht : ∀ e, (f e).2.th = e.2.th)
    (h : t.slots = s.slots.map f) : SameThreads s t := by
  intro p
  unfold State.slot Tbl.get
  rw [h, Tbl.look_map f hk]
  cases Tbl.look s.slots (slotKey p) with
  | none => rfl
  | some x => exact ht _

theorem endResv_sameThreads (s : State) (k n : Nat) : SameThreads s (endResv s k n) := by
  refine .of_map _ (fun e => ?_) (fun e => ?_) rfl
  all_goals
    split
    · split <;> rfl
    · rfl

theorem wakeIf_sameThreads (s : State) (f : Nat → Wait → Bool) : SameThreads s (wakeIf s f) := by
  refine .of_map _ (fun e => ?_) (fun e => ?_) rfl
  all_goals
    split
    · split <;> rfl
    · rfl

theorem wakeWaiters_sameThreads (s : State) (k : Nat) : SameThreads s (wakeWaiters s k) := fun p => by
  unfold wakeWaiters; exact wakeIf_sameThreads _ _ p

theorem wakeWords_sameThreads (s : State) (k n : Nat) : SameThreads s (wakeWords s k n) :=
  List.foldlRecOn (motive := SameThreads s) _ _ (fun _ => rfl) fun _ h _ _ => h.trans (wakeWaiters_sameThreads _ _)

theorem wakeRoute_sameThreads (s : State) (k : Nat) : SameThreads s (wakeRoute s k) := by
  unfold wakeRoute
  split
  · exact fun _ => rfl
  · split
    · refine .of_map _ (fun e => ?_) (fun e => ?_) rfl
      · split <;> rfl
      · split
        · dsimp only; split <;> rfl
        · rfl
    · exact fun _ => rfl

theorem releaseStore_slots (s : State) (k n : Nat) : (releaseStore s k n).slots = s.slots := by
  unfold releaseStore; split <;> rfl

/-- What a write does once its bytes stand: it ends reservations and wakes slots (R92, R326, R327), and counts as a release of its maker (R193, R197). -/
def State.written (t : State) (p : Path) (k n : Nat) : State :=
  let t := wakeRoute (wakeWords (endResv t k n) k n) k
  let t := { t with writes := t.writes + 1 }
  if p = .ls then releaseStore t k n else t

theorem State.put_eq (s : State) (p : Path) (k : Nat) (bs : List Byte) (h : bs ≠ []) :
    s.put p k bs = (putWords (heal s k bs.length) p (bs.length + 1) k bs).written p k bs.length := by
  unfold State.put; rw [if_neg h]; rfl

theorem State.written_mem (t : State) (p : Path) (k n : Nat) : (t.written p k n).mem = t.mem := by
  unfold State.written; dsimp only; split <;> simp

theorem State.written_sameThreads (t : State) (p : Path) (k n : Nat) : SameThreads t (t.written p k n) := by
  have h := ((endResv_sameThreads t k n).trans (wakeWords_sameThreads _ k n)).trans (wakeRoute_sameThreads _ k)
  unfold State.written
  dsimp only
  split
  · exact h.trans (.of_slots (releaseStore_slots _ k n))
  · exact h

/-- A write at the home, whatever errors it meets, changes memory only at its own bytes, in its form. -/
theorem State.put_other (s : State) (p : Path) (k : Nat) (bs : List Byte) :
    (Memory.wf s.mem = true → Memory.wf (s.put p k bs).mem = true) ∧
    ∀ j, j < k ∨ k + bs.length ≤ j → memGet (s.put p k bs).mem j = memGet s.mem j := by
  by_cases hb : bs = []
  · subst hb; exact ⟨id, fun _ _ => rfl⟩
  · have h := (heal_within s k bs.length k bs.length).trans (putWords_within p (bs.length + 1) _ k bs)
    rw [s.put_eq p k bs hb, State.written_mem]
    exact ⟨h.wf, h.other⟩

/-- A write at the home changes no thread's registers. -/
theorem State.put_sameThreads (s : State) (p : Path) (k : Nat) (bs : List Byte) : SameThreads s (s.put p k bs) := by
  by_cases hb : bs = []
  · subst hb; exact fun _ => rfl
  · have h := (heal_within s k bs.length k bs.length).trans (putWords_within p (bs.length + 1) _ k bs)
    rw [s.put_eq p k bs hb]
    exact (SameThreads.of_slots h.slots).trans (State.written_sameThreads _ p k bs.length)

/-- The bytes of a write are read back. -/
theorem memGetMany_memSetMany (m : List Host.Cell) (k : Nat) (bs : List Byte) (h : Memory.wf m = true) : memGetMany (memSetMany m k bs) k bs.length = bs := by
  refine List.ext_getElem (length_memGetMany _ _ _) fun i h1 h2 => ?_
  simp only [memGetMany, List.getElem_map, List.getElem_range]
  exact memGet_memSetMany_same bs m k i h h2

end Sys2Proof.Machine
end

section
/-! PROOFS. Registers: what a read gives after a write, of the thread in execution and of a rim core's shared set. -/

namespace Sys2Proof.Machine

/-! ### Register reads of a word that is not the second of a pair -/

/-- A lone word and the first word of a pair read the thread as it stands (R284). -/
theorem State.opTh_lone {s : State} (h : s.cur.half ≠ .a) : s.opTh = s.here.th := by
  unfold State.opTh; split <;> simp_all

/-- The second word of a pair reads the thread that stood before it (R284). -/
theorem State.opTh_second {s : State} {t : Thread} (h : s.cur.half = .a) (ht : s.cur.snap = some t) : s.opTh = t := by
  simp [State.opTh, h, ht]

@[simp] theorem State.here_modTh (s : State) (f : Thread → Thread) : (s.modTh f).here = { s.here with th := f s.here.th } := by
  simp [State.modTh, State.modHere, State.here]

@[simp] theorem State.coreAt_modCoreAt (s : State) (p : Place) (f : Core → Core) : (s.modCoreAt p f).coreAt p = f (s.coreAt p) := by
  simp [State.coreAt, State.modCoreAt]

/-- A general register read after a write of a thread's register. -/
theorem Thread.readG_writeG (t : Thread) (d r : BitVec 5) (v : Word) : (t.writeG d v).readG r = if r = 0 then 0 else if r = d then v else t.readG r := by
  split
  · next hr => rw [hr, Thread.readG, if_pos rfl]
  · next hr =>
    split
    · next hd => subst hd; exact Thread.readG_writeG_same t r v hr
    · next hd => exact Thread.readG_writeG_other t d r v hd

/-- A write of a general register changes nothing else of a thread. -/
theorem Thread.writeG_eq (t : Thread) (d : BitVec 5) (v : Word) : t.writeG d v = { t with g := (t.writeG d v).g } := by
  unfold Thread.writeG; split <;> rfl

theorem State.setV_rim {s : State} (h : s.cur.place.rim = true) (d : BitVec 5) (x : VReg) :
    s.setV d x = s.modCoreAt s.cur.place fun c => { c with rv := c.rv.set d.toNat x d.isLt } := by simp [State.setV, h]
theorem State.setV_bed {s : State} (h : s.cur.place.rim = false) (d : BitVec 5) (x : VReg) :
    s.setV d x = s.modTh fun t => { t with v := t.v.set d.toNat x d.isLt } := by simp [State.setV, h]
theorem State.setM_rim {s : State} (h : s.cur.place.rim = true) {d : BitVec 3} (hd : d ≠ 0) (x : Word) :
    s.setM d x = s.modCoreAt s.cur.place fun c => { c with rm := c.rm.set d.toNat x d.isLt } := by
  unfold State.setM; rw [if_neg hd, if_pos h]
theorem State.setM_bed {s : State} (h : s.cur.place.rim = false) {d : BitVec 3} (hd : d ≠ 0) (x : Word) :
    s.setM d x = s.modTh fun t => { t with m := t.m.set d.toNat x d.isLt } := by
  unfold State.setM; rw [if_neg hd, if_neg (by simp [h])]

/-- The vector set that the word reads: the core's on a rim core, else the thread's (R214). -/
theorem State.opV_rim {s : State} (hl : s.cur.half ≠ .a) (h : s.cur.place.rim = true) (r : BitVec 5) :
    s.opV r = (s.coreAt s.cur.place).rv[r.toNat]'r.isLt := by simp [State.opV, h, hl]
theorem State.opV_bed {s : State} (hl : s.cur.half ≠ .a) (h : s.cur.place.rim = false) (r : BitVec 5) :
    s.opV r = s.here.th.v[r.toNat]'r.isLt := by simp [State.opV, h, State.opTh_lone hl]
theorem State.opM_rim {s : State} (hl : s.cur.half ≠ .a) (h : s.cur.place.rim = true) {r : BitVec 3} (hr : r ≠ 0) :
    s.opM r = (s.coreAt s.cur.place).rm[r.toNat]'r.isLt := by
  unfold State.opM; rw [if_neg hr, if_pos ⟨h, hl⟩]
theorem State.opM_bed {s : State} (hl : s.cur.half ≠ .a) (h : s.cur.place.rim = false) {r : BitVec 3} (hr : r ≠ 0) :
    s.opM r = s.here.th.m[r.toNat]'r.isLt := by
  unfold State.opM; rw [if_neg hr, if_neg (by simp [h])]; simp [State.opTh_lone hl]

/-- A read of one register after a write of one, of a set indexed by a register field. -/
theorem getElem_set_reg {α : Type} {n w : Nat} (l : Vector α n) (d r : BitVec w) (x : α) (hd : d.toNat < n) (hr : r.toNat < n) :
    (l.set d.toNat x hd)[r.toNat] = if r = d then x else l[r.toNat] := by
  simp only [Vector.getElem_set, BitVec.toNat_inj, eq_comm (a := d)]

/-! ### Reads after writes -/

theorem State.opG_setG {s : State} (hl : s.cur.half ≠ .a) (d r : BitVec 5) (v : Word) :
    (s.setG d v).opG r = if r = 0 then 0 else if r = d then v else s.opG r := by
  have hl' : (s.setG d v).cur.half ≠ .a := hl
  rw [State.opG, State.opG, State.opTh_lone hl', State.opTh_lone hl, State.setG, State.here_modTh, Thread.readG_writeG]

theorem State.opV_setV {s : State} (hl : s.cur.half ≠ .a) (d r : BitVec 5) (x : VReg) : (s.setV d x).opV r = if r = d then x else s.opV r := by
  cases h : s.cur.place.rim with
  | true =>
    rw [State.setV_rim h, State.opV_rim hl h]
    refine (State.opV_rim (s := s.modCoreAt s.cur.place _) hl h r).trans ?_
    exact (congrArg (fun c : Core => c.rv[r.toNat]) (State.coreAt_modCoreAt _ _ _)).trans (getElem_set_reg _ d r x d.isLt r.isLt)
  | false =>
    rw [State.setV_bed h, State.opV_bed hl h]
    refine (State.opV_bed (s := s.modTh _) hl h r).trans ?_
    exact (congrArg (fun x : Slot => x.th.v[r.toNat]) (State.here_modTh _ _)).trans (getElem_set_reg _ d r x d.isLt r.isLt)

theorem State.opM_setM {s : State} (hl : s.cur.half ≠ .a) (d r : BitVec 3) (x : Word) :
    (s.setM d x).opM r = if r = 0 then BitVec.allOnes 64 else if r = d then x else s.opM r := by
  by_cases hr : r = 0
  · simp [hr, State.opM]
  rw [if_neg hr]
  by_cases hd : d = 0
  · rw [if_neg (fun e => hr (e.trans hd)), State.setM, if_pos hd]
  cases h : s.cur.place.rim with
  | true =>
    rw [State.setM_rim h hd, State.opM_rim hl h hr]
    refine (State.opM_rim (s := s.modCoreAt s.cur.place _) hl h hr).trans ?_
    exact (congrArg (fun c : Core => c.rm[r.toNat]) (State.coreAt_modCoreAt _ _ _)).trans (getElem_set_reg _ d r x d.isLt r.isLt)
  | false =>
    rw [State.setM_bed h hd, State.opM_bed hl h hr]
    refine (State.opM_bed (s := s.modTh _) hl h hr).trans ?_
    exact (congrArg (fun x : Slot => x.th.m[r.toNat]) (State.here_modTh _ _)).trans (getElem_set_reg _ d r x d.isLt r.isLt)

theorem State.here_setG (s : State) (d : BitVec 5) (v : Word) :
    (s.setG d v).here = { s.here with th := { s.here.th with g := (s.setG d v).here.th.g } } := by
  rw [State.setG, State.here_modTh, ← Thread.writeG_eq]

theorem State.here_setV_bed {s : State} (h : s.cur.place.rim = false) (d : BitVec 5) (x : VReg) :
    (s.setV d x).here = { s.here with th := { s.here.th with v := (s.setV d x).here.th.v } } := by
  rw [State.setV_bed h, State.here_modTh]

theorem State.setV_slots_rim {s : State} (h : s.cur.place.rim = true) (d : BitVec 5) (x : VReg) : (s.setV d x).slots = s.slots := by
  rw [State.setV_rim h]; rfl

theorem State.setV_mem (s : State) (d : BitVec 5) (x : VReg) : (s.setV d x).mem = s.mem := by
  unfold State.setV; split <;> rfl

/-- The operands of a pair's second word, before and after a write (R284). -/
theorem State.opG_second {s : State} {t : Thread} (h : s.cur.half = .a) (ht : s.cur.snap = some t) (r : BitVec 5) : s.opG r = t.readG r := by
  rw [State.opG, State.opTh_second h ht]

/-- Settles O49: registers by cases on where the word's set stands, memory by what a write at the home leaves. -/
theorem stateAccess : Obligations.StateAccess := by
  unfold Obligations.StateAccess
  refine ⟨fun s d r e m v x => ?_, fun s w k bs hw => ?_⟩
  · exact ⟨fun hl => State.opG_setG hl d r v, fun hl => State.opV_setV hl d r x, fun hl => State.opM_setM hl e m v, s.here_setG d v,
      fun h => State.here_setV_bed h d x, fun h => State.setV_slots_rim h d x, rfl, s.setV_mem d x, rfl,
      fun t h ht => ⟨State.opG_second h ht r, State.opG_second (s := s.setG d v) h ht r⟩⟩
  · obtain ⟨hwf, hother⟩ := s.put_other w k bs
    refine ⟨hwf hw, fun he => ?_, hother, s.put_sameThreads w k bs⟩
    rw [s.put_mem w k bs he, memGetMany_memSetMany s.mem k bs hw]

end Sys2Proof.Machine
end

section
/-! PROOFS. A write at the home where no word holds a soft error: memory and the records of the write change, nothing else; the bytes of a write to a core's memory. -/

namespace Sys2Proof.Machine

/-- A state with memory and the records of writes changed, and nothing else: what is pending and released (R197, R200), whose reservations end and who is woken
(R92, R207, R326, R327). -/
def Puts (s t : State) : Prop :=
  ∃ mem lag slots waiters writes rels, t = { s with mem := mem, lag := lag, slots := slots, waiters := waiters, writes := writes, rels := rels }

theorem Puts.refl (s : State) : Puts s s := ⟨_, _, _, _, _, _, rfl⟩

theorem Puts.trans {s t u : State} (h : Puts s t) (h' : Puts t u) : Puts s u := by
  obtain ⟨_, _, _, _, _, _, rfl⟩ := h
  obtain ⟨_, _, _, _, _, _, rfl⟩ := h'
  exact ⟨_, _, _, _, _, _, rfl⟩

theorem Puts.errs {s t : State} (h : Puts s t) : t.errs = s.errs := by obtain ⟨_, _, _, _, _, _, rfl⟩ := h; rfl
theorem Puts.cores {s t : State} (h : Puts s t) : t.cores = s.cores := by obtain ⟨_, _, _, _, _, _, rfl⟩ := h; rfl
theorem Puts.rims {s t : State} (h : Puts s t) : t.rims = s.rims := by obtain ⟨_, _, _, _, _, _, rfl⟩ := h; rfl
theorem Puts.xstores {s t : State} (h : Puts s t) : t.xstores = s.xstores := by obtain ⟨_, _, _, _, _, _, rfl⟩ := h; rfl

theorem putWord_puts {s : State} (h : s.errs = []) (p : Path) (k : Nat) (bs : List Byte) : Puts s (putWord s p k bs) := by
  simp only [putWord, errOf_noErrs s k h, correct_noErrs s k _ h]
  exact List.foldlRecOn (motive := Puts s) _ _ (.refl s) fun _ ht _ _ => ht.trans ⟨_, _, _, _, _, _, rfl⟩

theorem putWords_puts (p : Path) (f : Nat) {s : State} (h : s.errs = []) (k : Nat) (bs : List Byte) : Puts s (putWords s p f k bs) := by
  induction f generalizing s k bs with
  | zero => exact .refl s
  | succ f ih =>
    rw [putWords]
    split
    · exact .refl s
    · have h1 := putWord_puts h p k (bs.take (8 - k % 8))
      exact h1.trans (ih (h1.errs.trans h) _ _)

theorem State.written_puts (t : State) (p : Path) (k n : Nat) : Puts t (t.written p k n) := by
  have hw : Puts t (wakeWords (endResv t k n) k n) :=
    List.foldlRecOn (motive := Puts t) _ _ ⟨_, _, _, _, _, _, rfl⟩ fun _ h _ _ => h.trans ⟨_, _, _, _, _, _, rfl⟩
  have hr : ∀ u : State, Puts u (wakeRoute u k) := fun u => by
    unfold wakeRoute
    split
    · exact .refl u
    · split <;> exact ⟨_, _, _, _, _, _, rfl⟩
  have hs : ∀ u : State, Puts u (releaseStore u k n) := fun u => by unfold releaseStore; split <;> exact ⟨_, _, _, _, _, _, rfl⟩
  have h := hw.trans (hr _)
  unfold State.written
  dsimp only
  split
  · exact (h.trans ⟨_, _, _, _, _, _, rfl⟩).trans (hs _)
  · exact h.trans ⟨_, _, _, _, _, _, rfl⟩

theorem State.put_puts {s : State} (h : s.errs = []) (p : Path) (k : Nat) (bs : List Byte) : Puts s (s.put p k bs) := by
  by_cases hb : bs = []
  · subst hb; exact .refl s
  · rw [s.put_eq p k bs hb, heal_noErrs s k _ h]
    exact (putWords_puts p _ h k bs).trans (State.written_puts _ p k _)

/-- One piece of a write to a core's memory: its offset and length in the bytes written (R41). -/
def State.putPiece (t : State) (q : Path) (k : Nat) (bs : List Byte) (pc : Nat × Nat) : State := t.put q (k + pc.1) ((bs.drop pc.1).take pc.2)

/-- The first pieces of 16 bytes of a write leave the first bytes. -/
theorem putPieces_mem {s : State} (h : s.errs = []) (q : Path) (k : Nat) (bs : List Byte) (j : Nat) :
    Puts s (((List.range j).map fun i => (16 * i, min 16 (bs.length - 16 * i))).foldl (fun t pc => t.putPiece q k bs pc) s) ∧
    (((List.range j).map fun i => (16 * i, min 16 (bs.length - 16 * i))).foldl (fun t pc => t.putPiece q k bs pc) s).mem = memSetMany s.mem k (bs.take (16 * j)) := by
  induction j with
  | zero => exact ⟨.refl s, by simp [memSetMany]⟩
  | succ j ih =>
    obtain ⟨hp, hm⟩ := ih
    have he := hp.errs.trans h
    rw [List.range_succ, List.map_append, List.foldl_append]
    simp only [List.map_cons, List.map_nil, List.foldl_cons, List.foldl_nil]
    refine ⟨hp.trans (State.put_puts he q _ _), ?_⟩
    rw [State.putPiece, State.put_mem _ q _ _ he, hm, show 16 * (j + 1) = 16 * j + 16 by omega, List.take_add, memSetMany_append]
    by_cases hj : 16 * j ≤ bs.length
    · rw [List.length_take, Nat.min_eq_left hj, ← List.length_drop, ← List.take_eq_take_min]
    · rw [List.drop_of_length_le (by omega), List.take_nil, List.take_nil]; rfl

/-- A write to a core's memory is the write of its pieces. -/
theorem writeAt_core_eq {s : State} (h : s.errs = []) (unit u c w off : Nat) (q : Path) (bs : List Byte) :
    writeAt s unit q (.core u c w off) bs = (piecesOf bs.length).foldl (fun t pc => t.putPiece q (coreKey u c off) bs pc) s := by
  unfold writeAt
  rw [if_neg (by simp [Rng.isCtl])]
  simp only [State.keyOf, heal_noErrs s _ _ h, Rng.add_core, coreKey_add, State.putPiece]

/-- A write to a core's memory leaves its bytes there. -/
theorem writeAt_core {s : State} (h : s.errs = []) (unit u c w off : Nat) (q : Path) (bs : List Byte) :
    Puts s (writeAt s unit q (.core u c w off) bs) ∧ (writeAt s unit q (.core u c w off) bs).mem = memSetMany s.mem (coreKey u c off) bs := by
  have hk := putPieces_mem h q (coreKey u c off) bs ((bs.length + 15) / 16)
  rw [List.take_of_length_le (by omega)] at hk
  rwa [writeAt_core_eq h]

end Sys2Proof.Machine
end

section
/-! PROOFS. What memory and the timers do between instructions, step by step. -/

namespace Sys2Proof.Machine

/-! ### Waking -/

/-- A slot that still waits after a waking is one the waking does not name. -/
theorem wakeIf_wait {s : State} {f : Nat → Wait → Bool} {p : Place} {w : Wait} (h : ((wakeIf s f).slot p).wait = some w) : f (slotKey p) w = false := by
  have hs : (wakeIf s f).slot p = ((Tbl.look s.slots (slotKey p)).map fun x => match x.wait with
      | some v => if f (slotKey p) v then x.wake else x
      | none => x).getD Slot.empty := by
    unfold State.slot wakeIf Tbl.get
    rw [Tbl.look_map _ (fun e => by split <;> [(split <;> rfl); rfl])]
    cases Tbl.look s.slots (slotKey p) with
    | none => rfl
    | some x =>
      simp only [Option.map_some, Option.getD_some]
      cases x.wait with
      | none => rfl
      | some v => simp only; split <;> rfl
  rw [hs] at h
  cases hx : Tbl.look s.slots (slotKey p) with
  | none => simp [hx, Slot.empty] at h
  | some x =>
    simp only [hx, Option.map_some, Option.getD_some] at h
    cases hw : x.wait with
    | none => simp [hw] at h
    | some v =>
      simp only [hw] at h
      split at h
      · simp [Slot.wake] at h
      · next hf => rw [hw] at h; cases h; simpa using hf

@[simp] theorem wakeCore_mem (s : State) (u c : Nat) (f : Wait → Bool) : (wakeCore s u c f).mem = s.mem := rfl
@[simp] theorem wakeCore_core (s : State) (u c u' c' : Nat) (f : Wait → Bool) : (wakeCore s u c f).core u' c' = s.core u' c' := rfl

/-! ### Store buffer, code table and instruction cache -/

/-- No store below the system area waits for the code table (R54, R55). -/
theorem tableHeld_own (s : State) (u c w off n : Nat) (h : off + n ≤ sysOff u) : tableHeld s (.core u c w off) n = false := by
  unfold tableHeld
  unfold sysOff at h
  split at h
  · simp [show ¬(off < 0xFCC10 ∧ 0xFC800 < off + n) by omega]
  · next hu => simp [hu]

theorem relHeld_first (s : State) (p : Place) (e : SbEntry) : relHeld s p e [] = false := by unfold relHeld; split <;> rfl

theorem State.core_maker (s : State) (m : Maker) (u c : Nat) : ({ s with maker := m } : State).core u c = s.core u c := rfl

/-- The state in which a core's oldest buffered store is written: it has left the buffer, and its thread makes the write (R192, R201). -/
def State.unbuffered (s : State) (e : SbEntry) : State :=
  ({ s with maker := .thread (s.slot ⟨s.arg.unit, s.arg.core, e.slot⟩).name.toNat } : State).modCore s.arg.unit s.arg.core fun c =>
    { c with sbuf := c.sbuf.eraseIdx 0 }

theorem State.unbuffered_sbuf (s : State) (e : SbEntry) :
    ((s.unbuffered e).core s.arg.unit s.arg.core).sbuf = (s.core s.arg.unit s.arg.core).sbuf.eraseIdx 0 := by
  rw [State.unbuffered, State.core_modCore]; rfl

/-- The oldest buffered store of the own core, whole, reaches its memory and leaves the buffer (R192). -/
theorem storeBufferDrain_own {s : State} {e : SbEntry} {rest : List SbEntry} {off w : Nat} (he : s.errs = [])
    (hb : (s.core s.arg.unit s.arg.core).sbuf = e :: rest) (hn : e.sent = none) (hr : e.rng = .core s.arg.unit s.arg.core w off)
    (ho : off + e.bytes.length ≤ sysOff s.arg.unit) (hc : (s.core s.arg.unit s.arg.core).ctBusy = none) (hf : s.arg.flag = false) (hg : e.gone = 0) :
    Acts .storeBufferDrain s fun t => t.mem = memSetMany s.mem (coreKey s.arg.unit s.arg.core off) e.bytes ∧ (t.core s.arg.unit s.arg.core).sbuf = rest := by
  have hx : execStoreBufferDrain s =
      .next (wakeCore (writeAt (s.unbuffered e) s.arg.unit .ls e.rng e.bytes) s.arg.unit s.arg.core fun w => w == .drain) := by
    unfold execStoreBufferDrain
    simp only [hb, List.findIdx?_cons, hn, Option.isNone_none, if_true, List.getElem?_cons_zero, List.take_zero]
    rw [if_neg (by rw [relHeld_first, State.core_maker, hc]; simp), if_pos (by simp [hr, ownRange]),
      if_neg (by rw [hr, tableHeld_own _ _ _ _ _ _ ho]; simp)]
    simp only [hf, writeRest, hg]
    rfl
  obtain ⟨hp, hm⟩ := writeAt_core (s := s.unbuffered e) he s.arg.unit s.arg.unit s.arg.core w off .ls e.bytes
  refine ⟨_, (exec_storeBufferDrain s).trans hx, ?_, ?_⟩
  · rw [wakeCore_mem, hr, hm]; rfl
  · have hbuf := s.unbuffered_sbuf e
    rw [hb] at hbuf
    rw [wakeCore_core, hr, State.core, hp.cores]
    exact hbuf

/-- A refill of the code table writes the defaults of its kind into its entries, and nothing before them (R54). -/
theorem refillTable_mem {s : State} (he : s.errs = []) (hw : Memory.wf s.mem = true) (u c kind n pos : Nat) :
    (∀ j, j < coreKey u c 0 + 0xFC800 + 4 * pos → memGet (refillTable s u c kind n pos).mem j = memGet s.mem j) ∧
    ∀ j, pos ≤ j → j < pos + n → memGetMany (refillTable s u c kind n pos).mem (coreKey u c (0xFC800 + 4 * j)) 4 = bytesOf 4 (defaultCode kind j) := by
  induction n generalizing s pos with
  | zero => exact ⟨fun _ _ => rfl, fun j h1 h2 => by omega⟩
  | succ n ih =>
    have hk : ∀ i, coreKey u c (0xFC800 + 4 * i) = coreKey u c 0 + 0xFC800 + 4 * i := fun i => by unfold coreKey; split <;> omega
    let t := s.put .ls (coreKey u c (0xFC800 + 4 * pos)) (bytesOf 4 (defaultCode kind pos))
    have hm : t.mem = memSetMany s.mem _ _ := s.put_mem .ls (coreKey u c (0xFC800 + 4 * pos)) (bytesOf 4 (defaultCode kind pos)) he
    obtain ⟨h2, h3⟩ := ih (s := t) ((State.put_puts he _ _ _).errs.trans he) (s.put_wf _ _ _ he hw) (pos + 1)
    refine ⟨fun j hj => ?_, fun j hj hn => ?_⟩
    · rw [refillTable, h2 j (by omega), hm, memGet_memSetMany_other _ _ _ _ (by rw [hk]; omega)]
    · rcases Nat.eq_or_lt_of_le hj with rfl | hlt
      · have hb : (bytesOf 4 (defaultCode kind pos)).length = 4 := length_bytesOf _ _
        have ht : memGetMany (refillTable t u c kind n (pos + 1)).mem (coreKey u c (0xFC800 + 4 * pos)) 4 = memGetMany t.mem (coreKey u c (0xFC800 + 4 * pos)) 4 :=
          List.map_congr_left fun i hi => h2 _ (by have := List.mem_range.1 hi; rw [hk]; omega)
        have hs := memGetMany_memSetMany s.mem (coreKey u c (0xFC800 + 4 * pos)) (bytesOf 4 (defaultCode kind pos)) hw
        rw [hb, ← hm] at hs
        exact ht.trans hs
      · rw [refillTable]; exact h3 j hlt (by omega)

/-- The rest of a refill is written in one step, and BUSY clears (R54). -/
theorem ctloadRefillComplete_rest {s : State} {kind pos : Nat} (he : s.errs = []) (hw : Memory.wf s.mem = true)
    (hc : (s.core s.arg.unit s.arg.core).ctBusy = some (kind, pos)) (hp : pos ≤ 256) (hr : (s.core s.arg.unit s.arg.core).mx.reading = false)
    (ha : s.arg.aux = 0) :
    Acts .ctloadRefillComplete s fun t => (t.core s.arg.unit s.arg.core).ctBusy = none ∧
      ∀ j, pos ≤ j → j < 256 → memGetMany t.mem (coreKey s.arg.unit s.arg.core (0xFC800 + 4 * j)) 4 = bytesOf 4 (defaultCode kind j) := by
  obtain ⟨-, h3⟩ := refillTable_mem he hw s.arg.unit s.arg.core kind (256 - pos) pos
  have hx : execCtloadRefillComplete s = .next (wakeCore ((refillTable s s.arg.unit s.arg.core kind (256 - pos) pos).modCore s.arg.unit s.arg.core fun x =>
      { x with ctBusy := if pos + (256 - pos) < 256 then some (kind, pos + (256 - pos)) else none }) s.arg.unit s.arg.core
        fun w => w == .queue || w == .matrix) := by
    simp only [execCtloadRefillComplete, hc, hr, ha, if_true, Bool.false_eq_true, if_false]
  refine ⟨_, (exec_ctloadRefillComplete s).trans hx, ?_, fun j h1 h2 => h3 j h1 (by omega)⟩
  rw [wakeCore_core, State.core_modCore, if_neg (by omega)]

theorem fillLine_look (s : State) (u c line : Nat) (bs : List Byte) : Tbl.look ((fillLine s u c line bs).core u c).icache line = some bs := by
  unfold fillLine
  dsimp only
  split
  · rw [State.core_modCore, Tbl.look_set_same]
  · simp only [State.core, State.modCore, State.setCore, Tbl.get_set_same, Tbl.look_set_same]

theorem fillLine_mem (s : State) (u c line : Nat) (bs : List Byte) : (fillLine s u c line bs).mem = s.mem := by
  unfold fillLine; dsimp only; split <;> rfl
theorem fillLine_pkts (s : State) (u c line : Nat) (bs : List Byte) : (fillLine s u c line bs).pkts = s.pkts := by
  unfold fillLine; dsimp only; split <;> rfl

/-- The answer to a refill fills its line (R58). -/
theorem icacheRefill_fills {s : State} {q : Pkt} {bs : List Byte} (hf : s.arg.flag = false) (hq : Back s q) (hk : q.kind = 0x19)
    (hl : q.req.2.2 = .load 64 true) (hg : q.gone = 0) (hb : q.body = .data bs) :
    Acts .icacheRefill s fun t => t.pkts = s.pkts.eraseIdx s.arg.index ∧
      Tbl.look (t.core q.place.unit q.place.core).icache (locKey q.rng / 64) = some bs ∧ t.mem = s.mem := by
  obtain ⟨hi, hr, hd⟩ := hq
  have hx : execIcacheRefill s = .next (wakeCore (fillLine (dropPkt s s.arg.index) q.place.unit q.place.core (locKey q.rng / 64) bs)
      q.place.unit q.place.core fun w => w == .refill (locKey q.rng / 64)) := by
    simp [execIcacheRefill, hf, hi, hr, hd, hk, hl, hg, hb]
  exact ⟨_, (exec_icacheRefill s).trans hx, fillLine_pkts _ _ _ _ _, fillLine_look _ _ _ _ _, fillLine_mem _ _ _ _ _⟩

/-! ### Soft errors -/

/-- The first byte under a code has its code's length (R61, R186). -/
theorem codeLen_codeBase (k : Nat) : codeLen (codeBase k) = codeLen k := by
  unfold codeBase codeLen isHbm
  simp only [Bool.and_eq_true, decide_eq_true_eq]
  by_cases h : 2 ^ 48 ≤ k ∧ k < 0x1F * 2 ^ 44
  · rw [if_pos h, if_pos (by omega)]
  · rw [if_neg h, if_neg (by omega)]

theorem codeBase_covers (k : Nat) : codeBase k ≤ k ∧ k < codeBase k + codeLen k := by
  have h : 0 < codeLen k := by unfold codeLen; split <;> omega
  have := Nat.div_add_mod k (codeLen k)
  have := Nat.mod_lt k h
  unfold codeBase
  rw [Nat.mul_comm]
  omega

/-- Correcting words leaves the errors of every other word. -/
theorem correctEach_errs (l : List (Nat × Option Nat)) (s : State) :
    (l.foldl (fun t e => clearErr (countErr t e.1 false) e.1) s).errs = s.errs.filter fun e => l.all fun x => e.1 != x.1 := by
  induction l generalizing s with
  | nil => simp
  | cons x r ih =>
    rw [List.foldl_cons, ih]
    simp only [clearErr, countErr_errs, List.filter_filter, List.all_cons, Bool.and_comm]

theorem correct_mem (s : State) (k n : Nat) : (correct s k n).mem = s.mem :=
  List.foldlRecOn (motive := fun t : State => t.mem = s.mem) _ _ rfl fun t h e _ => (countErr_mem t e.1 false).trans h

/-- An error that is met and can be corrected is gone (R62). -/
theorem errOf_correct {s : State} {k n : Nat} (hn : 0 < n) {b : Nat} (h : errOf s k = some (some b)) : errOf (correct s k n) k = none := by
  obtain ⟨e, he, hb⟩ : ∃ e, s.errs.find? (fun e => e.1 == codeBase k) = some e ∧ e.2 = some b := by
    simpa [errOf, Option.map_eq_some_iff] using h
  have hk : e.1 = codeBase k := by simpa using List.find?_some he
  obtain ⟨h1, h2⟩ := codeBase_covers k
  have hin : e ∈ (errsIn s k n).filter fun e => e.2.isSome := by
    refine List.mem_filter.2 ⟨List.mem_filter.2 ⟨List.mem_of_find?_eq_some he, ?_⟩, by simp [hb]⟩
    rw [hk, codeLen_codeBase, decide_eq_true_eq]; omega
  simp only [errOf, Option.map_eq_none_iff, List.find?_eq_none, correct, correctEach_errs]
  intro x hx
  have := List.all_eq_true.1 (List.mem_filter.1 hx).2 e hin
  rw [hk] at this
  simpa using this

/-- The scrubber corrects a single-bit error (R62, R64). -/
theorem scrubRead_corrects {s : State} {n : Nat} (h : errOf s (s.arg.index / 8 * 8) = some (some n)) :
    Acts .scrubRead s fun t => errOf t (s.arg.index / 8 * 8) = none ∧ t.mem = s.mem := by
  have hx : execScrubRead s = .next (correct s (s.arg.index / 8 * 8) 8) := by simp only [execScrubRead, h]
  exact ⟨_, (exec_scrubRead s).trans hx, errOf_correct (by omega) h, correct_mem _ _ _⟩

/-- The scrubber reports an uncorrectable word and leaves it (R63, R64). -/
theorem scrubRead_reports {s : State} (h : errOf s (s.arg.index / 8 * 8) = some none) : Acts .scrubRead s fun t => t.errs = s.errs ∧ t.mem = s.mem := by
  have hx : execScrubRead s = .next (meetBad s (s.arg.index / 8 * 8)) := by simp only [execScrubRead, h]
  exact ⟨_, (exec_scrubRead s).trans hx, meetBad_errs _ _, meetBad_mem _ _⟩

/-- A flip of a word's tag or check bits alone is one correctable error of its code (R61). -/
theorem softError_marks {s : State} (h2 : s.arg.flag2 = false) (hb : isBedCore s.arg.index = true) (hh : isHbm s.arg.index = false)
    (hk : s.arg.index % 2 ^ 24 < 2 ^ 20) (he : s.errs = []) (hf : s.arg.flag = true) (hv : s.arg.v = 0) :
    exec .softError s = .next { s with errs := [(s.arg.index / 8 * 8, some 64)] } := by
  have hw : errorWeight false 0 = 0 := by decide
  have hs : storageKey s.arg.index = true := by simp [storageKey, hh, hb]; omega
  have hc : codeBase s.arg.index = s.arg.index / 8 * 8 := by simp [codeBase, codeLen, hh]
  have hx : errorHit s.arg.index 0 true = some 64 := by simp only [errorHit, hh, hw]; rfl
  rw [exec_softError]
  simp only [execSoftError, h2, hf, hv, hh, hw, hs, hx]
  simp [b2n, addError, clearErr, he, hc]

/-! ### Writes that become performed for a path -/

theorem performFor_lag (s : State) (f : Lag → Bool) : ∀ l ∈ (performFor s f).lag, f l = false := by
  intro l hl
  unfold performFor at hl
  split at hl
  · obtain ⟨hm, hn⟩ := List.mem_filter.1 hl
    simp only [Bool.not_eq_true', List.any_eq_false] at hn
    simpa using hn l hm
  · next h => simp only [Bool.not_eq_true, List.any_eq_false] at h; simpa using h l hl

theorem performFor_mem (s : State) (f : Lag → Bool) : (performFor s f).mem = s.mem := by unfold performFor; split <;> rfl

/-- A state with its cores and slots changed, and nothing else. -/
def CoresSlots (s t : State) : Prop := ∃ cores slots, t = { s with cores := cores, slots := slots }

theorem CoresSlots.refl (s : State) : CoresSlots s s := ⟨_, _, rfl⟩

theorem CoresSlots.trans {s t u : State} (h : CoresSlots s t) (h' : CoresSlots t u) : CoresSlots s u := by
  obtain ⟨_, _, rfl⟩ := h
  obtain ⟨_, _, rfl⟩ := h'
  exact ⟨_, _, rfl⟩

theorem CoresSlots.foldl {β : Type} {f : State → β → State} (h : ∀ u x, CoresSlots u (f u x)) (l : List β) (s : State) : CoresSlots s (l.foldl f s) :=
  List.foldlRecOn (motive := CoresSlots s) l f (.refl s) fun u hu x _ => hu.trans (h u x)

theorem wakeMatrix_coresSlots (s : State) (u c : Nat) : CoresSlots s (wakeMatrix s u c) := by
  have h : CoresSlots s (claimRemote s u c) := by
    unfold claimRemote
    dsimp only
    split
    · split <;> exact ⟨_, _, rfl⟩
    · exact .refl s
  exact h.trans ⟨_, _, rfl⟩

theorem feedRings_coresSlots (s : State) (u c : Nat) : CoresSlots s (feedRings s u c) := by
  unfold feedRings
  extract_lets _ _ rs
  split
  · exact .refl s
  · exact CoresSlots.trans ⟨_, _, rfl⟩ (wakeMatrix_coresSlots _ u c)

theorem pathOf_getElem? {n : Nat} (h : n < 7) : ([.ls, .ce, .mx, .se, .ge, .xp, .hp] : List Path)[n]? = some (pathOf n) := by
  rw [pathOf, List.getD_eq_getElem?_getD, List.getElem?_eq_getElem (by simpa using h)]; rfl

/-- The pending writes that PERFORMED_FOR_PATH names: of the writer and reader paths of its arguments, all or the one numbered (R200). -/
def State.namedWrite (s : State) (l : Lag) : Bool :=
  l.writer == pathOf s.arg.unit && l.reader == pathOf s.arg.core && (!s.arg.flag || l.id == s.arg.index)

/-- All pending writes of one path become performed for another (R200). -/
theorem performedForPath_performs {s : State} (hu : s.arg.unit < 7) (hc : s.arg.core < 7) (hf : s.arg.flag = false) :
    Acts .performedForPath s fun t => (∀ l ∈ t.lag, ¬ (l.writer = pathOf s.arg.unit ∧ l.reader = pathOf s.arg.core)) ∧ t.mem = s.mem := by
  have hx : execPerformedForPath s = .next (wakeDrains ((performFor s s.namedWrite).cores.foldl (fun t e => feedRings t (e.1 / 128) (e.1 % 128))
      (performFor s s.namedWrite))) := by
    simp only [execPerformedForPath, pathOf_getElem? hu, pathOf_getElem? hc]; rfl
  obtain ⟨_, _, h⟩ := CoresSlots.foldl (fun t (e : Nat × Core) => feedRings_coresSlots t (e.1 / 128) (e.1 % 128)) (performFor s s.namedWrite).cores
    (performFor s s.namedWrite)
  refine ⟨_, (exec_performedForPath s).trans hx, fun l hl => ?_, ?_⟩
  · rw [h] at hl
    have := performFor_lag s s.namedWrite l hl
    rintro ⟨h1, h2⟩
    simp [State.namedWrite, h1, h2, hf] at this
  · rw [h]; exact performFor_mem s _

/-! ### Exchange stores -/

/-- A store that meets no other access of its bank reaches it whole (R96, R204). -/
theorem exchangeStoreArrival_lands {s : State} {x : XStore} (hx : s.xstores = [x]) (hi : s.arg.index = 0) (hd : downLink s x = none)
    (hs : storeDue s x = true) (hl : localMeets s x = []) (hf : s.arg.flag = false) (he : s.errs = []) :
    Acts .exchangeStoreArrival s fun t => t.xstores = [] ∧ t.mem = memSetMany s.mem (coreKey x.unit x.core x.off) (bytesOf 8 x.data.toNat) := by
  have hr : execExchangeStoreArrival s = .next (landStore { s with xstores := [] } x false) := by
    unfold execExchangeStoreArrival
    simp only [hx, hi, List.getElem?_cons_zero, hd, hs, hl, hf, Bool.true_eq_false, if_false, Bool.false_and, List.append_nil, List.length_map, List.eraseIdx_cons_zero]
    rw [if_pos (Nat.lt_of_le_of_lt (List.length_filter_le _ _) (by simp))]
  refine ⟨_, (exec_exchangeStoreArrival s).trans hr, ?_, ?_⟩
  · exact (State.put_puts (s := { s with xstores := [], maker := .thread (s.slot x.place).name.toNat }) he .xp _ _).xstores
  · exact State.put_mem { s with xstores := [], maker := .thread (s.slot x.place).name.toNat } .xp _ _ he

/-! ### The timestamp -/

/-- A state with its packets and the population engine's ranker changed, and nothing else. -/
def PktsRanker (s t : State) : Prop := ∃ pkts ranker, t = { s with pkts := pkts, ranker := ranker }

theorem captureMember_pktsRanker (s : State) (go : Go) (k : Nat) : PktsRanker s (captureMember s go k) := by
  unfold captureMember
  split
  · dsimp only; split <;> exact ⟨_, _, rfl⟩
  · exact ⟨_, _, rfl⟩

theorem captureDue_pktsRanker (s : State) : PktsRanker s (captureDue s) := by
  unfold captureDue
  dsimp only
  split
  · split
    · refine List.foldlRecOn (motive := PktsRanker s) _ _ ⟨_, _, rfl⟩ fun t ht k _ => ?_
      obtain ⟨_, _, rfl⟩ := ht
      obtain ⟨_, _, h⟩ := captureMember_pktsRanker { s with pkts := _, ranker := _ } _ k
      exact ⟨_, _, h⟩
    · exact ⟨_, _, rfl⟩
  · exact ⟨_, _, rfl⟩

theorem finishCoreBar_coresSlots (s : State) (u c n : Nat) : CoresSlots s (finishCoreBar s u c n) := by
  unfold finishCoreBar
  dsimp only
  split
  · split <;> exact ⟨_, _, rfl⟩
  · exact .refl s

theorem finishOwed_coresSlots (s : State) : CoresSlots s (finishOwed s) := by
  refine CoresSlots.foldl (fun u c => CoresSlots.foldl (fun v b => ?_) c.2.bars u) s.cores s
  split
  · exact finishCoreBar_coresSlots v _ _ _
  · exact .refl v

/-- Time passes, and no slot waits for it any longer (R6, R219). -/
theorem globalTimestampAdvance_passes {s : State} (h : s.ts.toNat + s.arg.index < 2 ^ 64) :
    Acts .globalTimestampAdvance s fun t => t.ts = s.ts + BitVec.ofNat 64 s.arg.index ∧ t.mem = s.mem ∧ ∀ p, (t.slot p).wait ≠ some .time := by
  obtain ⟨_, _, h1⟩ := captureDue_pktsRanker { s with ts := s.ts + BitVec.ofNat 64 s.arg.index }
  obtain ⟨_, _, h2⟩ := finishOwed_coresSlots (captureDue { s with ts := s.ts + BitVec.ofNat 64 s.arg.index })
  refine ⟨_, (exec_globalTimestampAdvance s).trans (by rw [execGlobalTimestampAdvance, if_neg (by omega)]), ?_, ?_, fun p hp => ?_⟩
  · rw [h2, h1]; rfl
  · rw [h2, h1]; rfl
  · simpa using wakeIf_wait hp

/-! ### Timers of waiting slots -/

theorem followJoinTimeout_leaves {s : State} (h : (s.slot s.argPlace).folState = 1) :
    Acts .followJoinTimeout s fun t => (t.slot s.argPlace).folState = 0 ∧ (t.slot s.argPlace).folReason = 6 := by
  refine ⟨_, (exec_followJoinTimeout s).trans (by rw [execFollowJoinTimeout, if_pos h]), ?_⟩
  simp [leaveFollow, h]

theorem yieldExpiry_wakes {s : State} (h : (s.slot s.argPlace).wait = some .yield) :
    Acts .yieldExpiry s fun t => (t.slot s.argPlace).wait = none ∧ (t.slot s.argPlace).th = (s.slot s.argPlace).th := by
  refine ⟨_, (exec_yieldExpiry s).trans (by rw [execYieldExpiry, if_pos h]), ?_⟩
  simp [Slot.wake]

/-- A slot that found the waiter table full looks again, and backs off further (R207). -/
theorem waiterPollTimer_future {s : State} {k : Nat} (h : (s.slot s.argPlace).wait = some (.future k)) (hr : registered s (slotKey s.argPlace) k = false) :
    Acts .waiterPollTimer s fun t => (t.slot s.argPlace).wait = none ∧
      (t.slot s.argPlace).backoff = (if (s.slot s.argPlace).backoff = 0 then 16 else min (2 * (s.slot s.argPlace).backoff) 4096) := by
  rw [Acts, exec_waiterPollTimer, execWaiterPollTimer]
  simp only [h, hr, Bool.false_eq_true, if_false]
  refine ⟨_, rfl, ?_⟩
  rw [State.slot_setSlot]
  exact ⟨rfl, rfl⟩

/-- A `wres` that found the waiter table full returns (R327). -/
theorem waiterPollTimer_reserve {s : State} {k : Nat} (h : (s.slot s.argPlace).wait = some (.reserve k)) (ht : (s.slot s.argPlace).resTurn = none)
    (hr : registered s (slotKey s.argPlace) k = false) :
    Acts .waiterPollTimer s fun t => (t.slot s.argPlace).wait = none ∧ (t.slot s.argPlace).resp = [.done] := by
  rw [Acts, exec_waiterPollTimer, execWaiterPollTimer]
  simp only [h, ht, hr, and_self, if_true]
  refine ⟨_, rfl, ?_⟩
  rw [State.slot_setSlot]
  exact ⟨rfl, rfl⟩

/-- The protection of a reservation ends (R328). -/
theorem reservationProtectExpiry_ends {s : State} {k : Nat} (h : (s.slot s.argPlace).resv = some k) :
    Acts .reservationProtectExpiry s fun t => (slotKey s.argPlace, k + 1) ∉ Tbl.get [] t.resvs (resBank k) := by
  rw [Acts, exec_reservationProtectExpiry, execReservationProtectExpiry]
  simp only [h]
  refine ⟨_, rfl, ?_⟩
  simp only [wakeIf, Tbl.get_set_same, List.mem_map, not_exists, not_and]
  rintro ⟨a, b⟩ - he
  split at he
  · simp at he
  · next hn => cases he; exact hn ⟨rfl, rfl⟩

/-- Settles O40: a lemma for each step. -/
theorem memorySteps : Obligations.MemorySteps := by
  unfold Obligations.MemorySteps
  intro s e rest q x off w key bs
  exact ⟨fun he hb hn hr ho hc hf hg => storeBufferDrain_own he hb hn hr ho hc hf hg,
    fun _ _ he hw hc hp hr ha _ _ => ctloadRefillComplete_rest he hw hc hp hr ha,
    fun hf hq hk hl hg hb => icacheRefill_fills hf hq hk hl hg hb,
    fun _ h => scrubRead_corrects h,
    scrubRead_reports,
    fun h2 hi hb hh hk he hf hv => by subst hi; exact softError_marks h2 hb hh hk he hf hv,
    fun _ _ hu hc ha hb hf => by subst ha hb; exact performedForPath_performs hu hc hf,
    exchangeStoreArrival_lands,
    globalTimestampAdvance_passes,
    followJoinTimeout_leaves,
    yieldExpiry_wakes,
    fun _ h hr => waiterPollTimer_future h hr,
    fun _ h ht hr => waiterPollTimer_reserve h ht hr,
    fun _ h => reservationProtectExpiry_ends h⟩

end Sys2Proof.Machine
end

section
/-! PROOFS. Stores to control registers that come as steps of their own, register by register. -/

namespace Sys2Proof.Machine

/-! ### Any other register (R10, R66, R467) -/

theorem registerWrite_ring {s : State} (h : s.arg.flag2 = true) : exec .registerWrite s = .next (ringWrite s s.arg.aux s.arg.v) := by
  rw [exec_registerWrite, execRegisterWrite, if_pos h]

/-- The management plane clears a vault's counts (R66). -/
theorem registerWrite_clearVecc {s : State} {b off : Nat} (h2 : s.arg.flag2 = false) (hf : s.arg.flag = true)
    (hr : decodeOutside (s.arg.index / 8 * 8) = .bedCtl b 3 off) (h1 : 0x100 ≤ off) (h3 : off < 0x180) (hv : s.arg.v = 0) :
    Acts .registerWrite s fun t => Tbl.get 0 (t.bed b).vce ((off - 0x100) / 8) = 0 ∧ Tbl.get 0 (t.bed b).vue ((off - 0x100) / 8) = 0 ∧ t.mem = s.mem := by
  have hx : execRegisterWrite s = .next (clearVecc s b ((off - 0x100) / 8)) := by
    unfold execRegisterWrite
    rw [if_neg (by simp [h2]), hr]
    simp only [hf, h1, h3, hv, and_self, if_true]
  refine ⟨_, (exec_registerWrite s).trans hx, ?_, ?_, rfl⟩ <;> simp [clearVecc]

/-- A register outside the launch, context and event control blocks takes the value as its access code says (R10). -/
theorem registerWrite_ctl {s : State} {r : Rng} (h2 : s.arg.flag2 = false) (hr : decodeOutside (s.arg.index / 8 * 8) = r)
    (hb : ∀ d k o, r = .bedCtl d k o → k ≠ 0 ∧ k ≠ 3) (hc : r.isCtl = true) (ht : tableHeld s r 8 = false) (ho : readOnlyStore ⟨31, 0, 0⟩ r = none) :
    exec .registerWrite s = .next (s.ctlWrite r s.arg.v) := by
  rw [exec_registerWrite]
  unfold execRegisterWrite
  rw [if_neg (by simp [h2]), hr]
  split
  · exact absurd rfl (hb _ _ _ rfl).2
  · exact absurd rfl (hb _ _ _ rfl).1
  · rw [if_pos ⟨ht, hc, by simp [ho]⟩]

/-- A bed's launch and context registers take it, unless it makes a context valid too early (R97, R471). -/
theorem registerWrite_bed {s : State} {b off : Nat} (h2 : s.arg.flag2 = false) (hr : decodeOutside (s.arg.index / 8 * 8) = .bedCtl b 0 off)
    (ho : off < 0x8000 ∨ ctxEarly s b s.arg.v = false) : exec .registerWrite s = .next (s.ctlWrite (.bedCtl b 0 off) s.arg.v) := by
  rw [exec_registerWrite]
  unfold execRegisterWrite
  rw [if_neg (by simp [h2]), hr]
  simp only [if_pos ho]

/-! ### The turn mask (R86, R87) -/

theorem turnmaskWrite_sets {s : State} (hw : s.boot.turnWritten = false) (hc : s.boot.ctxMade = false)
    (hs : ((List.range 4).all fun l => laneSafe ((turnFix s.arg.v).toNat / 2 ^ (16 * l) % 2 ^ 16)) = true) :
    Acts .turnmaskWrite s fun t => t.turnmask = turnFix s.arg.v ∧ t.boot.turnWritten = true := by
  have hx : execTurnmaskWrite s = .next { s with turnmask := turnFix s.arg.v, boot := { s.boot with turnWritten := true } } := by
    unfold execTurnmaskWrite turnmaskWrite
    rw [if_neg (by simp [hw, hc]), if_pos hs]
  exact ⟨_, (exec_turnmaskWrite s).trans hx, rfl, rfl⟩

theorem turnmaskWrite_refuses {s : State} (hw : s.boot.turnWritten = true) : Acts .turnmaskWrite s fun t => t.turnmask = s.turnmask := by
  have hx : execTurnmaskWrite s = .next s.refuse := by rw [execTurnmaskWrite, turnmaskWrite, if_pos (.inl hw)]
  exact ⟨_, (exec_turnmaskWrite s).trans hx, rfl⟩

/-! ### The region table (R22, R179, R183) -/

/-- What a write of an entry of a rim die's copy leaves of every copy. -/
theorem State.rimRegion_modRim {s : State} {u : Nat} {f : Rim → Rim} {n : Nat} {e : Region} (hf : (f (s.rim u)).regions = Tbl.set (s.rim u).regions n e) :
    (s.modRim u f).rimRegion u n = e ∧ ∀ d m, d ≠ u → (s.modRim u f).rimRegion d m = s.rimRegion d m := by
  refine ⟨by rw [State.rimRegion, State.rim_modRim, hf, Tbl.get_set_same], fun d m hd => ?_⟩
  rw [State.rimRegion, State.rimRegion, State.rim, State.modRim, State.setRim, Tbl.get_set_other _ _ _ _ _ hd]; rfl

/-- A store to word 0 is held until the store to word 1 (R179). -/
theorem regionTableWrite_word0 {s : State} (hu : s.arg.unit < 6) (hn : s.arg.index < 64) (hf : s.arg.flag = false) :
    Acts .regionTableWrite s fun t => Tbl.get 0 (t.rim s.arg.unit).heldW0 s.arg.index = s.arg.v ∧
      t.rimRegion s.arg.unit s.arg.index = s.rimRegion s.arg.unit s.arg.index := by
  have hx : execRegionTableWrite s = .next (regionStore s s.arg.unit s.arg.index false s.arg.v) := by
    simp [execRegionTableWrite, hf, Nat.not_le.2 hu, Nat.not_le.2 hn]
  exact ⟨_, (exec_regionTableWrite s).trans hx, by simp [regionStore], by simp [regionStore, State.rimRegion]⟩

/-- A store to word 1 writes the entry, where it keeps the rules (R179, R183). -/
theorem regionTableWrite_word1 {s : State} (hu : s.arg.unit < 6) (hn : s.arg.index < 64) (hf : s.arg.flag = true)
    (hh : regionHalf s s.arg.unit s.arg.index = false)
    (hb : regionBad (s.rim s.arg.unit) s.arg.index (regionNext s s.arg.unit s.arg.index s.arg.v) = false) :
    Acts .regionTableWrite s fun t => t.rimRegion s.arg.unit s.arg.index = regionNext s s.arg.unit s.arg.index s.arg.v ∧ t.mem = s.mem := by
  have hx : execRegionTableWrite s = .next (regionStore s s.arg.unit s.arg.index true s.arg.v) := by
    simp [execRegionTableWrite, hf, Nat.not_le.2 hu, Nat.not_le.2 hn, hh, hb]
  refine ⟨_, (exec_regionTableWrite s).trans hx, ?_, ?_⟩
  all_goals simp only [regionStore, if_true, hb, Bool.false_eq_true, if_false]
  · exact (State.rimRegion_modRim rfl).1
  · rfl

/-- The entries of a region move, written on one rim die with a STAMP later than those that stand (R183). -/
theorem moveWrite_entry {s : State} {m : Move} {u : Nat} {st : Word} (hl : m.left.contains u = true)
    (ho : m.stamp = none → ((List.range 6).any fun d => decide (s.ts.toNat ≤ (s.rimRegion d m.a).stamp.toNat ∨ s.ts.toNat ≤ (s.rimRegion d m.x).stamp.toNat)) = false)
    (hh : m.step = 1 → regionHalf s u m.a = false) (hs : m.stamp.getD s.ts = st) :
    (moveWrite s m u).rimRegion u (m.entry st).1 = (m.entry st).2 ∧ (moveWrite s m u).mem = s.mem ∧
    ∀ d n, d ≠ u → (moveWrite s m u).rimRegion d n = s.rimRegion d n := by
  have hx : ∃ mv, moveWrite s m u =
      { s.modRim u fun r => { r with regions := Tbl.set r.regions (m.entry st).1 (m.entry st).2 } with move := mv } := by
    unfold moveWrite
    rw [if_neg, hs]
    · exact ⟨_, rfl⟩
    · rintro (h | ⟨h, h'⟩ | ⟨h, h'⟩)
      · rw [hl] at h; cases h
      · rw [ho h] at h'; cases h'
      · rw [hh h] at h'; cases h'
  obtain ⟨mv, hx⟩ := hx
  obtain ⟨h1, h2⟩ := State.rimRegion_modRim (s := s) (u := u) (n := (m.entry st).1) (e := (m.entry st).2)
    (f := fun r => { r with regions := Tbl.set r.regions (m.entry st).1 (m.entry st).2 }) rfl
  rw [hx]
  exact ⟨h1, rfl, fun d n hd => h2 d n hd⟩

/-- A move of a region to where a spare region stands, before its first turn (R183). -/
def State.newMove (s : State) (a x : Nat) : Move :=
  { a := a, x := x, ea := s.rimRegion 0 a, ex := s.rimRegion 0 x, step := 1, stamp := none, left := List.range 6 }

/-- The first turn of a region move freezes the region on its die (R183 step 1). -/
theorem regionMove_begins {s : State} (hm : s.move = none) (hu : s.arg.unit < 6) (hn : s.arg.index < 64) (hx : s.arg.aux < 64) (hne : s.arg.index ≠ s.arg.aux)
    (ha : ∀ d < 6, s.rimRegion d s.arg.index = s.rimRegion 0 s.arg.index ∧ s.rimRegion d s.arg.aux = s.rimRegion 0 s.arg.aux)
    (hma : (s.rimRegion 0 s.arg.index).mode ≠ 3) (hmx : (s.rimRegion 0 s.arg.aux).mode ≠ 3) (hw : (s.rimRegion 0 s.arg.index).wfz = false)
    (hh : regionHalf s s.arg.unit s.arg.index = false) (hsa : (s.rimRegion 0 s.arg.index).stamp.toNat < s.ts.toNat)
    (hsx : (s.rimRegion 0 s.arg.aux).stamp.toNat < s.ts.toNat) :
    Acts .regionMove s fun t => t.rimRegion s.arg.unit s.arg.index = { s.rimRegion 0 s.arg.index with wfz := true, stamp := s.ts } ∧ t.mem = s.mem ∧
      ∀ d < 6, d ≠ s.arg.unit → t.rimRegion d s.arg.index = s.rimRegion 0 s.arg.index := by
  have hagree : ((List.range 6).all fun d => s.rimRegion d s.arg.index == s.rimRegion 0 s.arg.index && s.rimRegion d s.arg.aux == s.rimRegion 0 s.arg.aux) = true := by
    rw [List.all_eq_true]
    intro d hd
    obtain ⟨h1, h2⟩ := ha d (List.mem_range.1 hd)
    simp [h1, h2]
  have hr : execRegionMove s = .next (moveWrite s (s.newMove s.arg.index s.arg.aux) s.arg.unit) := by
    unfold execRegionMove
    simp only [hm, hagree]
    rw [if_neg (by simp [hne, hma, hmx, hw]; omega)]; rfl
  have hold : ((List.range 6).any fun d =>
      decide (s.ts.toNat ≤ (s.rimRegion d s.arg.index).stamp.toNat ∨ s.ts.toNat ≤ (s.rimRegion d s.arg.aux).stamp.toNat)) = false := by
    rw [List.any_eq_false]
    intro d hd
    obtain ⟨h1, h2⟩ := ha d (List.mem_range.1 hd)
    rw [decide_eq_true_eq, h1, h2]
    omega
  obtain ⟨h1, h2, h3⟩ := moveWrite_entry (s := s) (m := s.newMove s.arg.index s.arg.aux) (u := s.arg.unit) (st := s.ts)
    (by simp [State.newMove, hu]) (fun _ => hold) (fun _ => hh) rfl
  exact ⟨_, (exec_regionMove s).trans hr, h1, h2, fun d hd hne => (h3 d s.arg.index hne).trans (ha d hd).1⟩

/-- A later turn of a move writes the entry of its step on its die (R183). -/
theorem regionMove_writes {s : State} {m : Move} {st : Word} (hm : s.move = some m) (h2 : m.step ≠ 2) (hl : m.left.contains s.arg.unit = true)
    (hs : m.stamp = some st) (hh : m.step = 1 → regionHalf s s.arg.unit m.a = false) :
    Acts .regionMove s fun t => t.rimRegion s.arg.unit (m.entry st).1 = (m.entry st).2 ∧ t.mem = s.mem := by
  have hr : execRegionMove s = .next (moveWrite s m s.arg.unit) := by simp only [execRegionMove, hm, if_neg h2]
  obtain ⟨h1, hmem, -⟩ := moveWrite_entry (s := s) (st := st) hl (fun h => by rw [hs] at h; cases h) hh (by rw [hs]; rfl)
  exact ⟨_, (exec_regionMove s).trans hr, h1, hmem⟩

theorem foldl_put_puts {β : Type} {s t : State} (he : s.errs = []) (h : Puts s t) (p : Path) (l : List β) (key : β → Nat) (bs : β → List Byte) :
    Puts s (l.foldl (fun u c => u.put p (key c) (bs c)) t) :=
  List.foldlRecOn (motive := Puts s) l _ h fun _ hu _ _ => hu.trans (State.put_puts (hu.errs.trans he) p _ _)

theorem performFor_rims (s : State) (f : Lag → Bool) : (performFor s f).rims = s.rims := by unfold performFor; split <;> rfl

/-- The copy of a region's bytes changes memory and the records of writes only (R183 step 2). -/
theorem copyRegion_rims {s : State} (he : s.errs = []) (a x : Region) : (copyRegion s a x).rims = s.rims := by
  unfold copyRegion
  extract_lets key cleared copied
  have h1 : Puts s cleared := foldl_put_puts he (.refl s) .ce (regionCells s x) (fun c => key c.1) fun _ => [0]
  have h2 : Puts s copied := foldl_put_puts he h1 .ce (regionCells cleared a) (fun c => key c.1) fun c => [c.2]
  rw [performFor_rims, h2.rims]

theorem regionMove_copies {s : State} {m : Move} (hm : s.move = some m) (h2 : m.step = 2) (he : s.errs = []) :
    Acts .regionMove s fun t => t.move = m.next ∧ t.rims = s.rims := by
  have hr : execRegionMove s = .next { copyRegion s m.ea m.ex with move := m.next } := by simp only [execRegionMove, hm, if_pos h2]
  exact ⟨_, (exec_regionMove s).trans hr, rfl, copyRegion_rims he m.ea m.ex⟩

/-! ### Contexts and launches (R236, R240) -/

theorem contextTableWrite_early {s : State} (h : ctxEarly s s.arg.unit s.arg.v = true) : exec .contextTableWrite s = .next s := by
  rw [exec_contextTableWrite, execContextTableWrite, if_pos (.inr (.inr h))]

theorem contextTableWrite_stores {s : State} (hu : s.arg.unit < 12) (hn : s.arg.index < 4096)
    (he : s.arg.v.getLsbD 63 = true → s.boot.broughtUp = true ∧ s.boot.featWritten = true ∧ (s.bed s.arg.unit).rst.owed = false)
    (hb : ctxBad s.arg.unit s.arg.v = false) :
    Acts .contextTableWrite s fun t => Tbl.get 0 (t.bed s.arg.unit).ctxTab s.arg.index = s.arg.v &&& 0x800FFFFFFFFFFFFF := by
  have hearly : ctxEarly s s.arg.unit s.arg.v = false := by
    unfold ctxEarly
    cases hv : s.arg.v.getLsbD 63 with
    | false => rfl
    | true => obtain ⟨h1, h2, h3⟩ := he hv; simp [h1, h2, h3]
  have hx : execContextTableWrite s = .next (ctxTabStore s s.arg.unit s.arg.index s.arg.v) := by
    simp [execContextTableWrite, Nat.not_le.2 hu, Nat.not_le.2 hn, hearly, hb]
  refine ⟨_, (exec_contextTableWrite s).trans hx, ?_⟩
  have hs : ∀ (t : State) (bt : Boot), ({ t with boot := bt } : State).bed s.arg.unit = t.bed s.arg.unit := fun _ _ => rfl
  simp only [ctxTabStore, hb, Bool.false_eq_true, if_false]
  split <;> simp only [hs, State.bed_modBed, Tbl.get_set_same]

theorem contextTableWrite_refuses {s : State} (hu : s.arg.unit < 12) (hn : s.arg.index < 4096) (he : ctxEarly s s.arg.unit s.arg.v = false)
    (hb : ctxBad s.arg.unit s.arg.v = true) : Acts .contextTableWrite s fun t => t.beds = s.beds ∧ t.boot.refused = s.boot.refused + 1 := by
  have hx : execContextTableWrite s = .next s.refuse := by simp [execContextTableWrite, Nat.not_le.2 hu, Nat.not_le.2 hn, he, hb]
  exact ⟨_, (exec_contextTableWrite s).trans hx, rfl, rfl⟩

theorem lqctlWrite_stores {s : State} (hu : s.arg.unit < 12) :
    exec .lqctlWrite s = .next (s.modBed s.arg.unit fun d =>
      { d with lqctl := s.arg.v &&& 0x1FFFF, placing := d.placing || (d.lqctl.getLsbD 16 && !s.arg.v.getLsbD 16) }) := by
  rw [exec_lqctlWrite, execLqctlWrite, if_pos hu]; rfl

/-! ### FIFOs and domains (R120, R217, R220) -/

@[simp] theorem State.fifo_setFifo (s : State) (u n : Nat) (f : Fifo) : (s.setFifo u n f).fifo u n = f := by
  unfold State.fifo State.setFifo
  by_cases h : u < 12 <;> simp [h]

theorem fifoctlWrite_stores {s : State} (hu : isUnit s.arg.unit = true) (hn : s.arg.index < 16) (hp : (s.fifo s.arg.unit s.arg.index).prod = [])
    (hc : (s.fifo s.arg.unit s.arg.index).cons = []) :
    Acts .fifoctlWrite s fun t => (t.fifo s.arg.unit s.arg.index).en = s.arg.v.getLsbD 0 ∧
      (t.fifo s.arg.unit s.arg.index).ctx = BitVec.ofNat 12 (s.arg.v.toNat / 2) ∧
      (s.arg.v.getLsbD 0 ≠ (s.fifo s.arg.unit s.arg.index).en → (t.fifo s.arg.unit s.arg.index).bytes = []) := by
  have hx : execFifoctlWrite s = .next (fifoStore s s.arg.unit s.arg.index s.arg.v) := by rw [execFifoctlWrite, if_pos ⟨hu, hn⟩]
  refine ⟨_, (exec_fifoctlWrite s).trans hx, ?_⟩
  simp only [fifoStore, hp, hc, ne_eq, not_true_eq_false, or_self, if_false, State.fifo_setFifo, true_and]
  exact fun h => if_neg fun e => h e.symm

theorem domWrite_eq {s : State} (hu : s.arg.unit < 12) (hc : s.arg.core < 128) (hn : s.arg.index < 4) :
    exec .domWrite s = .next (domStore s s.arg.unit s.arg.core s.arg.index s.arg.v) := by
  rw [exec_domWrite, execDomWrite, if_pos ⟨hu, hc, hn⟩]

theorem domWrite_stores {s : State} (hu : s.arg.unit < 12) (hc : s.arg.core < 128) (hn : s.arg.index < 4)
    (hl : domLocked (s.core s.arg.unit s.arg.core) s.arg.index = false) :
    Acts .domWrite s fun t => Tbl.get 0 (t.core s.arg.unit s.arg.core).doms s.arg.index = s.arg.v &&& 0x3FFF :=
  ⟨_, domWrite_eq hu hc hn, by simp [domStore, hl]⟩

theorem domWrite_locked {s : State} (hu : s.arg.unit < 12) (hc : s.arg.core < 128) (hn : s.arg.index < 4)
    (hl : domLocked (s.core s.arg.unit s.arg.core) s.arg.index = true) : exec .domWrite s = .next s := by
  rw [domWrite_eq hu hc hn, domStore, if_pos hl]

/-- Another valid entry of a bed's domain table with the LEVEL and ID of a value (R220). -/
def DtabClash (s : State) (u n : Nat) (v : Word) : Prop :=
  ∃ x ∈ (s.bed u).dtab, x.1 ≠ n ∧ x.2.v = true ∧ x.2.w0.toNat % 2 ^ 14 = v.toNat % 2 ^ 14

/-- The bits of a domain entry's word 0 keep V, LEVEL and ID (R220). -/
theorem dtabWord_fields (v : Word) : (v &&& 0xFFFFFFFFF).getLsbD 35 = v.getLsbD 35 ∧ (v &&& 0xFFFFFFFFF).toNat % 2 ^ 14 = v.toNat % 2 ^ 14 := by
  constructor
  · rw [BitVec.getLsbD_and, show (0xFFFFFFFFF : Word).getLsbD 35 = true by decide, Bool.and_true]
  · rw [BitVec.toNat_and, show (0xFFFFFFFFF : Word).toNat = 2 ^ 36 - 1 by decide, Nat.and_two_pow_sub_one_eq_mod]
    omega

theorem dtabWrite_eq {s : State} (hu : s.arg.unit < 12) (hn : s.arg.index < 64) (hf : s.arg.flag = false) :
    exec .dtabWrite s = .next (dtabStore s s.arg.unit s.arg.index s.arg.v) := by
  rw [exec_dtabWrite, execDtabWrite, if_pos ⟨hu, hn, hf⟩]

theorem dtabWrite_word1 {s : State} (hf : s.arg.flag = true) : exec .dtabWrite s = .next s := by
  rw [exec_dtabWrite, execDtabWrite, if_neg (by simp [hf])]

/-- A store to word 0 of a domain entry is ignored: the entry is valid and the store does not free it while its barriers are all at rest, or it would make
two valid entries of one LEVEL and ID (R220). -/
def DtabKept (s : State) (u n : Nat) (v : Word) : Prop :=
  ((Tbl.get default (s.bed u).dtab n).v = true ∧ (v.getLsbD 35 = true ∨ (Tbl.get default (s.bed u).dtab n).bcmp ≠ 0)) ∨
    (v.getLsbD 35 = true ∧ DtabClash s u n v)

theorem dtabClash_iff (s : State) (u n : Nat) (v : Word) :
    ((s.bed u).dtab.any fun x => x.1 != n && x.2.v && x.2.w0.toNat % 2 ^ 14 == (v &&& 0xFFFFFFFFF).toNat % 2 ^ 14) = true ↔ DtabClash s u n v := by
  rw [(dtabWord_fields v).2]
  simp [DtabClash, List.any_eq_true, and_assoc]

theorem dtabStore_kept {s : State} {u n : Nat} {v : Word} (h : DtabKept s u n v) : dtabStore s u n v = s := by
  unfold dtabStore
  dsimp only
  rw [(dtabWord_fields v).1]
  split
  · rfl
  · next hv =>
    obtain ⟨h35, hc⟩ := h.resolve_left hv
    rw [if_pos ⟨h35, (dtabClash_iff s u n v).2 hc⟩]

theorem dtabStore_stored {s : State} {u n : Nat} {v : Word} (h : ¬ DtabKept s u n v) :
    (Tbl.get default ((dtabStore s u n v).bed u).dtab n).w0 = v &&& 0xFFFFFFFFF := by
  obtain ⟨h1, h2⟩ := not_or.1 h
  unfold dtabStore
  dsimp only
  rw [(dtabWord_fields v).1, if_neg h1, if_neg fun ⟨h35, hc⟩ => h2 ⟨h35, (dtabClash_iff s u n v).1 hc⟩, State.bed_modBed, Tbl.get_set_same]

theorem dtabWrite_stores {s : State} (hu : s.arg.unit < 12) (hn : s.arg.index < 64) (hf : s.arg.flag = false)
    (h : ¬ DtabKept s s.arg.unit s.arg.index s.arg.v) :
    Acts .dtabWrite s fun t => (Tbl.get default (t.bed s.arg.unit).dtab s.arg.index).w0 = s.arg.v &&& 0xFFFFFFFFF :=
  ⟨_, dtabWrite_eq hu hn hf, dtabStore_stored h⟩

theorem dtabWrite_keeps {s : State} (hu : s.arg.unit < 12) (hn : s.arg.index < 64) (hf : s.arg.flag = false)
    (h : DtabKept s s.arg.unit s.arg.index s.arg.v) : exec .dtabWrite s = .next s := by
  rw [dtabWrite_eq hu hn hf, dtabStore_kept h]

/-- A store that frees an entry, or writes one that is free, clashes with none. -/
theorem not_dtabKept_free {s : State} {u n : Nat} {v : Word} (h35 : v.getLsbD 35 = false)
    (h : (Tbl.get default (s.bed u).dtab n).v = true → (Tbl.get default (s.bed u).dtab n).bcmp = 0) : ¬ DtabKept s u n v := by
  rintro (⟨hv, h' | h'⟩ | ⟨h', -⟩)
  · rw [h35] at h'; cases h'
  · exact h' (h hv)
  · rw [h35] at h'; cases h'

theorem not_dtabKept_new {s : State} {u n : Nat} {v : Word} (hv : (Tbl.get default (s.bed u).dtab n).v = false) (hc : ¬ DtabClash s u n v) :
    ¬ DtabKept s u n v := by
  rintro (⟨h, -⟩ | ⟨-, h⟩)
  · rw [hv] at h; cases h
  · exact hc h

/-! ### Faults armed and tables refilled (R54, R456) -/

@[simp] theorem State.eng_modEng (s : State) (e : Eng) (f : Engine → Engine) : (s.modEng e f).eng e = f (s.eng e) := by
  unfold State.modEng State.setEng
  generalize f (s.eng e) = x
  unfold State.eng State.engine State.setEngine
  by_cases hu : e.unit < 12
  · by_cases hk : e.kind = 2 <;> simp [hu, hk]
  · by_cases hk : e.kind = 1 <;> simp [hu, hk]

theorem modEng_mem (s : State) (e : Eng) (f : Engine → Engine) : (s.modEng e f).mem = s.mem := by
  unfold State.modEng State.setEng State.setEngine; split <;> rfl

theorem streamFaultArm_arms {s : State} {k : Nat} (hf : s.feat.getLsbD 8 = true) (he : (⟨s.arg.unit, 0, s.arg.index⟩ : Eng).ok = true)
    (hv : s.arg.v.toNat % 4 = 0) (hk : s.arg.aux = k) :
    Acts .streamFaultArm s fun t => (t.eng ⟨s.arg.unit, 0, s.arg.index⟩).armed = some (s.arg.v, BitVec.ofNat 32 k) ∧ t.mem = s.mem := by
  subst hk
  have hx : execStreamFaultArm s = .next (s.modEng ⟨s.arg.unit, 0, s.arg.index⟩ fun x => { x with armed := some (s.arg.v, BitVec.ofNat 32 s.arg.aux) }) := by
    simp only [execStreamFaultArm, hf, he, hv, Bool.true_eq_false, if_false, and_self, if_true]
  exact ⟨_, (exec_streamFaultArm s).trans hx, by rw [State.eng_modEng], modEng_mem _ _ _⟩

theorem streamFaultArm_refuses {s : State} (hf : s.feat.getLsbD 8 = false) :
    Acts .streamFaultArm s fun t => t.beds = s.beds ∧ t.rims = s.rims ∧ t.boot.refused = s.boot.refused + 1 := by
  have hx : execStreamFaultArm s = .next s.refuse := by simp only [execStreamFaultArm, hf, if_true]
  exact ⟨_, (exec_streamFaultArm s).trans hx, rfl, rfl, rfl⟩

/-- The fields of a store of GO with a KIND (R54). -/
theorem ctload_fields (k : Nat) (h : k < 2) : (pack [(0, 1), (1, k)]).getLsbD 0 = true ∧ bits (pack [(0, 1), (1, k)]).toNat 2 1 = k := by
  rcases Nat.lt_succ_iff_lt_or_eq.1 h with h | rfl
  · obtain rfl : k = 0 := by omega
    decide
  · decide

theorem ctloadRefill_begins {s : State} (hu : s.arg.unit < 12) (hk : s.arg.aux % 4 < 2) :
    Acts .ctloadRefill s fun t => (t.core s.arg.unit s.arg.core).ctBusy = some (s.arg.aux % 4, 0) ∧ t.mem = s.mem := by
  obtain ⟨hgo, hkind⟩ := ctload_fields (s.arg.aux % 4) hk
  have hx : execCtloadRefill s = .next (s.modCore s.arg.unit s.arg.core fun c => { c with ctBusy := some (s.arg.aux % 4, 0) }) := by
    simp only [execCtloadRefill, if_pos hu, ctloadStore, hgo, hkind, hk, and_self, if_true]
  exact ⟨_, (exec_ctloadRefill s).trans hx, by rw [State.core_modCore], rfl⟩

/-- Settles O37: a lemma for each register. -/
theorem controlRegisterSteps : Obligations.ControlRegisterSteps := by
  unfold Obligations.ControlRegisterSteps
  intro s b off k r v n u c
  refine ⟨fun h2 ha => by rw [registerWrite_ring h2, ha]; rfl, fun h2 ha => by rw [registerWrite_ring h2, ha]; rfl,
    registerWrite_clearVecc, registerWrite_ctl, registerWrite_bed, turnmaskWrite_sets, turnmaskWrite_refuses, regionTableWrite_word0, regionTableWrite_word1,
    regionMove_begins, fun _ _ => regionMove_writes, fun _ => regionMove_copies, contextTableWrite_stores, fun _ _ => contextTableWrite_early,
    contextTableWrite_refuses, lqctlWrite_stores, fifoctlWrite_stores, domWrite_stores, domWrite_locked,
    fun hu hn hf hv h35 => dtabWrite_stores hu hn hf (not_dtabKept_free h35 fun h => absurd h (by rw [hv]; decide)), fun hu hn => ?_,
    fun hf he hv _ hk => streamFaultArm_arms hf he hv hk, streamFaultArm_refuses, ctloadRefill_begins⟩
  exact ⟨dtabWrite_word1,
    fun hf hv _ hc => dtabWrite_stores hu hn hf (not_dtabKept_new hv hc),
    fun hf h35 hc => dtabWrite_keeps hu hn hf (.inr ⟨h35, hc⟩),
    fun hf _ h35 hb => dtabWrite_stores hu hn hf (not_dtabKept_free h35 fun _ => hb),
    fun hf hv h => dtabWrite_keeps hu hn hf (.inl ⟨hv, h⟩)⟩

end Sys2Proof.Machine
end

section
/-! PROOFS. Accesses of other homes: what the checks make of them, the answer a load takes or the request it sends, and the loads a thread goes on past. -/

namespace Sys2Proof.Machine

/-! ### An access that its checks admit (R25, R32) -/

theorem rangeCheck_pa {s t : State} {p : Place} {pa : Word} {kind : Kind} {win : Bool} {r : Rng} {la : Nat} {a : Acc}
    (h : rangeCheck s p pa kind win r la = .ok t a) : a.pa = pa := by
  unfold rangeCheck at h
  dsimp only at h
  split at h
  · cases h
  · repeat' split at h
    all_goals cases h
    rfl

theorem fixedCheck_pa {s t : State} {p : Place} {pa : Word} {kind : Kind} {win : Bool} {a : Acc}
    (h : fixedCheck s p pa kind win = .ok t a) : a.pa = pa := by
  unfold fixedCheck at h
  dsimp only at h
  split at h
  · cases h
  · split at h
    · cases h
    · exact rangeCheck_pa h

theorem pagedCheck_pa {s t : State} {p : Place} {pa : Word} {kind : Kind} {win : Bool} {a : Acc}
    (h : pagedCheck s p pa kind win = .ok t a) : a.pa = pa := by
  unfold pagedCheck at h
  split at h
  case h_4 =>
    dsimp only at h
    repeat' split at h
    case isFalse.isFalse.isFalse => exact rangeCheck_pa h
    all_goals cases h
  all_goals cases h

/-- An admitted access keeps its program address. -/
theorem addressCheck_pa {s t : State} {p : Place} {pa : Word} {n al : Nat} {kind : Kind} {win : Bool} {a : Acc}
    (h : addressCheck s p pa n al kind win = .ok t a) : a.pa = pa := by
  unfold addressCheck at h
  repeat' split at h
  case isTrue => cases h
  case isFalse.isTrue => cases h
  case isFalse.isFalse.isTrue => exact fixedCheck_pa h
  case isFalse.isFalse.isFalse => exact pagedCheck_pa h

theorem accessing_reaches {s : State} {pa : Word} {n al : Nat} {kind : Kind} {acc : Acc} (h : Reaches s pa n al kind acc) (f : State → Acc → Res) :
    accessing s pa n al kind false f = f s acc := by
  obtain ⟨hc, hx⟩ := h
  simp [accessing, hc, crossing, hx]

/-- Outside a timed block a contiguous vector access is checked as any other (R351, R352). -/
theorem vectorAccess_reaches {s : State} {pa : Word} {n al : Nat} {kind : Kind} {acc : Acc} (h : Reaches s pa n al kind acc) (hb : s.here.blk = none)
    (f : State → Acc → Res) : vectorAccess s pa n al kind false f = f s acc := by
  obtain ⟨hc, hx⟩ := h
  simp [vectorAccess, hc, crossing, hx, hb]

/-! ### Requests that go out (R84, R90) -/

/-- A packet is the request that the slot in execution makes next, with the number a free value gives it. -/
structure Requests (s : State) (q : Pkt) (kind la : Nat) (b : Body) : Prop where
  kind : q.kind = kind
  dest : q.dest = la
  body : q.body = b
  id : q.id = s.free
  place : q.place = s.cur.place
  resp : q.resp = false

/-- The source number of a place of the module names it (R8, R78). -/
theorem mkPkt_place (s : State) {p : Place} (h : p.ok = true) (kind len dest : Nat) (b : Body) : (mkPkt s p kind len dest b).place = p := by
  obtain ⟨u, c, k⟩ := p
  simp only [Place.ok, coresOf, Bool.and_eq_true, decide_eq_true_eq] at h
  have hc : u < 32 ∧ c < 128 := by
    obtain ⟨h, -⟩ := h
    split at h
    · omega
    · split at h <;> omega
  simp only [mkPkt, Pkt.place, State.srcNum, Place.mk.injEq, and_true]
  omega

/-- A routed request of the slot in execution is added to the packets under way. -/
theorem inject_requests {s : State} {r : Rng} (h : Routed s r) (hp : s.cur.place.ok = true) (kind len la : Nat) (b : Body) :
    ∃ q, inject s s.cur.place r { mkPkt s s.cur.place kind len la b with rstamp := s.stampFor s.cur.place.unit r } =
      .sent { s with pkts := s.pkts ++ [q] } ∧ Requests s q kind la b := by
  obtain ⟨q, hq, hkind, hdest, hbody, hsrc, hslot, hresp, hid⟩ :=
    inject_routed h { mkPkt s s.cur.place kind len la b with rstamp := s.stampFor s.cur.place.unit r }
  have hplace : q.place = (mkPkt s s.cur.place kind len la b).place := by simp only [Pkt.place, hsrc, hslot]
  exact ⟨q, hq, hkind, hdest, hbody, hid, hplace.trans (mkPkt_place s hp ..), hresp⟩

/-- With no store of its own buffered, a routed request goes out and its slot waits for the answer (R84, R85). -/
theorem request_routed {s : State} {r : Rng} (h : Routed s r) (hp : s.cur.place.ok = true) (hr : routeStored s s.cur.place = false)
    (la kind len : Nat) (b : Body) (keep : Bool) :
    ∃ q, request s r la kind len b keep = .wait ({ s with pkts := s.pkts ++ [q] } : State).tick (.answer s.free keep) false ∧ Requests s q kind la b := by
  obtain ⟨q, hq, hreq⟩ := inject_requests h hp kind len la b
  refine ⟨q, ?_, hreq⟩
  unfold request
  simp only [hr, hq]
  rfl

/-- A slot that waits for an answer keeps the translations of its bundle for when it runs again (R155). -/
def Slot.awaits (x : Slot) (id : Nat) (keep : Bool) (pages : List Resp) : Slot :=
  { x with wait := some (.answer id keep), aligned := none, resp := pages ++ x.resp }

/-- The state once a request of the slot in execution has gone out: its slot waits, and nothing else of it changes. -/
def State.asked (s : State) (q : Pkt) (keep : Bool) : State :=
  { (({ s with pkts := s.pkts ++ [q] } : State).tick.modSlot s.cur.place fun x =>
      x.awaits s.free keep (s.cur.hits.map fun h => .page h.1 h.2.1 h.2.2)) with cur := { s.cur with ended := .wait } }

theorem State.slot_asked (s : State) (q : Pkt) (keep : Bool) :
    (s.asked q keep).slot s.cur.place = s.here.awaits s.free keep (s.cur.hits.map fun h => .page h.1 h.2.1 h.2.2) :=
  Tbl.get_set_same _ _ _ _

theorem done_sent (s : State) (q : Pkt) (keep : Bool) :
    done (.wait ({ s with pkts := s.pkts ++ [q] } : State).tick (.answer s.free keep) false) = .next (s.asked q keep) := by
  simp only [done, settle, Wait.sent, if_true, State.modHere, State.modSlot_cur, State.modSlot_modSlot]
  rfl

/-! ### What holds a load back, and what does not -/

/-- Nothing of its core's or its thread's stores holds back a load of a slot none of whose stores is on its way (R189, R192, R322). -/
theorem loadBlocked_quiet {s : State} (hs : (s.coreAt s.cur.place).sbuf = []) (ht : s.here.ntOut = []) (ha : NoneSent s) (k n : Nat) :
    loadBlocked s s.cur.place k n = false := by
  simp [loadBlocked, hs, ntMeets_none ht, asyncMeets_none ha]

/-- Where no buffered store is the slot's own, none of any kind is. -/
theorem sbuf_none_own {s : State} {p : Place} (h : (s.coreAt p).sbuf.all (fun e => e.slot != p.slot) = true) (f : SbEntry → Bool) :
    ((s.coreAt p).sbuf.any fun e => e.slot == p.slot && f e) = false := by
  refine List.any_eq_false.2 fun e he => ?_
  have hne := List.all_eq_true.1 h e he
  simp_all

section
variable {s : State} {a : Acc} {n : Nat} (hc : Unarmed (s.coreAt s.cur.place)) (hs : (s.coreAt s.cur.place).sbuf = []) (ht : s.here.ntOut = [])
  (ha : NoneSent s) (ho : a.own = false)
include hc hs ht ha ho

/-- A load of another home by a slot whose core is quiet takes the answer its slot holds (R25, R318). -/
theorem loadBytes_held {bs : List Byte} (hd : heldData s.here.resp a.la = some bs) (f : State → List Byte → Res) :
    loadBytes s a n f = f (observeLoad s s.cur.place a.rng n) bs := by
  unfold loadBytes
  simp [stalledBy_unarmed hc, loadBlocked_quiet hs ht ha, forwards, hs, passMarks_unarmed hc, ho, hd]

/-- The same load sends a request while nothing has been answered (R25, R90). -/
theorem loadBytes_requests (hn : 0 < n) (hb : s.here.blk = none) (hr : s.here.resp = []) (f : State → List Byte → Res) :
    loadBytes s a n f = request s a.rng a.la 0 (if isRemote a.rng ∨ s.cur.place.rim then 1 else 0) (.load n false) false := by
  have hv : coversAll s s.cur.place (locKey a.rng) n = false := by
    simp only [coversAll, hs, List.any_nil, List.all_eq_false]
    exact ⟨0, List.mem_range.2 hn, by simp⟩
  unfold loadBytes
  simp [stalledBy_unarmed hc, loadBlocked_quiet hs ht ha, forwards, hs, passMarks_unarmed hc, ho, hr, heldData, hb, hv]

/-! ### Loads that take their answer -/

/-- A scalar load of another home gives its register what the answer brought. -/
theorem load_reads {bs : List Byte} (hd : heldData s.here.resp a.la = some bs) {i : Instr} {t b : BitVec 5} {d : BitVec 11} {sgn : Bool}
    (he : exec i s = load i t b d n sgn s) (h : Reaches s (s.opG b + d.signExtend 64) n n .load a) :
    Reads i t s a.rng n (if sgn then signExt (8 * n) (ofBytes bs) else BitVec.ofNat 64 (ofBytes bs)) := by
  intro hi
  rw [he, load, word_admitted hi, scalarLoad, State.eaDisp, sx, accessing_reaches h, loadBytes_held hc hs ht ha ho hd, done_ok]
  rfl

theorem vld_reads {bs : List Byte} (hd : heldData s.here.resp a.la = some bs) {t b : BitVec 5} {d : BitVec 11}
    (h : Reaches s (s.opG b + d.signExtend 64) 64 16 .vector a) (hb : s.here.blk = none) (hi : Admitted (.vld t b d) s) :
    exec (.vld t b d) s = .next ((s.sees a.rng 64).setV t (BitVec.ofNat 512 (ofBytes bs))).retired := by
  rw [exec_vld, execVld, word_admitted hi, State.eaDisp, sx, vectorAccess_reaches h hb, loadBytes_held hc hs ht ha ho hd, done_ok]
  rfl

/-! ### A load that asks -/

/-- With nothing answered, a load of another home sends its request and waits (R25, R84, R90). -/
theorem ldD_requests (hb : s.here.blk = none) (hr : s.here.resp = []) (hp : s.cur.place.ok = true) {t b : BitVec 5} {d : BitVec 11}
    (h : Reaches s (s.opG b + d.signExtend 64) 8 8 .load a) (hg : Routed s a.rng) (hi : Admitted (.ldD t b d) s) :
    ∃ q, exec (.ldD t b d) s = .next (s.asked q false) ∧ Requests s q 0 a.la (.load 8 false) := by
  have hrs : routeStored s s.cur.place = false := by simp [routeStored, hs]
  obtain ⟨q, hq, hreq⟩ := request_routed hg hp hrs a.la 0 (if isRemote a.rng ∨ s.cur.place.rim then 1 else 0) (.load 8 false) false
  refine ⟨q, ?_, hreq⟩
  rw [exec_ldD, execLdD, load, word_admitted hi, scalarLoad, State.eaDisp, sx, accessing_reaches h,
    loadBytes_requests hc hs ht ha ho (by decide) hb hr, hq, done_sent]

end

/-! ### Streaming stores (R322) -/

/-- The slot holds a streaming store that is not acknowledged yet. -/
def Slot.streams (x : Slot) (id key : Nat) (pa : Word) : Slot := { x with ntOut := x.ntOut ++ [(id, key, pa)] }

/-- The state once a streaming store has gone out. -/
def State.streamed (s : State) (q : Pkt) (key : Nat) (pa : Word) : State :=
  (({ s with pkts := s.pkts ++ [q] } : State).modSlot s.cur.place fun x => x.streams s.free key pa).tick

theorem State.slot_streamed (s : State) (q : Pkt) (key : Nat) (pa : Word) : (s.streamed q key pa).slot s.cur.place = s.here.streams s.free key pa :=
  Tbl.get_set_same _ _ _ _

/-- A streaming store that nothing of its thread stands before retires as its bytes leave for their home. -/
theorem stNt_streams {s : State} {t b : BitVec 5} {z : BitVec 2} {d : BitVec 11} {a : Acc}
    (h : Reaches s (s.opG b + d.signExtend 64) (2 ^ z.toNat) (2 ^ z.toNat) .store a) (hb : s.here.blk = none)
    (hs : (s.coreAt s.cur.place).sbuf.all (fun e => e.slot != s.cur.place.slot) = true) (ha : NoneSent s) (hm : a.rng.isRegion = false)
    (hw : refusalWaits s a = false) (hf : refusedStore s a (bytesOf (2 ^ z.toNat) (s.opG t).toNat) = false) (hg : Routed s a.rng)
    (hp : s.cur.place.ok = true) (hi : Admitted (.stNt t b z d) s) :
    ∃ q, exec (.stNt t b z d) s = .next (s.streamed q (locKey a.rng) (s.opG b + d.signExtend 64)).retired ∧
      Requests s q 1 a.la (.store (bytesOf (2 ^ z.toNat) (s.opG t).toNat) true) := by
  obtain ⟨q, hq, hreq⟩ := inject_requests hg hp 1 1 a.la (.store (bytesOf (2 ^ z.toNat) (s.opG t).toNat) true)
  refine ⟨q, ?_, hreq⟩
  have hfw : forwards s s.cur.place (locKey a.rng) (2 ^ z.toNat) = false := sbuf_none_own hs _
  have hrt : routeStored s s.cur.place = false := sbuf_none_own hs _
  have hho : hostReleased s s.cur.place = false := sbuf_none_own hs _
  rw [exec_stNt, execStNt, word_admitted hi]
  dsimp only
  rw [State.eaDisp, sx, accessing_reaches h]
  simp only [unlessRefused, hw, hf, hb, hm, hfw, asyncMeets_none ha, hrt, hho, hq, addressCheck_pa h.1, Option.isSome_none, Bool.false_eq_true,
    if_false, false_and, and_false, or_self, done_ok]
  rfl

/-! ### Loads that a thread goes on past (R189, R193, R195) -/

theorem goPast_false (p : Place) (o : Host.Outcome State Fault Refusal) : goPast false p o = o := by
  unfold goPast
  repeat' split
  all_goals rfl

/-- A bundle waits with a plain load under release order, alone, that its thread may go on past: outside blocks, following and entries, and not at a row's leader
(R191, R195). -/
structure Passable (r : State) (p : Place) (id n : Nat) (q : Pkt) : Prop where
  wait : (r.slot p).wait = some (.answer id false)
  sent : (r.pkts.find? fun q => q.id == id && !q.resp) = some q
  body : q.body = .load n false
  ended : r.cur.ended = .wait
  lone : r.cur.half = .lone
  major : wordMajor r.cur.cword = 0x10
  order : releaseOrder (requestRng p q) = true
  blk : (r.slot p).blk = none
  folState : (r.slot p).folState = 0
  folLeft : (r.slot p).folLeft = false
  entry : (r.slot p).entry = false
  leader : ¬(p.heavy ∧ p.core % 8 = 0)

/-- The load that a waiting bundle leaves outstanding. -/
def leftLoad (r : State) (p : Place) (id n : Nat) (q : Pkt) : Ahead :=
  { th := (r.slot p).th, word := r.cur.cword, id := id, reg := BitVec.ofNat 5 (bits r.cur.cword.toNat 23 19), got := (r.slot p).resp.filter (·.isPage),
    due := false, key := locKey (requestRng p q), len := n }

/-- The slot at its next bundle, with a load left outstanding. -/
def Slot.wentPast (x : Slot) (next : Word) (a : Ahead) : Slot :=
  { x with st := .run, wait := none, resp := [], th := { x.th with pc := next }, ahead := x.ahead ++ [a] }

theorem goPast_passable {r : State} {p : Place} {id n : Nat} {q : Pkt} (h : Passable r p id n q) :
    goPast true p (.next r) =
      .next { r.modSlot p (fun x => x.wentPast r.cur.next (leftLoad r p id n q)) with cur := { r.cur with ended := .no } } := by
  unfold goPast
  simp only [h.wait, h.sent, h.body]
  rw [if_pos ⟨trivial, h.ended, h.lone, h.major, h.order, h.blk, h.folState, h.folLeft, h.entry, h.leader⟩]
  rfl

/-- Beside such a load a bundle that may not pass it waits. -/
theorem besideAhead_waits {s r : State} {p : Place} (h : (s.slot p).ahead ≠ []) (hm : mayPass r p (s.slot p).ahead = false) :
    besideAhead s p (.next r) = .next { s with cur := { s.cur with ended := .wait } } := by
  simp [besideAhead, h, hm]

/-- The value of the only load outstanding leaves none. -/
theorem Slot.loaded_only {x : Slot} {a : Ahead} (h : x.ahead = [a]) (v : Word) : x.loaded a v = { x with th := x.th.writeG a.reg v, ahead := [] } := by
  simp [Slot.loaded, h]

/-- The state in which a slot executes the load of a thread that went on past it again. -/
def State.retaken (s : State) (p : Place) (a : Ahead) : State :=
  let t := s.modSlot p fun x => { x with th := a.th, st := .run, wait := none, resp := a.got, ahead := [] }
  { t with cur := { t.cur with pc := a.th.pc, cword := a.word, next := a.th.pc + 4, half := .lone } }

/-- A load taken up whose value has come gives it to its register, and leaves the rest of the slot as it stood. -/
theorem takeUp_loads {ex : Exec} {s r : State} {p : Place} {a : Ahead} {i : Instr} (hi : decodeWord a.word = .instr i)
    (hr : ex i (s.retaken p a) = .next r) (he : r.cur.ended = .no) :
    takeUp ex s p a = .next (r.modSlot p fun _ => (s.slot p).loaded a ((r.slot p).th.readG a.reg)) := by
  unfold State.retaken at hr
  unfold takeUp
  simp only [hi]
  rw [hr]
  simp only [he]

/-- Settles O10: a load that finds its answer or sends its request, the streaming store, and the turns of a load gone past. -/
theorem remoteAccesses : Obligations.RemoteAccesses := by
  unfold Obligations.RemoteAccesses
  refine ⟨?_, ?_, ?_, ?_⟩
  · intro s t a d acc bs ea hc hs ht ha _ ho hd
    exact ⟨load_reads hc hs ht ha ho hd (exec_ldB t a d s), load_reads hc hs ht ha ho hd (exec_ldWx t a d s),
      load_reads hc hs ht ha ho hd (exec_ldD t a d s), vld_reads hc hs ht ha ho hd⟩
  · intro s t a d acc ea p hc hs ht ha hb hr hp ho h hg hi
    obtain ⟨q, hu, hq⟩ := ldD_requests hc hs ht ha ho hb hr hp h hg hi
    have hslot := s.slot_asked q false
    exact ⟨_, q, hu, rfl, hq.kind, hq.body, hq.dest, hq.id, hq.place, hq.resp, by rw [hslot, Slot.awaits], by rw [hslot, Slot.awaits],
      by rw [hslot, Slot.awaits], rfl, rfl⟩
  · intro s t a z d acc n p bs h hb hs ha hm hw hf hg hp hi
    obtain ⟨q, hu, hq⟩ := stNt_streams h hb hs ha hm hw hf hg hp hi
    exact ⟨_, q, hu, rfl, hq.kind, hq.body, hq.dest, hq.place, s.slot_streamed q _ _, hq.id, rfl, rfl⟩
  · intro s r p _
    refine ⟨goPast_false p, ?_, besideAhead_waits, ?_⟩
    · intro id q n x hw hf hb he hl hm ho hk h0 h1 h2 h3
      have hslot := State.slot_modSlot r p fun x => x.wentPast r.cur.next (leftLoad r p id n q)
      exact ⟨_, goPast_passable ⟨hw, hf, hb, he, hl, hm, ho, hk, h0, h1, h2, h3⟩, rfl, congrArg Slot.st hslot, congrArg Slot.wait hslot,
        congrArg Slot.th hslot, ⟨_, congrArg Slot.ahead hslot, rfl, rfl, rfl⟩, rfl, rfl⟩
    · intro a i hi ha hr he
      have hslot := (State.slot_modSlot r p fun _ => (s.slot p).loaded a ((r.slot p).th.readG a.reg)).trans (Slot.loaded_only ha _)
      exact ⟨_, takeUp_loads hi hr he, by rw [hslot], by rw [hslot], by rw [hslot], by rw [hslot], rfl, rfl⟩

end Sys2Proof.Machine
end

section
/-! PROOFS. Loads of the own memory: scalar words, `ld.acq`, `vld`, and `vld.w` through RAW and FUTURE. -/

namespace Sys2Proof.Machine

/-! ### Vector accesses and the checks (R32, R351) -/

/-- The checks of R32 pass a `vld.w` of an own address through RAW or FUTURE, with the length and alignment of those windows. -/
theorem addressCheck_vldW {s : State} {p : Place} {pa : Word} {w off : Nat} (h : OwnAt p pa 64 16 w off) :
    addressCheck s p pa 8 8 .vector true = .ok s (ownAcc p pa w off) := by
  obtain ⟨hp, hd, hw, ho, -, ha, hx⟩ := h
  have h60 : pa.toNat / 2 ^ 60 = 0xF := by omega
  have hb : bits pa.toNat 59 52 = 0 := by unfold bits; rw [Nat.shiftRight_eq_div_pow]; omega
  have hs : windowShape (.core p.unit p.core w off) = (64, 16) := by
    obtain rfl | rfl : w = 0 ∨ w = 1 := by omega
    all_goals rfl
  have hsys : inSystemArea (.core p.unit p.core w off) = false := by simp [inSystemArea]; omega
  have hwin : windowAllowed p .vector true (.core p.unit p.core w off) = true := by simp [windowAllowed, hw]
  have hcross : s.isCross p (.core p.unit p.core w off) = false := by simp [State.isCross, State.homeOf]
  unfold addressCheck fixedCheck rangeCheck
  rw [if_neg (by omega), if_neg (by omega), if_pos h60]
  simp only [hd, hb]
  rw [if_neg (by simp [State.isHole]), if_neg (by simp [sysOnly, Rng.isCtl, hsys, reachOk])]
  simpa [Kind.rmw, Kind.writes, portLoad, hsys, hwin, hs, ha, hcross, ownAcc] using hx

/-- A vector access that the checks pass in the own memory goes straight on. -/
theorem vectorAccess_ownAcc {s : State} {pa : Word} {n al w off : Nat} {kind : Kind} {win : Bool}
    (h : addressCheck s s.cur.place pa n al kind win = .ok s (ownAcc s.cur.place pa w off)) (f : State → Acc → Res) :
    vectorAccess s pa n al kind win f = f s (ownAcc s.cur.place pa w off) := by
  simp [vectorAccess, h, crossing, Acc.inMemory]

/-! ### Scalar loads (R318, R320, R321) -/

section
variable {s : State} (hq : Quiet s) (hb : s.here.blk = none) {i : Instr} {t a : BitVec 5} {d : BitVec 11} {n w off : Nat} (hn : n ≤ 16)
  (h : OwnAt s.cur.place (s.opG a + d.signExtend 64) n n w off)
include hq hb hn h

/-- A scalar load of the own memory gives its register the value there, extended as its word says. -/
theorem load_own {sgn : Bool} (he : exec i s = load i t a d n sgn s) :
    Reads i t s (s.ownRng w off) n
      (if sgn then signExt (8 * n) (ofBytes (s.ownBytes s.cur.place off n)) else BitVec.ofNat 64 (ofBytes (s.ownBytes s.cur.place off n))) := by
  intro hi
  rw [he, load, word_admitted hi, scalarLoad, State.eaDisp, sx, accessing_own h (by simp) (by simp), loadBytes_own hq hb _ _ _ _ (.inl hn), done_ok]
  rfl

theorem load_own_zero (he : exec i s = load i t a d n false s) :
    Reads i t s (s.ownRng w off) n (BitVec.ofNat 64 (ofBytes (s.ownBytes s.cur.place off n))) := load_own hq hb hn h he

theorem load_own_sign (he : exec i s = load i t a d n true s) :
    Reads i t s (s.ownRng w off) n (BitVec.ofInt 64 (sintN (8 * n) (ofBytes (s.ownBytes s.cur.place off n)))) := load_own hq hb hn h he

end

/-- An `ld.acq` of the own memory gives its register the value there, and is an acquire; at scope `.s` no host-window store is pending. -/
theorem ldAcq_own {s : State} (hq : Quiet s) (hb : s.here.blk = none) {t a : BitVec 5} {c : BitVec 2} {d : BitVec 11} {w off : Nat}
    (hc : c = 3 → hostPending s s.cur.place = false) (h : OwnAt s.cur.place (s.opG a + d.signExtend 64) 8 8 w off) :
    Acquires (.ldAcq t a c d) t s (s.ownRng w off) 8 (BitVec.ofNat 64 (ofBytes (s.ownBytes s.cur.place off 8))) := by
  intro hi
  have hsb : (s.coreAt s.cur.place).sbuf = [] := hq.2.1
  have hp : ¬ (c = 3 ∧ hostPending s s.cur.place = true) := fun ⟨h3, hp⟩ => by simp [hc h3] at hp
  rw [exec_ldAcq, execLdAcq, word_admitted hi, State.eaDisp, sx, accessing_own h (by simp) (by simp)]
  dsimp only
  rw [if_neg (by simpa [hsb] using hp), loadBytes_own hq hb _ _ _ _ (.inl (by decide)), done_ok]
  rfl

/-! ### Vector loads through RAW and FUTURE (R43, R351, R352) -/

/-- `vld` of the own memory. -/
theorem vld_own {s : State} (hq : Quiet s) (hw : Whole s) (hb : s.here.blk = none) {t a : BitVec 5} {d : BitVec 11} {w off : Nat}
    (h : OwnAt s.cur.place (s.opG a + d.signExtend 64) 64 16 w off) (hi : Admitted (.vld t a d) s) :
    exec (.vld t a d) s = .next ((s.sees (s.ownRng w off) 64).setV t (BitVec.ofNat 512 (ofBytes (s.ownBytes s.cur.place off 64)))).retired := by
  rw [exec_vld, execVld, word_admitted hi, State.eaDisp, sx, vectorAccess_ownAcc (addressCheck_own h (by simp) (by simp)),
    loadBytes_own hq hb _ _ _ _ (.inr hw), done_ok]
  rfl

/-- `vld.w` of the own memory through RAW or FUTURE: the value of `vld`, a cycle earlier. -/
theorem vldW_own {s : State} (hq : Quiet s) (hw : Whole s) (hb : s.here.blk = none) {t a : BitVec 5} {d : BitVec 11} {w off : Nat}
    (h : OwnAt s.cur.place (s.opG a + d.signExtend 64) 64 16 w off) (hi : Admitted (.vldW t a d) s) :
    exec (.vldW t a d) s = .next (({ s with cur := { s.cur with lat := 4 } }.sees (s.ownRng w off) 64).setV t
      (BitVec.ofNat 512 (ofBytes (s.ownBytes s.cur.place off 64)))).retired := by
  have hw1 : ¬ 2 ≤ w := by obtain ⟨-, -, hw1, -⟩ := h; omega
  rw [exec_vldW, execVldW, word_admitted hi, State.eaDisp, sx, vectorAccess_ownAcc (addressCheck_vldW h)]
  dsimp only [ownAcc_rng]
  rw [if_neg hw1]
  refine congrArg done (loadBytes_own (s := { s with cur := { s.cur with lat := 4 } }) hq hb _ w off 64 (.inr hw) _) |>.trans ?_
  rw [done_ok]
  rfl

/-- Settles O9: a lemma for each kind of load. -/
theorem loadResults : Obligations.LoadResults := by
  unfold Obligations.LoadResults
  refine ⟨fun s t a d c w off hq hb => ⟨fun h => ?_, fun h => ?_, fun h => ?_, fun h => ?_⟩, fun s t a d w off hq hw hb h => ?_⟩
  · exact ⟨load_own_zero hq hb (by decide) h (exec_ldB t a d s), load_own_sign hq hb (by decide) h (exec_ldBx t a d s)⟩
  · exact ⟨load_own_zero hq hb (by decide) h (exec_ldH t a d s), load_own_sign hq hb (by decide) h (exec_ldHx t a d s)⟩
  · exact ⟨load_own_zero hq hb (by decide) h (exec_ldW t a d s), load_own_sign hq hb (by decide) h (exec_ldWx t a d s)⟩
  · exact ⟨load_own_zero hq hb (by decide) h (exec_ldD t a d s), fun hc => ldAcq_own hq hb hc h⟩
  · exact ⟨vld_own hq hw hb h, vldW_own hq hw hb h⟩

end Sys2Proof.Machine
end

section
/-! PROOFS. READY slots after a step (R63, R215, R216): two slots whose save areas stand at one key. -/

namespace Sys2Proof.Machine

/-! ### A state in which one save area serves two slots

`coreKey` places the units from 12 on by their number less 16, so the save areas of slot 0 of core 0 of units 12 and 16 are the same bytes.  No module has a unit 12
(R8); the statement asks nothing of the place but its core and slot numbers. -/

/-- Slot 0 of core 0 of unit 12, which no module has, and of rim die 0. -/
def strayPlace : Place := ⟨12, 0, 0⟩
def rimPlace : Place := ⟨16, 0, 0⟩

theorem saveArea_shared :
    coreKey strayPlace.unit strayPlace.core (saveOff strayPlace) = coreKey rimPlace.unit rimPlace.core (saveOff rimPlace) ∧ strayPlace.ok = false ∧ rimPlace.ok = true := by
  decide

/-- The save area of both. -/
def sharedSave : Nat := coreKey rimPlace.unit rimPlace.core (saveOff rimPlace)

/-- A SAVEBAD event of the stray slot that rim die 0 holds for want of an entry: a later one of its source waits behind it (R263). -/
def strayHeld : EvRec := { stamp := 0, src := 12 * 128, slot := 0, fatal := true, ty := 0xB, ctx := 0, d0 := 0, d1 := 0 }

/-- The UNCORR event of the shared word, which has entered while its action was stopped. -/
def uncorrOwed : EvRec :=
  { stamp := 0, src := 16 * 128, slot := 0, fatal := false, ty := 3, ctx := 0, d0 := BitVec.ofNat 64 (16 * 128), d1 := BitVec.ofNat 64 (sharedSave % 2 ^ 20) }

/-- Both slots are READY and not held; a correctable and an uncorrectable error are listed at the first word of their save area. -/
def sharedSaveState : State :=
  { State.reset with
    slots := [(slotKey strayPlace, { Slot.empty with st := .ready }), (slotKey rimPlace, { Slot.empty with st := .ready })]
    errs := [(sharedSave, some 0), (sharedSave, none)]
    rims := [(0, { Rim.empty with stage := { recs := [], held := [strayHeld], owed := [uncorrOwed] } })]
    agenda := [.event .overtemperatureRelease default] }

/-- What the step leaves: the SAVEBAD event of the stray slot finds no entry, so that slot stays READY; the rim die's slot then parks, and as it met the shared word the
list of errors has been emptied. -/
def sharedSaveCheck : Bool :=
  match step sharedSaveState with
  | .next t => (t.slot strayPlace).st == .ready && !(t.slot strayPlace).held && (t.slot rimPlace).st == .park &&
      (anyBad t (coreKey strayPlace.unit strayPlace.core (saveOff strayPlace)) (saveLen strayPlace)).isNone
  | _ => false

theorem sharedSave_step : sharedSaveCheck = true := by decide +kernel

/-- Refutes O57: where a READY slot of a unit that no module has shares its save area with a slot of rim die 0, the other slot's resumption forgets the word whose error
has kept the first from resuming. -/
theorem not_readySlotsResume : ¬ Obligations.ReadySlotsResume := by
  unfold Obligations.ReadySlotsResume
  intro h
  have hs := sharedSave_step
  unfold sharedSaveCheck at hs
  split at hs
  case h_1 t ht =>
    simp only [Bool.and_eq_true, beq_iff_eq, Bool.not_eq_true', Option.isNone_iff_eq_none] at hs
    obtain ⟨⟨⟨hready, hheld⟩, -⟩, hnone⟩ := hs
    have hbad := h sharedSaveState t strayPlace ht (by decide) (by decide) hready hheld
    rw [hnone] at hbad
    exact Bool.noConfusion hbad
  case h_2 => cases hs

end Sys2Proof.Machine
end

section
/-! PROOFS. Strided loads in a pair: what the slot still holds of the lanes it has loaded. -/

namespace Sys2Proof.Machine

/-! ### `vld.s` as the first word of a pair (R284, R354)

A strided load keeps each lane that it has read in its slot's `resp` until all of them are there.  A lone word clears `resp` as it completes; the first word of a pair leaves
it for the end of the bundle, so beside the record of observations the state it leaves differs from the one before in more than v[D] and the program counter. -/

/-- A write of a vector register and the end of a word that is the first of a pair leave a slot's `resp` as it was. -/
theorem resp_retired_first {s : State} (h : s.cur.half = .c) (hr : s.cur.place.rim = false) (d : BitVec 5) (x : VReg) :
    (s.setV d x).retired.here.resp = s.here.resp := by
  rw [State.setV_bed hr, State.retired, State.retireTo, if_neg (by simp [h])]
  simp [State.here, State.modTh, State.modHere, Slot.retire, h]

/-- A heavy slot of bed 0 about to load lanes of 8 bytes, g1 its base and g2 its descriptor of stride 0, in the first word of a pair. -/
def firstOfPair : State :=
  { State.reset with
    slots := [(0, { Slot.empty with st := .run, th := { Thread.zero with g := ((Vector.replicate 32 0).set 1 0xF000F00000001000).set 2 (3 * 2 ^ 32) } })]
    feat := BitVec.allOnes 256
    cur := { Cur.none with half := .c } }

/-- Eight lanes are active, each of them at offset 0x1000 of the own memory. -/
theorem firstOfPair_lanes : 2 ^ ((firstOfPair.opG 2).toNat / 2 ^ 32 % 4) = 8 ∧
    ∀ k < 8, OwnAt ⟨0, 0, 0⟩ (firstOfPair.opG 1 + BitVec.ofInt 64 ((k : Nat) * sintN 32 (firstOfPair.opG 2).toNat)) 8 8 0 0x1000 := by
  unfold OwnAt; decide +kernel

theorem firstOfPair_quiet : Quiet firstOfPair ∧ Whole firstOfPair := by
  refine ⟨?_, rfl, fun _ => rfl⟩
  unfold Quiet Unarmed Performed NoneSent
  decide +kernel

/-- The word completes, and its slot holds lanes. -/
theorem firstOfPair_holds : (match exec (.vldS 1 1 2) firstOfPair with
    | .next t => t.cur.ended == .no && !t.here.resp.isEmpty
    | _ => false) = true := by
  decide +kernel

/-- Refutes O12: the first word of a pair that is a `vld.s` with active lanes leaves what it has loaded in its slot's `resp`. -/
theorem not_vectorAccesses : ¬ Obligations.VectorAccesses := by
  unfold Obligations.VectorAccesses
  rintro ⟨-, h⟩
  obtain ⟨hn, hl⟩ := firstOfPair_lanes
  obtain ⟨hq, hw⟩ := firstOfPair_quiet
  obtain ⟨hload, -⟩ := h firstOfPair 1 1 2 (fun _ => 0x1000) hq hw rfl (by decide +kernel) rfl rfl (by rw [hn]; exact fun k hk _ => hl k hk)
  obtain ⟨u, r, ⟨seen, heard, rfl⟩, he, -⟩ := hload (by unfold Admitted; decide +kernel)
  have hheld := firstOfPair_holds
  rw [he] at hheld
  have hresp := resp_retired_first (s := { firstOfPair with seen := seen, heard := heard }) rfl rfl 1 r
  simp only [hresp, Bool.and_eq_true] at hheld
  exact Bool.noConfusion hheld.2

end Sys2Proof.Machine
end

section
/-! PROOFS. The state right after reset. -/

namespace Sys2Proof.Machine

@[simp] theorem State.slot_reset (p : Place) : State.reset.slot p = Slot.empty := rfl
@[simp] theorem State.core_reset (u c : Nat) : State.reset.core u c = Core.empty := rfl
@[simp] theorem State.bed_reset (b : Nat) : State.reset.bed b = Bed.empty := rfl
@[simp] theorem State.spire_reset (die link : Nat) : State.reset.spire die link = Spire.down := rfl

/-- Settles O58: a register that no table lists reads as its unit's reset state; the fields are as `State.reset` gives them. -/
theorem resetValues : Obligations.ResetValues := by
  unfold Obligations.ResetValues
  refine ⟨rfl, rfl, rfl, rfl, rfl, rfl, rfl, rfl, rfl, fun p => ?_, fun u c n => ⟨rfl, ?_⟩, fun u n => ?_⟩
  · rw [State.slot_reset]
    exact ⟨rfl, rfl, rfl, fun h => by cases h.1⟩
  · rw [State.core_reset]; rfl
  · rw [State.bed_reset, State.spire_reset]
    exact ⟨rfl, rfl, rfl, rfl⟩

end Sys2Proof.Machine
end

section
/-! PROOFS. What leaves the beds' reset registers and launch queues alone: errors and events, writes, parking, gangs and packets lost. -/

namespace Sys2Proof.Machine

/-- What a reset goes by is unchanged: each bed's reset registers (R475) and launch queues (R239), the management plane's own state, and the step's arguments. -/
structure SameResets (s t : State) : Prop where
  rst : ∀ n, (t.bed n).rst = (s.bed n).rst
  lq : ∀ n, (t.bed n).lq = (s.bed n).lq
  boot : t.boot = s.boot
  arg : t.arg = s.arg

theorem SameResets.of_beds {s t : State} (h : t.beds = s.beds) (hb : t.boot = s.boot) (ha : t.arg = s.arg) : SameResets s t :=
  ⟨fun n => by simp [State.bed, h], fun n => by simp [State.bed, h], hb, ha⟩

theorem SameResets.refl (s : State) : SameResets s s := .of_beds rfl rfl rfl

theorem SameResets.trans {s t u : State} (h : SameResets s t) (h' : SameResets t u) : SameResets s u :=
  ⟨fun n => (h'.rst n).trans (h.rst n), fun n => (h'.lq n).trans (h.lq n), h'.boot.trans h.boot, h'.arg.trans h.arg⟩

/-- The two steps in the other order, the state between them read off the later one. -/
theorem SameResets.after {s t u : State} (h' : SameResets t u) (h : SameResets s t) : SameResets s u := h.trans h'

theorem SameResets.foldl {β : Type} {f : State → β → State} (l : List β) (s : State) (h : ∀ u x, SameResets u (f u x)) : SameResets s (l.foldl f s) :=
  List.foldlRecOn (motive := SameResets s) l f (.refl s) fun u hu x _ => hu.trans (h u x)

theorem State.bed_modBed_other (s : State) {b n : Nat} (f : Bed → Bed) (h : n ≠ b) : (s.modBed b f).bed n = s.bed n := Tbl.get_set_other _ _ _ _ _ h

theorem SameResets.modBed (s : State) (b : Nat) {f : Bed → Bed} (hr : ∀ x, (f x).rst = x.rst) (hq : ∀ x, (f x).lq = x.lq) : SameResets s (s.modBed b f) := by
  refine ⟨fun n => ?_, fun n => ?_, rfl, rfl⟩
  all_goals
    by_cases h : n = b
    · subst h; simp [hr, hq]
    · rw [State.bed_modBed_other s f h]

theorem modSlot_sameResets (s : State) (p : Place) (f : Slot → Slot) : SameResets s (s.modSlot p f) := .of_beds rfl rfl rfl
theorem Puts.sameResets {s t : State} (h : Puts s t) : SameResets s t := by obtain ⟨_, _, _, _, _, _, rfl⟩ := h; exact .of_beds rfl rfl rfl
theorem CoresSlots.sameResets {s t : State} (h : CoresSlots s t) : SameResets s t := by obtain ⟨_, _, rfl⟩ := h; exact .of_beds rfl rfl rfl

/-! ### Errors and events (R62, R63, R262) -/

theorem pushEvent_sameResets (s : State) (unit : Nat) (e : EvRec) : SameResets s (s.pushEvent unit e) := by
  unfold State.pushEvent State.setStage State.addLink
  split
  · split
    · exact .modBed s unit (fun _ => rfl) fun _ => rfl
    · exact .of_beds rfl rfl rfl
  · split
    · exact .of_beds rfl rfl rfl
    · split <;> exact .of_beds rfl rfl rfl

theorem raise_sameResets (s : State) (unit core slot ty ctx : Nat) (d0 d1 : Word) : SameResets s (s.raise unit core slot ty ctx d0 d1) :=
  pushEvent_sameResets s unit _

theorem countErr_sameResets (s : State) (k : Nat) (uncorr : Bool) : SameResets s (countErr s k uncorr) := by
  unfold countErr
  dsimp only
  split
  · exact .of_beds rfl rfl rfl
  · split
    · exact .modBed s _ (fun _ => by split <;> rfl) fun _ => by split <;> rfl
    · split <;> exact .of_beds rfl rfl rfl

theorem meetBad_sameResets (s : State) (k : Nat) : SameResets s (meetBad s k) := (countErr_sameResets s _ true).trans (raise_sameResets ..)

theorem correct_sameResets (s : State) (k n : Nat) : SameResets s (correct s k n) :=
  .foldl _ s fun u e => (countErr_sameResets u e.1 false).trans (.of_beds rfl rfl rfl)

theorem meetBads_sameResets (l : List (Nat × Option Nat)) (s : State) : SameResets s (l.foldl (fun t e => meetBad t e.1) s) :=
  .foldl l s fun u e => meetBad_sameResets u e.1

theorem see_sameResets (s : State) (k n : Nat) : SameResets s (s.see k n) := by
  have h : SameResets s (s.meet k n).1 := (correct_sameResets s k n).trans (meetBads_sameResets _ _)
  unfold State.see
  dsimp only
  split
  · exact .refl s
  · split
    · exact h.trans (.of_beds rfl rfl rfl)
    · exact h

/-! ### Writes at the home -/

theorem heal_sameResets (s : State) (k n : Nat) : SameResets s (heal s k n) :=
  (meetBads_sameResets _ s).trans (.of_beds rfl rfl rfl)

theorem putWord_sameResets (s : State) (p : Path) (k : Nat) (bs : List Byte) : SameResets s (putWord s p k bs) := by
  unfold putWord
  split
  · exact meetBad_sameResets s k
  · exact (correct_sameResets s k _).trans (.foldl _ _ fun _ _ => .of_beds rfl rfl rfl)

theorem putWords_sameResets (p : Path) (f : Nat) (s : State) (k : Nat) (bs : List Byte) : SameResets s (putWords s p f k bs) := by
  induction f generalizing s k bs with
  | zero => exact .refl s
  | succ f ih =>
    rw [putWords]
    split
    · exact .refl s
    · exact (putWord_sameResets s p k _).trans (ih _ _ _)

theorem put_sameResets (s : State) (p : Path) (k : Nat) (bs : List Byte) : SameResets s (s.put p k bs) := by
  by_cases hb : bs = []
  · subst hb; exact .refl s
  · rw [s.put_eq p k bs hb]
    exact ((heal_sameResets s k _).trans (putWords_sameResets p _ _ k bs)).trans (State.written_puts _ p k _).sameResets

theorem saveSlot_sameResets (s : State) (p : Place) : SameResets s (s.saveSlot p) := by
  unfold State.saveSlot
  dsimp only
  split
  · exact ((((((put_sameResets ..).trans (put_sameResets ..)).trans (put_sameResets ..)).trans (put_sameResets ..)).trans (put_sameResets ..)).trans
      (put_sameResets ..)).trans (put_sameResets ..)
  · exact (put_sameResets ..).trans (put_sameResets ..)

/-! ### A slot that parks (R94, R256, R257) -/

theorem dropMatrix_sameResets (s : State) (u c : Nat) : SameResets s (dropMatrix s u c) := .of_beds rfl rfl rfl

theorem freezeTo_sameResets (s : State) (u c : Nat) (g : Img) : SameResets s (freezeTo s u c g) := by
  have hput : ∀ (off : Nat) (bs : List Byte), SameResets s (putImg s g off bs) := fun off bs =>
    List.foldlRecOn (motive := fun a : State × List Byte => SameResets s a.1) _ _ (.refl s) fun a ha e _ => ha.trans (put_sameResets ..)
  unfold freezeTo
  dsimp only
  split
  · exact dropMatrix_sameResets s u c
  · refine SameResets.trans ?_ (dropMatrix_sameResets _ u c)
    exact (hput 0 _).trans (.of_beds rfl rfl rfl)

theorem withdrawMatrix_sameResets (s : State) (p : Place) : SameResets s (withdrawMatrix s p) := by
  unfold withdrawMatrix
  dsimp only
  split
  · exact .refl s
  · exact SameResets.after (wakeMatrix_coresSlots _ p.unit p.core).sameResets (.of_beds rfl rfl rfl)

theorem seeImage_sameResets (s : State) (bed core : Nat) (ctx : BitVec 12) : SameResets s (s.seeImage bed core ctx) := by
  unfold State.seeImage
  dsimp only
  split
  · split
    · exact see_sameResets ..
    · exact .refl s
  · exact .refl s

theorem parkLeaves_sameResets (s : State) (p : Place) : SameResets s (parkLeaves s p) := by
  unfold parkLeaves
  dsimp only
  split
  · split
    · exact ((seeImage_sameResets ..).trans (withdrawMatrix_sameResets ..)).trans (freezeTo_sameResets ..)
    · exact (seeImage_sameResets ..).trans (dropMatrix_sameResets ..)
  · exact .refl s

/-! ### Packets lost inside a bed (R94, R476) -/

theorem loseResponse_sameResets (s : State) (i : Nat) (q : Pkt) (unit : Nat) : SameResets s (loseResponse s i q unit) := by
  have hraise : ∀ d0 d1 : Word, SameResets s ((dropPkt s i).raise unit 0 0 6 0 d0 d1) := fun d0 d1 =>
    (raise_sameResets (dropPkt s i) unit 0 0 6 0 d0 d1).after (.of_beds rfl rfl rfl)
  have hpark : ∀ (t : State) (p : Place), SameResets t
      (parkLeaves (((t.modSlot p Slot.unwound).saveSlot p).modSlot p fun x => { x with st := .park, parkWhy := 2, held := false }) p) := fun t p =>
    (((modSlot_sameResets t p _).trans (saveSlot_sameResets _ p)).trans (modSlot_sameResets _ p _)).trans (parkLeaves_sameResets _ p)
  unfold loseResponse
  dsimp only
  generalize hm : (_ && _ && _ : Bool) = mine
  split
  · exact .refl s
  · split
    · exact (hraise _ _).trans (hpark _ _)
    · exact hraise _ _

theorem dropInside_sameResets (s : State) (bed : Nat) : SameResets s (dropInside s bed) := by
  refine SameResets.after (.foldl _ _ fun u q => ?_) (.of_beds rfl rfl rfl)
  unfold lostInside
  split
  · exact .refl u
  · exact (loseResponse_sameResets ..).after (.of_beds rfl rfl rfl)

/-! ### Threads lost inside a bed (R177, R244) -/

theorem hwArrive_sameResets (s : State) (u c n : Nat) : SameResets s (hwArrive s u c n) := by
  have hdom : ∀ t : State, SameResets t (finishDomBar t u c n) := fun t => by
    unfold finishDomBar
    dsimp only
    split
    · exact SameResets.after (.modBed _ u (fun _ => rfl) fun _ => rfl) (.of_beds rfl rfl rfl)
    · exact .refl t
  unfold hwArrive
  split
  · exact raise_sameResets ..
  · exact (hdom _).after ((finishCoreBar_coresSlots _ u c n).sameResets.after (.of_beds rfl rfl rfl))

theorem gangEnded_sameResets (s : State) (g : Option (Nat × Nat)) : SameResets s (gangEnded s g) := by
  unfold gangEnded
  split
  · exact .refl s
  · next b id =>
    split
    · exact .refl s
    · next x _ =>
      have hdone : ∀ t : State, SameResets t (if x.evt then t.raise b 0 0 9 x.ctx.toNat (x.tag.zeroExtend 64) 0 else t) := fun t => by
        split
        · exact raise_sameResets ..
        · exact .refl t
      have hleft : ∀ f : Bed → Tbl Gang, SameResets s (s.modBed b fun d => { d with gangs := f d }) := fun f => .modBed s b (fun _ => rfl) fun _ => rfl
      dsimp only
      split
      · exact hleft _
      · refine SameResets.trans ?_ (hdone _)
        split
        · exact (hleft _).trans (hwArrive_sameResets ..)
        · exact hleft _

theorem loseThread_sameResets (s : State) (name : BitVec 15) (ctx : BitVec 12) (g : Option (Nat × Nat)) : SameResets s (loseThread s name ctx g) := by
  have hhome : ∀ t : State, SameResets t (releaseHome t name true) := fun t => by
    unfold releaseHome
    dsimp only
    split
    · exact .of_beds rfl rfl rfl
    · exact .refl t
  exact ((raise_sameResets ..).trans (hhome _)).trans (gangEnded_sameResets ..)

theorem loseLanded_sameResets (s : State) (bed : Nat) : SameResets s (loseLanded s bed) :=
  SameResets.trans (.foldl _ s fun _ _ => loseThread_sameResets ..) (.foldl _ _ fun _ _ => loseThread_sameResets ..)

end Sys2Proof.Machine
end

section
/-! PROOFS. Reset of a bed, its restoration from a checkpoint, the clock and the temperature. -/

namespace Sys2Proof.Machine

/-! ### DRAIN (R475 to R477) -/

theorem drainBed_bed (s : State) (b : Nat) :
    (drainBed s b).bed b = { s.bed b with engines := [], graft := Engine.empty, landing := [], opBusy := none } := State.bed_modBed ..

theorem drainBed_bed_other (s : State) {b n : Nat} (h : n ≠ b) : (drainBed s b).bed n = s.bed n :=
  (State.bed_modBed_other _ _ h).trans (State.bed_modBed_other _ _ h)

theorem drainBed_boot (s : State) (b : Nat) : (drainBed s b).boot = s.boot := rfl

/-- No slot of the bed holds a thread once it drains. -/
theorem drainBed_slots (s : State) (b : Nat) : ∀ e ∈ (drainBed s b).slots, e.1 / 1024 = b → e.2.st = .free := by
  intro e he hb
  obtain ⟨x, -, rfl⟩ := List.mem_map.1 (show e ∈ s.slots.map _ from he)
  by_cases hx : x.1 / 1024 = b
  · simp [hx, Slot.emptied, Slot.empty]
  · simp [hx] at hb

/-- No core of the bed holds matrix state, a command or a store once it drains. -/
theorem drainBed_cores (s : State) (b : Nat) :
    ∀ e ∈ (drainBed s b).cores, e.1 / 128 = b → e.2.mx = Matrix.empty ∧ e.2.chans = [] ∧ e.2.sbuf = [] := by
  intro e he hb
  obtain ⟨x, -, rfl⟩ := List.mem_map.1 (show e ∈ s.cores.map _ from he)
  by_cases hx : x.1 / 128 = b
  · simp [hx, Core.drained]
  · simp [hx] at hb

/-- The reset registers as a reset begins (R475). -/
def Reset.begun (r : Reset) (c m : Bool) (ts : Word) : Reset :=
  { r with state := 1, reqc := c, reqm := m, count := if r.count = BitVec.allOnes 32 then r.count else r.count + 1, rstts := ts, owed := false }

/-- What a reset has done to the state before it drains its bed (R94, R177, R476). -/
def State.resetBegun (s : State) (b : Nat) (c m : Bool) : State :=
  let s := s.modBed b fun d => { d with gangs := [], rst := d.rst.begun c m s.ts }
  let s := s.pushEvent 24
    { stamp := s.ts, src := s.srcNum b 0, slot := 0, fatal := true, ty := 0xA, ctx := 0, d0 := BitVec.ofNat 64 (b2n c + 2 * b2n m), d1 := 0 }
  loseLanded (dropInside (closeBoundary s b) b) b

theorem startReset_eq (s : State) (b : Nat) (c m : Bool) : startReset s b c m = drainBed (s.resetBegun b c m) b := rfl

theorem resetBegun_sameResets (s : State) (b : Nat) (c m : Bool) :
    SameResets (s.modBed b fun d => { d with gangs := [], rst := d.rst.begun c m s.ts }) (s.resetBegun b c m) := by
  have hclose : ∀ t : State, SameResets t (closeBoundary t b) := fun _ => .of_beds rfl rfl rfl
  exact (((pushEvent_sameResets ..).trans (hclose _)).trans (dropInside_sameResets ..)).trans (loseLanded_sameResets ..)

theorem startReset_rst (s : State) (b : Nat) (c m : Bool) : ((startReset s b c m).bed b).rst = (s.bed b).rst.begun c m s.ts := by
  rw [startReset_eq, drainBed_bed]
  exact ((resetBegun_sameResets s b c m).rst b).trans (by rw [State.bed_modBed])

theorem startReset_lq (s : State) (b : Nat) (c m : Bool) : ((startReset s b c m).bed b).lq = (s.bed b).lq := by
  rw [startReset_eq, drainBed_bed]
  exact ((resetBegun_sameResets s b c m).lq b).trans (by rw [State.bed_modBed])

theorem startReset_rst_other (s : State) {b n : Nat} (c m : Bool) (h : n ≠ b) : ((startReset s b c m).bed n).rst = (s.bed n).rst := by
  rw [startReset_eq, drainBed_bed_other _ h]
  exact ((resetBegun_sameResets s b c m).rst n).trans (by rw [State.bed_modBed_other s _ h])

theorem startReset_boot (s : State) (b : Nat) (c m : Bool) : (startReset s b c m).boot = s.boot := by
  rw [startReset_eq, drainBed_boot]
  exact (resetBegun_sameResets s b c m).boot

/-- A request for a reset of a bed is carried out (R474, R477). -/
theorem bedResetRequest_requests {s : State} (hb : s.arg.unit < 12) (hf : s.arg.flag = true ∨ s.arg.flag2 = true) :
    exec .bedResetRequest s = .next (requestReset s s.arg.unit s.arg.flag s.arg.flag2) := by
  rw [exec_bedResetRequest, execBedResetRequest, if_neg]
  rintro (h | ⟨h1, h2⟩)
  · omega
  · simp [h1, h2] at hf

/-! ### CLEAR (R67, R476) -/

theorem memGet_filter (m : List Host.Cell) (f : Nat → Bool) (k : Nat) :
    memGet (m.filter fun c => f c.1) k = if f k then memGet m k else memDefault k := by
  induction m with
  | nil => simp [memGet]
  | cons e r ih =>
    obtain ⟨a, b⟩ := e
    rw [List.filter_cons]
    by_cases ha : a = k
    · subst ha
      by_cases hf : f a = true <;> simp [hf, memGet, ih]
    · by_cases hf : f a = true <;> simp [hf, memGet, ha, ih]

/-- The state of a bed once it has been cleared, before its boundary opens. -/
def State.cleared (s : State) (b : Nat) : State := clearBedMem (emptyBed s b) b

theorem State.cleared_mem (s : State) (b k : Nat) : memGet (s.cleared b).mem k = if inBedMem b k then memDefault k else memGet s.mem k := by
  have h : memGet (s.cleared b).mem k = if !inBedMem b k then memGet s.mem k else memDefault k := memGet_filter s.mem (fun k => !inBedMem b k) k
  by_cases hk : inBedMem b k = true <;> simpa [hk] using h

theorem emptyBed_bed (s : State) (b : Nat) : (emptyBed s b).bed b = (s.bed b).kept := State.bed_modBed ..

theorem State.cleared_rst (s : State) (b : Nat) : ((s.cleared b).bed b).rst = (s.bed b).rst := by
  have h : (s.cleared b).bed b = (s.bed b).kept := emptyBed_bed s b
  rw [h]; rfl

theorem State.cleared_tags (s : State) (b : Nat) : ∀ w ∈ (s.cleared b).tags, inBedMem b (8 * w) = false := by
  intro w hw
  have h := (List.mem_filter.1 (show w ∈ s.tags.filter _ from hw)).2
  simpa using h

theorem State.cleared_slots (s : State) (b : Nat) : ∀ e ∈ (s.cleared b).slots, e.1 / 1024 ≠ b := by
  have hkeys : ∀ (f : Nat × Slot → Nat × Slot) (_ : ∀ e, (f e).1 = e.1) (l : Tbl Slot), (∀ e ∈ l, e.1 / 1024 ≠ b) → ∀ e ∈ l.map f, e.1 / 1024 ≠ b := by
    intro f hf l hl e he
    obtain ⟨x, hx, rfl⟩ := List.mem_map.1 he
    rw [hf]
    exact hl x hx
  refine hkeys _ (fun e => ?_) _ (hkeys _ (fun e => ?_) _ fun e he => ?_)
  · split
    · split <;> rfl
    · rfl
  · split
    · split <;> rfl
    · rfl
  · simpa using (List.mem_filter.1 he).2

/-- While DRAIN has left no event, the bed goes on to CLEAR. -/
theorem resetClear_drained {s : State} (hb : s.arg.unit < 12) (h1 : (s.bed s.arg.unit).rst.state = 1) (hr : (s.bed s.arg.unit).stage.recs = [])
    (hh : (s.bed s.arg.unit).stage.held = []) :
    exec .resetClear s = .next (s.modBed s.arg.unit fun d => { d with rst := { (s.bed s.arg.unit).rst with state := 2 } }) := by
  rw [exec_resetClear, execResetClear]
  simp only [if_neg (show ¬ 12 ≤ s.arg.unit by omega), h1, if_true, hr, hh, ne_eq, not_true_eq_false, or_self, if_false]
  rfl

theorem resetClear_clears {s : State} (hb : s.arg.unit < 12) (h2 : (s.bed s.arg.unit).rst.state = 2) (hh : s.boot.hot = false) :
    exec .resetClear s = .next (openBoundary ((s.cleared s.arg.unit).modBed s.arg.unit fun d =>
      { d with rst := { d.rst with state := 0, readyts := s.ts, owed := true } }) s.arg.unit) := by
  rw [exec_resetClear, execResetClear]
  simp only [if_neg (show ¬ 12 ≤ s.arg.unit by omega), h2, hh, ne_eq, not_true_eq_false, Bool.false_eq_true, or_self, if_false, OfNat.ofNat_ne_one]
  rfl

theorem openBoundary_rst (s : State) (b n : Nat) : ((openBoundary s b).bed n).rst = (s.bed n).rst := rfl

/-- The reset registers of a bed that is READY again (R475, R476). -/
theorem State.cleared_ready_rst (s : State) (b : Nat) (ts : Word) :
    ((openBoundary ((s.cleared b).modBed b fun d => { d with rst := { d.rst with state := 0, readyts := ts, owed := true } }) b).bed b).rst =
      { (s.bed b).rst with state := 0, readyts := ts, owed := true } := by
  rw [openBoundary_rst, State.bed_modBed, State.cleared_rst]

/-! ### Checkpoints (R97, R478) -/

theorem restoreTrellis_sameResets (s : State) (b : Nat) : SameResets s (restoreTrellis s b) :=
  SameResets.trans (.foldl _ s fun _ _ => put_sameResets ..) (.foldl _ _ fun _ _ => put_sameResets ..)

/-- The bed's Trellis copy is written again, and firmware owes it nothing more (R97, R476). -/
def State.trellised (s : State) (b : Nat) : State := restoreTrellis (s.modBed b fun d => { d with rst := { d.rst with owed := false } }) b

theorem State.trellised_rst (s : State) (b : Nat) : ((s.trellised b).bed b).rst = { (s.bed b).rst with owed := false } :=
  ((restoreTrellis_sameResets _ b).rst b).trans (by rw [State.bed_modBed])

theorem State.trellised_boot (s : State) (b : Nat) : (s.trellised b).boot = s.boot := (restoreTrellis_sameResets _ b).boot
theorem State.trellised_arg (s : State) (b : Nat) : (s.trellised b).arg = s.arg := (restoreTrellis_sameResets _ b).arg

theorem writeAt_sameResets (s : State) (unit : Nat) (q : Path) {r : Rng} (hr : r.isCtl = false) (bs : List Byte) : SameResets s (writeAt s unit q r bs) := by
  have hpieces : ∀ t : State, SameResets t ((piecesOf bs.length).foldl (fun t pc => match t.keyOf unit (r.add pc.1) with
      | none => t
      | some k => t.put q k ((bs.drop pc.1).take pc.2)) t) := fun t => .foldl _ t fun u pc => by
    split
    · exact .refl u
    · exact put_sameResets ..
  unfold writeAt
  rw [if_neg (by simp [hr])]
  refine SameResets.after (hpieces _) ?_
  split
  · exact heal_sameResets ..
  · exact .refl s

theorem copySegment_sameResets (s : State) (b : Nat) (g : Nat × Nat × Nat) : SameResets s (copySegment s b g) := by
  refine iteInduction (motive := SameResets s) (fun h => writeAt_sameResets s 16 .ce ?_ _) fun _ => .refl s
  split at h
  · next hd => rw [hd]; rfl
  · next hd => rw [hd]; rfl
  · cases h

/-- A segment whose destination lies in a vault of the bed is copied there. -/
theorem copySegment_vault {s : State} (he : s.errs = []) {b a v off o n : Nat} (ha : a < 2 ^ 52) (hd : decodeLa 31 0 a = .vault b v off) (ho : off + n ≤ 2 ^ 26) :
    (copySegment s b (a, o, n)).mem = memSetMany s.mem (vaultKey b v off) (hbmPeek s o n) := by
  have hk : ∀ i, vaultKey b v (off + i) = vaultKey b v off + i := fun i => by unfold vaultKey; omega
  have hw : writeAt s 16 .ce (.vault b v off) (hbmPeek s o n) =
      (piecesOf (hbmPeek s o n).length).foldl (fun t pc => t.putPiece .ce (vaultKey b v off) (hbmPeek s o n) pc) s := by
    unfold writeAt
    rw [if_neg (by simp [Rng.isCtl])]
    simp only [State.keyOf, heal_noErrs s _ _ he, Rng.add, hk, State.putPiece]
  obtain ⟨-, hm⟩ := putPieces_mem he .ce (vaultKey b v off) (hbmPeek s o n) (((hbmPeek s o n).length + 15) / 16)
  rw [List.take_of_length_le (by omega)] at hm
  simp only [copySegment, Nat.mod_eq_of_lt ha, hd, beq_self_eq_true, ho, decide_true, Bool.and_self, if_true, hw]
  exact hm

/-- What firmware does with the checkpoint it has chosen, or with none. -/
def State.restoredFrom (s : State) (b : Nat) : Option Ckpt → State
  | none => s.tell 4 (bytesOf 8 0)
  | some c => (c.segs.foldl (fun t g => copySegment t b g) s).tell 4 (bytesOf 8 c.stamp)

theorem State.restoredFrom_owed (s : State) (b : Nat) (c : Option Ckpt) : ((s.restoredFrom b c).bed b).rst = (s.bed b).rst := by
  cases c with
  | none => rfl
  | some c => exact (SameResets.foldl c.segs s fun u g => copySegment_sameResets u b g).rst b

theorem State.restoredFrom_answers (s : State) (b : Nat) (c : Option Ckpt) :
    (s.restoredFrom b c).boot.answers = s.boot.answers ++ [(4, bytesOf 8 ((c.map (·.stamp)).getD 0))] := by
  cases c with
  | none => rfl
  | some c =>
    have h := (SameResets.foldl c.segs s fun u g => copySegment_sameResets u b g).boot
    exact congrArg (fun x : Boot => x.answers ++ [(4, bytesOf 8 c.stamp)]) h

/-- The restoration of a READY bed that is owed one. -/
theorem checkpointRestore_restores {s : State} (hb : s.arg.unit < 12) (h0 : (s.bed s.arg.unit).rst.state = 0) (ho : (s.bed s.arg.unit).rst.owed = true) :
    let u := s.trellised s.arg.unit
    exec .checkpointRestore s = .next (u.restoredFrom s.arg.unit
      (ckptBest ((s.arg.words.map fun (w : Word) => readCkpt u w.toNat).filter fun c => ckptGood u s.arg.unit c))) := by
  intro u
  have harg : u.arg = s.arg := s.trellised_arg _
  rw [exec_checkpointRestore, execCheckpointRestore, if_neg (by simp [h0, ho]; omega)]
  change (match ckptBest ((u.arg.words.map fun (w : Word) => readCkpt u w.toNat).filter fun c => ckptGood u s.arg.unit c) with
    | none => Host.Outcome.next (u.tell 4 (bytesOf 8 0))
    | some c => .next ((c.segs.foldl (fun t g => copySegment t s.arg.unit g) u).tell 4 (bytesOf 8 c.stamp))) = _
  rw [harg]
  split
  · next h => rw [h]; rfl
  · next c h => rw [h]; rfl

/-- The chosen checkpoint has the greatest STAMP. -/
theorem ckptBest_greatest (l : List Ckpt) : ∀ c, ckptBest l = some c → ∀ d ∈ l, d.stamp ≤ c.stamp := by
  induction l with
  | nil => intro c h; cases h
  | cons e r ih =>
    intro c h d hd
    rw [ckptBest] at h
    cases hr : ckptBest r with
    | none =>
      simp only [hr, Option.some.injEq] at h
      subst h
      rcases List.mem_cons.1 hd with rfl | hd
      · exact Nat.le_refl _
      · cases r with
        | nil => cases hd
        | cons x y => rw [ckptBest] at hr; split at hr <;> [cases hr; (split at hr <;> cases hr)]
    | some f =>
      have hf := ih f hr
      simp only [hr] at h
      split at h
      all_goals
        next hle =>
        simp only [Option.some.injEq] at h
        subst h
        rcases List.mem_cons.1 hd with rfl | hd
        · omega
        · have := hf d hd; omega

/-! ### Clock and temperature (R479) -/

theorem noBlocks_false_iff (s : State) (b : Nat) : noBlocks s b = false ↔ s.slots.any (fun e => e.1 / 1024 == b && e.2.blk.isSome) = true := by
  simp [noBlocks, Option.isSome_iff_ne_none]

theorem requestReset_state (s : State) (b : Nat) (c m : Bool) : ((requestReset s b c m).bed b).rst.state ≠ 0 := by
  unfold requestReset
  split
  · rw [startReset_rst]; simp [Reset.begun]
  · next h => rw [State.bed_modBed]; exact h

theorem requestReset_state_other (s : State) {b n : Nat} (c m : Bool) (h : n ≠ b) : ((requestReset s b c m).bed n).rst = (s.bed n).rst := by
  unfold requestReset
  split
  · exact startReset_rst_other s c m h
  · rw [State.bed_modBed_other s _ h]

theorem requestReset_boot (s : State) (b : Nat) (c m : Bool) : (requestReset s b c m).boot = s.boot := by
  unfold requestReset
  split
  · exact startReset_boot s b c m
  · rfl

/-- After requests for the first beds each of them is in reset, and the management plane's state is as it was. -/
theorem requestResets_state (s : State) (c m : Bool) (k : Nat) :
    ((List.range k).foldl (fun t b => requestReset t b c m) s).boot = s.boot ∧
    ∀ n < k, (((List.range k).foldl (fun t b => requestReset t b c m) s).bed n).rst.state ≠ 0 := by
  induction k with
  | zero => exact ⟨rfl, fun n h => absurd h (Nat.not_lt_zero n)⟩
  | succ k ih =>
    obtain ⟨hboot, hstate⟩ := ih
    rw [List.range_succ, List.foldl_append]
    refine ⟨(requestReset_boot _ k c m).trans hboot, fun n hn => ?_⟩
    by_cases h : n = k
    · subst h; exact requestReset_state _ n c m
    · rw [List.foldl_cons, List.foldl_nil, requestReset_state_other _ c m h]
      exact hstate n (by omega)

/-- Settles O36: a lemma for each step. -/
theorem resetSteps : Obligations.ResetSteps := by
  unfold Obligations.ResetSteps
  intro s b r
  refine ⟨fun hb hf h0 => ?_, fun hb hf h0 => ?_, fun hb h1 hr hh => resetClear_drained hb h1 hr hh, fun hb h2 hh => ?_, fun hb h0 ho hw => ?_, ?_,
    fun c d l h hd => ckptBest_greatest l c h d hd, fun hb hn => ?_, fun hb hn => ?_, fun hh => ?_, rfl⟩
  · have he := bedResetRequest_requests hb hf
    rw [requestReset, if_pos h0] at he
    exact ⟨_, he, startReset_rst .., drainBed_slots _ b, drainBed_cores _ b, startReset_lq ..⟩
  · rw [bedResetRequest_requests hb hf, requestReset, if_neg h0]; rfl
  · refine ⟨_, resetClear_clears hb h2 hh, s.cleared_ready_rst b s.ts, fun k hk => ?_, fun k hk => ?_, s.cleared_tags b, s.cleared_slots b⟩
    · exact (s.cleared_mem b k).trans (if_pos hk)
    · exact (s.cleared_mem b k).trans (if_neg (by simp [hk]))
  · refine ⟨_, checkpointRestore_restores hb h0 ho, ?_, ?_⟩
    · rw [State.restoredFrom_owed, State.trellised_rst]
    · rw [State.restoredFrom_answers, State.trellised_boot, hw]; rfl
  · intro w c u hb h0 ho hw hc hmagic hbed hstamp hcrc
    have he := checkpointRestore_restores hb h0 ho
    have hgood : ckptGood u b c = true := by
      have hrst : (u.bed b).rst.rstts = r.rstts := (congrArg Reset.rstts (s.trellised_rst b)).trans rfl
      simp [ckptGood, hmagic, hbed, hrst, hstamp, hcrc]
    have hbest : ckptBest ((s.arg.words.map fun (w : Word) => readCkpt u w.toNat).filter fun c => ckptGood u b c) = some c := by
      simp [hw, hc, hgood, ckptBest]
    refine ⟨_, he.trans (congrArg (fun x => Host.Outcome.next (u.restoredFrom b x)) hbest), ?_, ?_, fun a v off o n hs ha hd ho he => ?_⟩
    · rw [State.restoredFrom_owed]; exact congrArg Reset.owed (s.trellised_rst b)
    · rw [State.restoredFrom_answers]; exact congrArg (fun x : Boot => x.answers ++ _) (s.trellised_boot b)
    · have h := copySegment_vault he ha hd ho (o := o)
      simpa [State.restoredFrom, hs, State.tell, State.modBoot] using h
  · rw [exec_clockReduction, execClockReduction, if_pos (.inr ((noBlocks_false_iff s b).1 hn))]
  · have hno : ¬ (12 ≤ b ∨ s.slots.any (fun e => e.1 / 1024 == b && e.2.blk.isSome) = true) := by
      rintro (h | h)
      · omega
      · simp [(noBlocks_false_iff s b).2 h] at hn
    rw [exec_clockReduction, execClockReduction, if_neg hno]
  · obtain ⟨hboot, hstate⟩ := requestResets_state (s.modBoot fun x => { x with hot := true }) false true 12
    refine ⟨_, by rw [exec_overtemperatureReset, execOvertemperatureReset, if_neg (by simp [hh])], ?_, hstate⟩
    rw [hboot]; rfl

end Sys2Proof.Machine
end

section
/-! PROOFS. Explicit packets: what opens, fills and closes a slot's packet, and what a word out of turn meets. -/

namespace Sys2Proof.Machine

/-! ### Blocks of the own memory -/

/-- A word of a slot in no block passes the check that it stands outside one. -/
theorem State.outsideBlock_noBlock {s : State} (h : s.here.blk = none) (sub : Nat) (f : State → Res) : s.outsideBlock sub f = f s := by
  simp [State.outsideBlock, h]

/-- A block in the own memory is read at once, and the thread observes what it reads (R106, R401). -/
theorem readBlock_own {s : State} (hq : Quiet s) (hw : Whole s) (hb : s.here.blk = none) {pa : Word} {n al w off : Nat}
    (h : OwnAt s.cur.place pa n al w off) :
    ∃ u, Observes s u ∧ ∀ f : State → Acc → List Byte → Res, readBlock s pa n al f = f u (ownAcc s.cur.place pa w off) (s.ownBytes s.cur.place off n) := by
  refine ⟨_, observeLoad_frame s s.cur.place (.core s.cur.place.unit s.cur.place.core w off) n, fun f => ?_⟩
  rw [readBlock, accessing_own h (by simp) (by simp), loadBytes_own hq hb pa w off n (.inr hw)]

/-! ### Opening, filling and closing -/

/-- The packet that a head block opens (R401). -/
def openedBy (p : Place) (head : List Byte) : OpenPkt :=
  let ws := wordsOf head
  let w5 := (ws.getD 5 0).toNat
  { route := BitVec.ofNat 256 (ofBytes (head.take 32)), lane := w5 / 2 ^ 5 % 4, kind := w5 % 32,
    dest := resolveLa p.unit p.core ((ws.getD 4 0).toNat % 2 ^ 52), dmod := (ws.getD 4 0).toNat / 2 ^ 52, info := ws.getD 6 0, flits := [] }

/-- The program address of the destination that a head block names (R401). -/
def headDest (head : List Byte) : Word := BitVec.ofNat 64 (0xF * 2 ^ 60 + ((wordsOf head).getD 4 0).toNat % 2 ^ 52)

/-- A head block that passes its checks (R401). -/
structure HeadOk (s : State) (head : List Byte) : Prop where
  fields : headRefused (wordsOf head) (fixedRng s.cur.place (headDest head)) = none
  reach : s.sysMode = true ∨ commandRefused s s.cur.place (headDest head) = false
  route : routeRefused s.cur.place.rim false (BitVec.ofNat 256 (ofBytes (head.take 32))) = none

theorem openPacket_own {s : State} (hq : Quiet s) (hw : Whole s) (hb : s.here.blk = none) {pa : Word} {w off : Nat}
    (h : OwnAt s.cur.place pa 64 64 w off) (hh : HeadOk s (s.ownBytes s.cur.place off 64)) :
    ∃ u, Observes s u ∧ ∀ f, openPacket s pa f = f u (openedBy s.cur.place (s.ownBytes s.cur.place off 64)) := by
  obtain ⟨u, hu, hr⟩ := readBlock_own hq hw hb h
  obtain ⟨hf, hp, hx⟩ := hh
  have hp' : ¬(u.sysMode = false ∧ commandRefused u s.cur.place (headDest (s.ownBytes s.cur.place off 64)) = true) := by
    obtain ⟨seen, heard, rfl⟩ := hu
    exact fun h => hp.elim (fun e => Bool.noConfusion (h.1.symm.trans e)) fun e => Bool.noConfusion (h.2.symm.trans e)
  unfold headDest at hf hp'
  refine ⟨u, hu, fun f => ?_⟩
  rw [openPacket, hr]
  simp only [hf, hx]
  rw [if_neg hp']
  simp only [openedBy, bits, Nat.shiftRight_eq_div_pow]
  rfl

theorem appendFlit_own {s : State} (hq : Quiet s) (hw : Whole s) (hb : s.here.blk = none) {pa : Word} {w off : Nat} {k : OpenPkt}
    (h : OwnAt s.cur.place pa 32 32 w off) (hl : k.flits.length < if k.kind = 0x10 then 1 else 16) :
    ∃ u, Observes s u ∧ ∀ f, appendFlit s k pa f = f u { k with flits := k.flits ++ [s.ownBytes s.cur.place off 32] } := by
  obtain ⟨u, hu, hr⟩ := readBlock_own hq hw hb h
  refine ⟨u, hu, fun f => ?_⟩
  rw [appendFlit, if_neg (by omega), hr]
  simp [Rng.isCtl]

/-- The state once a close has injected its packet and reserved its mailbox entry (R117, R402). -/
def State.closing (s : State) (k : OpenPkt) : State :=
  let t := ({ s with pkts := s.pkts ++ [closedPkt s k] } : State).modCoreAt s.cur.place fun c => { c with mbrsv := c.mbrsv + 1 }
  (t.modHere fun x => { x with pkt := none, expOut := x.expOut + 1 }).tick

theorem closePacket_closes {s : State} {k : OpenPkt} (pa : Word) (hk : closeRefused k = false) (hs : (s.coreAt s.cur.place).sbuf = [])
    (ht : s.here.ntOut = []) (hr : s.here.redOut = 0) (hm : (s.coreAt s.cur.place).mailRoom ≠ 0) : closePacket s k pa = .ok (s.closing k) := by
  simp [closePacket, hk, hs, ht, hr, hm, State.closing]

theorem State.coreAt_closing (s : State) (k : OpenPkt) : ((s.closing k).coreAt s.cur.place).mbrsv = (s.coreAt s.cur.place).mbrsv + 1 := by
  rw [State.closing, State.coreAt, State.modCoreAt, State.core_tick, State.core_modHere, State.core_modCore]; rfl

theorem State.slot_closing (s : State) (k : OpenPkt) :
    (s.closing k).slot s.cur.place = { s.here with pkt := none, expOut := s.here.expOut + 1 } := by
  rw [State.closing, State.slot_tick, State.modHere]; exact State.slot_modSlot _ _ _

/-- What the close of a packet leaves: one packet more, one mailbox entry reserved, and the slot without a packet, with one more unacknowledged (R402). -/
def Closes (s : State) (i : Instr) (o : OpenPkt) : Prop :=
  ∃ u q, exec i s = .next (State.retired u) ∧ u.pkts = s.pkts ++ [q] ∧ q.kind = o.kind ∧ q.dest = o.dest ∧ q.dmod = o.dmod ∧ q.route = o.route ∧ q.info = o.info ∧
    q.xpl = true ∧ q.hop = 0 ∧ q.len = o.flits.length ∧ q.stamp = s.ts ∧ (u.coreAt s.cur.place).mbrsv = (s.coreAt s.cur.place).mbrsv + 1 ∧ u.mem = s.mem ∧
    u.slot s.cur.place = { s.here with pkt := none, expOut := s.here.expOut + 1 }

/-- A word that comes to the close of a packet closes it, whatever the reading of its block has observed. -/
theorem closes_of {s t : State} {i : Instr} {o : OpenPkt} {pa : Word} (hq : Quiet s) (ht : Observes s t) (he : exec i s = done (closePacket t o pa))
    (hk : closeRefused o = false) (hr : s.here.redOut = 0) (hm : (s.coreAt s.cur.place).mailRoom ≠ 0) : Closes s i o := by
  obtain ⟨-, hs, hn, -⟩ := hq
  obtain ⟨seen, heard, rfl⟩ := ht
  have hc := closePacket_closes (s := { s with seen := seen, heard := heard }) pa hk hs hn hr hm
  exact ⟨_, closedPkt _ o, he.trans ((congrArg done hc).trans (done_ok _)), rfl, rfl, rfl, rfl, rfl, rfl, rfl, rfl, rfl, rfl,
    State.coreAt_closing { s with seen := seen, heard := heard } o, rfl, State.slot_closing { s with seen := seen, heard := heard } o⟩

/-! ### Words in turn and out of turn -/

section
variable {s : State} (hb : s.here.blk = none)
include hb

theorem psendOpen_free {a : BitVec 5} (h : s.here.pkt = none) (ha : Admitted (.psendOpen a) s) :
    exec (.psendOpen a) s = done (openPacket s (s.opG a) fun t k => .ok (t.modHere fun x => { x with pkt := some k })) := by
  rw [exec_psendOpen, execPsendOpen, word_admitted ha, State.outsideBlock_noBlock hb, if_neg (by simp [h])]

theorem psendEOpen_free {a : BitVec 5} (h : s.here.pkt = none) (ha : Admitted (.psendEOpen a) s) :
    exec (.psendEOpen a) s = done (openPacket s (s.opG a) fun t k => closePacket t k (t.opG a)) := by
  rw [exec_psendEOpen, execPsendEOpen, word_admitted ha, State.outsideBlock_noBlock hb, if_neg (by simp [h])]

theorem psendOpen_open {a : BitVec 5} {k : OpenPkt} (h : s.here.pkt = some k) (ha : Admitted (.psendOpen a) s) :
    exec (.psendOpen a) s = done (s.illegal 4) := by
  rw [exec_psendOpen, execPsendOpen, word_admitted ha, State.outsideBlock_noBlock hb, if_pos (by simp [h])]

theorem psendEOpen_open {a : BitVec 5} {k : OpenPkt} (h : s.here.pkt = some k) (ha : Admitted (.psendEOpen a) s) :
    exec (.psendEOpen a) s = done (s.illegal 4) := by
  rw [exec_psendEOpen, execPsendEOpen, word_admitted ha, State.outsideBlock_noBlock hb, if_pos (by simp [h])]

theorem psendAppend_eq {a : BitVec 5} (ha : Admitted (.psendAppend a) s) : exec (.psendAppend a) s = done (s.here.pkt.elim (s.illegal 4) fun k =>
    appendFlit s k (s.opG a) fun t k => .ok (t.modHere fun x => { x with pkt := some k })) := by
  rw [exec_psendAppend, execPsendAppend, word_admitted ha, State.outsideBlock_noBlock hb]
  cases s.here.pkt <;> rfl

theorem psendEAppend_eq {a : BitVec 5} (ha : Admitted (.psendEAppend a) s) : exec (.psendEAppend a) s = done (s.here.pkt.elim (s.illegal 4) fun k =>
    appendFlit s k (s.opG a) fun t k => closePacket t k (t.opG a)) := by
  rw [exec_psendEAppend, execPsendEAppend, word_admitted ha, State.outsideBlock_noBlock hb]
  cases s.here.pkt <;> rfl

theorem psendEClose_eq (ha : Admitted .psendEClose s) :
    exec .psendEClose s = done (s.here.pkt.elim (s.illegal 4) fun k => closePacket s k s.wordPc) := by
  rw [exec_psendEClose, execPsendEClose, word_admitted ha, State.outsideBlock_noBlock hb]
  cases s.here.pkt <;> rfl

end

/-- Settles O26: the reading of the word's block, then the close, or the trap of a word out of turn. -/
theorem explicitPackets : Obligations.ExplicitPackets := by
  unfold Obligations.ExplicitPackets
  intro s a w off k hq hw hb
  dsimp only
  refine ⟨?opens, ?fills, ?eOpens, ?eFills, ?closes, ?none, ?some⟩
  case opens =>
    rintro ⟨hn, hown, hf, hp, hx⟩ ha
    obtain ⟨u, hu, ho⟩ := openPacket_own hq hw hb hown ⟨hf, hp, hx⟩
    exact ⟨u, hu, by rw [psendOpen_free hb hn ha, ho, done_ok]; rfl⟩
  case fills =>
    rintro ⟨hk, hown, hl⟩ ha
    obtain ⟨u, hu, ho⟩ := appendFlit_own hq hw hb hown hl
    exact ⟨u, hu, by rw [psendAppend_eq hb ha, hk, Option.elim_some, ho, done_ok]⟩
  case eOpens =>
    rintro ⟨hn, hown, hf, hp, hx⟩ hk hr hm ha
    obtain ⟨u, hu, ho⟩ := openPacket_own hq hw hb hown ⟨hf, hp, hx⟩
    have hc : Closes s _ _ := closes_of hq hu ((psendEOpen_free hb hn ha).trans (congrArg done (ho _))) hk hr hm
    exact hc
  case eFills =>
    rintro ⟨hk, hown, hl⟩ hc hr hm ha
    obtain ⟨u, hu, ho⟩ := appendFlit_own hq hw hb hown hl
    exact closes_of hq hu (by rw [psendEAppend_eq hb ha, hk, Option.elim_some, ho]) hc hr hm
  case closes =>
    intro hk hc hr hm ha
    exact closes_of hq (.refl s) (by rw [psendEClose_eq hb ha, hk, Option.elim_some]) hc hr hm
  case none =>
    intro hn
    exact ⟨fun ha => by rw [psendAppend_eq hb ha, hn]; rfl, fun ha => by rw [psendEAppend_eq hb ha, hn]; rfl,
      fun ha => by rw [psendEClose_eq hb ha, hn]; rfl⟩
  case some => exact fun hk => ⟨psendOpen_open hb hk, psendEOpen_open hb hk⟩

end Sys2Proof.Machine
end

section
/-! PROOFS. Exchange stores: a route entry that holds a correctable soft error. -/

namespace Sys2Proof.Machine

/-! ### An `xput` whose route entry meets a soft error (R62, R409)

An `xput` reads its route entry as it checks its route.  Where a word of the entry holds a correctable error, that read corrects and counts it, so the state it leaves differs
from the one before in more than the exchange store sent and the slot's own bookkeeping. -/

/-- The end of a word changes no soft error. -/
theorem State.retired_errs (s : State) : s.retired.errs = s.errs := by
  unfold State.retired State.retireTo; split <;> rfl

/-- The first byte of route-table entry 0x700 of core 0 of bed 0. -/
def exchangeEntry : Nat := coreKey 0 0 (routeOff 0 + 16 * 0x700)

/-- Slot 0 of core 0 of bed 0 in a timed block, the first route of its block a delivery at its own core, whose entry holds a single-bit error. -/
def struckRoute : State :=
  { State.reset with
    mem := memSetMany [] exchangeEntry (bytesOf 16 (0o74 + 2 ^ 122))
    errs := [(exchangeEntry, some 0)]
    slots := [(0, { Slot.empty with st := .run, blk := some default, th := { Thread.zero with mode := true } })]
    feat := BitVec.allOnes 256 }

/-- Its entry is valid and its string one of no moves that ends at the own router. -/
theorem struckRoute_entry : (struckRoute.routeEntry 0 0 0x700).valid = true ∧ (struckRoute.routeEntry 0 0 0x700).ext = false ∧
    exchangeMoves 36 0 (coreXY 0 0).1 (coreXY 0 0).2 (struckRoute.routeEntry 0 0 0x700).codes = some ([], (coreXY 0 0).1, (coreXY 0 0).2) := by
  decide +kernel

/-- The word completes, and the error is gone. -/
theorem struckRoute_corrects : (match exec (.xput 0 0 0) struckRoute with
    | .next t => t.errs.isEmpty && t.xstores.length == 1
    | _ => false) = true := by
  decide +kernel

/-- Refutes O27: an `xput` whose route entry holds a correctable soft error corrects it beside sending its doubleword. -/
theorem not_timedExchange : ¬ Obligations.TimedExchange := by
  unfold Obligations.TimedExchange
  rintro ⟨-, h⟩
  obtain ⟨hvalid, hext, hmoves⟩ := struckRoute_entry
  obtain ⟨q, he, -⟩ := h struckRoute 0 0 0 default [] _ _ rfl rfl (by decide) (by decide) hvalid hext hmoves (.inl rfl) nofun rfl
    (by unfold Admitted; decide +kernel)
  have hgone := struckRoute_corrects
  rw [he] at hgone
  simp only [State.retired_errs, Bool.and_eq_true] at hgone
  exact Bool.noConfusion hgone.1

end Sys2Proof.Machine
end

section
/-! PROOFS. The fabric: requests and responses at routers and gateways, failing flits, and the states and frames of a Spire link end. -/

namespace Sys2Proof.Machine

/-! ### Items of a route (R74, R75) -/

/-- The code of a request's leading item. -/
theorem field_code (q : Pkt) : field q 0 3 = q.route.toNat % 8 := by simp [field]

/-- The three bits behind a code. -/
theorem field_end (q : Pkt) : field q 3 3 = q.route.toNat / 8 % 8 := rfl

/-- The port that follows a code. -/
theorem field_port (q : Pkt) : field q 3 4 = q.route.toNat / 8 % 16 := rfl

/-- The code at the top of a string. -/
theorem topField_code (q : Pkt) : topField q 255 3 = q.route.toNat / 2 ^ 253 := by
  have := q.route.isLt
  rw [topField]; omega

/-- A three-bit item taken off a string and its reversed item put on top of it (R75). -/
theorem consume_route (q : Pkt) {rev : Nat} (h : rev < 8) : (q.consume 3 rev).route.toNat = q.route.toNat / 8 + rev * 2 ^ 253 := by
  have := q.route.isLt
  simp only [Pkt.consume, BitVec.toNat_ofNat]
  omega

/-- What taking an item leaves of a request beside its string and HOP. -/
theorem Pkt.consume_frame (q : Pkt) (w rev : Nat) : (q.consume w rev).lane = q.lane ∧ (q.consume w rev).loc = q.loc ∧ (q.consume w rev).body = q.body ∧ (q.consume w rev).id = q.id := by
  simp only [Pkt.consume, and_self]

theorem Pkt.consume_relaned_loc (q : Pkt) (w rev lane : Nat) (hopped : Option Bool) :
    ({ q.consume w rev with lane := lane, lastv := false, hopped := hopped } : Pkt).loc = q.loc := by simp only [Pkt.consume]

theorem Pkt.changeLane_loc (q : Pkt) : q.changeLane.loc = q.loc := q.consume_relaned_loc 3 6 (q.lane + 1) (q.hopped.map fun _ => true)

/-! ### Requests at routers (R70, R75, R86) -/

/-- Request `q` stands as the packet the step names, and every earlier one of its route is ahead of it (R81). -/
def Moves (s : State) (q : Pkt) : Prop := s.pkts[s.arg.index]? = some q ∧ q.resp = false ∧ inOrder s s.arg.index q = true

/-- The same of a response. -/
def Returns (s : State) (q : Pkt) : Prop := s.pkts[s.arg.index]? = some q ∧ q.resp = true ∧ inOrder s s.arg.index q = true

theorem nackPkt_nacks (s : State) (q : Pkt) (reason : Nat) : Nacks s q (nackPkt s s.arg.index q reason) reason :=
  ⟨_, _, _, rfl, rfl, rfl, rfl, rfl, rfl, rfl⟩

theorem routerStep_router {s : State} {q : Pkt} {x y : Nat} (h : Moves s q) (hl : q.loc = .router x y) :
    exec .routerStep s = .next (panelStep s s.arg.index q x y) := by
  obtain ⟨hq, hr, ho⟩ := h
  simp [exec_routerStep, execRouterStep, hq, hr, ho, hl]

/-- A turn that is not permitted (R86). -/
theorem panelStep_turnRefused {s : State} {i : Nat} {q : Pkt} {x y : Nat} (hc : q.route.toNat % 8 ≤ 3) (hv : q.lastv = true)
    (ht : turnOk s.turnmask q.lane q.last (q.route.toNat % 8) = false) : panelStep s i q x y = nackPkt s i q 0 := by
  rw [panelStep, field_code, if_neg (by omega), if_pos hc, if_pos ⟨hv, ht⟩]

/-- A permitted move towards a neighbour (R70, R75). -/
theorem panelStep_move {s : State} {i : Nat} {q : Pkt} {x y x' y' : Nat} (hc : q.route.toNat % 8 ≤ 3)
    (hn : neighbour x y (q.route.toNat % 8) = some (x', y')) (ht : q.lastv = true → turnOk s.turnmask q.lane q.last (q.route.toNat % 8) = true) :
    panelStep s i q x y = if s.isDown x y (q.route.toNat % 8) then nackPkt s i q 2
      else setPkt s i { q.consume 3 ((q.route.toNat % 8 + 2) % 4) with last := q.route.toNat % 8, lastv := true, loc := .router x' y' } := by
  have ht' : ¬(q.lastv = true ∧ turnOk s.turnmask q.lane q.last (q.route.toNat % 8) = false) := fun e => by simp [ht e.1] at e
  rw [panelStep, field_code, if_neg (by omega), if_pos hc, if_neg ht']
  simp only [hn]

theorem routerStep_moves {s : State} {q : Pkt} {x y x' y' : Nat} (h : Moves s q) (hl : q.loc = .router x y) (hc : q.route.toNat % 8 ≤ 3)
    (hn : neighbour x y (q.route.toNat % 8) = some (x', y')) (hd : s.isDown x y (q.route.toNat % 8) = false)
    (ht : q.lastv = true → turnOk s.turnmask q.lane q.last (q.route.toNat % 8) = true) :
    Acts .routerStep s fun t => ∃ r, t.pkts = s.pkts.set s.arg.index r ∧ r.loc = .router x' y' ∧ r.hop = q.hop + 1 ∧ r.last = q.route.toNat % 8 ∧ r.lane = q.lane ∧
      r.route.toNat = q.route.toNat / 8 + (q.route.toNat % 8 + 2) % 4 * 2 ^ 253 := by
  obtain ⟨hlane, -, -, -⟩ := q.consume_frame 3 ((q.route.toNat % 8 + 2) % 4)
  refine ⟨_, by rw [routerStep_router h hl, panelStep_move hc hn ht, if_neg (by simp [hd])], ?_⟩
  exact ⟨_, rfl, rfl, rfl, rfl, hlane, consume_route q (by omega)⟩

theorem routerStep_turnRefused {s : State} {q : Pkt} {x y : Nat} (h : Moves s q) (hl : q.loc = .router x y) (hc : q.route.toNat % 8 ≤ 3)
    (hv : q.lastv = true) (ht : turnOk s.turnmask q.lane q.last (q.route.toNat % 8) = false) : Acts .routerStep s fun t => Nacks s q t 0 :=
  ⟨_, by rw [routerStep_router h hl, panelStep_turnRefused hc hv ht], nackPkt_nacks s q 0⟩

theorem routerStep_linkDown {s : State} {q : Pkt} {x y x' y' : Nat} (h : Moves s q) (hl : q.loc = .router x y) (hc : q.route.toNat % 8 ≤ 3)
    (hn : neighbour x y (q.route.toNat % 8) = some (x', y')) (hd : s.isDown x y (q.route.toNat % 8) = true)
    (ht : q.lastv = true → turnOk s.turnmask q.lane q.last (q.route.toNat % 8) = true) : Acts .routerStep s fun t => Nacks s q t 2 :=
  ⟨_, by rw [routerStep_router h hl, panelStep_move hc hn ht, if_pos hd], nackPkt_nacks s q 2⟩

theorem routerStep_changesLane {s : State} {q : Pkt} {x y : Nat} (h : Moves s q) (hl : q.loc = .router x y) (hc : q.route.toNat % 8 = 6) (hn : q.lane < 3) :
    Acts .routerStep s fun t => ∃ r, t.pkts = s.pkts.set s.arg.index r ∧ r.lane = q.lane + 1 ∧ r.loc = q.loc ∧ r.lastv = false := by
  refine ⟨_, routerStep_router h hl, ?_⟩
  rw [panelStep, field_code, if_pos hc, if_neg (by omega)]
  exact ⟨_, rfl, rfl, q.changeLane_loc, rfl⟩

theorem routerStep_delivers {s : State} {q : Pkt} {x y : Nat} (h : Moves s q) (hl : q.loc = .router x y) (hc : q.route.toNat % 8 = 4) (he : q.route.toNat / 8 % 8 = 7)
    (hk : kindKnown q.kind = true) (hd : holdsDest s (q.deliver (.atCore x y)) = true) :
    Acts .routerStep s fun t => t.pkts = s.pkts.set s.arg.index (q.deliver (.atCore x y)) := by
  have hk' : kindKnown (q.deliver (.atCore x y)).kind = true := hk
  refine ⟨_, routerStep_router h hl, ?_⟩
  rw [panelStep, field_code, if_neg (by omega), if_neg (by omega), if_neg (by omega), if_pos hc, field_end, if_pos he, deliverAt]
  simp only [hk', hd, Bool.or_true, Bool.and_true, if_true]
  rfl

/-! ### Requests at gateways (R73, R76) -/

/-- A request with a Spire port in front at a gateway that lets it out (R76). -/
theorem gatewayStep_spire {s : State} {q : Pkt} {d : Nat} {sp ch : Bool} (h : Moves s q) (hl : q.loc = .gateway d sp ch) (hc : q.route.toNat % 8 = 5)
    (hsp : ¬(sp = true ∧ ch = false)) (hp : q.route.toNat / 8 % 16 ≤ 11) :
    exec .gatewayStep s = .next (let x := s.spire d (q.route.toNat / 8 % 16)
      if x.state ≠ 2 then nackPkt s s.arg.index q 2
      else if x.canSend q then leaveSpire s s.arg.index (q.consume 7 (revPort x.farlink.toNat)) d (q.route.toNat / 8 % 16)
      else s) := by
  obtain ⟨hq, hr, ho⟩ := h
  have hcl : ¬(q.route.toNat % 8 ≠ 5 ∨ sp = true ∧ ch = false) := by rintro (h | h) <;> contradiction
  simp only [exec_gatewayStep, execGatewayStep, hq, hr, ho, hl]
  rw [if_neg (by simp), gatewayStep, field_code, if_neg (by omega), if_neg (by omega), if_neg hcl]
  simp only [field_port, if_pos hp]
  rfl

theorem gatewayStep_leaves {s : State} {q : Pkt} {d : Nat} {sp ch : Bool} (h : Moves s q) (hl : q.loc = .gateway d sp ch) (hc : q.route.toNat % 8 = 5)
    (hsp : ¬(sp = true ∧ ch = false)) (hp : q.route.toNat / 8 % 16 ≤ 11) (h2 : (s.spire d (q.route.toNat / 8 % 16)).state = 2)
    (hs : (s.spire d (q.route.toNat / 8 % 16)).canSend q = true) :
    Acts .gatewayStep s fun t => ∃ r, t.pkts = s.pkts.eraseIdx s.arg.index ∧ t.outbox = s.outbox ++ [r] ∧ r.loc = .left d (q.route.toNat / 8 % 16) ∧ r.hop = q.hop + 1 ∧
      r.body = q.body ∧ r.id = q.id := by
  refine ⟨_, gatewayStep_spire h hl hc hsp hp, ?_⟩
  dsimp only
  rw [if_neg (by simp [h2]), if_pos hs]
  obtain ⟨-, -, hbody, hid⟩ := q.consume_frame 7 (revPort (s.spire d (q.route.toNat / 8 % 16)).farlink.toNat)
  exact ⟨_, rfl, rfl, rfl, rfl, hbody, hid⟩

theorem gatewayStep_notUp {s : State} {q : Pkt} {d : Nat} {sp ch : Bool} (h : Moves s q) (hl : q.loc = .gateway d sp ch) (hc : q.route.toNat % 8 = 5)
    (hsp : ¬(sp = true ∧ ch = false)) (hp : q.route.toNat / 8 % 16 ≤ 11) (h2 : (s.spire d (q.route.toNat / 8 % 16)).state ≠ 2) :
    Acts .gatewayStep s fun t => Nacks s q t 2 := by
  refine ⟨_, gatewayStep_spire h hl hc hsp hp, ?_⟩
  dsimp only
  rw [if_pos h2]
  exact nackPkt_nacks s q 2

/-! ### Responses (R80) -/

theorem responseStep_router {s : State} {q : Pkt} {x y : Nat} (h : Returns s q) (hl : q.loc = .router x y) :
    exec .responseStep s = .next (responseAtRouter s s.arg.index q x y) := by
  obtain ⟨hq, hr, ho⟩ := h
  simp [exec_responseStep, execResponseStep, hq, hr, ho, hl]

theorem responseStep_delivers {s : State} {q : Pkt} {x y : Nat} (h : Returns s q) (hl : q.loc = .router x y) (hh : q.hop = 0) (hp : q.iport = 0) :
    Acts .responseStep s fun t => t.pkts = s.pkts.set s.arg.index { q with loc := .atCore x y } := by
  refine ⟨_, responseStep_router h hl, ?_⟩
  rw [responseAtRouter, if_pos hh, responseHome, if_pos hp]
  rfl

theorem responseStep_unwinds {s : State} {q : Pkt} {x y x' y' : Nat} (h : Returns s q) (hl : q.loc = .router x y) (hh : 0 < q.hop) (hc : q.route.toNat / 2 ^ 253 ≤ 3)
    (hn : neighbour x y (q.route.toNat / 2 ^ 253) = some (x', y')) (hd : s.isDown x y (q.route.toNat / 2 ^ 253) = false) :
    Acts .responseStep s fun t => t.pkts = s.pkts.set s.arg.index { q with route := q.route <<< 3, hop := q.hop - 1, loc := .router x' y' } := by
  refine ⟨_, responseStep_router h hl, ?_⟩
  rw [responseAtRouter, if_neg (by omega), topField_code, if_pos hc]
  simp only [hn, hd]
  rfl

/-! ### Failing flits (R70) -/

theorem raise_reports (s : State) (unit core slot ty ctx : Nat) (d0 d1 : Word) : Reports s (s.raise unit core slot ty ctx d0 d1) := pushEvent_reports s unit _

/-- A link that is marked down is down, and the marks, the events and what counts and holds them are all that has changed. -/
theorem markDown_down (s : State) (x y port : Nat) : ∃ down, (x, y, port) ∈ down ∧ Reports { s with down := down } (markDown s x y port) := by
  unfold markDown
  split
  · next h => exact ⟨s.down, by simpa [State.isDown] using h, _, _, _, _, _, _, rfl⟩
  · next h =>
    refine ⟨_, ?_, raise_reports ..⟩
    have h : (x, y, port) ∉ s.down := by simpa [State.isDown] using h
    simp [h]

section
variable {s : State} {x y : Nat} (hx : s.arg.unit = x) (hy : s.arg.core = y) (h48 : x < 48) (h32 : y < 32) (hf : (farEnd x y s.arg.slot).isSome = true)
  (h6 : s.arg.slot < 6) (hg : s.arg.flag = false)
include hx hy h48 h32 hf h6 hg

theorem linkFlitError_eq : exec .linkFlitError s =
    .next (if s.flitErr.contains (x, y, s.arg.slot) then markDown { s with flitErr := s.flitErr.filter (· != (x, y, s.arg.slot)) } x y s.arg.slot
      else { s with flitErr := s.flitErr ++ [(x, y, s.arg.slot)] }) := by
  have hno : ¬(48 ≤ x ∨ 32 ≤ y ∨ (farEnd x y s.arg.slot).isNone = true ∨ 6 ≤ s.arg.slot) := by
    rintro (h | h | h | h)
    · omega
    · omega
    · rw [Option.isNone_iff_eq_none] at h; simp [h] at hf
    · omega
  rw [exec_linkFlitError, execLinkFlitError]
  simp only [hx, hy]
  rw [if_neg hno, if_neg (by simp [hg]), apply_ite Host.Outcome.next]

theorem linkFlitError_first (he : (x, y, s.arg.slot) ∉ s.flitErr) : exec .linkFlitError s = .next { s with flitErr := s.flitErr ++ [(x, y, s.arg.slot)] } := by
  rw [linkFlitError_eq hx hy h48 h32 hf h6 hg, if_neg (by simpa using he)]

theorem linkFlitError_again (he : (x, y, s.arg.slot) ∈ s.flitErr) :
    Acts .linkFlitError s fun t => t.isDown x y s.arg.slot = true ∧ (x, y, s.arg.slot) ∉ t.flitErr ∧ t.mem = s.mem := by
  refine ⟨_, linkFlitError_eq hx hy h48 h32 hf h6 hg, ?_⟩
  rw [if_pos (by simpa using he)]
  obtain ⟨down, hin, _, _, _, _, _, _, hm⟩ := markDown_down { s with flitErr := s.flitErr.filter (· != (x, y, s.arg.slot)) } x y s.arg.slot
  rw [hm]
  exact ⟨by simpa [State.isDown] using hin, by simp, rfl⟩

end

/-! ### The states of a Spire link end (R72, R101) -/

/-- A link end set to a STATE has it, and is otherwise as it was. -/
theorem setLink_spire (s : State) (d l st : Nat) : (setLink s d l st).spire d l = { s.spire d l with state := st } := by
  unfold setLink
  split
  · next h => rw [← h]
  · obtain ⟨_, _, _, _, _, _, h⟩ := raise_reports (s.setSpire d l { s.spire d l with state := st }) (24 + d) 0 0 2 0 _ _
    rw [linkEvent, h]
    exact State.spire_setSpire ..

section
variable {s : State}

theorem spireTrain_begins (h : (s.spire s.arg.unit s.arg.index).state = 0) :
    Acts .spireTrain s fun t => (t.spire s.arg.unit s.arg.index).state = 1 :=
  ⟨_, rfl, by simp only [spireTrainOp, if_pos h, setLink_spire]⟩

theorem spireTrain_ignored (h : (s.spire s.arg.unit s.arg.index).state ≠ 0) : exec .spireTrain s = .next s := by
  rw [exec_spireTrain, execSpireTrain, spireTrainOp, if_neg h]

theorem spireDisable_disables : Acts .spireDisable s fun t => (t.spire s.arg.unit s.arg.index).state = 3 :=
  ⟨_, rfl, by simp only [spireDisableOp, setLink_spire]⟩

theorem spireMarkDown_marks : Acts .spireMarkDown s fun t => (t.spire s.arg.unit s.arg.index).state = 0 :=
  ⟨_, rfl, by simp only [spireMarkDownOp, setLink_spire]⟩

theorem spireTrainingComplete_comesUp {u : Bringup} {k : LinkSetup} (h : (s.spire s.arg.unit s.arg.index).state = 1) (hu : s.arg.setup = some u)
    (hk : u.links.head? = some k) : Acts .spireTrainingComplete s fun t => let x := t.spire s.arg.unit s.arg.index
      x.state = 2 ∧ x.farmod = k.farmod ∧ x.fardie = k.fardie ∧ x.farlink = k.farlink ∧ x.txBuf = [] := by
  have he : s.arg.setup.bind (fun b => b.links.head?) = some k := by simp [hu, hk]
  simp only [Acts, exec_spireTrainingComplete, execSpireTrainingComplete, he]
  rw [if_neg (by simp [h])]
  refine ⟨_, rfl, ?_⟩
  rw [setLink_spire, State.spire_setSpire]
  exact ⟨rfl, rfl, rfl, rfl, rfl⟩

theorem spireTrainingTimeout_drops (h : (s.spire s.arg.unit s.arg.index).state = 1) :
    Acts .spireTrainingTimeout s fun t => (t.spire s.arg.unit s.arg.index).state = 0 :=
  ⟨_, by rw [exec_spireTrainingTimeout, execSpireTrainingTimeout, if_pos h], by simp only [setLink_spire]⟩

theorem spireSignalLoss_drops (h : (s.spire s.arg.unit s.arg.index).state = 2) :
    Acts .spireSignalLoss s fun t => (t.spire s.arg.unit s.arg.index).state = 0 :=
  ⟨_, by rw [exec_spireSignalLoss, execSpireSignalLoss, if_pos h], by simp only [setLink_spire]⟩

/-! ### Replay (R72) -/

/-- A link end that has sent its unacknowledged frames again. -/
def Spire.resend (x : Spire) : Spire :=
  { x with resent := min 255 (x.resent + x.txBuf.length), txBuf := x.txBuf.map fun g => (g.1, g.2 + 1), line := x.line ++ x.txBuf.map (·.1) }

theorem any_eighth (l : List (BitVec 320 × Nat)) : (l.map fun g => (g.1, g.2 + 1)).any (fun g => decide (8 ≤ g.2)) = l.any fun g => decide (7 ≤ g.2) := by
  rw [List.any_map]
  exact congrArg l.any (funext fun g => decide_eq_decide.2 (by simp))

/-- A replay leaves the link end with its frames sent again, down if one of them has been for the eighth time. -/
theorem spireReplayTimeout_resends (h : (s.spire s.arg.unit s.arg.index).state = 2) (hb : (s.spire s.arg.unit s.arg.index).txBuf ≠ []) :
    Acts .spireReplayTimeout s fun t => t.spire s.arg.unit s.arg.index =
      { (s.spire s.arg.unit s.arg.index).resend with state := if (s.spire s.arg.unit s.arg.index).txBuf.any (fun g => decide (7 ≤ g.2)) then 0 else 2 } := by
  refine ⟨_, by rw [exec_spireReplayTimeout, execSpireReplayTimeout, if_neg (by simp [h, hb])], ?_⟩
  rw [any_eighth]
  split
  · rw [setLink_spire, State.spire_setSpire]; rfl
  · rw [State.spire_setSpire, ← h]; rfl

/-! ### Frames that arrive (R71, R73) -/

theorem frameBits_eq (f : BitVec 320) (hi lo : Nat) : frameBits f hi lo = f.toNat / 2 ^ lo % 2 ^ (hi - lo + 1) := by
  rw [frameBits, bits, Nat.shiftRight_eq_div_pow]

theorem spireFrameReceive_up (hd : s.arg.unit < 2) (hl : s.arg.index < 12) (h : (s.spire s.arg.unit s.arg.index).state = 2) :
    ¬(2 ≤ s.arg.unit ∨ 12 ≤ s.arg.index ∨ (s.spire s.arg.unit s.arg.index).state ≠ 2) := by
  rintro (h' | h' | h')
  · omega
  · omega
  · exact h' h

theorem spireFrameReceive_discards (hd : s.arg.unit < 2) (hl : s.arg.index < 12) (h : (s.spire s.arg.unit s.arg.index).state = 2) (hf : frameGood s.arg.wide = false) :
    Acts .spireFrameReceive s fun t => (t.spire s.arg.unit s.arg.index).rxDiscard = true ∧ t.pkts = s.pkts := by
  refine ⟨_, by rw [exec_spireFrameReceive, execSpireFrameReceive, if_neg (spireFrameReceive_up hd hl h), if_pos hf], ?_⟩
  simp only [State.spire_setSpire, true_and]
  rfl

/-- What an accepted frame returns changes nothing that has been received. -/
theorem Spire.returns_rx (x : Spire) (f : BitVec 320) : (x.returns f).rx = x.rx := by
  unfold Spire.returns; dsimp only; split <;> rfl

theorem Spire.sendIdle_received (x : Spire) : x.sendIdle.rx = x.rx ∧ x.sendIdle.rxSlot = x.rxSlot ∧ x.sendIdle.rxDiscard = x.rxDiscard := ⟨rfl, rfl, rfl⟩

theorem spireFrameReceive_accepts (hd : s.arg.unit < 2) (hl : s.arg.index < 12) (h : (s.spire s.arg.unit s.arg.index).state = 2) (hf : frameGood s.arg.wide = true)
    (hi : s.arg.wide.getLsbD 261 = false) (ht : s.arg.wide.getLsbD 260 = false)
    (hs : s.arg.wide.toNat / 2 ^ 262 % 2 ^ 8 = ((s.spire s.arg.unit s.arg.index).rxSlot + 1) % 256) :
    Acts .spireFrameReceive s fun t => let x := t.spire s.arg.unit s.arg.index; let lane := s.arg.wide.toNat / 2 ^ 256 % 8
      x.rxSlot = s.arg.wide.toNat / 2 ^ 262 % 2 ^ 8 ∧ x.rxDiscard = false ∧ t.pkts = s.pkts ∧
      Tbl.get [] x.rx lane = (if s.arg.wide.getLsbD 259 then [] else Tbl.get [] (s.spire s.arg.unit s.arg.index).rx lane) ++ [s.arg.wide.truncate 256] := by
  have hslot : frameBits s.arg.wide 269 262 = s.arg.wide.toNat / 2 ^ 262 % 2 ^ 8 := frameBits_eq ..
  have hlane : frameBits s.arg.wide 258 256 = s.arg.wide.toNat / 2 ^ 256 % 8 := frameBits_eq ..
  refine ⟨_, by rw [exec_spireFrameReceive, execSpireFrameReceive, if_neg (spireFrameReceive_up hd hl h), if_neg (by simp [hf]), if_neg (by rw [hi]; exact Bool.false_ne_true),
    if_neg (fun h => h (hslot.trans hs))], ?_⟩
  simp only [acceptFrame, ht, Bool.false_eq_true, if_false, State.spire_setSpire, hslot, hlane]
  obtain ⟨hrx, hrs, hrd⟩ := Spire.sendIdle_received
    { (s.spire s.arg.unit s.arg.index).returns s.arg.wide with
      rxSlot := s.arg.wide.toNat / 2 ^ 262 % 2 ^ 8, rxAny := true, rxDiscard := false
      rx := Tbl.set ((s.spire s.arg.unit s.arg.index).returns s.arg.wide).rx (s.arg.wide.toNat / 2 ^ 256 % 8)
        (if s.arg.wide.getLsbD 259 then [s.arg.wide.truncate 256]
          else Tbl.get [] ((s.spire s.arg.unit s.arg.index).returns s.arg.wide).rx (s.arg.wide.toNat / 2 ^ 256 % 8) ++ [s.arg.wide.truncate 256]) }
  refine ⟨hrs, hrd, rfl, ?_⟩
  rw [hrx, Tbl.get_set_same, Spire.returns_rx]
  split <;> rfl

end

/-- Settles O38: a lemma for each step. -/
theorem fabricSteps : Obligations.FabricSteps := by
  unfold Obligations.FabricSteps
  refine ⟨fun s q x y x' y' d sp ch => ?_, fun s u k => ?_⟩
  · dsimp only
    exact ⟨routerStep_moves, routerStep_turnRefused, routerStep_linkDown, routerStep_changesLane, routerStep_delivers, gatewayStep_leaves, gatewayStep_notUp,
      responseStep_delivers, responseStep_unwinds,
      fun hx hy h48 h32 hf h6 hg => ⟨linkFlitError_first hx hy h48 h32 hf h6 hg, linkFlitError_again hx hy h48 h32 hf h6 hg⟩⟩
  · refine ⟨spireTrain_begins, spireTrain_ignored, spireDisable_disables, spireMarkDown_marks, spireTrainingComplete_comesUp, spireTrainingTimeout_drops,
      spireSignalLoss_drops, fun h hb => ?_, spireFrameReceive_discards, spireFrameReceive_accepts⟩
    obtain ⟨t, he, ht⟩ := spireReplayTimeout_resends h hb
    refine ⟨t, he, by rw [ht], fun hall => ?_⟩
    rw [ht]
    exact ⟨rfl, rfl⟩

end Sys2Proof.Machine
end

section
/-! PROOFS. Requests at their home: what each kind leaves there, and the answer that goes back. -/

namespace Sys2Proof.Machine

/-! ### A request that is served (R79, R80) -/

/-- A state in which the writes of a request are known as its thread's (R201). -/
def State.making (s : State) (q : Pkt) : State := { s with maker := madeBy s q }

/-- A due request is served. -/
theorem serving_due {s : State} {q : Pkt} (h : Due s q) (f : State → Nat → Pkt → State) : serving s f = .next (f (s.making q) s.arg.index q) := by
  obtain ⟨hq, hd⟩ := h
  simp [serving, hq, hd, State.making]

/-- The answer to the request the step names goes back, whatever else has changed beside the packets. -/
theorem answerPkt_answers {s t : State} (q : Pkt) (kind len : Nat) (b : Body) (h : t.pkts = s.pkts) :
    Answers s q (answerPkt t s.arg.index q kind len b) kind b :=
  ⟨respond q kind len b, by rw [answerPkt, h], rfl, rfl, rfl, rfl, rfl, rfl⟩

theorem nackPkt_answers {s t : State} (q : Pkt) (reason : Nat) (h : t.pkts = s.pkts) : Nacks s q (nackPkt t s.arg.index q reason) reason :=
  ⟨_, _, nackOf q reason, by rw [nackPkt, h], rfl, rfl, rfl, rfl, rfl, rfl⟩

theorem Puts.pkts {s t : State} (h : Puts s t) : t.pkts = s.pkts := by obtain ⟨_, _, _, _, _, _, rfl⟩ := h; rfl
theorem Puts.moduleNo {s t : State} (h : Puts s t) : t.moduleNo = s.moduleNo := by obtain ⟨_, _, _, _, _, _, rfl⟩ := h; rfl
theorem Puts.hostOut {s t : State} (h : Puts s t) : t.hostOut = s.hostOut := by obtain ⟨_, _, _, _, _, _, rfl⟩ := h; rfl

/-- Only HBM has a region table to answer a request (R181). -/
theorem gated_core (s : State) (i : Nat) (q : Pkt) (u c w off : Nat) (write : Bool) (f : State → State) : gated s i q (.core u c w off) write f = f s := rfl
theorem gated_host (s : State) (i : Nat) (q : Pkt) (a : Nat) (write : Bool) (f : State → State) : gated s i q (.host a) write f = f s := rfl

/-! ### Slots that a write wakes (R92, R326, R327) -/

/-- A slot whose reservation may have ended and whose wait may be over, and which is otherwise as it was. -/
def Roused (x y : Slot) : Prop :=
  ∃ st parkWhy held resv wait backoff, y = { x with st := st, parkWhy := parkWhy, held := held, resv := resv, wait := wait, backoff := backoff }

theorem Roused.refl (x : Slot) : Roused x x := ⟨_, _, _, _, _, _, rfl⟩

theorem Roused.trans {x y z : Slot} (h : Roused x y) (h' : Roused y z) : Roused x z := by
  obtain ⟨_, _, _, _, _, _, rfl⟩ := h
  obtain ⟨_, _, _, _, _, _, rfl⟩ := h'
  exact ⟨_, _, _, _, _, _, rfl⟩

theorem Roused.name {x y : Slot} (h : Roused x y) : y.name = x.name := by obtain ⟨_, _, _, _, _, _, rfl⟩ := h; rfl

/-- Every slot is as it was but for what a write ends and wakes. -/
def Rouses (s t : State) : Prop := ∀ p, Roused (s.slot p) (t.slot p)

theorem Rouses.of_slots {s t : State} (h : t.slots = s.slots) : Rouses s t := fun p => by rw [State.slot, State.slot, h]; exact .refl _

theorem Rouses.trans {s t u : State} (h : Rouses s t) (h' : Rouses t u) : Rouses s u := fun p => (h p).trans (h' p)

theorem Rouses.of_map {s t : State} (f : Nat × Slot → Nat × Slot) (hk : ∀ e, (f e).1 = e.1) (ht : ∀ e, Roused e.2 (f e).2)
    (h : t.slots = s.slots.map f) : Rouses s t := by
  intro p
  unfold State.slot Tbl.get
  rw [h, Tbl.look_map f hk]
  cases Tbl.look s.slots (slotKey p) with
  | none => exact .refl _
  | some x => exact ht _

theorem endResv_rouses (s : State) (k n : Nat) : Rouses s (endResv s k n) := by
  refine .of_map _ (fun e => ?_) (fun e => ?_) rfl
  · split
    · split <;> rfl
    · rfl
  · split
    · split
      · exact ⟨_, _, _, _, _, _, rfl⟩
      · exact .refl _
    · exact .refl _

theorem wakeIf_rouses (s : State) (f : Nat → Wait → Bool) : Rouses s (wakeIf s f) := by
  refine .of_map _ (fun e => ?_) (fun e => ?_) rfl
  · split
    · split <;> rfl
    · rfl
  · split
    · split
      · exact ⟨_, _, _, _, _, _, rfl⟩
      · exact .refl _
    · exact .refl _

theorem wakeWords_rouses (s : State) (k n : Nat) : Rouses s (wakeWords s k n) :=
  List.foldlRecOn (motive := Rouses s) _ _ (.of_slots rfl) fun _ h _ _ => h.trans (by unfold wakeWaiters; exact wakeIf_rouses _ _)

theorem wakeRoute_rouses (s : State) (k : Nat) : Rouses s (wakeRoute s k) := by
  unfold wakeRoute
  split
  · exact .of_slots rfl
  · split
    · refine .of_map _ (fun e => ?_) (fun e => ?_) rfl
      · split <;> rfl
      · split
        · dsimp only
          split <;> exact ⟨_, _, _, _, _, _, rfl⟩
        · exact .refl _
    · exact .of_slots rfl

/-- A write at the home leaves every slot as it was but for what it ends and wakes. -/
theorem State.put_rouses (s : State) (p : Path) (k : Nat) (bs : List Byte) : Rouses s (s.put p k bs) := by
  by_cases hb : bs = []
  · subst hb; exact .of_slots rfl
  · have hp := (heal_within s k bs.length k bs.length).trans (putWords_within p (bs.length + 1) _ k bs)
    have hw : ∀ t : State, Rouses t (t.written p k bs.length) := fun t => by
      have h := ((endResv_rouses t k bs.length).trans (wakeWords_rouses _ k bs.length)).trans (wakeRoute_rouses _ k)
      unfold State.written
      dsimp only
      split
      · exact h.trans (.of_slots (releaseStore_slots _ k _))
      · exact h
    rw [s.put_eq p k bs hb]
    exact (Rouses.of_slots hp.slots).trans (hw _)

theorem hostKey_add (a n : Nat) : hostKey (a + n) = hostKey a + n := (Nat.add_assoc ..).symm

/-- A write to the host window is the write of its pieces (R187). -/
theorem writeAt_host_eq {s : State} (h : s.errs = []) (unit a : Nat) (q : Path) (bs : List Byte) :
    writeAt s unit q (.host a) bs = (piecesOf bs.length).foldl (fun t pc => t.putPiece q (hostKey a) bs pc) s := by
  unfold writeAt
  rw [if_neg (by simp [Rng.isCtl])]
  simp only [State.keyOf, heal_noErrs s _ _ h, Rng.add, hostKey_add, State.putPiece]

theorem writeAt_host {s : State} (h : s.errs = []) (unit a : Nat) (q : Path) (bs : List Byte) :
    Puts s (writeAt s unit q (.host a) bs) ∧ (writeAt s unit q (.host a) bs).mem = memSetMany s.mem (hostKey a) bs ∧ Rouses s (writeAt s unit q (.host a) bs) := by
  obtain ⟨hp, hm⟩ := putPieces_mem h q (hostKey a) bs ((bs.length + 15) / 16)
  rw [List.take_of_length_le (by omega)] at hm
  rw [writeAt_host_eq h]
  exact ⟨hp, hm, List.foldlRecOn (motive := Rouses s) _ _ (.of_slots rfl) fun _ hr _ _ => hr.trans (State.put_rouses _ _ _ _)⟩

/-! ### Loads, stores and atomics of a core's memory (R79, R192, R323 to R330) -/

/-- An addition where no word holds an error and no write is pending for loads (R325). -/
theorem rmwWord_add {s : State} (he : s.errs = []) (hl : s.lag.all (fun l => l.reader != .ls) = true) (who k n : Nat) (x y : Word) :
    rmwWord s who k (.amo 0 n x y) =
      (s.put .ls k (bytesOf n ((ofBytes (memGetMany s.mem k n) + x.toNat % 2 ^ (8 * n)) % 2 ^ (8 * n))),
        .value (BitVec.ofInt 64 (sintN (8 * n) (ofBytes (memGetMany s.mem k n))))) := by
  have ht := State.take_noErrs s .ls k n (who / 8) he
  rw [pathBytes_noLag hl] at ht
  delta rmwWord
  simp only [ht]
  rfl

/-- A take of an empty FUTURE word registers its slot and makes it wait (R207, R329). -/
theorem rmwWord_ftake_empty {s : State} (he : s.errs = []) {k : Nat} (ht : k / 8 ∉ s.tags) (who : Nat) :
    rmwWord s who k .ftake = (registerWaiter s who k, .park (.future k)) := by
  have hf : tagFull s k = false := by simpa [tagFull] using ht
  delta rmwWord
  simp only [State.take_noErrs s .ls k 8 (who / 8) he, hf, Bool.false_eq_true, if_false]

/-- Registering a waiter changes the waiter tables only (R207). -/
theorem registerWaiter_waiters (s : State) (who k : Nat) : ∃ waiters, registerWaiter s who k = { s with waiters := waiters } := by
  unfold registerWaiter
  dsimp only
  split <;> exact ⟨_, rfl⟩

/-- A plain 8-byte addition at its home (R330). -/
theorem redApply_add {s : State} (he : s.errs = []) (hl : s.lag.all (fun l => l.reader != .ls) = true) (k : Nat) (v : Word) :
    redApply s k 0 true v = s.put .ls k (bytesOf 8 ((ofBytes (memGetMany s.mem k 8) + v.toNat) % 2 ^ 64)) := by
  have hv : v.toNat % 2 ^ 64 = v.toNat := Nat.mod_eq_of_lt v.isLt
  simp only [redApply, if_true, State.take_noErrs _ _ _ _ _ he, pathBytes_noLag hl, redNew, Nat.reduceMul, hv]

/-- A fold over a range of which one number only makes a change. -/
theorem foldl_range_single {β : Type} {f : β → Nat → β} {j : Nat} (hf : ∀ u i, i ≠ j → f u i = u) (n : Nat) (s : β) (hj : j < n) :
    (List.range n).foldl f s = f s j := by
  induction n with
  | zero => omega
  | succ n ih =>
    rw [List.range_succ, List.foldl_append, List.foldl_cons, List.foldl_nil]
    by_cases h : j = n
    · have hs : (List.range n).foldl f s = s :=
        List.foldlRecOn (motive := (· = s)) _ _ rfl fun u hu i hi => (hf u i (by have := List.mem_range.1 hi; omega)).trans hu
      rw [hs, h]
    · rw [ih (by omega), hf _ _ (by omega)]

/-- A byte written under a full mask. -/
theorem maskByte_full (old v : Byte) : maskByte old 0xFF v = v := by
  show (old &&& ~~~(BitVec.allOnes 8)) ||| (v &&& BitVec.allOnes 8) = v
  rw [BitVec.not_allOnes, BitVec.and_zero, BitVec.zero_or, BitVec.and_allOnes]

/-- An engine's write of one byte under its mask (R108, R123). -/
theorem applyWrite_single (s : State) (p : Path) (k : Nat) {o : Nat} (ho : o < 64) (m v : Byte) :
    applyWrite s p k [(o, m, v)] = s.put p (k + o) [maskByte (memGet s.mem (k + o)) m v] := by
  have hall : ((List.range 64).all fun i => [(o, m, v)].any fun x => x.1 == i && x.2.1 == 0xFF) = false := by
    refine Bool.eq_false_iff.2 fun h => ?_
    have h0 := List.all_eq_true.1 h 0 (by simp)
    have h1 := List.all_eq_true.1 h 1 (by simp)
    simp at h0 h1
    omega
  unfold applyWrite
  rw [hall, if_neg Bool.false_ne_true, foldl_range_single (j := o / 8) (fun u i hi => ?_) 8 s (by omega)]
  · simp only [List.filter_cons, beq_self_eq_true, if_true, List.filter_nil]
    by_cases hm : m = 0xFF
    · subst hm
      rw [if_pos (by simp), maskByte_full]
      rfl
    · rw [if_neg fun h => hm (by simpa using h.1)]
      rfl
  · have hno : [(o, m, v)].filter (fun x => x.1 / 8 == i) = [] := by simp [Ne.symm hi]
    simp only [hno]

/-- An engine's change is one of its bed or rim die. -/
theorem modEng_bedsRims (s : State) (e : Eng) (f : Engine → Engine) : ∃ beds rims, s.modEng e f = { s with beds := beds, rims := rims } := by
  unfold State.modEng State.setEng State.setEngine
  split <;> exact ⟨_, _, rfl⟩

/-- Bytes are those of their value (R9). -/
theorem bytesOf_ofBytes (l : List Byte) : bytesOf l.length (ofBytes l) = l := by
  induction l with
  | nil => rfl
  | cons b r ih =>
    have hb := b.isLt
    have hq : (b.toNat + 256 * ofBytes r) / 256 = ofBytes r := by omega
    have hm : BitVec.ofNat 8 (b.toNat + 256 * ofBytes r) = b := BitVec.eq_of_toNat_eq (by simp only [BitVec.toNat_ofNat]; omega)
    rw [List.length_cons, ofBytes, bytesOf, hq, ih, hm]

theorem ofBytes_lt (l : List Byte) : ofBytes l < 256 ^ l.length := by
  induction l with
  | nil => exact Nat.one_pos
  | cons b r ih =>
    have hb := b.isLt
    rw [List.length_cons, ofBytes, Nat.pow_succ]
    omega

/-- The bytes of the doubleword of eight bytes. -/
theorem bytesOf_word64 {l : List Byte} (h : l.length = 8) : bytesOf 8 (word64 l).toNat = l := by
  have hlt : ofBytes l < 2 ^ 64 := (ofBytes_lt l).trans_eq (by rw [h]; norm_num)
  rw [word64, BitVec.toNat_ofNat, Nat.mod_eq_of_lt hlt]
  exact h ▸ bytesOf_ofBytes l

/-- A part of the bytes at a key. -/
theorem memGetMany_slice (m : List Host.Cell) (k a b r : Nat) : ((memGetMany m k (a + (b + r))).drop a).take b = memGetMany m (k + a) b := by
  rw [memGetMany_add, List.drop_left' (length_memGetMany ..), memGetMany_add, List.take_left' (length_memGetMany ..)]

/-- Words 0, 1, 2 and 5 of a header, as bytes (R135). -/
theorem wordsBytes_headWords (m : List Host.Cell) (k : Nat) :
    wordsBytes (headWords (memGetMany m k 64)) = [0, 1, 2, 5].flatMap fun i => memGetMany m (k + 8 * i) 8 := by
  rw [wordsBytes, headWords, List.flatMap_map]
  refine List.flatMap_congr fun i hi => ?_
  have h6 : i < 6 := by simp at hi; omega
  have hs := memGetMany_slice m k (8 * i) 8 (56 - 8 * i)
  rw [show 8 * i + (8 + (56 - 8 * i)) = 64 by omega] at hs
  rw [hs, bytesOf_word64 (length_memGetMany ..)]

/-- An entry published in a mailbox takes no packet, and the mailbox's head goes on by one (R40, R116). -/
theorem postMail_posts {s : State} (he : s.errs = []) (u c : Nat) (ws : List Word) (reserved : Bool) :
    (postMail s u c ws reserved).pkts = s.pkts ∧ ((postMail s u c ws reserved).core u c).mbhead = (s.core u c).mbhead + 1 := by
  have hp := State.put_puts he .ls (coreKey u c (mailOff u + 32 * ((s.core u c).mbhead.toNat % 64))) (ws.flatMap fun w => bytesOf 8 w.toNat)
  refine ⟨hp.pkts, ?_⟩
  rw [postMail, State.core_modCore, State.putWs, State.core, hp.cores]
  rfl

/-- The mailbox entry of a message (R116, R403). -/
def Pkt.mail (q : Pkt) (pay : List Byte) : List Word :=
  let b := pay ++ List.replicate 16 0
  [pack [(0, 1), (16, q.src)], q.info, word64 (b.take 8), word64 ((b.drop 8).take 8)]

section
variable {s : State} {q : Pkt} {u c w off : Nat} (h : Due s q) (he : s.errs = []) (hr : q.rng = .core u c w off)
include h he hr

theorem loadRequest_reads {n : Nat} {f : Bool} (hb : q.body = .load n f) (h2 : s.arg.flag2 = false) (hg : q.got = [])
    (hl : s.lag.all (fun l => l.reader != .ls) = true) :
    exec .loadRequest s = .next (answerPkt (s.making q) s.arg.index q 0x19 ((n + 31) / 32) (.data (memGetMany s.mem (coreKey u c off) n))) := by
  have hread := readAt_core (s := s.making q) q.loc.unit u c w off n .ls he hl
  rw [exec_loadRequest, execLoadRequest, serving_due h]
  simp only [hb, hr, gated_core, hg, show (s.making q).arg.flag2 = false from h2, Bool.false_eq_true, if_false, if_true, hread]
  rfl

theorem storeRequest_core {bs : List Byte} {f : Bool} (hf : s.arg.flag = false) (hb : q.body = .store bs f) (h2 : s.arg.flag2 = false) (hg : q.gone = 0)
    (ho : off + bs.length ≤ sysOff u) :
    Acts .storeRequest s fun t => Answers s q t 0x18 .ack ∧ t.mem = memSetMany s.mem (coreKey u c off) bs := by
  obtain ⟨hp, hm⟩ := writeAt_core (s := s.making q) he q.loc.unit u c w off .ls bs
  refine ⟨answerPkt (writeAt (s.making q) q.loc.unit .ls (.core u c w off) bs) s.arg.index q 0x18 0 .ack, ?_, answerPkt_answers q _ _ _ hp.pkts, hm⟩
  rw [exec_storeRequest, execStoreRequest, if_neg (by simp [hf]), serving_due h]
  simp only [hb, hr, tableHeld_own _ u c w off _ ho, gated_core, show (s.making q).arg.flag2 = false from h2, hg, writeRest, Bool.false_eq_true, if_false, if_true]

theorem atomicRequest_adds {n : Nat} {x y : Word} (hb : q.body = .rmw (.amo 0 n x y)) (ho : off + 8 ≤ sysOff u)
    (hl : s.lag.all (fun l => l.reader != .ls) = true) :
    Acts .atomicRequest s fun t => Answers s q t 0x19 (.value (BitVec.ofInt 64 (sintN (8 * n) (ofBytes (memGetMany s.mem (coreKey u c off) n))))) ∧
      t.mem = memSetMany s.mem (coreKey u c off) (bytesOf n ((ofBytes (memGetMany s.mem (coreKey u c off) n) + x.toNat % 2 ^ (8 * n)) % 2 ^ (8 * n))) := by
  have hw := rmwWord_add (s := s.making q) he hl (slotKey q.place) (coreKey u c off) n x y
  refine ⟨_, ?_, answerPkt_answers q 0x19 1 _ (State.put_puts (s := s.making q) he .ls _ _).pkts, State.put_mem (s.making q) .ls _ _ he⟩
  rw [exec_atomicRequest, execAtomicRequest, serving_due h]
  simp only [hb, hr, tableHeld_own _ u c w off _ ho, gated_core, State.keyOf, hw, Bool.false_eq_true, if_false]
  rfl

theorem atomicRequest_parks (hb : q.body = .rmw .ftake) (ho : off + 8 ≤ sysOff u) (ht : coreKey u c off / 8 ∉ s.tags)
    (hw : (s.slot q.place).wait = some (.answer q.id true)) :
    Acts .atomicRequest s fun t => t.pkts = s.pkts.eraseIdx s.arg.index ∧ (t.slot q.place).wait = some (.future (coreKey u c off)) ∧ t.mem = s.mem := by
  have hk := rmwWord_ftake_empty (s := s.making q) he ht (slotKey q.place)
  obtain ⟨waiters, hreg⟩ := registerWaiter_waiters (s.making q) (slotKey q.place) (coreKey u c off)
  rw [hreg] at hk
  refine ⟨parkRequester { s.making q with waiters := waiters } s.arg.index q (.future (coreKey u c off)) true, ?_, rfl, ?_, rfl⟩
  · rw [exec_atomicRequest, execAtomicRequest, serving_due h]
    simp only [hb, hr, tableHeld_own _ u c w off _ ho, gated_core, State.keyOf, hk, Bool.false_eq_true, if_false]
  · have hw' : ((dropPkt { s.making q with waiters := waiters } s.arg.index).slot q.place).wait = some (.answer q.id true) := hw
    rw [parkRequester, State.slot_modSlot, if_pos hw']

theorem reductionUpdate_adds {x : Nat} {v : Word} (hb : q.body = .red 0 true false x v) (ho : off + 8 ≤ sysOff u)
    (hl : s.lag.all (fun l => l.reader != .ls) = true) :
    Acts .reductionUpdate s fun t => Answers s q t 0x18 .ack ∧
      t.mem = memSetMany s.mem (coreKey u c off) (bytesOf 8 ((ofBytes (memGetMany s.mem (coreKey u c off) 8) + v.toNat) % 2 ^ 64)) := by
  have ha := redApply_add (s := s.making q) he hl (coreKey u c off) v
  refine ⟨_, ?_, answerPkt_answers q 0x18 0 .ack (State.put_puts (s := s.making q) he .ls _ _).pkts, State.put_mem (s.making q) .ls _ _ he⟩
  rw [exec_reductionUpdate, execReductionUpdate, serving_due h]
  simp only [hb, hr, if_true, tableHeld_own _ u c w off _ ho, gated_core, reduceHome, State.keyOf, ha, Bool.false_eq_true, if_false]
  rfl

/-! ### Explicit packets and an engine's accesses (R116, R123, R403) -/

theorem explicitMessage_posts {pay : List Byte} (hb : q.body = .message pay) (hm : (s.core u c).mailRoom ≠ 0) :
    Acts .explicitMessage s fun t => Answers s q t 0x18 .ack ∧ (t.core u c).mbhead = (s.core u c).mbhead + 1 := by
  have hm' : ((s.making q).core u c).mailRoom ≠ 0 := hm
  obtain ⟨hpkts, hhead⟩ := postMail_posts (s := s.making q) he u c (q.mail pay) false
  refine ⟨answerPkt (postMail (s.making q) u c (q.mail pay) false) s.arg.index q 0x18 0 .ack, ?_, answerPkt_answers q 0x18 0 .ack hpkts, hhead⟩
  rw [exec_explicitMessage, execExplicitMessage, serving_due h]
  simp only [hb, hr]
  rw [if_neg hm']
  rfl

omit he in
theorem explicitMessage_busy {pay : List Byte} (hb : q.body = .message pay) (hm : (s.core u c).mailRoom = 0) :
    Acts .explicitMessage s fun t => Nacks s q t 4 ∧ t.mem = s.mem := by
  have hm' : ((s.making q).core u c).mailRoom = 0 := hm
  refine ⟨_, ?_, nackPkt_answers (t := s.making q) q 4 rfl, rfl⟩
  rw [exec_explicitMessage, execExplicitMessage, serving_due h]
  simp only [hb, hr]
  rw [if_pos hm']

theorem explicitStore_writes {pay : List Byte} (hb : q.body = .bulk pay) (h2 : s.arg.flag2 = false) (hg : q.gone = 0) (ho : off + pay.length ≤ sysOff u) :
    Acts .explicitStore s fun t => Answers s q t 0x18 .ack ∧ t.mem = memSetMany s.mem (coreKey u c off) pay := by
  obtain ⟨hp, hm⟩ := writeAt_core (s := s.making q) he q.loc.unit u c w off .ls pay
  refine ⟨answerPkt (writeAt (s.making q) q.loc.unit .ls (.core u c w off) pay) s.arg.index q 0x18 0 .ack, ?_, answerPkt_answers q _ _ _ hp.pkts, hm⟩
  rw [exec_explicitStore, execExplicitStore, serving_due h]
  simp only [hb, hr, tableHeld_own _ u c w off _ ho, show (s.making q).arg.flag2 = false from h2, hg, writeRest, Bool.false_eq_true, if_false, if_true]

theorem engineRead_reads {n ctx own : Nat} {p : Path} (hb : q.body = .engRead n ctx own p) (hl : s.lag.all (fun l => l.reader != p) = true) :
    Acts .engineRead s fun t => Answers s q t 0x19 (.data (memGetMany s.mem (coreKey u c off) n)) ∧ t.mem = s.mem := by
  have ht := State.take_noErrs (s.making q) p (coreKey u c off) n noCore he
  rw [pathBytes_noLag (s := s.making q) hl] at ht
  refine ⟨_, ?_, answerPkt_answers (t := s.making q) q 0x19 2 _ rfl, rfl⟩
  rw [exec_engineRead, execEngineRead, serving_due h]
  simp only [hb, hr, Rng.isCtl, gated_core, takeRange, State.keyOf, ht, Bool.false_eq_true, if_false]
  rfl

theorem engineDataWrite_writes {o : Nat} {m v : Byte} {ctx own : Nat} {p : Path} (ho : o < 64) (hb : q.body = .engWrite [(o, m, v)] ctx own p)
    (hs : off + 64 ≤ sysOff u) :
    Acts .engineDataWrite s fun t => Answers s q t 0x18 .ack ∧
      t.mem = memSetMany s.mem (coreKey u c off + o) [maskByte (memGet s.mem (coreKey u c off + o)) m v] := by
  let s' : State := { s.making q with maker := ((engineOf (s.making q) q.id).map fun e => ((s.making q).eng e).maker).getD .other }
  have hp : Puts s' (s'.put p (coreKey u c off + o) [maskByte (memGet s.mem (coreKey u c off + o)) m v]) := State.put_puts (s := s') he ..
  refine ⟨answerPkt (s'.put p (coreKey u c off + o) [maskByte (memGet s.mem (coreKey u c off + o)) m v]) s.arg.index q 0x18 0 .ack, ?_,
    answerPkt_answers q _ _ _ hp.pkts, State.put_mem s' p _ _ he⟩
  rw [exec_engineDataWrite, execEngineDataWrite, serving_due h]
  simp only [hb, hr, portOf, gated_core, State.keyOf, tableHeld_own _ u c w off _ hs, applyWrite_single _ p _ ho, Bool.false_eq_true, if_false]
  rfl

end

theorem storeRequest_host {s : State} {q : Pkt} (h : Due s q) (he : s.errs = []) {bs : List Byte} {f : Bool} {a : Nat} (hf : s.arg.flag = false)
    (hb : q.body = .store bs f) (h2 : s.arg.flag2 = false) (hg : q.gone = 0) (hr : q.rng = .host a) :
    Acts .storeRequest s fun t => Answers s q t 0x18 .ack ∧ t.mem = memSetMany s.mem (hostKey a) bs ∧
      ∃ name, t.hostOut = s.hostOut ++ [(q, name)] ∧ (q.src / 4096 = s.moduleNo.toNat → name = (s.slot q.place).name) := by
  obtain ⟨hp, hm, hn⟩ := writeAt_host (s := s.making q) he q.loc.unit a .ls bs
  have hmod : (writeAt (s.making q) q.loc.unit .ls (.host a) bs).moduleNo = s.moduleNo := hp.moduleNo
  refine ⟨enterPort (writeAt (s.making q) q.loc.unit .ls (.host a) bs) s.arg.index q, ?_, answerPkt_answers q _ _ _ hp.pkts, hm, _,
    congrArg (· ++ _) hp.hostOut, fun hsrc => ?_⟩
  · rw [exec_storeRequest, execStoreRequest, if_neg (by simp [hf]), serving_due h]
    simp only [hb, hr, tableHeld, gated_host, show (s.making q).arg.flag2 = false from h2, hg, writeRest, Bool.false_eq_true, if_false, if_true]
  · rw [if_pos (by rw [hmod, hsrc]), (hn q.place).name]
    rfl

/-! ### Queues of service cores and beds (R158, R240) -/

theorem missMessage_queues {s : State} {q : Pkt} (h : Due s q) {u c off : Nat} {ws : List Word} (hb : q.body = .miss ws) (hr : q.rng = .page u c off)
    (hm : ((s.core u c).mqhead - (s.core u c).mqtail).toNat < 64) :
    Acts .missMessage s fun t => Answers s q t 0x18 .ack ∧ (t.core u c).mqhead = (s.core u c).mqhead + 1 ∧
      Tbl.get [] (t.core u c).missq ((s.core u c).mqhead.toNat % 64) = ws := by
  have hm' : ¬ 64 ≤ (((s.making q).core u c).mqhead - ((s.making q).core u c).mqtail).toNat := Nat.not_le.2 hm
  refine ⟨answerPkt ((s.making q).modCore u c fun x => { x with missq := Tbl.set x.missq (((s.making q).core u c).mqhead.toNat % 64) ws, mqhead := x.mqhead + 1 })
    s.arg.index q 0x18 0 .ack, ?_, answerPkt_answers q _ _ _ rfl, ?_⟩
  · rw [exec_missMessage, execMissMessage, serving_due h]
    simp only [hb, hr]
    rw [if_neg hm']
    rfl
  · have hc := (s.making q).core_modCore u c fun x => { x with missq := Tbl.set x.missq (((s.making q).core u c).mqhead.toNat % 64) ws, mqhead := x.mqhead + 1 }
    exact ⟨congrArg Core.mqhead hc, (congrArg (fun x : Core => Tbl.get [] x.missq _) hc).trans (Tbl.get_set_same ..)⟩

theorem missMessage_busy {s : State} {q : Pkt} (h : Due s q) {u c off : Nat} {ws : List Word} (hb : q.body = .miss ws) (hr : q.rng = .page u c off)
    (hm : 64 ≤ ((s.core u c).mqhead - (s.core u c).mqtail).toNat) : Acts .missMessage s fun t => Nacks s q t 4 := by
  have hm' : 64 ≤ (((s.making q).core u c).mqhead - ((s.making q).core u c).mqtail).toNat := hm
  refine ⟨_, ?_, nackPkt_answers (t := s.making q) q 4 rfl⟩
  rw [exec_missMessage, execMissMessage, serving_due h]
  simp only [hb, hr]
  rw [if_pos hm']

/-- The priority in a launch record's first word (R239). -/
theorem bits_priority (n : Nat) : bits n 5 4 = n / 2 ^ 4 % 4 := congrArg (· % 4) (Nat.shiftRight_eq_div_pow n 4)

/-- A launch record at the end of a bed's queue of its priority, to be placed (R239, R240). -/
def Bed.launching (d : Bed) (pr : Nat) (r : LaunchRec) : Bed :=
  { d with placing := true, lq := Tbl.set d.lq pr (Tbl.get [] d.lq pr ++ [r]) }

theorem Bed.launching_lq (d : Bed) (pr : Nat) (r : LaunchRec) : Tbl.get [] (d.launching pr r).lq pr = Tbl.get [] d.lq pr ++ [r] := Tbl.get_set_same ..

section
variable {s : State} {q : Pkt} (h : Due s q) {u c off : Nat} {ws : List Word} (hb : q.body = .record ws) (hr : q.rng = .bedCtl u c off)
  (hk : killing s u (BitVec.ofNat 12 ((ws.getD 0 0).toNat / 256)) = false)
include h hb hr hk

theorem launchRecordArrival_queues (hl : (Tbl.get [] (s.bed u).lq ((ws.getD 0 0).toNat / 2 ^ 4 % 4)).length < 16) :
    Acts .launchRecordArrival s fun t => Answers s q t 0x18 .ack ∧ Tbl.get [] (t.bed u).lq ((ws.getD 0 0).toNat / 2 ^ 4 % 4) =
      Tbl.get [] (s.bed u).lq ((ws.getD 0 0).toNat / 2 ^ 4 % 4) ++ [{ words := ws, arrts := s.ts, blk := false, victims := [] }] := by
  have hl' : ¬ 16 ≤ (Tbl.get [] ((s.making q).bed u).lq ((ws.getD 0 0).toNat / 2 ^ 4 % 4)).length := Nat.not_le.2 hl
  have hk' : ¬ killing (s.making q) u (BitVec.ofNat 12 ((ws.getD 0 0).toNat / 256)) = true := ne_true_of_eq_false hk
  refine ⟨answerPkt ((s.making q).modBed u fun d => d.launching ((ws.getD 0 0).toNat / 2 ^ 4 % 4) { words := ws, arrts := s.ts, blk := false, victims := [] })
    s.arg.index q 0x18 0 .ack, ?_, answerPkt_answers q _ _ _ rfl, ?_⟩
  · rw [exec_launchRecordArrival, execLaunchRecordArrival, serving_due h]
    simp only [hb, hr, bits_priority]
    rw [if_neg hk', if_neg hl']
    rfl
  · refine (congrArg (fun x : Bed => Tbl.get [] x.lq ((ws.getD 0 0).toNat / 2 ^ 4 % 4)) (State.bed_modBed (s.making q) u fun d =>
      d.launching ((ws.getD 0 0).toNat / 2 ^ 4 % 4) { words := ws, arrts := s.ts, blk := false, victims := [] })).trans ?_
    exact Bed.launching_lq ..

theorem launchRecordArrival_busy (hl : 16 ≤ (Tbl.get [] (s.bed u).lq ((ws.getD 0 0).toNat / 2 ^ 4 % 4)).length) :
    Acts .launchRecordArrival s fun t => Nacks s q t 4 := by
  have hl' : 16 ≤ (Tbl.get [] ((s.making q).bed u).lq ((ws.getD 0 0).toNat / 2 ^ 4 % 4)).length := hl
  have hk' : ¬ killing (s.making q) u (BitVec.ofNat 12 ((ws.getD 0 0).toNat / 256)) = true := ne_true_of_eq_false hk
  refine ⟨_, ?_, nackPkt_answers (t := s.making q) q 4 rfl⟩
  rw [exec_launchRecordArrival, execLaunchRecordArrival, serving_due h]
  simp only [hb, hr, bits_priority]
  rw [if_neg hk', if_pos hl']

end

/-! ### Commands and probes at their engine (R103, R124, R135) -/

section
variable {s : State} {q : Pkt} (h : Due s q) {e : Eng} (hd : engOfDest q.dest = some e)
include h hd

theorem engineCommand_queues {cmd : Cmd} (hb : q.body = .cmd cmd) (hf : (s.eng e).refuse.contains (cmd.ownMod, cmd.ctx) = false) (hl : (s.eng e).queue.length < 16) :
    Acts .engineCommand s fun t => t.pkts = s.pkts.eraseIdx s.arg.index ∧ (t.eng e).queue = (s.eng e).queue ++ [q] := by
  have hf' : ¬((s.making q).eng e).refuse.contains (cmd.ownMod, cmd.ctx) = true := ne_true_of_eq_false hf
  have hl' : ¬ 16 ≤ ((s.making q).eng e).queue.length := Nat.not_le.2 hl
  refine ⟨(dropPkt (s.making q) s.arg.index).modEng e fun x => { x with queue := x.queue ++ [q] }, ?_, ?_, ?_⟩
  · rw [exec_engineCommand, execEngineCommand, serving_due h]
    simp only [hb, hd]
    rw [if_neg hf', if_neg hl']
  · obtain ⟨beds, rims, hm⟩ := modEng_bedsRims (dropPkt (s.making q) s.arg.index) e fun x => { x with queue := x.queue ++ [q] }
    rw [hm]; rfl
  · rw [State.eng_modEng]; rfl

theorem engineCommand_rejects {cmd : Cmd} (hb : q.body = .cmd cmd) (hf : (s.eng e).refuse.contains (cmd.ownMod, cmd.ctx) = true) :
    Acts .engineCommand s fun t => Nacks s q t 5 := by
  have hf' : ((s.making q).eng e).refuse.contains (cmd.ownMod, cmd.ctx) = true := hf
  refine ⟨_, ?_, nackPkt_answers (t := s.making q) q 5 rfl⟩
  rw [exec_engineCommand, execEngineCommand, serving_due h]
  simp only [hb, hd]
  rw [if_pos hf']

theorem engineCommand_busy {cmd : Cmd} (hb : q.body = .cmd cmd) (hf : (s.eng e).refuse.contains (cmd.ownMod, cmd.ctx) = false) (hl : 16 ≤ (s.eng e).queue.length) :
    Acts .engineCommand s fun t => Nacks s q t 4 := by
  have hf' : ¬((s.making q).eng e).refuse.contains (cmd.ownMod, cmd.ctx) = true := ne_true_of_eq_false hf
  have hl' : 16 ≤ ((s.making q).eng e).queue.length := hl
  refine ⟨_, ?_, nackPkt_answers (t := s.making q) q 4 rfl⟩
  rw [exec_engineCommand, execEngineCommand, serving_due h]
  simp only [hb, hd]
  rw [if_neg hf', if_pos hl']

theorem probe_reads (he : s.errs = []) {pa : Word} {ctx own off key : Nat} {legs : List (Nat × BitVec 256 × Nat)} (hb : q.body = .probe pa ctx own legs)
    (hp : probeAt (s.eng e) ctx own pa = some (some (s.moduleNo.toNat, .hbm off))) (hk : s.keyOf e.unit (.hbm off) = some key)
    (hl : s.lag.all (fun l => l.reader != .se) = true) :
    Acts .probe s fun t => Answers s q t 0x19 (.data ([0, 1, 2, 5].flatMap fun i => memGetMany s.mem (key + 8 * i) 8)) ∧ t.mem = s.mem := by
  have hp' : probeAt ((s.making q).eng e) ctx own pa = some (some ((s.making q).moduleNo.toNat, .hbm off)) := hp
  have hk' : (s.making q).keyOf e.unit (.hbm off) = some key := hk
  have ht := State.take_noErrs (s.making q) .se key 64 noCore he
  rw [pathBytes_noLag (s := s.making q) hl] at ht
  obtain ⟨beds, rims, hm⟩ := modEng_bedsRims (s.making q) e fun x =>
    { x with probes := x.probes.filter (fun p => p.1 != q.id), peeks := x.peeks.filter fun k => k.probe != q.id }
  refine ⟨answerPkt { s.making q with beds := beds, rims := rims } s.arg.index q 0x19 1 (.data (wordsBytes (headWords (memGetMany s.mem key 64)))), ?_, ?_, rfl⟩
  · rw [exec_probe, execProbe, serving_due h]
    simp only [hb, hd, hp', if_true, probeWords, takeRange, hk', ht, hm]
    rfl
  · rw [wordsBytes_headWords]
    exact answerPkt_answers (t := { s.making q with beds := beds, rims := rims }) q 0x19 1 _ rfl

end

/-- Settles O39: a lemma for each kind of request. -/
theorem homeRequests : Obligations.HomeRequests := by
  unfold Obligations.HomeRequests
  intro s q u c w off n h he
  dsimp only
  refine ⟨fun f hb h2 hg hr hl => ⟨_, loadRequest_reads h he hr hb h2 hg hl, answerPkt_answers (t := s.making q) q _ _ _ rfl, rfl, rfl⟩,
    fun bs f hf hb => ⟨fun h2 hg hr ho => storeRequest_core h he hr hf hb h2 hg ho, fun a h2 hg hr => storeRequest_host h he hf hb h2 hg hr⟩,
    fun x y _ hb hr ho hl => atomicRequest_adds h he hr hb ho hl,
    fun hb hr ho ht hw => atomicRequest_parks h he hr hb ho ht hw,
    fun x v hb hr ho hl => reductionUpdate_adds h he hr hb ho hl,
    fun pay hb hr => ⟨explicitMessage_posts h he hr hb, explicitMessage_busy h hr hb⟩,
    fun pay hb h2 hg hr ho => explicitStore_writes h he hr hb h2 hg ho,
    fun ws hb hr => ⟨missMessage_queues h hb hr, missMessage_busy h hb hr⟩,
    fun ws hb hr hk => ⟨launchRecordArrival_queues h hb hr hk, launchRecordArrival_busy h hb hr hk⟩,
    fun o m v ctx own p ho hb hr hs => engineDataWrite_writes h he hr ho hb hs,
    fun ctx own p hb hr hl => engineRead_reads h he hr hb hl,
    fun cmd e hb hd => ⟨engineCommand_queues h hd hb, engineCommand_rejects h hd hb, engineCommand_busy h hd hb⟩,
    fun pa ctx own legs e key hb _ hd hp hk hl => probe_reads h hd he hb hp hk hl⟩

end Sys2Proof.Machine
end

section
/-! PROOFS. The barrier fabric's reports and releases, the abort of a domain's block, and the time limit of an open packet. -/

namespace Sys2Proof.Machine

/-- A bit field, by division. -/
theorem bits_eq_div (n hi lo : Nat) : bits n hi lo = n / 2 ^ lo % 2 ^ (hi - lo + 1) := congrArg (· % _) (Nat.shiftRight_eq_div_pow n lo)

/-! ### Reports (R219, R220) -/

/-- An entry of a fabric with one more report, which may complete its barrier (R220). -/
def DomE.counted (e : DomE) (bar core : Nat) : DomE :=
  { e with reps := e.reps ++ [(bar, core)],
           bcmp := if decide (bits e.w0.toNat 22 15 ≤ ((e.reps ++ [(bar, core)]).filter fun r => r.1 == bar).length) then e.bcmp ||| BitVec.ofNat 32 (2 ^ bar) else e.bcmp }

theorem DomE.counted_completes (e : DomE) {bar : Nat} (core : Nat) (hb : bar < 32)
    (h : e.w0.toNat / 2 ^ 15 % 2 ^ 8 ≤ ((e.reps ++ [(bar, core)]).filter fun x => x.1 == bar).length) : (e.counted bar core).bcmp.getLsbD bar = true := by
  have hf : bits e.w0.toNat 22 15 ≤ ((e.reps ++ [(bar, core)]).filter fun x => x.1 == bar).length := by rw [bits_eq_div]; exact h
  rw [DomE.counted, if_pos (decide_eq_true hf), BitVec.getLsbD_or, BitVec.getLsbD_ofNat, Nat.testBit_two_pow_self]
  simp [hb]

theorem countReport_entry (s : State) (bed n : Nat) (e : DomE) (bar core : Nat) :
    Tbl.get default ((countReport s bed n e bar core).bed bed).dtab n = e.counted bar core := by
  rw [countReport, State.bed_modBed]; exact Tbl.get_set_same ..

theorem countReport_reps (s : State) (bed n : Nat) (e : DomE) (bar core : Nat) : ((countReport s bed n e bar core).bed bed).reps = (s.bed bed).reps := by
  rw [countReport, State.bed_modBed]

/-- An event of a bed leaves its reports and its fabric's entries alone (R263). -/
theorem raise_fabric (s : State) {bed : Nat} (h : bed < 12) (core slot ty ctx : Nat) (d0 d1 : Word) :
    ((s.raise bed core slot ty ctx d0 d1).bed bed).reps = (s.bed bed).reps ∧ ((s.raise bed core slot ty ctx d0 d1).bed bed).dtab = (s.bed bed).dtab := by
  rw [State.raise, State.pushEvent, if_pos (by omega), State.setStage, if_pos h, State.bed_modBed]
  exact ⟨rfl, rfl⟩

section
variable {s : State} {r : BarRep} (hr : (s.bed s.arg.unit).reps[s.arg.index]? = some r)
include hr

theorem barrierReport_counts {n : Nat} {e : DomE} (hf : fabricEntry s s.arg.unit r.level (r.dom.toNat % 2 ^ 12) (r.dom.getLsbD 12) = some (n, e)) :
    Acts .barrierReport s fun t => (Tbl.get default (t.bed s.arg.unit).dtab n).reps = e.reps ++ [(r.bar, r.core)] ∧
      (t.bed s.arg.unit).reps = (s.bed s.arg.unit).reps.eraseIdx s.arg.index ∧
      (r.bar < 32 → e.w0.toNat / 2 ^ 15 % 2 ^ 8 ≤ ((e.reps ++ [(r.bar, r.core)]).filter fun x => x.1 == r.bar).length →
        (Tbl.get default (t.bed s.arg.unit).dtab n).bcmp.getLsbD r.bar = true) := by
  refine ⟨countReport (s.modBed s.arg.unit fun b => { b with reps := b.reps.eraseIdx s.arg.index }) s.arg.unit n e r.bar r.core, ?_, ?_, ?_, ?_⟩
  · simp only [exec_barrierReport, execBarrierReport, hr, hf]
  · rw [countReport_entry]; rfl
  · rw [countReport_reps, State.bed_modBed]
  · rw [countReport_entry]; exact e.counted_completes r.core

theorem barrierReport_holds (hf : fabricEntry s s.arg.unit r.level (r.dom.toNat % 2 ^ 12) (r.dom.getLsbD 12) = none) (ha : r.atFabric = false) (hu : s.arg.unit < 12) :
    Acts .barrierReport s fun t => (t.bed s.arg.unit).reps = (s.bed s.arg.unit).reps.set s.arg.index { r with atFabric := true } ∧
      (t.bed s.arg.unit).dtab = (s.bed s.arg.unit).dtab := by
  refine ⟨_, by simp only [exec_barrierReport, execBarrierReport, hr, hf, ha, Bool.false_eq_true, if_false]; rfl, ?_⟩
  obtain ⟨hreps, hdtab⟩ := raise_fabric (s.modBed s.arg.unit fun b => { b with reps := b.reps.set s.arg.index { r with atFabric := true } }) hu r.core 0 0xC 0
    (BitVec.ofNat 64 r.core) (BitVec.ofNat 64 (r.level + r.dom.toNat % 2 ^ 12 * 4))
  rw [hreps, hdtab, State.bed_modBed]
  exact ⟨rfl, rfl⟩

end

/-! ### Link die 0 (R220) -/

/-- The report of a bed that is its domain's only one. -/
def soleReport (b level dom bar : Nat) : Nat × Nat × Nat × Nat × Nat := (b, level, dom, bar, 2 ^ b)

theorem lowestReport_sole {b : Nat} (hb : b < 12) (level dom bar : Nat) : lowestReport [soleReport b level dom bar] = some (b, 2 ^ b) := by
  have hm : ¬ 4096 ≤ 2 ^ b := by have := Nat.pow_lt_pow_right (a := 2) (by decide) hb; omega
  simp [lowestReport, soleReport, hm]

/-- A bed that is alone in its mask has no report from outside it beside its own. -/
theorem maskReports_sole {s : State} {b level dom bar : Nat} (hb : b < 12) (h : s.ld0 = [soleReport b level dom bar]) (f : Nat) : maskReports s level dom bar f = s := by
  have hl := lowestReport_sole hb level dom bar
  cases f with
  | zero => rfl
  | succ f =>
    have hk : [soleReport b level dom bar].filter (fun e => e.2.1 == level && e.2.2.1 == dom && e.2.2.2.1 == bar) = [soleReport b level dom bar] := by simp [soleReport]
    simp only [maskReports, h, hk, hl]
    simp [soleReport, Nat.testBit_two_pow_self]

theorem bedsOf_sole : ∀ b < 12, (List.range 12).filter (fun k => (2 ^ b).testBit k) = [b] := by decide

/-- The sole report of a mask of one bed releases that bed. -/
theorem releaseSpan_sole {s : State} {b level dom bar : Nat} (hb : b < 12) (h : s.ld0 = [soleReport b level dom bar]) :
    releaseSpan s level dom bar = { s with ld0 := [], releases := s.releases ++ [(b, level, dom, bar)] } := by
  have hl := lowestReport_sole hb level dom bar
  have hm : 2 ^ b < 4096 := Nat.pow_lt_pow_right (by decide) hb
  have hk : [soleReport b level dom bar].filter (fun e => e.2.1 == level && e.2.2.1 == dom && e.2.2.2.1 == bar && decide (e.2.2.2.2 < 4096)) =
      [soleReport b level dom bar] := by simp [soleReport, hm]
  simp only [releaseSpan, h, hk, hl, bedsOf_sole b hb]
  simp [soleReport, hm]

/-- The complete barrier of a SPAN 1 domain of one bed is reported to link die 0, which releases it (R220). -/
theorem linkDieBarrierReport_releases {s : State} {d : DomE} (hd : Tbl.get default (s.bed s.arg.unit).dtab s.arg.index = d) (hv : d.v = true)
    (hs : d.w0.getLsbD 14 = true) (hc : d.bcmp.getLsbD s.arg.aux = true) (hu : s.arg.unit < 12) (hm : d.w0.toNat / 2 ^ 23 % 2 ^ 12 = 2 ^ s.arg.unit) (hl : s.ld0 = [])
    (hr : s.releases.contains (s.arg.unit, d.w0.toNat / 2 ^ 12 % 4, d.w0.toNat % 2 ^ 12, s.arg.aux) = false) :
    Acts .linkDieBarrierReport s fun t => t.releases = s.releases ++ [(s.arg.unit, d.w0.toNat / 2 ^ 12 % 4, d.w0.toNat % 2 ^ 12, s.arg.aux)] ∧ t.ld0 = [] := by
  have hmask : bits d.w0.toNat 34 23 = 2 ^ s.arg.unit := (bits_eq_div ..).trans hm
  have hlevel : bits d.w0.toNat 13 12 = d.w0.toNat / 2 ^ 12 % 4 := bits_eq_div ..
  refine ⟨{ s with ld0 := [], releases := s.releases ++ [(s.arg.unit, d.w0.toNat / 2 ^ 12 % 4, d.w0.toNat % 2 ^ 12, s.arg.aux)] }, ?_, rfl, rfl⟩
  · simp only [exec_linkDieBarrierReport, execLinkDieBarrierReport, hd, hv, hs, hc, hl, hlevel, hr, hmask, List.any_nil, List.nil_append, Bool.true_eq_false,
      Bool.false_eq_true, or_self, if_false]
    rw [maskReports_sole hu rfl, releaseSpan_sole hu rfl]

/-! ### Releases (R219, R221) -/

@[simp] theorem State.bar_setBar (s : State) (u c n : Nat) (b : Bar) : (s.setBar u c n b).bar u c n = b := by
  rw [State.bar, State.setBar, State.core_modCore]; exact Tbl.get_set_same ..

theorem State.bar_setBar_other (s : State) {u c c' n : Nat} (b : Bar) (h : c' ≠ c) : (s.setBar u c n b).bar u c' n = s.bar u c' n := by
  rw [State.bar, State.setBar, State.core, State.modCore, State.setCore, Tbl.get_set_other _ _ _ _ _ (by simp [unitKey]; omega)]; rfl

/-- A state in which one core's barrier has been released: time, memory, the fabric's entries and the other cores' barriers stay. -/
structure CoreReleased (bed bar : Nat) (s t : State) (c : Nat) : Prop where
  ts : t.ts = s.ts
  mem : t.mem = s.mem
  dtab : (t.bed bed).dtab = (s.bed bed).dtab
  done : (t.bar bed c bar).donets = s.ts
  other : ∀ c', c' ≠ c → t.bar bed c' bar = s.bar bed c' bar

theorem releaseCore_released (s : State) (bed bar c : Nat) : CoreReleased bed bar s (releaseCore s bed bar c) c := by
  unfold releaseCore
  extract_lets b s1
  have h1 : CoreReleased bed bar s (wakeBarrier s1 bed c bar b.xalign) c :=
    ⟨rfl, rfl, rfl, congrArg Bar.donets (State.bar_setBar ..), fun c' h => State.bar_setBar_other _ _ h⟩
  generalize wakeBarrier s1 bed c bar b.xalign = s2 at h1
  unfold finishDomBar
  dsimp only
  split
  · refine ⟨h1.ts, h1.mem, ?_, ?_, fun c' h => ?_⟩
    · rw [State.bed_modBed]; exact h1.dtab
    · exact (congrArg Bar.donets (State.bar_setBar s2 ..)).trans h1.done
    · exact (State.bar_setBar_other s2 _ h).trans (h1.other c' h)
  · exact h1

/-- The release of a phase on a list of cores. -/
theorem releaseCores_released (bed bar : Nat) (cs : List Nat) (s : State) :
    let t := cs.foldl (fun t c => releaseCore t bed bar c) s
    t.ts = s.ts ∧ t.mem = s.mem ∧ (t.bed bed).dtab = (s.bed bed).dtab ∧ ∀ c, (c ∈ cs ∨ (s.bar bed c bar).donets = s.ts) → (t.bar bed c bar).donets = s.ts := by
  induction cs generalizing s with
  | nil => exact ⟨rfl, rfl, rfl, fun c h => h.resolve_left (by simp)⟩
  | cons c cs ih =>
    have h := releaseCore_released s bed bar c
    obtain ⟨hts, hmem, hdtab, hdone⟩ := ih (releaseCore s bed bar c)
    refine ⟨hts.trans h.ts, hmem.trans h.mem, hdtab.trans h.dtab, fun k hk => ?_⟩
    rw [h.ts] at hdone
    refine hdone k ?_
    by_cases hkc : k = c
    · exact .inr (hkc ▸ h.done)
    · exact hk.imp (fun hm => (List.mem_cons.1 hm).resolve_left hkc) fun hd => by rw [h.other k hkc]; exact hd

/-- A state in which a bed's fabric lets a barrier of an entry go: its BCMP bit and its reports are cleared (R220, R221). -/
def State.lettingGo (s : State) (bed n bar : Nat) (d : DomE) : State :=
  ({ s with releases := s.releases.erase (bed, bits d.w0.toNat 13 12, d.w0.toNat % 2 ^ 12, bar) } : State).modBed bed fun b =>
    { b with dtab := Tbl.set b.dtab n { d with bcmp := d.bcmp &&& ~~~(BitVec.ofNat 32 (2 ^ bar)), reps := d.reps.filter fun r => r.1 != bar } }

theorem State.lettingGo_bcmp (s : State) (bed n : Nat) {bar : Nat} (h : bar < 32) (d : DomE) :
    (Tbl.get default ((s.lettingGo bed n bar d).bed bed).dtab n).bcmp.getLsbD bar = false := by
  rw [State.lettingGo, State.bed_modBed, Tbl.get_set_same, BitVec.getLsbD_and, BitVec.getLsbD_not, BitVec.getLsbD_ofNat, Nat.testBit_two_pow_self]
  simp [h]

/-- The release of a barrier of a domain of one bed is applied on every member core, and its entry is free for the next phase (R219 to R221). -/
theorem domainRelease_releases {s : State} {d : DomE} (hd : Tbl.get default (s.bed s.arg.unit).dtab s.arg.index = d) (hv : d.v = true)
    (hs : d.w0.getLsbD 14 = false) (hc : d.bcmp.getLsbD s.arg.aux = true) (hb : s.arg.aux < 32)
    (hx : xputsPending s s.arg.unit (d.w0.toNat / 2 ^ 12 % 4) (d.w0.toNat % 2 ^ 12) = false)
    (ht : ∀ c ∈ memberCores s s.arg.unit d s.arg.aux, (s.bar s.arg.unit c s.arg.aux).donets.toNat < s.ts.toNat) :
    Acts .domainRelease s fun t => (Tbl.get default (t.bed s.arg.unit).dtab s.arg.index).bcmp.getLsbD s.arg.aux = false ∧
      (∀ c ∈ memberCores s s.arg.unit d s.arg.aux, (t.bar s.arg.unit c s.arg.aux).donets = s.ts) ∧ t.mem = s.mem := by
  have hlevel : bits d.w0.toNat 13 12 = d.w0.toNat / 2 ^ 12 % 4 := bits_eq_div ..
  have hdue : ¬ ((memberCores s s.arg.unit d s.arg.aux).any fun c => decide (s.ts.toNat ≤ (s.bar s.arg.unit c s.arg.aux).donets.toNat)) = true := by
    simpa using ht
  rw [← hlevel] at hx
  refine ⟨(memberCores s s.arg.unit d s.arg.aux).foldl (fun t c => releaseCore t s.arg.unit s.arg.aux c) (s.lettingGo s.arg.unit s.arg.index s.arg.aux d), ?_, ?_⟩
  · simp only [exec_domainRelease, execDomainRelease, hd, hv, hs, hc, hx, Bool.true_eq_false, Bool.false_eq_true, false_and, or_self, if_false]
    rw [if_neg hdue]
    rfl
  · obtain ⟨_, hmem, hdtab, hdone⟩ := releaseCores_released s.arg.unit s.arg.aux (memberCores s s.arg.unit d s.arg.aux)
      (s.lettingGo s.arg.unit s.arg.index s.arg.aux d)
    exact ⟨by rw [hdtab]; exact s.lettingGo_bcmp _ _ hb d, fun c h => hdone c (.inl h), hmem⟩

/-! ### Pending traps (R251) -/

/-- A pending trap given to a slot changes no other slot. -/
theorem setPend_slot_other (s : State) {p q : Place} (h : slotKey q ≠ slotKey p) (c n : Nat) (a d0 d1 : Word) : (setPend s p c n a d0 d1).slot q = s.slot q :=
  State.slot_modSlot_other s p q _ h

/-- A slot that has a trap pending keeps it. -/
theorem setPend_slot_pending {s : State} {p : Place} (h : (s.slot p).pend.isSome = true) (c n : Nat) (a d0 d1 : Word) : (setPend s p c n a d0 d1).slot p = s.slot p := by
  obtain ⟨v, hv⟩ := Option.isSome_iff_exists.1 h
  rw [setPend, setPendAt, State.slot_modSlot, hv]

theorem setPend_gives {s : State} {p : Place} (h : (s.slot p).pend = none) (c n : Nat) (a d0 d1 : Word) :
    ((setPend s p c n a d0 d1).slot p).pend = some (c, n, a, d0, d1) ∧ ((setPend s p c n a d0 d1).slot p).pkt = (s.slot p).pkt := by
  rw [setPend, setPendAt, State.slot_modSlot, h]
  exact ⟨rfl, rfl⟩

/-! ### Aborts (R259, R260) -/

/-- The trap of an abort changes no other slot. -/
theorem abortSlot_slot_other (s : State) (o : XAbort) {p q : Place} (h : slotKey q ≠ slotKey p) (xb : Word) (sub : Nat) : (abortSlot s o p xb sub).slot q = s.slot q := by
  unfold abortSlot
  dsimp only
  split
  · exact setPend_slot_other s.tick h ..
  · exact setPend_slot_other s h ..

theorem State.slot_congr (s : State) {p q : Place} (h : slotKey q = slotKey p) : s.slot q = s.slot p := by rw [State.slot, State.slot, h]

/-- A slot that has a trap pending keeps it under an abort. -/
theorem abortSlot_slot_pending {s : State} (o : XAbort) (p : Place) {q : Place} (h : (s.slot q).pend.isSome = true) (xb : Word) (sub : Nat) :
    (abortSlot s o p xb sub).slot q = s.slot q := by
  by_cases hk : slotKey q = slotKey p
  · rw [State.slot_congr _ hk, State.slot_congr s hk]
    rw [State.slot_congr s hk] at h
    unfold abortSlot
    dsimp only
    split
    · exact setPend_slot_pending (s := s.tick) h ..
    · exact setPend_slot_pending h ..
  · exact abortSlot_slot_other s o hk xb sub

theorem abortSlot_gives {s : State} {o : XAbort} (ho : o.cause ≠ 15) {p : Place} (h : (s.slot p).pend = none) (xb : Word) :
    ((abortSlot s o p xb 0).slot p).pend = some (12, 0, xb, BitVec.ofNat 64 (o.src + o.slot * 2 ^ 24 + o.cause * 2 ^ 32 + o.sub * 2 ^ 40), xb) := by
  unfold abortSlot
  rw [if_neg (fun hc => ho hc.1)]
  exact (setPend_gives h ..).1

theorem abortSlot_xaborts (s : State) (o : XAbort) (p : Place) (xb : Word) (sub : Nat) : (abortSlot s o p xb sub).xaborts = s.xaborts := by
  unfold abortSlot
  dsimp only
  split <;> rfl

/-- What a pass over listed slots, each by its key, leaves pending in one of them: what its first entry gives it. -/
theorem foldl_slots_pend {f : State → Nat × Slot → State} {p : Place} {v : Nat × Nat × Word × Word × Word}
    (hother : ∀ t e, e.1 ≠ slotKey p → (f t e).slot p = t.slot p) (hkeep : ∀ t e, (t.slot p).pend = some v → ((f t e).slot p).pend = some v) {x : Slot}
    (hgive : ∀ t, (t.slot p).pend = none → ((f t (slotKey p, x)).slot p).pend = some v) (l : List (Nat × Slot)) (hl : Tbl.look l (slotKey p) = some x) (s : State)
    (hs : (s.slot p).pend = none) : ((l.foldl f s).slot p).pend = some v := by
  induction l generalizing s with
  | nil => cases hl
  | cons e l ih =>
    obtain ⟨j, y⟩ := e
    rw [Tbl.look] at hl
    split at hl
    · next hj =>
      subst hj
      cases hl
      exact List.foldlRecOn (motive := fun t => (t.slot p).pend = some v) l f (hgive s hs) fun t ht e _ => hkeep t e ht
    · next hj => exact ih hl (f s (j, y)) (by rw [hother s (j, y) hj]; exact hs)

/-- A kept entry of a table is still found. -/
theorem Tbl.look_filter {α : Type} (f : Nat → Bool) (t : Tbl α) {k : Nat} (h : f k = true) : Tbl.look (t.filter fun e => f e.1) k = Tbl.look t k := by
  induction t with
  | nil => rfl
  | cons e t ih =>
    obtain ⟨j, a⟩ := e
    rw [List.filter_cons, Tbl.look]
    split
    · rw [Tbl.look, ih]
    · next hj => rw [ih, if_neg (fun hk => hj (by rw [← h, hk]))]

theorem exchangeAbortReport_reports {s : State} {a : XAbort} (ha : s.xaborts[s.arg.index]? = some a) (hr : a.reported = false) (hs : a.span = false)
    (hd : abortDue s a 8 = true) : exec .exchangeAbortReport s = .next { s with xaborts := s.xaborts.set s.arg.index { a with reported := true } } := by
  simp [exec_exchangeAbortReport, execExchangeAbortReport, ha, hr, hs, hd]

/-- A reported abort takes a member slot out of its block, once it is due (R259, R260). -/
theorem exchangeAbortApply_aborts {s : State} {a : XAbort} {p : Place} {b : Block} (ha : s.xaborts = [a]) (hi : s.arg.index = 0) (hr : a.reported = true)
    (hd : abortDue s a 24 = true) (hc : a.cause ≠ 15) (hu : p.unit = a.bed) (hcore : p.core < 128) (hslot : p.slot < 8) (hb : (s.slot p).blk = some b)
    (hl : b.level = a.level) (hdom : b.dom = a.dom) (hp : (s.slot p).pend = none) :
    Acts .exchangeAbortApply s fun t => t.xaborts = [] ∧ ∃ d0, (t.slot p).pend = some (12, 0, b.xb, d0, b.xb) := by
  have hfirst : abortBefore a a = true := by simp [abortBefore]
  have hlook : Tbl.look s.slots (slotKey p) = some (s.slot p) := by
    unfold State.slot Tbl.get at hb ⊢
    cases h : Tbl.look s.slots (slotKey p) with
    | none => rw [h] at hb; cases hb
    | some x => rfl
  have hplace : (⟨slotKey p / 1024, slotKey p / 8 % 128, slotKey p % 8⟩ : Place) = p := by
    obtain ⟨u, c, k⟩ := p
    simp only [slotKey, Place.mk.injEq]
    dsimp only at hcore hslot
    omega
  have hbed : (slotKey p / 1024 == a.bed) = true := beq_iff_eq.2 ((congrArg Place.unit hplace).trans hu)
  have hkey : ∀ k : Nat, slotKey ⟨k / 1024, k / 8 % 128, k % 8⟩ = k := fun k => by simp only [slotKey]; omega
  simp only [Acts, exec_exchangeAbortApply, execExchangeAbortApply, ha, hi, List.getElem?_cons_zero, hr, hd, Bool.true_eq_false, or_self, if_false, beq_self_eq_true,
    Bool.and_self, List.filter_cons_of_pos, List.filter_nil, List.foldl_cons, List.foldl_nil, hfirst, if_true]
  refine ⟨_, rfl, ?_, BitVec.ofNat 64 (a.src + a.slot * 2 ^ 24 + a.cause * 2 ^ 32 + a.sub * 2 ^ 40), ?_⟩
  · refine List.foldlRecOn (motive := fun t : State => t.xaborts = []) _ _ (by simp) fun t ht e _ => ?_
    split
    · split
      · rw [abortSlot_xaborts]; exact ht
      · exact ht
    · split
      · rw [abortSlot_xaborts]; exact ht
      · exact ht
    · exact ht
  · refine foldl_slots_pend (fun t e he => ?_) (fun t e hv => ?_) (fun t ht => ?_) _ ((Tbl.look_filter (fun k => k / 1024 == a.bed) s.slots hbed).trans hlook) _ hp
    · have hk : slotKey p ≠ slotKey ⟨e.1 / 1024, e.1 / 8 % 128, e.1 % 8⟩ := by rw [hkey]; exact he.symm
      split
      · split
        · exact abortSlot_slot_other t a hk ..
        · rfl
      · split
        · exact abortSlot_slot_other t a hk ..
        · rfl
      · rfl
    · have hk : (t.slot p).pend.isSome = true := by rw [hv]; rfl
      split
      · split
        · rw [abortSlot_slot_pending a _ hk]; exact hv
        · exact hv
      · split
        · rw [abortSlot_slot_pending a _ hk]; exact hv
        · exact hv
      · exact hv
    · simp only [hb, hplace]
      rw [if_pos ⟨hl, hdom⟩]
      exact abortSlot_gives hc ht b.xb

/-! ### The time limit of an open packet (R95) -/

/-- Whatever the free REASON in bits 10:8, HOPIX is 0x7F. -/
theorem hopix_free (d : Word) : ((d &&& 0x700) ||| 0x7F).toNat % 128 = 0x7F := by
  rw [BitVec.toNat_or, BitVec.toNat_and, show 128 = 2 ^ 7 from rfl, Nat.or_mod_two_pow, Nat.and_mod_two_pow]
  simp

theorem packetOpenTimeout_discards {s : State} (h : (s.slot s.argPlace).pkt.isSome = true) (hp : (s.slot s.argPlace).pend = none) :
    Acts .packetOpenTimeout s fun t => (t.slot s.argPlace).pkt = none ∧
      ∃ d0, (t.slot s.argPlace).pend = some (15, 2, (s.slot s.argPlace).th.pc, d0, 0) ∧ d0.toNat % 128 = 0x7F := by
  have hn : ((s.tick.modSlot s.argPlace fun x => { x with pkt := none }).slot s.argPlace).pend = none := by rw [State.slot_modSlot]; exact hp
  obtain ⟨hpend, hpkt⟩ := setPend_gives hn 15 2 (s.slot s.argPlace).th.pc ((s.freeDetail &&& 0x700) ||| 0x7F) 0
  refine ⟨_, by rw [exec_packetOpenTimeout, execPacketOpenTimeout]; exact if_pos h, ?_, _, hpend, ?_⟩
  · exact hpkt.trans (by rw [State.slot_modSlot])
  · exact hopix_free _

/-- Settles O48: a lemma for each step. -/
theorem barrierFabricSteps : Obligations.BarrierFabricSteps := by
  unfold Obligations.BarrierFabricSteps
  intro s r n e a p b
  dsimp only
  exact ⟨fun hr hf => barrierReport_counts hr hf, fun hr hf ha hu => barrierReport_holds hr hf ha hu, linkDieBarrierReport_releases rfl, domainRelease_releases rfl,
    exchangeAbortReport_reports, exchangeAbortApply_aborts, packetOpenTimeout_discards⟩

end Sys2Proof.Machine
end

section
/-! PROOFS. Answers at their issuer: what each does to the slot, the store buffer or the engine it is for, and what is sent again. -/

namespace Sys2Proof.Machine

/-! ### Answers for a waiting slot (R80) -/

/-- A response that has come back is taken. -/
theorem answering_back {s : State} {q : Pkt} (h : Back s q) (f : State → Nat → Pkt → State) : answering s f = .next (f s s.arg.index q) := by
  obtain ⟨hq, hr, hl⟩ := h
  simp [answering, hq, hr, hl]

/-- An answer reaches the slot that waits for it by number. -/
theorem giveAnswer_gets {s : State} {q : Pkt} {keep : Bool} (hw : (s.slot q.place).wait = some (.answer q.id keep)) (r : Resp) :
    Gets s q (giveAnswer s s.arg.index q r) r := by
  have hd : ((dropPkt s s.arg.index).slot q.place).wait = some (.answer q.id keep) := hw
  have hs : (giveAnswer s s.arg.index q r).slot q.place = { (s.slot q.place).wake with resp := r :: (s.slot q.place).resp } := by
    rw [giveAnswer, State.slot_modSlot]
    simp only [hd, if_true]
    rfl
  refine ⟨rfl, ?_, ?_, ?_, rfl⟩
  · rw [hs]; exact List.mem_cons_self
  · rw [hs]; rfl
  · rw [hs]; rfl

/-- A slot that waits for the answer of a request by number waits for that request. -/
theorem Slot.waitsFor_answer {x : Slot} {q : Pkt} {keep : Bool} (h : x.wait = some (.answer q.id keep)) (b : Body) : x.waitsFor q b = true := by
  simp [Slot.waitsFor, h]

theorem Roused.redOut {x y : Slot} (h : Roused x y) : y.redOut = x.redOut := by obtain ⟨_, _, _, _, _, _, rfl⟩ := h; rfl
theorem Roused.expOut {x y : Slot} (h : Roused x y) : y.expOut = x.expOut := by obtain ⟨_, _, _, _, _, _, rfl⟩ := h; rfl

theorem acked_rouses (s : State) (p : Place) : Rouses s (acked s p) := wakeIf_rouses s _

@[simp] theorem acked_coreAt (s : State) (p q : Place) : (acked s p).coreAt q = s.coreAt q := rfl

/-! ### Acknowledgements (R80, R106, R117, R192, R332) -/

section
variable {s : State} {q : Pkt} (h : Back s q ∧ q.kind ≠ 0x1A ∧ engineOf s q.id = none)
include h

theorem acknowledgement_load {n : Nat} {bs : List Byte} {keep : Bool} (hq : q.req.2.2 = .load n false) (hb : q.body = .data bs)
    (hw : (s.slot q.place).wait = some (.answer q.id keep)) : Acts .acknowledgement s fun t => Gets s q t (.data q.dest bs) := by
  obtain ⟨hback, hk, he⟩ := h
  refine ⟨_, ?_, giveAnswer_gets hw _⟩
  simp only [exec_acknowledgement, execAcknowledgement, answering_back hback, if_neg hk, he, hq, hb]

theorem acknowledgement_store {a : List Byte} {e : SbEntry} {rest : List SbEntry} (hq : q.req.2.2 = .store a false) (hs : (s.coreAt q.place).sbuf = e :: rest)
    (hi : e.id = q.id) (hsent : e.sent.isSome = true) :
    Acts .acknowledgement s fun t => (t.coreAt q.place).sbuf = rest ∧ t.mem = s.mem := by
  obtain ⟨hback, hk, he⟩ := h
  refine ⟨acked ((dropPkt s s.arg.index).modCoreAt q.place fun c => { c with sbuf := c.sbuf.eraseP fun e => e.sent.isSome && e.id == q.id }) q.place, ?_, ?_, rfl⟩
  · simp only [exec_acknowledgement, execAcknowledgement, answering_back hback, if_neg hk, he, hq]
  · rw [acked_coreAt, State.coreAt_modCoreAt]
    show (s.coreAt q.place).sbuf.eraseP _ = rest
    rw [hs, List.eraseP_cons_of_pos (by simp [hi, hsent])]

theorem acknowledgement_red {o : Nat} {d g : Bool} {x : Nat} {v : Word} (hq : q.req.2.2 = .red o d g x v) :
    Acts .acknowledgement s fun t => (t.slot q.place).redOut = (s.slot q.place).redOut - 1 ∧ t.mem = s.mem := by
  obtain ⟨hback, hk, he⟩ := h
  refine ⟨acked ((dropPkt s s.arg.index).modSlot q.place fun x => { x with redOut := x.redOut - 1 }) q.place, ?_, ?_, rfl⟩
  · simp only [exec_acknowledgement, execAcknowledgement, answering_back hback, if_neg hk, he, hq]
  · rw [(acked_rouses _ _ q.place).redOut, State.slot_modSlot]; rfl

theorem acknowledgement_message {m : List Byte} (hq : q.req.2.2 = .message m) :
    Acts .acknowledgement s fun t => (t.slot q.place).expOut = (s.slot q.place).expOut - 1 ∧ (t.coreAt q.place).mbrsv = (s.coreAt q.place).mbrsv - 1 := by
  obtain ⟨hback, hk, he⟩ := h
  refine ⟨packetDone (dropPkt s s.arg.index) q.place, ?_, ?_, ?_⟩
  · simp only [exec_acknowledgement, execAcknowledgement, answering_back hback, if_neg hk, he, hq]
  · rw [packetDone, (acked_rouses _ _ q.place).expOut]
    exact congrArg Slot.expOut (State.slot_modSlot (dropPkt s s.arg.index) q.place fun x => { x with expOut := x.expOut - 1 })
  · rw [packetDone, acked_coreAt, State.coreAt_modCoreAt]; rfl

end

theorem probeAnswer_gives {s : State} {q : Pkt} {pa : Word} {ctx own : Nat} {legs : List (Nat × BitVec 256 × Nat)} {bs : List Byte} {keep : Bool} (h : Back s q)
    (hq : q.req.2.2 = .probe pa ctx own legs) (hb : q.body = .data bs) (hw : (s.slot q.place).wait = some (.answer q.id keep)) :
    Acts .probeAnswer s fun t =>
      Gets s q t (.probe (word64 (bs.take 8)) (word64 ((bs.drop 8).take 8)) (word64 ((bs.drop 16).take 8)) (word64 ((bs.drop 24).take 8))) := by
  refine ⟨_, ?_, giveAnswer_gets hw _⟩
  simp only [exec_probeAnswer, execProbeAnswer, answering_back h, hq, hb]
  rfl

theorem spawnAnswer_done {s : State} {q : Pkt} {r : SpawnRec} {keep : Bool} (h : Back s q) (hq : q.req.2.2 = .spawn r) (hb : q.body = .ack)
    (hw : (s.slot q.place).wait = some (.answer q.id keep)) : Acts .spawnAnswer s fun t => Gets s q t .done := by
  refine ⟨_, ?_, giveAnswer_gets hw _⟩
  simp only [exec_spawnAnswer, execSpawnAnswer, answering_back h, hq, hb]

/-! ### Sending again (R106, R182) -/

theorem busyRetryTimer_wakes {s : State} {r : Retry} {n : Nat} {f keep : Bool} (hr : s.retries[s.arg.index]? = some r) (hw : r.why = 0) (hb : r.pkt.body = .load n f)
    (he : engineOf { s with retries := s.retries.eraseIdx s.arg.index } r.pkt.id = none) (ha : (s.slot r.pkt.place).wait = some (.answer r.pkt.id keep))
    (hn : r.pkt.entry = none) :
    Acts .busyRetryTimer s fun t => t.retries = s.retries.eraseIdx s.arg.index ∧ (t.slot r.pkt.place).wait = none := by
  refine ⟨wakeFor { s with retries := s.retries.eraseIdx s.arg.index } r.pkt (.load n f), ?_, rfl, ?_⟩
  · simp [exec_busyRetryTimer, execBusyRetryTimer, takeRetry, hr, hw, retryDue, hn, retryNow, he, hb]
  · have hx : (({ s with retries := s.retries.eraseIdx s.arg.index } : State).slot r.pkt.place).waitsFor r.pkt (.load n f) = true := Slot.waitsFor_answer ha _
    rw [wakeFor, State.slot_modSlot, if_pos hx]
    rfl

theorem wfzRetryTimer_unsends {s : State} {r : Retry} {a : List Byte} (hr : s.retries[s.arg.index]? = some r) (hw : r.why = 1) (hb : r.pkt.body = .store a false)
    (hn : r.pkt.entry = none) (he : engineOf { s with retries := s.retries.eraseIdx s.arg.index } r.pkt.id = none) :
    Acts .wfzRetryTimer s fun t => t.retries = s.retries.eraseIdx s.arg.index ∧ ∀ e ∈ (t.coreAt r.pkt.place).sbuf, e.id = r.pkt.id → e.sent = none := by
  refine ⟨unsend { s with retries := s.retries.eraseIdx s.arg.index } r.pkt, ?_, rfl, fun e hm hid => ?_⟩
  · simp [exec_wfzRetryTimer, execWfzRetryTimer, takeRetry, hr, hw, retryDue, hn, retryNow, he, hb]
  · rw [unsend, State.coreAt_modCoreAt] at hm
    obtain ⟨e', _, rfl⟩ := List.mem_map.1 hm
    split at hid
    · next hi => rw [if_pos hi]
    · next hi => exact absurd hid hi

/-! ### Answers of the control plane, and those that engines lose (R94, R122, R152) -/

theorem answerSlot_gives {s : State} {p : Place} {id : Nat} {keep : Bool} (hw : (s.slot p).wait = some (.answer id keep)) (r : Resp) :
    r ∈ ((answerSlot s p id r).slot p).resp ∧ ((answerSlot s p id r).slot p).wait = none := by
  rw [answerSlot, State.slot_modSlot]
  simp only [hw, if_true]
  exact ⟨List.mem_cons_self, rfl⟩

theorem graftStatAnswer_gives {s : State} {id n w : Nat} {p : Place} {keep : Bool} (hs : s.ranker.stats[s.arg.index]? = some (id, p, n, w))
    (hw : (s.slot p).wait = some (.answer id keep)) :
    Acts .graftStatAnswer s fun t => Resp.value ((s.pop n).word w) ∈ (t.slot p).resp ∧ (t.slot p).wait = none ∧ t.ranker.stats = s.ranker.stats.eraseIdx s.arg.index := by
  obtain ⟨hresp, hwait⟩ := answerSlot_gives (s := { s with ranker := { s.ranker with stats := s.ranker.stats.eraseIdx s.arg.index } }) hw (.value ((s.pop n).word w))
  exact ⟨_, by simp only [exec_graftStatAnswer, execGraftStatAnswer, hs]; rfl, hresp, hwait, rfl⟩

/-- An engine whose read is lost fails with ROUTE (R94, R122). -/
theorem engineResponseTimeout_fails {s : State} {id a : Nat} (hf : s.arg.flag = false) (hok : (⟨s.arg.unit, s.arg.aux, s.arg.index⟩ : Eng).ok = true)
    (hr : (s.eng ⟨s.arg.unit, s.arg.aux, s.arg.index⟩).rd = some (id, a)) (hg : inFlight s id = false)
    (hn : (s.eng ⟨s.arg.unit, s.arg.aux, s.arg.index⟩).err = none) :
    Acts .engineResponseTimeout s fun t => (t.eng ⟨s.arg.unit, s.arg.aux, s.arg.index⟩).err = some (2, BitVec.ofNat 64 a, 0) ∧
      (t.eng ⟨s.arg.unit, s.arg.aux, s.arg.index⟩).rd = none ∧ t.mem = s.mem := by
  simp only [Acts, exec_engineResponseTimeout, execEngineResponseTimeout, hf, hok, hr, hg, Option.map_some, Option.any_some, Bool.not_false, Bool.true_eq_false,
    Bool.false_eq_true, false_and, or_self, if_false, if_true]
  refine ⟨_, rfl, ?_, ?_, ?_⟩
  · rw [State.eng_modEng, engFail, State.eng_modEng, hn]; rfl
  · rw [State.eng_modEng]
  · rw [modEng_mem, engFail, modEng_mem]

/-! ### NACKs of updates and messages (R91, R106) -/

section
variable {s : State} {q : Pkt} {reason hop k unit : Nat} (h : Back s q ∧ q.body = .nack reason hop k unit ∧ engineOf s q.id = none)
include h

theorem nackReceived_busyRed {o : Nat} {d g : Bool} {x : Nat} {v : Word} (hq : q.req.2.2 = .red o d g x v) (hr : reason = 4) :
    Acts .nackReceived s fun t => t.retries = s.retries ++ [{ pkt := q.again, why := 0 }] ∧ t.pkts = s.pkts.eraseIdx s.arg.index := by
  obtain ⟨hback, hb, he⟩ := h
  subst hr
  refine ⟨holdBack (dropPkt s s.arg.index) q 0, ?_, rfl, rfl⟩
  simp [exec_nackReceived, execNackReceived, answering_back hback, hb, nackHeld, he, hq, nackUpdate]

end

/-- A reserved mailbox entry that is published is reserved no longer, and slots are as they were but for what the write ends and wakes (R116, R117). -/
theorem postMail_reserved {s : State} (he : s.errs = []) (u c : Nat) (ws : List Word) :
    ((postMail s u c ws true).core u c).mbrsv = (s.core u c).mbrsv - 1 ∧ Rouses s (postMail s u c ws true) := by
  have hp := State.put_puts he .ls (coreKey u c (mailOff u + 32 * ((s.core u c).mbhead.toNat % 64))) (ws.flatMap fun w => bytesOf 8 w.toNat)
  refine ⟨?_, (State.put_rouses s .ls (coreKey u c (mailOff u + 32 * ((s.core u c).mbhead.toNat % 64))) (ws.flatMap fun w => bytesOf 8 w.toNat)).trans (.of_slots rfl)⟩
  rw [postMail, State.core_modCore, State.putWs, State.core, hp.cores]
  rfl

/-- A NACK of a message is posted in its sender's mailbox (R91, R116). -/
theorem nackReceived_message {s : State} {q : Pkt} {reason hop k unit : Nat} (h : Back s q ∧ q.body = .nack reason hop k unit ∧ engineOf s q.id = none)
    {m : List Byte} (hq : q.req.2.2 = .message m) (hn : s.errs = []) (hh : nackHeld s q reason = false) :
    Acts .nackReceived s fun t => (t.coreAt q.place).mbhead = (s.coreAt q.place).mbhead + 1 ∧
      (t.coreAt q.place).mbrsv = (s.coreAt q.place).mbrsv - 1 ∧ (t.slot q.place).expOut = (s.slot q.place).expOut - 1 := by
  obtain ⟨hback, hb, he⟩ := h
  obtain ⟨_, hhead⟩ := postMail_posts (s := dropPkt s s.arg.index) hn q.place.unit q.place.core (nackMail q reason hop) true
  obtain ⟨hrsv, hslots⟩ := postMail_reserved (s := dropPkt s s.arg.index) hn q.place.unit q.place.core (nackMail q reason hop)
  generalize hm : postMail (dropPkt s s.arg.index) q.place.unit q.place.core (nackMail q reason hop) true = t at hhead hrsv hslots
  refine ⟨acked (t.modSlot q.place fun x => { x with expOut := x.expOut - 1 }) q.place, ?_, hhead, hrsv, ?_⟩
  · rw [← hm]
    simp only [exec_nackReceived, execNackReceived, answering_back hback, hb, hh, Bool.false_eq_true, if_false, he, hq]
  · rw [(acked_rouses _ _ q.place).expOut, State.slot_modSlot, (hslots q.place).expOut]
    rfl

end Sys2Proof.Machine
end

section
/-! PROOFS. A slot parked on a route entry, and what leaves it there: events and errors, the writes of a save and of a freeze image, and the matrix unit's waking. -/

namespace Sys2Proof.Machine

/-! ### Slots and waiter tables beside errors and events -/

/-- The slots and the waiter tables are unchanged. -/
def SameWaits (s t : State) : Prop := t.slots = s.slots ∧ t.waiters = s.waiters

theorem SameWaits.refl (s : State) : SameWaits s s := ⟨rfl, rfl⟩
theorem SameWaits.trans {s t u : State} (h : SameWaits s t) (h' : SameWaits t u) : SameWaits s u := ⟨h'.1.trans h.1, h'.2.trans h.2⟩

theorem SameWaits.foldl {β : Type} {f : State → β → State} (l : List β) (s : State) (h : ∀ u x, SameWaits u (f u x)) : SameWaits s (l.foldl f s) :=
  List.foldlRecOn (motive := SameWaits s) l f (.refl s) fun u hu x _ => hu.trans (h u x)

theorem Reports.sameWaits {s t : State} (h : Reports s t) : SameWaits s t := by obtain ⟨_, _, _, _, _, _, rfl⟩ := h; exact ⟨rfl, rfl⟩

theorem correct_sameWaits (s : State) (k n : Nat) : SameWaits s (correct s k n) :=
  .foldl _ s fun u e => (countErr_reports u e.1 false).sameWaits.trans ⟨rfl, rfl⟩

theorem meetBads_sameWaits (l : List (Nat × Option Nat)) (s : State) : SameWaits s (l.foldl (fun t e => meetBad t e.1) s) :=
  .foldl l s fun u e => (meetBad_reports u e.1).sameWaits

theorem see_sameWaits (s : State) (k n : Nat) : SameWaits s (s.see k n) := by
  have h : SameWaits s (s.meet k n).1 := (correct_sameWaits s k n).trans (meetBads_sameWaits _ _)
  unfold State.see
  dsimp only
  split
  · exact .refl s
  · split
    · exact h.trans ⟨rfl, rfl⟩
    · exact h

theorem seeImage_sameWaits (s : State) (bed core : Nat) (ctx : BitVec 12) : SameWaits s (s.seeImage bed core ctx) := by
  unfold State.seeImage
  dsimp only
  split
  · split
    · exact see_sameWaits ..
    · exact .refl s
  · exact .refl s

theorem heal_sameWaits (s : State) (k n : Nat) : SameWaits s (heal s k n) := (meetBads_sameWaits _ s).trans ⟨rfl, rfl⟩

theorem putWord_sameWaits (s : State) (p : Path) (k : Nat) (bs : List Byte) : SameWaits s (putWord s p k bs) := by
  unfold putWord
  split
  · exact (meetBad_reports s k).sameWaits
  · exact (correct_sameWaits s k _).trans (.foldl _ _ fun _ _ => ⟨rfl, rfl⟩)

theorem putWords_sameWaits (p : Path) (f : Nat) (s : State) (k : Nat) (bs : List Byte) : SameWaits s (putWords s p f k bs) := by
  induction f generalizing s k bs with
  | zero => exact .refl s
  | succ f ih =>
    rw [putWords]
    split
    · exact .refl s
    · exact (putWord_sameWaits s p k _).trans (ih _ _ _)

theorem releaseStore_sameWaits (s : State) (k n : Nat) : SameWaits s (releaseStore s k n) := by unfold releaseStore; split <;> exact ⟨rfl, rfl⟩

/-! ### A slot in no waiter table (R207) -/

/-- A slot, by its key, stands in no waiter table. -/
def Unlisted (s : State) (sk : Nat) : Prop := ∀ e ∈ s.waiters, ∀ w ∈ e.2, w.1 ≠ sk

theorem Unlisted.of_eq {s t : State} {sk : Nat} (h : Unlisted s sk) (hw : t.waiters = s.waiters) : Unlisted t sk := by rw [Unlisted, hw]; exact h

theorem Tbl.mem_of_look {α : Type} {t : Tbl α} {k : Nat} {a : α} (h : Tbl.look t k = some a) : (k, a) ∈ t := by
  induction t with
  | nil => cases h
  | cons e r ih =>
    obtain ⟨j, b⟩ := e
    rw [Tbl.look] at h
    split at h
    · next hj => cases h; subst hj; exact List.mem_cons_self
    · exact List.mem_cons_of_mem _ (ih h)

theorem Tbl.mem_set {α : Type} {t : Tbl α} {k : Nat} {a : α} {e : Nat × α} (h : e ∈ Tbl.set t k a) : e = (k, a) ∨ e ∈ t := by
  induction t with
  | nil => exact .inl (List.mem_singleton.1 h)
  | cons x r ih =>
    obtain ⟨j, b⟩ := x
    rw [Tbl.set] at h
    split at h
    · rcases List.mem_cons.1 h with rfl | h
      · exact .inr List.mem_cons_self
      · exact (ih h).imp_right (List.mem_cons_of_mem _)
    · split at h
      · exact (List.mem_cons.1 h).imp_right (List.mem_cons_of_mem _)
      · exact List.mem_cons.1 h

theorem Unlisted.get {s : State} {sk : Nat} (h : Unlisted s sk) (b : Nat) : ∀ w ∈ Tbl.get [] s.waiters b, w.1 ≠ sk := by
  intro w hw
  rw [Tbl.get] at hw
  cases hl : Tbl.look s.waiters b with
  | none => rw [hl] at hw; cases hw
  | some l => rw [hl] at hw; exact h (b, l) (Tbl.mem_of_look hl) w hw

/-- Clearing waiters lists nobody. -/
theorem Unlisted.wakeWaiters {s : State} {sk : Nat} (h : Unlisted s sk) (k : Nat) : Unlisted (wakeWaiters s k) sk := by
  unfold Machine.wakeWaiters
  extract_lets b mine rest s'
  have hs : Unlisted s' sk := by
    intro e he
    simp only [s'] at he
    split at he
    · exact h e (List.mem_filter.1 he).1
    · rcases Tbl.mem_set he with rfl | he
      · exact fun w hw => h.get b w (List.mem_filter.1 hw).1
      · exact h e he
  exact hs.of_eq rfl

/-! ### A slot parked on a route entry (R92, R215) -/

/-- A slot is parked on a route entry. -/
def Slot.parkedOn (x : Slot) (n : Nat) : Prop := x.st = .park ∧ x.parkWhy = 1 ∧ x.wait = some (.route n)

/-- A slot is parked on a route entry and stands in no waiter table. -/
def OnRoute (s : State) (p : Place) (n : Nat) : Prop := (s.slot p).parkedOn n ∧ Unlisted s (slotKey p)

section
variable {s t : State} {p : Place} {n : Nat} (h : OnRoute s p n)
include h

theorem OnRoute.of_sameWaits (hq : SameWaits s t) : OnRoute t p n :=
  ⟨by rw [State.slot, hq.1]; exact h.1, h.2.of_eq hq.2⟩

/-- Changing listed slots, but none that is parked on the entry under this key. -/
theorem OnRoute.of_map {f : Nat × Slot → Nat × Slot} (hk : ∀ e, (f e).1 = e.1) (hf : ∀ x : Slot, x.parkedOn n → (f (slotKey p, x)).2.parkedOn n)
    (hs : t.slots = s.slots.map f) (hw : t.waiters = s.waiters) : OnRoute t p n := by
  obtain ⟨hp, hu⟩ := h
  refine ⟨?_, hu.of_eq hw⟩
  unfold State.slot Tbl.get at hp ⊢
  rw [hs, Tbl.look_map f hk]
  cases hl : Tbl.look s.slots (slotKey p) with
  | none => rw [hl] at hp; exact hp
  | some x => rw [hl] at hp; exact hf x hp

theorem OnRoute.endResv (k m : Nat) : OnRoute (endResv s k m) p n := by
  refine h.of_map (fun e => ?_) (fun x hx => ?_) rfl rfl
  · split
    · split <;> rfl
    · rfl
  · split
    · split <;> exact hx
    · exact hx

/-- A waking that passes over the slots that wait for route entries. -/
theorem OnRoute.wakeIf {f : Nat → Wait → Bool} (hf : f (slotKey p) (.route n) = false) : OnRoute (wakeIf s f) p n := by
  refine h.of_map (fun e => ?_) (fun x hx => ?_) rfl rfl
  · split
    · split <;> rfl
    · rfl
  · obtain ⟨_, _, hwait⟩ := id hx
    simp only [hwait, hf, Bool.false_eq_true, if_false]
    exact hx

theorem OnRoute.wakeWaiters (k : Nat) : OnRoute (wakeWaiters s k) p n := by
  have hu := h.2.wakeWaiters k
  refine ⟨?_, hu⟩
  unfold Machine.wakeWaiters
  extract_lets b mine rest s'
  have hs : (s'.slot p).parkedOn n := h.1
  have hun : Unlisted s' (slotKey p) := hu
  refine (OnRoute.wakeIf ⟨hs, hun⟩ ?_).1
  rw [List.any_eq_false]
  intro w hw
  simpa using h.2.get b w (List.mem_filter.1 hw).1

theorem OnRoute.wakeWords (k m : Nat) : OnRoute (wakeWords s k m) p n :=
  List.foldlRecOn (motive := fun t => OnRoute t p n) _ _ h fun _ ht _ _ => ht.wakeWaiters _

/-- A write outside every route table leaves the slot parked. -/
theorem OnRoute.put (q : Path) {k : Nat} (hk : routeEntryOf k = none) (bs : List Byte) : OnRoute (s.put q k bs) p n := by
  by_cases hb : bs = []
  · subst hb; exact h
  · rw [s.put_eq q k bs hb]
    have hw := ((h.of_sameWaits ((heal_sameWaits s k bs.length).trans (putWords_sameWaits q (bs.length + 1) _ k bs))).endResv k bs.length).wakeWords k bs.length
    generalize putWords (heal s k bs.length) q (bs.length + 1) k bs = t at hw ⊢
    have hr : wakeRoute (Machine.wakeWords (Machine.endResv t k bs.length) k bs.length) k = Machine.wakeWords (Machine.endResv t k bs.length) k bs.length := by
      unfold wakeRoute
      rw [hk]
    unfold State.written
    dsimp only
    rw [hr]
    split
    · exact (hw.of_sameWaits ⟨rfl, rfl⟩).of_sameWaits (releaseStore_sameWaits _ _ _)
    · exact hw.of_sameWaits ⟨rfl, rfl⟩

end

/-! ### Parking (R92, R215) -/

/-- A write lists nobody in a waiter table. -/
theorem Unlisted.put {s : State} {sk : Nat} (h : Unlisted s sk) (q : Path) (k : Nat) (bs : List Byte) : Unlisted (s.put q k bs) sk := by
  by_cases hb : bs = []
  · subst hb; exact h
  · rw [s.put_eq q k bs hb]
    have hq := (heal_sameWaits s k bs.length).trans (putWords_sameWaits q (bs.length + 1) _ k bs)
    have hw : Unlisted (wakeWords (endResv (putWords (heal s k bs.length) q (bs.length + 1) k bs) k bs.length) k bs.length) sk :=
      List.foldlRecOn (motive := fun t => Unlisted t sk) _ _ ((h.of_eq hq.2).of_eq rfl) fun _ ht _ _ => ht.wakeWaiters _
    have hr : ∀ t : State, (wakeRoute t k).waiters = t.waiters := fun t => by
      unfold wakeRoute
      split
      · rfl
      · split <;> rfl
    unfold State.written
    dsimp only
    split
    · exact (hw.of_eq (hr _)).of_eq (releaseStore_sameWaits _ _ _).2
    · exact hw.of_eq (hr _)

theorem Unlisted.saveSlot {s : State} {sk : Nat} (h : Unlisted s sk) (p : Place) : Unlisted (s.saveSlot p) sk := by
  have hp : ∀ {t : State} (k : Nat) (bs : List Byte), Unlisted t sk → Unlisted (t.put .ls k bs) sk := fun k bs ht => Unlisted.put ht .ls k bs
  unfold State.saveSlot
  dsimp only
  split
  · exact hp _ _ (hp _ _ (hp _ _ (hp _ _ (hp _ _ (hp _ _ (hp _ _ h))))))
  · exact hp _ _ (hp _ _ h)

theorem quitCounters_coresSlots (s : State) (p : Place) : CoresSlots s (quitCounters s p) := by
  unfold quitCounters
  dsimp only
  split <;> exact ⟨_, _, rfl⟩

theorem withdrawMatrix_coresSlots (s : State) (p : Place) : CoresSlots s (withdrawMatrix s p) := by
  unfold withdrawMatrix
  dsimp only
  split
  · exact .refl s
  · exact CoresSlots.trans ⟨_, _, rfl⟩ (wakeMatrix_coresSlots _ p.unit p.core)

theorem CoresSlots.waiters {s t : State} (h : CoresSlots s t) : t.waiters = s.waiters := by obtain ⟨_, _, rfl⟩ := h; rfl

/-- A slot that leaves what it waits in stands in no waiter table. -/
theorem quitWaits_unlisted (s : State) (p : Place) : Unlisted (quitWaits s p) (slotKey p) := by
  unfold quitWaits
  refine Unlisted.of_eq (fun e he w hw => ?_) ((quitCounters_coresSlots _ p).trans (withdrawMatrix_coresSlots _ p)).waiters
  obtain ⟨e', _, rfl⟩ := List.mem_map.1 (List.mem_filter.1 he).1
  simpa using (List.mem_filter.1 hw).2

theorem cutWait_waiters (s : State) (p : Place) : (cutWait s p).waiters = s.waiters := by unfold cutWait; split <;> rfl

theorem parkRoute_onRoute {s : State} {p : Place} (h : Unlisted s (slotKey p)) (n : Nat) : OnRoute (parkRoute s p n) p n := by
  refine ⟨?_, ((h.of_eq (cutWait_waiters s p)).saveSlot p).of_eq rfl⟩
  rw [parkRoute, State.slot_modSlot]
  exact ⟨rfl, rfl, rfl⟩

/-! ### The matrix unit of a slot that has parked (R256, R257) -/

theorem isBedCore_of_high {k : Nat} (h : 2 ^ 31 ≤ k % 2 ^ 36) : isBedCore k = false := by
  rw [isBedCore, Bool.and_eq_false_iff]; exact .inr (decide_eq_false (Nat.not_lt.2 h))

theorem isRimCore_of_low {k : Nat} (h : k < 0x1F * 2 ^ 44) : isRimCore k = false := by
  rw [isRimCore, Bool.and_eq_false_iff]; exact .inl (decide_eq_false (Nat.not_le.2 h))

/-- No route table stands in a vault. -/
theorem routeEntryOf_vault {b v off : Nat} (hb : b < 12) (hv : v < 16) (ho : off < 2 ^ 26) : routeEntryOf (vaultKey b v off) = none := by
  have hbed : isBedCore (vaultKey b v off) = false := isBedCore_of_high (by simp only [vaultKey]; omega)
  have hrim : isRimCore (vaultKey b v off) = false := isRimCore_of_low (by simp only [vaultKey]; omega)
  simp [routeEntryOf, hbed, hrim]

theorem decodeBedCore_not_vault (u c low b v off : Nat) : decodeBedCore u c low ≠ .vault b v off := by
  unfold decodeBedCore; split_ifs <;> exact Rng.noConfusion

theorem decodeRimCore_not_vault (u c o b v off : Nat) : decodeRimCore u c o ≠ .vault b v off := by
  unfold decodeRimCore; split_ifs <;> exact Rng.noConfusion

theorem decodeSelf_not_vault (u c low b v off : Nat) : decodeSelf u c low ≠ .vault b v off := by
  unfold decodeSelf
  split
  · exact decodeBedCore_not_vault _ _ _ _ _ _
  · split_ifs <;> exact Rng.noConfusion

/-- A vault address names a vault of a bed, and a byte of it (R17). -/
theorem decodeLa_vault {unit core la b v off : Nat} (h : decodeLa unit core la = .vault b v off) : b < 12 ∧ v < 16 ∧ off < 2 ^ 26 := by
  unfold decodeLa at h
  dsimp only at h
  split_ifs at h
  · exact absurd h (decodeBedCore_not_vault _ _ _ _ _ _)
  · cases h; omega
  · exact absurd h (decodeSelf_not_vault _ _ _ _ _ _)
  · exact absurd h (decodeRimCore_not_vault _ _ _ _ _ _)

/-- A context's freeze image stands in no route table. -/
theorem imageKey_route {s : State} {bed core : Nat} {ctx : BitVec 12} {k : Nat} (h : s.imageKey bed core ctx = some k) : routeEntryOf k = none := by
  unfold State.imageKey at h
  dsimp only at h
  split at h
  · split at h
    · split at h
      · next hd _ =>
        split at h
        · cases h
          obtain ⟨hb, hv, ho⟩ := decodeLa_vault hd
          exact routeEntryOf_vault hb hv ho
        · cases h
      · cases h
    · cases h
  · cases h

/-- An image in one piece has one part. -/
theorem parts_wholeAt (k : Nat) {n : Nat} (h : n ≠ 0) : Img.parts (wholeAt k) 0 n = [(k, min n 20480)] := by
  rw [wholeAt, Img.parts, if_neg h, if_pos (by omega), Img.parts, Nat.add_zero, Nat.sub_zero]

section
variable {s : State} {p : Place} {n : Nat} (h : OnRoute s p n)
include h

theorem OnRoute.wakeMatrix (u c : Nat) : OnRoute (wakeMatrix s u c) p n := by
  have hc : SameWaits s (claimRemote s u c) := by
    unfold claimRemote
    dsimp only
    split
    · split <;> exact ⟨rfl, rfl⟩
    · exact .refl s
  exact (h.of_sameWaits hc).wakeIf (by simp)

theorem OnRoute.withdrawMatrix (q : Place) : OnRoute (withdrawMatrix s q) p n := by
  unfold Machine.withdrawMatrix
  dsimp only
  split
  · exact h
  · exact (h.of_sameWaits (t := s.modCoreAt q _) ⟨rfl, rfl⟩).wakeMatrix q.unit q.core

theorem OnRoute.dropMatrix (u c : Nat) : OnRoute (dropMatrix s u c) p n :=
  (h.of_sameWaits (t := { (s.modCore u c fun c => { c with mx := Matrix.empty }) with pkts := _ }) ⟨rfl, rfl⟩).wakeIf (by simp)

theorem OnRoute.putImg {k : Nat} (hk : routeEntryOf k = none) (bs : List Byte) : OnRoute (putImg s (wholeAt k) 0 bs) p n := by
  unfold Machine.putImg
  by_cases hb : bs.length = 0
  · rw [hb, wholeAt, Img.parts, if_pos rfl]; exact h
  · rw [parts_wholeAt k hb]; exact h.put .mx hk _

theorem OnRoute.freezeTo {k : Nat} (hk : routeEntryOf k = none) (u c : Nat) : OnRoute (freezeTo s u c (wholeAt k)) p n := by
  unfold Machine.freezeTo
  dsimp only
  split
  · exact h.dropMatrix u c
  · generalize imageBytes s u c _ _ _ = bs
    have hput := h.putImg hk bs
    generalize Machine.putImg s (wholeAt k) 0 bs = t at hput ⊢
    exact (hput.of_sameWaits ⟨rfl, rfl⟩).dropMatrix u c

/-- A heavy slot that has parked stays so while the unit is frozen. -/
theorem OnRoute.parkLeaves : OnRoute (parkLeaves s p) p n := by
  unfold Machine.parkLeaves
  dsimp only
  split
  · have hq := h.of_sameWaits (seeImage_sameWaits s p.unit p.core (s.slot p).th.ctx)
    split
    · next k hk => exact (hq.withdrawMatrix p).freezeTo (imageKey_route hk) p.unit p.core
    · exact hq.dropMatrix p.unit p.core
  · exact h

end

/-! ### A NACK of a load that a slot waits for (R91, R92) -/

/-- The entry that a NACK with reason 0 to 2 meets unchanged loses VALID, and ROUTE is raised (R92). -/
theorem nackEntry_unchanged {s : State} {q : Pkt} {e raw : Nat} (he : q.entry = some (e, raw)) (hr : (s.routeEntry q.place.unit q.place.core e).raw = raw) (reason hop : Nat) :
    nackEntry s q reason hop = (routeEvent (clearValid s q.place.unit q.place.core e) q.place e reason hop, some e) := by
  simp only [nackEntry, he]
  rw [if_neg (not_not.2 hr)]

theorem routeEvent_sameWaits (s : State) (p : Place) (n reason hop : Nat) : SameWaits s (routeEvent s p n reason hop) := (raise_reports ..).sameWaits

/-- The slot whose load meets an invalid entry is parked on it. -/
theorem nackWaiting_parks {s : State} {q : Pkt} {n e raw reason : Nat} {keep : Bool} (hq : q.req.2.2 = .load n false) (hr : reason ≤ 2) (he : q.entry = some (e, raw))
    (hraw : (s.routeEntry q.place.unit q.place.core e).raw = raw) (hw : (s.slot q.place).wait = some (.answer q.id keep)) (ha : (s.slot q.place).ahead = [])
    (hop unit : Nat) : OnRoute (nackWaiting s q reason hop unit) q.place e := by
  have hx : (s.slot q.place).waitsFor q (.load n false) = true := Slot.waitsFor_answer hw _
  have hs := (routeEvent_sameWaits (clearValid s q.place.unit q.place.core e) q.place e reason hop).1
  have ha' : ((routeEvent (clearValid s q.place.unit q.place.core e) q.place e reason hop).slot q.place).ahead = [] := by rw [State.slot, hs]; exact ha
  simp only [nackWaiting, hq, hx, hr, Bool.true_eq_false, false_and, if_false, if_true, nackEntry_unchanged he hraw, ha']
  exact (parkRoute_onRoute (quitWaits_unlisted _ _) e).parkLeaves

theorem nackReceived_parks {s : State} {q : Pkt} {reason hop k unit n e raw : Nat} {keep : Bool}
    (h : Back s q ∧ q.body = .nack reason hop k unit ∧ engineOf s q.id = none) (hq : q.req.2.2 = .load n false) (hr : reason ≤ 2) (he : q.entry = some (e, raw))
    (hraw : (s.routeEntry q.place.unit q.place.core e).raw = raw) (hw : (s.slot q.place).wait = some (.answer q.id keep)) (ha : (s.slot q.place).ahead = [])
    (hh : saveHeld s q.place = false) :
    Acts .nackReceived s fun t => (t.slot q.place).st = .park ∧ (t.slot q.place).parkWhy = 1 ∧ (t.slot q.place).wait = some (.route e) := by
  obtain ⟨hback, hb, heng⟩ := h
  have hheld : nackHeld s q reason = false := by simp [nackHeld, hh]
  refine ⟨nackWaiting (dropPkt s s.arg.index) q reason hop unit, ?_, (nackWaiting_parks (s := dropPkt s s.arg.index) hq hr he hraw hw ha hop unit).1⟩
  simp only [exec_nackReceived, execNackReceived, answering_back hback, hb, hheld, Bool.false_eq_true, if_false, heng, hq]

/-- Settles O41: a lemma for each answer. -/
theorem answerSteps : Obligations.AnswerSteps := by
  unfold Obligations.AnswerSteps
  intro s q bs reason hop k unit id keep
  dsimp only
  exact ⟨fun n h hq hb hw => acknowledgement_load h hq hb hw, fun e rest a h hq hs hi hsent => acknowledgement_store h hq hs hi hsent,
    fun o d g x v h hq => acknowledgement_red h hq, fun m h hq => acknowledgement_message h hq, fun o d g x v h hq hr => nackReceived_busyRed h hq hr,
    fun m h hq hn hh => nackReceived_message h hq hn hh, fun n e raw h hq hr he hraw hw ha hh => nackReceived_parks h hq hr he hraw hw ha hh,
    fun pa ctx own legs h hq hb hw => probeAnswer_gives h hq hb hw, fun r h hq hb hw => spawnAnswer_done h hq hb hw,
    fun r n f hr hw hb he ha hn => busyRetryTimer_wakes hr hw hb he ha hn, fun r a hr hw hb hn he => wfzRetryTimer_unsends hr hw hb hn he,
    fun p n w hs hw => graftStatAnswer_gives hs hw, fun a => engineResponseTimeout_fails⟩

end Sys2Proof.Machine
end

section
/-! PROOFS. Copy commands, remote matrix commands and quenches at issue: blocks and descriptors of the own memory, the channel a command joins, and the packets that go out. -/

namespace Sys2Proof.Machine

/-! ### What an observation leaves alone (R201) -/

theorem Observes.quiet {s u : State} (h : Observes s u) (hq : Quiet s) : Quiet u := by obtain ⟨_, _, rfl⟩ := h; exact hq
theorem Observes.whole {s u : State} (h : Observes s u) (hw : Whole s) : Whole u := by obtain ⟨_, _, rfl⟩ := h; exact hw
theorem Observes.here {s u : State} (h : Observes s u) : u.here = s.here := by obtain ⟨_, _, rfl⟩ := h; rfl
theorem Observes.cur {s u : State} (h : Observes s u) : u.cur = s.cur := by obtain ⟨_, _, rfl⟩ := h; rfl
theorem Observes.coreAt {s u : State} (h : Observes s u) (p : Place) : u.coreAt p = s.coreAt p := by obtain ⟨_, _, rfl⟩ := h; rfl
theorem Observes.tensorAt {s u : State} (h : Observes s u) {fifo : Bool} {pa : Nat} {t : Option Tensor} (ht : TensorAt s fifo pa t) : TensorAt u fifo pa t := by
  obtain ⟨_, _, rfl⟩ := h; exact ht
theorem Observes.tensorRefused {s u : State} (h : Observes s u) (t : Option Tensor) (pa : Word) : tensorRefused u t pa = tensorRefused s t pa := by
  obtain ⟨_, _, rfl⟩ := h; rfl
theorem Observes.refused {s u : State} (h : Observes s u) (b : CopyBlk) (ck : Bool) : b.refused u ck = b.refused s ck := by obtain ⟨_, _, rfl⟩ := h; rfl
theorem Observes.cmd {s u : State} (h : Observes s u) (b : CopyBlk) (ck : Bool) : b.cmd u ck = b.cmd s ck := by obtain ⟨_, _, rfl⟩ := h; rfl

/-! ### Route entries that a word reads (R62, R84, R85, R89) -/

theorem routeStored_empty {s : State} {p : Place} (h : (s.coreAt p).sbuf = []) : routeStored s p = false := by simp [routeStored, h]

/-- With no store to the table buffered and no soft error to meet, a word reads route entries as they stand. -/
theorem readingRoutes_still {s : State} (he : s.errs = []) (hr : routeStored s s.cur.place = false) (ns : List Nat) (f : State → Res) :
    readingRoutes s ns f = f s := by
  simp [readingRoutes, hr, State.seeRoutes, he]

/-- A route entry is what memory holds, where no word holds a soft error. -/
theorem State.routeEntry_congr {s t : State} (hm : t.mem = s.mem) (hs : s.errs = []) (ht : t.errs = []) (u c n : Nat) : t.routeEntry u c n = s.routeEntry u c n := by
  simp only [State.routeEntry, State.peekNat, peek_noErrs _ _ _ hs, peek_noErrs _ _ _ ht, hm]

theorem State.extend_congr {s t : State} (hm : t.mem = s.mem) (hs : s.errs = []) (ht : t.errs = []) (u c f : Nat) (e : RouteE) (str n : Nat) :
    t.extend u c f e str n = s.extend u c f e str n := by
  induction f generalizing e str n with
  | zero => rfl
  | succ f ih => simp only [State.extend, routeEntry_congr hm hs ht, ih]

theorem State.routeString_congr {s t : State} (hm : t.mem = s.mem) (hs : s.errs = []) (ht : t.errs = []) (u c n : Nat) : t.routeString u c n = s.routeString u c n := by
  simp only [State.routeString, routeEntry_congr hm hs ht, extend_congr hm hs ht]

/-- A request whose entry is valid, with a well-formed string, goes out. -/
theorem injectOn_valid {s : State} {p : Place} {n : Nat} (he : s.errs = []) (hv : (s.routeEntry p.unit p.core n).valid = true)
    (hr : routeRefused p.rim false (s.routeString p.unit p.core n) = none) (q : Pkt) :
    ∃ q', injectOn s p n q = .sent { s with pkts := s.pkts ++ [q'] } ∧ q'.kind = q.kind ∧ q'.resp = q.resp := by
  have h0 : s.seeRoute p.unit p.core 3 n = s := by unfold State.seeRoute; simp [he]
  unfold injectOn
  simp only [h0, hv, hr]
  exact ⟨_, rfl, rfl, rfl⟩

/-! ### Blocks and descriptors of copy commands (R106, R107) -/

/-- A block or descriptor in the own memory is read at once, and the thread observes what it reads. -/
theorem readCommand_own {s : State} (hq : Quiet s) (hw : Whole s) (hb : s.here.blk = none) {pa : Word} {n w off : Nat} (h : OwnAt s.cur.place pa n n w off) :
    ∃ u, Observes s u ∧ ∀ f, readCommand s pa n f = f u (s.ownBytes s.cur.place off n) := by
  refine ⟨_, observeLoad_frame s s.cur.place (.core s.cur.place.unit s.cur.place.core w off) n, fun f => ?_⟩
  have hc := addressCheck_own (s := s) (kind := .load) h (by simp) (by simp)
  obtain ⟨-, -, hwin, -⟩ := h
  simp only [readCommand, readPart, hc, ownAcc_rng, Rng.isMemory, hwin, decide_true, if_true, crossing, ownAcc_cross, Bool.false_eq_true, false_and, if_false]
  exact loadBytes_own hq hb pa w off n (.inr hw) f

/-- Read the descriptor of one end of a copy, where the end is no FIFO. -/
def readTensor (s : State) (fifo : Bool) (pa : Nat) (g : State → Option Tensor → Res) : Res :=
  if fifo then g s none else readCommand s (BitVec.ofNat 64 pa) 64 fun s ds => g s (some (tensorOf (ofBytes ds)))

/-- The checks of R31 and R109 on a block that has been read. -/
def CopyBlk.checking (b : CopyBlk) (s : State) (ck : Bool) (f : State → Cmd → Res) : Res :=
  match tensorRefused s b.src (BitVec.ofNat 64 b.w0) with
  | some t => .trap s t
  | none =>
    match tensorRefused s b.dst (BitVec.ofNat 64 b.w1) with
    | some t => .trap s t
    | none => readingRoutes s b.entries fun s => match b.refused s ck with
      | some n => blockError s n b.pa
      | none => f s (b.cmd s ck)

/-- A copy command is its block, then its two descriptors, then its checks (R106). -/
theorem readCopy_eq (s : State) (pa : Word) (ck : Bool) (f : State → Cmd → Res) :
    readCopy s pa ck f = readCommand s pa 32 fun s bs =>
      readTensor s ((wordAt bs 2).testBit 17) (wordAt bs 0) fun s src => readTensor s ((wordAt bs 2).testBit 22) (wordAt bs 1) fun s dst =>
        CopyBlk.checking { pa := pa, w0 := wordAt bs 0, w1 := wordAt bs 1, w2 := wordAt bs 2, w3 := wordAt bs 3, src := src, dst := dst } s ck f := rfl

/-- An end of a copy, absent or its descriptor in the own memory, is as `TensorAt` says. -/
theorem readTensor_own {s : State} (hq : Quiet s) (hw : Whole s) (hb : s.here.blk = none) {fifo : Bool} {pa : Nat} {t : Option Tensor} (h : TensorAt s fifo pa t) :
    ∃ u, Observes s u ∧ ∀ g, readTensor s fifo pa g = g u t := by
  cases fifo with
  | true =>
    obtain rfl : t = none := by simpa [TensorAt] using h
    exact ⟨s, .refl s, fun g => rfl⟩
  | false =>
    obtain ⟨w, off, ha, rfl⟩ : ∃ w off, OwnAt s.cur.place (BitVec.ofNat 64 pa) 64 64 w off ∧ t = some (tensorOf (ofBytes (s.ownBytes s.cur.place off 64))) := by
      simpa [TensorAt] using h
    obtain ⟨u, hu, hr⟩ := readCommand_own hq hw hb ha
    exact ⟨u, hu, fun g => hr _⟩

/-- A block whose checks pass gives its command. -/
theorem CopyBlk.checking_passes {s : State} {b : CopyBlk} {ck : Bool} (he : s.errs = []) (hs : routeStored s s.cur.place = false)
    (hrs : tensorRefused s b.src (BitVec.ofNat 64 b.w0) = none) (hrd : tensorRefused s b.dst (BitVec.ofNat 64 b.w1) = none) (hr : b.refused s ck = none)
    (f : State → Cmd → Res) : b.checking s ck f = f s (b.cmd s ck) := by
  simp only [CopyBlk.checking, hrs, hrd, readingRoutes_still he hs, hr]

/-- A copy command whose block and descriptors stand in the own memory and pass their checks is read as the command its block describes. -/
theorem readCopy_own {s : State} (hq : Quiet s) (hw : Whole s) (hb : s.here.blk = none) {ck : Bool} {b : CopyBlk} {bs : List Byte} {w off : Nat}
    (ha : OwnAt s.cur.place b.pa 32 32 w off) (hbs : bs = s.ownBytes s.cur.place off 32)
    (hblk : b = { pa := b.pa, w0 := wordAt bs 0, w1 := wordAt bs 1, w2 := wordAt bs 2, w3 := wordAt bs 3, src := b.src, dst := b.dst })
    (hsrc : TensorAt s ((wordAt bs 2).testBit 17) (wordAt bs 0) b.src) (hdst : TensorAt s ((wordAt bs 2).testBit 22) (wordAt bs 1) b.dst)
    (hrs : tensorRefused s b.src (BitVec.ofNat 64 b.w0) = none) (hrd : tensorRefused s b.dst (BitVec.ofNat 64 b.w1) = none) (hr : b.refused s ck = none) :
    ∃ u, Observes s u ∧ ∀ f, readCopy s b.pa ck f = f u (b.cmd s ck) := by
  obtain ⟨t, ht, h1⟩ := readCommand_own hq hw hb ha
  obtain ⟨v, hv, h2⟩ := readTensor_own (ht.quiet hq) (ht.whole hw) (ht.here ▸ hb) (ht.tensorAt hsrc)
  have htv := ht.trans hv
  obtain ⟨u, hu, h3⟩ := readTensor_own (htv.quiet hq) (htv.whole hw) (htv.here ▸ hb) (htv.tensorAt hdst)
  have hsu := htv.trans hu
  obtain ⟨-, hsb, -, he, -⟩ := hsu.quiet hq
  refine ⟨u, hsu, fun f => ?_⟩
  rw [readCopy_eq, h1, ← hbs, h2, h3, ← hblk, CopyBlk.checking_passes he (routeStored_empty hsb) (by rwa [hsu.tensorRefused]) (by rwa [hsu.tensorRefused])
    (by rwa [hsu.refused]), hsu.cmd]

/-! ### Channels (R111, R394) -/

/-- A command that its channel accepts joins the queue, unless one that has had to wait finds commands pending. -/
theorem queueCommand_accepts {s : State} {k : Cmd} {c : Chan} (ha : ((s.coreAt s.cur.place).chan k.chan).accept k = some c)
    (hl : Resp.late ∈ s.here.resp → ((s.coreAt s.cur.place).chan k.chan).cmds = []) : queueCommand s k = .ok (s.queued k c) := by
  have hn : ¬(s.here.resp.contains .late = true ∧ ((s.coreAt s.cur.place).chan k.chan).cmds ≠ []) := fun ⟨hm, hc⟩ => hc (hl (by simpa using hm))
  simp only [queueCommand, if_neg hn, ha, State.queued]

/-- A command with a range arms an idle channel. -/
theorem Chan.accept_idle {c : Chan} {k : Cmd} {lo hi : Word} (hr : k.range = some (lo, hi)) (hc : c.cmds = []) :
    c.accept k = some { c with lo := lo, hi := hi, wm := lo, arm := c.arm + 1, cmds := [k] } := by
  simp [Chan.accept, hr, hc]

/-- A copy instruction of a slot in no block reads its command and queues it (R392). -/
theorem exec_copy_reads {s : State} {a : BitVec 5} {ck : Bool} (hb : s.here.blk = none) (hA : Admitted (if ck then .cpyCk a else .cpy a) s) :
    exec (if ck then .cpyCk a else .cpy a) s = done (readCopy s (s.opG a) ck queueCommand) := by
  cases ck with
  | true =>
    simp only [if_true] at hA ⊢
    rw [exec_cpyCk, execCpyCk, word_admitted hA, State.outsideBlock_noBlock hb]
  | false =>
    simp only [Bool.false_eq_true, if_false] at hA ⊢
    rw [exec_cpy, execCpy, word_admitted hA, State.outsideBlock_noBlock hb]

/-- A status word that a thread asks for without waiting, or of an idle channel, is given at once (R394). -/
theorem cpyQ_gives {s : State} {d : BitVec 5} {q : BitVec 1} {n : BitVec 4} (hb : s.here.blk = none)
    (h : q = 0 ∨ ((s.coreAt s.cur.place).chan n.toNat).cmds = []) (hA : Admitted (.cpyQ d q n) s) :
    exec (.cpyQ d q n) s = .next ((seeChannel s s.cur.place s.cur.place.unit s.cur.place.core n.toNat).setG d ((s.coreAt s.cur.place).chan n.toNat).word2).retired := by
  have hn : ¬(q = 1 ∧ ((s.coreAt s.cur.place).chan n.toNat).cmds ≠ []) := by
    rintro ⟨rfl, hc⟩
    exact h.elim (by decide) hc
  rw [exec_cpyQ, execCpyQ, word_admitted hA, State.outsideBlock_noBlock hb]
  simp only [if_neg hn]
  exact done_ok _

/-- Settles O21: the block and its descriptors are read, their checks pass, and the channel takes the command. -/
theorem copyCommands : Obligations.CopyCommands := by
  unfold Obligations.CopyCommands
  refine ⟨fun s d a ck q n w off src dst c hq hw hb => ?_, fun c k lo hi hr hc => ⟨_, Chan.accept_idle hr hc, rfl, rfl, rfl, rfl⟩⟩
  intro p word b i
  refine ⟨fun ha hsrc hdst hrs hrd hr hc hl hA => ?_, fun h hA => cpyQ_gives hb h hA⟩
  obtain ⟨u, hu, hread⟩ : ∃ u, Observes s u ∧ ∀ f, readCopy s (s.opG a) ck f = f u (b.cmd s ck) := readCopy_own hq hw hb ha rfl rfl hsrc hdst hrs hrd hr
  have hc' : ((u.coreAt u.cur.place).chan (b.cmd s ck).chan).accept (b.cmd s ck) = some c := by rw [hu.cur, hu.coreAt]; exact hc
  have hl' : Resp.late ∈ u.here.resp → ((u.coreAt u.cur.place).chan (b.cmd s ck).chan).cmds = [] := by rw [hu.cur, hu.coreAt, hu.here]; exact hl
  refine ⟨u, hu, ?_⟩
  rw [exec_copy_reads hb hA, hread, queueCommand_accepts hc' hl', done_ok]

/-! ### Remote matrix commands (R384) -/

/-- The packet of an `mcmd` to a core, on the route of an entry, with the words of its block. -/
def mcmdPkt (s : State) (unit core ix : Nat) (word : Nat → Nat) : Pkt :=
  let p := s.cur.place
  let e := s.routeEntry p.unit p.core ix
  let str := s.routeString p.unit p.core ix
  { mkPkt s p 0x13 1 (unit * 2 ^ 36 + core * 2 ^ 24)
      (.mcmd (BitVec.ofNat 32 (word 1)) (BitVec.ofNat 64 (word 0)) (if (word 2).testBit 23 then some (bits (word 2) 22 12) else none)) with
    info := BitVec.ofNat 64 (word 1), route := str, lane := e.lane, route0 := str, lane0 := e.lane, entry := none }

theorem mcmdPkt_body (s : State) (unit core ix : Nat) (word : Nat → Nat) : (mcmdPkt s unit core ix word).body =
    .mcmd (BitVec.ofNat 32 (word 1)) (BitVec.ofNat 64 (word 0)) (if (word 2).testBit 23 then some (word 2 / 2 ^ 12 % 2 ^ 11) else none) := by
  rw [show word 2 / 2 ^ 12 % 2 ^ 11 = bits (word 2) 22 12 from (bits_eq_div (word 2) 22 12).symm]; rfl

/-- The state once the packet of an `mcmd` is under way and its mailbox entry reserved (R117, R384). -/
def State.commanding (s : State) (q : Pkt) : State :=
  (({ s with pkts := s.pkts ++ [q] } : State).modCoreAt s.cur.place fun c => { c with mbrsv := c.mbrsv + 1 }).tick

theorem State.commanding_mbrsv (s : State) (q : Pkt) : ((s.commanding q).coreAt s.cur.place).mbrsv = (s.coreAt s.cur.place).mbrsv + 1 := by
  rw [State.commanding, State.coreAt, State.core_tick, ← State.coreAt, State.coreAt_modCoreAt]; rfl

/-- What an `mcmd` asks of its block for its packet to be sent: a legal word, a bed core as target, and a well-formed route. -/
structure McmdOk (s : State) (word : Nat → Nat) (unit core ix : Nat) : Prop where
  unitEq : bits (word 2) 11 7 = unit
  coreEq : bits (word 2) 6 0 = core
  ixEq : (if (word 2).testBit 24 then 0x700 + bits (word 2) 32 25 else 128 * unit + core) = ix
  fields : word 1 < 2 ^ 32 ∧ word 2 < 2 ^ 33 ∧ word 3 = 0
  legal : (remoteWord (BitVec.ofNat 32 (word 1))).isSome = true
  bed : unit < 12
  valid : (s.routeEntry s.cur.place.unit s.cur.place.core ix).valid = true
  route : routeRefused s.cur.place.rim false (s.routeString s.cur.place.unit s.cur.place.core ix) = none

/-- An `mcmd` whose block stands in the own memory and asks for nothing amiss sends its packet, with its thread's accesses performed and room in the mailbox. -/
theorem mcmd_sends {s : State} {a : BitVec 5} {w off unit core ix : Nat} (hq : Quiet s) (hw : Whole s) (hb : s.here.blk = none)
    (ha : OwnAt s.cur.place (s.opG a) 32 32 w off) (hok : McmdOk s (wordAt (s.ownBytes s.cur.place off 32)) unit core ix)
    (hp : allPerformed s s.cur.place = true) (hm : (s.coreAt s.cur.place).mailRoom ≠ 0) (hA : Admitted (.mcmd a) s) :
    ∃ t, Observes s t ∧ exec (.mcmd a) s = .next (t.commanding (mcmdPkt t unit core ix (wordAt (s.ownBytes s.cur.place off 32)))).retired := by
  obtain ⟨t, ht, hread⟩ := readBlock_own hq hw hb ha
  refine ⟨t, ht, ?_⟩
  obtain ⟨-, hsb, -, he, -⟩ := ht.quiet hq
  obtain ⟨hu, hc, hx, ⟨h1, h2, h3⟩, hl, hbed, hv, hr⟩ := hok
  have hl' : (remoteWord (BitVec.ofNat 32 (wordAt (s.ownBytes s.cur.place off 32) 1))).isNone = false := Option.isNone_eq_false_iff.2 hl
  have hstill : ∀ ns f, readingRoutes t ns f = f t := readingRoutes_still he (routeStored_empty hsb)
  have hv' : (t.routeEntry t.cur.place.unit t.cur.place.core ix).valid = true := by obtain ⟨_, _, rfl⟩ := ht; exact hv
  have hr' : routeRefused t.cur.place.rim false (t.routeString t.cur.place.unit t.cur.place.core ix) = none := by obtain ⟨_, _, rfl⟩ := ht; exact hr
  have hp' : allPerformed t t.cur.place = true := by obtain ⟨_, _, rfl⟩ := ht; exact hp
  have hm' : (t.coreAt t.cur.place).mailRoom ≠ 0 := by rw [ht.cur, ht.coreAt]; exact hm
  rw [exec_mcmd, execMcmd, word_admitted hA]
  simp only [hb, Option.isSome_none, Bool.false_eq_true, if_false, hread, Nat.div_eq_of_lt h1, Nat.div_eq_of_lt h2, h3, hl', ne_eq, not_true_eq_false, or_self,
    hu, hc, hx, if_neg (Nat.not_le.2 hbed), hstill, hv', if_true, hr', releasing, hp', Bool.true_eq_false, if_neg hm']
  exact done_ok _

/-! ### Quenches (R124, R125, R395) -/

/-- What sending the messages of a quench changes: packets, the number of free values, and PEERS of the core that sends them. -/
structure SendsQuenches (p : Place) (s t : State) : Prop where
  frame : ∃ pkts cores free, t = { s with pkts := pkts, cores := cores, free := free }
  core : ∃ n, t.coreAt p = { s.coreAt p with qPeers := n }

theorem SendsQuenches.refl (p : Place) (s : State) : SendsQuenches p s s := ⟨⟨_, _, _, rfl⟩, ⟨_, rfl⟩⟩

theorem SendsQuenches.trans {p : Place} {s t u : State} (h : SendsQuenches p s t) (h' : SendsQuenches p t u) : SendsQuenches p s u := by
  obtain ⟨⟨_, _, _, rfl⟩, n, hn⟩ := h
  obtain ⟨⟨_, _, _, rfl⟩, m, hm⟩ := h'
  exact ⟨⟨_, _, _, rfl⟩, m, by rw [hm, hn]⟩

/-- Where every valid entry that a quench is sent along is well formed, its messages go out and nothing else changes. -/
theorem sendQuenches_sends {s : State} (he : s.errs = []) (ctx : Nat)
    (hr : ∀ k < 32, s.entryOk (0x7E0 + k) = true → routeRefused s.cur.place.rim false (s.routeString s.cur.place.unit s.cur.place.core (0x7E0 + k)) = none) :
    SendsQuenches s.cur.place s (sendQuenches s s.cur.place ctx) := by
  unfold sendQuenches
  refine List.foldlRecOn (motive := SendsQuenches s.cur.place s) _ _ (.refl _ s) fun t ht k hk => ht.trans ?_
  obtain ⟨hlt, hok⟩ := List.mem_filter.1 hk
  obtain ⟨hm, het⟩ : t.mem = s.mem ∧ t.errs = [] := by obtain ⟨⟨_, _, _, rfl⟩, -⟩ := ht; exact ⟨rfl, he⟩
  have hv : (t.routeEntry s.cur.place.unit s.cur.place.core (0x7E0 + k)).valid = true := by rw [State.routeEntry_congr hm he het]; exact hok
  have hs : routeRefused s.cur.place.rim false (t.routeString s.cur.place.unit s.cur.place.core (0x7E0 + k)) = none := by
    rw [State.routeString_congr hm he het]; exact hr k (List.mem_range.1 hlt) hok
  extract_lets n _ q r
  obtain ⟨q', hsent, -⟩ := injectOn_valid het hv hs q
  have hsent : r = { t with pkts := t.pkts ++ [q'] } := by simp only [r, n, hsent]
  rw [hsent]
  exact ⟨⟨_, _, _, rfl⟩, _, State.coreAt_modCoreAt _ _ _⟩

/-- A core at which a quench of a context has begun (R125). -/
def Core.quenching (c : Core) (ctx : Nat) : Core := { c with qBusy := true, qDone := false, qCtx := BitVec.ofNat 12 ctx, qPeers := 0, qLocal := true }

/-- The state in which a quench of a context has begun at the core in execution, and is recorded for the parties of the module (R124). -/
def State.quenching (s : State) (ctx : Nat) : State :=
  let p := s.cur.place
  let t := s.modCoreAt p fun c => c.quenching ctx
  { t with quenches := t.quenches ++ [(s.moduleNo.toNat, ctx, p.unit, p.core, [])] }

/-- A `cpy.quench` with no quench of its core under way begins one, and sends its messages. -/
theorem cpyQuench_begins {s : State} {a : BitVec 5} (hb : s.here.blk = none) (hv : (s.opG a).toNat < 2 ^ 12) (hq : (s.coreAt s.cur.place).qBusy = false)
    (he : s.errs = []) (hr : routeStored s s.cur.place = false) (hA : Admitted (.cpyQuench a) s) :
    exec (.cpyQuench a) s = .next (sendQuenches (s.quenching (s.opG a).toNat) s.cur.place (s.opG a).toNat).retired := by
  rw [exec_cpyQuench, execCpyQuench, word_admitted hA, State.outsideBlock_noBlock hb]
  simp only [if_neg (Nat.not_le.2 hv), hq, Bool.false_eq_true, if_false, readingRoutes_still he hr]
  exact done_ok _

/-- A completed word changes its own slot, and there no general register. -/
theorem State.retired_frame (s : State) : (∃ slots, s.retired = { s with slots := slots }) ∧ (s.retired.slot s.cur.place).th.g = (s.slot s.cur.place).th.g := by
  unfold State.retired State.retireTo
  split
  · exact ⟨⟨_, rfl⟩, rfl⟩
  · refine ⟨⟨_, rfl⟩, ?_⟩
    rw [State.slot_setSlot, Slot.retire]
    split <;> rfl

/-- What `cpy.quench` leaves once its messages have gone out. -/
theorem quenching_sent {s t : State} {ctx : Nat} (h : SendsQuenches s.cur.place (s.quenching ctx) t) : (t.retired.coreAt s.cur.place).qBusy = true ∧
    (t.retired.coreAt s.cur.place).qDone = false ∧ (t.retired.coreAt s.cur.place).qCtx = BitVec.ofNat 12 ctx ∧
    t.retired.quenches = s.quenches ++ [(s.moduleNo.toNat, ctx, s.cur.place.unit, s.cur.place.core, [])] ∧
    (t.retired.slot s.cur.place).th.g = s.here.th.g ∧ t.retired.mem = s.mem := by
  obtain ⟨⟨pkts, cores, free, ht⟩, n, hn⟩ := h
  obtain ⟨⟨slots, hslots⟩, hg⟩ := t.retired_frame
  have hcore : t.retired.coreAt s.cur.place = { (s.quenching ctx).coreAt s.cur.place with qPeers := n } := by rw [← hn, hslots]; rfl
  have hq : (s.quenching ctx).coreAt s.cur.place = (s.coreAt s.cur.place).quenching ctx := State.coreAt_modCoreAt s s.cur.place fun c => c.quenching ctx
  have hcur : t.cur = s.cur := by rw [ht]; rfl
  rw [hcur] at hg
  exact ⟨by rw [hcore, hq]; rfl, by rw [hcore, hq]; rfl, by rw [hcore, hq]; rfl, by rw [hslots, ht]; rfl, by rw [hg, ht]; rfl, by rw [hslots, ht]; rfl⟩

/-- Settles O33: an `mcmd` sends its packet, and `cpy.quench` records the quench and sends its messages. -/
theorem remoteCommands : Obligations.RemoteCommands := by
  unfold Obligations.RemoteCommands
  refine ⟨fun s a w off => ?_, fun s a => ?_⟩
  · intro p word unit core ix hq hw hb ha h1 h2 h3 hl hbed hv hr hp hm hA
    have hok : McmdOk s word unit core ix :=
      ⟨bits_eq_div _ _ _, (bits_eq_div _ _ _).trans (by rw [Nat.pow_zero, Nat.div_one]), by simp only [bits_eq_div, ix], ⟨h1, h2, h3⟩, hl, hbed, hv, hr⟩
    obtain ⟨t, ht, hx⟩ := mcmd_sends hq hw hb ha hok hp hm hA
    obtain ⟨_, _, rfl⟩ := ht
    exact ⟨_, _, hx, rfl, rfl, rfl, rfl, mcmdPkt_body .., State.commanding_mbrsv _ _, rfl, rfl⟩
  · intro p v hb hv hq he hr hent hA
    exact ⟨_, cpyQuench_begins hb hv hq he hr hA, quenching_sent (sendQuenches_sends (s := s.quenching v) he v hent)⟩

end Sys2Proof.Machine
end

section
/-! PROOFS. Copy and stash engines, channels and quenches: how a command is taken, sent, reported and completed, and how a quench spreads and ends. -/

namespace Sys2Proof

/-- What a function that changes every entry of a table keeps of each, it keeps of what is read. -/
theorem Tbl.get_mapV_congr {α β : Type} {f : α → α} {g : α → β} (h : ∀ a, g (f a) = g a) (d : α) (t : Tbl α) (k : Nat) :
    g (Tbl.get d (Tbl.mapV f t) k) = g (Tbl.get d t k) := by
  induction t with
  | nil => rfl
  | cons e r ih =>
    obtain ⟨j, a⟩ := e
    simp only [Tbl.get, Tbl.mapV, Tbl.look] at ih ⊢
    split
    · exact h a
    · exact ih

end Sys2Proof

namespace Sys2Proof.Machine

/-! ### A command that an engine takes (R103, R112, R118, R121, R137) -/

/-- An idle engine takes the next command. -/
theorem engTurn_idle {s : State} {e : Eng} (hok : e.ok = true) (ha : (s.eng e).active = none) (work : State → Pkt → Cmd → State) :
    engTurn s e work = engNext { s with maker := .other } e := by
  simp [engTurn, hok, ha, Engine.maker]

/-- A command with no FIFO end is taken as it stands. -/
theorem engNext_takes {s : State} {e : Eng} {q : Pkt} {rest : List Pkt} {c : Cmd} (hq : (s.eng e).queue = q :: rest) (hb : q.body = .cmd c)
    (hs : c.sfifo = none) (hd : c.dfifo = none) :
    ∃ wm, engNext s e = s.modEng e fun x => { x.idle with queue := rest, active := some q, ck := ckStart c c.carry, wm := wm } := by
  simp only [engNext, hq, hb, hs, hd]
  exact ⟨_, rfl⟩

/-- An idle engine's turn leaves the command at the head of its queue active, with the checksum it starts from. -/
theorem engTurn_takes {s : State} {e : Eng} {q : Pkt} {rest : List Pkt} {c : Cmd} (hok : e.ok = true) (ha : (s.eng e).active = none)
    (hq : (s.eng e).queue = q :: rest) (hb : q.body = .cmd c) (hs : c.sfifo = none) (hd : c.dfifo = none) (work : State → Pkt → Cmd → State) :
    ((engTurn s e work).eng e).active = some q ∧ ((engTurn s e work).eng e).queue = rest ∧ ((engTurn s e work).eng e).ck = ckStart c c.carry ∧
      (engTurn s e work).mem = s.mem := by
  obtain ⟨wm, h⟩ := engNext_takes (s := { s with maker := .other }) hq hb hs hd
  rw [engTurn_idle hok ha, h, State.eng_modEng]
  exact ⟨rfl, rfl, rfl, modEng_mem _ _ _⟩

/-! ### A command that fails (R114, R122, R123) -/

/-- FIFOs that a command leaves are no part of an engine. -/
theorem leaveFifos_eng (s : State) (id : Nat) (e : Eng) : (leaveFifos s id).eng e = s.eng e := by
  have hg : ((leaveFifos s id).bed e.unit).graft = (s.bed e.unit).graft := Tbl.get_mapV_congr (g := Bed.graft) (by intro _; rfl) _ _ _
  have hb : ((leaveFifos s id).bed e.unit).engines = (s.bed e.unit).engines := Tbl.get_mapV_congr (g := Bed.engines) (by intro _; rfl) _ _ _
  have hc : ((leaveFifos s id).rim (e.unit - 16)).encs = (s.rim (e.unit - 16)).encs := Tbl.get_mapV_congr (g := Rim.encs) (by intro _; rfl) _ _ _
  have hr : ((leaveFifos s id).rim (e.unit - 16)).engines = (s.rim (e.unit - 16)).engines := Tbl.get_mapV_congr (g := Rim.engines) (by intro _; rfl) _ _ _
  simp only [State.eng, State.engine, hg, hb, hc, hr]

/-- The end of the active command reports its status, and the engine is idle with its queue. -/
theorem engFinish_reports {s : State} {e : Eng} {q : Pkt} {c : Cmd} (ha : (s.eng e).active = some q) (hb : q.body = .cmd c) (st : Nat) (wm fa info : Word) :
    ((engFinish s e st wm fa info).eng e) = (s.eng e).idle ∧ (engFinish s e st wm fa info).pkts =
      s.pkts ++ [respond q 0x18 (1 + b2n c.clip.isSome) (.progress wm st true (s.eng e).ck fa info c.clip c.chan)] := by
  have hc : (s.eng e).cmd = some c := by simp [Engine.cmd, ha, hb]
  have hr : engReport s e st true wm fa info =
      { s with pkts := s.pkts ++ [respond q 0x18 (1 + b2n c.clip.isSome) (.progress wm st true (s.eng e).ck fa info c.clip c.chan)] } := by
    simp only [engReport, ha, hc, if_true]
  rw [engFinish, hr]
  refine ⟨(leaveFifos_eng _ _ _).trans (State.eng_modEng _ _ _), ?_⟩
  obtain ⟨beds, rims, hm⟩ := modEng_bedsRims { s with pkts := s.pkts ++ [respond q 0x18 (1 + b2n c.clip.isSome) (.progress wm st true (s.eng e).ck fa info c.clip c.chan)] }
    e Engine.idle
  rw [hm]
  rfl

/-- A failed command with nothing outstanding ends with its status. -/
theorem engTurn_fails {s : State} {e : Eng} {q : Pkt} {c : Cmd} {st : Nat} {fa info : Word} (hok : e.ok = true) (ha : (s.eng e).active = some q)
    (hb : q.body = .cmd c) (he : (s.eng e).err = some (st, fa, info)) (ho : (s.eng e).outs = []) (hr : (s.eng e).rd = none) (hn : (s.eng e).ent = none)
    (work : State → Pkt → Cmd → State) :
    engTurn s e work = engFinish { s with maker := .command q.id } e st (s.eng e).wm fa info := by
  simp [engTurn, hok, ha, hb, he, ho, hr, hn, Engine.maker]

/-- A failed command's turn leaves its engine idle, with its queue, and one report of its status on the way back. -/
theorem engTurn_ends {s : State} {e : Eng} {q : Pkt} {c : Cmd} {st : Nat} {fa info : Word} (hok : e.ok = true) (ha : (s.eng e).active = some q)
    (hb : q.body = .cmd c) (he : (s.eng e).err = some (st, fa, info)) (ho : (s.eng e).outs = []) (hr : (s.eng e).rd = none) (hn : (s.eng e).ent = none)
    (work : State → Pkt → Cmd → State) :
    ((engTurn s e work).eng e).active = none ∧ ((engTurn s e work).eng e).queue = (s.eng e).queue ∧ ∃ r clip, (engTurn s e work).pkts = s.pkts ++ [r] ∧
      r.resp = true ∧ r.id = q.id ∧ r.body = .progress (s.eng e).wm st true (s.eng e).ck fa info clip c.chan := by
  obtain ⟨hidle, hpkts⟩ := engFinish_reports (s := { s with maker := .command q.id }) ha hb st (s.eng e).wm fa info
  rw [engTurn_fails hok ha hb he ho hr hn, hidle, hpkts]
  exact ⟨rfl, rfl, _, _, rfl, rfl, rfl, rfl⟩

/-! ### Soft errors that a sending core meets (R62, R63) -/

/-- A part of a core that a change of one core leaves alone reads the same in every core. -/
theorem State.core_modCore_congr {β : Type} (s : State) (u c : Nat) {f : Core → Core} {g : Core → β} (h : ∀ x, g (f x) = g x) (u' c' : Nat) :
    g ((s.modCore u c f).core u' c') = g (s.core u' c') := by
  by_cases hk : unitKey u' c' = unitKey u c
  · rw [State.core, State.core, hk]
    exact (congrArg g (State.core_modCore s u c f)).trans (h _)
  · exact congrArg g (Tbl.get_set_other _ _ _ _ _ hk)

/-- Packets, memory, the step's arguments, and every core's channels and reserved mailbox entries are as they were. -/
structure KeepsChannels (s t : State) : Prop where
  pkts : t.pkts = s.pkts
  mem : t.mem = s.mem
  arg : t.arg = s.arg
  core : ∀ u c, (t.core u c).chans = (s.core u c).chans ∧ (t.core u c).mbrsv = (s.core u c).mbrsv

theorem KeepsChannels.refl (s : State) : KeepsChannels s s := ⟨rfl, rfl, rfl, fun _ _ => ⟨rfl, rfl⟩⟩

theorem KeepsChannels.trans {s t u : State} (h : KeepsChannels s t) (h' : KeepsChannels t u) : KeepsChannels s u :=
  ⟨h'.pkts.trans h.pkts, h'.mem.trans h.mem, h'.arg.trans h.arg, fun a b => ⟨(h'.core a b).1.trans (h.core a b).1, (h'.core a b).2.trans (h.core a b).2⟩⟩

theorem KeepsChannels.foldl {β : Type} {f : State → β → State} (h : ∀ u x, KeepsChannels u (f u x)) (l : List β) (s : State) : KeepsChannels s (l.foldl f s) :=
  List.foldlRecOn (motive := KeepsChannels s) l f (.refl s) fun u hu x _ => hu.trans (h u x)

theorem countErr_keepsChannels (s : State) (k : Nat) (uncorr : Bool) : KeepsChannels s (countErr s k uncorr) := by
  unfold countErr
  dsimp only
  split
  · exact ⟨rfl, rfl, rfl, fun u c => ⟨State.core_modCore_congr _ _ _ (fun x => by split <;> rfl) u c, State.core_modCore_congr _ _ _ (fun x => by split <;> rfl) u c⟩⟩
  · split
    · exact ⟨rfl, rfl, rfl, fun _ _ => ⟨rfl, rfl⟩⟩
    · split <;> exact ⟨rfl, rfl, rfl, fun _ _ => ⟨rfl, rfl⟩⟩

theorem pushEvent_keepsChannels (s : State) (unit : Nat) (e : EvRec) : KeepsChannels s (s.pushEvent unit e) := by
  unfold State.pushEvent State.setStage State.addLink
  split
  · split <;> exact ⟨rfl, rfl, rfl, fun _ _ => ⟨rfl, rfl⟩⟩
  · split
    · exact ⟨rfl, rfl, rfl, fun _ _ => ⟨rfl, rfl⟩⟩
    · split <;> exact ⟨rfl, rfl, rfl, fun _ _ => ⟨rfl, rfl⟩⟩

theorem meetBad_keepsChannels (s : State) (k : Nat) : KeepsChannels s (meetBad s k) := (countErr_keepsChannels s _ true).trans (pushEvent_keepsChannels _ _ _)

theorem correct_keepsChannels (s : State) (k n : Nat) : KeepsChannels s (correct s k n) :=
  .foldl (f := fun t (e : Nat × Option Nat) => clearErr (countErr t e.1 false) e.1)
    (fun u e => (countErr_keepsChannels u e.1 false).trans ⟨rfl, rfl, rfl, fun _ _ => ⟨rfl, rfl⟩⟩) _ s

theorem see_keepsChannels (s : State) (k n : Nat) : KeepsChannels s (s.see k n) := by
  have hm : KeepsChannels s (s.meet k n).1 := (correct_keepsChannels s k n).trans (.foldl (fun u (e : Nat × Option Nat) => meetBad_keepsChannels u e.1) _ _)
  unfold State.see
  split
  · exact .refl s
  · dsimp only
    split
    · exact hm.trans ⟨rfl, rfl, rfl, fun _ _ => ⟨rfl, rfl⟩⟩
    · exact hm

theorem seeRoute_keepsChannels (u c f : Nat) (s : State) (k : Nat) : KeepsChannels s (s.seeRoute u c f k) := by
  induction f generalizing s k with
  | zero => exact .refl s
  | succ f ih =>
    rw [State.seeRoute]
    split
    · exact .refl s
    · dsimp only
      split
      · exact (see_keepsChannels s _ _).trans (ih _ _)
      · exact see_keepsChannels s _ _

theorem seeRoutes_keepsChannels (s : State) (u c : Nat) (ns : List Nat) : KeepsChannels s (s.seeRoutes u c ns) := by
  unfold State.seeRoutes
  split
  · exact .refl s
  · exact .foldl (fun t n => seeRoute_keepsChannels u c 3 t n) ns s

/-! ### Commands that are sent, and those of zero extent (R106, R114, R117) -/

/-- The command route of a core is usable: its own rim die's engine needs none, else its entry is valid with a well-formed string and no soft error to meet (R77, R104). -/
def CommandGoes (s : State) (p : Place) (entry : Nat) : Prop :=
  (p.rim = true ∧ entry = unitIx p.unit) ∨
  (s.errs = [] ∧ (s.routeEntry p.unit p.core entry).valid = true ∧ routeRefused p.rim false (s.routeString p.unit p.core entry) = none)

/-- A command whose route is usable goes out. -/
theorem injectCommand_goes {s : State} {p : Place} {c : Cmd} (h : CommandGoes s p c.cmdEntry) (q : Pkt) :
    ∃ q', injectCommand s p c q = .sent { s with pkts := s.pkts ++ [q'] } ∧ q'.kind = q.kind ∧ q'.resp = q.resp := by
  unfold injectCommand
  split
  · exact ⟨_, rfl, rfl, rfl⟩
  · next hn =>
    obtain hrim | ⟨he, hv, hr⟩ := h
    · exact absurd hrim hn
    · exact injectOn_valid he hv hr q

/-- A route that is usable is so once the soft errors of the entries read with it have been met. -/
theorem CommandGoes.seeRoutes {s : State} {p : Place} {entry : Nat} (h : CommandGoes s p entry) (ns : List Nat) :
    CommandGoes (s.seeRoutes p.unit p.core ns) p entry := by
  obtain hrim | ⟨he, hv, hr⟩ := h
  · exact .inl hrim
  · have hs : s.seeRoutes p.unit p.core ns = s := if_pos he
    rw [hs]
    exact .inr ⟨he, hv, hr⟩

@[simp] theorem State.chan_modChan (s : State) (u c n : Nat) (f : Chan → Chan) : ((s.modChan u c n f).core u c).chan n = f ((s.core u c).chan n) := by
  rw [State.modChan, State.core_modCore]
  exact Tbl.get_set_same _ _ _ _

/-- The state once a channel has sent its head: the command is marked sent, and two mailbox entries are reserved (R117). -/
def State.headSent (s : State) (u c n id : Nat) (cs : List Cmd) : State :=
  ((s.modChan u c n fun h => { h with sent := true, id := id, cmds := cs }).modCore u c fun x => { x with mbrsv := x.mbrsv + 2 }).tick

theorem State.headSent_core (s : State) (u c n id : Nat) (cs : List Cmd) :
    (((s.headSent u c n id cs).core u c).chan n).sent = true ∧ ((s.headSent u c n id cs).core u c).mbrsv = (s.core u c).mbrsv + 2 := by
  rw [State.headSent, State.core_tick, State.core_modCore]
  exact ⟨congrArg Chan.sent (State.chan_modChan s u c n fun h => { h with sent := true, id := id, cmds := cs }),
    congrArg (· + 2) (State.core_modCore_congr (g := Core.mbrsv) s u c (by intro _; rfl) u c)⟩

/-- The head of a channel is sent once two mailbox entries can be reserved, if its command route is usable. -/
theorem commandSend_sends {s : State} {k : Cmd} {ks : List Cmd} (hc : ((s.core s.arg.unit s.arg.core).chan s.arg.index).cmds = k :: ks)
    (hs : ((s.core s.arg.unit s.arg.core).chan s.arg.index).sent = false) (hroom : 2 ≤ (s.core s.arg.unit s.arg.core).mailRoom) (hk : k.empty = false)
    (hg : CommandGoes s k.place k.cmdEntry) :
    Acts .commandSend s fun t => ((t.core s.arg.unit s.arg.core).chan s.arg.index).sent = true ∧
      (t.core s.arg.unit s.arg.core).mbrsv = (s.core s.arg.unit s.arg.core).mbrsv + 2 ∧ t.mem = s.mem ∧ ∃ r, t.pkts = s.pkts ++ [r] ∧ r.kind = 5 ∧ r.resp = false := by
  obtain ⟨hpkts, hmem, harg, hcore⟩ := seeRoutes_keepsChannels s k.place.unit k.place.core (k.cmdEntry :: k.legEntries.map (·.2))
  have hg' := hg.seeRoutes (k.cmdEntry :: k.legEntries.map (·.2))
  simp only [Acts, exec_commandSend, execCommandSend, hc, hs, hk, if_neg (Nat.not_lt.2 hroom), Bool.false_eq_true, if_false]
  generalize s.seeRoutes k.place.unit k.place.core (k.cmdEntry :: k.legEntries.map (·.2)) = t at hpkts hmem harg hcore hg' ⊢
  generalize hk' : { k with legs := readLegs t k.place k, carry := ((s.core s.arg.unit s.arg.core).chan s.arg.index).ck } = k'
  generalize hq : commandPkt t k.place s.arg.index k' = q
  obtain ⟨r, hsent, hkind, hresp⟩ := injectCommand_goes (c := k') (by subst hk'; exact hg') q
  obtain ⟨hchan, hrsv⟩ := State.headSent_core { t with pkts := t.pkts ++ [r] } s.arg.unit s.arg.core s.arg.index q.id (k' :: ks)
  refine ⟨({ t with pkts := t.pkts ++ [r] } : State).headSent s.arg.unit s.arg.core s.arg.index q.id (k' :: ks), ?_, hchan, ?_, hmem, r, ?_, ?_, ?_⟩
  · rw [hsent]
    dsimp only
    rw [harg]
    rfl
  · exact hrsv.trans (congrArg (· + 2) (hcore _ _).2)
  · exact congrArg (· ++ [r]) hpkts
  · rw [hkind, ← hq]; rfl
  · rw [hresp, ← hq]; rfl

theorem emptyCompletion_ok (s : State) (u c n : Nat) {k : Cmd} (hk : k.ck = 0) : (emptyCompletion s u c n k).status = 0 := by
  simp [emptyCompletion, hk]

/-- A completion with status OK posts at most the clip entry. -/
theorem completionMail_ok (s : State) (k : Cmd) {r : Completion} (hr : r.status = 0) : (completionMail s k r).length ≤ 1 := by
  simp only [completionMail, hr, ne_eq, not_true_eq_false, if_false, List.append_nil]
  split <;> simp

/-- A head command without a barrier that completes with status OK leaves its channel, which goes on with the next. -/
theorem completeCommand_ok {s : State} {u c n : Nat} {k : Cmd} {ks : List Cmd} (hc : ((s.core u c).chan n).cmds = k :: ks) (hb : k.bar = none)
    (rsv : Nat) {r : Completion} (hr : r.status = 0) :
    (((completeCommand s u c n rsv r).core u c).chan n).cmds = ks ∧ (((completeCommand s u c n rsv r).core u c).chan n).status = 0 ∧
      (((completeCommand s u c n rsv r).core u c).chan n).sent = false := by
  simp only [completeCommand, hc, hr, commandArrive, hb, if_true, wakeChannel, wakeCore_core, State.chan_modChan]
  exact ⟨trivial, trivial, trivial⟩

/-- A command of zero extent at the head of a channel completes without being sent. -/
theorem commandSend_empty {s : State} {k : Cmd} {ks : List Cmd} (hc : ((s.core s.arg.unit s.arg.core).chan s.arg.index).cmds = k :: ks)
    (hs : ((s.core s.arg.unit s.arg.core).chan s.arg.index).sent = false) (hroom : 1 ≤ (s.core s.arg.unit s.arg.core).mailRoom) (hk : k.empty = true)
    (hck : k.ck = 0) (hb : k.bar = none) :
    Acts .commandSend s fun t => ((t.core s.arg.unit s.arg.core).chan s.arg.index).cmds = ks ∧ ((t.core s.arg.unit s.arg.core).chan s.arg.index).status = 0 := by
  have hr := emptyCompletion_ok s s.arg.unit s.arg.core s.arg.index hck
  have hm : ¬ (s.core s.arg.unit s.arg.core).mailRoom < (completionMail s k (emptyCompletion s s.arg.unit s.arg.core s.arg.index k)).length := by
    have := completionMail_ok s k hr
    omega
  obtain ⟨hcmds, hst, -⟩ := completeCommand_ok hc hb 0 hr
  refine ⟨completeCommand s s.arg.unit s.arg.core s.arg.index 0 (emptyCompletion s s.arg.unit s.arg.core s.arg.index k), ?_, hcmds, hst⟩
  simp only [exec_commandSend, execCommandSend, hc, hs, hk, if_neg hm, Bool.false_eq_true, if_false, if_true]

/-! ### Progress and completion (R112, R114, R123, R126) -/

/-- Feeding rings changes no channel. -/
theorem feedRings_chans (s : State) (u c u' c' : Nat) : ((feedRings s u c).core u' c').chans = (s.core u' c').chans := by
  have hw : ∀ t : State, ((wakeMatrix t u c).core u' c').chans = (t.core u' c').chans := fun t => by
    rw [wakeMatrix, wakeCore_core, claimRemote]
    dsimp only
    split
    · split
      · exact State.core_modCore_congr (g := Core.chans) t u c (by intro _; rfl) u' c'
      · rfl
    · rfl
  unfold feedRings
  extract_lets x one rs
  split
  · rfl
  · rw [hw]
    exact State.core_modCore_congr (g := Core.chans) s u c (by intro _; rfl) u' c'

theorem feedRings_chan (s : State) (u c n : Nat) : ((feedRings s u c).core u c).chan n = (s.core u c).chan n := by
  rw [Core.chan, feedRings_chans]; rfl

theorem feedRings_mem (s : State) (u c : Nat) : (feedRings s u c).mem = s.mem := by
  obtain ⟨_, _, h⟩ := feedRings_coresSlots s u c
  rw [h]

/-- A watermark rises to a higher one within the range. -/
theorem raiseMark_raises {s : State} {u c n : Nat} {wm : Word} (hlt : ((s.core u c).chan n).wm.toNat < wm.toNat) (hle : wm.toNat ≤ ((s.core u c).chan n).hi.toNat) :
    (((raiseMark s u c n wm).core u c).chan n).wm = wm ∧ (raiseMark s u c n wm).mem = s.mem := by
  unfold raiseMark
  dsimp only
  rw [if_pos hlt]
  refine ⟨?_, rfl⟩
  rw [wakeCore_core, State.chan_modChan]
  simp [Nat.min_eq_left hle]

section
variable {s : State} {q : Pkt} {c : Cmd} {n : Nat} (h : Back s q) (hq : q.req.2.2 = .cmd c) (hn : chanOf (s.coreAt q.place) q.id = some n)
include h hq hn

theorem progressResponse_raises {wm fa info : Word} {st ck j : Nat} {clip : Option (List Nat × List Nat)} (hb : q.body = .progress wm st false ck fa info clip j)
    (hlt : ((s.coreAt q.place).chan n).wm.toNat < (c.ownMark wm).toNat) (hle : (c.ownMark wm).toNat ≤ ((s.coreAt q.place).chan n).hi.toNat) :
    Acts .progressResponse s fun t => ((t.coreAt q.place).chan n).wm = c.ownMark wm ∧ t.mem = s.mem := by
  obtain ⟨hwm, hmem⟩ := raiseMark_raises (s := dropPkt s s.arg.index) hlt hle
  refine ⟨feedRings (raiseMark (dropPkt s s.arg.index) q.place.unit q.place.core n (c.ownMark wm)) q.place.unit q.place.core, ?_, ?_, ?_⟩
  · have hn' : chanOf ((dropPkt s s.arg.index).coreAt q.place) q.id = some n := hn
    simp only [exec_progressResponse, execProgressResponse, answering_back h, hq, hb, hn']
  · rw [State.coreAt, feedRings_chan, hwm]
  · rw [feedRings_mem, hmem]; rfl

theorem commandCompletion_completes {k : Cmd} {ks : List Cmd} {wm fa info : Word} {ck j : Nat} {clip : Option (List Nat × List Nat)}
    (hb : q.body = .progress wm 0 true ck fa info clip j) (hc : ((s.coreAt q.place).chan n).cmds = k :: ks) (hk : k.bar = none) :
    Acts .commandCompletion s fun t => ((t.coreAt q.place).chan n).cmds = ks ∧ ((t.coreAt q.place).chan n).status = 0 ∧ ((t.coreAt q.place).chan n).sent = false := by
  have hn' : chanOf ((dropPkt s s.arg.index).coreAt q.place) q.id = some n := hn
  simp only [Acts, exec_commandCompletion, execCommandCompletion, answering_back h, hq, hb, hn']
  refine ⟨_, rfl, ?_⟩
  rw [State.coreAt, feedRings_chan]
  exact completeCommand_ok (s := dropPkt s s.arg.index) hc hk 2 rfl

end

/-! ### Quenches (R124 to R126) -/

/-- An engine that refuses a context from now on, with the context's queued commands and pages gone (R121, R124). -/
def Engine.refusing (x : Engine) (own ctx : Nat) : Engine :=
  { x with refuse := if x.refuse.contains (own, ctx) then x.refuse else (own, ctx) :: x.refuse, queue := x.queue.filter fun q => !(ownedBy own ctx q),
           tlb := x.tlb.filter fun t => !(t.2.own == own && t.2.ctx.toNat == ctx) }

theorem Engine.mem_refusing (x : Engine) (own ctx : Nat) : (own, ctx) ∈ (x.refusing own ctx).refuse := by
  unfold Engine.refusing
  dsimp only
  split
  · next h => exact List.contains_iff_mem.1 h
  · exact List.mem_cons_self

theorem Engine.refusing_queue (x : Engine) (own ctx : Nat) : ∀ r ∈ (x.refusing own ctx).queue, ownedBy own ctx r = false := fun r hr => by
  simpa using (List.mem_filter.1 hr).2

/-- An engine with no active command is quenched at once. -/
theorem quenchEngine_idle {s : State} {e : Eng} (ha : (s.eng e).active = none) (own ctx : Nat) :
    quenchEngine s e own ctx = (s.modEng e fun x => x.refusing own ctx, true) := by
  have hn : ((s.modEng e fun x => x.refusing own ctx).eng e).active = none := by rw [State.eng_modEng]; exact ha
  have hx : ((s.modEng e fun x => x.refusing own ctx).eng e).active.any (ownedBy own ctx) = false := by rw [hn]; rfl
  exact if_pos hx

/-- A quench that reaches an engine with no active command is acknowledged at once. -/
theorem quenchArrival_engine {s : State} {e : Eng} {own ctx a b : Nat} {ack : List Nat} (hq : s.quenches[s.arg.index]? = some (own, ctx, a, b, ack))
    (hn : s.arg.aux ∉ ack) (hp : partyEng s.arg.aux = some e) (hc : (partiesOf s own).contains s.arg.aux = true) (ha : (s.eng e).active = none) :
    Acts .quenchArrival s fun t => t.quenches = s.quenches.set s.arg.index (own, ctx, a, b, s.arg.aux :: ack) ∧ (own, ctx) ∈ (t.eng e).refuse ∧
      ∀ r ∈ (t.eng e).queue, ownedBy own ctx r = false := by
  have hn' : ¬(ack.contains s.arg.aux = true ∨ (partiesOf s own).contains s.arg.aux = false) := by
    rintro (h | h)
    · exact hn (List.contains_iff_mem.1 h)
    · rw [hc] at h; cases h
  have hx : quenchAt s own ctx s.arg.aux = (s.modEng e fun x => x.refusing own ctx, true) := by simp only [quenchAt, hp, quenchEngine_idle ha]
  obtain ⟨beds, rims, hm⟩ := modEng_bedsRims s e fun x => x.refusing own ctx
  have he := State.eng_modEng s e fun x => x.refusing own ctx
  rw [hm] at hx he
  refine ⟨{ s with beds := beds, rims := rims, quenches := s.quenches.set s.arg.index (own, ctx, a, b, s.arg.aux :: ack) }, ?_, rfl, ?_, ?_⟩
  · simp only [exec_quenchArrival, execQuenchArrival, hq, if_neg hn', hx]
  · exact (congrArg Engine.refuse he).symm ▸ Engine.mem_refusing (s.eng e) own ctx
  · exact (congrArg Engine.queue he).symm ▸ Engine.refusing_queue (s.eng e) own ctx

/-- A quench message that comes in is recorded for the parties of this module, and answered once all have acknowledged. -/
theorem quenchMessage_records {s : State} {q : Pkt} {ctx own : Nat} (h : Due s q) (hb : q.body = .quench ctx own) (hq : s.quenches = []) :
    Acts .quenchMessage s fun t => t.quenches = [(own, ctx, 32, q.id, [])] ∧ t.pkts = s.pkts := by
  have hq' : (s.making q).quenches = [] := hq
  simp only [Acts, exec_quenchMessage, execQuenchMessage, serving_due h, hb, hq', List.findIdx?_nil]
  exact ⟨_, rfl, rfl, rfl⟩

theorem quenchMessage_answers {s : State} {q : Pkt} {ctx own : Nat} {ack : List Nat} (h : Due s q) (hb : q.body = .quench ctx own)
    (hq : s.quenches = [(own, ctx, 32, q.id, ack)]) (hd : quenchDone s own ack = true) :
    Acts .quenchMessage s fun t => Answers s q t 0x18 .ack ∧ t.quenches = [] := by
  have hq' : (s.making q).quenches = [(own, ctx, 32, q.id, ack)] := hq
  have hd' : quenchDone (s.making q) own ack = true := hd
  refine ⟨answerPkt { s.making q with quenches := [] } s.arg.index q 0x18 0 .ack, ?_, answerPkt_answers q _ _ _ rfl, rfl⟩
  simp [exec_quenchMessage, execQuenchMessage, serving_due h, hb, hq', hd']

/-- A core whose quench has settled locally is no longer waiting for its own units, and is done unless a message is unacknowledged. -/
theorem quenchSettled_settles {s : State} {u c : Nat} (hl : (s.core u c).qLocal = false) : ((quenchSettled s u c).core u c).qLocal = false ∧
    ((s.core u c).qBusy = true → (s.core u c).qPeers = 0 → ((quenchSettled s u c).core u c).qDone = true ∧ ((quenchSettled s u c).core u c).qBusy = false) ∧
    (quenchSettled s u c).quenches = s.quenches := by
  unfold quenchSettled
  dsimp only
  split
  · rw [wakeCore_core, State.core_modCore]
    exact ⟨hl, fun _ _ => ⟨rfl, rfl⟩, rfl⟩
  · next hn => exact ⟨hl, fun hb hp => absurd ⟨hb, hl, hp⟩ hn, rfl⟩

theorem quenchAck_settles {s : State} {own ctx a b : Nat} {ack : List Nat} (hf : s.arg.flag = false)
    (hq : s.quenches[s.arg.index]? = some (own, ctx, a, b, ack)) (ha : a ≠ 32) (hd : quenchDone s own ack = true) :
    Acts .quenchAck s fun t => t.quenches = s.quenches.eraseIdx s.arg.index ∧ (t.core a b).qLocal = false ∧
      ((s.core a b).qBusy = true → (s.core a b).qPeers = 0 → (t.core a b).qDone = true ∧ (t.core a b).qBusy = false) := by
  have hc := State.core_modCore { s with quenches := s.quenches.eraseIdx s.arg.index } a b fun c => { c with qLocal := false }
  obtain ⟨hl, hdone, hquen⟩ := quenchSettled_settles (s := ({ s with quenches := s.quenches.eraseIdx s.arg.index } : State).modCore a b fun c => { c with qLocal := false })
    (u := a) (c := b) (by rw [hc])
  rw [hc] at hdone
  refine ⟨_, ?_, hquen, hl, hdone⟩
  have hn : ¬(a = 32 ∨ quenchDone s own ack = false) := by simp [ha, hd]
  simp only [exec_quenchAck, execQuenchAck, hf, hq, if_neg hn, Bool.false_eq_true, if_false]

/-- Settles O43: a lemma for each step. -/
theorem engineSteps : Obligations.EngineSteps := by
  unfold Obligations.EngineSteps
  intro s q rest c k ks n st own ctx a b fa info wm ack
  dsimp only
  exact ⟨fun hok ha hq hb hs hd => ⟨_, rfl, engTurn_takes hok ha hq hb hs hd _⟩, fun hok ha hq hb hs hd => ⟨_, rfl, engTurn_takes hok ha hq hb hs hd _⟩,
    fun hok ha hb he ho hr hn => ⟨_, rfl, engTurn_ends hok ha hb he ho hr hn _⟩, fun hok ha hb he ho hr hn => ⟨_, rfl, engTurn_ends hok ha hb he ho hr hn _⟩,
    fun hc hs hroom hk hg => commandSend_sends hc hs hroom hk hg, fun hc hs _ hk hroom hck _ hb => commandSend_empty hc hs hroom hk hck hb,
    fun ck clip j h hq hb hn hlt hle => progressResponse_raises h hq hn hb hlt hle,
    fun ck clip j h hq hb hn hc hk _ => commandCompletion_completes h hq hn hb hc hk,
    fun e hq hn hp hc ha => quenchArrival_engine hq hn hp hc ha, fun h hb hq => quenchMessage_records h hb hq, fun h hb hq hd => quenchMessage_answers h hb hq hd,
    fun hf hq ha hd => quenchAck_settles hf hq ha hd⟩

end Sys2Proof.Machine
end

section
/-! PROOFS. Stash commands and population words at issue: the block of the own memory, the checks it passes, the channel a command joins, and what the words of the population
engine leave. -/

namespace Sys2Proof.Machine

/-! ### What an observation leaves alone of a stash command's checks (R201) -/

/-- The addresses of a stash command are aligned and pass R31 (R134). -/
structure StashBlk.Addressed (b : StashBlk) (s : State) (use : Bool) (al : Nat) : Prop where
  region : commandRefused s s.cur.place b.region = false
  loc : use = true → commandRefused s s.cur.place b.loc = false
  regionAligned : b.region.toNat % 64 = 0
  locAligned : use = true → b.loc.toNat % al = 0

theorem Observes.addressed {s u : State} (h : Observes s u) {b : StashBlk} {use : Bool} {al : Nat} (ha : b.Addressed s use al) : b.Addressed u use al := by
  obtain ⟨_, _, rfl⟩ := h; exact ⟨ha.region, ha.loc, ha.regionAligned, ha.locAligned⟩
theorem Observes.stashRefused {s u : State} (h : Observes s u) (b : StashBlk) (op : CmdOp) (use : Bool) (img : Option (Word × Word)) :
    b.refused u op use img = b.refused s op use img := by obtain ⟨_, _, rfl⟩ := h; rfl
theorem Observes.legMissing {s u : State} (h : Observes s u) (b : StashBlk) (use : Bool) : b.legMissing u use = b.legMissing s use := by obtain ⟨_, _, rfl⟩ := h; rfl
theorem Observes.stashCmd {s u : State} (h : Observes s u) (b : StashBlk) (op : CmdOp) (reg : Option (List Byte)) (img : Word × Word) (range : Option (Word × Word)) :
    b.cmd u op reg img range = b.cmd s op reg img range := by obtain ⟨_, _, rfl⟩ := h; rfl
theorem Observes.opV {s u : State} (h : Observes s u) (r : BitVec 5) : u.opV r = s.opV r := by obtain ⟨_, _, rfl⟩ := h; rfl
theorem Observes.lag {s u : State} (h : Observes s u) : u.lag = s.lag := by obtain ⟨_, _, rfl⟩ := h; rfl

/-- A command that its channel accepts joins the queue, whatever its thread has observed meanwhile. -/
theorem Observes.queueCommand_accepts {s u : State} (hu : Observes s u) {k : Cmd} {c : Chan} (ha : ((s.coreAt s.cur.place).chan k.chan).accept k = some c)
    (hl : Resp.late ∈ s.here.resp → ((s.coreAt s.cur.place).chan k.chan).cmds = []) : done (queueCommand u k) = .next (u.queued k c).retired := by
  rw [Machine.queueCommand_accepts (by rwa [hu.cur, hu.coreAt]) (by rwa [hu.cur, hu.coreAt, hu.here]), done_ok]

/-! ### Blocks of stash commands and their checks (R133, R134, R396) -/

/-- The stash command block that 32 bytes of memory hold (R133). -/
def stashBlkOf (pa : Word) (bs : List Byte) : StashBlk :=
  { pa := pa, region := BitVec.ofNat 64 (wordAt bs 0), loc := BitVec.ofNat 64 (wordAt bs 1), w2 := wordAt bs 2, w3 := wordAt bs 3 }

/-- A block in the own memory is read at once. -/
theorem readStash_own {s : State} (hq : Quiet s) (hw : Whole s) (hb : s.here.blk = none) {pa : Word} {w off : Nat} (h : OwnAt s.cur.place pa 32 32 w off) :
    ∃ u, Observes s u ∧ ∀ f, readStash s pa f = f u (stashBlkOf pa (s.ownBytes s.cur.place off 32)) := by
  obtain ⟨u, hu, hread⟩ := readCommand_own hq hw hb h
  exact ⟨u, hu, fun f => hread _⟩

theorem stashAddresses_passes {s : State} {b : StashBlk} {use : Bool} {al : Nat} (h : b.Addressed s use al) (f : State → Res) : stashAddresses s b use f = f s := by
  have hl : ¬(use = true ∧ commandRefused s s.cur.place b.loc = true) := fun ⟨hu, hr⟩ => by simp [h.loc hu] at hr
  simp only [stashAddresses, h.region, Bool.false_eq_true, if_false, if_neg hl]

theorem stashAligned_passes {s : State} {b : StashBlk} {use : Bool} {al : Nat} (h : b.Addressed s use al) (f : State → Res) : stashAligned s b use al f = f s := by
  have hl : ¬(use = true ∧ b.loc.toNat % al ≠ 0) := fun ⟨hu, hr⟩ => hr (h.locAligned hu)
  simp only [stashAligned, h.regionAligned, ne_eq, not_true_eq_false, if_false, if_neg hl]

/-- A command that no check refuses goes on, where no store to the route table is buffered and no word holds a soft error. -/
theorem stashChecked_passes {s : State} (hq : Quiet s) {b : StashBlk} {op : CmdOp} {use : Bool} {img : Option (Word × Word)} (h : b.refused s op use img = none)
    (f : State → Res) : stashChecked s b op use img f = f s := by
  obtain ⟨-, hsb, -, he, -⟩ := hq
  rw [stashChecked, readingRoutes_still he (routeStored_empty hsb), h]

/-- An address in the own memory, through RAW or FUTURE, is a LOCAL that a stash command may name (R45). -/
theorem fixedFails_own {p : Place} {pa : Word} {n al w off : Nat} (h : OwnAt p pa n al w off) : fixedFails p pa (fun r => !r.isLocal) = false := by
  obtain ⟨-, hd, hw, -⟩ := h
  simp only [fixedFails, fixedRng, hd, Rng.isLocal, hw, decide_true, Bool.not_true, Bool.and_false]

/-- Once the stores of the thread have left and no write lags, the input of a `stash` stands as memory has it (R137). -/
theorem stashInput_settled {s : State} (hq : Quiet s) (hl : s.lag = []) (b : StashBlk) (f : State → Res) : stashInput s b f = f s := by
  obtain ⟨-, hsb, hnt, -⟩ := hq
  simp [stashInput, hsb, hnt, performFor, hl]

theorem probing_answered {s : State} {w : Word × Word × Word × Word} (h : probeOf s.here.resp = some w) (b : StashBlk)
    (f : State → Word × Word × Word × Word → Res) : probing s b f = f s w := by
  rw [probing, h]

/-! ### Stash words that complete (R396 to R398) -/

section
variable {s : State} {a : BitVec 5} {w off : Nat} {b : StashBlk} {c : Chan} (hq : Quiet s) (hw : Whole s) (hb : s.here.blk = none)
  (hat : OwnAt s.cur.place (s.opG a) 32 32 w off) (hblk : b = stashBlkOf (s.opG a) (s.ownBytes s.cur.place off 32))
include hq hw hb hat hblk

theorem stashOpen_joins {iw ioff : Nat} {img : Word × Word} (ha : b.Addressed s true 8) (hlo : OwnAt s.cur.place b.loc 8 8 iw ioff)
    (hhi : OwnAt s.cur.place (b.loc + 8) 8 8 iw (ioff + 8)) (himg : img = (word64 (s.ownBytes s.cur.place ioff 8), word64 (s.ownBytes s.cur.place (ioff + 8) 8)))
    (hr : b.refused s .stashOpen true (some img) = none)
    (hc : ((s.coreAt s.cur.place).chan (b.cmd s .stashOpen none img none).chan).accept (b.cmd s .stashOpen none img none) = some c)
    (hl : Resp.late ∈ s.here.resp → ((s.coreAt s.cur.place).chan (b.cmd s .stashOpen none img none).chan).cmds = []) (hA : Admitted (.stashOpen a) s) :
    ∃ u, Observes s u ∧ exec (.stashOpen a) s = .next (u.queued (b.cmd s .stashOpen none img none) c).retired := by
  obtain ⟨t, ht, h1⟩ := readStash_own hq hw hb hat
  obtain ⟨v, hv, h2⟩ := readBlock_own (ht.quiet hq) (ht.whole hw) (ht.here ▸ hb) (ht.cur ▸ hlo)
  have hsv := ht.trans hv
  obtain ⟨u, hu, h3⟩ := readBlock_own (hsv.quiet hq) (hsv.whole hw) (hsv.here ▸ hb) (hsv.cur ▸ hhi)
  have hsu := hsv.trans hu
  have hloc : fixedFails t.cur.place b.loc (fun r => !r.isLocal) = false := ht.cur ▸ fixedFails_own hlo
  refine ⟨u, hsu, ?_⟩
  rw [exec_stashOpen, execStashOpen, word_admitted hA, State.outsideBlock_noBlock hb, h1, ← hblk, stashAddresses_passes (ht.addressed ha),
    stashAligned_passes (ht.addressed ha), hloc, if_neg Bool.false_ne_true]
  have himgu : (word64 (t.ownBytes t.cur.place ioff 8), word64 (v.ownBytes v.cur.place (ioff + 8) 8)) = img := by
    obtain ⟨_, _, rfl⟩ := ht
    obtain ⟨_, _, rfl⟩ := hv
    exact himg.symm
  change done (readBlock t b.loc 8 8 fun s _ lo => readBlock s (b.loc + 8) 8 8 fun s _ hi => _) = _
  rw [h2, h3, himgu, stashChecked_passes (hsu.quiet hq) (by rwa [hsu.stashRefused]), hsu.stashCmd, hsu.queueCommand_accepts hc hl]

theorem stash_joins (ha : b.Addressed s (!b.fifoV) 2) (hr : b.refused s .stash (!b.fifoV) none = none) (hlag : s.lag = [])
    (hc : ((s.coreAt s.cur.place).chan (b.cmd s .stash none (0, 0) none).chan).accept (b.cmd s .stash none (0, 0) none) = some c)
    (hl : Resp.late ∈ s.here.resp → ((s.coreAt s.cur.place).chan (b.cmd s .stash none (0, 0) none).chan).cmds = []) (hA : Admitted (.stash a) s) :
    ∃ u, Observes s u ∧ exec (.stash a) s = .next (u.queued (b.cmd s .stash none (0, 0) none) c).retired := by
  obtain ⟨u, hu, h1⟩ := readStash_own hq hw hb hat
  refine ⟨u, hu, ?_⟩
  rw [exec_stash, execStash, word_admitted hA, State.outsideBlock_noBlock hb, h1, ← hblk]
  dsimp only
  rw [stashAddresses_passes (hu.addressed ha), stashAligned_passes (hu.addressed ha), stashChecked_passes (hu.quiet hq) (by rwa [hu.stashRefused]),
    stashInput_settled (hu.quiet hq) (hu.lag.trans hlag), ite_self, hu.stashCmd, hu.queueCommand_accepts hc hl]

theorem stashReg_joins {v : BitVec 4} {bs : List Byte} (ha : b.Addressed s false 2) (hr : b.refused s .stash false none = none)
    (hbs : bs = bytesOf 64 (s.opV (v.zeroExtend 5 * 2)).toNat ++ bytesOf 64 (s.opV (v.zeroExtend 5 * 2 + 1)).toNat)
    (hc : ((s.coreAt s.cur.place).chan (b.cmd s .stash (some bs) (0, 0) none).chan).accept (b.cmd s .stash (some bs) (0, 0) none) = some c)
    (hl : Resp.late ∈ s.here.resp → ((s.coreAt s.cur.place).chan (b.cmd s .stash (some bs) (0, 0) none).chan).cmds = []) (hA : Admitted (.stashReg v a) s) :
    ∃ u, Observes s u ∧ exec (.stashReg v a) s = .next (u.queued (b.cmd s .stash (some bs) (0, 0) none) c).retired := by
  obtain ⟨u, hu, h1⟩ := readStash_own hq hw hb hat
  refine ⟨u, hu, ?_⟩
  rw [exec_stashReg, execStashReg, word_admitted hA, State.outsideBlock_noBlock hb, h1, ← hblk, stashAddresses_passes (hu.addressed ha),
    stashAligned_passes (hu.addressed ha), stashChecked_passes (hu.quiet hq) (by rwa [hu.stashRefused])]
  dsimp only
  rw [hu.opV, hu.opV, ← hbs, hu.stashCmd, hu.queueCommand_accepts hc hl]

/-- A `restore` whose probe found a good header with a known INFMT joins its channel with the range of its output (R135). -/
theorem restore_joins {h : Word × Word × Word × Word} {range : Option (Word × Word)} (ha : b.Addressed s (!b.fifoV) (if b.w2.testBit 29 then 2 else 4))
    (hr : b.refused s .restore (!b.fifoV) none = none) (hp : probeOf s.here.resp = some h) (hz : h.2.2.1 = 0) (hf : bits h.1.toNat 19 18 ≠ 3)
    (hrange : range = if (!b.fifoV) = true ∧ b.count ≠ 0 then
      some (b.loc, b.loc + BitVec.ofNat 64 (b.count * if b.w2.testBit 29 then fmtBytes (bits h.1.toNat 19 18) else 4)) else none)
    (hc : ((s.coreAt s.cur.place).chan (b.cmd s .restore none (0, 0) range).chan).accept (b.cmd s .restore none (0, 0) range) = some c)
    (hl : Resp.late ∈ s.here.resp → ((s.coreAt s.cur.place).chan (b.cmd s .restore none (0, 0) range).chan).cmds = []) (hA : Admitted (.restore a) s) :
    ∃ u, Observes s u ∧ exec (.restore a) s = .next (u.tick.queued (b.cmd s .restore none (0, 0) range) c).retired := by
  obtain ⟨u, hu, h1⟩ := readStash_own hq hw hb hat
  refine ⟨u, hu, ?_⟩
  rw [exec_restore, execRestore, word_admitted hA, State.outsideBlock_noBlock hb, h1, ← hblk]
  dsimp only
  rw [stashAddresses_passes (hu.addressed ha), stashAligned_passes (hu.addressed ha), stashChecked_passes (hu.quiet hq) (by rwa [hu.stashRefused]),
    probing_answered (hu.here ▸ hp), if_neg (fun hn => hn.2 hz), if_neg hf, ← hrange, hu.stashCmd]
  have ht : u.tick.coreAt u.tick.cur.place = s.coreAt s.cur.place := by rw [← hu.coreAt, ← hu.cur]; rfl
  have hh : u.tick.here = s.here := hu.here
  rw [queueCommand_accepts (by rwa [ht]) (by rwa [ht, hh]), done_ok]

theorem stashStat_gives {d : BitVec 5} {n : BitVec 2} {h : Word × Word × Word × Word} (ha : b.Addressed s false 2) (hu : isUnit b.engU = true) (h16 : 16 ≤ b.engU)
    (hleg : b.legMissing s false = false) (hreg : fixedFails s.cur.place b.region (fun r => !r.isHbm) = false) (hp : probeOf s.here.resp = some h)
    (hA : Admitted (.stashStat d a n) s) :
    ∃ u, Observes s u ∧ exec (.stashStat d a n) s = .next (u.setG d (if n = 0 then h.2.2.1 else if n = 1 then h.2.2.2 &&& 0xFFFFFFFF else h.1)).retired := by
  obtain ⟨u, ho, h1⟩ := readStash_own hq hw hb hat
  refine ⟨u, ho, ?_⟩
  have hn : ¬(isUnit b.engU = false ∨ b.engU < 16) := by simp [hu, h16]
  have hleg' : b.legMissing u false = false := by rwa [ho.legMissing]
  have hreg' : fixedFails u.cur.place b.region (fun r => !r.isHbm) = false := by rwa [ho.cur]
  rw [exec_stashStat, execStashStat, word_admitted hA, State.outsideBlock_noBlock hb, h1, ← hblk, stashAddresses_passes (ho.addressed ha),
    stashAligned_passes (ho.addressed ha), if_neg hn, hleg', hreg', if_neg Bool.false_ne_true, if_neg Bool.false_ne_true, probing_answered (ho.here ▸ hp), done_ok]

end

/-- Settles O22: a lemma for each word. -/
theorem stashCommands : Obligations.StashCommands := by
  unfold Obligations.StashCommands
  intro s d a v n w off iw ioff c h hq hw hb p word b use addresses first joins hat
  have addressed : ∀ {u : Bool} {al : Nat}, addresses u al → b.Addressed s u al := fun ⟨h1, h2, h3, h4⟩ => ⟨h1, h2, h3, h4⟩
  refine ⟨fun ha hlo hhi hr hc hl hA => ?_, fun ha hr hlag hc hl hA => ?_, fun ha hr hc hl hA => ?_, fun ha hr hp hz hf hc hl hA => ?_,
    fun ha hu h16 hleg hreg hp hA => ?_⟩
  · exact stashOpen_joins hq hw hb hat rfl (addressed ha) hlo hhi rfl hr hc hl hA
  · exact stash_joins hq hw hb hat rfl (addressed ha) hr hlag hc hl hA
  · exact stashReg_joins hq hw hb hat rfl (addressed ha) hr rfl hc hl hA
  · exact restore_joins hq hw hb hat rfl (addressed ha) hr hp hz hf rfl hc hl hA
  · exact stashStat_gives hq hw hb hat rfl (addressed ha) hu h16 hleg hreg hp hA

/-! ### Population words (R399, R400) -/

/-- A `graft.cfg` whose slot image has been written completes. -/
theorem graftCfg_completes {s : State} {a : BitVec 5} {n : BitVec 4} (hb : s.here.blk = none) (hr : Resp.done ∈ s.here.resp) (hA : Admitted (.graftCfg a n) s) :
    exec (.graftCfg a n) s = .next s.retired := by
  have hc : s.here.resp.contains .done = true := by simpa using hr
  rw [exec_graftCfg, execGraftCfg, word_admitted hA, State.outsideBlock_noBlock hb, hc, if_pos rfl, done_ok]

/-- The state in which a go of a slot is queued, and the slot's GOBUSY is set (R152). -/
def State.goQueued (s : State) (n : Nat) : State :=
  ({ s with ranker := { s.ranker with queue := s.ranker.queue ++ [(n, s.cur.place)] } } : State).setPop n { s.pop n with gobusy := true }

theorem State.pop_setPop (s : State) (n : Nat) (g : PopSlot) : (s.setPop n g).pop n = g := Tbl.get_set_same ..

/-- A `graft.go` on a valid slot of its own context and module, with its thread's accesses performed and room in the queue, queues the go. -/
theorem graftGo_queues {s : State} {n : BitVec 4} (hb : s.here.blk = none) (hv : (s.pop n.toNat).valid = true) (hc : (s.pop n.toNat).ctx = s.ctx)
    (hm : (s.pop n.toNat).ownMod = s.moduleNo) (hp : allPerformed s s.cur.place = true) (hl : s.ranker.queue.length < 16) (hA : Admitted (.graftGo n) s) :
    exec (.graftGo n) s = .next (s.goQueued n.toNat).retired := by
  have hf : (s.pop n.toNat).foreign s = false := by simp [PopSlot.foreign, hc, hm]
  rw [exec_graftGo, execGraftGo, word_admitted hA, State.outsideBlock_noBlock hb]
  dsimp only
  rw [if_neg (by simp [hv]), hf, if_neg Bool.false_ne_true, releasing, if_neg (by simp [hp]), if_neg (Nat.not_le.2 hl)]
  exact done_ok (s.goQueued n.toNat)

theorem graftGo_invalid {s : State} {n : BitVec 4} (hb : s.here.blk = none) (hv : (s.pop n.toNat).valid = false) (hA : Admitted (.graftGo n) s) :
    exec (.graftGo n) s = done (.trap s ⟨14, 1, s.wordPc, 0, 0⟩) := by
  rw [exec_graftGo, execGraftGo, word_admitted hA, State.outsideBlock_noBlock hb]
  simp only [hv, if_true]
  rfl

theorem graftStat_gives {s : State} {d : BitVec 5} {w : BitVec 2} {n : BitVec 4} {v : Word} (hb : s.here.blk = none) (hr : heldValue s.here.resp = some v)
    (hA : Admitted (.graftStat d w n) s) : exec (.graftStat d w n) s = .next ((seeGrafts s s.cur.place).setG d v).retired := by
  rw [exec_graftStat, execGraftStat, word_admitted hA, State.outsideBlock_noBlock hb, hr, done_ok]

/-- A completed word leaves its thread's registers but for the program counter. -/
theorem State.retired_sameRegs (s : State) : sameRegs (s.retired.slot s.cur.place).th s.here.th := by
  unfold State.retired State.retireTo
  split
  · rfl
  · rw [State.slot_setSlot, Slot.retire]
    split <;> rfl

/-- Settles O23: a lemma for each word. -/
theorem graftCommands : Obligations.GraftCommands := by
  unfold Obligations.GraftCommands
  intro s d a w n v hb
  refine ⟨fun hr hA => graftCfg_completes hb hr hA, fun hv hc hm hp hl hA => ⟨_, graftGo_queues hb hv hc hm hp hl hA, ?_⟩,
    fun hv hA => graftGo_invalid hb hv hA, fun hr hA => graftStat_gives hb hr hA⟩
  obtain ⟨⟨slots, hs⟩, -⟩ := (s.goQueued n.toNat).retired_frame
  refine ⟨by rw [hs]; rfl, ?_, (s.goQueued n.toNat).retired_sameRegs, by rw [hs]; rfl⟩
  rw [hs]
  exact State.pop_setPop _ _ _

end Sys2Proof.Machine
end

section
/-! PROOFS. The ranking of a go: the order of scores, the pairs that the ranked members make, and what becomes of their losers. -/

namespace Sys2Proof.Machine

/-! ### The order of values (R266) -/

/-- The number that a finite value stands for. -/
def finRat (neg : Bool) (m : Nat) (e : Int) : ℚ := (if neg then -(m : ℚ) else m) * 2 ^ e

theorem mantAt_eq {e u : Int} (h : u ≤ e) (neg : Bool) (m : Nat) : (mantAt neg m e u : ℚ) = finRat neg m e * 2 ^ (-u) := by
  obtain ⟨n, rfl⟩ := Int.le.dest h
  have hn : (u + n - u).toNat = n := by omega
  have h2 : (2 : ℚ) ^ (u + n) * 2 ^ (-u) = 2 ^ n := by rw [← zpow_add₀ two_ne_zero, show u + n + -u = (n : Int) by omega, zpow_natCast]
  rw [finRat, mul_assoc, h2, mantAt, hn]
  cases neg <;> simp

/-- Finite values compare as the numbers they stand for. -/
theorem Val.lt_fin (s t : Bool) (m n : Nat) (e d : Int) : (Val.fin s m e).lt (.fin t n d) = true ↔ finRat s m e < finRat t n d := by
  have hp : (0 : ℚ) < 2 ^ (-Min.min e d) := by positivity
  rw [Val.lt, decide_eq_true_iff, ← Int.cast_lt (R := ℚ), mantAt_eq (min_le_left e d), mantAt_eq (min_le_right e d), mul_lt_mul_iff_left₀ hp]

/-- Where a value stands between the infinities; a NaN, which no order holds, stands lowest. -/
def Val.ext : Val → WithBot (WithTop ℚ)
  | .nan => ⊥
  | .inf neg => if neg then ⊥ else ((⊤ : WithTop ℚ) : WithBot (WithTop ℚ))
  | .fin neg m e => ((finRat neg m e : WithTop ℚ) : WithBot (WithTop ℚ))

/-- The order of values that are not NaNs is that of the numbers and infinities. -/
theorem Val.lt_iff_ext {x y : Val} (hx : x.isNan = false) (hy : y.isNan = false) : x.lt y = true ↔ x.ext < y.ext := by
  match x, y with
  | .inf s, .inf t => cases s <;> cases t <;> simp [Val.lt, Val.ext]
  | .inf s, .fin _ _ _ => cases s <;> simp [Val.lt, Val.ext]
  | .fin _ _ _, .inf true => simp [Val.lt, Val.ext]
  | .fin _ _ _, .inf false => exact iff_of_true rfl (WithBot.coe_lt_coe.2 (WithTop.coe_lt_top _))
  | .fin s m e, .fin t n d => rw [Val.lt_fin, Val.ext, Val.ext, WithBot.coe_lt_coe, WithTop.coe_lt_coe]

theorem Val.not_lt_iff_ext {x y : Val} (hx : x.isNan = false) (hy : y.isNan = false) : x.lt y = false ↔ y.ext ≤ x.ext := by
  rw [← not_lt, ← Val.lt_iff_ext hx hy, Bool.not_eq_true]

/-! ### The order of members (R143) -/

/-- A member with score `x` and source number `m` may stand above one with score `y` and source number `n`: by score, NaNs last, then by source number. -/
def RanksOver (x y : Val) (m n : Nat) : Prop :=
  y.isNan = true ∧ (x.isNan = true → m ≤ n) ∨ (x.isNan = false ∧ y.isNan = false ∧ x.lt y = false ∧ (y.lt x = false → m ≤ n))

theorem RanksOver.trans {x y z : Val} {m n k : Nat} (h : RanksOver x y m n) (h' : RanksOver y z n k) : RanksOver x z m k := by
  rcases h with ⟨hy, hmn⟩ | ⟨hx, hy, hxy, hmn⟩ <;> rcases h' with ⟨hz, hnk⟩ | ⟨hy', hz, hyz, hnk⟩
  · exact .inl ⟨hz, fun hx => (hmn hx).trans (hnk hy)⟩
  · simp [hy] at hy'
  · exact .inl ⟨hz, fun hx' => by simp [hx] at hx'⟩
  · rw [Val.not_lt_iff_ext hx hy] at hxy
    rw [Val.not_lt_iff_ext hy hz] at hyz
    refine .inr ⟨hx, hz, (Val.not_lt_iff_ext hx hz).2 (hyz.trans hxy), fun hzx => ?_⟩
    have hxz := (Val.not_lt_iff_ext hz hx).1 hzx
    exact (hmn ((Val.not_lt_iff_ext hy hx).2 (hxz.trans hyz))).trans (hnk ((Val.not_lt_iff_ext hz hy).2 (hxy.trans hxz)))

/-- The score of a snapshot's key. -/
def keyScore (a : Nat × Nat) : Val := fp32.decode (a.1 % 2 ^ 32)

theorem ranksBefore_eq (a b : Nat × Nat) : ranksBefore a b =
    if (keyScore a).isNan && (keyScore b).isNan then decide (a.2 < b.2)
    else if (keyScore a).isNan then false
    else if (keyScore b).isNan then true
    else if (keyScore b).lt (keyScore a) then true
    else if (keyScore a).lt (keyScore b) then false
    else decide (a.2 < b.2) := rfl

/-- The ranker's comparison of two snapshots settles which may stand above the other. -/
theorem ranksBefore_ranksOver (a b : Nat × Nat) :
    if ranksBefore a b then RanksOver (keyScore a) (keyScore b) a.2 b.2 else RanksOver (keyScore b) (keyScore a) b.2 a.2 := by
  rw [ranksBefore_eq]
  cases hx : (keyScore a).isNan <;> cases hy : (keyScore b).isNan
  case true.true => by_cases h : a.2 < b.2 <;> simp [RanksOver, hx, hy, h] <;> omega
  case true.false => simp [RanksOver, hx, hy]
  case false.true => simp [RanksOver, hx, hy]
  case false.false =>
    cases hba : (keyScore b).lt (keyScore a)
    · cases hab : (keyScore a).lt (keyScore b)
      · by_cases h : a.2 < b.2 <;> simp [RanksOver, hx, hy, hab, hba, h] <;> omega
      · simp [RanksOver, hx, hy, hab, hba]
    · have hab : (keyScore a).lt (keyScore b) = false := (Val.not_lt_iff_ext hx hy).2 ((Val.lt_iff_ext hy hx).1 hba).le
      simp [RanksOver, hx, hy, hba, hab]

/-- Member `i` may stand above member `j` in a ranking by a key. -/
def RankedOver (key : Nat → Nat × Nat) (i j : Nat) : Prop := RanksOver (keyScore (key i)) (keyScore (key j)) (key i).2 (key j).2

theorem rankInsert_perm (key : Nat → Nat × Nat) (k : Nat) (l : List Nat) : (rankInsert key k l).Perm (k :: l) := by
  induction l with
  | nil => exact .refl _
  | cons a r ih =>
    rw [rankInsert]
    split
    · exact .refl _
    · exact (ih.cons a).trans (.swap k a r)

theorem rankInsert_pairwise (key : Nat → Nat × Nat) (k : Nat) {l : List Nat} (h : l.Pairwise (RankedOver key)) : (rankInsert key k l).Pairwise (RankedOver key) := by
  induction l with
  | nil => exact List.pairwise_singleton _ _
  | cons a r ih =>
    obtain ⟨ha, hr⟩ := List.pairwise_cons.1 h
    have hcmp := ranksBefore_ranksOver (key k) (key a)
    rw [rankInsert]
    split at hcmp
    · next hb =>
      rw [if_pos hb]
      refine List.pairwise_cons.2 ⟨fun b hmem => ?_, h⟩
      rcases List.mem_cons.1 hmem with rfl | hb'
      · exact hcmp
      · exact RanksOver.trans hcmp (ha b hb')
    · next hb =>
      rw [if_neg hb]
      refine List.pairwise_cons.2 ⟨fun b hmem => ?_, ih hr⟩
      rcases List.mem_cons.1 ((rankInsert_perm key k r).mem_iff.1 hmem) with rfl | hb'
      · exact hcmp
      · exact ha b hb'

/-- A ranking holds every member once, each above those that follow. -/
theorem ranking_sorts (key : Nat → Nat × Nat) (n : Nat) : (ranking key n).Perm (List.range n) ∧ (ranking key n).Pairwise (RankedOver key) := by
  induction n with
  | zero => exact ⟨.refl _, .nil⟩
  | succ n ih =>
    have step : ranking key (n + 1) = rankInsert key n (ranking key n) := by rw [ranking, List.range_succ, List.foldl_append]; rfl
    obtain ⟨hp, hs⟩ := ih
    rw [step]
    refine ⟨(rankInsert_perm key n _).trans ((hp.cons n).trans ?_), rankInsert_pairwise key n hs⟩
    rw [List.range_succ]
    exact (List.perm_append_singleton n _).symm

/-! ### Pairs (R144) -/

/-- Pair `i` of a ranking, with `skip` pairs taken before it. -/
def pairNumbered (g : PopSlot) (snaps : Tbl (Word × Bool)) (order : List Nat) (i skip : Nat) : Pair :=
  { i := i, winner := order.getD i 0, loser := order.getD (g.nmem - 1 - i) 0, lslot := g.lnext + BitVec.ofNat 32 skip,
    taken := ((Tbl.look snaps (order.getD (g.nmem - 1 - i) 0)).map (·.2)).getD false, status := none, started := false, record := none, recorded := false,
    handed := none }

/-- The first `n` pairs of a ranking, and how many of them are taken. -/
def pairsUpTo (g : PopSlot) (snaps : Tbl (Word × Bool)) (order : List Nat) (n : Nat) : List Pair × Nat :=
  (List.range n).foldl (fun acc i => (acc.1 ++ [pairNumbered g snaps order i acc.2], acc.2 + b2n (pairNumbered g snaps order i acc.2).taken)) ([], 0)

theorem makePairs_eq (g : PopSlot) (snaps : Tbl (Word × Bool)) (order : List Nat) : makePairs g snaps order = (pairsUpTo g snaps order g.k).1 := rfl

/-- A pair is taken when its loser's snapshot has RDY. -/
theorem pairNumbered_taken (g : PopSlot) (snaps : Tbl (Word × Bool)) (order : List Nat) (i skip : Nat) :
    (pairNumbered g snaps order i skip).taken = ((Tbl.look snaps (pairNumbered g snaps order i skip).loser).getD (0, false)).2 := by
  simp only [pairNumbered]
  cases Tbl.look snaps (order.getD (g.nmem - 1 - i) 0) <;> rfl

/-- Each pair takes its number, its members and its lineage slot from its place in the list. -/
theorem pairsUpTo_numbered (g : PopSlot) (snaps : Tbl (Word × Bool)) (order : List Nat) (n : Nat) :
    (pairsUpTo g snaps order n).1.length = n ∧ (pairsUpTo g snaps order n).2 = ((pairsUpTo g snaps order n).1.filter (·.taken)).length ∧
    ∀ j y, (pairsUpTo g snaps order n).1[j]? = some y →
      y = pairNumbered g snaps order j (((pairsUpTo g snaps order n).1.take j).filter (·.taken)).length := by
  induction n with
  | zero => exact ⟨rfl, rfl, fun j y h => by simp [pairsUpTo] at h⟩
  | succ n ih =>
    have step : pairsUpTo g snaps order (n + 1) = ((pairsUpTo g snaps order n).1 ++ [pairNumbered g snaps order n (pairsUpTo g snaps order n).2],
        (pairsUpTo g snaps order n).2 + b2n (pairNumbered g snaps order n (pairsUpTo g snaps order n).2).taken) := by
      rw [pairsUpTo, List.range_succ, List.foldl_append]; rfl
    obtain ⟨hl, hc, hj⟩ := ih
    rw [step]
    generalize pairsUpTo g snaps order n = r at hl hc hj
    obtain ⟨l, c⟩ := r
    dsimp only at hl hc hj ⊢
    refine ⟨by simp [hl], ?_, fun j y h => ?_⟩
    · rw [List.filter_append, List.length_append, ← hc]
      cases ht : (pairNumbered g snaps order n c).taken <;> simp [ht, b2n]
    · rcases Nat.lt_trichotomy j n with hlt | rfl | hgt
      · rw [List.getElem?_append_left (by omega)] at h
        rw [List.take_append_of_le_length (by omega)]
        exact hj j y h
      · rw [← hl, List.getElem?_concat_length] at h
        cases h
        rw [← hl, List.take_left, ← hc]
      · rw [List.getElem?_eq_none (by simp; omega)] at h
        cases h

/-! ### RDY of the losers taken (R144) -/

/-- RDY of a taken pair's loser is cleared where that stands on this module. -/
def clearRdy (g : PopSlot) (s : State) (p : Pair) : State :=
  let m := g.members.getD p.loser 0
  if s.ownMember m then s.modCore (memUnit m) (memCore m) fun c => { c with grdy := false } else s

theorem clearRdy_cores (g : PopSlot) (s : State) (p : Pair) : ∃ cores, clearRdy g s p = { s with cores := cores } := by
  unfold clearRdy
  dsimp only
  split <;> exact ⟨_, rfl⟩

theorem clearRdy_keeps (g : PopSlot) {s : State} {u c : Nat} (h : (s.core u c).grdy = false) (p : Pair) : ((clearRdy g s p).core u c).grdy = false := by
  unfold clearRdy
  dsimp only
  split
  · by_cases hk : unitKey u c = unitKey (memUnit (g.members.getD p.loser 0)) (memCore (g.members.getD p.loser 0))
    · rw [State.core, hk]
      exact congrArg Core.grdy (State.core_modCore ..)
    · exact (congrArg Core.grdy (Tbl.get_set_other _ _ _ _ _ hk)).trans h
  · exact h

theorem clearRdys_cores (g : PopSlot) (l : List Pair) (s : State) : ∃ cores, l.foldl (clearRdy g) s = { s with cores := cores } :=
  List.foldlRecOn (motive := fun t => ∃ cores, t = { s with cores := cores }) l _ ⟨_, rfl⟩ fun t ht p _ => by
    obtain ⟨_, rfl⟩ := ht
    exact clearRdy_cores g _ p

/-- After all losers have been cleared, RDY of each that stands on this module is 0. -/
theorem clearRdys_clear (g : PopSlot) (l : List Pair) (s : State) {p : Pair} (hp : p ∈ l) (ho : s.ownMember (g.members.getD p.loser 0) = true) :
    ((l.foldl (clearRdy g) s).core (memUnit (g.members.getD p.loser 0)) (memCore (g.members.getD p.loser 0))).grdy = false := by
  induction l generalizing s with
  | nil => cases hp
  | cons a r ih =>
    rw [List.foldl_cons]
    rcases List.mem_cons.1 hp with rfl | hr
    · refine List.foldlRecOn (motive := fun t : State => (t.core _ _).grdy = false) r _ ?_ fun t ht q _ => clearRdy_keeps g ht q
      rw [clearRdy, if_pos ho, State.core_modCore]
    · refine ih _ hr ?_
      obtain ⟨_, hc⟩ := clearRdy_cores g s a
      rw [hc]
      exact ho

/-! ### The ranker's step -/

/-- What the ranker ranks a member by: the score of its snapshot, and its source number. -/
def rankKey (g : PopSlot) (snaps : Tbl (Word × Bool)) (k : Nat) : Nat × Nat :=
  ((((Tbl.look snaps k).map Prod.fst).getD 0).toNat % 2 ^ 32, memSource (g.members.getD k 0))

/-- The member's score is that of its snapshot; one that has none counts as +0. -/
theorem keyScore_rankKey (g : PopSlot) (snaps : Tbl (Word × Bool)) (k : Nat) :
    keyScore (rankKey g snaps k) = fp32.decode (((Tbl.look snaps k).getD (0, false)).1.toNat % 2 ^ 32) := by
  rw [keyScore, rankKey, Nat.mod_mod]
  cases Tbl.look snaps k <;> rfl

/-- The members of a go from the best rank down. -/
def Go.order (go : Go) (g : PopSlot) : List Nat := ranking (rankKey g go.snaps) g.members.length

/-- The pairs of a go once its members are ranked. -/
def Go.rankedPairs (go : Go) (g : PopSlot) : List Pair := makePairs g go.snaps (go.order g)

theorem Go.length_rankedPairs (go : Go) (g : PopSlot) : (go.rankedPairs g).length = g.k := by
  rw [Go.rankedPairs, makePairs_eq]
  exact (pairsUpTo_numbered g go.snaps (go.order g) g.k).1

theorem Go.rankedPairs_numbered {go : Go} {g : PopSlot} {j : Nat} {y : Pair} (h : (go.rankedPairs g)[j]? = some y) :
    y = pairNumbered g go.snaps (go.order g) j (((go.rankedPairs g).take j).filter (·.taken)).length := by
  obtain ⟨-, -, hnum⟩ := pairsUpTo_numbered g go.snaps (go.order g) g.k
  rw [Go.rankedPairs, makePairs_eq] at h ⊢
  exact hnum j y h

/-- The state in which a go has been ranked (R143, R144). -/
def State.ranked (s : State) (go : Go) : State :=
  let g := s.pop go.slot
  let taken := (go.rankedPairs g).filter (·.taken)
  ((taken.foldl (clearRdy g) s).setPop go.slot { g with lnext := g.lnext + BitVec.ofNat 32 taken.length }).modGo fun x =>
    { x with ranked := true, pairs := go.rankedPairs g }

theorem exec_ranking_ranks {s : State} {go : Go} (hgo : s.ranker.go = some go) (hr : go.ranked = false) (hq : go.quenched = false)
    (hn : (s.pop go.slot).members.length ≤ go.snaps.length) : exec .ranking s = .next (s.ranked go) := by
  have hc : ¬(go.ranked = true ∨ go.quenched = true ∨ go.snaps.length < (s.pop go.slot).members.length) := by simp [hr, hq, hn]
  rw [exec_ranking, execRanking, hgo]
  exact if_neg hc

theorem State.ranked_ranker (s : State) (go : Go) : (s.ranked go).ranker = { s.ranker with
    slots := Tbl.set s.ranker.slots go.slot { s.pop go.slot with
      lnext := (s.pop go.slot).lnext + BitVec.ofNat 32 ((go.rankedPairs (s.pop go.slot)).filter (·.taken)).length }
    go := s.ranker.go.map fun x => { x with ranked := true, pairs := go.rankedPairs (s.pop go.slot) } } := by
  obtain ⟨_, hc⟩ := clearRdys_cores (s.pop go.slot) ((go.rankedPairs (s.pop go.slot)).filter (·.taken)) s
  unfold State.ranked
  dsimp only
  rw [hc]
  rfl

theorem State.ranked_mem (s : State) (go : Go) : (s.ranked go).mem = s.mem := by
  obtain ⟨_, hc⟩ := clearRdys_cores (s.pop go.slot) ((go.rankedPairs (s.pop go.slot)).filter (·.taken)) s
  unfold State.ranked
  dsimp only
  rw [hc]
  rfl

theorem State.ranked_clears {s : State} {go : Go} {p : Pair} (hp : p ∈ go.rankedPairs (s.pop go.slot)) (ht : p.taken = true)
    (ho : s.ownMember ((s.pop go.slot).members.getD p.loser 0) = true) :
    ((s.ranked go).core (memUnit ((s.pop go.slot).members.getD p.loser 0)) (memCore ((s.pop go.slot).members.getD p.loser 0))).grdy = false :=
  clearRdys_clear _ _ s (List.mem_filter.2 ⟨hp, ht⟩) ho

end Sys2Proof.Machine
end

section
/-! PROOFS. The population engine's steps: slots written, a go from its snapshot to its end, pairs handed to graft units, their reports and their time limits. -/

namespace Sys2Proof.Machine

/-! ### What soft errors leave alone of engines and the ranker (R62, R63) -/

/-- The ranker and every engine are as they were. -/
structure KeepsPopulation (s t : State) : Prop where
  ranker : t.ranker = s.ranker
  eng : ∀ e, t.eng e = s.eng e

theorem KeepsPopulation.of_eq {s t : State} (h : t.ranker = s.ranker) (hb : t.beds = s.beds) (hr : t.rims = s.rims) : KeepsPopulation s t :=
  ⟨h, fun e => by simp only [State.eng, State.engine, State.bed, State.rim, hb, hr]⟩

theorem KeepsPopulation.refl (s : State) : KeepsPopulation s s := ⟨rfl, fun _ => rfl⟩

theorem KeepsPopulation.trans {s t u : State} (h : KeepsPopulation s t) (h' : KeepsPopulation t u) : KeepsPopulation s u :=
  ⟨h'.ranker.trans h.ranker, fun e => (h'.eng e).trans (h.eng e)⟩

theorem KeepsPopulation.foldl {β : Type} {f : State → β → State} (h : ∀ u x, KeepsPopulation u (f u x)) (l : List β) (s : State) : KeepsPopulation s (l.foldl f s) :=
  List.foldlRecOn (motive := KeepsPopulation s) l f (.refl s) fun u hu x _ => hu.trans (h u x)

theorem KeepsPopulation.modBed (s : State) (b : Nat) {f : Bed → Bed} (hg : ∀ x, (f x).graft = x.graft) (he : ∀ x, (f x).engines = x.engines) :
    KeepsPopulation s (s.modBed b f) := by
  have hbed : ∀ n, ((s.modBed b f).bed n).graft = (s.bed n).graft ∧ ((s.modBed b f).bed n).engines = (s.bed n).engines := fun n => by
    by_cases hn : n = b
    · subst hn; rw [State.bed_modBed]; exact ⟨hg _, he _⟩
    · rw [State.bed_modBed_other s f hn]; exact ⟨rfl, rfl⟩
  exact ⟨rfl, fun e => by simp only [State.eng, State.engine, (hbed e.unit).1, (hbed e.unit).2]; rfl⟩

theorem KeepsPopulation.modRim (s : State) (k : Nat) {f : Rim → Rim} (hc : ∀ x, (f x).encs = x.encs) (he : ∀ x, (f x).engines = x.engines) :
    KeepsPopulation s (s.modRim k f) := by
  have hrim : ∀ n, ((s.modRim k f).rim n).encs = (s.rim n).encs ∧ ((s.modRim k f).rim n).engines = (s.rim n).engines := fun n => by
    by_cases hn : n = k
    · subst hn; rw [State.rim_modRim]; exact ⟨hc _, he _⟩
    · rw [show (s.modRim k f).rim n = s.rim n from Tbl.get_set_other _ _ _ _ _ hn]; exact ⟨rfl, rfl⟩
  exact ⟨rfl, fun e => by simp only [State.eng, State.engine, (hrim (e.unit - 16)).1, (hrim (e.unit - 16)).2]; rfl⟩

theorem countErr_keepsPopulation (s : State) (k : Nat) (uncorr : Bool) : KeepsPopulation s (countErr s k uncorr) := by
  unfold countErr
  dsimp only
  split
  · exact .of_eq rfl rfl rfl
  · split
    · exact .modBed s _ (fun x => by split <;> rfl) fun x => by split <;> rfl
    · split
      · exact .modRim s _ (fun x => by split <;> rfl) fun x => by split <;> rfl
      · exact .refl s

theorem pushEvent_keepsPopulation (s : State) (unit : Nat) (e : EvRec) : KeepsPopulation s (s.pushEvent unit e) := by
  unfold State.pushEvent State.setStage State.addLink
  split
  · split
    · exact .modBed s _ (fun _ => rfl) fun _ => rfl
    · exact .modRim s _ (fun _ => rfl) fun _ => rfl
  · split
    · exact .of_eq rfl rfl rfl
    · split <;> exact .of_eq rfl rfl rfl

theorem meetBad_keepsPopulation (s : State) (k : Nat) : KeepsPopulation s (meetBad s k) := (countErr_keepsPopulation s _ true).trans (pushEvent_keepsPopulation _ _ _)

theorem correct_keepsPopulation (s : State) (k n : Nat) : KeepsPopulation s (correct s k n) :=
  .foldl (f := fun t (e : Nat × Option Nat) => clearErr (countErr t e.1 false) e.1)
    (fun u e => (countErr_keepsPopulation u e.1 false).trans (.of_eq rfl rfl rfl)) _ s

theorem see_keepsPopulation (s : State) (k n : Nat) : KeepsPopulation s (s.see k n) := by
  have hm : KeepsPopulation s (s.meet k n).1 := (correct_keepsPopulation s k n).trans (.foldl (fun u (e : Nat × Option Nat) => meetBad_keepsPopulation u e.1) _ _)
  unfold State.see
  split
  · exact .refl s
  · dsimp only
    split
    · exact hm.trans (.of_eq rfl rfl rfl)
    · exact hm

theorem seeRoute_keepsPopulation (u c f : Nat) (s : State) (k : Nat) : KeepsPopulation s (s.seeRoute u c f k) := by
  induction f generalizing s k with
  | zero => exact .refl s
  | succ f ih =>
    rw [State.seeRoute]
    split
    · exact .refl s
    · dsimp only
      split
      · exact (see_keepsPopulation s _ _).trans (ih _ _)
      · exact see_keepsPopulation s _ _

theorem injectOn_ranker {s t : State} {p : Place} {n : Nat} {q : Pkt} (h : injectOn s p n q = .sent t) : t.ranker = s.ranker := by
  unfold injectOn at h
  dsimp only at h
  split at h
  · cases h
  · split at h
    · cases h
    · cases h
      exact (seeRoute_keepsPopulation ..).ranker

/-- A request that goes out leaves the ranker alone. -/
theorem inject_ranker {s t : State} {p : Place} {r : Rng} {q : Pkt} (h : inject s p r q = .sent t) : t.ranker = s.ranker := by
  unfold inject at h
  split at h
  · split at h
    · cases h; rfl
    · split at h
      · split at h
        · cases h; rfl
        · exact injectOn_ranker h
      · split at h
        · cases h; rfl
        · exact injectOn_ranker h
      · exact injectOn_ranker h
  · exact injectOn_ranker h

theorem Reports.ranker {s t : State} (h : Reports s t) : t.ranker = s.ranker := by obtain ⟨_, _, _, _, _, _, rfl⟩ := h; rfl
theorem CoresSlots.ranker {s t : State} (h : CoresSlots s t) : t.ranker = s.ranker := by obtain ⟨_, _, rfl⟩ := h; rfl

/-- A hardware arrival leaves the ranker alone. -/
theorem hwArrive_ranker (s : State) (u c n : Nat) : (hwArrive s u c n).ranker = s.ranker := by
  have hdom : ∀ t : State, (finishDomBar t u c n).ranker = t.ranker := fun t => by
    unfold finishDomBar
    dsimp only
    split <;> rfl
  unfold hwArrive
  split
  · exact (raise_reports ..).ranker
  · exact (hdom _).trans (finishCoreBar_coresSlots _ u c n).ranker

/-! ### Slots and the go -/

theorem State.pop_congr {s t : State} (h : t.ranker = s.ranker) (n : Nat) : t.pop n = s.pop n := by rw [State.pop, State.pop, h]

theorem State.modGo_go {s : State} {go : Go} (h : s.ranker.go = some go) (f : Go → Go) : (s.modGo f).ranker.go = some (f go) := by rw [State.modGo, h]; rfl

/-- A slot image over what the slot held: LNEXT and the record of the last go stay (R399). -/
def PopSlot.over (g old : PopSlot) : PopSlot :=
  { g with snapts := old.snapts, grafted := old.grafted, skipped := old.skipped, failed := old.failed, late := old.late, lnext := old.lnext }

/-- The state in which the slot image that the step names has been written. -/
def State.slotWritten (s : State) (n : Nat) (g : PopSlot) : State :=
  ({ s with ranker := { s.ranker with cfgs := s.ranker.cfgs.eraseIdx s.arg.index } } : State).setPop n (g.over (s.pop n))

/-- The ranker's slot takes the image that was sent, and the instruction is answered. -/
theorem rankerSlotWrite_writes {s : State} {id n : Nat} {p : Place} {g : PopSlot} {keep : Bool} (hc : s.ranker.cfgs[s.arg.index]? = some (id, p, n, g))
    (hg : (s.pop n).gobusy = false) (hw : (s.slot p).wait = some (.answer id keep)) :
    Acts .rankerSlotWrite s fun t => (t.pop n).header = g.header ∧ (t.pop n).members = g.members ∧ (t.pop n).lnext = (s.pop n).lnext ∧
      Resp.done ∈ (t.slot p).resp ∧ (t.slot p).wait = none ∧ t.mem = s.mem := by
  have hx : exec .rankerSlotWrite s = .next (answerSlot (s.slotWritten n g) p id .done) := by
    rw [exec_rankerSlotWrite, execRankerSlotWrite, hc]
    exact if_neg (by simp [hg])
  have hpop : (answerSlot (s.slotWritten n g) p id .done).pop n = g.over (s.pop n) := (State.pop_congr rfl n).trans (State.pop_setPop ..)
  obtain ⟨hresp, hwait⟩ := answerSlot_gives (s := s.slotWritten n g) hw .done
  exact ⟨_, hx, (congrArg PopSlot.header hpop :), (congrArg PopSlot.members hpop :), (congrArg PopSlot.lnext hpop :), hresp, hwait, rfl⟩

theorem goStart_starts {s : State} {n : Nat} {p : Place} {rest : List (Nat × Place)} (hg : s.ranker.go = none) (hq : s.ranker.queue = (n, p) :: rest) :
    Acts .goStart s fun t => t.ranker.queue = rest ∧
      ∃ h, t.ranker.go = some h ∧ h.slot = n ∧ h.place = p ∧ h.t = s.ts + BitVec.ofNat 64 (1000 * (s.pop n).lead) ∧ h.snaps = [] := by
  simp only [Acts, exec_goStart, execGoStart, hg, hq]
  exact ⟨_, rfl, rfl, _, rfl, rfl, rfl, rfl, rfl⟩

/-! ### Snapshots (R142, R152) -/

/-- A member of this module captures unless it has. -/
theorem captureMember_go {s : State} {go : Go} (hgo : s.ranker.go = some go) (g : Go) (k : Nat) :
    ∃ snaps, (captureMember s g k).ranker.go = some { go with snaps := snaps } := by
  unfold captureMember
  split
  · dsimp only
    split
    · exact ⟨_, State.modGo_go hgo _⟩
    · exact ⟨_, hgo⟩
  · exact ⟨_, hgo⟩

theorem noSnapshot_go {s : State} {go : Go} (hgo : s.ranker.go = some go) (m : BitVec 32) : ∃ snaps, (noSnapshot s m).ranker.go = some { go with snaps := snaps } := by
  have hs : ∀ fit rdy, ∃ snaps, (snapshotOf s m fit rdy false).ranker.go = some { go with snaps := snaps } := fun fit rdy => by
    unfold snapshotOf
    rw [hgo]
    dsimp only
    split
    · split
      · exact ⟨_, State.modGo_go hgo _⟩
      · exact ⟨_, hgo⟩
    · exact ⟨_, hgo⟩
  exact hs _ _

theorem snapshotRequest_asks {s : State} {go : Go} {m : BitVec 32} (hgo : s.ranker.go = some go) (hf : s.arg.flag = false) (hr : go.ranked = false)
    (ha : s.arg.index ∉ go.asked) (hm : (s.pop go.slot).members[s.arg.index]? = some m) :
    Acts .snapshotRequest s fun t => ∃ h, t.ranker.go = some h ∧ h.asked = go.asked ++ [s.arg.index] ∧
      h.late = (if s.ownMember m = true ∧ go.t.toNat < s.ts.toNat then go.late + 1 else go.late) := by
  have hn : ¬(go.ranked = true ∨ go.asked.contains s.arg.index = true) := by simp [hr, ha]
  simp only [Acts, exec_snapshotRequest, execSnapshotRequest, hf, Bool.false_eq_true, if_false, hgo, hm, if_neg hn]
  cases ho : s.ownMember m
  case true =>
    have ht := State.modGo_go hgo fun g => { g with asked := g.asked ++ [s.arg.index], late := if go.t.toNat < s.ts.toNat then g.late + 1 else g.late }
    by_cases hd : go.t.toNat ≤ s.ts.toNat
    · obtain ⟨_, hc⟩ := captureMember_go ht go s.arg.index
      exact ⟨_, rfl, _, by simpa only [if_true, if_pos hd] using hc, rfl, by simp⟩
    · exact ⟨_, rfl, _, by simpa only [if_true, if_neg hd] using ht, rfl, by simp⟩
  case false =>
    have ht := State.modGo_go hgo fun g => { g with asked := g.asked ++ [s.arg.index] }
    simp only [Bool.false_eq_true, if_false, false_and]
    split
    · exact ⟨_, rfl, _, ht, rfl, rfl⟩
    · obtain ⟨_, hc⟩ := noSnapshot_go ht m
      exact ⟨_, rfl, _, hc, rfl, rfl⟩

theorem snapshotRequest_answers {s : State} {q : Pkt} {at' : Word} {w : BitVec 32} (hf : s.arg.flag = true) (h : Due s q) (hb : q.body = .snap at' w)
    (hle : at'.toNat ≤ s.ts.toNat) :
    Acts .snapshotRequest s fun t => Answers s q t 0x19 (.data (bytesOf 8 (s.core (memUnit w) (memCore w)).fit.toNat ++
        [BitVec.ofNat 8 (b2n (s.core (memUnit w) (memCore w)).grdy), BitVec.ofNat 8 (b2n (decide (at'.toNat < s.ts.toNat)))])) ∧ t.mem = s.mem := by
  refine ⟨_, ?_, answerPkt_answers (t := s.making q) q 0x19 1 _ rfl, rfl⟩
  simp only [exec_snapshotRequest, execSnapshotRequest, hf, if_true, serving_due h, hb]
  exact congrArg Host.Outcome.next (if_pos hle)

theorem snapshotCapture_takes {s : State} {go : Go} {q : Pkt} {bs : List Byte} {m : BitVec 32} {k : Nat} (hgo : s.ranker.go = some go) (hf : s.arg.flag = true)
    (h : Back s q) (hq : q.req.2.2 = .snap go.t m) (hb : q.body = .data bs) (hk : (s.pop go.slot).members.findIdx? (fun w => w == m) = some k)
    (ha : k ∈ go.asked) (hs : Tbl.look go.snaps k = none) :
    Acts .snapshotCapture s fun t => ∃ h, t.ranker.go = some h ∧ Tbl.look h.snaps k = some (word64 (bs.take 8), bs.getD 8 0 != 0) ∧
      h.late = go.late + b2n (bs.getD 9 0 != 0) ∧ t.pkts = s.pkts.eraseIdx s.arg.index := by
  have hx : exec .snapshotCapture s = .next ((dropPkt s s.arg.index).modGo fun g =>
      { g with snaps := Tbl.set g.snaps k (word64 (bs.take 8), bs.getD 8 0 != 0), late := g.late + b2n (bs.getD 9 0 != 0) }) := by
    have hc : go.asked.contains k = true ∧ (Tbl.look go.snaps k).isNone = true := by simp [ha, hs]
    have hk' : ((dropPkt s s.arg.index).pop go.slot).members.findIdx? (fun n => n == m) = some k := hk
    have hgo' : (dropPkt s s.arg.index).ranker.go = some go := hgo
    simp only [exec_snapshotCapture, execSnapshotCapture, hf, if_true, answering_back h, hq, hb, hgo, Option.map_some, beq_self_eq_true, snapshotOf, hgo', hk', if_pos hc]
  exact ⟨_, hx, _, State.modGo_go (s := dropPkt s s.arg.index) hgo _, Tbl.look_set_same .., rfl, rfl⟩

theorem snapshotCapture_captures {s : State} {go : Go} {m : BitVec 32} (hgo : s.ranker.go = some go) (hf : s.arg.flag = false)
    (hm : (s.pop go.slot).members[s.arg.index]? = some m) (ho : s.ownMember m = true) (ha : go.asked = [s.arg.index]) (hs : Tbl.look go.snaps s.arg.index = none)
    (hle : go.t.toNat ≤ s.ts.toNat) (hr : go.ranked = false) :
    Acts .snapshotCapture s fun t => ∃ h, t.ranker.go = some h ∧
      Tbl.look h.snaps s.arg.index = some ((s.core (memUnit m) (memCore m)).fit, (s.core (memUnit m) (memCore m)).grdy) := by
  have hgo' : (captureGuests s).ranker.go = some go := hgo
  have hm' : ((captureGuests s).pop go.slot).members[s.arg.index]? = some m := hm
  have hc : (captureGuests s).ownMember m = true ∧ (Tbl.look go.snaps s.arg.index).isNone = true := ⟨ho, by rw [hs]; rfl⟩
  have hx : exec .snapshotCapture s = .next ((captureGuests s).modGo fun g =>
      { g with snaps := Tbl.set g.snaps s.arg.index ((s.core (memUnit m) (memCore m)).fit, (s.core (memUnit m) (memCore m)).grdy) }) := by
    simp only [exec_snapshotCapture, execSnapshotCapture, hf, Bool.false_eq_true, if_false, captureDue, hgo']
    rw [if_pos ⟨hle, hr⟩, ha, List.foldl_cons, List.foldl_nil, hgo', Option.getD_some, captureMember, hm']
    dsimp only
    rw [if_pos hc]
    rfl
  exact ⟨_, hx, _, State.modGo_go hgo' _, Tbl.look_set_same ..⟩

/-! ### Pairs handed to graft units (R145, R148, R152) -/

theorem modEng_ranker (s : State) (e : Eng) (f : Engine → Engine) : (s.modEng e f).ranker = s.ranker := by
  obtain ⟨_, _, h⟩ := modEng_bedsRims s e f; rw [h]

/-- The next pair of a bed is one of the running go whose loser stands there. -/
theorem nextPair_some {s : State} {b : Nat} {go : Go} {g : PopSlot} {pr : Pair} (h : nextPair s b = some (go, g, pr)) :
    s.ranker.go = some go ∧ memUnit (g.members.getD pr.loser 0) = b := by
  unfold nextPair at h
  split at h
  · cases h
  · next hgo =>
    obtain ⟨p, hfind, heq⟩ := Option.map_eq_some_iff.1 h
    cases heq
    have hp := List.find?_some hfind
    simp only [Bool.and_eq_true, beq_iff_eq] at hp
    exact ⟨hgo, hp.2⟩

theorem State.modPair_go {s : State} {go : Go} (h : s.ranker.go = some go) (i : Nat) (f : Pair → Pair) :
    (s.modPair i f).ranker.go = some { go with pairs := go.pairs.map fun p => if p.i = i then f p else p } := State.modGo_go h _

/-- What holds of the pair with a number once it has been changed. -/
theorem mem_map_numbered {l : List Pair} {i : Nat} {f : Pair → Pair} {P : Pair → Prop} (hf : ∀ p, P (f p)) :
    ∀ x ∈ l.map (fun p => if p.i = i then f p else p), x.i = i → P x := by
  intro x hx hxi
  obtain ⟨p, -, rfl⟩ := List.mem_map.1 hx
  split at hxi
  · next hp => rw [if_pos hp]; exact hf p
  · next hp => exact absurd hxi hp

theorem queuePair_queues (s : State) {c : Cmd} {b : Nat} (hb : c.engUnit = b) :
    (∃ q, ((queuePair s c).eng ⟨b, 2, 0⟩).queue = (s.eng ⟨b, 2, 0⟩).queue ++ [q]) ∧ (queuePair s c).ranker = s.ranker := by
  subst hb
  exact ⟨⟨_, congrArg Engine.queue (State.eng_modEng ..)⟩, modEng_ranker ..⟩

/-- A graft unit with room is handed the next pair of its bed. -/
theorem graftPair_hands {s : State} {go : Go} {g : PopSlot} {pr : Pair} (hu : s.arg.unit < 12) (hf : s.arg.flag = false) (hf2 : s.arg.flag2 = false)
    (hn : nextPair s s.arg.unit = some (go, g, pr)) (hroom : graftRoom s s.arg.unit g.ownMod.toNat g.ctx.toNat = true) (hq : go.quenched = false) :
    Acts .graftPair s fun t => (∃ q, (t.eng ⟨s.arg.unit, 2, 0⟩).queue = (s.eng ⟨s.arg.unit, 2, 0⟩).queue ++ [q]) ∧
      ∃ h, t.ranker.go = some h ∧ ∀ x ∈ h.pairs, x.i = pr.i → x.started = true := by
  obtain ⟨hgo, hunit⟩ := nextPair_some hn
  simp only [Acts, exec_graftPair, execGraftPair, hf, hf2, Bool.false_eq_true, if_false, if_neg (Nat.not_le.2 hu), hn, if_pos (And.intro hroom hq)]
  generalize hs' : s.seeRoute _ _ 3 _ = s'
  generalize hc : pairCmd s' _ _ _ _ _ _ _ _ _ = c
  have hkeep : KeepsPopulation s s' := hs' ▸ seeRoute_keepsPopulation ..
  obtain ⟨hqueue, hranker⟩ := queuePair_queues s' (c := c) (b := s.arg.unit) (by rw [← hc]; exact hunit)
  rw [hkeep.eng] at hqueue
  refine ⟨_, rfl, hqueue, _, State.modPair_go (by rw [hranker, hkeep.ranker]; exact hgo) _ _, ?_⟩
  exact mem_map_numbered fun _ => rfl

theorem queueGuest_queues (s : State) (q : Pkt) {c : Cmd} {u k : Nat} (hu : c.engUnit = u) (hp : c.place = ⟨u, k, 0⟩) :
    ((queueGuest s q c).eng ⟨u, 2, 0⟩).queue = (s.eng ⟨u, 2, 0⟩).queue ++ [{ q with body := .cmd c }] ∧ ((queueGuest s q c).core u k).grdy = false ∧
      (queueGuest s q c).pkts = s.pkts := by
  subst hu
  obtain ⟨_, _, hm⟩ := modEng_bedsRims s ⟨c.engUnit, 2, 0⟩ fun x => { x with queue := x.queue ++ [{ q with body := .cmd c }] }
  unfold queueGuest
  rw [hp]
  exact ⟨congrArg Engine.queue (State.eng_modEng ..), congrArg Core.grdy (State.core_modCore ..), by rw [hm]; rfl⟩

/-- Another module's pair goes to the graft unit of its loser's bed, and RDY of the loser is cleared. -/
theorem graftPair_takes {s : State} {q : Pkt} {hd : List Word} {w l : BitVec 32} {ix k ctx own : Nat} (hf : s.arg.flag = false) (hf2 : s.arg.flag2 = true)
    (h : Due s q) (hb : q.body = .pair hd w l ix k ctx own) (hu : memUnit l < 12) (hm : memModule l = s.moduleNo.toNat) (hroom : graftRoom s (memUnit l) own ctx = true) :
    Acts .graftPair s fun t => t.pkts = s.pkts.eraseIdx s.arg.index ∧ (t.core (memUnit l) (memCore l)).grdy = false ∧
      ∃ c, (t.eng ⟨memUnit l, 2, 0⟩).queue = (s.eng ⟨memUnit l, 2, 0⟩).queue ++ [{ q with body := .cmd c }] := by
  have hn : ¬(12 ≤ memUnit l ∨ memModule l ≠ (s.making q).moduleNo.toNat) := by rintro (h12 | hne) <;> [omega; exact hne hm]
  have hr : ((s.making q).eng ⟨memUnit l, 2, 0⟩).refuse.contains (own, ctx) = false := by
    simp only [graftRoom, Bool.and_eq_true, Bool.not_eq_true'] at hroom
    exact hroom.2
  have hroom' : graftRoom (s.making q) (memUnit l) own ctx = true := hroom
  simp only [Acts, exec_graftPair, execGraftPair, hf, hf2, Bool.false_eq_true, if_false, if_true, serving_due h, takePair, hb, if_neg hn, hr, hroom']
  generalize hs' : (s.making q).seeRoute _ _ 3 _ = s'
  generalize hc : pairCmd s' _ _ _ _ _ _ _ _ _ = c
  have hkeep : KeepsPopulation (s.making q) s' := hs' ▸ seeRoute_keepsPopulation ..
  have hpkts : s'.pkts = s.pkts := (hs' ▸ seeRoute_keepsChannels (memUnit l) (memCore l) 3 (s.making q) _ : KeepsChannels (s.making q) s').pkts
  obtain ⟨hqueue, hgrdy, hp⟩ := queueGuest_queues (dropPkt s' s.arg.index) q (c := c) (u := memUnit l) (k := memCore l) (by rw [← hc]; rfl) (by rw [← hc]; rfl)
  refine ⟨_, rfl, hp.trans (by rw [dropPkt, hpkts]), hgrdy, c, hqueue.trans ?_⟩
  exact congrArg (fun e : Engine => e.queue ++ [{ q with body := .cmd c }]) (hkeep.eng _)

/-! ### Reports and records (R149, R150) -/

/-- The reports on their way, and the number and status of every pair of the running go, are as they were. -/
structure KeepsStatus (s t : State) : Prop where
  reports : t.ranker.reports = s.ranker.reports
  go : ∃ f : Pair → Pair, (∀ p, (f p).i = p.i ∧ (f p).status = p.status) ∧ t.ranker.go = s.ranker.go.map fun g => { g with pairs := g.pairs.map f }

theorem KeepsStatus.of_go {s t : State} (hr : t.ranker.reports = s.ranker.reports) (hg : t.ranker.go = s.ranker.go) : KeepsStatus s t :=
  ⟨hr, id, fun _ => ⟨rfl, rfl⟩, by simp [hg]⟩

theorem KeepsStatus.modPair (s : State) (i : Nat) {f : Pair → Pair} (hf : ∀ p, (f p).i = p.i ∧ (f p).status = p.status) : KeepsStatus s (s.modPair i f) :=
  ⟨rfl, fun p => if p.i = i then f p else p, fun p => by dsimp only; split <;> [exact hf p; exact ⟨rfl, rfl⟩], rfl⟩

/-- A miss message goes out, and leaves the ranker alone, or is still to be sent. -/
theorem sendMiss_ranker {P : State → Prop} {s held : State} {f : State → State} (hheld : P held) (hsent : ∀ t, t.ranker = s.ranker → P (f t)) (p : Place) (va : Word)
    (ws : List Word) : P (sendMiss s p va ws held f) := by
  unfold sendMiss
  generalize missPkt s p va ws = x
  obtain ⟨q, r⟩ := x
  dsimp only
  split
  · exact hheld
  · next h =>
    have hr := inject_ranker h
    exact hsent _ hr

theorem askPage_keepsStatus (s : State) (g : PopSlot) (p : Pair) : KeepsStatus s (askPage s g p) := by
  unfold askPage
  split
  · exact .of_go rfl rfl
  · split
    · exact .modPair s _ fun _ => ⟨rfl, rfl⟩
    · dsimp only
      refine sendMiss_ranker (P := KeepsStatus s) (s := s.tick.tick) (.of_go rfl rfl) (fun t hr => ?_) _ _ _
      exact .of_go (congrArg Ranker.reports hr :) (congrArg Ranker.go hr :)

/-- Sending a record changes what is known of the record, not of the report. -/
theorem sendRecord_keepsStatus (s : State) (i : Nat) : KeepsStatus s (sendRecord s i) := by
  have recorded : KeepsStatus s (s.modPair i fun p => { p with recorded := true }) := .modPair s i fun _ => ⟨rfl, rfl⟩
  unfold sendRecord
  split
  · exact .of_go rfl rfl
  · dsimp only
    split
    · exact .of_go rfl rfl
    · split
      · exact askPage_keepsStatus ..
      · split
        · exact recorded
        · split
          · exact recorded
          · exact ⟨rfl, (KeepsStatus.modPair s i (f := fun p => { p with record := some _ }) fun _ => ⟨rfl, rfl⟩).go⟩
      · exact recorded

/-- The report of a pair that has been handed on is recorded as its status. -/
theorem pairReported_records {s : State} {go : Go} {pr : Pair} {i st : Nat} (hgo : s.ranker.go = some go) (hq : go.quenched = false) (hp : pr ∈ go.pairs)
    (hi : pr.i = i) (ht : pr.taken = true) (hs : pr.started = true) (hn : pr.status = none) :
    (pairReported s i st).ranker.reports = s.ranker.reports ∧
      ∃ h, (pairReported s i st).ranker.go = some h ∧ ∀ x ∈ h.pairs, x.i = i → x.status = some st := by
  have hany : go.pairs.any (fun p => p.i == i && p.taken && p.started && p.status.isNone) = true :=
    List.any_eq_true.2 ⟨pr, hp, by simp [hi, ht, hs, hn]⟩
  have hc : ¬(go.quenched = true ∨ go.pairs.any (fun p => p.i == i && p.taken && p.started && p.status.isNone) = false) := by simp only [hq, hany]; decide
  have heq : pairReported s i st = sendRecord (s.modPair i fun p => { p with status := some st }) i := by
    rw [pairReported, hgo]
    exact if_neg hc
  rw [heq]
  obtain ⟨hr, f, hf, hg⟩ := sendRecord_keepsStatus (s.modPair i fun p => { p with status := some st }) i
  rw [State.modPair_go hgo] at hg
  refine ⟨hr, _, hg, fun x hx hxi => ?_⟩
  obtain ⟨y, hy, rfl⟩ := List.mem_map.1 hx
  rw [(hf y).2]
  exact mem_map_numbered (f := fun p => { p with status := some st }) (P := fun p => p.status = some st) (fun _ => rfl) y hy ((hf y).1.symm.trans hxi)

theorem pairReport_records {s : State} {go : Go} {pr : Pair} {n st : Nat} (hgo : s.ranker.go = some go) (hf : s.arg.flag = false)
    (hr : s.ranker.reports[s.arg.index]? = some (go.id, n, st)) (hq : go.quenched = false) (hp : pr ∈ go.pairs) (hi : pr.i = n) (ht : pr.taken = true)
    (hs : pr.started = true) (hn : pr.status = none) :
    Acts .pairReport s fun t => t.ranker.reports = s.ranker.reports.eraseIdx s.arg.index ∧
      ∃ h, t.ranker.go = some h ∧ ∀ x ∈ h.pairs, x.i = n → x.status = some st := by
  refine ⟨pairReported { s with ranker := { s.ranker with reports := s.ranker.reports.eraseIdx s.arg.index } } n st, ?_, pairReported_records hgo hq hp hi ht hs hn⟩
  simp only [exec_pairReport, execPairReport, hf, Bool.false_eq_true, if_false, hr, hgo, Option.map_some, if_true]

theorem pairTimeout_records {s : State} {go : Go} {pr : Pair} (hgo : s.ranker.go = some go) (ha : pairAlive s go.id s.arg.index = false)
    (hq : go.quenched = false) (hp : pr ∈ go.pairs) (hi : pr.i = s.arg.index) (ht : pr.taken = true) (hs : pr.started = true) (hn : pr.status = none) :
    Acts .pairTimeout s fun t => ∃ h, t.ranker.go = some h ∧ ∀ x ∈ h.pairs, x.i = s.arg.index → x.status = some 2 := by
  refine ⟨pairReported s s.arg.index 2, ?_, (pairReported_records hgo hq hp hi ht hs hn).2⟩
  simp only [exec_pairTimeout, execPairTimeout, hgo, ha, Bool.false_eq_true, if_false]

/-! ### The end of a go (R149, R150, R152) -/

/-- POPST of a slot once a go of it is over: its words, and GOBUSY if another go of it is queued. -/
def Go.closed (go : Go) (g : PopSlot) (queue : List (Nat × Place)) : PopSlot :=
  let count := fun (f : Pair → Bool) => (go.pairs.filter f).length
  { g with snapts := go.t, grafted := count fun p => p.taken && p.status == some 0, skipped := count fun p => !p.taken,
           failed := count fun p => p.taken && p.status.isSome && p.status != some 0, late := go.late, gobusy := queue.any fun q => q.1 == go.slot }

theorem goEnd_ends {s : State} {go : Go} (hgo : s.ranker.go = some go) (hf : go.finished = true) :
    Acts .goEnd s fun t => t.ranker.go = none ∧ t.pop go.slot = go.closed (s.pop go.slot) s.ranker.queue := by
  simp only [Acts, exec_goEnd, execGoEnd, hgo, hf, Bool.true_eq_false, if_false]
  refine ⟨_, rfl, ?_⟩
  have arrived : ∀ (t : State) (c : Prop) [Decidable c] (k : Nat) (ids : List Nat) (u core n : Nat),
      (wakeRanker (if c then hwArrive (t.release k ids) u core n else t)).ranker = t.ranker := fun t c _ k ids u core n => by
    split
    · exact hwArrive_ranker ..
    · rfl
  refine ⟨congrArg Ranker.go (arrived ..), (State.pop_congr (arrived ..) _).trans ?_⟩
  exact Tbl.get_set_same ..

/-- Settles O44: a lemma for each step. -/
theorem graftSteps : Obligations.GraftSteps := by
  unfold Obligations.GraftSteps
  intro s go g m p pr id n st rest keep
  dsimp only
  refine ⟨fun hc hg hw => rankerSlotWrite_writes hc hg hw, fun hg hq => goStart_starts hg hq, fun hgo hf hr ha hm => snapshotRequest_asks hgo hf hr ha hm,
    fun q at' w hf h hb hle => snapshotRequest_answers hf h hb hle, fun q bs k hgo hf h hq hb hk ha hs => snapshotCapture_takes hgo hf h hq hb hk ha hs,
    fun hgo hf hm ho ha hs hle hr => snapshotCapture_captures hgo hf hm ho ha hs hle hr, fun hgo hr hq hn => ?ranking,
    fun hu hf hf2 hn hroom hq => graftPair_hands hu hf hf2 hn hroom hq, fun q hd w l ix k ctx own hf hf2 h hb hu hm hroom => graftPair_takes hf hf2 h hb hu hm hroom,
    fun hgo hf hr hq hp hi ht hs hn => pairReport_records hgo hf hr hq hp hi ht hs hn,
    fun hgo ha hq hp hi ht hs hn => pairTimeout_records hgo ha hq hp hi ht hs hn, fun hgo hf => ?finish⟩
  case finish =>
    obtain ⟨t, hx, hnone, hpop⟩ := goEnd_ends hgo hf
    exact ⟨t, hx, hnone, congrArg PopSlot.snapts hpop, congrArg PopSlot.late hpop, congrArg PopSlot.skipped hpop, congrArg PopSlot.gobusy hpop⟩
  case ranking =>
    have hranker := s.ranked_ranker go
    obtain ⟨hperm, hsorted⟩ := ranking_sorts (rankKey (s.pop go.slot) go.snaps) (s.pop go.slot).members.length
    refine ⟨_, exec_ranking_ranks hgo hr hq hn, { go with ranked := true, pairs := go.rankedPairs (s.pop go.slot) }, go.order (s.pop go.slot), ?_, rfl, hperm, ?_,
      fun j y hj => ?_, go.length_rankedPairs _, ?_, s.ranked_mem go⟩
    · rw [hranker, hgo]; rfl
    · refine hsorted.imp fun {a b} hab => ?_
      rw [RankedOver, keyScore_rankKey, keyScore_rankKey] at hab
      exact hab
    · have hy := Go.rankedPairs_numbered hj
      refine ⟨by rw [hy]; rfl, by rw [hy]; rfl, by rw [hy]; rfl, by rw [hy]; exact pairNumbered_taken .., by rw [hy]; rfl, fun ht ho => ?_⟩
      exact State.ranked_clears (List.mem_of_getElem? hj) ht ho
    · rw [State.pop, hranker, Tbl.get_set_same]

end Sys2Proof.Machine
end

section
/-! PROOFS. The special registers: what `mfsr` gives of each, and what `mtsr` writes of those that are writable. -/

namespace Sys2Proof.Machine

/-- An admitted `mfsr` gives the special register of its number (R414). -/
theorem mfsr_gives {s : State} {d : BitVec 5} {n : BitVec 8} {v : Word} (hv : s.srRead n.toNat = v) : Gives (.mfsr d n) d s v := by
  intro hA
  rw [exec_mfsr, execMfsr, word_admitted hA, done_ok, hv]

/-- An admitted `mtsr` writes the special register of its number (R414). -/
theorem mtsr_writes {s t : State} {a : BitVec 5} {n : BitVec 8} (ht : s.srWrite n.toNat (s.opG a) = t) (hA : Admitted (.mtsr a n) s) :
    exec (.mtsr a n) s = .next t.retired := by
  rw [exec_mtsr, execMtsr, word_admitted hA, done_ok, ht]

/-- A choice by whether a core is a rim core is one by its unit's number (R8). -/
theorem ite_rim {α : Type} (p : Place) (x y : α) : (if p.rim = true then x else y) = if p.unit < 12 then y else x := by
  by_cases h : p.unit < 12 <;> simp [Place.rim, h]

/-! ### The watermarks of the channels (R112, R415) -/

theorem toNat_wmNumber {k : Nat} (h : k < 16) : (BitVec.ofNat 8 (0x20 + k)).toNat = 0x20 + k := by
  rw [BitVec.toNat_ofNat, Nat.mod_eq_of_lt (by omega)]

theorem State.srRead_wm (s : State) {k : Nat} (h : k < 16) : s.srRead (0x20 + k) = ((s.coreAt s.cur.place).chan k).wm := by
  unfold State.srRead
  dsimp only
  iterate 13 rw [if_neg (by omega)]
  rw [if_pos (by omega), Nat.add_sub_cancel_left]

theorem State.srWrite_wm (s : State) {k : Nat} (h : k < 16) (v : Word) : s.srWrite (0x20 + k) v = s := by
  unfold State.srWrite
  dsimp only
  iterate 10 rw [if_neg (by omega)]

/-! ### The registers of a bed core's units (R270, R386, R415) -/

theorem State.srRead_fit (s : State) : s.srRead 0x10 = if s.cur.place.unit < 12 then (s.coreAt s.cur.place).fit else 0 := ite_rim ..

theorem State.srRead_mstat (s : State) : s.srRead 0x30 = if s.cur.place.unit < 12 then (s.coreAt s.cur.place).mx.status else 0 := ite_rim ..

theorem State.srWrite_fit {s : State} (h : s.cur.place.unit < 12) (v : Word) : s.srWrite 0x10 v = s.modCoreAt s.cur.place fun c => { c with fit := v } :=
  (ite_rim ..).trans (if_pos h)

theorem State.srWrite_mstat {s : State} (h : s.cur.place.unit < 12) (v : Word) :
    s.srWrite 0x30 v = if v.getLsbD 0 then s.modCoreAt s.cur.place fun c => { c with mx := { c.mx with ovf := false } } else s := by
  simp [State.srWrite, Place.rim, h]

/-- Settles O29, register by register. -/
theorem specialRegisters : Obligations.SpecialRegisters := by
  unfold Obligations.SpecialRegisters
  intro s d a
  dsimp only
  refine ⟨mfsr_gives rfl, mfsr_gives rfl, mfsr_gives rfl, mfsr_gives rfl, mfsr_gives rfl, mfsr_gives rfl, mfsr_gives rfl, mfsr_gives rfl,
    mfsr_gives s.srRead_fit, mfsr_gives rfl, mfsr_gives rfl, mfsr_gives rfl, mfsr_gives rfl,
    fun k hk => mfsr_gives ((congrArg s.srRead (toNat_wmNumber hk)).trans (s.srRead_wm hk)), mfsr_gives s.srRead_mstat,
    mtsr_writes rfl, mtsr_writes rfl, mtsr_writes rfl, mtsr_writes rfl, mtsr_writes rfl, mtsr_writes rfl, mtsr_writes rfl, mtsr_writes rfl,
    fun hp => mtsr_writes (State.srWrite_fit hp _), fun hp => mtsr_writes (State.srWrite_mstat hp _),
    mtsr_writes rfl, mtsr_writes rfl, mtsr_writes rfl, mtsr_writes rfl,
    fun k hk => mtsr_writes ((congrArg (s.srWrite · _) (toNat_wmNumber hk)).trans (s.srWrite_wm hk _))⟩

end Sys2Proof.Machine
end

section
/-! PROOFS. Translation: fills of the TLBs of cores and engines, invalidations, and the misses of engines. -/

namespace Sys2Proof.Machine

/-! ### Entries from their words (R154, R161) -/

/-- Word 0 of an entry made from two words is the first of them without its reserved bits. -/
theorem TlbE.word0_ofWords (w0 w1 : Word) (hot own : Nat) : (TlbE.ofWords w0 w1 hot own).word0 = w0 &&& 0x3FFFFFFFFFFFFFFF := by
  apply BitVec.eq_of_toNat_eq
  have hb : ∀ n, b2n (w0.getLsbD n) = w0.toNat / 2 ^ n % 2 := fun n => by
    rw [b2n, BitVec.getLsbD, Nat.testBit_eq_decide_div_mod_eq]
    simp only [decide_eq_true_eq]
    split <;> omega
  have hm : (w0 &&& 0x3FFFFFFFFFFFFFFF).toNat = w0.toNat % 2 ^ 62 := by
    rw [BitVec.toNat_and, show (0x3FFFFFFFFFFFFFFF : Word).toNat = 2 ^ 62 - 1 from rfl, Nat.and_two_pow_sub_one_eq_mod]
  simp only [TlbE.word0, TlbE.ofWords, hb, hm, BitVec.toNat_ofNat]
  omega

/-- The entry that a fill puts into a TLB is that of its words, with HOT of those it replaces (R161). -/
theorem tlbInstall_look (t : Tbl TlbE) (ix : Nat) (w0 w1 : Word) (own : Nat) :
    ∃ hot, Tbl.look (tlbInstall t ix (TlbE.ofWords w0 w1 0 own)) ix = some (TlbE.ofWords w0 w1 hot own) :=
  ⟨_, Tbl.look_set_same ..⟩

/-- An invalidation leaves no entry of its owner and scope (R163). -/
theorem mem_tlbDrop {t : Tbl TlbE} {own scope : Nat} {ctx : BitVec 12} {va : Word} {e : Nat × TlbE} (h : e ∈ tlbDrop t own scope ctx va) :
    ¬ (e.2.own = own ∧ (if scope = 0 then e.2.ctx = ctx ∧ e.2.holds va = true else if scope = 1 then e.2.ctx = ctx else scope = 2)) := by
  have h2 := (List.mem_filter.1 h).2
  rintro ⟨ho, hs⟩
  split at hs
  · next h0 => simp [h0, ho, hs] at h2
  · next h0 =>
    split at hs
    · next h1 => simp [h1, ho, hs] at h2
    · simp [ho, hs] at h2

/-! ### Fills (R161, R166) -/

theorem releaseFill_tlb (s : State) (u c k : Nat) (r : Word → List Resp) (u' c' : Nat) : ((releaseFill s u c k r).core u' c').tlb = (s.core u' c').tlb := by
  have h := State.core_modCore_congr s u c (f := fun x => { x with tlbMiss := x.tlbMiss.filter fun e => e.2 != k }) (g := Core.tlb) (fun _ => rfl) u' c'
  unfold releaseFill
  dsimp only
  split <;> exact h

theorem releaseFill_mem (s : State) (u c k : Nat) (r : Word → List Resp) : (releaseFill s u c k r).mem = s.mem := by
  unfold releaseFill
  dsimp only
  split <;> rfl

/-- The slot that waits for a fill runs again, with the answer to its miss (R161, R166). -/
theorem releaseFill_releases {s : State} {u c k : Nat} {va : Word} {kind : Kind} (h : (s.slot ⟨u, c, k⟩).wait = some (.fill va kind)) (r : Word → List Resp) :
    ((releaseFill s u c k r).slot ⟨u, c, k⟩).wait = none ∧
      ((releaseFill s u c k r).slot ⟨u, c, k⟩).resp = r va ++ (s.slot ⟨u, c, k⟩).resp.filter fun a => a.missed != some va := by
  have hw : ((s.modCoreAt ⟨u, c, k⟩ fun x => { x with tlbMiss := x.tlbMiss.filter fun e => e.2 != k }).slot ⟨u, c, k⟩).wait = some (.fill va kind) := h
  simp only [releaseFill, hw, State.slot_modSlot]
  exact ⟨rfl, rfl⟩

section
variable {s : State} {va : Word} {kind : Kind}

/-- The slot that a commit of a fill names (R160). -/
def State.fillSlot (s : State) : Place := ⟨s.arg.unit, s.arg.core, s.arg.v.toNat / 2 ^ 6 % 8⟩

/-- A core whose TLB has taken the fill registers as its entry `ix` (R161). -/
def State.filled (s : State) (u c ix : Nat) : State :=
  s.modCore u c fun x => { x with tlb := tlbInstall x.tlb ix (TlbE.ofWords x.fw0 x.fw1 0 0), tlbUse := x.tlbUse.filter (· != ix) ++ [ix] }

theorem fillCommit_filled {u c : Nat} (h : fillBad (s.core u c).fw0 (s.core u c).fw1 = false) (ctl : Word) :
    fillCommit s u c ctl = releaseFill (s.filled u c (ctl.toNat % 64)) u c (ctl.toNat / 2 ^ 6 % 8) fun _ => [] := by
  simp only [fillCommit, h, Bool.false_eq_true, if_false, bits_eq_div, Nat.pow_zero, Nat.div_one, Nat.reduceSub, Nat.reduceAdd, Nat.reducePow]
  rfl

theorem tlbFill_fills (hk : s.arg.core < coresOf s.arg.unit) (h9 : s.arg.v.getLsbD 9 = false) (h15 : s.arg.v.getLsbD 15 = false)
    (hb : fillBad (s.core s.arg.unit s.arg.core).fw0 (s.core s.arg.unit s.arg.core).fw1 = false) (hw : (s.slot s.fillSlot).wait = some (.fill va kind)) :
    Acts .tlbFill s fun t =>
      (∃ hot, Tbl.look (t.core s.arg.unit s.arg.core).tlb (s.arg.v.toNat % 64) =
        some (TlbE.ofWords (s.core s.arg.unit s.arg.core).fw0 (s.core s.arg.unit s.arg.core).fw1 hot 0)) ∧
      (t.slot s.fillSlot).wait = none ∧ (t.slot s.fillSlot).resp = (s.slot s.fillSlot).resp.filter (fun a => a.missed != some va) ∧ t.mem = s.mem := by
  refine ⟨_, by rw [exec_tlbFill, execTlbFill, coreThere, if_pos ⟨decide_eq_true hk, h9, h15⟩, fillCommit_filled hb], ?_⟩
  obtain ⟨hwait, hresp⟩ := releaseFill_releases (s := s.filled s.arg.unit s.arg.core (s.arg.v.toNat % 64)) hw fun _ => []
  refine ⟨?_, hwait, hresp, releaseFill_mem ..⟩
  rw [releaseFill_tlb, State.filled, State.core_modCore]
  exact tlbInstall_look ..

theorem tlbFillNp_releases (hk : s.arg.core < coresOf s.arg.unit) (h9 : s.arg.v.getLsbD 9 = true) (h15 : s.arg.v.getLsbD 15 = false)
    (hlo : 16 ≤ s.arg.v.toNat / 2 ^ 10 % 32) (hhi : s.arg.v.toNat / 2 ^ 10 % 32 < 22) (hw : (s.slot s.fillSlot).wait = some (.fill va kind)) :
    Acts .tlbFillNp s fun t => (t.slot s.fillSlot).wait = none ∧
      (t.slot s.fillSlot).resp = .notPresent (s.arg.v.toNat / 2 ^ 10 % 32 - 16) va :: (s.slot s.fillSlot).resp.filter (fun a => a.missed != some va) ∧
      (t.core s.arg.unit s.arg.core).tlb = (s.core s.arg.unit s.arg.core).tlb := by
  have hx : fillNotPresent s s.arg.unit s.arg.core s.arg.v =
      releaseFill s s.arg.unit s.arg.core (s.arg.v.toNat / 2 ^ 6 % 8) fun va => [.notPresent (s.arg.v.toNat / 2 ^ 10 % 32 - 16) va] := by
    simp only [fillNotPresent, bits_eq_div, Nat.reduceSub, Nat.reduceAdd, show (2 : Nat) ^ 5 = 32 from rfl, hlo, hhi, and_self, or_true, if_true]
    rfl
  refine ⟨_, by rw [exec_tlbFillNp, execTlbFillNp, coreThere, if_pos ⟨decide_eq_true hk, h9, h15⟩, hx], ?_⟩
  obtain ⟨hwait, hresp⟩ := releaseFill_releases hw fun va => [.notPresent (s.arg.v.toNat / 2 ^ 10 % 32 - 16) va]
  exact ⟨hwait, hresp, releaseFill_tlb ..⟩

/-! ### Fills of engines (R162) -/

/-- The engine that a commit with ENG names (R160). -/
def State.fillEng (s : State) : Eng := ⟨s.arg.v.toNat / 2 ^ 16 % 32, s.arg.v.toNat / 2 ^ 25 % 4, s.arg.v.toNat / 2 ^ 21 % 16⟩

/-- An engine of the module fits the fields that name it (R159). -/
theorem Eng.ok_bounds {e : Eng} (h : e.ok = true) : e.unit < 22 ∧ e.ix < 16 ∧ e.kind < 3 := by
  unfold Eng.ok at h
  split at h
  · simp only [Bool.or_eq_true, decide_eq_true_eq] at h; omega
  · split at h
    · simp only [decide_eq_true_eq] at h; omega
    · simp only [Bool.and_eq_true, beq_iff_eq, decide_eq_true_eq] at h; omega

/-- A fill forwarded to an engine stands in its TLB (R162). -/
theorem fillEngineWith_installs {ctl w0 w1 : Word} (h9 : ctl.getLsbD 9 = false) (hb : fillBad w0 w1 = false) (own : Nat) {e : Eng}
    (he : e = ⟨bits ctl.toNat 20 16, bits ctl.toNat 26 25, bits ctl.toNat 24 21⟩) (hok : e.ok = true) :
    ∃ hot, Tbl.look ((fillEngineWith s ctl own w0 w1).eng e).tlb (bits ctl.toNat 4 0) = some (TlbE.ofWords w0 w1 hot own) := by
  have hu : bits ctl.toNat 20 16 ≠ 25 := by
    have := (Eng.ok_bounds hok).1
    rw [he] at this
    exact fun h => absurd (lt_of_eq_of_lt h.symm this) (by decide)
  obtain ⟨hot, hl⟩ := tlbInstall_look (s.eng e).tlb (bits ctl.toNat 4 0) w0 w1 own
  refine ⟨hot, ?_⟩
  subst he
  rw [← hl]
  simp only [fillEngineWith, h9, hb, Bool.or_self, Bool.false_eq_true, if_false, if_neg hu]
  exact congrArg (fun x : Engine => Tbl.look x.tlb (bits ctl.toNat 4 0)) (State.eng_modEng s ⟨bits ctl.toNat 20 16, bits ctl.toNat 26 25, bits ctl.toNat 24 21⟩ (fun _ => _))

theorem tlbFillEngine_fills (hk : s.arg.core < coresOf s.arg.unit) (h9 : s.arg.v.getLsbD 9 = false) (h15 : s.arg.v.getLsbD 15 = true)
    (hm : (s.core s.arg.unit s.arg.core).farMiss = []) (hb : fillBad (s.core s.arg.unit s.arg.core).fw0 (s.core s.arg.unit s.arg.core).fw1 = false)
    (hok : s.fillEng.ok = true) :
    Acts .tlbFillEngine s fun t => ∃ hot, Tbl.look (t.eng s.fillEng).tlb (s.arg.v.toNat % 32) =
      some (TlbE.ofWords (s.core s.arg.unit s.arg.core).fw0 (s.core s.arg.unit s.arg.core).fw1 hot s.moduleNo.toNat) := by
  have hx : fillEngine s s.arg.unit s.arg.core s.arg.v s.moduleNo.toNat =
      fillEngineWith s s.arg.v s.moduleNo.toNat (s.core s.arg.unit s.arg.core).fw0 (s.core s.arg.unit s.arg.core).fw1 := by
    simp only [fillEngine, hm, List.find?_nil]
  refine ⟨_, by rw [exec_tlbFillEngine, execTlbFillEngine, coreThere, if_pos ⟨decide_eq_true hk, h15⟩, hx], ?_⟩
  have h := fillEngineWith_installs h9 hb s.moduleNo.toNat (s := s) (e := s.fillEng) (by simp only [bits_eq_div]; rfl) hok
  rwa [bits_eq_div, Nat.pow_zero, Nat.div_one] at h

/-! ### Invalidations (R163) -/

/-- What an invalidation of a scope leaves in the TLB of its core (R163). -/
theorem tlbInvalidate_tlb (u c : Nat) {ctl : Word} (h : bits ctl.toNat 13 12 ≠ 3) :
    ((tlbInvalidate s u c ctl).core u c).tlb = tlbDrop (s.core u c).tlb 0 (bits ctl.toNat 13 12) (ctl.truncate 12) (s.core u c).iva := by
  have hc := congrArg Core.tlb (s.core_modCore u c fun x => { x with tlb := tlbDrop x.tlb 0 (bits ctl.toNat 13 12) (ctl.truncate 12) (s.core u c).iva })
  simp only [tlbInvalidate, if_neg h]
  split <;> exact hc

theorem tlbinvPage_drops (hk : s.arg.core < coresOf s.arg.unit) (h : s.arg.v.toNat / 2 ^ 12 % 4 = 0) :
    Acts .tlbinvPage s fun t => ∀ y ∈ (t.core s.arg.unit s.arg.core).tlb,
      ¬ (y.2.own = 0 ∧ y.2.ctx = BitVec.ofNat 12 s.arg.v.toNat ∧ y.2.holds (s.core s.arg.unit s.arg.core).iva = true) := by
  have hs : bits s.arg.v.toNat 13 12 = 0 := (bits_eq_div ..).trans h
  refine ⟨_, by rw [exec_tlbinvPage, execTlbinvPage, coreThere, if_pos ⟨decide_eq_true hk, hs⟩], fun y hy => ?_⟩
  rw [tlbInvalidate_tlb _ _ (by omega), hs] at hy
  exact mem_tlbDrop hy

theorem tlbinvContext_drops (hk : s.arg.core < coresOf s.arg.unit) (h : s.arg.v.toNat / 2 ^ 12 % 4 = 1) :
    Acts .tlbinvContext s fun t => ∀ y ∈ (t.core s.arg.unit s.arg.core).tlb, ¬ (y.2.own = 0 ∧ y.2.ctx = BitVec.ofNat 12 s.arg.v.toNat) := by
  have hs : bits s.arg.v.toNat 13 12 = 1 := (bits_eq_div ..).trans h
  refine ⟨_, by rw [exec_tlbinvContext, execTlbinvContext, coreThere, if_pos ⟨decide_eq_true hk, hs⟩], fun y hy => ?_⟩
  rw [tlbInvalidate_tlb _ _ (by omega), hs] at hy
  exact mem_tlbDrop hy

theorem tlbinvAll_drops (hk : s.arg.core < coresOf s.arg.unit) (h : s.arg.v.toNat / 2 ^ 12 % 4 = 2) :
    Acts .tlbinvAll s fun t => ∀ y ∈ (t.core s.arg.unit s.arg.core).tlb, y.2.own ≠ 0 := by
  have hs : bits s.arg.v.toNat 13 12 = 2 := (bits_eq_div ..).trans h
  refine ⟨_, by rw [exec_tlbinvAll, execTlbinvAll, coreThere, if_pos ⟨decide_eq_true hk, hs⟩], fun y hy ho => ?_⟩
  rw [tlbInvalidate_tlb _ _ (by omega), hs] at hy
  exact mem_tlbDrop hy ⟨ho, rfl⟩

/-! ### Misses of engines (R121, R158, R162) -/

theorem Engine.active_of_cmd {x : Engine} {c : Cmd} (h : x.cmd = some c) : ∃ q, x.active = some q := by
  cases ha : x.active with
  | none => simp [Engine.cmd, ha] at h
  | some q => exact ⟨q, rfl⟩

/-- An engine whose command no service core serves ends it with PAGE (R122). -/
theorem engineTlbMiss_fails {g : Eng} {c : Cmd} {pa : Word} {wr : Bool} (hg : g = ⟨s.arg.unit, s.arg.aux, s.arg.index⟩) (hf : s.arg.flag = false)
    (hm : (s.eng g).miss = some (pa, wr, none)) (hc : (s.eng g).cmd = some c) (ho : c.ownMod = s.moduleNo.toNat) (hb : 12 ≤ s.serviceBed c.place)
    (he : (s.eng g).err = none) : Acts .engineTlbMiss s fun t => (t.eng g).err = some (3, pa, 0) ∧ t.mem = s.mem := by
  subst hg
  obtain ⟨q, hq⟩ := Engine.active_of_cmd hc
  refine ⟨engFail s ⟨s.arg.unit, s.arg.aux, s.arg.index⟩ 3 pa 0, ?_, ?_, modEng_mem ..⟩
  · simp only [exec_engineTlbMiss, execEngineTlbMiss, hf, Bool.false_eq_true, if_false, hm, hq, hc, Option.map_some, Option.bind_some, ho, ne_eq, not_true_eq_false, hb, if_true]
  · rw [engFail, State.eng_modEng, he]; rfl

theorem engVictim_lt (s : State) (x : Engine) : engVictim s x < 32 := by
  unfold engVictim
  extract_lets taken open'
  cases h : open' with
  | none => exact Nat.mod_lt _ (by decide)
  | some i => exact List.mem_range.1 (List.mem_of_find?_eq_some h)

/-- A packet as it enters the fabric: its route and where it stands are set, and nothing else of it (R77, R84). -/
def Pkt.Launched (q q' : Pkt) : Prop :=
  ∃ route lane route0 lane0 entry loc, q' = { q with route := route, lane := lane, route0 := route0, lane0 := lane0, entry := entry, loc := loc }

/-- A request whose route entry is valid, with a well-formed string and no soft error to meet, goes out, whether or not it needs the route (R77, R84, R89). -/
theorem inject_valid {p : Place} {r : Rng} (he : s.errs = []) (hv : (s.routeEntry p.unit p.core (s.routeIx p.unit r)).valid = true)
    (hr : routeRefused p.rim false (s.routeString p.unit p.core (s.routeIx p.unit r)) = none) (q : Pkt) :
    ∃ q', inject s p r q = .sent { s with pkts := s.pkts ++ [q'] } ∧ q.Launched q' := by
  have hon : ∃ q', injectOn s p (s.routeIx p.unit r) q = .sent { s with pkts := s.pkts ++ [q'] } ∧ q.Launched q' := by
    have h0 : s.seeRoute p.unit p.core 3 (s.routeIx p.unit r) = s := if_pos he
    simp only [injectOn, h0, hv, hr, Bool.true_eq_false, if_false]
    exact ⟨_, rfl, _, _, _, _, _, _, rfl⟩
  have hlocal : ∀ l, ∃ q', Inject.sent (injectLocal s q l) = .sent { s with pkts := s.pkts ++ [q'] } ∧ q.Launched q' := fun l => ⟨_, rfl, _, _, _, _, _, _, rfl⟩
  unfold inject
  split
  · split
    · exact hlocal _
    · split
      · split
        · exact hlocal _
        · exact hon
      · split
        · exact hlocal _
        · exact hon
      · exact hon
  · exact hon

/-- A request for its own core's page does not enter the fabric (R77). -/
theorem inject_ownPage {p : Place} (hp : p.rim = false) (off : Nat) (q : Pkt) :
    ∃ q', inject s p (.page p.unit p.core off) q = .sent { s with pkts := s.pkts ++ [q'] } ∧ q.Launched q' := by
  simp only [inject, State.homeOf, hp, Bool.false_eq_true, and_false, if_false, and_self, if_true]
  exact ⟨_, rfl, _, _, _, _, _, _, rfl⟩

theorem Place.ok_bounds {p : Place} (h : p.ok = true) : p.unit < 32 ∧ p.core < 128 ∧ p.slot < 8 := by
  rw [Place.ok, Bool.and_eq_true, decide_eq_true_eq, decide_eq_true_eq] at h
  obtain ⟨hcore, hslot⟩ := h
  unfold coresOf at hcore
  split at hcore
  · omega
  · split at hcore <;> omega

/-- The fields of a miss-queue entry that name who missed (R159). -/
theorem missWords_fields (va : Word) (ctx : BitVec 12) {p : Place} (hp : p.ok = true) {kind u ix k : Nat} (hk : kind < 4) (hu : u < 32) (hix : ix < 16) (hk' : k < 4)
    (user eng : Bool) (n : Nat) (v : Option TlbE) (ts : Word) :
    ∃ w1 w2, missWords va ctx p kind user eng u ix k n v ts = [va, w1, w2, ts] ∧ w1.toNat % 2 ^ 42 =
      ctx.toNat + p.unit * 2 ^ 12 + p.core * 2 ^ 17 + p.slot * 2 ^ 24 + kind * 2 ^ 27 + b2n user * 2 ^ 29 + b2n eng * 2 ^ 30 + u * 2 ^ 31 + ix * 2 ^ 36 + k * 2 ^ 40 := by
  have hb : ∀ b, b2n b < 2 := fun b => by cases b <;> decide
  obtain ⟨hunit, hcore, hslot⟩ := Place.ok_bounds hp
  refine ⟨_, _, rfl, ?_⟩
  have h1 := hb user
  have h2 := hb eng
  have h3 := ctx.isLt
  rw [BitVec.toNat_ofNat]
  omega

/-- The miss message of a core's thread or engine can go out: a service core serves the core, and is the core itself or has a valid entry with a well-formed string
and no soft error to meet (R84, R89, R158). -/
def MissGoes (s : State) (p : Place) (va : Word) : Prop :=
  let ix := s.routeIx p.unit (.page (s.serviceBed p) (serviceCore va) 0x960)
  s.serviceBed p < 12 ∧ ((p.unit = s.serviceBed p ∧ p.core = serviceCore va) ∨
    (s.errs = [] ∧ (s.routeEntry p.unit p.core ix).valid = true ∧ routeRefused p.rim false (s.routeString p.unit p.core ix) = none))

theorem MissGoes.tick {p : Place} {va : Word} (h : MissGoes s p va) : MissGoes s.tick p va := by
  obtain ⟨hb, h⟩ := h
  refine ⟨hb, h.imp_right fun ⟨he, hv, hr⟩ => ⟨he, ?_, ?_⟩⟩
  · rw [State.routeEntry_congr (s := s) (t := s.tick) rfl he he]; exact hv
  · rw [State.routeString_congr (s := s) (t := s.tick) rfl he he]; exact hr

/-- The state once a core has sent a miss message, which it counts (R158, R164). -/
def State.missSent (s : State) (p : Place) (m : Pkt) : State :=
  (({ s with pkts := s.pkts ++ [m] } : State).tick).modCoreAt p fun c => { c with txMiss := min (c.txMiss + 1) 0xFFFFFFFF }

theorem State.missSent_txMiss (s : State) (p : Place) (m : Pkt) : ((s.missSent p m).coreAt p).txMiss = min ((s.coreAt p).txMiss + 1) 0xFFFFFFFF :=
  congrArg Core.txMiss (State.core_modCore ..)

theorem sendMiss_sends {p : Place} {va : Word} (h : MissGoes s p va) (ws : List Word) (held : State) (f : State → State) :
    ∃ m, (missPkt s p va ws).1.Launched m ∧ sendMiss s p va ws held f = f (s.missSent p m) := by
  obtain ⟨hb, h⟩ := h
  obtain ⟨m, hm, hl⟩ : ∃ m, inject s p (.page (s.serviceBed p) (serviceCore va) 0x960) (missPkt s p va ws).1 = .sent { s with pkts := s.pkts ++ [m] } ∧
      (missPkt s p va ws).1.Launched m := by
    obtain ⟨hu, hc⟩ | ⟨he, hv, hr⟩ := h
    · rw [← hu, ← hc]
      exact inject_ownPage (by simp [Place.rim, hu, hb]) _ _
    · exact inject_valid he hv hr _
  refine ⟨m, hl, ?_⟩
  simp only [missPkt] at hm
  simp only [sendMiss, missPkt, hm]
  rfl

/-- The words of an engine's miss name the engine, and the thread whose command it runs (R159). -/
theorem engMiss_fields {g : Eng} (hg : g.ok = true) {p : Place} (hp : p.ok = true) (x : Engine) (va : Word) (ctx : Nat) (wr : Bool) (n : Nat) :
    ∃ w1 w2 user, engMiss s g x va ctx p wr n = [va, w1, w2, s.ts] ∧ user < 2 ∧ w1.toNat % 2 ^ 42 =
      ctx % 2 ^ 12 + p.unit * 2 ^ 12 + p.core * 2 ^ 17 + p.slot * 2 ^ 24 + b2n wr * 2 ^ 27 + user * 2 ^ 29 + 2 ^ 30 + g.unit * 2 ^ 31 + g.ix * 2 ^ 36 + g.kind * 2 ^ 40 := by
  obtain ⟨hu, hix, hk⟩ := Eng.ok_bounds hg
  have hb : ∀ b, b2n b < 2 := fun b => by cases b <;> decide
  obtain ⟨w1, w2, hw, hw1⟩ := missWords_fields va (BitVec.ofNat 12 ctx) hp (kind := b2n wr) (u := g.unit) (k := g.kind) ((hb wr).trans (by decide)) (by omega) hix (by omega)
    ((Config.freeWord (s.free + 1)).getLsbD 0) true n (Tbl.look x.tlb n) s.ts
  refine ⟨w1, w2, _, hw, hb ((Config.freeWord (s.free + 1)).getLsbD 0), ?_⟩
  rw [hw1, BitVec.toNat_ofNat, show b2n true = 1 from rfl, Nat.one_mul]

/-- The miss of an engine leaves as a miss message of the core that issued its command, which counts it (R121, R158, R164). -/
theorem engineTlbMiss_sends {g : Eng} {c : Cmd} {pa : Word} {wr : Bool} (hg : g = ⟨s.arg.unit, s.arg.aux, s.arg.index⟩) (hf : s.arg.flag = false)
    (hm : (s.eng g).miss = some (pa, wr, none)) (hc : (s.eng g).cmd = some c) (ho : c.ownMod = s.moduleNo.toNat) (hok : g.ok = true) (hz : c.place.ok = true)
    (h : MissGoes s c.place pa) :
    Acts .engineTlbMiss s fun t => (t.coreAt c.place).txMiss = min ((s.coreAt c.place).txMiss + 1) 0xFFFFFFFF ∧ t.mem = s.mem ∧
      (∃ n, (t.eng g).miss = some (pa, wr, some n) ∧ n < 32) ∧
      ∃ m w1 vw user, t.pkts = s.pkts ++ [m] ∧ m.kind = 1 ∧ m.resp = false ∧ m.body = .miss [pa, w1, vw, s.ts] ∧ user < 2 ∧
        w1.toNat % 2 ^ 42 = c.ctx % 2 ^ 12 + c.place.unit * 2 ^ 12 + c.place.core * 2 ^ 17 + c.place.slot * 2 ^ 24 + b2n wr * 2 ^ 27 + user * 2 ^ 29 + 2 ^ 30 + g.unit * 2 ^ 31 +
          g.ix * 2 ^ 36 + g.kind * 2 ^ 40 := by
  obtain ⟨q, hq⟩ := Engine.active_of_cmd hc
  obtain ⟨m, ⟨_, _, _, _, _, _, hl⟩, hs⟩ := sendMiss_sends h.tick.tick (engMiss s g (s.eng g) pa c.ctx c.place wr (engVictim s (s.eng g))) s
    fun t => t.modEng g fun x => { x with miss := some (pa, wr, some (engVictim s (s.eng g))) }
  obtain ⟨w1, w2, user, hw, hu, hw1⟩ := engMiss_fields (s := s) hok hz (s.eng g) pa c.ctx wr (engVictim s (s.eng g))
  have hx : exec .engineTlbMiss s = .next (sendMiss s.tick.tick c.place pa (engMiss s g (s.eng g) pa c.ctx c.place wr (engVictim s (s.eng g))) s
      fun t => t.modEng g fun x => { x with miss := some (pa, wr, some (engVictim s (s.eng g))) }) := by
    subst hg
    simp only [exec_engineTlbMiss, execEngineTlbMiss, hf, Bool.false_eq_true, if_false, hm, hq, hc, Option.map_some, Option.bind_some, ho, ne_eq, not_true_eq_false,
      if_neg (Nat.not_le.2 h.1)]
  obtain ⟨beds, rims, he⟩ := modEng_bedsRims (s.tick.tick.missSent c.place m) g fun x => { x with miss := some (pa, wr, some (engVictim s (s.eng g))) }
  refine ⟨_, hx.trans (congrArg _ hs), ?_, modEng_mem .., ⟨_, by rw [State.eng_modEng], engVictim_lt ..⟩, m, w1, w2, user, ?_, by rw [hl]; rfl, by rw [hl]; rfl, ?_, hu, hw1⟩
  · rw [he]; exact State.missSent_txMiss s.tick.tick c.place m
  · rw [he]; rfl
  · rw [hl]; exact congrArg Body.miss hw

end

/-- Settles O42: a fill, an invalidation and an engine's miss each by what its step does to the TLB, the slot and the fabric. -/
theorem translationSteps : Obligations.TranslationSteps := by
  intro s va pa wr kind c
  dsimp only
  intro hk
  refine ⟨fun h9 h15 hb hw => ?_, fun h9 h15 hlo hhi hw => tlbFillNp_releases hk h9 h15 hlo hhi hw, fun h15 h9 hm hb hok => ?_, tlbinvPage_drops hk, tlbinvContext_drops hk, tlbinvAll_drops hk,
    fun hf hm hc ho hb he _ => engineTlbMiss_fails rfl hf hm hc ho hb he, fun hf hm hc ho hb hok hz h => engineTlbMiss_sends rfl hf hm hc ho hok hz ⟨hb, h⟩⟩
  · obtain ⟨t, ht, ⟨hot, hl⟩, hrest⟩ := tlbFill_fills hk h9 h15 hb hw
    exact ⟨t, ht, ⟨_, hl, TlbE.word0_ofWords .., rfl, rfl, rfl, rfl, rfl⟩, hrest⟩
  · obtain ⟨t, ht, hot, hl⟩ := tlbFillEngine_fills hk h9 h15 hm hb hok
    exact ⟨t, ht, _, hl, TlbE.word0_ofWords .., rfl⟩

end Sys2Proof.Machine
end

section
/-! PROOFS. What leaves the threads of the slots alone: writes, errors and events, gangs, streams and matrix units end waits and nothing else. -/

namespace Sys2Proof.Machine

/-! ### Waits that end while the thread stays (R92, R207, R223, R226, R326) -/

/-- A slot with its thread, whose wait may be over: without a wait it stays in its state, and FREE it stays FREE. -/
def Eased (x y : Slot) : Prop := y.th = x.th ∧ (x.wait = none → y.st = x.st ∧ y.wait = none) ∧ (x.st = .free → y.st = .free)

theorem Eased.refl (x : Slot) : Eased x x := ⟨rfl, fun h => ⟨rfl, h⟩, id⟩

theorem Eased.trans {x y z : Slot} (h : Eased x y) (h' : Eased y z) : Eased x z := by
  obtain ⟨hth, hst, hfree⟩ := h
  obtain ⟨hth', hst', hfree'⟩ := h'
  refine ⟨hth'.trans hth, fun hx => ?_, fun hx => hfree' (hfree hx)⟩
  obtain ⟨hy, hw⟩ := hst hx
  exact ⟨(hst' hw).1.trans hy, (hst' hw).2⟩

/-- A slot that changes in neither its thread, its state nor its wait. -/
theorem Eased.of_eq {x y : Slot} (ht : y.th = x.th) (hs : y.st = x.st) (hw : y.wait = x.wait) : Eased x y :=
  ⟨ht, fun h => ⟨hs, hw.trans h⟩, fun h => hs.trans h⟩

/-- A slot that has waited, and may have answers put to it as it runs again. -/
theorem Eased.of_wake {x : Slot} (h : x.wait ≠ none) (r : List Resp) : Eased x { x.wake with resp := r } :=
  ⟨rfl, fun hn => absurd hn h, fun hf => by simp [Slot.wake, hf]⟩

/-- Every slot keeps its thread, and its state but for waits that end. -/
structure Eases (s t : State) : Prop where
  slot : ∀ p, Eased (s.slot p) (t.slot p)

theorem Eases.of_slots {s t : State} (h : t.slots = s.slots) : Eases s t := ⟨fun p => by rw [State.slot, State.slot, h]; exact .refl _⟩

theorem Eases.refl (s : State) : Eases s s := .of_slots rfl

theorem Eases.trans {s t u : State} (h : Eases s t) (h' : Eases t u) : Eases s u := ⟨fun p => (h.slot p).trans (h'.slot p)⟩

/-- The two steps in the other order, the state between them read off the later one. -/
theorem Eases.after {s t u : State} (h' : Eases t u) (h : Eases s t) : Eases s u := h.trans h'

theorem Eases.foldl {β : Type} {f : State → β → State} (l : List β) (s : State) (h : ∀ u x, Eases u (f u x)) : Eases s (l.foldl f s) :=
  List.foldlRecOn (motive := Eases s) l f (.refl s) fun u hu x _ => hu.trans (h u x)

theorem Eases.of_map {s t : State} (f : Nat × Slot → Nat × Slot) (hk : ∀ e, (f e).1 = e.1) (ht : ∀ e, Eased e.2 (f e).2)
    (h : t.slots = s.slots.map f) : Eases s t := by
  refine ⟨fun p => ?_⟩
  unfold State.slot Tbl.get
  rw [h, Tbl.look_map f hk]
  cases Tbl.look s.slots (slotKey p) with
  | none => exact .refl _
  | some x => exact ht _

theorem modSlot_eases (s : State) (p : Place) {f : Slot → Slot} (h : Eased (s.slot p) (f (s.slot p))) : Eases s (s.modSlot p f) := by
  refine ⟨fun q => ?_⟩
  by_cases hk : slotKey q = slotKey p
  · rw [State.slot_congr _ hk, State.slot_congr _ hk, State.slot_modSlot]; exact h
  · rw [State.slot_modSlot_other _ _ _ _ hk]; exact .refl _

theorem endResv_eases (s : State) (k n : Nat) : Eases s (endResv s k n) := by
  refine .of_map _ (fun e => ?_) (fun e => ?_) rfl
  · split
    · split <;> rfl
    · rfl
  · split
    · split
      · exact .of_eq rfl rfl rfl
      · exact .refl _
    · exact .refl _

theorem wakeIf_eases (s : State) (f : Nat → Wait → Bool) : Eases s (wakeIf s f) := by
  refine .of_map _ (fun e => ?_) (fun e => ?_) rfl
  · split
    · split <;> rfl
    · rfl
  · split
    · next hw =>
      split
      · exact .of_wake (by simp [hw]) _
      · exact .refl _
    · exact .refl _

theorem wakeWords_eases (s : State) (k n : Nat) : Eases s (wakeWords s k n) :=
  .foldl _ s fun u i => by unfold wakeWaiters; exact (wakeIf_eases _ _).after (.of_slots rfl)

theorem wakeRoute_eases (s : State) (k : Nat) : Eases s (wakeRoute s k) := by
  unfold wakeRoute
  split
  · exact .refl s
  · split
    · refine .of_map _ (fun e => ?_) (fun e => ?_) rfl
      · split <;> rfl
      · split
        · next hw =>
          dsimp only
          split
          · next hp => exact ⟨rfl, fun h => by simp [h] at hw, fun h => by simp [h] at hp⟩
          · exact .of_wake (by simp [hw.2]) _
        · exact .refl _
    · exact .refl s

theorem State.written_eases (s : State) (p : Path) (k n : Nat) : Eases s (s.written p k n) := by
  have h := ((endResv_eases s k n).trans (wakeWords_eases _ k n)).trans (wakeRoute_eases _ k)
  unfold State.written
  dsimp only
  split
  · exact h.trans (.of_slots (releaseStore_slots _ k _))
  · exact h.trans (.of_slots rfl)

/-- A write at the home ends waits and nothing else of a slot that shows here. -/
theorem State.put_eases (s : State) (p : Path) (k : Nat) (bs : List Byte) : Eases s (s.put p k bs) := by
  by_cases hb : bs = []
  · subst hb; exact .refl s
  · have hs := (heal_sameWaits s k bs.length).trans (putWords_sameWaits p (bs.length + 1) _ k bs)
    rw [s.put_eq p k bs hb]
    exact (Eases.of_slots hs.1).trans (State.written_eases ..)

theorem saveSlot_eases (s : State) (p : Place) : Eases s (s.saveSlot p) := by
  unfold State.saveSlot
  dsimp only
  split
  · exact ((((((State.put_eases ..).trans (State.put_eases ..)).trans (State.put_eases ..)).trans (State.put_eases ..)).trans (State.put_eases ..)).trans
      (State.put_eases ..)).trans (State.put_eases ..)
  · exact (State.put_eases ..).trans (State.put_eases ..)

theorem see_eases (s : State) (k n : Nat) : Eases s (s.see k n) := .of_slots (see_sameWaits s k n).1

theorem raise_eases (s : State) (unit core slot ty ctx : Nat) (d0 d1 : Word) : Eases s (s.raise unit core slot ty ctx d0 d1) :=
  .of_slots (raise_reports ..).sameWaits.1

theorem wakeMatrix_eases (s : State) (u c : Nat) : Eases s (wakeMatrix s u c) := by
  have h : Eases s (claimRemote s u c) := by
    unfold claimRemote
    dsimp only
    split
    · split <;> exact .of_slots rfl
    · exact .refl s
  unfold wakeMatrix wakeCore
  exact (wakeIf_eases _ _).after h

theorem dropMatrix_eases (s : State) (u c : Nat) : Eases s (dropMatrix s u c) := by
  unfold dropMatrix wakeCore
  exact (wakeIf_eases _ _).after (.of_slots rfl)

theorem withdrawMatrix_eases (s : State) (p : Place) : Eases s (withdrawMatrix s p) := by
  unfold withdrawMatrix
  dsimp only
  split
  · exact .refl s
  · exact (wakeMatrix_eases _ p.unit p.core).after (.of_slots rfl)

theorem wakeBarrier_eases (s : State) (u c n : Nat) (al : Bool) : Eases s (wakeBarrier s u c n al) := by
  refine .of_map _ (fun e => ?_) (fun e => ?_) rfl
  · split <;> rfl
  · split
    · next hw => exact .of_wake (by simp [hw.2]) _
    · exact .refl _

theorem hwArrive_eases (s : State) (u c n : Nat) : Eases s (hwArrive s u c n) := by
  have hcore : ∀ t : State, Eases t (finishCoreBar t u c n) := fun t => by
    unfold finishCoreBar
    dsimp only
    split
    · split
      · exact (wakeBarrier_eases ..).after (.of_slots rfl)
      · exact .of_slots rfl
    · exact .refl t
  have hdom : ∀ t : State, Eases t (finishDomBar t u c n) := fun t => by
    unfold finishDomBar
    dsimp only
    split
    · exact .of_slots rfl
    · exact .refl t
  unfold hwArrive
  split
  · exact raise_eases ..
  · exact (hdom _).after ((hcore _).after (.of_slots rfl))

theorem gangEnded_eases (s : State) (g : Option (Nat × Nat)) : Eases s (gangEnded s g) := by
  unfold gangEnded
  split
  · exact .refl s
  · split
    · exact .refl s
    · split
      · exact .of_slots rfl
      · dsimp only
        split
        · refine (raise_eases ..).after ?_
          split
          · exact (hwArrive_eases ..).after (.of_slots rfl)
          · exact .of_slots rfl
        · split
          · exact (hwArrive_eases ..).after (.of_slots rfl)
          · exact .of_slots rfl

theorem leaveFollow_eases (s : State) (p : Place) (reason : Nat) : Eases s (leaveFollow s p reason) := by
  refine modSlot_eases s p ?_
  split
  · exact .refl _
  · exact ⟨rfl, fun h => by simp [h], fun h => by simp [h]⟩

theorem stopStream_eases (s : State) (p : Place) : Eases s (stopStream s p) := by
  unfold stopStream
  split
  · refine .foldl _ s fun u k => ?_
    dsimp only
    split
    · split
      · exact leaveFollow_eases ..
      · exact modSlot_eases u _ (.of_eq rfl rfl rfl)
    · exact .refl u
  · exact .refl s

theorem quitCounters_eases (s : State) (p : Place) : Eases s (quitCounters s p) := by
  unfold quitCounters
  dsimp only
  split
  · exact .of_slots rfl
  · exact (wakeIf_eases ..).after (.of_slots rfl)

end Sys2Proof.Machine
end

section
/-! PROOFS. Threads that start: spawns, steals and placement. -/

namespace Sys2Proof.Machine

/-- What each step of a fold establishes for its element, and every step keeps, holds of each element at the end. -/
theorem foldl_each {σ β : Type} {f : σ → β → σ} {R : β → σ → Prop} {l : List β} (hset : ∀ t x, x ∈ l → R x (f t x)) (hkeep : ∀ t x y, R y t → R y (f t x)) :
    ∀ s, ∀ x ∈ l, R x (l.foldl f s) := by
  induction l with
  | nil => simp
  | cons a l ih =>
    intro s x hx
    rcases List.mem_cons.1 hx with rfl | hx
    · exact List.foldlRecOn (motive := R x) l f (hset s x List.mem_cons_self) fun t ht y _ => hkeep t y x ht
    · exact ih (fun t y hy => hset t y (List.mem_cons_of_mem a hy)) (f s a) x hx

/-! ### Packets beside errors and writes -/

theorem Reports.pkts {s t : State} (h : Reports s t) : t.pkts = s.pkts := by obtain ⟨_, _, _, _, _, _, rfl⟩ := h; rfl

theorem meetBads_pkts (l : List (Nat × Option Nat)) (s : State) : (l.foldl (fun t e => meetBad t e.1) s).pkts = s.pkts :=
  List.foldlRecOn (motive := fun t : State => t.pkts = s.pkts) l _ rfl fun u hu e _ => (meetBad_reports u e.1).pkts.trans hu

theorem correct_pkts (s : State) (k n : Nat) : (correct s k n).pkts = s.pkts :=
  List.foldlRecOn (motive := fun t : State => t.pkts = s.pkts) _ _ rfl fun u hu e _ => (countErr_reports u e.1 false).pkts.trans hu

theorem putWord_pkts (s : State) (p : Path) (k : Nat) (bs : List Byte) : (putWord s p k bs).pkts = s.pkts := by
  unfold putWord
  split
  · exact (meetBad_reports s k).pkts
  · exact List.foldlRecOn (motive := fun t : State => t.pkts = s.pkts) _ _ (correct_pkts s k _) fun _ hu _ _ => hu

theorem putWords_pkts (p : Path) (f : Nat) (s : State) (k : Nat) (bs : List Byte) : (putWords s p f k bs).pkts = s.pkts := by
  induction f generalizing s k bs with
  | zero => rfl
  | succ f ih =>
    rw [putWords]
    split
    · rfl
    · exact (ih _ _ _).trans (putWord_pkts s p k _)

@[simp] theorem State.put_pkts (s : State) (p : Path) (k : Nat) (bs : List Byte) : (s.put p k bs).pkts = s.pkts := by
  by_cases hb : bs = []
  · subst hb; rfl
  · rw [s.put_eq p k bs hb, (State.written_puts _ p k _).pkts, putWords_pkts]
    exact meetBads_pkts _ s

@[simp] theorem saveSlot_pkts (s : State) (p : Place) : (s.saveSlot p).pkts = s.pkts := by
  unfold State.saveSlot
  dsimp only
  split <;> simp only [State.put_pkts]

/-! ### A started thread (R216, R242) -/

/-- A slot that is READY for a thread of a context, and waits for nothing. -/
def Slot.Started (x : Slot) (c : BitVec 12) : Prop := x.st = .ready ∧ x.wait = none ∧ x.th.ctx = c

theorem Eased.started {x y : Slot} (h : Eased x y) {c : BitVec 12} (hx : x.Started c) : y.Started c := by
  obtain ⟨hth, hst, -⟩ := h
  obtain ⟨hr, hw, hc⟩ := hx
  exact ⟨(hst hw).1.trans hr, (hst hw).2, hth ▸ hc⟩

section
variable (s : State) (p : Place) (t : Thread) (reach : Vector Word 4) (prio : Nat) (gang : Option (Nat × Nat))

/-- What a start leaves of the slots: its own is READY, with nothing of the thread before it. -/
theorem startSlot_slots : (startSlot s p prio gang).slots = (s.modSlot p fun x =>
    { x.emptied with st := .ready, name := p.name, entry := true, fresh := true, gangPrio := prio, gang := gang, arvV := false }).slots := rfl

theorem startSlot_ready : ((startSlot s p prio gang).slot p).st = .ready ∧ ((startSlot s p prio gang).slot p).wait = none := by
  rw [State.slot, startSlot_slots, ← State.slot, State.slot_modSlot]
  exact ⟨rfl, rfl⟩

theorem startThread_started : ((startThread s p t reach prio gang).slot p).Started t.ctx := by
  unfold startThread
  rw [State.slot_modSlot]
  obtain ⟨hst, hw⟩ := startSlot_ready (((s.modSlot p fun x => { x.emptied with name := p.name, th := t }).saveSlot p).putWs
    (coreKey p.unit p.core (saveOff p) + (if p.heavy then 0x9C0 else 0x180)) reach.toList) p prio gang
  exact ⟨hst, hw, rfl⟩

theorem startThread_mode : ((startThread s p t reach prio gang).slot p).th.mode = t.mode := by
  unfold startThread
  rw [State.slot_modSlot]

theorem startThread_pkts : (startThread s p t reach prio gang).pkts = s.pkts := by
  have h : ∀ u : State, ((u.saveSlot p).putWs (coreKey p.unit p.core (saveOff p) + (if p.heavy then 0x9C0 else 0x180)) reach.toList).pkts = u.pkts := fun u => by
    rw [State.putWs, State.put_pkts, saveSlot_pkts]
  exact h _

theorem startThread_sameResets : SameResets s (startThread s p t reach prio gang) := by
  have h : ∀ u : State, SameResets u ((u.saveSlot p).putWs (coreKey p.unit p.core (saveOff p) + (if p.heavy then 0x9C0 else 0x180)) reach.toList) := fun u =>
    (saveSlot_sameResets u p).trans (put_sameResets ..)
  exact ((h _).after (modSlot_sameResets s p _)).trans (.of_beds rfl rfl rfl)

/-- Another slot keeps its thread as one is started. -/
theorem startThread_other {q : Place} (h : slotKey q ≠ slotKey p) : Eased (s.slot q) ((startThread s p t reach prio gang).slot q) := by
  have hput : ∀ u : State, Eases u ((u.saveSlot p).putWs (coreKey p.unit p.core (saveOff p) + (if p.heavy then 0x9C0 else 0x180)) reach.toList) := fun u =>
    (saveSlot_eases u p).trans (State.put_eases ..)
  have hstart : ∀ u : State, (startSlot u p prio gang).slot q = u.slot q := fun u => by
    rw [State.slot, startSlot_slots, ← State.slot, State.slot_modSlot_other _ _ _ _ h]
  have hx := (hput (s.modSlot p fun x => { x.emptied with name := p.name, th := t })).slot q
  rw [State.slot_modSlot_other _ _ _ _ h] at hx
  unfold startThread
  rw [State.slot_modSlot_other _ _ _ _ h, hstart]
  exact hx

theorem startThread_keeps {q : Place} {c : BitVec 12} (hc : t.ctx = c) (h : (s.slot q).Started c) : ((startThread s p t reach prio gang).slot q).Started c := by
  by_cases hk : slotKey q = slotKey p
  · rw [State.slot_congr _ hk, ← hc]; exact startThread_started ..
  · exact (startThread_other s p t reach prio gang hk).started h

end

/-! ### Spawns (R242, R247) -/

section
variable {s : State} {q : Pkt} {r : SpawnRec} {u c k : Nat}

/-- The slots that a spawn may claim, lowest first (R247). -/
def spawnSlots (u : Nat) (r : SpawnRec) : List Nat := if 16 ≤ u then List.range 8 else if r.heavy then [0, 1, 2, 3] else [4, 5, 6, 7]

/-- The thread that a spawn starts (R242, R247). -/
def spawnThread (s : State) (u c : Nat) (r : SpawnRec) : Thread :=
  { Thread.zero with g := startRegs (s.core u c).spret (r.args.getD 0 0) (r.args.getD 1 0) (r.args.getD 2 0) (r.args.getD 3 0), pc := r.pc, ctx := r.ctx, mode := r.mode, tvec := r.tvec }

theorem spawnArrival_serves (h : Due s q) (hb : q.body = .spawn r) (hr : q.rng = .core u c 0 k) (hk : killing s u r.ctx = false) (hs : serviceHeld s u c = false)
    {o : Option Nat} (ho : ((spawnSlots u r).find? fun j => (s.slot ⟨u, c, j⟩).st == .free) = o) :
    exec .spawnArrival s = .next (match o with
      | none => nackPkt (s.making q) s.arg.index q 4
      | some j => answerPkt (startThread (s.making q) ⟨u, c, j⟩ (spawnThread s u c r) r.reach r.prio none) s.arg.index q 0x18 0 .ack) := by
  have hk' : killing (s.making q) u r.ctx = false := hk
  have hs' : serviceHeld (s.making q) u c = false := hs
  have ho' : ((if 16 ≤ u then List.range 8 else if r.heavy then [0, 1, 2, 3] else [4, 5, 6, 7]).find? fun j => ((s.making q).slot ⟨u, c, j⟩).st == .free) = o := ho
  rw [exec_spawnArrival, execSpawnArrival, serving_due h]
  simp only [hb, spawnCore, hr, hk', hs', Bool.false_eq_true, if_false, ho']
  cases o <;> rfl

theorem spawnArrival_starts (h : Due s q) (hb : q.body = .spawn r) (hr : q.rng = .core u c 0 k) (hk : killing s u r.ctx = false) (hs : serviceHeld s u c = false)
    {j : Nat} (hj : ((spawnSlots u r).find? fun j => (s.slot ⟨u, c, j⟩).st == .free) = some j) :
    Acts .spawnArrival s fun t => Answers s q t 0x18 .ack ∧ (t.slot ⟨u, c, j⟩).st = .ready ∧ (t.slot ⟨u, c, j⟩).th.ctx = r.ctx ∧ (t.slot ⟨u, c, j⟩).th.mode = r.mode := by
  obtain ⟨hst, -, hctx⟩ := startThread_started (s.making q) ⟨u, c, j⟩ (spawnThread s u c r) r.reach r.prio none
  exact ⟨_, spawnArrival_serves h hb hr hk hs hj, answerPkt_answers q _ _ _ (startThread_pkts ..), hst, hctx, startThread_mode ..⟩

theorem spawnArrival_busy (h : Due s q) (hb : q.body = .spawn r) (hr : q.rng = .core u c 0 k) (hk : killing s u r.ctx = false) (hs : serviceHeld s u c = false)
    (hj : ((spawnSlots u r).find? fun j => (s.slot ⟨u, c, j⟩).st == .free) = none) : Acts .spawnArrival s fun t => Nacks s q t 4 ∧ t.slots = s.slots :=
  ⟨_, spawnArrival_serves h hb hr hk hs hj, nackPkt_answers q 4 rfl, rfl⟩

end

/-! ### Steals (R246) -/

theorem setSteal_core (s : State) (u c n : Nat) (e : Option Steal) : (setSteal s u c n e).core u c =
    { s.core u c with steals := match e with
        | some e => (s.core u c).steals.set n e
        | none => (s.core u c).steals.eraseIdx n } := State.core_modCore ..

theorem setSteal_dqtop (s : State) (u c n : Nat) (e : Option Steal) (u' c' : Nat) : ((setSteal s u c n e).core u' c').dqtop = (s.core u' c').dqtop :=
  State.core_modCore_congr (g := Core.dqtop) s u c (by intro; rfl) u' c'

section
variable {s : State} (he : s.errs = []) (u c : Nat) (ws : List Word)
include he

/-- A stolen record uses up the reservation of its entry, and leaves the thief's core as it was beside that. -/
theorem pushStolen_core : (pushStolen s u c ws).core u c = { s.core u c with dqRsv := (s.core u c).dqRsv - 1 } := by
  have hc := congrArg (fun l => Tbl.get Core.empty l (unitKey u c)) (State.put_puts he .ls (dequeKey u c (s.core u c).dqbot.toNat) (wordsBytes ws)).cores
  exact (State.core_modCore ..).trans (congrArg (fun x : Core => { x with dqRsv := x.dqRsv - 1 }) hc)

theorem pushStolen_mem : (pushStolen s u c ws).mem = memSetMany s.mem (dequeKey u c (s.core u c).dqbot.toNat) (wordsBytes ws) := State.put_mem s .ls _ _ he

end

section
variable {s : State} {e : Steal}

/-- A thief's request takes the oldest record of its victim, which is of its context (R246). -/
theorem stealRequest_gives {v : Nat} (he : s.errs = []) (hi : (s.core s.arg.unit s.arg.core).steals[s.arg.index]? = some e) (ha : e.ans = none)
    (hv : victimAt s ⟨s.arg.unit, s.arg.core, 0⟩ e.j = some v) (hd : (s.core s.arg.unit v).dqbot ≠ (s.core s.arg.unit v).dqtop)
    (hc : recCtx (dequeRead s s.arg.unit v (s.core s.arg.unit v).dqtop.toNat) = e.ctx) :
    Acts .stealRequest s fun t => (t.core s.arg.unit v).dqtop = (s.core s.arg.unit v).dqtop + 1 ∧
      (t.core s.arg.unit s.arg.core).steals =
        (s.core s.arg.unit s.arg.core).steals.set s.arg.index { e with ans := some (some (dequeRead s s.arg.unit v (s.core s.arg.unit v).dqtop.toNat)) } ∧
      t.mem = s.mem := by
  have hx := setSteal_core (s.modCore s.arg.unit v fun d => { d with dqtop := d.dqtop + 1 }) s.arg.unit s.arg.core s.arg.index
    (some { e with ans := some (some (dequeRead s s.arg.unit v (s.core s.arg.unit v).dqtop.toNat)) })
  have hsee : s.see (dequeKey s.arg.unit v (s.core s.arg.unit v).dqtop.toNat) 48 = s := see_noErrs s _ _ he
  refine ⟨setSteal (s.modCore s.arg.unit v fun d => { d with dqtop := d.dqtop + 1 }) s.arg.unit s.arg.core s.arg.index
    (some { e with ans := some (some (dequeRead s s.arg.unit v (s.core s.arg.unit v).dqtop.toNat)) }), ?_, ?_, ?_, rfl⟩
  · simp only [exec_stealRequest, execStealRequest, hi, ha, Option.isSome_none, Bool.false_eq_true, if_false, hv, hd, hsee, hc, ne_eq, not_false_eq_true, and_self, if_true]
  · exact (setSteal_dqtop ..).trans (congrArg Core.dqtop (State.core_modCore ..))
  · refine (congrArg Core.steals hx).trans (congrArg (fun l : List Steal => l.set s.arg.index _) ?_)
    exact State.core_modCore_congr (g := Core.steals) s _ _ (by intro; rfl) _ _

/-- A record that a steal has brought stands in the entry the thief has reserved, and the thief's slot runs again with it (R246). -/
theorem stealAnswer_brings {ws : List Word} (he : s.errs = []) (hi : (s.core s.arg.unit s.arg.core).steals[s.arg.index]? = some e) (ha : e.ans = some (some ws))
    (hw : stealAwaited s s.arg.unit s.arg.core e = true) :
    Acts .stealAnswer s fun t => Resp.stolen (some ws) ∈ (t.slot ⟨s.arg.unit, s.arg.core, e.slot⟩).resp ∧
      (t.core s.arg.unit s.arg.core).steals = (s.core s.arg.unit s.arg.core).steals.eraseIdx s.arg.index ∧
      (t.core s.arg.unit s.arg.core).dqRsv = (s.core s.arg.unit s.arg.core).dqRsv - 1 ∧
      t.mem = memSetMany s.mem (dequeKey s.arg.unit s.arg.core (s.core s.arg.unit s.arg.core).dqbot.toNat) (wordsBytes ws) := by
  have hc := setSteal_core s s.arg.unit s.arg.core s.arg.index none
  have hx := (pushStolen_core (s := setSteal s s.arg.unit s.arg.core s.arg.index none) he s.arg.unit s.arg.core ws).trans (by rw [hc])
  refine ⟨stealGiven (pushStolen (setSteal s s.arg.unit s.arg.core s.arg.index none) s.arg.unit s.arg.core ws) s.arg.unit s.arg.core e (some ws), ?_, ?_,
    congrArg Core.steals hx, congrArg Core.dqRsv hx, ?_⟩
  · simp only [exec_stealAnswer, execStealAnswer, hi, ha, hw]
  · rw [stealGiven, State.slot_modSlot]; exact List.mem_cons_self
  · exact (pushStolen_mem (s := setSteal s s.arg.unit s.arg.core s.arg.index none) he ..).trans (by rw [hc]; rfl)

end

/-! ### Placement (R241, R242) -/

theorem startKernel_sameResets (s : State) (b : Nat) (ws : List Word) (gmap : Word) (gang : Nat × Nat) (key k c : Nat) (ks : List Nat) :
    SameResets s (startKernel s b ws gmap gang key k c ks) :=
  .foldl _ s fun u _ => (see_sameResets u key 40).trans (startThread_sameResets ..)

/-- The kernels of a gang, started each on its core and slots (R242). -/
def startKernels (s : State) (b : Nat) (ws : List Word) (gmap : Word) (gang : Nat × Nat) (key : Nat) (plan : List (Nat × List Nat)) : State :=
  (List.range plan.length).foldl (fun s k => match plan[k]? with
    | some (c, ks) => startKernel s b ws gmap gang key k c ks
    | none => s) s

theorem startKernels_sameResets (s : State) (b : Nat) (ws : List Word) (gmap : Word) (gang : Nat × Nat) (key : Nat) (plan : List (Nat × List Nat)) :
    SameResets s (startKernels s b ws gmap gang key plan) := by
  refine .foldl _ s fun u k => ?_
  split
  · exact startKernel_sameResets ..
  · exact .refl u

theorem tick_sameResets (s : State) : SameResets s s.tick := .of_beds rfl rfl rfl

/-- A gang is numbered, and then its kernels are started (R242). -/
theorem startGang_eq (s : State) (b : Nat) (ws : List Word) (key : Nat) (plan : List (Nat × List Nat)) :
    ∃ u gmap, SameResets s u ∧ startGang s b ws key plan = startKernels u b ws gmap (b, s.free) key plan :=
  ⟨_, _, (tick_sameResets _).after (.modBed s b (by intro; rfl) (by intro; rfl)), rfl⟩

/-- A thread of the context that is started stays so, as threads of a gang of the same context are started. -/
theorem startKernel_keeps (s : State) (b : Nat) (ws : List Word) (gmap : Word) (gang : Nat × Nat) (key k c : Nat) (ks : List Nat) {p : Place}
    (h : (s.slot p).Started (gangCtx ws)) : ((startKernel s b ws gmap gang key k c ks).slot p).Started (gangCtx ws) :=
  List.foldlRecOn (motive := fun t : State => (t.slot p).Started (gangCtx ws)) _ _ h fun u hu _ _ =>
    startThread_keeps _ _ _ _ _ _ rfl (((see_eases u key 40).slot p).started hu)

/-- Each claimed slot of a kernel starts a thread of the gang's context (R242). -/
theorem startKernel_starts (s : State) (b : Nat) (ws : List Word) (gmap : Word) (gang : Nat × Nat) (key k c : Nat) (ks : List Nat) :
    ∀ j ∈ ks, ((startKernel s b ws gmap gang key k c ks).slot ⟨b, c, j⟩).Started (gangCtx ws) := by
  intro j hj
  obtain ⟨i, hi, rfl⟩ := List.getElem_of_mem hj
  have h : ((startKernel s b ws gmap gang key k c ks).slot ⟨b, c, ks.getD i 0⟩).Started (gangCtx ws) :=
    foldl_each (R := fun i (t : State) => (t.slot ⟨b, c, ks.getD i 0⟩).Started (gangCtx ws)) (fun t _ _ => startThread_started ..)
      (fun t _ _ ht => startThread_keeps _ _ _ _ _ _ rfl (((see_eases t key 40).slot _).started ht)) s i (List.mem_range.2 hi)
  rwa [List.getD_eq_getElem?_getD, List.getElem?_eq_getElem hi] at h

/-- Each claimed slot of a gang starts a thread of the gang's context (R241, R242). -/
theorem startKernels_starts (s : State) (b : Nat) (ws : List Word) (gmap : Word) (gang : Nat × Nat) (key : Nat) (plan : List (Nat × List Nat)) :
    ∀ g ∈ plan, ∀ j ∈ g.2, ((startKernels s b ws gmap gang key plan).slot ⟨b, g.1, j⟩).Started (gangCtx ws) := by
  intro g hg j hj
  obtain ⟨k, hk⟩ := List.getElem?_of_mem hg
  have hlt : k ∈ List.range plan.length := List.mem_range.2 (List.getElem?_eq_some_iff.1 hk).1
  refine foldl_each (R := fun k (t : State) => plan[k]? = some g → (t.slot ⟨b, g.1, j⟩).Started (gangCtx ws)) (fun t k _ hk => ?_)
    (fun t k i ht hi => ?_) s k hlt hk
  · simp only [hk]
    exact startKernel_starts t b ws gmap gang key k g.1 g.2 j hj
  · have ht := ht hi
    split
    · exact startKernel_keeps t b ws gmap gang key k _ _ ht
    · exact ht

theorem firstHead_congr {s t : State} {b : Nat} (hts : t.ts = s.ts) (hq : (t.bed b).lq = (s.bed b).lq) (hc : (t.bed b).lqctl = (s.bed b).lqctl) :
    firstHead t b = firstHead s b := by
  simp only [firstHead, hts, hq, hc]

theorem recordKey_congr {s t : State} {b : Nat} (h : (t.bed b).ctxTab = (s.bed b).ctxTab) (ctx : BitVec 12) : recordKey t b ctx = recordKey s b ctx := by
  simp only [recordKey, h]

theorem firstHead_empty {s : State} {b : Nat} (h : ∀ j < 4, Tbl.get [] (s.bed b).lq j = []) : firstHead s b = none := by
  have hs : ((List.range 4).filterMap fun q => (Tbl.get [] (s.bed b).lq q).head?.map fun r => (effPrio s.ts (s.bed b).lqctl q r, q, r)) = [] := by
    rw [List.filterMap_eq_nil_iff]
    intro q hq
    rw [h q (List.mem_range.1 hq)]
    rfl
  simp only [firstHead, hs, List.foldl_nil]

theorem placeStep_empty {s : State} {b : Nat} (h : firstHead s b = none) (f : Nat) : placeStep b f s = s := by
  cases f with
  | zero => rfl
  | succ f => simp only [placeStep, h]

theorem placeStep_fits {s : State} {b pr n key : Nat} {l : LaunchRec} {plan : List (Nat × List Nat)} (hh : firstHead s b = some (pr, n, l))
    (hk : recordKey s b (gangCtx l.words) = some key) (hf : fitGang s b l.words (fun p => (s.slot p).st == .free) = some plan) (f : Nat) :
    placeStep b (f + 1) s = placeStep b f (startGang (s.modBed b fun d => { d with lq := Tbl.set d.lq n (Tbl.get [] d.lq n).tail }) b l.words key plan) := by
  simp only [placeStep, hh, hk, hf, Option.bind_some, Option.map_some]

section
variable {s : State}

theorem placementStep_due (hb : s.arg.unit < 12) (hp : (s.bed s.arg.unit).placing = true) (hr : (s.bed s.arg.unit).rst.state = 0) :
    exec .placementStep s = .next (if (s.bed s.arg.unit).lqctl.getLsbD 16 then s.modBed s.arg.unit fun d => { d with placing := false }
      else wakeIf (placeStep s.arg.unit 65 (s.modBed s.arg.unit fun d => { d with placing := false })) fun _ w => w == .queue) := by
  have hl : ((s.modBed s.arg.unit fun d => { d with placing := false }).bed s.arg.unit).lqctl = (s.bed s.arg.unit).lqctl := by rw [State.bed_modBed]
  rw [exec_placementStep, execPlacementStep, if_neg (by simp [hp, hr, hb])]
  dsimp only
  rw [hl]
  split <;> rfl

/-- A gang that stands alone in the launch queues, and fits, is started (R241). -/
theorem placementStep_starts {pr n key : Nat} {l : LaunchRec} {plan : List (Nat × List Nat)} (hb : s.arg.unit < 12) (hp : (s.bed s.arg.unit).placing = true)
    (hc : (s.bed s.arg.unit).lqctl.getLsbD 16 = false) (hr : (s.bed s.arg.unit).rst.state = 0) (hh : firstHead s s.arg.unit = some (pr, n, l))
    (hn : Tbl.get [] (s.bed s.arg.unit).lq n = [l]) (ho : ∀ j < 4, j ≠ n → Tbl.get [] (s.bed s.arg.unit).lq j = [])
    (hk : recordKey s s.arg.unit (gangCtx l.words) = some key) (hf : fitGang s s.arg.unit l.words (fun p => (s.slot p).st == .free) = some plan) :
    Acts .placementStep s fun t => Tbl.get [] (t.bed s.arg.unit).lq n = [] ∧
      ∀ g ∈ plan, ∀ j ∈ g.2, (t.slot ⟨s.arg.unit, g.1, j⟩).st = .ready ∧ (t.slot ⟨s.arg.unit, g.1, j⟩).th.ctx = gangCtx l.words := by
  obtain ⟨v, gmap, hv, hg⟩ := startGang_eq ((s.modBed s.arg.unit fun d => { d with placing := false }).modBed s.arg.unit fun d =>
    { d with lq := Tbl.set d.lq n (Tbl.get [] d.lq n).tail }) s.arg.unit l.words key plan
  have hq : ((startKernels v s.arg.unit l.words gmap (s.arg.unit, s.free) key plan).bed s.arg.unit).lq = Tbl.set (s.bed s.arg.unit).lq n [] := by
    rw [(startKernels_sameResets ..).lq, hv.lq, State.bed_modBed, State.bed_modBed]
    exact congrArg (fun x : List LaunchRec => Tbl.set (s.bed s.arg.unit).lq n x.tail) hn
  have hnone : firstHead (startKernels v s.arg.unit l.words gmap (s.arg.unit, s.free) key plan) s.arg.unit = none := firstHead_empty fun j hj => by
    rw [hq]
    by_cases h : j = n
    · rw [h, Tbl.get_set_same]
    · rw [Tbl.get_set_other _ _ _ _ _ h, ho j hj h]
  have hu : placeStep s.arg.unit 65 (s.modBed s.arg.unit fun d => { d with placing := false }) = startKernels v s.arg.unit l.words gmap (s.arg.unit, s.free) key plan := by
    refine (placeStep_fits (s := s.modBed s.arg.unit fun d => { d with placing := false }) (Eq.trans (firstHead_congr (s := s) (by rfl) ?_ ?_) hh) (Eq.trans (recordKey_congr (s := s) ?_ _) hk) hf 64).trans ?_
    · rw [State.bed_modBed]
    · rw [State.bed_modBed]
    · rw [State.bed_modBed]
    · exact (congrArg (placeStep s.arg.unit 64) hg).trans (placeStep_empty hnone 64)
  refine ⟨wakeIf (startKernels v s.arg.unit l.words gmap (s.arg.unit, s.free) key plan) fun _ w => w == .queue, ?_, ?_, fun g hg j hj => ?_⟩
  · rw [placementStep_due hb hp hr, hc, if_neg (by decide), hu]
  · exact (congrArg (fun q => Tbl.get [] q n) hq).trans (Tbl.get_set_same ..)
  · obtain ⟨hst, -, hctx⟩ := ((wakeIf_eases _ _).slot ⟨s.arg.unit, g.1, j⟩).started (startKernels_starts v s.arg.unit l.words gmap (s.arg.unit, s.free) key plan g hg j hj)
    exact ⟨hst, hctx⟩

theorem placementStep_held (hb : s.arg.unit < 12) (hp : (s.bed s.arg.unit).placing = true) (hr : (s.bed s.arg.unit).rst.state = 0)
    (hc : (s.bed s.arg.unit).lqctl.getLsbD 16 = true) : exec .placementStep s = .next (s.modBed s.arg.unit fun d => { d with placing := false }) := by
  rw [placementStep_due hb hp hr, hc, if_pos rfl]

theorem placementStep_idle (hp : (s.bed s.arg.unit).placing = false) : exec .placementStep s = .next s := by
  rw [exec_placementStep, execPlacementStep, if_pos (.inr (.inl hp))]

end

end Sys2Proof.Machine
end

section
/-! PROOFS. Threads that end and threads that move: the operations of a context, and migration. -/

namespace Sys2Proof.Machine

/-! ### Slots that become FREE (R238, R241, R244) -/

/-- A slot that becomes FREE is emptied, and other slots may be woken (R229, R241). -/
theorem freeSlot_eases (s : State) (p : Place) : Eases (s.modSlot p Slot.emptied) (freeSlot s p) := by
  unfold freeSlot
  refine (quitCounters_eases _ p).after ?_
  dsimp only
  split <;> exact .of_slots rfl

theorem freeSlot_free (s : State) (p : Place) : ((freeSlot s p).slot p).st = .free := by
  obtain ⟨-, -, hfree⟩ := (freeSlot_eases s p).slot p
  exact hfree (by rw [State.slot_modSlot]; rfl)

/-- A slot that a KILL of a context leaves: FREE, or another context's (R238). -/
def Slot.Spared (x : Slot) (c : BitVec 12) : Prop := x.st = .free ∨ x.th.ctx ≠ c

theorem Eased.spared {x y : Slot} (h : Eased x y) {c : BitVec 12} (hx : x.Spared c) : y.Spared c := by
  obtain ⟨hth, -, hfree⟩ := h
  exact hx.imp hfree fun hc => by rwa [hth]

/-- Every slot that a KILL has no more to do with stays so. -/
structure Spares (c : BitVec 12) (s t : State) : Prop where
  slot : ∀ p, (s.slot p).Spared c → (t.slot p).Spared c

theorem Spares.trans {c : BitVec 12} {s t u : State} (h : Spares c s t) (h' : Spares c t u) : Spares c s u := ⟨fun p hp => h'.slot p (h.slot p hp)⟩

theorem Eases.spares {s t : State} (h : Eases s t) (c : BitVec 12) : Spares c s t := ⟨fun p hp => (h.slot p).spared hp⟩

theorem Spares.foldl {c : BitVec 12} {β : Type} {f : State → β → State} (l : List β) (s : State) (h : ∀ u x, Spares c u (f u x)) : Spares c s (l.foldl f s) :=
  List.foldlRecOn (motive := Spares c s) l f ((Eases.refl s).spares c) fun u hu x _ => hu.trans (h u x)

theorem freeSlot_spares (s : State) (p : Place) (c : BitVec 12) : Spares c s (freeSlot s p) := by
  refine ⟨fun q hq => ?_⟩
  by_cases hk : slotKey q = slotKey p
  · rw [State.slot_congr _ hk]; exact .inl (freeSlot_free s p)
  · exact ((freeSlot_eases s p).slot q).spared (by rwa [State.slot_modSlot_other _ _ _ _ hk])

/-! ### The KILL of a context (R238) -/

theorem modCore_eases (s : State) (u c : Nat) (f : Core → Core) : Eases s (s.modCore u c f) := .of_slots rfl

theorem killDeque_eases (s : State) (u n : Nat) (c : BitVec 12) : Eases s (killDeque s u n c) := by
  unfold killDeque
  dsimp only
  split
  · exact .of_slots rfl
  · refine Eases.trans ?_ (modCore_eases _ u n _)
    refine (Eases.foldl _ _ fun t i => ?_).after (modCore_eases s u n _)
    exact State.put_eases ..

theorem killPlots_eases (s : State) (u n : Nat) (c : BitVec 12) : Eases s (killPlots s u n c) := by
  refine .foldl _ s fun t e => ?_
  dsimp only
  split
  · exact (see_eases t _ 8).trans (State.put_eases ..)
  · exact see_eases t _ 8

/-- A killed slot leaves what it waits in, and becomes FREE; what its gang does then leaves every slot's thread (R238, R244). -/
theorem killSlot_eases (s : State) (p : Place) : ∃ u, Eases s u ∧ Eases (freeSlot u p) (killSlot s p) := by
  have h : ∀ u : State, Eases s u → Eases s (stopStream (withdrawMatrix u p) p) := fun u hu => (hu.trans (withdrawMatrix_eases u p)).trans (stopStream_eases _ p)
  unfold killSlot
  dsimp only
  split
  · refine ⟨_, ?_, gangEnded_eases ..⟩
    exact h _ (.of_slots rfl)
  · refine ⟨_, ?_, .refl _⟩
    exact h _ (.of_slots rfl)

/-- A killed slot is FREE (R238). -/
theorem killSlot_free (s : State) (p : Place) : ((killSlot s p).slot p).st = .free := by
  obtain ⟨u, -, h⟩ := killSlot_eases s p
  obtain ⟨-, -, hfree⟩ := h.slot p
  exact hfree (freeSlot_free u p)

theorem killSlot_spares (s : State) (p : Place) (c : BitVec 12) : Spares c s (killSlot s p) := by
  obtain ⟨u, hu, h⟩ := killSlot_eases s p
  exact ((hu.spares c).trans (freeSlot_spares u p c)).trans (h.spares c)

/-- One slot of a KILL at a core (R238). -/
def killOwn (s : State) (p : Place) (c : BitVec 12) : State := if (s.slot p).st != .free ∧ (s.slot p).th.ctx = c then killSlot s p else s

theorem killOwn_spares (s : State) (p : Place) (c : BitVec 12) : Spares c s (killOwn s p c) := by
  unfold killOwn
  split
  · exact killSlot_spares s p c
  · exact (Eases.refl s).spares c

theorem killOwn_spared (s : State) (p : Place) (c : BitVec 12) : ((killOwn s p c).slot p).Spared c := by
  unfold killOwn
  split
  · exact .inl (killSlot_free s p)
  · next h =>
    by_cases hf : (s.slot p).st = .free
    · exact .inl hf
    · exact .inr fun hc => h ⟨bne_iff_ne.2 hf, hc⟩

/-- The slots of a KILL at a core (R238). -/
def killOwns (s : State) (u n : Nat) (c : BitVec 12) : State := (List.range 8).foldl (fun t k => killOwn t ⟨u, n, k⟩ c) s

theorem killCore_eq (s : State) (u n : Nat) (c : BitVec 12) : killCore s u n c =
    if ((killPlots (killDeque (killOwns s u n c) u n c) u n c).core u n).mx.own = some c then dropMatrix (killPlots (killDeque (killOwns s u n c) u n c) u n c) u n
    else killPlots (killDeque (killOwns s u n c) u n c) u n c := rfl

/-- After the slots of a core, its deque, plots and matrix unit follow (R238). -/
theorem killCore_eases (s : State) (u n : Nat) (c : BitVec 12) : Eases (killOwns s u n c) (killCore s u n c) := by
  have h := (killDeque_eases (killOwns s u n c) u n c).trans (killPlots_eases _ u n c)
  rw [killCore_eq]
  split
  · exact h.trans (dropMatrix_eases ..)
  · exact h

theorem killCore_spares (s : State) (u n : Nat) (c : BitVec 12) : Spares c s (killCore s u n c) :=
  (Spares.foldl _ s fun t k => killOwn_spares t ⟨u, n, k⟩ c).trans ((killCore_eases s u n c).spares c)

/-- A KILL at a core leaves its slots FREE or other contexts' (R238). -/
theorem killCore_spared (s : State) (u n : Nat) (c : BitVec 12) {j : Nat} (hj : j < 8) : ((killCore s u n c).slot ⟨u, n, j⟩).Spared c :=
  ((killCore_eases s u n c).slot _).spared (foldl_each (R := fun j (t : State) => (t.slot ⟨u, n, j⟩).Spared c) (fun t k _ => killOwn_spared t ⟨u, n, k⟩ c)
    (fun t k _ ht => (killOwn_spares t ⟨u, n, k⟩ c).slot _ ht) s j (List.mem_range.2 hj))

/-- After the cores of a unit, its landing queues, launch records and what is to be sent again follow (R238). -/
theorem killUnit_eases (s : State) (u : Nat) (c : BitVec 12) : Eases ((List.range (coresOf u)).foldl (fun t k => killCore t u k c) s) (killUnit s u c) := by
  unfold killUnit
  refine (Eases.foldl _ _ fun t q => gangEnded_eases ..).after ?_
  dsimp only
  split <;> exact .of_slots rfl

/-- A KILL at a unit leaves its slots FREE or other contexts' (R238). -/
theorem killUnit_spared (s : State) (u : Nat) (c : BitVec 12) {n j : Nat} (hn : n < coresOf u) (hj : j < 8) : ((killUnit s u c).slot ⟨u, n, j⟩).Spared c :=
  ((killUnit_eases s u c).slot _).spared (foldl_each (R := fun n (t : State) => (t.slot ⟨u, n, j⟩).Spared c) (fun t n _ => killCore_spared t u n c hj)
    (fun t n _ ht => (killCore_spares t u n c).slot _ ht) s n (List.mem_range.2 hn))

section
variable {s : State}

theorem ctxKill_frees (ho : (s.bed s.arg.unit).opBusy = some 1) (hu : s.arg.aux ∈ killUnits) (hn : s.arg.aux ∉ (s.bed s.arg.unit).opUnits) :
    Acts .ctxKill s fun t => ∀ n < coresOf s.arg.aux, ∀ j < 8,
      (t.slot ⟨s.arg.aux, n, j⟩).st = .free ∨ (t.slot ⟨s.arg.aux, n, j⟩).th.ctx ≠ (s.bed s.arg.unit).opCtx := by
  refine ⟨_, by rw [exec_ctxKill, execCtxKill, if_neg (by simp [ho, hu, hn])], fun n hn j hj => ?_⟩
  exact ((wakeIf_eases _ _).slot _).spared (killUnit_spared _ _ _ hn hj)

/-! ### The CREATE of a context (R237) -/

theorem mem_createUnits_rim {u : Nat} (h : 16 ≤ u) (h' : u < 22) : createUnits.contains u = true := by
  have : u = 16 ∨ u = 17 ∨ u = 18 ∨ u = 19 ∨ u = 20 ∨ u = 21 := by omega
  rcases this with rfl | rfl | rfl | rfl | rfl | rfl <;> rfl

/-- An engine that no longer refuses a context (R124, R237). -/
def Engine.admits (e : Engine) (me : Nat × Nat) : Engine := { e with refuse := e.refuse.filter (· != me) }

theorem Engine.admits_not_mem (e : Engine) (me : Nat × Nat) : me ∉ (e.admits me).refuse := by
  simp [Engine.admits]

theorem Tbl.get_mapV {α : Type} (f : α → α) (d : α) (hd : f d = d) (t : Tbl α) (k : Nat) : Tbl.get d (Tbl.mapV f t) k = f (Tbl.get d t k) := by
  induction t with
  | nil => exact hd.symm
  | cons e r ih =>
    obtain ⟨j, a⟩ := e
    by_cases h : j = k
    · simp [Tbl.get, Tbl.mapV, Tbl.look, h]
    · simpa [Tbl.get, Tbl.mapV, Tbl.look, h] using ih

/-- A CREATE at a rim die ends the refusals of its engines (R124, R237). -/
theorem createUnit_rim (s : State) {u : Nat} (h16 : 16 ≤ u) (h22 : u < 22) (c : BitVec 12) : ((createUnit s u c).rim (u - 16)).engines =
    Tbl.mapV (Engine.admits · (s.moduleNo.toNat, c.toNat)) (s.rim (u - 16)).engines := by
  unfold createUnit
  dsimp only
  rw [if_neg (by omega), if_pos (by omega), State.rim_modRim]
  rfl

theorem State.eng_rim (s : State) {u : Nat} (h : 16 ≤ u) (n : Nat) : s.eng ⟨u, 0, n⟩ = Tbl.get Engine.empty (s.rim (u - 16)).engines n := by
  unfold State.eng State.engine
  dsimp only
  rw [if_neg (by omega), if_neg (by decide)]

theorem ctxCreate_admits (ho : (s.bed s.arg.unit).opBusy = some 2) (hn : s.arg.aux ∉ (s.bed s.arg.unit).opUnits) (h16 : 16 ≤ s.arg.aux) (h22 : s.arg.aux < 22) :
    Acts .ctxCreate s fun t => ∀ n < 16, (s.moduleNo.toNat, (s.bed s.arg.unit).opCtx.toNat) ∉ (t.eng ⟨s.arg.aux, 0, n⟩).refuse := by
  refine ⟨_, by rw [exec_ctxCreate, execCtxCreate, if_neg (by simp [ho, hn, List.contains_iff_mem.1 (mem_createUnits_rim h16 h22)])], fun n _ => ?_⟩
  rw [State.eng_rim _ h16, createUnit_rim _ h16 h22, Tbl.get_mapV _ _ rfl]
  exact Engine.admits_not_mem _ _

theorem ctxOpComplete_creates (ho : (s.bed s.arg.unit).opBusy = some 2) (hu : ∀ n ∈ createUnits, n ∈ (s.bed s.arg.unit).opUnits) :
    exec .ctxOpComplete s = .next (s.modBed s.arg.unit fun d => { d with opBusy := none, opDone := true, opUnits := [] }) := by
  have h : (createUnits.all fun u => (s.bed s.arg.unit).opUnits.contains u) = true := List.all_eq_true.2 fun n hn => List.contains_iff_mem.2 (hu n hn)
  simp only [exec_ctxOpComplete, execCtxOpComplete, ho, h, if_true]

end

/-! ### Landing queues (R173) -/

theorem State.landQ_setLandQ (s : State) (u n : Nat) (l : List Pkt) : (s.setLandQ u n l).landQ u n = l := by
  by_cases h : u < 12
  · rw [State.setLandQ, if_pos h, State.landQ, if_pos h, State.bed_modBed]
    exact Tbl.get_set_same ..
  · rw [State.setLandQ, if_neg h, State.landQ, if_neg h, State.rim_modRim]

theorem setLandQ_pkts (s : State) (u n : Nat) (l : List Pkt) : (s.setLandQ u n l).pkts = s.pkts := by
  unfold State.setLandQ
  split <;> rfl

/-- Only HBM at a rim die has a region table to answer a request (R181). -/
theorem gated_atCore {q : Pkt} {x y : Nat} (h : q.loc = .atCore x y) (s : State) (i : Nat) (r : Rng) (write : Bool) (f : State → State) : gated s i q r write f = f s := by
  unfold gated
  rw [h]
  cases r <;> rfl

/-! ### A thread that lands (R173, R175) -/

section
variable {s : State} {q : Pkt} {p : Place} {bs : List Byte} {rf : Word} {save : Bool} {reach : Vector Word 4} {prio : Nat} {gang : Option (Nat × Nat)} {wh : Word × Bool × Bool}

/-- An accepted image that is not shipped runs in its slot, and changes nothing but slots. -/
theorem landIn_lands (s : State) (p : Place) (hb : q.body = .image bs rf false save reach prio gang wh) :
    ((landIn s p q).slot p).st = .run ∧ ((landIn s p q).slot p).name = imageName q ∧ ((landIn s p q).slot p).reach = reach ∧
      ∃ slots, landIn s p q = { s with slots := slots } := by
  have hs : ∀ u : State, (∃ slots, u = { s with slots := slots }) → ∀ f : Slot → Slot, ∃ slots, u.modSlot p f = { s with slots := slots } := by
    rintro u ⟨_, rfl⟩ f
    exact ⟨_, rfl⟩
  simp only [landIn, hb, Bool.false_eq_true, if_false, State.slot_modSlot, true_and]
  refine hs _ ?_ _
  split <;> exact ⟨_, rfl⟩


/-- What a migration's arrival does with an image for a landing queue (R171, R173). -/
theorem migrationArrival_queues {u n cap x y : Nat} {cores : List Nat} (hb : q.body = .image bs rf false false reach prio gang wh) (hl : q.loc = .atCore x y)
    (hk : q.kind = 3) (h : Due s q) (hc : killing s q.loc.unit (imageCtx q) = false) (hq : landingOf q = .queue u n cap cores) :
    (freeLight s u cores = some p → s.landQ u n = [] → exec .migrationArrival s = .next (answerPkt (landIn (s.making q) p q) s.arg.index q 0x18 0 .ack)) ∧
    (freeLight s u cores = none → (s.landQ u n).length < cap →
      exec .migrationArrival s = .next (answerPkt ((s.making q).setLandQ u n (s.landQ u n ++ [q])) s.arg.index q 0x18 0 .ack)) ∧
    (freeLight s u cores = none → cap ≤ (s.landQ u n).length → exec .migrationArrival s = .next (nackPkt (s.making q) s.arg.index q 4)) := by
  have hc' : killing (s.making q) q.loc.unit (imageCtx q) = false := hc
  have hx : ∀ o, freeLight s u cores = o → exec .migrationArrival s = .next (match o with
      | some p => if s.landQ u n = [] then answerPkt (landIn (s.making q) p q) s.arg.index q 0x18 0 .ack
          else if (s.landQ u n).length < cap then answerPkt ((s.making q).setLandQ u n (s.landQ u n ++ [q])) s.arg.index q 0x18 0 .ack
          else nackPkt (s.making q) s.arg.index q 4
      | none => if (s.landQ u n).length < cap then answerPkt ((s.making q).setLandQ u n (s.landQ u n ++ [q])) s.arg.index q 0x18 0 .ack
          else nackPkt (s.making q) s.arg.index q 4) := by
    intro o ho
    have ho' : freeLight (s.making q) u cores = o := ho
    rw [exec_migrationArrival, execMigrationArrival, serving_due h]
    simp only [hk, Pkt.saved, hb, ne_eq, not_true_eq_false, Bool.false_eq_true, or_self, if_false, hc', gated_atCore hl, hq, ho']
    cases o <;> rfl
  refine ⟨fun hf he => ?_, fun hf he => ?_, fun hf he => ?_⟩
  · rw [hx _ hf]; exact congrArg _ (if_pos he)
  · rw [hx _ hf]; exact congrArg _ (if_pos he)
  · rw [hx _ hf]; exact congrArg _ (if_neg (Nat.not_lt.2 he))

/-- The oldest image of a landing queue runs in a slot that has become free (R173). -/
theorem landingQueuePlace_lands {rest : List Pkt} {cap : Nat} {cores : List Nat} (hb : q.body = .image bs rf false false reach prio gang wh)
    (hl : s.landQ s.arg.unit s.arg.index = q :: rest) (hq : landingOf q = .queue s.arg.unit s.arg.index cap cores) (hf : freeLight s s.arg.unit cores = some p)
    (hp : (s.slot (homePlace (imageName q))).preq = false) :
    Acts .landingQueuePlace s fun t => t.landQ s.arg.unit s.arg.index = rest ∧ (t.slot p).st = .run ∧ (t.slot p).name = imageName q := by
  obtain ⟨hst, hname, -, slots, hs⟩ := landIn_lands (s.setLandQ s.arg.unit s.arg.index rest) p hb
  refine ⟨landIn (s.setLandQ s.arg.unit s.arg.index rest) p q, ?_, ?_, hst, hname⟩
  · simp only [exec_landingQueuePlace, execLandingQueuePlace, hl, hq, hp, hf, Bool.false_eq_true, false_and, if_false]
  · rw [hs]; exact State.landQ_setLandQ s s.arg.unit s.arg.index rest

/-! ### A pre-empted thread that comes home (R176) -/

theorem Reports.mem {s t : State} (h : Reports s t) : t.mem = s.mem := by obtain ⟨_, _, _, _, _, _, rfl⟩ := h; rfl

section
variable (hb : q.body = .image bs rf false true reach prio none wh)
include hb

theorem saveImageArrival_serves (h : Due s q) (hk : q.kind = 3) (hl : homeLeaving s q = false) (hc : killing s q.loc.unit (imageCtx q) = false)
    (hs : ¬ (heldFor s q = true ∧ saveHeld s (homePlace (imageName q)) = true)) {t : State} {ok : Bool}
    (ht : bringImage (s.making q) q q.loc.unit = (t, ok)) :
    exec .saveImageArrival s = .next (if ok then answerPkt t s.arg.index q 0x18 0 .ack else nackPkt t s.arg.index q 5) := by
  have hl' : homeLeaving (s.making q) q = false := hl
  have hc' : killing (s.making q) q.loc.unit (imageCtx q) = false := hc
  have hs' : ¬ (heldFor (s.making q) q = true ∧ saveHeld (s.making q) (homePlace (imageName q)) = true) := hs
  rw [exec_saveImageArrival, execSaveImageArrival, serving_due h]
  simp only [hk, Pkt.saved, hb, ne_eq, not_true_eq_false, Bool.true_eq_false, Bool.false_eq_true, hl', hs', or_self, if_false, hc', ht]
  cases ok <;> rfl

/-- An image whose home slot is held for it is written there, and the slot is READY and held (R176). -/
theorem bringImage_held (unit : Nat) (hst : (s.slot (homePlace (imageName q))).st = .away) (hn : (s.slot (homePlace (imageName q))).name = imageName q) :
    ∃ t, bringImage s q unit = (t, true) ∧ t.pkts = s.pkts ∧ (t.slot (homePlace (imageName q))).st = .ready ∧ (t.slot (homePlace (imageName q))).held = true := by
  simp only [bringImage, hb, bringHome, hst, hn, and_self, if_true]
  refine ⟨_, rfl, ?_, ?_, ?_⟩
  · simp only [State.modSlot, State.setSlot, State.put_pkts]
  · simp only [State.slot_modSlot]
  · simp only [State.slot_modSlot]

/-- An image whose home slot is not held is refused, and a REJECTED event names its thread (R176). -/
theorem bringImage_refused (unit : Nat) (hst : (s.slot (homePlace (imageName q))).st ≠ .away) :
    ∃ t, bringImage s q unit = (t, false) ∧ Reports s t := by
  simp only [bringImage, hb, bringHome, hst, false_and, if_false, gangEnded]
  exact ⟨_, rfl, raise_reports ..⟩

theorem saveImageArrival_holds (h : Due s q) (hk : q.kind = 3) (hl : homeLeaving s q = false) (hc : killing s q.loc.unit (imageCtx q) = false)
    (hst : (s.slot (homePlace (imageName q))).st = .away) (hn : (s.slot (homePlace (imageName q))).name = imageName q) (hs : saveHeld s (homePlace (imageName q)) = false) :
    Acts .saveImageArrival s fun t => Answers s q t 0x18 .ack ∧ (t.slot (homePlace (imageName q))).st = .ready ∧ (t.slot (homePlace (imageName q))).held = true := by
  obtain ⟨t, ht, hpk, hready, hheld⟩ := bringImage_held (s := s.making q) hb q.loc.unit hst hn
  exact ⟨_, saveImageArrival_serves hb h hk hl hc (by simp [hs]) ht, answerPkt_answers q _ _ _ hpk, hready, hheld⟩

theorem saveImageArrival_refuses (h : Due s q) (hk : q.kind = 3) (hl : homeLeaving s q = false) (hc : killing s q.loc.unit (imageCtx q) = false)
    (hst : (s.slot (homePlace (imageName q))).st ≠ .away) : Acts .saveImageArrival s fun t => Nacks s q t 5 ∧ t.mem = s.mem := by
  obtain ⟨t, ht, hr⟩ := bringImage_refused (s := s.making q) hb q.loc.unit hst
  exact ⟨_, saveImageArrival_serves hb h hk hl hc (by simp [heldFor, hst]) ht, nackPkt_answers q 5 hr.pkts, hr.mem⟩

end

/-! ### A thread that has left (R171, R175) -/

theorem CoresSlots.mem {s t : State} (h : CoresSlots s t) : t.mem = s.mem := by obtain ⟨_, _, rfl⟩ := h; rfl

theorem freeSlot_mem (s : State) (p : Place) : (freeSlot s p).mem = s.mem := by
  unfold freeSlot
  rw [(quitCounters_coresSlots _ p).mem]
  dsimp only
  split <;> rfl

/-- The slot a thread has left is FREE, or held AWAY for it where it is the thread's home (R175). -/
theorem leaveSource_leaves (s : State) (p : Place) (h : (s.slot p).preq = false) :
    ((leaveSource s p).slot p).st = (if s.away p then .free else .away) ∧ (leaveSource s p).mem = s.mem := by
  unfold leaveSource
  simp only [h, Bool.false_eq_true, if_false]
  split
  · exact ⟨by rw [State.slot_modSlot]; exact freeSlot_free s p, freeSlot_mem s p⟩
  · exact ⟨by rw [State.slot_modSlot], freeSlot_mem s p⟩

theorem migrationAnswer_leaves {ship : Bool} (h : Back s q) (hr : q.req.2.2 = .image bs rf ship false reach prio gang wh) (hb : q.body = .ack)
    (hw : (s.slot q.place).wait = some .migrate) (hbusy : (s.slot q.place).resp.contains .busy = false) (hp : (s.slot q.place).preq = false) :
    Acts .migrationAnswer s fun t => (t.slot q.place).st = (if s.away q.place then .free else .away) ∧ t.mem = s.mem := by
  refine ⟨leaveSource (dropPkt s s.arg.index) q.place, ?_, leaveSource_leaves (dropPkt s s.arg.index) q.place hp⟩
  rw [exec_migrationAnswer, execMigrationAnswer, answering_back h]
  simp only [hr, Bool.false_eq_true, if_false, hw, hbusy, ne_eq, not_true_eq_false, or_self, hb]

/-! ### A migration answered BUSY (R40, R171) -/

/-- A slot whose BUSY answer is forgotten (R171). -/
def State.notBusy (s : State) (p : Place) : State := s.modSlot p fun x => { x with resp := x.resp.filter (· != .busy) }

theorem State.notBusy_wait (s : State) (p : Place) : ((s.notBusy p).slot p).wait = (s.slot p).wait := by rw [State.notBusy, State.slot_modSlot]
theorem State.notBusy_th (s : State) (p : Place) : ((s.notBusy p).slot p).th = (s.slot p).th := by rw [State.notBusy, State.slot_modSlot]

theorem sendImage_sent {t : State}
    (h : inject (s.notBusy q.place) q.place q.rng { q with loc := startLoc q.place.unit q.place.core, rstamp := (s.notBusy q.place).stampFor q.place.unit q.rng } = .sent t) :
    sendImage s q = t := by
  unfold sendImage
  rw [State.notBusy] at h
  simp only [h]

/-- An image that is sent again goes out as it was, where its route is valid and no soft error is met (R84, R171). -/
theorem sendImage_sends (he : s.errs = []) (hv : (s.routeEntry q.place.unit q.place.core (s.routeIx q.place.unit q.rng)).valid = true)
    (hr : routeRefused q.place.rim false (s.routeString q.place.unit q.place.core (s.routeIx q.place.unit q.rng)) = none) :
    (∃ q', (sendImage s q).pkts = s.pkts ++ [q'] ∧ q'.body = q.body ∧ q'.info = q.info ∧ q'.dest = q.dest) ∧ (sendImage s q).retries = s.retries ∧
      ((sendImage s q).slot q.place).wait = (s.slot q.place).wait ∧ ((sendImage s q).slot q.place).th = (s.slot q.place).th ∧ (sendImage s q).mem = s.mem := by
  have he' : (s.notBusy q.place).errs = [] := he
  obtain ⟨q', hi, _, _, _, _, _, _, hl⟩ := inject_valid (p := q.place) (r := q.rng) he'
    ((congrArg RouteE.valid (State.routeEntry_congr rfl he he' _ _ _)).trans hv)
    ((congrArg (routeRefused q.place.rim false) (State.routeString_congr rfl he he' _ _ _)).trans hr)
    { q with loc := startLoc q.place.unit q.place.core, rstamp := (s.notBusy q.place).stampFor q.place.unit q.rng }
  rw [sendImage_sent hi]
  exact ⟨⟨q', rfl, by rw [hl], by rw [hl], by rw [hl]⟩, rfl, s.notBusy_wait q.place, s.notBusy_th q.place, rfl⟩

theorem migrationBackoff_sends {j : Nat} {o : Retry} (hj : s.retries.findIdx? (fun r => r.why == 4 && r.pkt.place == s.argPlace) = some j) (ho : s.retries[j]? = some o)
    (hw : (s.slot s.argPlace).wait = some .migrate) (hs : saveHeld s s.argPlace = false) (he : s.errs = [])
    (hv : (s.routeEntry s.argPlace.unit s.argPlace.core (s.routeIx s.argPlace.unit o.pkt.rng)).valid = true)
    (hr : routeRefused s.argPlace.rim false (s.routeString s.argPlace.unit s.argPlace.core (s.routeIx s.argPlace.unit o.pkt.rng)) = none) :
    Acts .migrationBackoff s fun t => (∃ q, t.pkts = s.pkts ++ [q] ∧ q.body = o.pkt.body ∧ q.info = o.pkt.info ∧ q.dest = o.pkt.dest) ∧ t.retries = s.retries.eraseIdx j ∧
      (t.slot s.argPlace).wait = some .migrate ∧ (t.slot s.argPlace).th = (s.slot s.argPlace).th ∧ t.mem = s.mem := by
  have hp : o.pkt.place = s.argPlace := by
    obtain ⟨hlt, hpred, -⟩ := List.findIdx?_eq_some_iff_getElem.1 hj
    obtain ⟨_, rfl⟩ := List.getElem?_eq_some_iff.1 ho
    simpa using (Bool.and_eq_true_iff.1 hpred).2
  obtain ⟨hpkt, hretries, hwait, hth, hmem⟩ := sendImage_sends (s := { s with retries := s.retries.eraseIdx j }) (q := o.pkt) he (hp ▸ hv) (hp ▸ hr)
  rw [hp] at hwait hth
  refine ⟨_, ?_, hpkt, hretries, hwait.trans hw, hth, hmem⟩
  have hcond : (s.slot s.argPlace).wait = some .migrate ∧ saveHeld s s.argPlace = false := ⟨hw, hs⟩
  simp only [State.argPlace] at hj hcond
  simp only [exec_migrationBackoff, execMigrationBackoff, hj, ho, hcond, and_self, if_true]

end

/-- Settles O47: each step by what it does to the slots, the queues and the fabric. -/
theorem threadSteps : Obligations.ThreadSteps := by
  intro s q r u c k e ws l plan p rest
  dsimp only
  refine ⟨fun h hb hr hk hs => ⟨fun j hj => spawnArrival_starts h hb hr hk hs hj, spawnArrival_busy h hb hr hk hs⟩, fun v he hi ha hv hd hc => stealRequest_gives he hi ha hv hd hc,
    fun he hi ha hw => stealAnswer_brings he hi ha hw, fun pr n key hb hp hc hr hh hn ho hk hf => placementStep_starts hb hp hc hr hh hn ho hk hf,
    fun hb hp hr hc => placementStep_held hb hp hr hc, fun _ hp => placementStep_idle hp, ctxKill_frees, ctxCreate_admits, ctxOpComplete_creates,
    fun bs rf reach g gang wh x y n cap cores hb hl hk h hc hq => ?_, fun bs rf reach g gang wh cap cores hb hl hq hf hp => landingQueuePlace_lands hb hl hq hf hp,
    fun bs rf reach g wh h hk hb hl hc => ⟨saveImageArrival_holds hb h hk hl hc, saveImageArrival_refuses hb h hk hl hc⟩,
    fun bs rf ship reach g gang wh h hr hb hw hbusy hp => migrationAnswer_leaves h hr hb hw hbusy hp,
    fun j o hj ho hw hs he _ hv hr => migrationBackoff_sends hj ho hw hs he hv hr⟩
  obtain ⟨hland, hwait, hbusy⟩ := migrationArrival_queues (p := p) hb hl hk h hc hq
  refine ⟨fun hf he => ⟨_, hland hf he, ?_⟩, fun hf he => ⟨_, hwait hf he, ?_⟩, fun hf he => ⟨_, hbusy hf he, nackPkt_answers q 4 rfl, rfl⟩⟩
  · obtain ⟨hst, hname, hreach, slots, hs⟩ := landIn_lands (s.making q) p hb
    exact ⟨answerPkt_answers q _ _ _ (by rw [hs]; rfl), ⟨hst, hname⟩, hreach, by rw [hs]; rfl⟩
  · exact ⟨answerPkt_answers q _ _ _ (setLandQ_pkts ..), (s.making q).landQ_setLandQ u n _⟩

end Sys2Proof.Machine
end

section
/-! PROOFS. A quench that meets a route it cannot walk: the one system word of CPY that writes memory. -/

namespace Sys2Proof.Machine

/-! ### `cpy.quench` on an entry whose string is refused (R89, R395)

A quench goes out on every valid route entry 0x7E0 to 0x7FF.  An entry whose string the walk refuses loses its VALID bit (R89), which stands in the core's memory. -/

/-- Bit VALID of route entry 0x7E0 of core 0 of bed 0, in the last byte of the entry. -/
def peerEntryFlags : Nat := coreKey 0 0 (routeOff 0 + 16 * 0x7E0) + 15

/-- A slot in system mode about to quench context 0, whose first peer entry is valid and names the string 0, which no walk ends. -/
def malformedPeer : State :=
  { State.reset with
    slots := [(0, { Slot.empty with st := .run, th := { Thread.zero with mode := true } })]
    feat := BitVec.allOnes 256
    cur := Cur.none
    mem := [(peerEntryFlags, 4)] }

/-- The word completes, and the entry's VALID bit has gone from memory. -/
theorem malformedPeer_invalidated : (match exec (.cpyQuench 1) malformedPeer with
    | .next u => u.cur.ended == .no && u.mem != malformedPeer.mem
    | _ => false) = true := by
  decide +kernel

/-- Refutes O51: a `cpy.quench` that meets a malformed route entry clears its VALID bit in memory. -/
theorem not_memoryFrame : ¬ Obligations.MemoryFrame := by
  unfold Obligations.MemoryFrame
  intro h
  have hinv := malformedPeer_invalidated
  split at hinv
  case h_1 u hu =>
    simp only [Bool.and_eq_true, beq_iff_eq, bne_iff_ne] at hinv
    obtain ⟨hended, hmem⟩ := hinv
    exact hmem (h (.cpyQuench 1) malformedPeer u 0x20005800 (by decide +kernel) hu hended (by decide) (by simp) (by simp) (by simp) (by decide))
  case h_2 => cases hinv

end Sys2Proof.Machine
end

section
/-! PROOFS. `isync` while a line is on its way to its core's instruction cache. -/

namespace Sys2Proof.Machine

/-! ### `isync` and the lines on their way (R60, R335)

`isync` empties the instruction cache, and a line that another slot of the core has asked for does not enter it after all: the model marks the request. -/

/-- A line asked for by slot 1 of core 0 of bed 0. -/
def lineAsked : Pkt := mkPkt State.reset ⟨0, 0, 1⟩ 1 8 0 (.load 64 true)

/-- Slot 0 of the same core about to run `isync`, with nothing of its own outstanding. -/
def neighbourFetching : State :=
  { State.reset with
    slots := [(0, { Slot.empty with st := .run })]
    feat := BitVec.allOnes 256
    cur := Cur.none
    pkts := [lineAsked] }

theorem neighbourFetching_settled : Settled neighbourFetching := by
  unfold Settled NoneSent; decide +kernel

/-- The word marks the request. -/
theorem neighbourFetching_marked : (match exec .isync neighbourFetching with
    | .next u => u.pkts != neighbourFetching.pkts
    | _ => false) = true := by
  decide +kernel

theorem State.retired_pkts (s : State) : s.retired.pkts = s.pkts := by
  unfold State.retired State.retireTo
  split <;> rfl

/-- Refutes O13: an `isync` besides marks the requests for lines on their way to its core's instruction cache. -/
theorem not_fences : ¬ Obligations.Fences := by
  unfold Obligations.Fences
  intro h
  obtain ⟨-, -, -, -, -, hisync⟩ := h neighbourFetching 0 0 0 neighbourFetching_settled
  have hmark := neighbourFetching_marked
  rw [hisync (by unfold Admitted; decide +kernel)] at hmark
  simp only [State.retired_pkts, bne_iff_ne] at hmark
  exact hmark rfl

end Sys2Proof.Machine
end

section
/-! PROOFS. A store of a timed block while its core's code table is being filled. -/

namespace Sys2Proof.Machine

/-! ### A store in a block that meets a code-table refill (R54, R204)

The refill of the code table stands before the store in the core's store order.  Outside a block the store would wait for it; in a block it has missed its cycle, which
is a timing violation, and writes nothing at its address. -/

/-- A slot inside a block about to store the byte 1 at offset 0x1000 of its own memory, while its core fills code table 0.  TD is set, so that the trap leaves memory as
it was: it would else write its frame there, with values the spec leaves free. -/
def storeDuringRefill : State :=
  ({ State.reset with
    slots := [(0, { Slot.empty with st := .run, blk := some default, th := { Thread.zero with td := true, g := ((Vector.replicate 32 0).set 1 0xF000F00000001000).set 2 1 } })]
    feat := BitVec.allOnes 256
    cur := Cur.none } : State).modCoreAt ⟨0, 0, 0⟩ fun c => { c with ctBusy := some (0, 0) }

/-- After the word memory is not what the store would have made of it. -/
theorem storeDuringRefill_notMade : (match exec (.stB 2 1 0) storeDuringRefill with
    | .next u => u.mem != memSetMany storeDuringRefill.mem (coreKey 0 0 0x1000) (bytesOf 1 (storeDuringRefill.opG 2).toNat)
    | _ => false) = true := by
  decide +kernel

/-- Refutes O11: in a block, a store that meets a code-table refill of its core takes the timing-violation trap and is not made. -/
theorem not_storeResults : ¬ Obligations.StoreResults := by
  unfold Obligations.StoreResults
  rintro ⟨-, h, -⟩
  obtain ⟨hbyte, -⟩ := h storeDuringRefill 2 1 0 0 0 0x1000 (by decide +kernel) (by decide +kernel)
  obtain ⟨u, hu, hmem, -⟩ := hbyte (by unfold OwnAt; decide +kernel) (by unfold Admitted; decide +kernel)
  have hnot := storeDuringRefill_notMade
  rw [hu] at hnot
  exact bne_iff_ne.mp hnot hmem

end Sys2Proof.Machine
end

section
/-! PROOFS. Reservations and FUTURE words of the own memory (R207, R326 to R329). -/

namespace Sys2Proof.Machine

/-! ### What taking away and placing a reservation changes -/

theorem dropResv_look (s : State) (who j : Nat) :
    Tbl.look (dropResv s who).slots j = (Tbl.look s.slots j).map fun x => if j = who then { x with resv := none } else x := by
  rw [dropResv, Tbl.look_map _ (fun e => by split <;> rfl)]
  congr 1; funext x; dsimp only; split <;> rfl

theorem dropResv_sameThreads (s : State) (who : Nat) : SameThreads s (dropResv s who) :=
  .of_map _ (fun e => by split <;> rfl) (fun e => by split <;> rfl) rfl

/-- Evicting reservations changes slots only, and a listed slot keeps its thread. -/
theorem dropResvs_frame (l : List (Nat × Nat)) (s : State) : ∃ slots, l.foldl (fun t e => dropResv t e.1) s = { s with slots := slots } := by
  induction l generalizing s with
  | nil => exact ⟨_, rfl⟩
  | cons e l ih => exact ih (dropResv s e.1)

theorem dropResvs_look (l : List (Nat × Nat)) {s : State} {j : Nat} {x : Slot} (h : Tbl.look s.slots j = some x) :
    ∃ y, Tbl.look (l.foldl (fun t e => dropResv t e.1) s).slots j = some y ∧ y.th = x.th := by
  induction l generalizing s x with
  | nil => exact ⟨x, h, rfl⟩
  | cons e l ih =>
    have hd := dropResv_look s e.1 j
    rw [h, Option.map_some] at hd
    obtain ⟨y, hy, hth⟩ := ih hd
    exact ⟨y, hy, hth.trans (by split <;> rfl)⟩

/-- A slot is given a reservation. -/
def State.giveResv (s : State) (who k : Nat) : State :=
  { s with slots := s.slots.map fun x => if x.1 = who then (x.1, { x.2 with resv := some k, resTurn := none }) else x }

theorem State.giveResv_look (s : State) (who k : Nat) :
    Tbl.look (s.giveResv who k).slots who = (Tbl.look s.slots who).map fun x => { x with resv := some k, resTurn := none } := by
  rw [State.giveResv, Tbl.look_map _ (fun e => by split <;> rfl)]
  congr 1; funext x; exact congrArg Prod.snd (if_pos rfl)

/-- Placing a reservation takes away those it evicts from its bank's table, then gives it to its slot (R326). -/
theorem placeResv_eq (s : State) (who k : Nat) : ∃ resvs, ∃ evict : List (Nat × Nat),
    placeResv s who k = (evict.foldl (fun t e => dropResv t e.1) { s with resvs := resvs }).giveResv who k := ⟨_, _, rfl⟩

/-- Placing a reservation changes slots and the banks' tables only. -/
theorem placeResv_frame (s : State) (who k : Nat) : ∃ slots resvs, placeResv s who k = { s with slots := slots, resvs := resvs } := by
  obtain ⟨resvs, evict, h⟩ := placeResv_eq s who k
  obtain ⟨slots, he⟩ := dropResvs_frame evict { s with resvs := resvs }
  rw [he] at h
  exact ⟨_, resvs, h⟩

/-- The slot it is placed for holds it, with its thread as it was. -/
theorem placeResv_look {s : State} {who : Nat} {x : Slot} (h : Tbl.look s.slots who = some x) (k : Nat) :
    ∃ y, Tbl.look (placeResv s who k).slots who = some y ∧ y.resv = some k ∧ y.th = x.th := by
  obtain ⟨resvs, evict, hp⟩ := placeResv_eq s who k
  obtain ⟨y, hy, hth⟩ := dropResvs_look evict (s := { s with resvs := resvs }) h
  exact ⟨{ y with resv := some k, resTurn := none }, by rw [hp, State.giveResv_look, hy]; rfl, rfl, hth⟩

/-- What a `st.cond` does before it writes: the reservation goes, and the slots that wait with one on the word wake (R326, R327). -/
def State.unreserve (s : State) (who k : Nat) : State := wakeIf (dropResv s who) fun _ w => w == .reserve k

theorem State.unreserve_frame (s : State) (who k : Nat) : ∃ slots, s.unreserve who k = { s with slots := slots } := ⟨_, rfl⟩

theorem State.unreserve_sameThreads (s : State) (who k : Nat) : SameThreads s (s.unreserve who k) :=
  (dropResv_sameThreads s who).trans (wakeIf_sameThreads _ _)

theorem Puts.cur {s t : State} (h : Puts s t) : t.cur = s.cur := by obtain ⟨_, _, _, _, _, _, rfl⟩ := h; rfl

/-! ### The operations at the word's home (R326, R329) -/

section
variable {s : State} {who k : Nat}

/-- With no soft error and every write performed, what is taken is what stands in memory. -/
theorem State.take_performed (he : s.errs = []) (hl : Performed s) (n : Nat) : s.take .ls k n who = (s, some (memGetMany s.mem k n)) := by
  rw [State.take_noErrs s .ls k n who he, pathBytes_noLag hl]

theorem rmwWord_ldRes (he : s.errs = []) (hl : Performed s) (hp : protectedBy s who k = false) (hb : behindRes s who k = false) :
    rmwWord s who k .ldRes = (placeResv s who k, .value (BitVec.ofNat 64 (ofBytes (memGetMany s.mem k 8)))) := by
  delta rmwWord
  simp only [State.take_performed he hl, hp, hb, Bool.or_false, Bool.false_eq_true, if_false]

theorem rmwWord_stCond_reserved (hr : (Tbl.get Slot.empty s.slots who).resv = some k) (hp : protectedBy s who k = false) (x : Word) :
    rmwWord s who k (.stCond x) = ((s.unreserve who k).put .ls k (bytesOf 8 x.toNat), .value 1) := by
  delta rmwWord
  simp only [hr, hp, beq_self_eq_true, Bool.not_false, Bool.and_self, if_true]
  rfl

theorem rmwWord_stCond_unreserved (hr : (Tbl.get Slot.empty s.slots who).resv ≠ some k) (x : Word) :
    rmwWord s who k (.stCond x) = (s.unreserve who k, .value 0) := by
  delta rmwWord
  simp only [beq_eq_false_iff_ne.2 hr, Bool.false_and, Bool.false_eq_true, if_false]
  rfl

theorem rmwWord_fput (he : s.errs = []) (x : Word) :
    rmwWord s who k (.fput x) = (setTag (s.put .ls k (bytesOf 8 x.toNat)) k true, .value (if k / 8 ∈ s.tags then 1 else 0)) := by
  have hv : BitVec.ofNat 64 (b2n (tagFull s k)) = if k / 8 ∈ s.tags then 1 else 0 := by
    simp only [tagFull, List.contains_eq_mem]
    by_cases h : k / 8 ∈ s.tags <;> simp [h, b2n]
  delta rmwWord
  simp only [State.take_noErrs s .ls k 8 (who / 8) he, hv]

theorem rmwWord_fget_full (he : s.errs = []) (hl : Performed s) (ht : k / 8 ∈ s.tags) :
    rmwWord s who k .fget = (s, .value (BitVec.ofNat 64 (ofBytes (memGetMany s.mem k 8)))) := by
  have hf : tagFull s k = true := by simpa [tagFull] using ht
  delta rmwWord
  simp only [State.take_performed he hl, hf, if_true]

theorem rmwWord_ftake_full (he : s.errs = []) (hl : Performed s) (ht : k / 8 ∈ s.tags) :
    rmwWord s who k .ftake =
      ({ s with tags := s.tags.filter (· != k / 8) }, .value (BitVec.ofNat 64 (ofBytes (memGetMany s.mem k 8)))) := by
  have hf : tagFull s k = true := by simpa [tagFull] using ht
  delta rmwWord
  simp only [State.take_performed he hl, hf, if_true]
  rfl

theorem rmwWord_fget_empty (he : s.errs = []) (ht : k / 8 ∉ s.tags) : rmwWord s who k .fget = (registerWaiter s who k, .park (.future k)) := by
  have hf : tagFull s k = false := by simpa [tagFull] using ht
  delta rmwWord
  simp only [State.take_noErrs s .ls k 8 (who / 8) he, hf, Bool.false_eq_true, if_false]

end

/-! ### An operation on a word of the own memory -/

/-- The key of an offset of the core's own memory. -/
abbrev State.ownKey (s : State) (off : Nat) : Nat := coreKey s.cur.place.unit s.cur.place.core off

/-- The slot's core answers an operation on a doubleword of its own memory at once: it is quiet, in no block, with its code table at rest and nothing answered yet. -/
structure AnswersRmw (s : State) (pa : Word) (w off : Nat) : Prop where
  quiet : Quiet s
  noBlock : s.here.blk = none
  unanswered : s.here.resp = []
  tableRests : (s.coreAt s.cur.place).ctBusy = none
  ownWord : OwnAt s.cur.place pa 8 8 w off

theorem AnswersRmw.accessing_atomic {s : State} {pa : Word} {w off : Nat} (h : AnswersRmw s pa w off) (f : State → Acc → Res) :
    accessing s pa 8 8 .atomic false f = f s (ownAcc s.cur.place pa w off) :=
  accessing_own (kind := .atomic) h.ownWord nofun nofun f

theorem AnswersRmw.accessing_future {s : State} {pa : Word} {off : Nat} (h : AnswersRmw s pa 1 off) (f : State → Acc → Res) :
    accessing s pa 8 8 .future false f = f s (ownAcc s.cur.place pa 1 off) :=
  accessing_own (kind := .future) h.ownWord (fun _ => rfl) nofun f

section
variable {s t : State} {pa : Word} {w off : Nat} (h : AnswersRmw s pa w off) {op : Rmw} (hop : rmwReady s s.cur.place op = true) (f : State → Word → Res)
include h hop

/-- The value is in at once, and the operation is an acquire (R193, R324). -/
theorem rmwAccess_value {v : Word} (hv : rmwWord s (slotKey s.cur.place) (s.ownKey off) op = (t, .value v)) :
    rmwAccess s (ownAcc s.cur.place pa w off) 8 op f = f (t.acquires (s.ownRng w off) 8) v := by
  obtain ⟨-, -, -, hoff, -⟩ := h.ownWord
  rw [rmwAccess_own h.quiet h.noBlock h.unanswered h.tableRests _ _ _ _ hoff op hop, hv]
  rfl

/-- The slot waits for the FUTURE word. -/
theorem rmwAccess_park (hp : rmwWord s (slotKey s.cur.place) (s.ownKey off) op = (t, .park (.future (s.ownKey off)))) (ht : t.here.blk = none) :
    rmwAccess s (ownAcc s.cur.place pa w off) 8 op f = .wait t (.future (s.ownKey off)) true := by
  obtain ⟨-, -, -, hoff, -⟩ := h.ownWord
  rw [rmwAccess_own h.quiet h.noBlock h.unanswered h.tableRests _ _ _ _ hoff op hop, hp]
  simp [State.waitAt, ht]

end

/-! ### What a completed word leaves of its slot -/

/-- An acquire changes the record of what its thread has observed, and nothing else (R193, R201). -/
theorem State.acquires_frame (s : State) (r : Rng) (n : Nat) : Observes s (s.acquires r n) :=
  (observeLoad_frame s s.cur.place r n).trans (acquireKeys_frame _ _ _)

@[simp] theorem State.here_modHere (s : State) (f : Slot → Slot) : (s.modHere f).here = f s.here := s.slot_modSlot s.cur.place f

theorem State.retired_resv (s : State) : (s.retired.slot s.cur.place).resv = s.here.resv := by
  unfold State.retired State.retireTo
  split
  · rfl
  · rw [State.slot_setSlot, Slot.retire]
    split <;> rfl

/-- A word that writes a general register and completes leaves memory and its slot's reservation, and of the general registers changes that one. -/
theorem setG_retired_frame (s : State) (d : BitVec 5) (v : Word) :
    ((s.setG d v).retired.slot s.cur.place).resv = s.here.resv ∧ ((s.setG d v).retired.slot s.cur.place).th.g = (s.here.th.writeG d v).g ∧
      (s.setG d v).retired.mem = s.mem := by
  obtain ⟨⟨slots, hslots⟩, hg⟩ := (s.setG d v).retired_frame
  have hhere : (s.setG d v).here = { s.here with th := s.here.th.writeG d v } := State.here_modTh s _
  refine ⟨(State.retired_resv (s.setG d v)).trans (by rw [hhere]), hg.trans (congrArg (fun x : Slot => x.th.g) hhere), by rw [hslots]; rfl⟩

/-- The same of a word that is an acquire. -/
theorem acquires_retired_frame (t : State) (r : Rng) (n : Nat) (d : BitVec 5) (v : Word) :
    (((t.acquires r n).setG d v).retired.slot t.cur.place).resv = t.here.resv ∧
      (((t.acquires r n).setG d v).retired.slot t.cur.place).th.g = (t.here.th.writeG d v).g ∧ ((t.acquires r n).setG d v).retired.mem = t.mem := by
  obtain ⟨seen, heard, h⟩ := t.acquires_frame r n
  rw [h]
  exact setG_retired_frame { t with seen := seen, heard := heard } d v

/-- The same of one that besides takes its slot's reservation away. -/
theorem acquires_unreserved_frame (t : State) (r : Rng) (n : Nat) (d : BitVec 5) (v : Word) :
    ((((t.acquires r n).modHere fun x => { x with resv := none }).setG d v).retired.slot t.cur.place).resv = none ∧
      ((((t.acquires r n).modHere fun x => { x with resv := none }).setG d v).retired.slot t.cur.place).th.g = (t.here.th.writeG d v).g ∧
      (((t.acquires r n).modHere fun x => { x with resv := none }).setG d v).retired.mem = t.mem := by
  obtain ⟨seen, heard, h⟩ := t.acquires_frame r n
  rw [h]
  obtain ⟨hr, hg, hm⟩ := setG_retired_frame (({ t with seen := seen, heard := heard } : State).modHere fun x => { x with resv := none }) d v
  exact ⟨hr.trans (by rw [State.here_modHere]), hg.trans (by rw [State.here_modHere]; rfl), hm⟩

/-! ### The words -/

section
variable {s : State} {d a b : BitVec 5} {w off : Nat} (h : AnswersRmw s (s.opG a) w off)
include h

/-- `ld.res` loads the word and reserves it (R326). -/
theorem ldRes_reserves (hp : protectedBy s (slotKey s.cur.place) (s.ownKey off) = false)
    (hb : behindRes s (slotKey s.cur.place) (s.ownKey off) = false) (hadm : Admitted (.ldRes d a) s)
    (hl : Tbl.look s.slots (slotKey s.cur.place) = some s.here) :
    ∃ u, exec (.ldRes d a) s = .next u ∧ (u.slot s.cur.place).resv = some (s.ownKey off) ∧
      (u.slot s.cur.place).th.g = (s.here.th.writeG d (BitVec.ofNat 64 (ofBytes (s.ownBytes s.cur.place off 8)))).g ∧ u.mem = s.mem := by
  obtain ⟨-, hsbuf, -, herrs, hlag, -⟩ := h.quiet
  obtain ⟨y, hlook, hresv, hth⟩ := placeResv_look hl (s.ownKey off)
  obtain ⟨slots, resvs, hplace⟩ := placeResv_frame s (slotKey s.cur.place) (s.ownKey off)
  rw [exec_ldRes, execLdRes, word_admitted hadm, h.accessing_atomic,
    rmwAccess_value h (by simp [rmwReady, hsbuf]) _ (rmwWord_ldRes herrs hlag hp hb), done_ok]
  rw [hplace] at hlook ⊢
  obtain ⟨hr, hg, hm⟩ := acquires_retired_frame ({ s with slots := slots, resvs := resvs } : State) (s.ownRng w off) 8 d
    (BitVec.ofNat 64 (ofBytes (s.ownBytes s.cur.place off 8)))
  have hhere : ({ s with slots := slots, resvs := resvs } : State).here = y := congrArg (Option.getD · Slot.empty) hlook
  rw [hhere] at hr hg
  rw [Thread.writeG_eq, hth] at hg
  exact ⟨_, rfl, hr.trans hresv, hg, hm⟩

/-- A `st.cond` whose operation at the home leaves `t` and gives `v` takes the reservation away. -/
theorem stCond_gives {t : State} {v : Word} (hadm : Admitted (.stCond d a b) s) (ht : t.cur = s.cur) (hth : SameThreads s t)
    (hv : rmwWord s (slotKey s.cur.place) (s.ownKey off) (.stCond (s.opG b)) = (t, .value v)) :
    ∃ u, exec (.stCond d a b) s = .next u ∧ (u.slot s.cur.place).resv = none ∧ (u.slot s.cur.place).th.g = (s.here.th.writeG d v).g ∧ u.mem = t.mem := by
  obtain ⟨-, hsbuf, -⟩ := h.quiet
  rw [exec_stCond, execStCond, word_admitted hadm, h.accessing_atomic,
    rmwAccess_value h (by simp [rmwReady, hsbuf]) _ hv, done_ok]
  obtain ⟨hr, hg, hm⟩ := acquires_unreserved_frame t (s.ownRng w off) 8 d v
  rw [State.here, hth t.cur.place] at hg
  rw [ht] at hr hg
  exact ⟨_, rfl, hr, hg, hm⟩

/-- On the reserved word `st.cond` writes and gives 1 (R326). -/
theorem stCond_reserved (hp : protectedBy s (slotKey s.cur.place) (s.ownKey off) = false) (hr : s.here.resv = some (s.ownKey off)) (hadm : Admitted (.stCond d a b) s) :
    ∃ u, exec (.stCond d a b) s = .next u ∧ (u.slot s.cur.place).resv = none ∧ (u.slot s.cur.place).th.g = (s.here.th.writeG d 1).g ∧
      u.mem = memSetMany s.mem (s.ownKey off) (bytesOf 8 (s.opG b).toNat) := by
  obtain ⟨-, -, -, herrs, -⟩ := h.quiet
  have hput := (s.unreserve (slotKey s.cur.place) (s.ownKey off)).put_puts herrs .ls (s.ownKey off) (bytesOf 8 (s.opG b).toNat)
  obtain ⟨u, hu, hresv, hg, hm⟩ := stCond_gives h hadm hput.cur ((s.unreserve_sameThreads _ _).trans (State.put_sameThreads _ _ _ _))
    (rmwWord_stCond_reserved hr hp (s.opG b))
  exact ⟨u, hu, hresv, hg, hm.trans (State.put_mem _ _ _ _ herrs)⟩

/-- On any other word it writes nothing and gives 0 (R326). -/
theorem stCond_unreserved (hr : s.here.resv ≠ some (s.ownKey off)) (hadm : Admitted (.stCond d a b) s) :
    ∃ u, exec (.stCond d a b) s = .next u ∧ (u.slot s.cur.place).resv = none ∧ (u.slot s.cur.place).th.g = (s.here.th.writeG d 0).g ∧ u.mem = s.mem :=
  stCond_gives h (t := s.unreserve (slotKey s.cur.place) (s.ownKey off)) hadm rfl (s.unreserve_sameThreads _ _)
    (rmwWord_stCond_unreserved hr (s.opG b))

end

section
variable {s : State} {d a b : BitVec 5} {off : Nat} (h : AnswersRmw s (s.opG a) 1 off)
include h

/-- `fput` writes the word, makes it full and gives whether it was (R329). -/
theorem fput_fills (hack : ackedFor s s.cur.place 2 = true) (hadm : Admitted (.fput d a b) s) :
    exec (.fput d a b) s = .next (((setTag (s.put .ls (s.ownKey off) (bytesOf 8 (s.opG b).toNat)) (s.ownKey off) true).acquires
      (s.ownRng 1 off) 8).setG d (if s.ownKey off / 8 ∈ s.tags then 1 else 0)).retired := by
  obtain ⟨-, hsbuf, -, herrs, -⟩ := h.quiet
  rw [exec_fput, execFput, word_admitted hadm, h.accessing_future,
    rmwAccess_value h (by simp [rmwReady, hsbuf, hack]) _ (rmwWord_fput herrs (s.opG b)), done_ok]

/-- `fget` gives a full word (R329). -/
theorem fget_full (ht : s.ownKey off / 8 ∈ s.tags) :
    Acquires (.fget d a) d s (s.ownRng 1 off) 8 (BitVec.ofNat 64 (ofBytes (s.ownBytes s.cur.place off 8))) := by
  intro hadm
  obtain ⟨-, hsbuf, -, herrs, hlag, -⟩ := h.quiet
  rw [exec_fget, execFget, word_admitted hadm, h.accessing_future,
    rmwAccess_value h (by simp [rmwReady, hsbuf]) _ (rmwWord_fget_full herrs hlag ht), done_ok]
  rfl

/-- `ftake` gives a full word and empties it (R329). -/
theorem ftake_full (ht : s.ownKey off / 8 ∈ s.tags) (hadm : Admitted (.ftake d a) s) :
    exec (.ftake d a) s = .next ((({ s with tags := s.tags.filter (· != s.ownKey off / 8) } : State).acquires
      (s.ownRng 1 off) 8).setG d (BitVec.ofNat 64 (ofBytes (s.ownBytes s.cur.place off 8)))).retired := by
  obtain ⟨-, hsbuf, -, herrs, hlag, -⟩ := h.quiet
  rw [exec_ftake, execFtake, word_admitted hadm, h.accessing_future,
    rmwAccess_value h (by simp [rmwReady, hsbuf]) _ (rmwWord_ftake_full herrs hlag ht), done_ok]
  rfl

theorem registered_noBlock (who k : Nat) : (registerWaiter s who k).here.blk = none := by
  obtain ⟨waiters, hw⟩ := registerWaiter_waiters s who k
  rw [hw]
  exact h.noBlock

/-- On an empty word `fget` waits, registered (R207, R329). -/
theorem fget_empty (ht : s.ownKey off / 8 ∉ s.tags) (hadm : Admitted (.fget d a) s) :
    exec (.fget d a) s = done (.wait (registerWaiter s (slotKey s.cur.place) (s.ownKey off)) (.future (s.ownKey off)) true) := by
  obtain ⟨-, hsbuf, -, herrs, -⟩ := h.quiet
  rw [exec_fget, execFget, word_admitted hadm, h.accessing_future,
    rmwAccess_park h (by simp [rmwReady, hsbuf]) _ (rmwWord_fget_empty herrs ht) (registered_noBlock h _ _)]

/-- On an empty word `ftake` waits, registered (R207, R329). -/
theorem ftake_empty (ht : s.ownKey off / 8 ∉ s.tags) (hadm : Admitted (.ftake d a) s) :
    exec (.ftake d a) s = done (.wait (registerWaiter s (slotKey s.cur.place) (s.ownKey off)) (.future (s.ownKey off)) true) := by
  obtain ⟨-, hsbuf, -, herrs, -⟩ := h.quiet
  rw [exec_ftake, execFtake, word_admitted hadm, h.accessing_future,
    rmwAccess_park h (by simp [rmwReady, hsbuf]) _ (rmwWord_ftake_empty herrs ht _) (registered_noBlock h _ _)]

end

section
variable {s : State} {d : BitVec 5} {k : Nat}

/-- `wres` without a reservation gives 1 at once (R326). -/
theorem wres_unreserved (hr : s.here.resv = none) : Gives (.wres d) d s 1 := by
  intro hadm
  rw [exec_wres, execWres, word_admitted hadm]
  simp only [hr]
  exact done_ok _

/-- Once woken it gives 0 (R326). -/
theorem wres_woken (hr : s.here.resv = some k) (hd : Resp.done ∈ s.here.resp) : Gives (.wres d) d s 0 := by
  intro hadm
  rw [exec_wres, execWres, word_admitted hadm]
  simp only [hr, List.contains_iff_mem.2 hd, if_true]
  exact done_ok _

/-- Until then it waits, registered (R326). -/
theorem wres_waits (hr : s.here.resv = some k) (hd : Resp.done ∉ s.here.resp) (hb : s.here.blk = none) (hadm : Admitted (.wres d) s) :
    exec (.wres d) s = done (.wait (registerWaiter s (slotKey s.cur.place) k) (.reserve k) true) := by
  have hd : s.here.resp.contains .done = false := by simpa using hd
  rw [exec_wres, execWres, word_admitted hadm]
  simp only [hr, hd, hb, Option.isSome_none, Bool.false_eq_true, if_false]

end

/-- Settles O15, word by word: each is an operation on a doubleword that the slot's core answers at once, and `wres` looks at its slot only. -/
theorem reservationsAndFutures : Obligations.ReservationsAndFutures := by
  unfold Obligations.ReservationsAndFutures
  refine ⟨fun s d a b w off hq hb hr hc ho hp hbehind => ?_, fun s d k => ?_, fun s d a b off hq hb hr hc ho => ?_⟩
  · have h : AnswersRmw s (s.opG a) w off := ⟨hq, hb, hr, hc, ho⟩
    exact ⟨ldRes_reserves h hp hbehind, stCond_reserved h hp, stCond_unreserved h⟩
  · exact ⟨wres_unreserved, wres_woken, wres_waits⟩
  · have h : AnswersRmw s (s.opG a) 1 off := ⟨hq, hb, hr, hc, ho⟩
    exact ⟨fput_fills h, fun ht => ⟨fget_full h ht, ftake_full h ht⟩, fun ht => ⟨fget_empty h ht, ftake_empty h ht⟩⟩

end Sys2Proof.Machine
end

section
/-! PROOFS. The checks before every word, and what MAJOR tells of a word's feature and slots. -/

namespace Sys2Proof.Machine

/-! ### The checks (R295) -/

/-- Every instruction word runs its meaning behind the checks. -/
theorem exec_eq_word {i : Instr} {n : Nat} (h : encodeNat i = some n) (s : State) : ∃ f, exec i s = word i s f := by
  cases i <;> cases h
  all_goals exact ⟨_, by rfl⟩

/-- A check that a word fails is its trap, wherever the word is not the second of a pair whose first has taken effect (R251). -/
theorem exec_refused {i : Instr} {n : Nat} (h : encodeNat i = some n) {s : State} (hc : s.cur.commit = false) {t : Trap} (ht : (gateOf i).check s = some t) :
    exec i s = done (.trap s t) := by
  obtain ⟨f, hf⟩ := exec_eq_word h s
  rw [hf, word, hc, ht]
  rfl

section
variable {g : Gate} {s : State}

/-- The slot kinds that a gate lets in (R214). -/
def Gate.Takes (g : Gate) (s : State) : Prop := g.slots = 0 ∨ s.cur.place.heavy = true ∨ (g.slots = 1 ∧ s.cur.place.rim = true ∧ s.sysMode = true)

theorem Gate.check_feature (h : ¬ s.feat.getLsbD g.feature = true) : g.check s = some (Trap.of 1 2 s.wordPc) := by
  rw [Gate.check, if_pos (eq_false_of_ne_true h)]

/-- The slot check of a gate, as it is computed. -/
theorem Gate.takes_iff : g.Takes s ↔ (if g.slots = 0 then true else if g.slots = 1 then s.cur.place.heavy || (s.cur.place.rim && s.sysMode)
    else s.cur.place.heavy) = true := by
  unfold Gate.Takes
  split_ifs with h0 h1
  · simp [h0]
  · simp [h1]
  · simp [h0, h1]

theorem Gate.check_slot (hf : s.feat.getLsbD g.feature = true) (h : ¬ g.Takes s) : g.check s = some (Trap.of 1 3 s.wordPc) := by
  rw [Gate.takes_iff] at h
  rw [Gate.check, if_neg (by simp [hf]), if_pos (eq_false_of_ne_true h)]

theorem Gate.check_sys (hf : s.feat.getLsbD g.feature = true) (hk : g.Takes s) (hg : g.sys = true) (hm : s.sysMode = false) :
    g.check s = some (Trap.of 5 2 s.wordPc) := by
  rw [Gate.takes_iff] at hk
  rw [Gate.check, if_neg (by simp [hf]), if_neg (by simp [hk]), if_pos ⟨hg, hm⟩]

end

/-! ### Feature and slots by MAJOR (R214, R294) -/

/-- Whether a word is `mcmd`, the one of its MAJOR that any slot may run. -/
def isMcmd : Instr → Bool
  | .mcmd _ => true
  | _ => false

theorem isMcmd_iff (i : Instr) : isMcmd i = true ↔ ∃ a, i = .mcmd a := by
  unfold isMcmd
  split <;> simp_all

/-- What MAJOR tells of a word's gate, as one test. -/
def gateFits (i : Instr) (major : Nat) : Bool :=
  (gateOf i).feature == (if major = 0x71 then 1 else if major = 0x72 then 2 else if major = 0x21 then 3 else if major = 0x22 then 4
    else if i = .follow ∨ i = .unfollow then 5 else if major = 0x26 then 6 else if major = 0x1C then 7 else 0) &&
  (!decide (major = 0x2A ∨ major = 0x2B ∨ (0x60 ≤ major ∧ major ≤ 0x6C ∧ major ≠ 0x68)) || (gateOf i).slots == 1) &&
  (!decide (major = 0x30 ∨ major = 0x31 ∨ (major = 0x32 ∧ isMcmd i = false) ∨ (0x70 ≤ major ∧ major ≤ 0x73) ∨ i = .follow) || (gateOf i).slots == 2) &&
  (!decide (major < 0x21 ∨ major = 0x22 ∨ isMcmd i = true ∨ (0x40 ≤ major ∧ major < 0x60)) || (gateOf i).slots == 0)

/-- MAJOR is that of the word's constant, whose fields stand below it (R289). -/
theorem major_add_fields {c r : Nat} (h : c % 2 ^ 24 + r < 2 ^ 24) : (c + r) / 2 ^ 24 % 128 = c / 2 ^ 24 % 128 := by omega

/-- Row by row of the opcode table; `lih` is the one word with two values of MAJOR. -/
theorem gateFits_of_encode {i : Instr} {n : Nat} (h : encodeNat i = some n) : gateFits i (n / 2 ^ 24 % 128) = true := by
  cases i <;> cases h
  case isync | psendEClose | xbegin | xend | follow | unfollow | home | eret | halt => rfl
  case lih j d k i =>
    generalize hm : (_ : Nat) / 2 ^ 24 % 128 = m
    obtain rfl | rfl : m = 0x48 ∨ m = 0x49 := by omega
    · rfl
    · rfl
  all_goals
    simp (disch := omega) only [major_add_fields, Nat.add_assoc]
    rfl

/-! ### Privilege (R390, R414) -/

/-- The privileged words. -/
theorem gateOf_sys_iff (i : Instr) : (gateOf i).sys = true ↔ i = .eret ∨ (∃ a, i = .cpyQuench a ∨ i = .msave a ∨ i = .mload a) ∨
    (∃ d k, i = .mfsr d k ∧ 8 ≤ k.toNat ∧ k.toNat ≤ 11) ∨ (∃ a k, i = .mtsr a k ∧ (k = 3 ∨ (8 ≤ k.toNat ∧ k.toNat ≤ 11))) := by
  have hk : ∀ k : BitVec 8, k = 3 ↔ k.toNat = 3 := fun k => (BitVec.toNat_inj (y := 3)).symm
  constructor
  · intro h
    cases i
    case eret => exact .inl rfl
    case cpyQuench a => exact .inr (.inl ⟨a, .inl rfl⟩)
    case msave a => exact .inr (.inl ⟨a, .inr (.inl rfl)⟩)
    case mload a => exact .inr (.inl ⟨a, .inr (.inr rfl)⟩)
    case mfsr d k => exact .inr (.inr (.inl ⟨d, k, rfl, of_decide_eq_true h⟩))
    case mtsr a k => exact .inr (.inr (.inr ⟨a, k, rfl, (of_decide_eq_true h).imp_left (hk k).2⟩))
    all_goals exact absurd h Bool.false_ne_true
  · rintro (rfl | ⟨a, rfl | rfl | rfl⟩ | ⟨d, k, rfl, h⟩ | ⟨a, k, rfl, h⟩)
    · rfl
    · rfl
    · rfl
    · rfl
    · exact decide_eq_true h
    · exact decide_eq_true (h.imp_left (hk k).1)

/-- Settles O52: the three checks in their order, and the table row by row. -/
theorem wordChecks : Obligations.WordChecks := by
  unfold Obligations.WordChecks
  intro i s n hn hc
  dsimp only
  have hg := gateFits_of_encode hn
  have hm : (∀ a, i ≠ .mcmd a) ↔ isMcmd i = false := by rw [← Bool.not_eq_true, isMcmd_iff, not_exists]
  simp only [gateFits, Bool.and_eq_true, Bool.or_eq_true, Bool.not_eq_true', beq_iff_eq, decide_eq_false_iff_not, ← imp_iff_not_or] at hg
  obtain ⟨⟨⟨hfeature, hvector⟩, hheavy⟩, hany⟩ := hg
  refine ⟨fun hf => exec_refused hn hc (Gate.check_feature hf), fun hf hk => exec_refused hn hc (Gate.check_slot hf hk),
    fun hf hk hp hu => exec_refused hn hc (Gate.check_sys hf hk hp hu), hfeature, hvector, ?_, ?_, gateOf_sys_iff i⟩
  · rw [hm]; exact hheavy
  · rw [← isMcmd_iff]; exact hany

end Sys2Proof.Machine
end

section
/-! PROOFS. `bar.arrive` on a core barrier that holds the arrivals of two phases. -/

namespace Sys2Proof.Machine

/-! ### An arrival that completes two phases (R219)

The arrival that completes a phase leaves the surplus to the next one.  Where the surplus is enough for that one too, the barrier besides owes its completion, which comes
with the timestamp's next value: the word leaves more than the new name and the new count. -/

/-- A slot about to arrive on a barrier of count 1 at which one arrival stands already. -/
def twoPhases : State :=
  ({ State.reset with
    slots := [(0, { Slot.empty with st := .run })]
    feat := BitVec.allOnes 256
    ts := 1
    cur := Cur.none } : State).setBar 0 0 5 { Bar.empty with kind := 1, count := 1, arrived := 1 }

/-- After the word the barrier owes a completion. -/
theorem twoPhases_owed : (match exec (.barArrive 4 5) twoPhases with
    | .next u => (u.bar 0 0 5).owed
    | _ => false) = true := by
  decide +kernel

/-- Refutes O17: with arrivals enough for a second phase, the arrival that completes the first leaves a barrier that owes the second's completion. -/
theorem not_barrierArrivals : ¬ Obligations.BarrierArrivals := by
  unfold Obligations.BarrierArrivals
  rintro ⟨-, h⟩
  obtain ⟨u, hu, -, -, -, -, -, -, hcompletes, -⟩ := h twoPhases 4 5 (by decide +kernel) (by decide +kernel) (by decide +kernel) (by decide +kernel)
    (by unfold Admitted; decide +kernel)
  have howed := twoPhases_owed
  rw [hu] at howed
  have hbar := hcompletes (by decide +kernel) (by decide +kernel)
  have hnot : (u.bar 0 0 5).owed = false := (congrArg Bar.owed hbar).trans (by decide +kernel)
  exact Bool.false_ne_true (hnot.symm.trans howed)

end Sys2Proof.Machine
end
section
/-! PROOFS. `bar.wait` and `bar.try`: what a wait on a phase that is past leaves, and what a token makes of either word. -/

namespace Sys2Proof.Machine

/-! ### What a completed word leaves of its state -/

theorem State.retireTo_frame (s : State) (t : Word) (al : Option Nat) : ∃ slots, s.retireTo t al = { s with slots := slots } := by
  unfold State.retireTo
  split <;> exact ⟨_, rfl⟩

/-- What a completed word leaves of its slot: the second word of a pair leaves it as it is (R284). -/
theorem State.retireTo_slot (s : State) (t : Word) (al : Option Nat) :
    (s.retireTo t al).slot s.cur.place = if s.cur.half = .a then s.here else s.here.retire (s.cur.half == .lone) t al := by
  unfold State.retireTo
  split
  · rfl
  · exact s.slot_setSlot _ _

/-- A word that completes changes no register, and of its arrival record nothing. -/
theorem Slot.retire_keeps (x : Slot) (lone : Bool) (t : Word) (al : Option Nat) :
    (x.retire lone t al).th = { x.th with pc := t } ∧ (x.retire lone t al).aligned = al ∧ (x.retire lone t al).arvV = x.arvV := by
  unfold Slot.retire
  split <;> exact ⟨rfl, rfl, rfl⟩

/-! ### A wait on a phase that is past (R201, R206, R223, R340) -/

/-- A phase closed changes what is pending, and nothing else (R203, R206). -/
theorem closePhase_frame (s : State) (p : Place) (b : Bar) : ∃ lag, closePhase s p b = { s with lag := lag } := by
  unfold closePhase
  split <;> exact ⟨_, rfl⟩

/-- What a wait leaves that finds its phase past, but for `cut` and the completion of its word; `used` when the arrival record gave its token. -/
def State.phasePassed (s : State) (n : Nat) (used : Bool) : State :=
  let p := s.cur.place
  let b := s.bar p.unit p.core n
  let s := if used then s.modHere fun x => { x with arvV := false } else s
  let s := closePhase s p b
  let s := acquireKeys s p [barrierKey s p.unit p.core n]
  s.modHere fun x => { x with lastBlk := match x.lastBlk with
    | some (a, l, d) => if b.kind = 2 ∧ b.level = l then none else some (a, l, d)
    | none => none }

/-- It changes its slot's record and last block, what is pending and what its thread has observed. -/
theorem State.phasePassed_eq (s : State) (n : Nat) (used : Bool) : ∃ lag seen heard last, s.phasePassed n used =
    ({ s with lag := lag, seen := seen, heard := heard } : State).setSlot s.cur.place { s.here with arvV := s.here.arvV && !used, lastBlk := last } := by
  unfold State.phasePassed
  extract_lets p b t u v
  obtain ⟨lag, hu⟩ : ∃ lag, u = { t with lag := lag } := closePhase_frame t p b
  obtain ⟨seen, heard, hv⟩ : Observes u v := acquireKeys_frame u p _
  rw [hv, hu]
  cases used
  · exact ⟨lag, seen, heard, _, by simp [t, State.modHere, State.modSlot, State.setSlot, State.slot, State.here]; rfl⟩
  · exact ⟨lag, seen, heard, _, by simp [t, State.modHere, State.modSlot, State.setSlot, State.slot, State.here]; rfl⟩

section
variable {s t : State} {n : BitVec 11} {used : Bool} {al : Option Nat}

/-- What a `bar.wait` that completes leaves: its registers, memory and the cores as they were, and its record unless that gave the token (R340). -/
def Passed (s u : State) (used : Bool) (al : Option Nat) : Prop :=
  sameRegs (u.slot s.cur.place).th s.here.th ∧ u.mem = s.mem ∧ u.cores = s.cores ∧ (u.slot s.cur.place).arvV = (s.here.arvV && !used) ∧
    (s.cur.half ≠ .a → (u.slot s.cur.place).th.pc = s.cur.next ∧ (u.slot s.cur.place).aligned = al)

/-- A state that changes only bookkeeping of the writes and the slot, and there not its registers. -/
theorem passed_retireTo (hcur : t.cur = s.cur) (hth : t.here.th = s.here.th) (hmem : t.mem = s.mem) (hcores : t.cores = s.cores)
    (harv : t.here.arvV = (s.here.arvV && !used)) : Passed s (t.retireTo t.cur.next al) used al := by
  obtain ⟨slots, hslots⟩ := t.retireTo_frame t.cur.next al
  have hslot := t.retireTo_slot t.cur.next al
  obtain ⟨hr, hal, hav⟩ := t.here.retire_keeps (t.cur.half == .lone) t.cur.next al
  rw [Passed, ← hcur, hslot]
  refine ⟨?_, by rw [hslots]; exact hmem, by rw [hslots]; exact hcores, ?_, fun ha => ?_⟩
  · split
    · rw [hth]; exact rfl
    · rw [hr, ← hth]; rfl
  · split
    · exact harv
    · exact hav.trans harv
  · rw [if_neg ha]; exact ⟨by rw [hr], hal⟩

end

/-- How a wait ends that finds its phase past, from what it has left: aligned when it was released so and not interrupted (R223). -/
def waitEnds (s : State) (n : Nat) (released : Option Word) : Res :=
  let cut := (s.here.cut.map (·.1)) == some n
  let s := if cut then s.modHere fun x => { x with cut := none } else s
  if released = some 1 ∧ cut = false then .aligned s n else .ok s

/-- It completes, with the alignment that R223 gives. -/
theorem waitEnds_passed (s : State) (n : Nat) (used : Bool) (released : Option Word) :
    ∃ u, done (waitEnds (s.phasePassed n used) n released) = .next u ∧
      Passed s u used (if released = some 1 ∧ s.here.cut.map (·.1) ≠ some n then some n else none) := by
  obtain ⟨lag, seen, heard, last, hpast⟩ := s.phasePassed_eq n used
  have hhere : (s.phasePassed n used).here = { s.here with arvV := s.here.arvV && !used, lastBlk := last } := by
    rw [hpast]; exact State.slot_setSlot _ _ _
  have hcut : (s.phasePassed n used).here.cut = s.here.cut := by rw [hhere]
  have hok : ∀ t al, t = s.phasePassed n used ∨ t = (s.phasePassed n used).modHere (fun x => { x with cut := none }) →
      Passed s (t.retireTo t.cur.next al) used al := by
    rintro t al (rfl | rfl)
    · exact passed_retireTo (by rw [hpast]; rfl) (by rw [hhere]) (by rw [hpast]; rfl) (by rw [hpast]; rfl) (by rw [hhere])
    · exact passed_retireTo (by rw [hpast]; rfl) (by rw [State.here_modHere, hhere]) (by rw [hpast]; rfl) (by rw [hpast]; rfl)
        (by rw [State.here_modHere, hhere])
  simp only [waitEnds, hcut, beq_iff_eq, beq_eq_false_iff_ne]
  by_cases hc : s.here.cut.map (·.1) = some n
  · rw [if_pos hc, if_neg (fun h => h.2 hc), if_neg (fun h => h.2 hc)]
    exact ⟨_, done_ok _, hok _ none (.inr rfl)⟩
  · by_cases hw : released = some 1
    · rw [if_neg hc, if_pos ⟨hw, hc⟩, if_pos ⟨hw, hc⟩]
      exact ⟨_, done_aligned _ _, hok _ (some n) (.inl rfl)⟩
    · rw [if_neg hc, if_neg (fun h => hw h.1), if_neg (fun h => hw h.1)]
      exact ⟨_, done_ok _, hok _ none (.inl rfl)⟩

/-- Outside a timed block a word that waits takes no trap (R319). -/
theorem State.waitFor_noBlock {s : State} (h : s.here.blk = none) (w : Wait) (hw : Bool) : s.waitFor w hw = .wait s w hw := by
  rw [State.waitFor, State.waitAt, h]
  rfl

/-- What a `bar.wait` waits for on a phase that is not past; an interruption of an earlier phase is forgotten (R223). -/
def State.barWaiting (s : State) (n : Nat) : Res :=
  .wait (if s.here.cut = some (n, (s.bar s.cur.place.unit s.cur.place.core n).donets) then s else s.modHere fun x => { x with cut := none }) (.barrier n) true

theorem waitFor_barWaiting {s : State} (k : Nat) (hblk : s.here.blk = none) :
    State.waitFor (if s.here.cut = some (k, (s.bar s.cur.place.unit s.cur.place.core k).donets) then s else s.modHere fun x => { x with cut := none })
      (.barrier k) true = s.barWaiting k := by
  unfold State.barWaiting
  split
  · exact State.waitFor_noBlock hblk _ _
  · exact State.waitFor_noBlock (by rw [State.here_modHere]; exact hblk) _ _

/-! ### The token (R340) -/

section
variable {s : State} {a d : BitVec 5} {n : BitVec 11} {k : Nat} {t : Word} {r : Bool}

theorem barToken_operand (ha : a ≠ 0) : barToken s a k = (some (s.opG a), false) := by rw [barToken, if_pos ha]

theorem barToken_record (ha : a = 0) (hm : s.here.arvV = true ∧ s.here.arvBar = k) : barToken s a k = (some s.here.arvName, true) := by
  rw [barToken, if_neg (not_not.2 ha), if_pos hm]

theorem barToken_none (ha : a = 0) (hm : ¬ (s.here.arvV = true ∧ s.here.arvBar = k)) : barToken s a k = (none, false) := by
  rw [barToken, if_neg (not_not.2 ha), if_neg hm]

/-! ### `bar.wait` -/

variable (hk : (s.bar s.cur.place.unit s.cur.place.core n.toNat).kind ≠ 0)
include hk

theorem barWait_token (hA : Admitted (.barWait a n) s) (hb : barToken s a n.toNat = (some t, r))
    (ht : t.toNat < (s.bar s.cur.place.unit s.cur.place.core n.toNat).donets.toNat) :
    exec (.barWait a n) s = done (waitEnds (s.phasePassed n.toNat r) n.toNat (heldValue s.here.resp)) := by
  rw [exec_barWait, execBarWait, word_admitted hA]
  simp only [if_neg hk, hb, ht, decide_true, if_true]
  rfl

theorem barWait_released (hA : Admitted (.barWait a n) s) (hb : barToken s a n.toNat = (none, r)) {v : Word} (hw : heldValue s.here.resp = some v) :
    exec (.barWait a n) s = done (waitEnds (s.phasePassed n.toNat r) n.toNat (some v)) := by
  rw [exec_barWait, execBarWait, word_admitted hA]
  simp only [if_neg hk, hb, hw, Option.isSome_some, if_true]
  rfl

theorem barWait_waits_token (hA : Admitted (.barWait a n) s) (hblk : s.here.blk = none) (hb : barToken s a n.toNat = (some t, r))
    (ht : ¬ t.toNat < (s.bar s.cur.place.unit s.cur.place.core n.toNat).donets.toNat) : exec (.barWait a n) s = done (s.barWaiting n.toNat) := by
  rw [exec_barWait, execBarWait, word_admitted hA]
  simp only [if_neg hk, hb, ht, decide_false, Bool.false_eq_true, if_false, waitFor_barWaiting _ hblk]

theorem barWait_waits (hA : Admitted (.barWait a n) s) (hblk : s.here.blk = none) (hb : barToken s a n.toNat = (none, r))
    (hw : heldValue s.here.resp = none) : exec (.barWait a n) s = done (s.barWaiting n.toNat) := by
  rw [exec_barWait, execBarWait, word_admitted hA]
  simp only [if_neg hk, hb, hw, Option.isSome_none, Bool.false_eq_true, if_false, waitFor_barWaiting _ hblk]

/-! ### `bar.try` -/

/-- The arrival record once `bar.try` has found its phase past. -/
def State.recordUsed (s : State) (used : Bool) : State := if used then s.modHere fun x => { x with arvV := false } else s

omit hk in
/-- The barrier's thread of the acquire does not depend on the record. -/
theorem barrierKey_recordUsed (s : State) (used : Bool) (unit core n : Nat) : barrierKey (s.recordUsed used) unit core n = barrierKey s unit core n := by
  cases used <;> rfl

/-- On a phase not past it gives 0 (R340). -/
theorem barTry_zero (hb : ∀ t, (barToken s a n.toNat).1 = some t → ¬ t.toNat < (s.bar s.cur.place.unit s.cur.place.core n.toNat).donets.toNat) :
    Gives (.barTry d a n) d s 0 := by
  intro hA
  rw [exec_barTry, execBarTry, word_admitted hA]
  generalize barToken s a n.toNat = tr at hb
  obtain ⟨tok, r⟩ := tr
  have hp : ∀ t, tok = some t → ¬ t.toNat < (s.bar s.cur.place.unit s.cur.place.core n.toNat).donets.toNat := hb
  cases tok with
  | none => simp only [if_neg hk, Bool.false_eq_true, false_and, if_false]; exact done_ok _
  | some t => simp only [if_neg hk, hp t rfl, decide_false, Bool.false_eq_true, false_and, if_false]; exact done_ok _

omit hk in
theorem recordUsed_false : s.recordUsed false = s := rfl

omit hk in
theorem recordUsed_true : s.recordUsed true = s.modHere fun x => { x with arvV := false } := rfl

/-- On a phase that is past it is an acquire and gives 1; a record that gave the token is used up (R201, R340). -/
theorem barTry_one (hA : Admitted (.barTry d a n) s) (hb : barToken s a n.toNat = (some t, r))
    (ht : t.toNat < (s.bar s.cur.place.unit s.cur.place.core n.toNat).donets.toNat) :
    exec (.barTry d a n) s = .next ((acquireKeys (s.recordUsed r) s.cur.place [barrierKey s s.cur.place.unit s.cur.place.core n.toNat]).setG d 1).retired := by
  rw [exec_barTry, execBarTry, word_admitted hA]
  simp only [if_neg hk, hb, ht, decide_true, true_and, if_true]
  rw [← barrierKey_recordUsed s r]
  exact done_ok _

end

/-- Settles O18: the token by the operand, the record or neither, and what either word makes of it. -/
theorem barrierWaits : Obligations.BarrierWaits := by
  unfold Obligations.BarrierWaits
  intro s d a n p b past mine key waits passes hk
  have hpassed : ∀ {w : Option Word} (used : Bool) {al : Option Nat}, exec (.barWait a n) s = done (waitEnds (s.phasePassed n.toNat used) n.toNat w) →
      (if w = some 1 ∧ s.here.cut.map (·.1) ≠ some n.toNat then some n.toNat else none) = al → passes used al := fun {w} used al he hal => by
    obtain ⟨u, hu, h⟩ := waitEnds_passed s n.toNat used w
    exact ⟨u, he.trans hu, hal ▸ h⟩
  have hnone : s.here.resp = [] → heldValue s.here.resp = none := fun h => by rw [h]; rfl
  refine ⟨fun hA hblk => ⟨fun ha ht hr => ?_, fun ha hm ht hr => ?_, fun ha hm hw hc => ?_, fun ha hm hw hc => ?_, fun ha hm hw => ?_, fun ha ht => ?_,
    fun ha hm ht => ?_, fun ha hm hw => ?_⟩, fun ha ht hA => ?_, fun ha ht => ?_, fun ha hm => ?_, fun ha hm ht => ?_, fun ha hm ht hA => ?_⟩
  · exact hpassed false (barWait_token hk hA (barToken_operand ha) ht) (by simp [hnone hr])
  · exact hpassed true (barWait_token hk hA (barToken_record ha hm) ht) (by simp [hnone hr])
  · exact hpassed false (barWait_released hk hA (barToken_none ha hm) hw) (if_pos ⟨rfl, hc⟩)
  · exact hpassed false (barWait_released hk hA (barToken_none ha hm) hw) (if_neg fun h => h.2 hc)
  · exact hpassed false (barWait_released hk hA (barToken_none ha hm) hw) (if_neg fun h => by simp at h)
  · exact barWait_waits_token hk hA hblk (barToken_operand ha) ht
  · exact barWait_waits_token hk hA hblk (barToken_record ha hm) ht
  · exact barWait_waits hk hA hblk (barToken_none ha hm) hw
  · rw [barTry_one hk hA (barToken_operand ha) ht, recordUsed_false]
  · exact barTry_zero hk fun t h => by rw [barToken_operand ha] at h; cases h; exact ht
  · exact barTry_zero hk fun t h => by rw [barToken_none ha hm] at h; cases h
  · exact barTry_zero hk fun t h => by rw [barToken_record ha hm] at h; cases h; exact ht
  · rw [barTry_one hk hA (barToken_record ha hm) ht, recordUsed_true]

end Sys2Proof.Machine
end

section
/-! PROOFS. The slot-counter words on a counter of their own core that no slot waits for. -/

namespace Sys2Proof.Machine

/-! ### Counters (R229) -/

/-- With no slot waiting, a new VALUE wakes none. -/
theorem wakeCounter_none {s : State} {unit core n : Nat} (h : counterQueue s unit core n = []) : wakeCounter s unit core n = s := by
  rw [wakeCounter, h]

/-- A counter word's effect at its own core: the counter is `w`; the slots and memory are as they were. -/
def Counts (s t : State) (n : Nat) (w : BitVec 32) : Prop :=
  t.cur = s.cur ∧ t.slots = s.slots ∧ t.mem = s.mem ∧ Tbl.get 0 (t.coreAt s.cur.place).scnt n = w

section
variable {s t : State} {n : Nat} {w : BitVec 32}

/-- The word that took from a counter is an acquire and writes its register (R229, R341). -/
theorem Counts.gives (h : Counts s t n w) (ks : List Nat) (d : BitVec 5) (v : Word) :
    ∃ u, done (.ok ((acquireKeys t s.cur.place ks).setG d v)) = .next u ∧ Tbl.get 0 (u.coreAt s.cur.place).scnt n = w ∧
      (u.slot s.cur.place).th.g = (s.here.th.writeG d v).g ∧ u.mem = s.mem := by
  obtain ⟨hcur, hslots, hmem, hval⟩ := h
  have ho := acquireKeys_frame t s.cur.place ks
  generalize acquireKeys t s.cur.place ks = a at ho
  obtain ⟨⟨slots, hret⟩, -⟩ := (a.setG d v).retired_frame
  obtain ⟨-, hg, hm⟩ := setG_retired_frame a d v
  have hhere : a.here = s.here := by
    rw [ho.here]; unfold State.here State.slot; rw [hslots, hcur]
  have hplace : a.cur.place = s.cur.place := by rw [ho.cur, hcur]
  rw [hplace, hhere] at hg
  obtain ⟨seen, heard, rfl⟩ := ho
  exact ⟨_, done_ok _, by rw [hret]; exact hval, hg, hm.trans hmem⟩

/-- The word that gave to a counter leaves its registers (R341). -/
theorem Counts.gave (h : Counts s t n w) (ks : List Nat) :
    ∃ u, done (.ok (acquireKeys t s.cur.place ks)) = .next u ∧ Tbl.get 0 (u.coreAt s.cur.place).scnt n = w ∧
      sameRegs (u.slot s.cur.place).th s.here.th ∧ u.mem = s.mem := by
  obtain ⟨hcur, hslots, hmem, hval⟩ := h
  have ho := acquireKeys_frame t s.cur.place ks
  generalize acquireKeys t s.cur.place ks = a at ho
  obtain ⟨⟨slots, hret⟩, -⟩ := a.retired_frame
  have hr := a.retired_sameRegs
  have hhere : a.here = s.here := by
    rw [ho.here]; unfold State.here State.slot; rw [hslots, hcur]
  have hplace : a.cur.place = s.cur.place := by rw [ho.cur, hcur]
  rw [hplace, hhere] at hr
  obtain ⟨seen, heard, rfl⟩ := ho
  exact ⟨_, done_ok _, by rw [hret]; exact hval, hr, by rw [hret]; exact hmem⟩

end

/-! ### The operations, with no slot waiting (R229) -/

/-- A thread's give releases what the thread has observed (R229). -/
def State.given (s : State) (key : Nat) : State :=
  match s.maker with
  | .thread name => s.release key (s.pending (s.knows name))
  | _ => s

theorem State.given_frame (s : State) (key : Nat) : ∃ rels, s.given key = { s with rels := rels } := by
  unfold State.given
  split
  · exact ⟨_, rfl⟩
  · exact ⟨s.rels, rfl⟩

theorem rmwCounter_give_eq (s : State) (who n : Nat) : rmwCounter s who s.cur.place.unit s.cur.place.core (.give n) =
    (wakeCounter (if Tbl.get 0 (s.coreAt s.cur.place).scnt n = BitVec.allOnes 32 then s.given (counterKey s.cur.place.unit s.cur.place.core n)
      else (s.given (counterKey s.cur.place.unit s.cur.place.core n)).modCoreAt s.cur.place fun c =>
        { c with scnt := Tbl.set c.scnt n (Tbl.get 0 (s.coreAt s.cur.place).scnt n + 1) }) s.cur.place.unit s.cur.place.core n, .value 0) := rfl

section
variable {s : State} {n : Nat} (hq : counterQueue s s.cur.place.unit s.cur.place.core n = [])
include hq

/-- A new VALUE, of a counter whose queue stays empty, wakes none. -/
theorem Counts.afterWake {t : State} {w : BitVec 32} (h : Counts s t n w) (hw : Tbl.get [] (t.coreAt s.cur.place).scntWait n = [] ∨
    Tbl.get [] (t.coreAt s.cur.place).scntWait n = Tbl.get [] (s.coreAt s.cur.place).scntWait n) :
    Counts s (wakeCounter t s.cur.place.unit s.cur.place.core n) n w := by
  have hempty : counterQueue t s.cur.place.unit s.cur.place.core n = [] := by
    unfold counterQueue at hq ⊢
    obtain ⟨-, hslots, -, -⟩ := h
    rw [hslots]
    rcases hw with hw | hw
    · rw [State.coreAt] at hw; rw [hw]; rfl
    · rw [State.coreAt, State.coreAt] at hw; rw [hw]; exact hq
  rw [wakeCounter_none hempty]
  exact h

theorem rmwCounter_take (who : Nat) (hv : Tbl.get 0 (s.coreAt s.cur.place).scnt n ≠ 0) :
    ∃ t, rmwCounter s who s.cur.place.unit s.cur.place.core (.take n) = (t, .value ((Tbl.get 0 (s.coreAt s.cur.place).scnt n).zeroExtend 64)) ∧
      Counts s t n (Tbl.get 0 (s.coreAt s.cur.place).scnt n - 1) := by
  refine ⟨_, if_pos ⟨hv, .inl hq⟩, Counts.afterWake hq ⟨rfl, rfl, rfl, ?_⟩ (.inl ?_)⟩
  · simp [State.coreAt]
  · simp [State.coreAt, hq]

theorem rmwCounter_try (who : Nat) (hv : Tbl.get 0 (s.coreAt s.cur.place).scnt n ≠ 0) :
    ∃ t, rmwCounter s who s.cur.place.unit s.cur.place.core (.try n) = (t, .value 1) ∧ Counts s t n (Tbl.get 0 (s.coreAt s.cur.place).scnt n - 1) := by
  refine ⟨_, if_pos ⟨hv, hq⟩, rfl, rfl, rfl, ?_⟩
  simp [State.coreAt]

omit hq in
theorem rmwCounter_try_zero (who : Nat) (hv : Tbl.get 0 (s.coreAt s.cur.place).scnt n = 0) :
    rmwCounter s who s.cur.place.unit s.cur.place.core (.try n) = (s, .value 0) :=
  if_neg fun h => h.1 hv

theorem rmwCounter_give (who : Nat) :
    ∃ t, rmwCounter s who s.cur.place.unit s.cur.place.core (.give n) = (t, .value 0) ∧
      Counts s t n (if Tbl.get 0 (s.coreAt s.cur.place).scnt n = BitVec.allOnes 32 then Tbl.get 0 (s.coreAt s.cur.place).scnt n
        else Tbl.get 0 (s.coreAt s.cur.place).scnt n + 1) := by
  obtain ⟨rels, hr⟩ := s.given_frame (counterKey s.cur.place.unit s.cur.place.core n)
  refine ⟨_, rmwCounter_give_eq s who n, Counts.afterWake hq ?_ ?_⟩
  · rw [hr]
    split
    · exact ⟨rfl, rfl, rfl, rfl⟩
    · exact ⟨rfl, rfl, rfl, by simp⟩
  · rw [hr]
    split
    · exact .inr rfl
    · exact .inr (by simp; rfl)

end

/-! ### The words (R341) -/

/-- A counter word at its own core that need not wait: what the operation made of the counter, and an acquire of it. -/
theorem counterOp_own {i : Instr} {a : BitVec 5} {op : Rmw} {n : Nat} {s : State} (hA : Admitted i s) (hok : s.cur.place.ok = true)
    (hc : (s.opG a).toNat % 128 = s.cur.place.core) (hresp : s.here.resp = []) (hready : rmwReady s s.cur.place op = true) {t : State} {v : Word}
    (hr : rmwCounter s (slotKey s.cur.place) s.cur.place.unit s.cur.place.core op = (t, .value v)) (f : State → Word → Res) :
    counterOp i a op n s f = done (f (acquireKeys t s.cur.place [counterKey s.cur.place.unit s.cur.place.core n]) v) := by
  rw [Place.ok, Bool.and_eq_true, decide_eq_true_eq] at hok
  have hheld : heldValue s.here.resp = none := by rw [hresp]; rfl
  rw [counterOp, word_admitted hA]
  simp only [hc, if_neg (Nat.not_le.2 hok.1), hheld, hready, hr, Bool.true_eq_false, if_false, if_true]

/-- Settles O19: each word by what its operation makes of the counter. -/
theorem slotCounters : Obligations.SlotCounters := by
  unfold Obligations.SlotCounters
  intro s d a c p v value hok hc hsbuf hresp hq
  refine ⟨fun hv hA => ?_, fun hv hA => ?_, fun hv hA => ?_, fun hack hA => ?_⟩
  · obtain ⟨t, ht, hcounts⟩ := rmwCounter_take hq (slotKey p) hv
    rw [exec_slotTake, execSlotTake, counterOp_own hA hok hc hresp (by unfold rmwReady; rw [hsbuf]; rfl) ht]
    exact hcounts.gives _ d _
  · obtain ⟨t, ht, hcounts⟩ := rmwCounter_try hq (slotKey p) hv
    rw [exec_slotTry, execSlotTry, counterOp_own hA hok hc hresp (by unfold rmwReady; rw [hsbuf]; rfl) ht]
    exact hcounts.gives _ d _
  · rw [exec_slotTry, execSlotTry, counterOp_own hA hok hc hresp (by unfold rmwReady; rw [hsbuf]; rfl) (rmwCounter_try_zero (slotKey p) hv), done_ok]
  · obtain ⟨t, ht, hcounts⟩ := rmwCounter_give hq (slotKey p)
    rw [exec_slotGive, execSlotGive, counterOp_own hA hok hc hresp (by unfold rmwReady; rw [hsbuf]; exact hack) ht]
    exact hcounts.gave _

end Sys2Proof.Machine
end

section
/-! PROOFS. The plot table words, whose entries hold no soft error. -/

namespace Sys2Proof.Machine

/-! ### Taking an entry (R233) -/

/-- The first entry whose V is clear. -/
theorem lowestFree_eq {valid : Nat → Bool} {e : Nat} (he : e < 64) (hfree : valid e = false) (hlow : ∀ k < e, valid k = true) :
    ((List.range 64).find? fun k => !valid k) = some e := by
  rw [List.find?_range_eq_some]
  exact ⟨by simp [hfree], List.mem_range.2 he, fun j hj => by simp [hlow j hj]⟩

/-- A doubleword of five fields. -/
theorem pack_five (i j k l m a b c d e : Nat) : pack [(i, a), (j, b), (k, c), (l, d), (m, e)] =
    BitVec.ofNat 64 (a * 2 ^ i + b * 2 ^ j + c * 2 ^ k + d * 2 ^ l + e * 2 ^ m) := by
  simp only [pack, List.foldl_cons, List.foldl_nil, Nat.zero_add]

/-- The fields of an entry's first word (R232). -/
theorem pack_plot (base len slot ctx : Nat) : pack [(0, base), (20, len), (40, slot), (43, 1), (44, ctx)] =
    BitVec.ofNat 64 (base + len * 2 ^ 20 + slot * 2 ^ 40 + 2 ^ 43 + ctx * 2 ^ 44) := by
  rw [pack_five, Nat.pow_zero, Nat.mul_one, Nat.one_mul]

/-- The entries that the word looks at. -/
theorem plotEntry_getD (s : State) (p : Place) {e : Nat} (he : e < 64) :
    ((List.range 64).map fun k => plotRead s p k).getD e (0, 0) = plotRead s p e := by
  simp [List.getD, he]

section
variable {s : State} {d a : BitVec 5} {e : Nat}

/-- `plot.alloc` past its checks (R407). -/
theorem plotAlloc_takes (hblk : s.here.blk = none) (herrs : s.errs = []) (hv : (s.opG a).toNat < 2 ^ 40) (he : e < 64)
    (hfree : (plotRead s s.cur.place e).1.testBit 43 = false) (hlow : ∀ k < e, (plotRead s s.cur.place k).1.testBit 43 = true)
    (hsize : ¬ ((s.opG a).toNat % 2 ^ 20 % 64 ≠ 0 ∨ bits (s.opG a).toNat 39 20 % 64 ≠ 0 ∨ bits (s.opG a).toNat 39 20 < 64 ∨ 0xF0000 < bits (s.opG a).toNat 39 20))
    (hend : (s.opG a).toNat % 2 ^ 20 + bits (s.opG a).toNat 39 20 ≤ sysOff s.cur.place.unit)
    (hmeets : ∀ k < 64, (plotRead s s.cur.place k).1.testBit 43 = true → meets ((plotRead s s.cur.place k).1 % 2 ^ 20) (bits (plotRead s s.cur.place k).1 39 20)
      ((s.opG a).toNat % 2 ^ 20) (bits (s.opG a).toNat 39 20) = false)
    (hts : (plotRead s s.cur.place e).2.toNat < s.ts.toNat) (hA : Admitted (.plotAlloc d a) s) :
    exec (.plotAlloc d a) s = .next ((s.putWs (plotKey s.cur.place e) [pack [(0, (s.opG a).toNat % 2 ^ 20), (20, bits (s.opG a).toNat 39 20), (40, s.cur.place.slot),
      (43, 1), (44, s.ctx.toNat)], s.ts]).setG d (BitVec.ofNat 64 (e + s.ts.toNat % 2 ^ 58 * 64))).retired := by
  have hfind : ((List.range 64).find? fun k => !(((List.range 64).map fun j => plotRead s s.cur.place j).getD k (0, 0)).1.testBit 43) = some e :=
    lowestFree_eq he (by rw [plotEntry_getD s _ he]; exact hfree) fun k hk => by rw [plotEntry_getD s _ (hk.trans he)]; exact hlow k hk
  have hany : (((List.range 64).map fun j => plotRead s s.cur.place j).any fun x => x.1.testBit 43 && meets (x.1 % 2 ^ 20) (bits x.1 39 20)
      ((s.opG a).toNat % 2 ^ 20) (bits (s.opG a).toNat 39 20)) = false := by
    rw [List.any_map, List.any_eq_false]
    intro k hk
    have := hmeets k (List.mem_range.1 hk)
    simp only [Function.comp, Bool.and_eq_true, not_and]
    exact fun h => by rw [this h]; exact Bool.false_ne_true
  rw [exec_plotAlloc, execPlotAlloc, word_admitted hA, State.outsideBlock_noBlock hblk]
  simp only [see_noErrs s _ _ herrs, if_neg (Nat.not_le.2 hv), hfind, if_neg hsize, if_neg (Nat.not_lt.2 hend), hany, plotEntry_getD s _ he,
    if_neg (Nat.not_le.2 hts), Bool.false_eq_true, if_false]
  exact done_ok _

/-- `plot.pass` by the owner, past its drain (R199, R407). -/
theorem plotPass_passes {t : BitVec 3} (hblk : s.here.blk = none) (herrs : s.errs = []) (hm : plotMine s (s.opG a) = true)
    (hs : storesDone s s.cur.place 0 = true) (hk : ackedFor s s.cur.place 0 = true) (hA : Admitted (.plotPass a t) s) :
    exec (.plotPass a t) s = .next (s.putWs (plotKey s.cur.place ((s.opG a).toNat % 64))
      [setBits (BitVec.ofNat 64 (plotRead s s.cur.place ((s.opG a).toNat % 64)).1) 42 40 t.toNat]).retired := by
  rw [exec_plotPass, execPlotPass, word_admitted hA, State.outsideBlock_noBlock hblk]
  simp only [see_noErrs s _ _ herrs, hm, hs, hk, Bool.true_eq_false, or_self, if_false]
  exact done_ok _

/-- `plot.free` by the owner (R407). -/
theorem plotFree_frees (hblk : s.here.blk = none) (herrs : s.errs = []) (hm : plotMine s (s.opG a) = true) (hA : Admitted (.plotFree a) s) :
    exec (.plotFree a) s = .next (s.putWs (plotKey s.cur.place ((s.opG a).toNat % 64))
      [setBits (BitVec.ofNat 64 (plotRead s s.cur.place ((s.opG a).toNat % 64)).1) 43 43 0]).retired := by
  rw [exec_plotFree, execPlotFree, word_admitted hA, State.outsideBlock_noBlock hblk]
  simp only [see_noErrs s _ _ herrs, hm, Bool.true_eq_false, if_false]
  exact done_ok _

/-- `plot.free` with a handle of no plot of the slot (R233). -/
theorem plotFree_refused (hblk : s.here.blk = none) (herrs : s.errs = []) (hm : plotMine s (s.opG a) = false) (hA : Admitted (.plotFree a) s) :
    exec (.plotFree a) s = done (.trap s (Trap.of 5 6 s.wordPc)) := by
  rw [exec_plotFree, execPlotFree, word_admitted hA, State.outsideBlock_noBlock hblk]
  simp only [see_noErrs s _ _ herrs, hm, if_true]

end

/-- Settles O25: a lemma for each outcome. -/
theorem plots : Obligations.Plots := by
  unfold Obligations.Plots
  intro s d a t e p v base len valid hblk herrs
  have hlen : bits v 39 20 = len := bits_eq_div v 39 20
  refine ⟨fun hv he hfree hlow hbase hlen64 hmin hend hmeets hts hA => ?_, fun hm hs hk hA => plotPass_passes hblk herrs hm hs hk hA,
    fun hm hA => plotFree_frees hblk herrs hm hA, fun hm hA => plotFree_refused hblk herrs hm hA⟩
  have hsys : sysOff p.unit ≤ 0xF0000 := by unfold sysOff; split <;> omega
  have h := plotAlloc_takes (d := d) hblk herrs hv he hfree hlow (by rw [hlen]; omega) (by rw [hlen]; exact hend)
    (fun k hk hval => by rw [hlen, bits_eq_div]; exact hmeets k hk hval) hts hA
  rw [pack_plot, hlen] at h
  exact h

end Sys2Proof.Machine
end

section
/-! PROOFS. Follow mode, `home`, `yield`, `trap`, `sys`, `eret` and `halt`. -/

namespace Sys2Proof.Machine

/-! ### What a completed word leaves of its slot (R284) -/

/-- Whatever does not look at the program counter, the alignment, the wait, the answers and the back-off of a slot sees no difference. -/
theorem State.retireTo_slot_congr {β : Type} (g : Slot → β)
    (hg : ∀ (x : Slot) pc al wait resp backoff, g { x with th := { x.th with pc := pc }, aligned := al, wait := wait, resp := resp, backoff := backoff } = g x)
    (s : State) (t : Word) (al : Option Nat) : g ((s.retireTo t al).slot s.cur.place) = g s.here := by
  rw [State.retireTo_slot]
  split
  · rfl
  · unfold Slot.retire
    split <;> exact hg ..

/-! ### Follow mode, `home` and `yield` (R225, R226, R410, R411) -/

section
variable {s : State} {n : BitVec 11}

theorem follow_stays (h : s.cur.place.core % 8 = 0 ∨ s.here.folState ≠ 0) (hA : Admitted .follow s) : exec .follow s = .next s.retired := by
  rw [exec_follow, execFollow, word_admitted hA]
  simp only [if_pos h]
  exact done_ok _

theorem follow_joins (hrow : s.cur.place.core % 8 ≠ 0) (hf : s.here.folState = 0) (hblk : s.here.blk = none)
    (hctx : otherContext (s.slot (leaderOf s.cur.place)) s.ctx = false) (hA : Admitted .follow s) :
    exec .follow s = .next (s.modHere fun x => { x with folState := 1 }).retired := by
  rw [exec_follow, execFollow, word_admitted hA]
  simp only [if_neg (not_or.2 ⟨hrow, not_not.2 hf⟩), State.outsideBlock_noBlock hblk, hctx, Bool.false_eq_true, if_false]
  exact done_ok _

theorem unfollow_stays (hf : s.here.folState = 0) (hl : hasFollowers s s.cur.place = false) (hA : Admitted .unfollow s) :
    exec .unfollow s = .next s.retired := by
  rw [exec_unfollow, execUnfollow, word_admitted hA]
  simp only [if_neg (not_not.2 hf), hl, Bool.false_eq_true, if_false]
  exact done_ok _

/-- A follower that leaves (R226). -/
theorem leaveFollow_slot (hf : s.here.folState ≠ 0) (reason : Nat) :
    ((leaveFollow s s.cur.place reason).slot s.cur.place).folState = 0 ∧ ((leaveFollow s s.cur.place reason).slot s.cur.place).folReason = reason := by
  rw [leaveFollow, State.slot_modSlot, if_neg (show ¬ (s.slot s.cur.place).folState = 0 from hf)]
  exact ⟨rfl, rfl⟩

theorem unfollow_leaves (hf : s.here.folState ≠ 0) (hblk : s.here.blk = none) (hA : Admitted .unfollow s) :
    ∃ u, exec .unfollow s = .next u ∧ (u.slot s.cur.place).folState = 0 ∧ (u.slot s.cur.place).folReason = 2 ∧ u.mem = s.mem := by
  obtain ⟨hstate, hreason⟩ := leaveFollow_slot hf 2
  obtain ⟨slots, hmem⟩ := (leaveFollow s s.cur.place 2).retireTo_frame s.cur.next none
  refine ⟨(leaveFollow s s.cur.place 2).retired, ?_, ?_, ?_, by rw [State.retired]; exact (congrArg State.mem hmem).trans rfl⟩
  · rw [exec_unfollow, execUnfollow, word_admitted hA]
    simp only [if_pos hf, State.outsideBlock_noBlock hblk]
    exact done_ok _
  · exact (State.retireTo_slot_congr (·.folState) (fun _ _ _ _ _ _ => rfl) _ _ _).trans hstate
  · exact (State.retireTo_slot_congr (·.folReason) (fun _ _ _ _ _ _ => rfl) _ _ _).trans hreason

theorem home_stays (h : s.cur.place.heavy = true ∨ s.away s.cur.place = false) (hA : Admitted .home s) : exec .home s = .next s.retired := by
  rw [exec_home, execHome, word_admitted hA]
  simp only [if_pos h]
  exact done_ok _

theorem yield_rests (hblk : s.here.blk = none) (hA : Admitted (.yield n) s) :
    exec (.yield n) s = .next (State.retired (if n = 0 then s else { s with cur := { s.cur with rest := true } })) := by
  rw [exec_yield, execYield, word_admitted hA, State.outsideBlock_noBlock hblk]
  exact done_ok _

/-! ### `trap` and `sys` (R251, R412) -/

/-- A word that leaves a trap to be taken once its bundle is complete. -/
theorem done_pends (s : State) (c sub : Nat) : done (.after s c sub) = .next { s.retired with cur := { s.cur with pend := some (c, sub) } } := by
  rw [done, settle, completeWord_eq]
  dsimp only
  rw [State.retireTo_cur]
  rfl

theorem trap_pends (hA : Admitted (.trap n) s) : exec (.trap n) s = .next { s.retired with cur := { s.cur with pend := some (18, n.toNat) } } := by
  rw [exec_trap, execTrap, word_admitted hA]
  exact done_pends ..

theorem sys_pends (hA : Admitted (.sys n) s) : exec (.sys n) s = .next { s.retired with cur := { s.cur with pend := some (19, n.toNat) } } := by
  rw [exec_sys, execSys, word_admitted hA]
  exact done_pends ..

end

/-! ### Transfers to a line in the instruction cache (R58, R286) -/

section
variable {s : State} {t : Word}

/-- A word of a cached line of the core's own memory is fetched at once. -/
theorem fetchWord_cached {off : Nat} {w : BitVec 32} (ho : OwnAt s.cur.place t 4 4 0 off)
    (hw : (Tbl.look (s.coreAt s.cur.place).icache (coreKey s.cur.place.unit s.cur.place.core off / 64)).map
      (fun l => lineWord l (coreKey s.cur.place.unit s.cur.place.core off)) = some w) (f : State → BitVec 32 → Res) : fetchWord s t f = f s w := by
  obtain ⟨line, hline, hword⟩ := Option.map_eq_some_iff.1 hw
  rw [fetchWord, addressCheck_own ho (fun h => Kind.noConfusion h) fun _ => rfl]
  simp only [fetchSource, ownAcc_rng, ownAcc_own, if_true, fetchLine, locKey, hline, hword]

theorem checkTarget_lands (h : Lands s t) (f : State → Res) : checkTarget s t f = f s := by
  obtain ⟨off, w, ho, hw, hm, hsecond⟩ := h
  have hal : t.toNat % 4 = 0 := by obtain ⟨-, -, -, -, -, hal, -⟩ := ho; exact hal
  rw [checkTarget, if_neg (not_not.2 hal), fetchWord_cached ho hw, hm, if_neg Bool.false_ne_true]
  split
  · next hodd =>
    obtain ⟨before, v, ho', hv, hm', hp⟩ := hsecond hodd
    rw [fetchWord_cached ho' hv, hm', hp, if_neg Bool.false_ne_true, if_neg Bool.false_ne_true]
  · rfl

theorem jumpTo_lands (h : Lands s t) (f : State → State) : jumpTo s t f = .jump (f s) t := by
  rw [jumpTo, checkTarget_lands h]

end

/-! ### `eret` (R254, R413) -/

/-- What a return from a trap leaves of the slot, with no soft error in the save area. -/
theorem trapReturn_eq {s : State} (h : s.errs = []) (p : Place) : trapReturn s p = s.modSlot p fun x =>
    { x with reach := s.loadReach p, resv := none, resTurn := none, th := { x.th with mode := x.th.pm, td := false, pc := x.th.epc } } := by
  rw [trapReturn, see_noErrs s _ _ h]

/-- What the slot and memory are once `eret` has gone to its target. -/
theorem trapReturn_jumped {s : State} (h : s.errs = []) (t : Word) : let u := (trapReturn s s.cur.place).jumped t; let x := u.slot s.cur.place
    x.th.mode = s.here.th.pm ∧ x.th.td = false ∧ x.resv = none ∧ x.reach = s.loadReach s.cur.place ∧ (s.cur.half ≠ .a → x.th.pc = t) ∧ x.th.g = s.here.th.g ∧
      x.th.pm = s.here.th.pm ∧ x.th.epc = s.here.th.epc ∧ u.mem = s.mem := by
  intro u x
  obtain ⟨slots, hslots⟩ := (trapReturn s s.cur.place).retireTo_frame t none
  have hmem : u.mem = s.mem := (congrArg State.mem hslots).trans (by rw [trapReturn_eq h]; rfl)
  have hx : x = if s.cur.half = .a then (trapReturn s s.cur.place).slot s.cur.place else ((trapReturn s s.cur.place).slot s.cur.place).retire (s.cur.half == .lone) t none := by
    unfold x u
    rw [trapReturn_eq h]
    exact State.retireTo_slot _ t none
  rw [trapReturn_eq h, State.slot_modSlot] at hx
  rw [hx]
  split
  · next ha => exact ⟨rfl, rfl, rfl, rfl, fun hn => absurd ha hn, rfl, rfl, rfl, hmem⟩
  · unfold Slot.retire
    split <;> exact ⟨rfl, rfl, rfl, rfl, fun _ => rfl, rfl, rfl, rfl, hmem⟩

theorem eret_returns {s : State} (hl : Lands s s.here.th.epc) (hblk : s.here.blk = none) (hA : Admitted .eret s) :
    exec .eret s = .next ((trapReturn s s.cur.place).jumped s.here.th.epc) := by
  rw [exec_eret, execEret, word_admitted hA]
  simp only [jumpTo_lands hl, hblk, Option.isSome_none, Bool.false_eq_true, if_false]
  exact done_jump ..

/-! ### `halt` (R244, R252, R256, R413) -/

theorem Eased.stays_free {x y : Slot} (h : Eased x y) (hx : x.st = .free) : y.st = .free := by
  obtain ⟨-, -, hfree⟩ := h
  exact hfree hx

theorem Eased.stays_unwaiting {x y : Slot} (h : Eased x y) (hx : x.wait = none) : y.wait = none := by
  obtain ⟨-, hst, -⟩ := h
  exact (hst hx).2

/-- The home slot that a thread ending elsewhere gives back: another slot that is FREE stays so, and nothing is written. -/
theorem releaseHome_keeps (s : State) (name : BitVec 15) (p : Place) :
    ((s.slot p).st = .free → ((releaseHome s name false).slot p).st = .free) ∧ (releaseHome s name false).mem = s.mem := by
  unfold releaseHome
  extract_lets h
  split
  · refine ⟨fun hf => ?_, freeSlot_mem s h⟩
    by_cases hk : slotKey p = slotKey h
    · exact (State.slot_congr _ hk).symm ▸ freeSlot_free s h
    · exact ((freeSlot_eases s h).slot p).stays_free (by rw [State.slot_modSlot_other _ _ _ _ hk]; exact hf)
  · exact ⟨id, rfl⟩

theorem stopStream_mem (s : State) (p : Place) : (stopStream s p).mem = s.mem := by
  unfold stopStream
  split
  · refine List.foldlRecOn (motive := fun t : State => t.mem = s.mem) _ _ rfl fun t ht k _ => ?_
    dsimp only
    split
    · split <;> exact ht
    · exact ht
  · rfl

theorem giveUpMatrix_mem (s : State) (p : Place) (ctx : BitVec 12) : (giveUpMatrix s p ctx).mem = s.mem := by
  unfold giveUpMatrix
  split <;> rfl

theorem giveUpMatrix_eases (s : State) (p : Place) (ctx : BitVec 12) : Eases s (giveUpMatrix s p ctx) := by
  unfold giveUpMatrix
  split
  · exact dropMatrix_eases ..
  · exact .refl s

/-- An arrival of the hardware writes no memory (R218, R219). -/
theorem hwArrive_mem (s : State) (u c n : Nat) : (hwArrive s u c n).mem = s.mem := by
  have hcore : ∀ t : State, (finishCoreBar t u c n).mem = t.mem := fun t => by
    unfold finishCoreBar
    dsimp only
    split
    · split <;> rfl
    · rfl
  have hdom : ∀ t : State, (finishDomBar t u c n).mem = t.mem := fun t => by
    unfold finishDomBar
    dsimp only
    split <;> rfl
  unfold hwArrive
  split
  · exact (raise_reports ..).mem
  · exact (hdom _).trans ((hcore _).trans rfl)

theorem gangEnded_mem (s : State) (g : Option (Nat × Nat)) : (gangEnded s g).mem = s.mem := by
  have hraise : ∀ (t : State) (b ctx : Nat) (evt : Bool) (tag : Word), (if evt then t.raise b 0 0 9 ctx tag 0 else t).mem = t.mem := fun t b ctx evt tag => by
    split
    · exact (raise_reports ..).mem
    · rfl
  unfold gangEnded
  split
  · rfl
  · split
    · rfl
    · split
      · rfl
      · refine (hraise ..).trans ?_
        split
        · exact (hwArrive_mem ..).trans rfl
        · rfl

/-- The thread at a place ends: the slot is FREE, and nothing is written. -/
theorem endThread_frees (s : State) (p : Place) : ((endThread s p false).slot p).st = .free ∧ (endThread s p false).mem = s.mem := by
  unfold endThread
  extract_lets x t u
  obtain ⟨hfree, hmem⟩ : (u.slot p).st = .free ∧ u.mem = s.mem := by
    obtain ⟨hstays, hmem⟩ := releaseHome_keeps t x.name p
    unfold u
    split
    · exact ⟨freeSlot_free s p, freeSlot_mem s p⟩
    · exact ⟨hstays (freeSlot_free s p), hmem.trans (freeSlot_mem s p)⟩
  exact ⟨(((giveUpMatrix_eases u p x.th.ctx).trans (gangEnded_eases _ x.gang)).slot p).stays_free hfree,
    (gangEnded_mem ..).trans ((giveUpMatrix_mem ..).trans hmem)⟩

theorem halt_ends {s : State} (hblk : s.here.blk = none) (hpkt : s.here.pkt = none) (hp : allPerformed s s.cur.place = true) (hA : Admitted .halt s) :
    ∃ u, exec .halt s = .next u ∧ (u.slot s.cur.place).st = .free ∧ u.cur.ended = .gone ∧ u.mem = s.mem := by
  obtain ⟨hfree, hmem⟩ := endThread_frees (stopStream s s.cur.place) s.cur.place
  let t := endThread (stopStream s s.cur.place) s.cur.place false
  refine ⟨{ t with cur := { t.cur with ended := .gone } }, ?_, hfree, rfl, hmem.trans (stopStream_mem ..)⟩
  rw [exec_halt, execHalt, word_admitted hA, State.outsideBlock_noBlock hblk]
  simp only [hpkt, hp, Option.isSome_none, Bool.true_eq_false, Bool.false_eq_true, if_false]
  rfl

/-- Settles O28: a lemma for each word. -/
theorem systemWords : Obligations.SystemWords := by
  unfold Obligations.SystemWords
  dsimp only
  exact ⟨fun s n => ⟨follow_stays, follow_joins, unfollow_stays, unfollow_leaves, home_stays, yield_rests⟩, fun s n => ⟨trap_pends, sys_pends⟩,
    fun s hl hblk herrs hA => ⟨_, eret_returns hl hblk hA, trapReturn_jumped herrs _⟩, fun s hblk hpkt hp _ _ hA => halt_ends hblk hpkt hp hA⟩

end Sys2Proof.Machine
end

section
/-! PROOFS. What leaves the matrix units alone: their operations, fetches, accumulators and owners stay, while claims of tiles may be made. -/

namespace Sys2Proof.Machine

/-! ### One unit -/

/-- A unit whose rings and whose remote command may have moved on, and which is otherwise as it was. -/
def Claimed (m m' : Matrix) : Prop := ∃ rings begun, m' = { m with rings := rings, begun := begun }

section
variable {m m' m'' : Matrix}

theorem Claimed.refl (m : Matrix) : Claimed m m := ⟨_, _, rfl⟩

theorem Claimed.trans (h : Claimed m m') (h' : Claimed m' m'') : Claimed m m'' := by
  obtain ⟨_, _, rfl⟩ := h
  obtain ⟨_, _, rfl⟩ := h'
  exact ⟨_, _, rfl⟩

theorem Claimed.foldl {β : Type} {f : Matrix → β → Matrix} (h : ∀ m x, Claimed m (f m x)) (l : List β) (m : Matrix) : Claimed m (l.foldl f m) :=
  List.foldlRecOn (motive := Claimed m) l f (.refl m) fun m' hm x _ => hm.trans (h m' x)

theorem Claimed.ops (h : Claimed m m') : m'.ops = m.ops := by obtain ⟨_, _, rfl⟩ := h; rfl
theorem Claimed.fetches (h : Claimed m m') : m'.fetches = m.fetches := by obtain ⟨_, _, rfl⟩ := h; rfl
theorem Claimed.acc (h : Claimed m m') : m'.acc = m.acc := by obtain ⟨_, _, rfl⟩ := h; rfl
theorem Claimed.own (h : Claimed m m') : m'.own = m.own := by obtain ⟨_, _, rfl⟩ := h; rfl

theorem modRing_claimed (m : Matrix) (k : Nat) (f : Ring → Ring) : Claimed m (m.modRing k f) := by
  unfold Matrix.modRing
  split
  · exact ⟨_, _, rfl⟩
  · exact .refl m

theorem claimAll_claimed (p : Prod) (m : Matrix) : Claimed m (p.claimAll m) := .foldl (fun m _ => modRing_claimed m ..) _ m
theorem releaseJob_claimed (m : Matrix) (j : MJob) : Claimed m (m.releaseJob j) := .foldl (fun m _ => modRing_claimed m ..) _ m
theorem retireClaims_claimed (m : Matrix) (l : List (Nat × BitVec 32)) : Claimed m (l.foldl (fun m k => m.retireClaim k.1 k.2) m) :=
  .foldl (fun m _ => modRing_claimed m ..) l m

end

/-! ### The unit of every core -/

/-- Every core's unit is as it was, but for claims of tiles. -/
structure KeepsUnits (s t : State) : Prop where
  unit : ∀ u c, Claimed (s.core u c).mx (t.core u c).mx

section
variable {s t u : State}

theorem KeepsUnits.refl (s : State) : KeepsUnits s s := ⟨fun _ _ => .refl _⟩

theorem KeepsUnits.trans (h : KeepsUnits s t) (h' : KeepsUnits t u) : KeepsUnits s u := ⟨fun a b => (h.unit a b).trans (h'.unit a b)⟩

theorem KeepsUnits.of_cores (h : t.cores = s.cores) : KeepsUnits s t := ⟨fun a b => by rw [State.core, State.core, h]; exact .refl _⟩

theorem KeepsUnits.foldl {β : Type} {f : State → β → State} (h : ∀ u x, KeepsUnits u (f u x)) (l : List β) (s : State) : KeepsUnits s (l.foldl f s) :=
  List.foldlRecOn (motive := KeepsUnits s) l f (.refl s) fun u hu x _ => hu.trans (h u x)

theorem modCore_keepsUnits (s : State) (a b : Nat) {f : Core → Core} (h : Claimed (s.core a b).mx (f (s.core a b)).mx) : KeepsUnits s (s.modCore a b f) := by
  refine ⟨fun u c => ?_⟩
  by_cases hk : unitKey u c = unitKey a b
  · have hc : ∀ t : State, t.core u c = t.core a b := fun t => by rw [State.core, State.core, hk]
    rw [hc, hc, State.core_modCore]
    exact h
  · rw [show (s.modCore a b f).core u c = s.core u c from Tbl.get_set_other _ _ _ _ _ hk]
    exact .refl _

end

/-! ### Events and soft errors (R62, R63, R262) -/

theorem raise_cores (s : State) (unit core slot ty ctx : Nat) (d0 d1 : Word) : (s.raise unit core slot ty ctx d0 d1).cores = s.cores := by
  unfold State.raise State.pushEvent State.setStage State.addLink
  split
  · split <;> rfl
  · split
    · rfl
    · split <;> rfl

theorem countErr_keepsUnits (s : State) (k : Nat) (uncorr : Bool) : KeepsUnits s (countErr s k uncorr) := by
  unfold countErr
  dsimp only
  split
  · refine modCore_keepsUnits _ _ _ ?_
    cases uncorr <;> exact .refl _
  · split
    · exact .of_cores rfl
    · split <;> exact .of_cores rfl

theorem meetBad_keepsUnits (s : State) (k : Nat) : KeepsUnits s (meetBad s k) := (countErr_keepsUnits s _ true).trans (.of_cores (raise_cores ..))

theorem correct_keepsUnits (s : State) (k n : Nat) : KeepsUnits s (correct s k n) :=
  .foldl (f := fun t (e : Nat × Option Nat) => clearErr (countErr t e.1 false) e.1) (fun u e => (countErr_keepsUnits u e.1 false).trans (.of_cores rfl)) _ s

/-! ### Writes (R62, R63) -/

theorem putWord_keepsUnits (s : State) (p : Path) (k : Nat) (bs : List Byte) : KeepsUnits s (putWord s p k bs) := by
  unfold putWord
  split
  · exact meetBad_keepsUnits s k
  · exact (correct_keepsUnits s k _).trans (.foldl (f := fun u i => putByte u p (k + i) (bs.getD i 0)) (fun _ _ => .of_cores rfl) _ _)

theorem putWords_keepsUnits (p : Path) (f : Nat) (s : State) (k : Nat) (bs : List Byte) : KeepsUnits s (putWords s p f k bs) := by
  induction f generalizing s k bs with
  | zero => exact .refl s
  | succ f ih =>
    rw [putWords]
    split
    · exact .refl s
    · exact (putWord_keepsUnits s p k _).trans (ih _ _ _)

/-- A write at the home, whatever errors it meets, leaves the units alone. -/
theorem State.put_keepsUnits (s : State) (p : Path) (k : Nat) (bs : List Byte) : KeepsUnits s (s.put p k bs) := by
  by_cases hb : bs = []
  · subst hb; exact .refl s
  · have hheal : KeepsUnits s (heal s k bs.length) := (KeepsUnits.foldl (fun u (e : Nat × Option Nat) => meetBad_keepsUnits u e.1) _ s).trans (.of_cores rfl)
    rw [s.put_eq p k bs hb]
    exact (hheal.trans (putWords_keepsUnits ..)).trans (.of_cores (State.written_puts ..).cores)

theorem saveSlot_keepsUnits (s : State) (p : Place) : KeepsUnits s (s.saveSlot p) := by
  unfold State.saveSlot
  dsimp only
  split
  · exact ((((((State.put_keepsUnits ..).trans (State.put_keepsUnits ..)).trans (State.put_keepsUnits ..)).trans (State.put_keepsUnits ..)).trans
      (State.put_keepsUnits ..)).trans (State.put_keepsUnits ..)).trans (State.put_keepsUnits ..)
  · exact (State.put_keepsUnits ..).trans (State.put_keepsUnits ..)

/-! ### What waits on a unit (R371, R385) -/

theorem claimRemote_keepsUnits (s : State) (a b : Nat) : KeepsUnits s (claimRemote s a b) := by
  unfold claimRemote
  dsimp only
  split
  · split
    · exact modCore_keepsUnits _ _ _ ((claimAll_claimed _ _).trans ⟨_, _, rfl⟩)
    · exact .refl s
  · exact .refl s

theorem wakeMatrix_keepsUnits (s : State) (a b : Nat) : KeepsUnits s (wakeMatrix s a b) := (claimRemote_keepsUnits s a b).trans (.of_cores rfl)

theorem wakeMatrix_rouses (s : State) (a b : Nat) : Rouses s (wakeMatrix s a b) := by
  have hclaim : Rouses s (claimRemote s a b) := by
    unfold claimRemote
    dsimp only
    split
    · split <;> exact .of_slots rfl
    · exact .of_slots rfl
  exact hclaim.trans (wakeIf_rouses _ _)

theorem feedRings_keepsUnits (s : State) (a b : Nat) : KeepsUnits s (feedRings s a b) := by
  unfold feedRings
  dsimp only
  split
  · exact .refl s
  · exact (modCore_keepsUnits _ _ _ ⟨_, _, rfl⟩).trans (wakeMatrix_keepsUnits ..)

theorem feedRings_rouses (s : State) (a b : Nat) : Rouses s (feedRings s a b) := by
  unfold feedRings
  dsimp only
  split
  · exact .of_slots rfl
  · refine Rouses.trans ?_ (wakeMatrix_rouses _ a b)
    exact .of_slots rfl

end Sys2Proof.Machine
end

section
/-! PROOFS. Stores to a slot's state, pre-emption, and the end of a freeze. -/

namespace Sys2Proof.Machine

/-! ### Slots that wait for nothing -/

theorem wakeIf_slot_unwaiting {s : State} {p : Place} (h : (s.slot p).wait = none) (f : Nat → Wait → Bool) : (wakeIf s f).slot p = s.slot p := by
  unfold State.slot at h ⊢
  unfold Tbl.get at h ⊢
  rw [wakeIf, Tbl.look_map]
  · generalize Tbl.look s.slots (slotKey p) = o at h ⊢
    cases o with
    | none => rfl
    | some x => simp [show x.wait = none from h]
  · intro e
    split
    · split <;> rfl
    · rfl

theorem quitCounters_slot {s : State} {p q : Place} (h : (s.slot q).wait = none) : (quitCounters s p).slot q = s.slot q := by
  unfold quitCounters
  dsimp only
  split
  · rfl
  · refine (wakeIf_slot_unwaiting ?_ _).trans rfl
    exact h

/-- A slot that becomes FREE keeps what `Slot.emptied` keeps, and nothing else (R216, R241). -/
theorem freeSlot_slot (s : State) (p : Place) : (freeSlot s p).slot p = (s.slot p).emptied := by
  unfold freeSlot
  extract_lets t drop u v
  have hv : v.slot p = (s.slot p).emptied := by
    have ht : t.slot p = (s.slot p).emptied := State.slot_modSlot ..
    unfold v
    split <;> exact ht
  rw [quitCounters_slot (by rw [hv]; rfl), hv]

/-! ### The stores (R215, R216) -/

section
variable {s : State} (hok : s.argPlace.ok = true)
include hok

theorem slotStart_starts (hf : (s.slot s.argPlace).st = .free) (hr : (s.bed s.argPlace.unit).rst.state = 0) :
    Acts .slotStart s fun t => (t.slot s.argPlace).st = .ready ∧ (t.slot s.argPlace).held = false ∧ (t.slot s.argPlace).name = s.argPlace.name ∧
      (t.slot s.argPlace).arvV = false ∧ (t.slot s.argPlace).resv = none ∧ t.mem = s.mem := by
  have hx : (startSlot s s.argPlace 3 none).slot s.argPlace = { (s.slot s.argPlace).emptied with
      st := .ready, name := s.argPlace.name, entry := true, fresh := true, gangPrio := 3, gang := none, arvV := false } := by
    rw [State.slot, startSlot_slots, ← State.slot, State.slot_modSlot]
  refine ⟨startSlot s s.argPlace 3 none, ?_, ?_⟩
  · rw [exec_slotStart, execSlotStart, if_pos ⟨hok, hr⟩, slotStart, if_pos hf]
  · beta_reduce; rw [hx]; exact ⟨rfl, rfl, rfl, rfl, rfl, rfl⟩

theorem slotDiscard_frees (hst : (s.slot s.argPlace).st = .ready ∨ (s.slot s.argPlace).st = .park) (hg : (s.slot s.argPlace).gang = none) :
    Acts .slotDiscard s fun t => (t.slot s.argPlace).st = .free ∧ (t.slot s.argPlace).resv = none ∧ t.mem = s.mem := by
  refine ⟨freeSlot s s.argPlace, ?_, ?_⟩
  · rw [exec_slotDiscard, execSlotDiscard, if_pos hok, slotDiscard, if_pos hst, hg]; rfl
  · beta_reduce; rw [freeSlot_slot]; exact ⟨rfl, rfl, freeSlot_mem ..⟩

theorem slotReleaseLost_frees (hst : (s.slot s.argPlace).st = .lost) :
    Acts .slotReleaseLost s fun t => (t.slot s.argPlace).st = .free ∧ t.mem = s.mem := by
  refine ⟨freeSlot s s.argPlace, ?_, ?_⟩
  · rw [exec_slotReleaseLost, execSlotReleaseLost, if_pos hok, slotReleaseLost, if_pos hst]
  · exact ⟨freeSlot_free .., freeSlot_mem ..⟩

omit hok in
theorem slotStart_ignored (hst : (s.slot s.argPlace).st ≠ .free) : exec .slotStart s = .next s := by
  rw [exec_slotStart, execSlotStart, slotStart, if_neg hst, ite_self]

theorem slotResume_readies (hst : (s.slot s.argPlace).st = .park) :
    exec .slotResume s = .next (s.setSlot s.argPlace { s.slot s.argPlace with st := .ready, parkWhy := 0, held := false, wait := none }) := by
  rw [exec_slotResume, execSlotResume, if_pos hok, slotResume, if_pos hst]; rfl

theorem slotHold_parks (hst : (s.slot s.argPlace).st = .ready) :
    exec .slotHold s = .next (s.setSlot s.argPlace { s.slot s.argPlace with st := .park, parkWhy := 0, held := false }) := by
  rw [exec_slotHold, execSlotHold, if_pos hok, slotHold, if_pos hst]; rfl

theorem slotResumeHeld_resumes (hst : (s.slot s.argPlace).st = .ready) (hh : (s.slot s.argPlace).held = true) :
    exec .slotResumeHeld s = .next (s.setSlot s.argPlace { s.slot s.argPlace with held := false }) := by
  rw [exec_slotResumeHeld, execSlotResumeHeld, if_pos hok, slotResumeHeld, if_pos ⟨hst, hh⟩]; rfl

theorem preemptRequest_sets (hst : (s.slot s.argPlace).st = .run ∨ (s.slot s.argPlace).st = .wait) :
    exec .preemptRequest s = .next (s.setSlot s.argPlace { s.slot s.argPlace with preq := true }) := by
  have haway : (s.slot s.argPlace).st ≠ .away := fun h => by rw [h] at hst; exact hst.elim SlotState.noConfusion SlotState.noConfusion
  rw [exec_preemptRequest, execPreemptRequest, if_pos hok]
  simp only [preemptRequest, if_neg haway, if_pos hst]
  rfl

end

/-! ### Pre-emption (R255) -/

theorem quitCounters_rouses (s : State) (p : Place) : Rouses s (quitCounters s p) := by
  unfold quitCounters
  dsimp only
  split
  · exact .of_slots rfl
  · exact (Rouses.of_slots rfl).trans (wakeIf_rouses _ _)

theorem withdrawMatrix_rouses (s : State) (p : Place) : Rouses s (withdrawMatrix s p) := by
  unfold withdrawMatrix
  dsimp only
  split
  · exact .of_slots rfl
  · refine Rouses.trans ?_ (wakeMatrix_rouses _ p.unit p.core)
    exact .of_slots rfl

theorem Roused.th {x y : Slot} (h : Roused x y) : y.th = x.th := by obtain ⟨_, _, _, _, _, _, rfl⟩ := h; rfl

theorem quitCounters_keepsUnits (s : State) (p : Place) : KeepsUnits s (quitCounters s p) := by
  have hunits : ∀ {t : State} {f : Core → Core}, t.cores = Tbl.mapV f s.cores → (∀ c, (f c).mx = c.mx) → KeepsUnits s t := fun {t f} ht hf => ⟨fun u c => by
    rw [State.core, State.core, ht, Tbl.get_mapV_congr (g := Core.mx) hf]
    exact .refl _⟩
  unfold quitCounters
  dsimp only
  split
  · exact hunits rfl fun _ => rfl
  · exact hunits rfl fun _ => rfl

/-- A slot that withdraws from its core's unit leaves the unit with its owner. -/
theorem withdrawMatrix_own (s : State) (p : Place) : ((withdrawMatrix s p).coreAt p).mx.own = (s.coreAt p).mx.own := by
  unfold withdrawMatrix
  extract_lets m mine m' m''
  have hm : m''.own = m.own := Claimed.own (m := m') (.foldl (fun m f => releaseJob_claimed m f.job) mine m')
  split
  · rfl
  · have h := ((wakeMatrix_keepsUnits (s.modCoreAt p fun c => { c with mx := m'' }) p.unit p.core).unit p.unit p.core).own
    exact h.trans ((congrArg (fun c : Core => c.mx.own) (State.coreAt_modCoreAt s p _)).trans hm)

/-- A slot that leaves what it waits in keeps its name and its thread, and its core's unit its owner. -/
theorem quitWaits_keeps (s : State) (p : Place) :
    ((quitWaits s p).slot p).name = (s.slot p).name ∧ ((quitWaits s p).slot p).th = (s.slot p).th ∧ ((quitWaits s p).coreAt p).mx.own = (s.coreAt p).mx.own := by
  have h : ∀ t : State, t.slots = s.slots → t.cores = s.cores → let w := withdrawMatrix (quitCounters t p) p
      (w.slot p).name = (s.slot p).name ∧ (w.slot p).th = (s.slot p).th ∧ (w.coreAt p).mx.own = (s.coreAt p).mx.own := fun t hs hc => by
    have hr := (((Rouses.of_slots hs).trans (quitCounters_rouses t p)).trans (withdrawMatrix_rouses _ p)) p
    have hown := (((KeepsUnits.of_cores hc).trans (quitCounters_keepsUnits t p)).unit p.unit p.core).own
    exact ⟨hr.name, hr.th, (withdrawMatrix_own ..).trans hown⟩
  exact h _ rfl rfl

theorem cutWait_cores (s : State) (p : Place) : (cutWait s p).cores = s.cores := by
  unfold cutWait
  split <;> rfl

theorem stopStream_cores (s : State) (p : Place) : (stopStream s p).cores = s.cores := by
  unfold stopStream
  split
  · refine List.foldlRecOn (motive := fun t : State => t.cores = s.cores) _ _ rfl fun t ht k _ => ?_
    dsimp only
    split
    · split <;> exact ht
    · exact ht
  · rfl

/-- A pre-empted thread is held READY at home, its core's unit being another context's (R255). -/
theorem saveHome_holds {s : State} {p : Place} (hown : (s.coreAt p).mx.own ≠ some (s.slot p).th.ctx) : ((saveHome s p).slot p).st = .ready ∧
    ((saveHome s p).slot p).held = true ∧ ((saveHome s p).slot p).preq = false ∧ ((saveHome s p).slot p).resv = none ∧ ((saveHome s p).slot p).wait = none := by
  unfold saveHome
  extract_lets x ctx t u v
  have ht : t.cores = s.cores := (stopStream_cores ..).trans (cutWait_cores ..)
  have hv : (v.coreAt p).mx.own = (s.coreAt p).mx.own := (((KeepsUnits.of_cores ht).trans (saveSlot_keepsUnits t p)).unit p.unit p.core).own
  rw [if_neg fun h => hown (hv.symm.trans h.2.1)]
  unfold v
  rw [State.slot_modSlot]
  exact ⟨rfl, rfl, rfl, rfl, rfl⟩

theorem preemption_holds {s : State} (hok : s.argPlace.ok = true) (hm : mayPreempt s s.argPlace = true) (ha : s.away s.argPlace = false)
    (hown : (s.coreAt s.argPlace).mx.own ≠ some (s.slot s.argPlace).th.ctx) :
    Acts .preemption s fun t => (t.slot s.argPlace).st = .ready ∧ (t.slot s.argPlace).held = true ∧ (t.slot s.argPlace).preq = false ∧
      (t.slot s.argPlace).resv = none ∧ (t.slot s.argPlace).wait = none := by
  obtain ⟨hname, hth, howner⟩ := quitWaits_keeps s s.argPlace
  have haway : (quitWaits s s.argPlace).away s.argPlace = false := by rw [State.away, hname]; exact ha
  refine ⟨saveHome (quitWaits s s.argPlace) s.argPlace, ?_, saveHome_holds (by rw [howner, hth]; exact hown)⟩
  rw [exec_preemption, execPreemption, if_pos hok, preempt, if_pos hm]
  simp only [haway, Bool.false_eq_true, if_false]

/-! ### The end of a freeze (R257) -/

theorem dropMatrix_empties (s : State) (u c : Nat) : ((dropMatrix s u c).core u c).mx = Matrix.empty := by
  unfold dropMatrix
  exact congrArg Core.mx (State.core_modCore s u c fun k => { k with mx := Matrix.empty })

theorem freezeTo_empties (s : State) (u c : Nat) (g : Img) : ((freezeTo s u c g).core u c).mx = Matrix.empty := by
  unfold freezeTo
  dsimp only
  split <;> exact dropMatrix_empties ..

theorem seeImage_noErrs {s : State} (h : s.errs = []) (u c : Nat) (ctx : BitVec 12) : s.seeImage u c ctx = s := by
  unfold State.seeImage
  dsimp only
  split
  · split
    · exact see_noErrs _ _ _ h
    · rfl
  · rfl

section
variable {s : State} (hf : (s.coreAt s.argPlace).mx.freezing = some (s.argPlace.slot, none)) (hw : (s.slot s.argPlace).wait = some .freeze) (herrs : s.errs = [])
include hf hw herrs

theorem freezeImageWritten_saves {k : Nat} (hk : s.imageKey s.argPlace.unit s.argPlace.core (s.slot s.argPlace).th.ctx = some k) :
    Acts .freezeImageWritten s fun t => (t.slot s.argPlace).st = .ready ∧ (t.slot s.argPlace).held = true ∧ (t.coreAt s.argPlace).mx.own = none := by
  refine ⟨(freezeTo s s.argPlace.unit s.argPlace.core (wholeAt k)).modSlot s.argPlace fun y => { y with st := .ready, held := true, preq := false, wait := none }, ?_, ?_⟩
  · rw [exec_freezeImageWritten, execFreezeImageWritten]
    simp only [hf, hw, endFreeze, seeImage_noErrs herrs, hk, and_self, if_true]
  · beta_reduce
    rw [State.slot_modSlot]
    exact ⟨rfl, rfl, congrArg Matrix.own (freezeTo_empties s s.argPlace.unit s.argPlace.core (wholeAt k))⟩

theorem freezeImageWritten_parks (hk : s.imageKey s.argPlace.unit s.argPlace.core (s.slot s.argPlace).th.ctx = none) :
    Acts .freezeImageWritten s fun t => (t.slot s.argPlace).st = .park ∧ (t.slot s.argPlace).parkWhy = 5 ∧ (t.coreAt s.argPlace).mx.own = none := by
  let t := (dropMatrix s s.argPlace.unit s.argPlace.core).raise s.argPlace.unit s.argPlace.core s.argPlace.slot 0xB (s.slot s.argPlace).th.ctx.toNat (BitVec.ofNat 64 s.argPlace.slot) 0
  refine ⟨t.modSlot s.argPlace fun y => { y with st := .park, parkWhy := 5, held := false, preq := false, wait := none }, ?_, ?_⟩
  · rw [exec_freezeImageWritten, execFreezeImageWritten]
    simp only [hf, hw, endFreeze, seeImage_noErrs herrs, hk, and_self, if_true]
    rfl
  · have hcores : t.cores = (dropMatrix s s.argPlace.unit s.argPlace.core).cores := raise_cores ..
    have hmx : (t.core s.argPlace.unit s.argPlace.core).mx = Matrix.empty := by rw [State.core, hcores]; exact dropMatrix_empties ..
    beta_reduce
    rw [State.slot_modSlot]
    exact ⟨rfl, rfl, congrArg Matrix.own hmx⟩

end

/-- Settles O46: a lemma for each store, and for each end of a freeze. -/
theorem slotSteps : Obligations.SlotSteps := by
  unfold Obligations.SlotSteps
  intro s p x hok
  refine ⟨slotStart_starts hok, slotStart_ignored, slotResume_readies hok, slotHold_parks hok, slotDiscard_frees hok, slotReleaseLost_frees hok,
    slotResumeHeld_resumes hok, preemptRequest_sets hok, preemption_holds hok, fun hf hw herrs => ⟨fun hk => ?_, freezeImageWritten_parks hf hw herrs⟩⟩
  obtain ⟨k, hk⟩ := Option.isSome_iff_exists.1 hk
  exact freezeImageWritten_saves hf hw herrs hk

end Sys2Proof.Machine
end

section
/-! PROOFS. The matrix unit's own steps: remote commands, the ends of fetches, and operations that start and retire. -/

namespace Sys2Proof.Machine

/-! ### What a write leaves in memory -/

/-- Two states that have the same memory and the same soft errors. -/
def SameStore (s t : State) : Prop := t.mem = s.mem ∧ t.errs = s.errs

section
variable {s t : State}

theorem SameStore.foldl {β : Type} {f : State → β → State} (hf : ∀ u v x, SameStore u v → SameStore (f u x) (f v x)) (l : List β) (h : SameStore s t) :
    SameStore (l.foldl f s) (l.foldl f t) := by
  induction l generalizing s t with
  | nil => exact h
  | cons x l ih => exact ih (hf s t x h)

theorem Reports.sameStore {s t : State} (h : Reports s t) : SameStore s t := by obtain ⟨_, _, _, _, _, _, rfl⟩ := h; exact ⟨rfl, rfl⟩

theorem SameStore.meetBad (h : SameStore s t) (k : Nat) : SameStore (meetBad s k) (meetBad t k) := by
  obtain ⟨hmem, herrs⟩ := h
  obtain ⟨hms, hes⟩ := (meetBad_reports s k).sameStore
  obtain ⟨hmt, het⟩ := (meetBad_reports t k).sameStore
  exact ⟨hmt.trans (hmem.trans hms.symm), het.trans (herrs.trans hes.symm)⟩

theorem SameStore.heal (h : SameStore s t) (k n : Nat) : SameStore (heal s k n) (heal t k n) := by
  unfold Machine.heal
  rw [h.2]
  extract_lets whole u v
  have hfold : SameStore u v := .foldl (f := fun u (e : Nat × Option Nat) => Machine.meetBad u e.1) (fun _ _ x huv => huv.meetBad x.1) _ h
  exact ⟨hfold.1, congrArg (List.filter fun e => !whole e) hfold.2⟩

theorem SameStore.correct (h : SameStore s t) (k n : Nat) : SameStore (correct s k n) (correct t k n) := by
  unfold Machine.correct errsIn
  rw [h.2]
  refine .foldl (fun u v x huv => ?_) _ h
  obtain ⟨hmu, heu⟩ := (countErr_reports u x.1 false).sameStore
  obtain ⟨hmv, hev⟩ := (countErr_reports v x.1 false).sameStore
  exact ⟨hmv.trans (huv.1.trans hmu.symm), congrArg (List.filter fun (e : Nat × Option Nat) => e.1 != x.1) (hev.trans (huv.2.trans heu.symm))⟩

theorem SameStore.putWord (h : SameStore s t) (p : Path) (k : Nat) (bs : List Byte) : SameStore (putWord s p k bs) (putWord t p k bs) := by
  have he : errOf t k = errOf s k := by rw [errOf, errOf, h.2]
  unfold Machine.putWord
  rw [he]
  split
  · exact h.meetBad k
  · refine .foldl (fun u v x huv => ?_) _ (h.correct k _)
    exact ⟨congrArg (memSet · (k + x) (bs.getD x 0)) huv.1, huv.2⟩

theorem SameStore.putWords (p : Path) (f : Nat) (h : SameStore s t) (k : Nat) (bs : List Byte) : SameStore (putWords s p f k bs) (putWords t p f k bs) := by
  induction f generalizing s t k bs with
  | zero => exact h
  | succ f ih =>
    rw [Machine.putWords, Machine.putWords]
    split
    · exact h
    · exact ih (h.putWord ..) _ _

/-- What a write leaves in memory depends on memory and its soft errors only (R62, R63). -/
theorem SameStore.put (h : SameStore s t) (p : Path) (k : Nat) (bs : List Byte) : SameStore (s.put p k bs) (t.put p k bs) := by
  by_cases hb : bs = []
  · subst hb; exact h
  · have hw := (h.heal k bs.length).putWords p (bs.length + 1) k bs
    rw [s.put_eq p k bs hb, t.put_eq p k bs hb, SameStore, State.written_mem, State.written_mem, (State.written_puts ..).errs, (State.written_puts ..).errs]
    exact hw

end

/-! ### The rows of a `macc.st` (R381) -/

theorem writeRows_keepsUnits (s : State) (u c a : Nat) (rows : List Nat) (fmt : Nat) (f : Nat → Bool) : KeepsUnits s (writeRows s u c a rows fmt f) := by
  refine .foldl (fun _ _ => ?_) _ s
  exact State.put_keepsUnits ..

theorem writeRows_mem {s t : State} (h : SameStore s t) {u c : Nat} (hacc : (t.core u c).mx.acc = (s.core u c).mx.acc) (a : Nat) (rows : List Nat) (fmt : Nat)
    (f : Nat → Bool) : (writeRows t u c a rows fmt f).mem = (writeRows s u c a rows fmt f).mem := by
  have hv : (t.core u c).mx.accAt a = (s.core u c).mx.accAt a := by rw [Matrix.accAt, Matrix.accAt, hacc]
  unfold writeRows
  rw [hv]
  refine (SameStore.foldl (fun _ _ _ huv => ?_) _ h).1
  exact huv.put ..

/-! ### Changing a unit -/

@[simp] theorem State.unit_modUnit (s : State) (u c : Nat) (f : Matrix → Matrix) : ((s.modUnit u c f).core u c).mx = f (s.core u c).mx :=
  congrArg Core.mx (State.core_modCore s u c fun k => { k with mx := f k.mx })

/-! ### Remote commands (R234, R371, R385) -/

section
variable {s : State} {q : Pkt} {x y : Nat} (herrs : s.errs = [])
include herrs

theorem seeCap_noErrs (u c : Nat) (q : Pkt) : seeCap s u c q = s := by
  unfold seeCap
  split
  · exact see_noErrs _ _ _ herrs
  · rfl

section
variable (hq : s.pkts[s.arg.index]? = some q) (hl : q.loc = .atCore x y) (hr : q.resp = false) (hk : q.kind = 0x13)
include hq hl hr hk

theorem remoteMatrixCommand_arrives : exec .remoteMatrixCommand s = .next (
    if (remoteOk s (xyCore x y).1 (xyCore x y).2 q true).isNone then nackPkt s s.arg.index q 5
    else if 2 ≤ (s.core (xyCore x y).1 (xyCore x y).2).mx.remq.length then nackPkt s s.arg.index q 4
    else (dropPkt s s.arg.index).modUnit (xyCore x y).1 (xyCore x y).2 fun m => { m with remq := m.remq ++ [q] }) := by
  rw [exec_remoteMatrixCommand, execRemoteMatrixCommand]
  simp only [hq, hl, hr, hk, Bool.false_eq_true, ne_eq, not_true_eq_false, or_self, if_false, seeCap_noErrs herrs]
  split
  · rfl
  · split <;> rfl

theorem remoteMatrixCommand_queues (hok : (remoteOk s (xyCore x y).1 (xyCore x y).2 q true).isSome = true)
    (hlen : (s.core (xyCore x y).1 (xyCore x y).2).mx.remq.length < 2) : Acts .remoteMatrixCommand s fun t =>
      t.pkts = s.pkts.eraseIdx s.arg.index ∧ (t.core (xyCore x y).1 (xyCore x y).2).mx.remq = (s.core (xyCore x y).1 (xyCore x y).2).mx.remq ++ [q] := by
  refine ⟨_, remoteMatrixCommand_arrives herrs hq hl hr hk, ?_⟩
  rw [if_neg (by rw [Option.isNone_iff_eq_none, ← Option.not_isSome_iff_eq_none]; exact not_not.2 hok), if_neg (Nat.not_le.2 hlen)]
  exact ⟨rfl, congrArg Matrix.remq (State.unit_modUnit (dropPkt s s.arg.index) _ _ _)⟩

theorem remoteMatrixCommand_rejects (hok : remoteOk s (xyCore x y).1 (xyCore x y).2 q true = none) :
    Acts .remoteMatrixCommand s fun t => Nacks s q t 5 ∧ t.cores = s.cores := by
  refine ⟨_, remoteMatrixCommand_arrives herrs hq hl hr hk, ?_⟩
  rw [if_pos (by rw [hok]; rfl)]
  exact ⟨nackPkt_nacks s q 5, rfl⟩

theorem remoteMatrixCommand_busy (hok : (remoteOk s (xyCore x y).1 (xyCore x y).2 q true).isSome = true)
    (hlen : 2 ≤ (s.core (xyCore x y).1 (xyCore x y).2).mx.remq.length) : Acts .remoteMatrixCommand s fun t => Nacks s q t 4 ∧ t.cores = s.cores := by
  refine ⟨_, remoteMatrixCommand_arrives herrs hq hl hr hk, ?_⟩
  rw [if_neg (by rw [Option.isNone_iff_eq_none, ← Option.not_isSome_iff_eq_none]; exact not_not.2 hok), if_pos hlen]
  exact ⟨nackPkt_nacks s q 4, rfl⟩

end

end

/-! ### A remote command starts (R234, R385) -/

/-- A remote command of a product waits for its claims; any other has none to make. -/
theorem claimRemote_begun {s : State} {u c n : Nat} {a : Option MAct} (h : (s.core u c).mx.begun = some ⟨n, none, a, none⟩) : claimRemote s u c = s := by
  unfold claimRemote
  dsimp only
  rw [h]

theorem countUsed_cores {s : State} (h : s.errs = []) (u c n : Nat) : (countUsed s u c n).cores = s.cores := (State.put_puts h ..).cores

/-- A unit whose remote command leaves the head of the queue. -/
def Matrix.unqueued (m : Matrix) : Matrix := { m with remq := m.remq.drop 1, begun := none, fetches := m.fetches.filter (·.remote.isNone) }

/-- A remote command that fetches nothing starts on a unit with nothing to do (R234). -/
theorem remoteOn_starts {t : State} {u c : Nat} {q : Pkt} {b : Begun} {act : MAct} (ha : b.act = some act) (hi : (t.core u c).mx.idle = true)
    (ho : (t.core u c).mx.ops = []) : remoteOn t u c q b = startRemote (t.modUnit u c Matrix.unqueued) u c b.entry q act [] := by
  unfold remoteOn
  dsimp only
  rw [ha]
  dsimp only
  rw [hi, ho]
  rfl

theorem startRemote_unit {t : State} (h : t.errs = []) (u c n : Nat) (q : Pkt) (act : MAct) (claims : List (Nat × BitVec 32)) :
    ((startRemote t u c n q act claims).core u c).mx = { (t.core u c).mx with
      ops := ⟨act, claims, none, some (q, n), true, 0, (t.core u c).mx.taken⟩ :: (t.core u c).mx.ops, lastRemote := true, taken := (t.core u c).mx.taken + 1 } := by
  rw [startRemote, State.core, countUsed_cores, ← State.core, State.unit_modUnit]
  exact h

/-- A `macc.zero` that has the unit to itself starts at once (R385). -/
theorem remoteCommandStart_zeroes {s : State} {u c n : Nat} {q : Pkt} {rest : List Pkt} {d : BitVec 2} (hu : u = s.arg.unit) (hc : c = s.arg.core) (herrs : s.errs = [])
    (hq : (s.core u c).mx.remq = q :: rest) (hb : (s.core u c).mx.begun = none) (hok : remoteOk s u c q false = some (n, .maccZero d))
    (hi : (s.core u c).mx.idle = true) (ho : (s.core u c).mx.ops = []) : Acts .remoteCommandStart s fun t => (t.core u c).mx.remq = rest ∧ (t.core u c).mx.ops =
      [{ act := .zero d.toNat, claims := [], slot := none, remote := some (q, n), started := true, gone := 0, num := (s.core u c).mx.taken }] := by
  subst hu hc
  let t := s.modUnit s.arg.unit s.arg.core fun m => { m with begun := some ⟨n, none, some (.zero d.toNat), none⟩ }
  have ht : (t.core s.arg.unit s.arg.core).mx = { (s.core s.arg.unit s.arg.core).mx with begun := some ⟨n, none, some (.zero d.toNat), none⟩ } := State.unit_modUnit ..
  have hexec : exec .remoteCommandStart s = .next (remoteOn t s.arg.unit s.arg.core q ⟨n, none, some (.zero d.toNat), none⟩) := by
    have hclaim : claimRemote t s.arg.unit s.arg.core = t := claimRemote_begun (by rw [ht])
    rw [exec_remoteCommandStart, execRemoteCommandStart]
    simp only [hq, hb, seeCap_noErrs herrs, hok, prodOf, quickAct]
    rw [show claimRemote (s.modUnit s.arg.unit s.arg.core fun m => { m with begun := some ⟨n, none, some (.zero d.toNat), none⟩ }) s.arg.unit s.arg.core = t from hclaim, ht]
  have hidle : (t.core s.arg.unit s.arg.core).mx.idle = true := (congrArg Matrix.idle ht).trans hi
  have hops : (t.core s.arg.unit s.arg.core).mx.ops = [] := (congrArg Matrix.ops ht).trans ho
  refine ⟨_, hexec, ?_⟩
  have herrs' : (t.modUnit s.arg.unit s.arg.core Matrix.unqueued).errs = [] := herrs
  beta_reduce
  rw [remoteOn_starts rfl hidle hops, startRemote_unit herrs', State.unit_modUnit, ht]
  exact ⟨congrArg (List.drop 1) hq, congrArg (List.cons _) ho⟩

theorem remoteCommandStart_rejects {s : State} {u c : Nat} {q : Pkt} {rest : List Pkt} (hu : u = s.arg.unit) (hc : c = s.arg.core) (herrs : s.errs = [])
    (hq : (s.core u c).mx.remq = q :: rest) (hb : (s.core u c).mx.begun = none) (hok : remoteOk s u c q false = none) :
    Acts .remoteCommandStart s fun t => (t.core u c).mx.remq = rest ∧ ∃ r hop k unit, t.pkts = s.pkts ++ [r] ∧ r.body = .nack 5 hop k unit ∧ r.id = q.id := by
  subst hu hc
  let t := s.modUnit s.arg.unit s.arg.core fun m => { m with remq := rest }
  refine ⟨{ t with pkts := t.pkts ++ [nackOf q 5] }, ?_, congrArg Matrix.remq (State.unit_modUnit s _ _ fun m => { m with remq := rest }), nackOf q 5, _, _, _, rfl, rfl, rfl⟩
  rw [exec_remoteCommandStart, execRemoteCommandStart]
  simp only [hq, hb, seeCap_noErrs herrs, hok]
  rfl

/-- A remote command that still waits for its claims waits on (R371). -/
theorem remoteCommandStart_waits {s : State} {q : Pkt} {rest : List Pkt} {g : Begun} (hq : (s.core s.arg.unit s.arg.core).mx.remq = q :: rest)
    (hb : (s.core s.arg.unit s.arg.core).mx.begun = some g) (ha : g.act = none) (hj : g.job = none) : exec .remoteCommandStart s = .next s := by
  rw [exec_remoteCommandStart, execRemoteCommandStart]
  simp only [hq, hb, remoteOn, ha, hj]

/-! ### The end of a fetch (R377, R381) -/

theorem Roused.resp {x y : Slot} (h : Roused x y) : y.resp = x.resp := by obtain ⟨_, _, _, _, _, _, rfl⟩ := h; rfl

/-- A unit that has accepted the operation of a fetch. -/
def MFetch.accepted (f : MFetch) (a : MAct) (m : Matrix) : Matrix :=
  Matrix.accept { m with fetches := m.fetches.erase f } a (f.job.claims.map fun c => (c.1, c.2.1)) none none

/-- What a fetch leaves that ends well: its operation is the last of the unit's order, and its word completes. -/
theorem fetchEnd_accepts {s v : State} {p : Place} {f : MFetch} {a : MAct} (hr : f.remote = none) (hp : f.pair = false)
    (hrun : runFetch s f.got p.unit p.core f.job = (v, .ok a)) : let t := fetchEnd s p f
      (t.coreAt p).mx.fetches = (v.coreAt p).mx.fetches.erase f ∧ (∃ b, (t.coreAt p).mx.ops = (v.coreAt p).mx.ops ++ [b] ∧ b.act = a ∧ b.started = false) ∧
      Resp.matrix f.half none ∈ (t.slot p).resp ∧ (t.slot p).wait = none ∧ t.mem = v.mem := by
  let w := v.modUnit p.unit p.core (f.accepted a)
  let y := w.modSlot p fun x => { x.wake with resp := .matrix f.half none :: x.resp }
  have ht : fetchEnd s p f = wakeMatrix y p.unit p.core := by
    unfold fetchEnd
    rw [hrun, hr]
    simp only [hp, Bool.false_eq_true, if_false]
    rfl
  have hmx : (y.core p.unit p.core).mx = f.accepted a (v.core p.unit p.core).mx := State.unit_modUnit v ..
  have hslot : y.slot p = { (w.slot p).wake with resp := .matrix f.half none :: (w.slot p).resp } := State.slot_modSlot ..
  have hunit := (wakeMatrix_keepsUnits y p.unit p.core).unit p.unit p.core
  intro t
  rw [show t = wakeMatrix y p.unit p.core from ht]
  refine ⟨hunit.fetches.trans (by rw [hmx]; rfl), ⟨_, hunit.ops.trans (by rw [hmx]; rfl), rfl, rfl⟩, ?_, ?_, (wakeMatrix_coresSlots ..).mem.trans rfl⟩
  · rw [(wakeMatrix_rouses y p.unit p.core p).resp, hslot]
    exact List.mem_cons_self
  · exact ((wakeMatrix_eases y p.unit p.core).slot p).stays_unwaiting (by rw [hslot]; rfl)

/-- The step that ends a fetch, of a product or of the rows of a `macc.ld`. -/
theorem fetchEnds {s v : State} {f : MFetch} {a : MAct} {product : Bool} (hf : fetchOf s s.argPlace product = some f) (hr : f.remote = none) (hp : f.pair = false)
    (hflag : s.arg.flag = false) (hrun : runFetch s f.got s.arg.unit s.arg.core f.job = (v, .ok a)) :
    Acts (if product then .mmaFetchEnd else .maccLdReadEnd) s fun t =>
      (t.coreAt s.argPlace).mx.fetches = (v.coreAt s.argPlace).mx.fetches.erase f ∧
      (∃ b, (t.coreAt s.argPlace).mx.ops = (v.coreAt s.argPlace).mx.ops ++ [b] ∧ b.act = a ∧ b.started = false) ∧
      Resp.matrix f.half none ∈ (t.slot s.argPlace).resp ∧ (t.slot s.argPlace).wait = none ∧ t.mem = v.mem := by
  have hturn : fetchTurn s s.argPlace f = fetchEnd s s.argPlace f := by rw [fetchTurn, if_pos hflag]
  refine ⟨fetchEnd s s.argPlace f, ?_, fetchEnd_accepts (p := s.argPlace) hr hp hrun⟩
  rw [← hturn]
  unfold State.argPlace at hf
  cases product
  · rw [if_neg Bool.false_ne_true, exec_maccLdReadEnd, execMaccLdReadEnd]
    simp only [hf]
    rfl
  · rw [if_pos rfl, exec_mmaFetchEnd, execMmaFetchEnd]
    simp only [hf]
    rfl

/-! ### Operations that start (R234, R379, R381) -/

/-- All the rows that are left of a `macc.st` are written at once, for its thread (R381). -/
theorem storeTurn_writes {s : State} (hflag : s.arg.flag = false) (u c : Nat) (o : MOp) (rest : List MOp) (k : Nat) (rows : List Nat) (fmt : Nat) :
    ∃ maker, storeTurn s u c o rest k rows fmt = (writeRows { s with maker := maker } u c k rows fmt fun i => !o.gone.testBit i).modUnit u c fun m =>
      { m with ops := { o with started := true, gone := 2 ^ rows.length - 1 } :: rest } := by
  unfold storeTurn
  simp only [hflag, Bool.false_eq_true, if_false, decide_true, Bool.true_or, Bool.and_true]
  split
  · exact ⟨_, rfl⟩
  · exact ⟨s.maker, rfl⟩

section
variable {s : State} {o : MOp} {os : List MOp} (ho : (s.core s.arg.unit s.arg.core).mx.ops = o :: os)
include ho

section
variable (hi : (s.core s.arg.unit s.arg.core).mx.idle = true)
  (hturn : remoteReady s s.arg.unit s.arg.core = false ∨ (s.core s.arg.unit s.arg.core).mx.lastRemote = true)
include hi hturn

omit ho in
theorem localTurn : ((s.core s.arg.unit s.arg.core).mx.idle && !(remoteReady s s.arg.unit s.arg.core && !(s.core s.arg.unit s.arg.core).mx.lastRemote)) = true := by
  rw [hi]
  rcases hturn with h | h <;> simp [h]

theorem matrixOpStart_starts (ha : ∀ k rows fmt, o.act ≠ .store k rows fmt) : Acts .matrixOpStart s fun t =>
    (t.core s.arg.unit s.arg.core).mx.ops = { o with started := true } :: os ∧ (t.core s.arg.unit s.arg.core).mx.acc = (s.core s.arg.unit s.arg.core).mx.acc := by
  refine ⟨s.modUnit s.arg.unit s.arg.core fun m => { m with ops := { o with started := true } :: os, lastRemote := false }, ?_, ?_⟩
  · rw [exec_matrixOpStart, execMatrixOpStart]
    simp only [ho, localTurn hi hturn, if_true]
  · beta_reduce
    rw [State.unit_modUnit]
    exact ⟨rfl, rfl⟩

/-- A `macc.st` that starts writes the rows that it has not written yet. -/
theorem matrixOpStart_stores {k : Nat} {rows : List Nat} {fmt : Nat} (ha : o.act = .store k rows fmt) (hflag : s.arg.flag = false)
    (hheld : rowsHeld s s.arg.unit s.arg.core fmt rows = false) : Acts .matrixOpStart s fun t =>
      (t.core s.arg.unit s.arg.core).mx.ops = { o with started := true, gone := 2 ^ rows.length - 1 } :: os ∧
      (t.core s.arg.unit s.arg.core).mx.acc = (s.core s.arg.unit s.arg.core).mx.acc ∧
      t.mem = (writeRows s s.arg.unit s.arg.core k rows fmt fun i => !o.gone.testBit i).mem := by
  let t := s.modUnit s.arg.unit s.arg.core fun m => { m with lastRemote := false }
  have hacc : (t.core s.arg.unit s.arg.core).mx.acc = (s.core s.arg.unit s.arg.core).mx.acc :=
    (congrArg Matrix.acc (State.unit_modUnit s s.arg.unit s.arg.core fun m => { m with lastRemote := false })).trans rfl
  have hnew : o.started = false := by
    unfold Matrix.idle at hi
    rw [ho] at hi
    simp only [List.any_cons, Bool.and_eq_true, Bool.not_eq_true', Bool.or_eq_false_iff] at hi
    exact hi.2.1
  obtain ⟨maker, hturns⟩ := storeTurn_writes (s := t) hflag s.arg.unit s.arg.core o os k rows fmt
  refine ⟨storeTurn t s.arg.unit s.arg.core o os k rows fmt, ?_, ?_⟩
  · rw [exec_matrixOpStart, execMatrixOpStart]
    simp only [ho, ha, hnew, localTurn hi hturn, hheld, hflag, Bool.false_eq_true, if_false, Bool.not_true, Bool.false_and, Bool.or_false]
    rfl
  · beta_reduce
    rw [hturns, State.unit_modUnit]
    have hunits := (writeRows_keepsUnits { t with maker := maker } s.arg.unit s.arg.core k rows fmt fun i => !o.gone.testBit i).unit s.arg.unit s.arg.core
    have hmem := writeRows_mem (s := s) (t := { t with maker := maker }) ⟨rfl, rfl⟩ (u := s.arg.unit) (c := s.arg.core) hacc k rows fmt fun i => !o.gone.testBit i
    exact ⟨rfl, hunits.acc.trans hacc, hmem⟩

end

/-! ### Operations that retire (R371, R377, R379, R385) -/

/-- The unit, the slot's answer and the packet that a retired operation leaves, before the rings are fed (R377, R385). -/
def State.retireOp (s : State) (u c : Nat) (o : MOp) (rest : List MOp) : State :=
  let s := s.modUnit u c fun m => o.claims.foldl (fun m k => m.retireClaim k.1 k.2) { o.act.apply m with ops := rest }
  let s := match o.act with
    | .store _ rows fmt => performFor s fun l => l.reader == .ls && l.writer == .mx && inRows u c rows fmt l.key
    | _ => s
  let s := match o.slot with
    | some (k, h) => s.modSlot ⟨u, c, k⟩ fun x => { x.wake with resp := .matrix h none :: x.resp }
    | none => s
  match o.remote with
  | some (q, _) => { s with pkts := s.pkts ++ [respond q 0x18 0 .ack] }
  | none => s

theorem matrixOpRetire_retires (hs : o.started = true) (hw : o.written = true) (hf : (s.core s.arg.unit s.arg.core).mx.freezing = none) :
    exec .matrixOpRetire s = .next (wakeMatrix (feedRings (s.retireOp s.arg.unit s.arg.core o os) s.arg.unit s.arg.core) s.arg.unit s.arg.core) := by
  rw [exec_matrixOpRetire, execMatrixOpRetire]
  simp only [ho, hs, hw, hf, Bool.true_eq_false, Option.isSome_none, Bool.false_eq_true, or_self, if_false]
  rfl

omit ho in
/-- What the retired operation leaves: its effect on the unit, and the answers to its slot and its sender. -/
theorem State.retireOp_leaves (u c : Nat) : let t := s.retireOp u c o os
    Claimed { o.act.apply (s.core u c).mx with ops := os } (t.core u c).mx ∧ t.mem = s.mem ∧
      (∀ k h, o.slot = some (k, h) → Resp.matrix h none ∈ (t.slot ⟨u, c, k⟩).resp) ∧ t.pkts = s.pkts ++ (o.remote.map fun r => respond r.1 0x18 0 .ack).toList := by
  unfold State.retireOp
  extract_lets a b d t
  have ha : (a.core u c).mx = o.claims.foldl (fun m k => m.retireClaim k.1 k.2) { o.act.apply (s.core u c).mx with ops := os } :=
    State.unit_modUnit s u c fun m => o.claims.foldl (fun m k => m.retireClaim k.1 k.2) { o.act.apply m with ops := os }
  have hunit : Claimed { o.act.apply (s.core u c).mx with ops := os } (a.core u c).mx := by rw [ha]; exact retireClaims_claimed ..
  obtain ⟨lag, hb⟩ : ∃ lag, b = { a with lag := lag } := by
    unfold b
    split
    · unfold performFor
      split
      · exact ⟨_, rfl⟩
      · exact ⟨a.lag, rfl⟩
    · exact ⟨a.lag, rfl⟩
  obtain ⟨hd, hresp⟩ : (∃ slots, d = { b with slots := slots }) ∧ ∀ k h, o.slot = some (k, h) → Resp.matrix h none ∈ (d.slot ⟨u, c, k⟩).resp := by
    unfold d
    split
    · next k h hs =>
      refine ⟨⟨_, rfl⟩, fun k' h' hs' => ?_⟩
      cases hs.symm.trans hs'
      rw [State.slot_modSlot]
      exact List.mem_cons_self
    · next hs => exact ⟨⟨b.slots, rfl⟩, fun k h hs' => by cases hs.symm.trans hs'⟩
  obtain ⟨slots, hd⟩ := hd
  unfold t
  split
  · next hr => exact ⟨by rw [hd, hb]; exact hunit, by rw [hd, hb]; rfl, hresp, by rw [hr, hd, hb]; rfl⟩
  · next hr => exact ⟨by rw [hd, hb]; exact hunit, by rw [hd, hb]; rfl, hresp, by rw [hr, hd, hb]; exact (List.append_nil _).symm⟩

theorem matrixOpRetire_ends (hs : o.started = true) (hw : o.written = true) (hf : (s.core s.arg.unit s.arg.core).mx.freezing = none) :
    Acts .matrixOpRetire s fun t => (t.core s.arg.unit s.arg.core).mx.ops = os ∧
      (t.core s.arg.unit s.arg.core).mx.acc = (o.act.apply (s.core s.arg.unit s.arg.core).mx).acc ∧ t.mem = s.mem ∧
      (∀ k h, o.slot = some (k, h) → Resp.matrix h none ∈ (t.slot ⟨s.arg.unit, s.arg.core, k⟩).resp) ∧
      (∀ r k, o.remote = some (r, k) → ∃ z, t.pkts = s.pkts ++ [z] ∧ z.kind = 0x18 ∧ z.id = r.id) := by
  obtain ⟨hunit, hmem, hresp, hpkts⟩ := State.retireOp_leaves (s := s) (o := o) (os := os) s.arg.unit s.arg.core
  generalize hv : s.retireOp s.arg.unit s.arg.core o os = v at hunit hmem hresp hpkts
  have hunits := hunit.trans (((feedRings_keepsUnits v s.arg.unit s.arg.core).trans (wakeMatrix_keepsUnits _ s.arg.unit s.arg.core)).unit s.arg.unit s.arg.core)
  have hcs : CoresSlots v (wakeMatrix (feedRings v s.arg.unit s.arg.core) s.arg.unit s.arg.core) := (feedRings_coresSlots ..).trans (wakeMatrix_coresSlots ..)
  have hrouses : Rouses v (wakeMatrix (feedRings v s.arg.unit s.arg.core) s.arg.unit s.arg.core) := (feedRings_rouses _ _ _).trans (wakeMatrix_rouses _ _ _)
  refine ⟨_, hv ▸ matrixOpRetire_retires ho hs hw hf, hunits.ops, hunits.acc, hcs.mem.trans hmem, fun k h hslot => ?_, fun r k hrem => ?_⟩
  · rw [(hrouses _).resp]
    exact hresp k h hslot
  · obtain ⟨_, _, hcs⟩ := hcs
    rw [hrem] at hpkts
    exact ⟨respond r 0x18 0 .ack, by rw [hcs]; exact hpkts, rfl, rfl⟩

end

/-- Settles O45: a lemma for each outcome of each step. -/
theorem matrixSteps : Obligations.MatrixSteps := by
  unfold Obligations.MatrixSteps
  intro s v q rest x y n d f a o os
  dsimp only
  exact ⟨fun ⟨herrs, hq, hl, hr, hk⟩ hok hlen => remoteMatrixCommand_queues herrs hq hl hr hk hok hlen,
    fun ⟨herrs, hq, hl, hr, hk⟩ hok => remoteMatrixCommand_rejects herrs hq hl hr hk hok,
    fun ⟨herrs, hq, hl, hr, hk⟩ hok hlen => remoteMatrixCommand_busy herrs hq hl hr hk hok hlen,
    remoteCommandStart_zeroes rfl rfl, fun g => remoteCommandStart_waits, remoteCommandStart_rejects rfl rfl,
    fetchEnds (product := true), fetchEnds (product := false),
    fun ho hi hturn => ⟨matrixOpStart_starts ho hi hturn, fun k rows fmt => matrixOpStart_stores ho hi hturn⟩, matrixOpRetire_ends⟩

end Sys2Proof.Machine
end

section
/-! PROOFS. Taking a trap: the frame and the thread at its handler; and the end of a thread that traps in a handler, with the event that tells of it. -/

namespace Sys2Proof.Machine

/-! ### Aborts and cut waits before the trap (R223, R259, R260) -/

/-- A fault that its slot's block passes on to the barrier fabric adds an abort to those on their way, and changes nothing else. -/
theorem abortBlock_eq (s : State) (p : Place) (cause sub : Nat) : ∃ l, abortBlock s p cause sub = { s with xaborts := l } := by
  unfold abortBlock
  split
  · exact ⟨s.xaborts, rfl⟩
  · exact ⟨_, rfl⟩

theorem cutWait_mem (s : State) (p : Place) : (cutWait s p).mem = s.mem := by
  unfold cutWait
  split <;> rfl

theorem cutWait_eases (s : State) (p : Place) : Eases s (cutWait s p) := by
  unfold cutWait
  split
  · exact modSlot_eases s p (.of_eq rfl rfl rfl)
  · exact .refl s

/-! ### Taking a trap (R249 to R253) -/

section
variable (s : State) (p : Place) (t : Trap) (aword inxb : Bool)

/-- `ecause` as a trap leaves it (R253). -/
def trapCause : Word :=
  BitVec.ofNat 64 (t.cause + b2n aword * 256 + b2n (s.slot p).pkt.isSome * 512 + b2n inxb * 1024 + t.sub % 65536 * 65536)

/-- The words of the frame that a trap writes (R253). -/
def trapFrame : List Word :=
  frameWords (s.slot p).th.pc (trapCause s p t aword inxb) t.addr (s.statusWord p)
    (BitVec.ofNat 64 (s.cur.cword.toNat + (s.cur.aword.getD 0).toNat * 4294967296)) t.d0 t.d1 s.ts (s.locWord p)

/-- The state with the frame written and the slot's wait, follow mode and stream ended, before the thread enters its handler. -/
def trapFramed : State :=
  stopStream (leaveFollow (cutWait (s.putWs (coreKey p.unit p.core (frameOff p)) (trapFrame s p t aword inxb)) p) p 3) p

/-- A slot as its thread enters its handler (R252). -/
def Slot.trapped (x : Slot) (epc ecause addr : Word) (cause : Nat) (inxb : Bool) : Slot :=
  { x with
    th := { x.th with epc := epc, ecause := ecause, eaddr := addr, pm := x.th.mode, mode := true, td := true, pc := x.th.tvec },
    pkt := none, blk := none, lastBlk := if inxb ∨ cause = 12 then none else x.lastBlk, aligned := none, resv := none, resTurn := none, wait := none, resp := [],
    entry := true, st := .run, backoff := 0, late := [] }

theorem takeTrap_enters (h : (s.slot p).th.td = false) : takeTrap s p t aword inxb none = (trapFramed s p t aword inxb).modSlot p fun y =>
    y.trapped (s.slot p).th.pc (trapCause s p t aword inxb) t.addr t.cause inxb := by
  unfold takeTrap
  rw [if_neg (by simp [h])]
  rfl

theorem takeTrap_doubles (h : (s.slot p).th.td = true) : takeTrap s p t aword inxb none = doubleTrap s p t := by
  unfold takeTrap
  rw [if_pos h]

theorem length_wordsBytes (ws : List Word) : (wordsBytes ws).length = 8 * ws.length := by
  induction ws with
  | nil => rfl
  | cons w ws ih => simp only [wordsBytes, List.flatMap_cons, List.length_append, length_bytesOf, List.length_cons] at ih ⊢; omega

theorem length_trapFrame : (wordsBytes (trapFrame s p t aword inxb)).length = 128 := length_wordsBytes _

/-- Writing the frame and leaving what the slot takes part in ends waits, and leaves every thread. -/
theorem trapFramed_eases : Eases s (trapFramed s p t aword inxb) :=
  (((State.put_eases ..).trans (cutWait_eases _ p)).trans (leaveFollow_eases ..)).trans (stopStream_eases ..)

theorem trapFramed_mem : (trapFramed s p t aword inxb).mem = (s.put .ls (coreKey p.unit p.core (frameOff p)) (wordsBytes (trapFrame s p t aword inxb))).mem :=
  (stopStream_mem ..).trans (cutWait_mem ..)

theorem trapFramed_other : ∀ j, j < coreKey p.unit p.core (frameOff p) ∨ coreKey p.unit p.core (frameOff p) + 128 ≤ j →
    memGet (trapFramed s p t aword inxb).mem j = memGet s.mem j := by
  intro j hj
  rw [trapFramed_mem]
  exact (State.put_other s .ls _ _).2 j (by rwa [length_trapFrame])

theorem trapFramed_frame (he : s.errs = []) (hw : Memory.wf s.mem = true) :
    memGetMany (trapFramed s p t aword inxb).mem (coreKey p.unit p.core (frameOff p)) 128 = wordsBytes (trapFrame s p t aword inxb) := by
  rw [trapFramed_mem, State.put_mem _ _ _ _ he, ← length_trapFrame s p t aword inxb]
  exact memGetMany_memSetMany _ _ _ hw

end

/-! ### What the end of a thread leaves of other slots and of the events (R62, R252, R262) -/

/-- A slot whose wait may be over: its name stays, no reservation is placed, and a state in which no thread waits stays. -/
structure Slot.Abides (x y : Slot) : Prop where
  name : y.name = x.name
  resv : x.resv = none → y.resv = none
  st : x.st ≠ .wait → y.st = x.st

theorem Slot.Abides.refl (x : Slot) : x.Abides x := ⟨rfl, id, fun _ => rfl⟩

theorem Slot.Abides.trans {x y z : Slot} (h : x.Abides y) (h' : y.Abides z) : x.Abides z :=
  ⟨h'.name.trans h.name, fun hx => h'.resv (h.resv hx), fun hx => (h'.st (by rwa [h.st hx])).trans (h.st hx)⟩

/-- A slot that runs again, with what has come for it. -/
theorem Slot.wake_abides (x : Slot) (r : List Resp) : x.Abides { x.wake with resp := r } := ⟨rfl, id, fun h => if_neg h⟩

/-- A staging buffer that may have taken in events: none that it had, or that was held for it, is gone, and no event more has entered it early (R263). -/
structure Staging.Grows (g h : Staging) : Prop where
  recs : g.recs ⊆ h.recs
  held : g.held ⊆ h.held
  owed : h.owed ⊆ g.owed

theorem Staging.Grows.refl (g : Staging) : g.Grows g := ⟨List.Subset.refl _, List.Subset.refl _, List.Subset.refl _⟩

theorem Staging.Grows.trans {g h i : Staging} (a : g.Grows h) (b : h.Grows i) : g.Grows i :=
  ⟨List.Subset.trans a.recs b.recs, List.Subset.trans a.held b.held, List.Subset.trans b.owed a.owed⟩

theorem Staging.add_grows (g : Staging) (e : EvRec) : g.Grows (g.add e) := by
  unfold Staging.add
  split
  · exact ⟨List.Subset.refl _, List.Subset.refl _, List.eraseIdx_subset⟩
  · split
    · exact ⟨List.subset_append_left .., List.Subset.refl _, List.Subset.refl _⟩
    · exact ⟨List.Subset.refl _, List.subset_append_left .., List.Subset.refl _⟩

/-- An event that is raised is in the buffer, or held for it, or had entered it while its action was stopped (R263). -/
theorem Staging.add_tells (g : Staging) (e : EvRec) : e ∈ (g.add e).recs ∨ e ∈ (g.add e).held ∨ g.owed.any e.same = true := by
  unfold Staging.add
  split
  · next i hi =>
    have hany := List.findIdx?_isSome (xs := g.owed) (p := e.same)
    rw [hi] at hany
    exact .inr (.inr hany.symm)
  · split
    · exact .inl (List.mem_append_right _ (List.mem_singleton_self e))
    · exact .inr (.inl (List.mem_append_right _ (List.mem_singleton_self e)))

/-- Waits may have ended and events may have been raised; every slot and every staging buffer abides beside that. -/
structure Abides (s t : State) : Prop where
  slot : ∀ p, (s.slot p).Abides (t.slot p)
  stage : ∀ u, (s.stage u).Grows (t.stage u)

section
variable {s t u : State}

theorem Abides.of_eq (hs : t.slots = s.slots) (hb : t.beds = s.beds) (hr : t.rims = s.rims) : Abides s t := by
  refine ⟨fun p => ?_, fun n => ?_⟩
  · rw [State.slot, State.slot, hs]; exact .refl _
  · rw [State.stage, State.stage, State.bed, State.bed, State.rim, State.rim, hb, hr]; exact .refl _

theorem Abides.refl (s : State) : Abides s s := .of_eq rfl rfl rfl

theorem Abides.trans (h : Abides s t) (h' : Abides t u) : Abides s u :=
  ⟨fun p => (h.slot p).trans (h'.slot p), fun n => (h.stage n).trans (h'.stage n)⟩

/-- The two steps in the other order, the state between them read off the later one. -/
theorem Abides.after (h' : Abides t u) (h : Abides s t) : Abides s u := h.trans h'

theorem Abides.foldl {β : Type} {f : State → β → State} (l : List β) (s : State) (h : ∀ u x, Abides u (f u x)) : Abides s (l.foldl f s) :=
  List.foldlRecOn (motive := Abides s) l f (.refl s) fun u hu x _ => hu.trans (h u x)

theorem Abides.of_map (f : Nat × Slot → Nat × Slot) (hk : ∀ e, (f e).1 = e.1) (ht : ∀ e : Nat × Slot, e.2.Abides (f e).2) (h : t.slots = s.slots.map f)
    (hb : t.beds = s.beds) (hr : t.rims = s.rims) : Abides s t := by
  refine ⟨fun p => ?_, (Abides.of_eq (s := { s with slots := [] }) (t := { t with slots := [] }) rfl hb hr).stage⟩
  unfold State.slot Tbl.get
  rw [h, Tbl.look_map f hk]
  cases Tbl.look s.slots (slotKey p) with
  | none => exact .refl _
  | some x => exact ht (slotKey p, x)

end

theorem modSlot_abides (s : State) (p : Place) {f : Slot → Slot} (h : (s.slot p).Abides (f (s.slot p))) : Abides s (s.modSlot p f) := by
  refine ⟨fun q => ?_, fun n => .refl _⟩
  by_cases hk : slotKey q = slotKey p
  · rw [State.slot_congr _ hk, State.slot_congr _ hk, State.slot_modSlot]; exact h
  · rw [State.slot_modSlot_other _ _ _ _ hk]; exact .refl _

theorem modBed_abides (s : State) (b : Nat) {f : Bed → Bed} (h : (f (s.bed b)).stage = (s.bed b).stage) : Abides s (s.modBed b f) := by
  refine ⟨fun p => .refl _, fun n => ?_⟩
  unfold State.stage
  split
  · by_cases hb : n = b
    · rw [hb, State.bed_modBed, h]; exact .refl _
    · rw [State.bed_modBed_other s f hb]; exact .refl _
  · exact .refl _

theorem modRim_abides (s : State) (b : Nat) {f : Rim → Rim} (h : (f (s.rim b)).stage = (s.rim b).stage) : Abides s (s.modRim b f) := by
  refine ⟨fun p => .refl _, fun n => ?_⟩
  unfold State.stage
  split
  · exact .refl _
  · by_cases hb : n - 16 = b
    · rw [hb, State.rim_modRim, h]; exact .refl _
    · rw [show (s.modRim b f).rim (n - 16) = s.rim (n - 16) from Tbl.get_set_other _ _ _ _ _ hb]; exact .refl _

theorem State.stage_setStage (s : State) (u : Nat) (g : Staging) : (s.setStage u g).stage u = g := by
  unfold State.stage State.setStage
  split
  · rw [State.bed_modBed]
  · rw [State.rim_modRim]

theorem setStage_abides (s : State) (u : Nat) {g : Staging} (h : (s.stage u).Grows g) : Abides s (s.setStage u g) := by
  refine ⟨fun p => by unfold State.setStage; split <;> exact .refl _, fun n => ?_⟩
  by_cases hn : (s.setStage u g).stage n = s.stage n
  · rw [hn]; exact .refl _
  · have hsame : s.stage n = s.stage u ∧ (s.setStage u g).stage n = (s.setStage u g).stage u := by
      unfold State.stage State.setStage at hn ⊢
      by_cases hu : u < 12 <;> by_cases h12 : n < 12 <;> simp only [hu, h12, if_true, if_false, State.bed_modRim] at hn ⊢
      · by_cases hb : n = u
        · exact ⟨by rw [hb], by rw [hb]⟩
        · exact absurd (by rw [State.bed_modBed_other _ _ hb]) hn
      · exact absurd rfl hn
      · exact absurd trivial hn
      · by_cases hb : n - 16 = u - 16
        · exact ⟨by rw [hb], by rw [hb]⟩
        · exact absurd (congrArg Rim.stage (Tbl.get_set_other _ _ _ _ _ hb)) hn
    rw [hsame.1, hsame.2, State.stage_setStage]
    exact h

theorem pushEvent_abides (s : State) (u : Nat) (e : EvRec) : Abides s (s.pushEvent u e) := by
  unfold State.pushEvent
  split
  · exact setStage_abides s u (Staging.add_grows _ e)
  · unfold State.addLink
    split
    · exact .of_eq rfl rfl rfl
    · split <;> exact .of_eq rfl rfl rfl

theorem raise_abides (s : State) (unit core slot ty ctx : Nat) (d0 d1 : Word) : Abides s (s.raise unit core slot ty ctx d0 d1) := pushEvent_abides ..

theorem countErr_abides (s : State) (k : Nat) (uncorr : Bool) : Abides s (countErr s k uncorr) := by
  unfold countErr
  dsimp only
  split
  · exact .of_eq rfl rfl rfl
  · split
    · exact modBed_abides s _ (by split <;> rfl)
    · split
      · exact modRim_abides s _ (by split <;> rfl)
      · exact .refl s

theorem see_abides (s : State) (k n : Nat) : Abides s (s.see k n) := by
  have hcorrect : Abides s (correct s k n) :=
    .foldl (f := fun t (e : Nat × Option Nat) => clearErr (countErr t e.1 false) e.1) _ s fun u e => (countErr_abides u e.1 false).trans (.of_eq rfl rfl rfl)
  have hmeet : Abides s (s.meet k n).1 :=
    hcorrect.trans (.foldl (f := fun t (e : Nat × Option Nat) => meetBad t e.1) _ _ fun u e => (countErr_abides u _ true).trans (raise_abides ..))
  unfold State.see
  dsimp only
  split
  · exact .refl s
  · split
    · exact hmeet.trans (.of_eq rfl rfl rfl)
    · exact hmeet

theorem wakeIf_abides (s : State) (f : Nat → Wait → Bool) : Abides s (wakeIf s f) := by
  refine .of_map _ (fun e => ?_) (fun e => ?_) rfl rfl rfl
  · split
    · split <;> rfl
    · rfl
  · split
    · split
      · exact Slot.wake_abides _ _
      · exact .refl _
    · exact .refl _

theorem wakeBarrier_abides (s : State) (u c n : Nat) (al : Bool) : Abides s (wakeBarrier s u c n al) := by
  refine .of_map _ (fun e => ?_) (fun e => ?_) rfl rfl rfl
  · split <;> rfl
  · split
    · exact Slot.wake_abides _ _
    · exact .refl _

theorem leaveFollow_abides (s : State) (p : Place) (reason : Nat) : Abides s (leaveFollow s p reason) := by
  refine modSlot_abides s p ?_
  split
  · exact .refl _
  · exact ⟨rfl, id, fun h => if_neg fun hw => h hw.2⟩

theorem stopStream_abides (s : State) (p : Place) : Abides s (stopStream s p) := by
  unfold stopStream
  split
  · refine .foldl _ s fun u k => ?_
    dsimp only
    split
    · split
      · exact leaveFollow_abides ..
      · exact modSlot_abides u _ ⟨rfl, id, fun _ => rfl⟩
    · exact .refl u
  · exact .refl s

theorem quitCounters_abides (s : State) (p : Place) : Abides s (quitCounters s p) := by
  unfold quitCounters
  dsimp only
  split
  · exact .of_eq rfl rfl rfl
  · exact (wakeIf_abides ..).after (.of_eq rfl rfl rfl)

theorem freeSlot_abides (s : State) (p : Place) : Abides (s.modSlot p Slot.emptied) (freeSlot s p) := by
  unfold freeSlot
  refine (quitCounters_abides _ p).after ?_
  dsimp only
  split
  · exact (modBed_abides _ p.unit rfl).after (.of_eq rfl rfl rfl)
  · exact .of_eq rfl rfl rfl

theorem giveUpMatrix_abides (s : State) (p : Place) (ctx : BitVec 12) : Abides s (giveUpMatrix s p ctx) := by
  unfold giveUpMatrix
  split
  · unfold dropMatrix wakeCore
    exact (wakeIf_abides ..).after (.of_eq rfl rfl rfl)
  · exact .refl s

theorem hwArrive_abides (s : State) (u c n : Nat) : Abides s (hwArrive s u c n) := by
  have hcore : ∀ t : State, Abides t (finishCoreBar t u c n) := fun t => by
    unfold finishCoreBar
    dsimp only
    split
    · split
      · exact (wakeBarrier_abides ..).after (.of_eq rfl rfl rfl)
      · exact .of_eq rfl rfl rfl
    · exact .refl t
  have hdom : ∀ t : State, Abides t (finishDomBar t u c n) := fun t => by
    unfold finishDomBar
    dsimp only
    split
    · exact (modBed_abides _ u rfl).after (.of_eq rfl rfl rfl)
    · exact .refl t
  unfold hwArrive
  split
  · exact raise_abides ..
  · exact (hdom _).after ((hcore _).after (.of_eq rfl rfl rfl))

theorem gangEnded_abides (s : State) (g : Option (Nat × Nat)) : Abides s (gangEnded s g) := by
  unfold gangEnded
  split
  · exact .refl s
  · next b id =>
    split
    · exact .refl s
    · next x _ =>
      have hleft : ∀ f : Bed → Tbl Gang, Abides s (s.modBed b fun d => { d with gangs := f d }) := fun f => modBed_abides s b rfl
      have htold : ∀ t : State, Abides t (if x.evt then t.raise b 0 0 9 x.ctx.toNat (x.tag.zeroExtend 64) 0 else t) := fun t => by
        split
        · exact raise_abides ..
        · exact .refl t
      split
      · exact hleft _
      · refine (htold _).after ?_
        split
        · exact (hleft _).trans (hwArrive_abides ..)
        · exact hleft _

/-! ### A double trap (R252) -/

section
variable {s : State} {p : Place}

/-- The slot named by a slot's name has that name for its key (R170). -/
theorem slotKey_homePlace (n : BitVec 15) : slotKey (homePlace n) = n.toNat := by
  unfold slotKey homePlace
  dsimp only
  omega

theorem Place.toNat_name (hp : p.ok = true) : p.name.toNat = slotKey p := by
  have hok : p.core < coresOf p.unit ∧ p.slot < 8 := by simpa [Place.ok] using hp
  have hcores : coresOf p.unit ≤ 128 ∧ (p.unit < 22 ∨ coresOf p.unit = 0) := by unfold coresOf; split <;> [omega; (split <;> omega)]
  unfold Place.name slotKey
  rw [BitVec.toNat_ofNat]
  omega

/-- What a double trap's thread leaves behind once its slot is FREE: the home slot that was held AWAY for it is LOST. -/
def freedLost (s : State) (p : Place) : State :=
  if (s.slot p).name = p.name then freeSlot s p else releaseHome (freeSlot s p) (s.slot p).name true

theorem endThread_abides (s : State) (p : Place) : Abides (freedLost s p) (endThread s p true) :=
  (giveUpMatrix_abides ..).trans (gangEnded_abides ..)

theorem freedLost_slot (s : State) (p : Place) : ((freedLost s p).slot p).st = .free ∧ ((freedLost s p).slot p).resv = none := by
  have hp : ((freeSlot s p).slot p).st = .free ∧ ((freeSlot s p).slot p).resv = none := by rw [freeSlot_slot]; exact ⟨rfl, rfl⟩
  unfold freedLost
  split
  · exact hp
  · unfold releaseHome
    extract_lets h
    split
    · next ha =>
      have hk : slotKey p ≠ slotKey h := fun hk => by
        rw [← State.slot_congr _ hk, hp.1] at ha
        exact SlotState.noConfusion ha.1
      rw [if_pos rfl, State.slot_modSlot_other _ _ _ _ hk]
      exact hp
    · exact hp

theorem freedLost_stage (s : State) (p : Place) (u : Nat) : (s.stage u).Grows ((freedLost s p).stage u) := by
  have hfree : (s.stage u).Grows ((freeSlot s p).stage u) := (freeSlot_abides s p).stage u
  unfold freedLost
  split
  · exact hfree
  · unfold releaseHome
    dsimp only
    split
    · exact hfree
    · exact hfree

/-- The home slot held AWAY for a thread that ends elsewhere in a double trap. -/
theorem freedLost_home (hp : p.ok = true) (hn : (s.slot p).name ≠ p.name) (ha : (s.slot (homePlace (s.slot p).name)).st = .away)
    (hh : (s.slot (homePlace (s.slot p).name)).name = (s.slot p).name) : ((freedLost s p).slot (homePlace (s.slot p).name)).st = .lost := by
  have hk : slotKey (homePlace (s.slot p).name) ≠ slotKey p := fun hk => hn (BitVec.eq_of_toNat_eq (by
    rw [← slotKey_homePlace, hk, Place.toNat_name hp]))
  have hx := (freeSlot_abides s p).slot (homePlace (s.slot p).name)
  rw [State.slot_modSlot_other _ _ _ _ hk] at hx
  have haway : ((freeSlot s p).slot (homePlace (s.slot p).name)).st = .away := (hx.st (by simp [ha])).trans ha
  unfold freedLost releaseHome
  rw [if_neg hn]
  dsimp only
  rw [if_pos ⟨haway, hx.name.trans hh⟩, if_pos rfl, State.slot_modSlot]

variable (s p) (t : Trap)

/-- The event of a double trap (R252, R262). -/
def doubleEvent : EvRec :=
  { stamp := (s.see (coreKey p.unit p.core (frameOff p) + 8) 8).ts, src := (s.see (coreKey p.unit p.core (frameOff p) + 8) 8).srcNum p.unit p.core, slot := p.slot, fatal := true, ty := 7,
    ctx := (s.slot p).th.ctx.toNat, d0 := (s.slot p).name.zeroExtend 64,
    d1 := BitVec.ofNat 64 (t.cause + ((s.see (coreKey p.unit p.core (frameOff p) + 8) 8).peekW (coreKey p.unit p.core (frameOff p) + 8)).toNat % 256 * 256) }

/-- The state as the event of a double trap is told and the thread has left what it takes part in. -/
def doubleTold : State :=
  stopStream (leaveFollow ((s.see (coreKey p.unit p.core (frameOff p) + 8) 8).pushEvent p.unit (doubleEvent s p t)) p 3) p

theorem doubleTrap_eq : doubleTrap s p t = endThread (doubleTold s p t) p true := rfl

theorem doubleTold_abides : Abides s (doubleTold s p t) :=
  (((see_abides ..).trans (pushEvent_abides ..)).trans (leaveFollow_abides ..)).trans (stopStream_abides ..)

theorem doubleTold_tells (hp : p.ok = true) : doubleEvent s p t ∈ ((doubleTold s p t).stage p.unit).recs ∨ doubleEvent s p t ∈ ((doubleTold s p t).stage p.unit).held ∨
    (s.stage p.unit).owed.any (doubleEvent s p t).same = true := by
  have hunit : p.unit < 24 := by
    have hok : p.core < coresOf p.unit := (by simpa [Place.ok] using hp : _ ∧ _).1
    unfold coresOf at hok
    split at hok <;> [omega; (split at hok <;> omega)]
  have hsee := see_abides s (coreKey p.unit p.core (frameOff p) + 8) 8
  have hadd := ((s.see (coreKey p.unit p.core (frameOff p) + 8) 8).stage p.unit).add_tells (doubleEvent s p t)
  have hgrows := ((leaveFollow_abides ((s.see (coreKey p.unit p.core (frameOff p) + 8) 8).pushEvent p.unit (doubleEvent s p t)) p 3).trans (stopStream_abides _ p)).stage p.unit
  rw [State.pushEvent, if_pos hunit, State.stage_setStage] at hgrows
  rcases hadd with h | h | h
  · refine .inl ?_
    unfold doubleTold
    rw [State.pushEvent, if_pos hunit]
    exact hgrows.recs h
  · refine .inr (.inl ?_)
    unfold doubleTold
    rw [State.pushEvent, if_pos hunit]
    exact hgrows.held h
  · obtain ⟨e, he, hs⟩ := List.any_eq_true.1 h
    exact .inr (.inr (List.any_eq_true.2 ⟨e, (hsee.stage p.unit).owed he, hs⟩))

theorem doubleEvent_d1 (he : s.errs = []) :
    (doubleEvent s p t).d1 = BitVec.ofNat 64 (t.cause + (s.peekW (coreKey p.unit p.core (frameOff p) + 8)).toNat % 2 ^ 8 * 2 ^ 8) := by
  unfold doubleEvent
  rw [see_noErrs s _ _ he]
  rfl

/-- A double trap frees its slot, tells of itself, and loses the home slot that was held AWAY for its thread. -/
theorem doubleTrap_ends (hp : p.ok = true) : let u := doubleTrap s p t
    ((u.slot p).st = .free ∧ (u.slot p).resv = none) ∧
    (doubleEvent s p t ∈ (u.stage p.unit).recs ∨ doubleEvent s p t ∈ (u.stage p.unit).held ∨ (s.stage p.unit).owed.any (doubleEvent s p t).same = true) ∧
    ((s.slot p).name ≠ p.name → (s.slot (homePlace (s.slot p).name)).st = .away → (s.slot (homePlace (s.slot p).name)).name = (s.slot p).name →
      (u.slot (homePlace (s.slot p).name)).st = .lost) := by
  intro u
  have htold := doubleTold_abides s p t
  have hend : Abides (freedLost (doubleTold s p t) p) u := by
    simp only [u, doubleTrap_eq]
    exact endThread_abides ..
  refine ⟨?_, ?_, fun hn ha hh => ?_⟩
  · obtain ⟨hst, hr⟩ := freedLost_slot (doubleTold s p t) p
    exact ⟨((hend.slot p).st (by simp [hst])).trans hst, (hend.slot p).resv hr⟩
  · have hgrows := (freedLost_stage (doubleTold s p t) p p.unit).trans (hend.stage p.unit)
    exact (doubleTold_tells s p t hp).imp (fun h => hgrows.recs h) (.imp_left fun h => hgrows.held h)
  · have hname := (htold.slot p).name
    have hhome := htold.slot (homePlace (s.slot p).name)
    have hlost := freedLost_home (s := doubleTold s p t) hp (by rwa [hname]) (by rw [hname]; exact (hhome.st (by simp [ha])).trans ha)
      (by rw [hname]; exact hhome.name.trans hh)
    rw [hname] at hlost
    exact ((hend.slot _).st (by simp [hlost])).trans hlost

end

/-! ### Both cases -/

/-- What a trap of a word settles to, where the pair it stands in has not been committed. -/
theorem done_trap {s : State} (h : s.cur.commit = false) (t : Trap) : ∃ l : List XAbort,
    ∃ u, u = takeTrap { s with xaborts := l } s.cur.place t (decide (s.cur.half = .a)) (s.here.blk.isSome || s.cur.xfault) none ∧
      done (.trap s t) = .next { u with cur := { u.cur with ended := .trap } } := by
  obtain ⟨l, hl⟩ := abortBlock_eq s s.cur.place t.cause t.sub
  refine ⟨l, _, rfl, ?_⟩
  rw [done, settle, if_neg (by simp [h]), hl]
  rfl

/-- `ecause` as R253 packs it. -/
theorem trapCause_eq (s : State) (p : Place) (t : Trap) (x : Bool) : trapCause s p t (decide (s.cur.half = .a)) ((s.slot p).blk.isSome || x) =
    BitVec.ofNat 64 (t.cause + (if s.cur.half = .a then 1 else 0) * 2 ^ 8 + (if (s.slot p).pkt.isSome then 1 else 0) * 2 ^ 9 +
      (if (s.slot p).blk.isSome ∨ x = true then 1 else 0) * 2 ^ 10 + t.sub % 2 ^ 16 * 2 ^ 16) := by
  simp only [trapCause, b2n, Bool.or_eq_true, decide_eq_true_eq, Nat.reducePow]

/-- Two slots of the machine with one key are one. -/
theorem Place.eq_of_slotKey {p q : Place} (hp : p.ok = true) (hq : q.ok = true) (h : slotKey q = slotKey p) : q = p := by
  have hle : ∀ n, coresOf n ≤ 128 := fun n => by unfold coresOf; split <;> [omega; (split <;> omega)]
  simp only [Place.ok, Bool.and_eq_true, decide_eq_true_eq] at hp hq
  have := hle p.unit
  have := hle q.unit
  obtain ⟨pu, pc, ps⟩ := p
  obtain ⟨qu, qc, qs⟩ := q
  simp only [slotKey, Place.mk.injEq] at *
  omega

/-- Settles O53: the frame and the handler's thread by what the frame's write leaves, and a double trap by what the end of its thread leaves. -/
theorem trapEntry : Obligations.TrapEntry := by
  unfold Obligations.TrapEntry
  intro s t p x k cause
  refine ⟨fun hp hc htd => ?_, fun hp hc htd => ?_⟩ <;> obtain ⟨l, u, hu, hdone⟩ := done_trap hc t
  · rw [takeTrap_enters { s with xaborts := l } p t _ _ htd] at hu
    have hcause := trapCause_eq { s with xaborts := l } p t s.cur.xfault
    have hx := (trapFramed_eases { s with xaborts := l } p t (decide (s.cur.half = .a)) (s.here.blk.isSome || s.cur.xfault)).slot
    have hslot : u.slot p = _ := (congrArg (State.slot · p) hu).trans (State.slot_modSlot ..)
    refine ⟨_, hdone, rfl, ?_⟩
    show (u.slot p).th = _ ∧ (u.slot p).pkt = none ∧ (u.slot p).resv = none ∧ (u.slot p).blk = none ∧ (u.slot p).st = .run ∧ (u.slot p).wait = none ∧
      (_ → _ → memGetMany u.mem k 128 = _) ∧ (∀ j, _ → memGet u.mem j = memGet s.mem j) ∧ ∀ q : Place, _ → _ → (u.slot q).th = (s.slot q).th
    rw [hslot]
    refine ⟨?_, rfl, rfl, rfl, rfl, rfl, fun he hw => ?_, fun j hj => ?_, fun q hq hne => ?_⟩
    · simp only [Slot.trapped, (hx p).1]
      exact congrArg (fun c => { x.th with epc := x.th.pc, ecause := c, eaddr := t.addr, pm := x.th.mode, mode := true, td := true, pc := x.th.tvec }) hcause
    · rw [hu]
      refine (trapFramed_frame { s with xaborts := l } p t _ _ he hw).trans ?_
      rw [trapFrame]
      exact congrArg (fun c => wordsBytes (frameWords x.th.pc c t.addr (s.statusWord p) _ t.d0 t.d1 s.ts (s.locWord p))) hcause
    · rw [hu]
      exact trapFramed_other { s with xaborts := l } p t _ _ j hj
    · rw [hu, State.slot_modSlot_other _ _ _ _ fun h => hne (Place.eq_of_slotKey hp hq h)]
      exact (hx q).1
  · rw [takeTrap_doubles { s with xaborts := l } p t _ _ htd] at hu
    obtain ⟨⟨hst, hr⟩, htells, hlost⟩ := doubleTrap_ends { s with xaborts := l } p t hp
    subst hu
    exact ⟨_, hdone, hst, hr, ⟨doubleEvent { s with xaborts := l } p t, htells, rfl, rfl, rfl, doubleEvent_d1 { s with xaborts := l } p t⟩, hlost⟩

end Sys2Proof.Machine
end

section
/-! PROOFS. The words that configure, fill and empty a ring of the matrix unit. -/

namespace Sys2Proof.Machine

/-! ### A word of the context that owns the unit (R256, R388) -/

section
variable {s : State}

/-- An owner takes a unit that neither freezes nor loads by doing nothing. -/
theorem takeUnit_owner (ho : s.mx.own = some s.ctx) (hf : s.mx.freezing = none) (hl : s.mx.loading = none) : takeUnit s s.cur.place = .ok s := by
  have hend : endLoad s s.cur.place = s := by
    unfold endLoad
    rw [show (s.coreAt s.cur.place).mx.loading = none from hl]
  unfold takeUnit
  dsimp only
  rw [show (s.coreAt s.cur.place).mx.freezing = none from hf, show (s.coreAt s.cur.place).mx.own = some (s.slot s.cur.place).th.ctx from ho]
  simp [hend]

theorem unitWord_owner {i : Instr} {inBlock : Bool} (ha : Admitted i s) (hb : s.here.blk = none) (ho : s.mx.own = some s.ctx) (hf : s.mx.freezing = none)
    (hl : s.mx.loading = none) (f : State → Res) : unitWord i s inBlock f = done (f s) := by
  rw [unitWord, word_admitted ha, if_neg (by simp [hb]), takeUnit_owner ho hf hl]

theorem ringWord_low {a : BitVec 5} (h : (s.opG a).toNat < 8) (f : Nat → Res) : ringWord s a f = f (s.opG a).toNat := if_neg (by omega)

theorem ringUse_enabled {a b : BitVec 5} {pop : Bool} (hn : (s.opG a).toNat < 8) (hc : countBad (s.opG b) pop = false)
    (he : (s.mx.ring (s.opG a).toNat).en = true) (f : Nat → Nat → Res) : ringUse s a b pop f = f (s.opG a).toNat ((s.opG b).toNat % 2 ^ 13) := by
  rw [ringUse, ringWord_low hn, if_neg (by simp [hc]), if_neg (by simp [he])]

theorem roomy_room (h : s.mx.local' < 4) (f : State → Res) : roomy s f = f s := if_neg (by omega)

theorem State.mx_modMx (s : State) (f : Matrix → Matrix) : (s.modMx f).mx = f s.mx := congrArg Core.mx (State.coreAt_modCoreAt ..)

end

/-! ### Tails of rings (R371) -/

theorem ring_modRing (m : Matrix) (n k : Nat) (f : Ring → Ring) : (m.modRing n f).ring k = if n = k ∧ k < 8 then f (m.ring k) else m.ring k := by
  unfold Matrix.modRing Matrix.ring
  by_cases hn : n < 8 <;> by_cases hk : k < 8
  · by_cases h : n = k
    · subst h; simp [hn]
    · simp [hn, hk, h, Vector.getElem_set_ne]
  · simp [hk]
  · simp [hn, show n ≠ k by omega]
  · simp [hk]

theorem claimAll_tail (p : Prod) (m : Matrix) (n : Nat) : ((p.claimAll m).ring n).tail = (m.ring n).tail :=
  List.foldlRecOn (motive := fun m' : Matrix => (m'.ring n).tail = (m.ring n).tail) p.rings (fun m k => m.claimTiles k p.kch) rfl fun m' hm k _ => by
    rw [Matrix.claimTiles, ring_modRing]
    split <;> exact hm

/-- What waits on a unit looks again without a tile more in any ring. -/
theorem wakeMatrix_tail (s : State) (u c n : Nat) : (((wakeMatrix s u c).core u c).mx.ring n).tail = ((s.core u c).mx.ring n).tail := by
  show (((claimRemote s u c).core u c).mx.ring n).tail = _
  unfold claimRemote
  dsimp only
  split
  · split
    · rw [State.core_modCore]
      exact claimAll_tail ..
    · rfl
  · rfl

/-- What waits on a unit looks again: claims may be made and waits end, and nothing else changes. -/
theorem wakeMatrix_frame (s : State) (u c : Nat) : ∃ cores slots, wakeMatrix s u c = { s with cores := cores, slots := slots } := by
  have hclaim : ∃ cores, claimRemote s u c = { s with cores := cores } := by
    unfold claimRemote
    dsimp only
    split
    · split <;> exact ⟨_, rfl⟩
    · exact ⟨_, rfl⟩
  obtain ⟨cores, h⟩ := hclaim
  exact ⟨cores, _, by rw [wakeMatrix, h]; rfl⟩

theorem wakeMatrix_mem (s : State) (u c : Nat) : (wakeMatrix s u c).mem = s.mem := by obtain ⟨_, _, h⟩ := wakeMatrix_frame s u c; rw [h]
theorem wakeMatrix_cur (s : State) (u c : Nat) : (wakeMatrix s u c).cur = s.cur := by obtain ⟨_, _, h⟩ := wakeMatrix_frame s u c; rw [h]
theorem wakeMatrix_lag (s : State) (u c : Nat) : (wakeMatrix s u c).lag = s.lag := by obtain ⟨_, _, h⟩ := wakeMatrix_frame s u c; rw [h]

/-! ### The words (R370 to R373) -/

section
variable {s : State} {d a b : BitVec 5} (hb : s.here.blk = none) (ho : s.mx.own = some s.ctx) (hf : s.mx.freezing = none) (hl : s.mx.loading = none)
  (hn : (s.opG a).toNat < 8)
include hb ho hf hl hn

theorem mringCfg_configures (hc : cfgRefused (s.opG b) = none) (hr : (s.mx.ring (s.opG a).toNat).claim = (s.mx.ring (s.opG a).toNat).head)
    (hops : s.mx.ops.any (·.names (s.opG a).toNat) = false) (hA : Admitted (.mringCfg a b) s) :
    exec (.mringCfg a b) s = .next (feedRings (wakeMatrix (s.modMx fun m => m.modRing (s.opG a).toNat fun _ => { Ring.empty with cfg := s.opG b &&& 0x1FFFFFFFFFFF })
      s.cur.place.unit s.cur.place.core) s.cur.place.unit s.cur.place.core).retired := by
  rw [exec_mringCfg, execMringCfg, unitWord_owner hA hb ho hf hl, ringWord_low hn, hc]
  dsimp only
  rw [if_neg (by simp [hr, hops]), done_ok]
  rfl

theorem ringPutReserve_gives (hc : countBad (s.opG b) false = false) (he : (s.mx.ring (s.opG a).toNat).en = true) (h0 : 0 < (s.opG b).toNat % 2 ^ 13)
    (hs : (s.opG b).toNat % 2 ^ 13 ≤ (s.mx.ring (s.opG a).toNat).nslot) (hr : (s.opG b).toNat % 2 ^ 13 ≤ (s.mx.ring (s.opG a).toNat).room) :
    Gives (.ringPutReserve d a b) d s ((s.mx.ring (s.opG a).toNat).tail.zeroExtend 64) := by
  intro hA
  rw [exec_ringPutReserve, execRingPutReserve, unitWord_owner hA hb ho hf hl, ringUse_enabled hn hc he]
  dsimp only
  rw [if_neg (by omega), if_neg (by omega), done_ok]

theorem ringPutPublish_publishes (hc : countBad (s.opG b) false = false) (he : (s.mx.ring (s.opG a).toNat).en = true)
    (hr : (s.opG b).toNat % 2 ^ 13 ≤ (s.mx.ring (s.opG a).toNat).room) (hch : (s.mx.ring (s.opG a).toNat).chv = false ∨ (s.opG b).toNat % 2 ^ 13 = 0)
    (hst : storesForMx s = true) (hA : Admitted (.ringPutPublish d a b) s) :
    let t := (s.mx.ring (s.opG a).toNat).tail + BitVec.ofNat 32 ((s.opG b).toNat % 2 ^ 13)
    ∃ u, exec (.ringPutPublish d a b) s = .next u ∧ ((u.coreAt s.cur.place).mx.ring (s.opG a).toNat).tail = t ∧
      (u.slot s.cur.place).th.g = (s.here.th.writeG d (t.zeroExtend 64)).g ∧ u.mem = s.mem := by
  intro t
  let v := s.modMx fun m => m.modRing (s.opG a).toNat fun r => { r with tail := t }
  have hcur : (wakeMatrix v s.cur.place.unit s.cur.place.core).cur = s.cur := wakeMatrix_cur ..
  obtain ⟨-, hg, hmem⟩ := setG_retired_frame (wakeMatrix v s.cur.place.unit s.cur.place.core) d (t.zeroExtend 64)
  obtain ⟨⟨slots, hslots⟩, -⟩ := ((wakeMatrix v s.cur.place.unit s.cur.place.core).setG d (t.zeroExtend 64)).retired_frame
  refine ⟨((wakeMatrix v s.cur.place.unit s.cur.place.core).setG d (t.zeroExtend 64)).retired, ?_, ?_, ?_, hmem.trans (wakeMatrix_mem ..)⟩
  · rw [exec_ringPutPublish, execRingPutPublish, unitWord_owner hA hb ho hf hl, ringUse_enabled hn hc he]
    dsimp only
    rw [if_neg (by rintro (h | ⟨h, h'⟩); exacts [by omega, hch.elim (fun e => by simp [e] at h) h']), if_neg (by simp [hst]), done_ok]
    rfl
  · rw [hslots]
    refine (wakeMatrix_tail v _ _ _).trans ?_
    have hring : (v.mx.ring (s.opG a).toNat).tail = t := by
      rw [State.mx_modMx, ring_modRing, if_pos ⟨rfl, hn⟩]
    exact hring
  · rw [hcur] at hg
    rw [hg, State.here, hcur]
    exact congrArg (fun x : Thread => (x.writeG d (t.zeroExtend 64)).g) (wakeMatrix_rouses v _ _ s.cur.place).th

theorem ringPop_peeks (hc : countBad (s.opG b) true = false) (he : (s.mx.ring (s.opG a).toNat).en = true) (h0 : (s.opG b).toNat % 2 ^ 13 = 0) :
    Gives (.ringPop d a b) d s ((s.mx.ring (s.opG a).toNat).claim.zeroExtend 64) := by
  intro hA
  rw [exec_ringPop, execRingPop, unitWord_owner hA hb ho hf hl, ringUse_enabled hn hc he]
  dsimp only
  rw [if_neg (by omega), if_pos h0, done_ok]

theorem ringPop_pops (hc : countBad (s.opG b) true = false) (he : (s.mx.ring (s.opG a).toNat).en = true) (h0 : 0 < (s.opG b).toNat % 2 ^ 13)
    (hs : (s.opG b).toNat % 2 ^ 13 ≤ (s.mx.ring (s.opG a).toNat).nslot) (hu : (s.opG b).toNat % 2 ^ 13 ≤ (s.mx.ring (s.opG a).toNat).unclaimed)
    (hlocal : s.mx.local' < 4) (hA : Admitted (.ringPop d a b) s) :
    exec (.ringPop d a b) s = .next ((s.modMx fun m => (m.claimTiles (s.opG a).toNat ((s.opG b).toNat % 2 ^ 13)).accept .pop
      [((s.opG a).toNat, (s.mx.ring (s.opG a).toNat).claim)] none none).setG d
      (((s.mx.ring (s.opG a).toNat).claim + BitVec.ofNat 32 ((s.opG b).toNat % 2 ^ 13)).zeroExtend 64)).retired := by
  rw [exec_ringPop, execRingPop, unitWord_owner hA hb ho hf hl, ringUse_enabled hn hc he]
  dsimp only
  rw [if_neg (by omega), if_neg (by omega), if_neg (by omega), roomy_room hlocal, done_ok]

end

/-- Settles O30: an owner takes its unit by doing nothing, and each word is its own meaning then. -/
theorem matrixRings : Obligations.MatrixRings := by
  unfold Obligations.MatrixRings
  intro s d a b p n v r cnt hb ho hf hl hn
  exact ⟨mringCfg_configures hb ho hf hl hn, ringPutReserve_gives hb ho hf hl hn, ringPutPublish_publishes hb ho hf hl hn, ringPop_peeks hb ho hf hl hn,
    ringPop_pops hb ho hf hl hn⟩

end Sys2Proof.Machine
end

section
/-! PROOFS. Deque words, `spawn` and `launch`. -/

namespace Sys2Proof.Machine

/-! ### Words in memory (R9) -/

theorem drop_wordsBytes (ws : List Word) (j : Nat) (h : j < ws.length) : ((wordsBytes ws).drop (8 * j)).take 8 = bytesOf 8 (ws.getD j 0).toNat := by
  induction ws generalizing j with
  | nil => exact absurd h (Nat.not_lt_zero j)
  | cons w ws ih =>
    rw [show wordsBytes (w :: ws) = bytesOf 8 w.toNat ++ wordsBytes ws from rfl]
    cases j with
    | zero => exact List.take_left' (length_bytesOf ..)
    | succ j =>
      rw [show 8 * (j + 1) = 8 + 8 * j by omega, ← List.drop_drop, List.drop_left' (length_bytesOf ..)]
      exact ih j (Nat.lt_of_succ_lt_succ h)

/-- The bytes of a doubleword where words stand. -/
theorem memGetMany_wordsBytes {m : List Host.Cell} {k : Nat} {ws : List Word} (h : memGetMany m k (wordsBytes ws).length = wordsBytes ws) {j : Nat}
    (hj : j < ws.length) : memGetMany m (k + 8 * j) 8 = bytesOf 8 (ws.getD j 0).toNat := by
  have hslice := memGetMany_slice m k (8 * j) 8 (8 * ws.length - 8 * j - 8)
  rwa [show 8 * j + (8 + (8 * ws.length - 8 * j - 8)) = (wordsBytes ws).length by rw [length_wordsBytes]; omega, h, drop_wordsBytes ws j hj, eq_comm] at hslice

/-- A doubleword that is read where words stand (R62). -/
theorem peekW_wordsBytes {s : State} (he : s.errs = []) {k : Nat} {ws : List Word} (h : memGetMany s.mem k (wordsBytes ws).length = wordsBytes ws) {j : Nat}
    (hj : j < ws.length) : s.peekW (k + 8 * j) = ws.getD j 0 := by
  rw [State.peekW, State.peekNat, State.peek, if_pos he, memGetMany_wordsBytes h hj, ofBytes_bytesOf]
  rw [show 256 ^ 8 = 2 ^ 64 from rfl, Nat.mod_eq_of_lt (ws.getD j 0).isLt]
  exact (BitVec.ofNat_toNat ..).trans (BitVec.setWidth_eq _)

/-- A deque record that stands in its entry is read as it is (R245). -/
theorem dequeRead_record {s : State} (he : s.errs = []) {u c i : Nat} {a b d e f g : Word}
    (h : memGetMany s.mem (dequeKey u c i) 48 = wordsBytes [a, b, d, e, f, g]) : dequeRead s u c i = [a, b, d, e, f, g] := by
  have hw : ∀ j < 6, s.peekW (dequeKey u c i + 8 * j) = [a, b, d, e, f, g].getD j 0 := fun j hj => peekW_wordsBytes he (by rw [length_wordsBytes]; exact h) hj
  exact (List.map_congr_left fun j hj => hw j (List.mem_range.1 hj)).trans rfl

theorem releasing_performed {s : State} (h : allPerformed s s.cur.place = true) (f : State → Res) : releasing s f = f s := if_neg (by simp [h])

/-! ### Pushes (R246, R405) -/

section
variable {s : State} {d a : BitVec 5} (hb : s.here.blk = none) (hA : Admitted (.dqPush d a) s)
include hb hA

theorem dqPush_zero (h : s.opG a = 0) : exec (.dqPush d a) s = done (.trap s ⟨1, 4, s.wordPc, 0, 0⟩) := by
  rw [exec_dqPush, execDqPush, word_admitted hA, State.outsideBlock_noBlock hb]
  exact congrArg done (if_pos h)

theorem dqPush_full (h0 : s.opG a ≠ 0) (hp : allPerformed s s.cur.place = true) (hf : 64 ≤ (s.coreAt s.cur.place).dequeFill) :
    exec (.dqPush d a) s = .next (s.setG d 0).retired := by
  rw [exec_dqPush, execDqPush, word_admitted hA, State.outsideBlock_noBlock hb]
  dsimp only
  rw [if_neg h0, releasing_performed hp, if_pos hf, done_ok]

/-- The record that a push writes (R245). -/
def pushedRecord (s : State) (a : BitVec 5) : List Word := [s.opG a, s.opG 4, s.opG 5, s.opG 6, s.opG 7, s.ctx.zeroExtend 64]

theorem dqPush_writes (h0 : s.opG a ≠ 0) (hp : allPerformed s s.cur.place = true) (hf : (s.coreAt s.cur.place).dequeFill < 64) : exec (.dqPush d a) s =
    .next ((((s.putWs (dequeKey s.cur.place.unit s.cur.place.core (s.coreAt s.cur.place).dqbot.toNat) (pushedRecord s a)).modCoreAt s.cur.place fun c =>
      { c with dqbot := c.dqbot + 1 }).setG d 1).retired) := by
  rw [exec_dqPush, execDqPush, word_admitted hA, State.outsideBlock_noBlock hb]
  dsimp only
  rw [if_neg h0, releasing_performed hp, if_neg (by omega), done_ok]
  rfl

end

theorem length_pushedRecord (s : State) (a : BitVec 5) : (wordsBytes (pushedRecord s a)).length = 48 := length_wordsBytes _

/-- What a word leaves that writes registers of its thread and completes. -/
theorem modTh_retired_frame (v : State) (f : Thread → Thread) : let u := (v.modTh f).retired
    u.cores = v.cores ∧ (u.slot v.cur.place).th.g = (f v.here.th).g ∧ u.mem = v.mem ∧ u.errs = v.errs := by
  intro u
  obtain ⟨⟨slots, hslots⟩, hg⟩ := (v.modTh f).retired_frame
  have hth : ((v.modTh f).slot v.cur.place).th = f v.here.th := congrArg Slot.th (State.here_modTh v f)
  refine ⟨?_, hg.trans (congrArg Thread.g hth), ?_, ?_⟩ <;> (show _ = _; simp only [u, hslots]; rfl)

/-- What a push that has room leaves. -/
theorem dqPush_pushes {s : State} {d a : BitVec 5} (hb : s.here.blk = none) (hA : Admitted (.dqPush d a) s) (h0 : s.opG a ≠ 0)
    (hp : allPerformed s s.cur.place = true) (hf : (s.coreAt s.cur.place).dequeFill < 64) (he : s.errs = []) (hw : Memory.wf s.mem = true) :
    let p := s.cur.place; let c := s.coreAt p
    ∃ u, exec (.dqPush d a) s = .next u ∧ (u.coreAt p).dqbot = c.dqbot + 1 ∧ (u.slot p).th.g = (s.here.th.writeG d 1).g ∧
      dequeRead u p.unit p.core c.dqbot.toNat = pushedRecord s a ∧
      ∀ k, k < dequeKey p.unit p.core c.dqbot.toNat ∨ dequeKey p.unit p.core c.dqbot.toNat + 48 ≤ k → memGet u.mem k = memGet s.mem k := by
  intro p c
  have hputs : Puts s (s.putWs (dequeKey p.unit p.core c.dqbot.toNat) (pushedRecord s a)) := State.put_puts he ..
  have hmem : (s.putWs (dequeKey p.unit p.core c.dqbot.toNat) (pushedRecord s a)).mem =
      memSetMany s.mem (dequeKey p.unit p.core c.dqbot.toNat) (wordsBytes (pushedRecord s a)) := State.put_mem s .ls _ _ he
  have hth := (State.put_rouses s .ls (dequeKey p.unit p.core c.dqbot.toNat) (wordsBytes (pushedRecord s a)) p).th
  have hcur := hputs.cur
  have hcores := hputs.cores
  have herrs := hputs.errs
  have hword := dqPush_writes hb hA h0 hp hf
  generalize hv : s.putWs (dequeKey p.unit p.core c.dqbot.toNat) (pushedRecord s a) = v at *
  obtain ⟨hcs, hg, hkeeps, hes⟩ := modTh_retired_frame (v.modCoreAt p fun c => { c with dqbot := c.dqbot + 1 }) fun t => t.writeG d 1
  refine ⟨_, hword, ?_, ?_, ?_, fun k hk => ?_⟩
  · refine (congrArg (fun l => (Tbl.get Core.empty l (unitKey p.unit p.core)).dqbot) hcs).trans ?_
    refine (congrArg Core.dqbot (State.coreAt_modCoreAt v p _)).trans ?_
    exact congrArg (fun l => (Tbl.get Core.empty l (unitKey p.unit p.core)).dqbot + 1) hcores
  · rw [show (v.modCoreAt p fun c => { c with dqbot := c.dqbot + 1 }).cur = s.cur from hcur] at hg
    refine hg.trans (congrArg (fun y : Thread => (y.writeG d 1).g) ?_)
    exact (congrArg (fun c : Cur => (v.slot c.place).th) hcur).trans ((congrArg (fun w : State => (w.slot p).th) hv.symm).trans hth)
  · refine dequeRead_record (hes.trans (herrs.trans he)) ?_
    rw [hkeeps]
    show memGetMany v.mem _ 48 = _
    rw [hmem, ← length_pushedRecord s a]
    exact memGetMany_memSetMany _ _ _ hw
  · refine (congrArg (memGet · k) (hkeeps.trans hmem)).trans ?_
    exact memGet_memSetMany_other _ _ _ _ (by rwa [length_pushedRecord])

/-! ### What a thread observes leaves everything else -/

theorem Observes.mem {s u : State} (h : Observes s u) : u.mem = s.mem := by obtain ⟨_, _, rfl⟩ := h; rfl
theorem Observes.beds {s u : State} (h : Observes s u) : u.beds = s.beds := by obtain ⟨_, _, rfl⟩ := h; rfl
theorem Observes.ownBytes {s u : State} (h : Observes s u) (n l : Nat) : u.ownBytes u.cur.place n l = s.ownBytes s.cur.place n l := by
  obtain ⟨_, _, rfl⟩ := h; rfl
theorem Observes.allPerformed {s u : State} (h : Observes s u) : allPerformed u u.cur.place = allPerformed s s.cur.place := by obtain ⟨_, _, rfl⟩ := h; rfl

/-! ### Pops (R246, R405) -/

/-- The registers of a thread that takes a record (R405). -/
def Thread.withRecord (t : Thread) (d : BitVec 5) (ws : List Word) : Thread :=
  ((((t.writeG d (ws.getD 0 0)).writeG 4 (ws.getD 1 0)).writeG 5 (ws.getD 2 0)).writeG 6 (ws.getD 3 0)).writeG 7 (ws.getD 4 0)

theorem State.modTh_modTh (s : State) (f g : Thread → Thread) : (s.modTh f).modTh g = s.modTh (g ∘ f) := by
  simp only [State.modTh, State.modHere]
  exact State.modSlot_modSlot ..

/-- Taking a record writes registers of the thread, which observes what it may, and nothing else. -/
theorem takeRecord_eq (s : State) (d : BitVec 5) (ws : List Word) : ∃ u, Observes s u ∧ takeRecord s d ws = .ok (u.modTh fun t => t.withRecord d ws) := by
  refine ⟨acquireAll s s.cur.place, observe_frame .., ?_⟩
  simp only [takeRecord, State.setG, State.modTh_modTh]
  rfl

/-- A word that waits for the answer of a request it has sent. -/
theorem done_waitAnswer (s : State) (id : Nat) (keep : Bool) : ∃ u, done (.wait s (.answer id keep) true) = .next u ∧ u.cores = s.cores ∧
    (u.slot s.cur.place).st = .wait ∧ (u.slot s.cur.place).th = s.here.th := by
  let waits := s.modHere fun x => { x with wait := some (.answer id keep), st := .wait, aligned := none }
  have hslot := State.slot_modSlot waits s.cur.place fun x => { x with resp := waits.cur.hits.map (fun h => Resp.page h.1 h.2.1 h.2.2) ++ x.resp }
  have hwaits := State.slot_modSlot s s.cur.place fun x => { x with wait := some (.answer id keep), st := .wait, aligned := none }
  exact ⟨_, rfl, rfl, (congrArg Slot.st hslot).trans (congrArg Slot.st hwaits :), (congrArg Slot.th hslot).trans (congrArg Slot.th hwaits :)⟩

/-- A core whose deque has an entry reserved for what a steal brings (R246). -/
def Core.stealing (c : Core) (e : Steal) : Core := { c with dqRsv := c.dqRsv + 1, steals := c.steals ++ [e] }

section
variable {s : State} {d : BitVec 5} (hb : s.here.blk = none) (he : s.errs = []) (hst : stolenOf s.here.resp = none) (hA : Admitted (.dqPop d) s)
include hb he hst hA

/-- A pop of a deque whose newest record is read without an error. -/
theorem dqPop_eq : let p := s.cur.place; let c := s.coreAt p; let ws := dequeRead s p.unit p.core (c.dqbot - 1).toNat
    exec (.dqPop d) s = done (if c.dqbot ≠ c.dqtop ∧ recCtx ws = s.ctx then takeRecord (s.modCoreAt p fun c => { c with dqbot := c.dqbot - 1 }) d ws
      else if 64 ≤ c.dequeFill then .ok (s.setG d 0)
      else (nextVictim s p 0).elim (.ok (s.setG d 0)) fun j =>
        .wait (s.modCoreAt p fun c => c.stealing { id := s.free, slot := p.slot, ctx := s.ctx, j := j, ans := none }).tick (.answer s.free false) true) := by
  intro p c ws
  have hsee : (if c.dqbot = c.dqtop then s else s.see (dequeKey p.unit p.core (c.dqbot - 1).toNat) 48) = s := by rw [see_noErrs s _ _ he, ite_self]
  rw [exec_dqPop, execDqPop, word_admitted hA, State.outsideBlock_noBlock hb]
  dsimp only
  rw [hst]
  dsimp only
  rw [hsee]
  cases nextVictim s s.cur.place 0 <;> rfl

/-- The newest record, of the thread's own context (R405). -/
theorem dqPop_takes (hne : (s.coreAt s.cur.place).dqbot ≠ (s.coreAt s.cur.place).dqtop)
    (hctx : recCtx (dequeRead s s.cur.place.unit s.cur.place.core ((s.coreAt s.cur.place).dqbot - 1).toNat) = s.ctx) :
    let p := s.cur.place; let c := s.coreAt p; let ws := dequeRead s p.unit p.core (c.dqbot - 1).toNat
    ∃ u, exec (.dqPop d) s = .next u ∧ (u.coreAt p).dqbot = c.dqbot - 1 ∧ u.mem = s.mem ∧ (u.slot p).th.g = (s.here.th.withRecord d ws).g := by
  intro p c ws
  obtain ⟨v, hv, htake⟩ := takeRecord_eq (s.modCoreAt p fun c => { c with dqbot := c.dqbot - 1 }) d ws
  obtain ⟨hcs, hg, hkeeps, -⟩ := modTh_retired_frame v fun t => t.withRecord d ws
  have hcore := hv.coreAt p
  have hhere := hv.here
  have hcur := hv.cur
  refine ⟨(v.modTh fun t => t.withRecord d ws).retired, ?_, ?_, hkeeps.trans ?_, ?_⟩
  · rw [dqPop_eq hb he hst hA, if_pos ⟨hne, hctx⟩]
    exact (congrArg done htake).trans (done_ok _)
  · refine (congrArg (fun l => (Tbl.get Core.empty l (unitKey p.unit p.core)).dqbot) hcs).trans ?_
    exact (congrArg Core.dqbot hcore).trans (congrArg Core.dqbot (State.coreAt_modCoreAt s p _))
  · exact hv.mem
  · rw [hcur] at hg
    exact hg.trans (congrArg (fun x : Slot => (x.th.withRecord d ws).g) hhere)

/-- No record of the thread's context and no victim (R405). -/
theorem dqPop_none (hm : ¬ ((s.coreAt s.cur.place).dqbot ≠ (s.coreAt s.cur.place).dqtop ∧
      recCtx (dequeRead s s.cur.place.unit s.cur.place.core ((s.coreAt s.cur.place).dqbot - 1).toNat) = s.ctx)) (hv : nextVictim s s.cur.place 0 = none) :
    exec (.dqPop d) s = .next (s.setG d 0).retired := by
  rw [dqPop_eq hb he hst hA, if_neg hm, hv, ← done_ok]
  exact congrArg done (ite_self _)

/-- A steal is asked for (R246). -/
theorem dqPop_steals (hm : ¬ ((s.coreAt s.cur.place).dqbot ≠ (s.coreAt s.cur.place).dqtop ∧
      recCtx (dequeRead s s.cur.place.unit s.cur.place.core ((s.coreAt s.cur.place).dqbot - 1).toNat) = s.ctx)) (hf : (s.coreAt s.cur.place).dequeFill < 64)
    {j : Nat} (hv : nextVictim s s.cur.place 0 = some j) : let p := s.cur.place; let c := s.coreAt p
    ∃ u, exec (.dqPop d) s = .next u ∧ (u.coreAt p).dqRsv = c.dqRsv + 1 ∧ (u.slot p).st = .wait ∧ (u.slot p).th = s.here.th ∧
      ∃ e, (u.coreAt p).steals = c.steals ++ [e] ∧ e.j = j ∧ e.slot = p.slot ∧ e.ctx = s.ctx := by
  intro p c
  let e : Steal := { id := s.free, slot := p.slot, ctx := s.ctx, j := j, ans := none }
  obtain ⟨u, hu, hcores, hst', hth⟩ := done_waitAnswer (s.modCoreAt p fun c => c.stealing e).tick s.free false
  have hcore : u.coreAt p = c.stealing e :=
    (congrArg (fun l => Tbl.get Core.empty l (unitKey p.unit p.core)) hcores).trans (State.coreAt_modCoreAt s p fun c => c.stealing e)
  refine ⟨u, ?_, congrArg Core.dqRsv hcore, hst', hth, ⟨e, congrArg Core.steals hcore, rfl, rfl, rfl⟩⟩
  rw [dqPop_eq hb he hst hA, if_neg hm, if_neg (by omega), hv]
  exact hu

end

/-! ### Spawns (R247, R404) -/

/-- A request that is answered is not sent again (R92). -/
theorem handOver_answered {s : State} {r : Rng} {la kind len : Nat} {b : Body} (h : Resp.done ∈ s.here.resp ∨ Resp.busy ∈ s.here.resp)
    (f : State → List Resp → Res) : handOver s r la kind len b f = f s s.here.resp :=
  if_pos (h.imp (fun hd => List.any_eq_true.2 ⟨_, hd, rfl⟩) fun hb => List.contains_iff_mem.2 hb)

section
variable {s : State} {d a : BitVec 5} {h : BitVec 1} (hb : s.here.blk = none) (ht : (s.opG d).toNat < 2 ^ 12)
  (hc : (s.opG d).toNat % 128 < coresOf ((s.opG d).toNat / 128)) (hh : h = 1 → (s.opG d).toNat / 128 < 12)
  (hp : allPerformed s s.cur.place = true) (hA : Admitted (.spawn d a h) s)
include hb ht hc hh hp hA

/-- A `spawn` past its checks whose request is answered (R404). -/
theorem spawn_answered (hr : Resp.done ∈ s.here.resp ∨ Resp.busy ∈ s.here.resp) : exec (.spawn d a h) s =
    done (if s.here.resp.contains .busy then jumpTo s (s.opG a) fun s => s.setG 1 s.cur.next else .ok s) := by
  rw [exec_spawn, execSpawn, word_admitted hA, State.outsideBlock_noBlock hb]
  dsimp only
  rw [if_neg (by omega), if_neg (by omega), if_neg (by rintro (h' | ⟨h', h''⟩); exacts [by omega, by have := hh h'; omega]), releasing_performed hp,
    handOver_answered hr]

theorem spawn_completes (hd : Resp.done ∈ s.here.resp) (hn : Resp.busy ∉ s.here.resp) : exec (.spawn d a h) s = .next s.retired := by
  rw [spawn_answered hb ht hc hh hp hA (.inl hd), if_neg (by simpa using hn), done_ok]

theorem spawn_calls (hy : Resp.busy ∈ s.here.resp) (hl : Lands s (s.opG a)) : exec (.spawn d a h) s = .next ((s.setG 1 s.cur.next).jumped (s.opG a)) := by
  rw [spawn_answered hb ht hc hh hp hA (.inr hy), if_pos (by simpa using hy), jumpTo_lands hl, done_jump]

end

/-! ### Launches (R240, R406) -/

/-- Three blocks in a row in the own memory are read at once (R106). -/
theorem readBlocks_own {s : State} (hq : Quiet s) (hw : Whole s) (hb : s.here.blk = none) {pa : Word} {w off : Nat} (h0 : OwnAt s.cur.place pa 64 64 w off)
    (h1 : OwnAt s.cur.place (pa + 64) 64 64 w (off + 64)) (h2 : OwnAt s.cur.place (pa + 128) 64 64 w (off + 128)) : ∃ u, Observes s u ∧
      ∀ f : State → List Byte → Res, readBlocks 3 pa 64 64 s [] f = f u (s.ownBytes s.cur.place off 64 ++ s.ownBytes s.cur.place (off + 64) 64 ++
        s.ownBytes s.cur.place (off + 128) 64) := by
  obtain ⟨u, hu, hf⟩ := readBlock_own hq hw hb h0
  obtain ⟨v, hv, hg⟩ := readBlock_own (hu.quiet hq) (hu.whole hw) (hu.here ▸ hb) (hu.cur ▸ h1)
  have huv := hu.trans hv
  obtain ⟨x, hx, hk⟩ := readBlock_own (huv.quiet hq) (huv.whole hw) (huv.here ▸ hb) (huv.cur ▸ h2)
  refine ⟨x, huv.trans hx, fun f => ?_⟩
  have hnext : pa + BitVec.ofNat 64 64 + BitVec.ofNat 64 64 = pa + 128 := by rw [BitVec.add_assoc]; rfl
  rw [readBlocks, hf, readBlocks, show pa + BitVec.ofNat 64 64 = pa + 64 from rfl, hg, readBlocks, show pa + 64 + BitVec.ofNat 64 64 = pa + 128 from hnext, hk, readBlocks,
    hu.ownBytes, huv.ownBytes, List.nil_append]

theorem launch_completes {s : State} {a : BitVec 5} {b : BitVec 4} {w off : Nat} (hq : Quiet s) (hw : Whole s) (hb : s.here.blk = none)
    (hbed : (if b = 15 then s.cur.place.unit else b.toNat) < 12) (h0 : OwnAt s.cur.place (s.opG a) 64 64 w off)
    (h1 : OwnAt s.cur.place (s.opG a + 64) 64 64 w (off + 64)) (h2 : OwnAt s.cur.place (s.opG a + 128) 64 64 w (off + 128)) {ws : List Word}
    (hws : ws = wordsOf (s.ownBytes s.cur.place off 64 ++ s.ownBytes s.cur.place (off + 64) 64 ++ s.ownBytes s.cur.place (off + 128) 64))
    (hbad : gangBad ws = false) (hany : ¬ (ws.getD 2 0 = 0 ∧ ws.getD 3 0 = 0))
    (hctx : (Tbl.get 0 (s.bed (if b = 15 then s.cur.place.unit else b.toNat)).ctxTab (gangCtx ws).toNat).getLsbD 63 = true)
    (hown : s.sysMode = true ∨ gangCtx ws = s.ctx) (hp : allPerformed s s.cur.place = true) (hd : Resp.done ∈ s.here.resp) (hn : Resp.busy ∉ s.here.resp)
    (hA : Admitted (.launch a b) s) : ∃ u, Observes s u ∧ exec (.launch a b) s = .next u.retired := by
  obtain ⟨u, hu, hf⟩ := readBlocks_own hq hw hb h0 h1 h2
  have hownu : ¬ (u.sysMode = false ∧ gangCtx ws ≠ u.ctx) := by
    rw [State.sysMode, State.ctx, hu.here]
    rintro ⟨hs, hc⟩
    exact hown.elim (fun h => absurd (h.symm.trans hs) (by simp)) hc
  refine ⟨u, hu, ?_⟩
  rw [exec_launch, execLaunch, word_admitted hA, State.outsideBlock_noBlock hb]
  dsimp only
  rw [if_neg (by omega), hf, ← hws, if_neg (by simp [hbad]), if_neg hany, State.bed, hu.beds, if_neg (by simpa [State.bed] using hctx), if_neg hownu, releasing_performed (hu.allPerformed.trans hp),
    handOver_answered (.inl (hu.here ▸ hd)), if_neg (by rw [hu.here]; simpa using hn), done_ok]

/-- Settles O24: a lemma for each outcome of a word. -/
theorem tasks : Obligations.Tasks := by
  unfold Obligations.Tasks
  refine ⟨?pushes, ?pops, ?spawns, ?launches⟩
  case pushes =>
    intro s d a p c hb hA
    exact ⟨dqPush_pushes hb hA, dqPush_full hb hA, dqPush_zero hb hA⟩
  case pops =>
    intro s d p c ws mine hb he hst hA _
    exact ⟨fun hm => dqPop_takes hb he hst hA hm.1 hm.2, dqPop_none hb he hst hA, fun j hm hf => dqPop_steals hb he hst hA hm hf⟩
  case spawns =>
    intro s d a h t unit core hb ht hc hh hp hA
    exact ⟨spawn_completes hb ht hc hh hp hA, spawn_calls hb ht hc hh hp hA⟩
  case launches =>
    intro s a b w off p bed ws pa hq hw hb hbed h0 h1 h2 hbad hany hctx hown hp hd hn hA
    exact launch_completes hq hw hb hbed h0 h1 h2 rfl hbad hany hctx hown hp hd hn hA

end Sys2Proof.Machine
end

section
/-! PROOFS. The Lantern port: launch submissions, the event ring, and the control node's accesses. -/

namespace Sys2Proof.Machine

/-! ### Launch submissions (R466) -/

section
variable {s : State}

theorem submitCode_bed {bed : Nat} (h : 12 ≤ bed) (ws : List Word) : submitCode s bed ws = 1 := if_pos h

/-- The code for a record that is valid in itself. -/
theorem submitCode_named {bed : Nat} {ws : List Word} (hbed : bed < 12) (hbad : gangBad ws = false) (hany : ¬ (ws.getD 2 0 = 0 ∧ ws.getD 3 0 = 0)) :
    submitCode s bed ws = if (s.bed bed).rst.state ≠ 0 then 3 else if (Tbl.get 0 (s.bed bed).ctxTab (gangCtx ws).toNat).getLsbD 63 = false then 1
      else if 16 ≤ (Tbl.get [] (s.bed bed).lq ((ws.getD 0 0).toNat / 2 ^ 4 % 4)).length then 2 else 0 := by
  rw [submitCode, if_neg (by omega), if_neg (by rw [hbad]; simpa using hany), bits_eq_div]
  rfl

/-- A record that is not queued changes nothing but what the control node is told. -/
theorem launchSubmission_refused {c : Nat} (h : submitCode s (s.arg.v.toNat % 16) s.arg.words = c) (hc : c ≠ 0) :
    Acts .launchSubmission s fun t => t.boot.answers = s.boot.answers ++ [(1, [BitVec.ofNat 8 c])] ∧ t.beds = s.beds := by
  refine ⟨s.tell 1 [BitVec.ofNat 8 c], ?_, rfl, rfl⟩
  rw [exec_launchSubmission, execLaunchSubmission]
  rw [h, if_neg hc]

/-- A bed with one launch record more (R240). -/
def Bed.queued (b : Bed) (pr : Nat) (ws : List Word) (ts : Word) : Bed :=
  { b with placing := true, lq := Tbl.set b.lq pr (Tbl.get [] b.lq pr ++ [{ words := ws, arrts := ts, blk := false, victims := [] }]) }

theorem launchSubmission_queues (h : submitCode s (s.arg.v.toNat % 16) s.arg.words = 0) :
    let bed := s.arg.v.toNat % 16; let pr := (s.arg.words.getD 0 0).toNat / 2 ^ 4 % 4
    Acts .launchSubmission s fun t => t.boot.answers = s.boot.answers ++ [(1, [0])] ∧
      Tbl.get [] (t.bed bed).lq pr = Tbl.get [] (s.bed bed).lq pr ++ [{ words := s.arg.words, arrts := s.ts, blk := false, victims := [] }] ∧
      t.mem = s.mem ∧ t.slots = s.slots := by
  intro bed pr
  have hexec : exec .launchSubmission s = .next ((s.modBed bed fun d => d.queued pr s.arg.words s.ts).tell 1 [0]) := by
    rw [exec_launchSubmission, execLaunchSubmission, h, if_pos rfl, bits_eq_div]
    rfl
  have hbed : ((s.modBed bed fun d => d.queued pr s.arg.words s.ts).tell 1 [0]).bed bed = (s.bed bed).queued pr s.arg.words s.ts :=
    State.bed_modBed s bed fun d => d.queued pr s.arg.words s.ts
  refine ⟨_, hexec, rfl, ?_, rfl, rfl⟩
  rw [hbed]
  exact Tbl.get_set_same ..

end

/-! ### The event ring (R263, R467, R468) -/

theorem evrbWrite_stores {s : State} (h6 : 6 ≤ s.arg.v.toNat / 2 ^ 51 % 2 ^ 5) (h20 : s.arg.v.toNat / 2 ^ 51 % 2 ^ 5 ≤ 20)
    (hen : ¬ (s.evrb.getLsbD 56 = true ∧ s.arg.v.getLsbD 56 = true)) : exec .evrbWrite s = .next { s with evrb := s.arg.v &&& 0x1FFFFFFFFFFFFFF } := by
  rw [exec_evrbWrite, execEvrbWrite]
  rw [bits_eq_div, if_neg (by simp only [not_or]; exact ⟨by omega, by omega, hen⟩)]

/-- A held event of the link dies that enters the queue does so behind what is there. -/
theorem admitLinkHeld_grows (s : State) : (∃ more, (admitLinkHeld s).evq = s.evq ++ more) ∧ (admitLinkHeld s).mem = s.mem ∧ (admitLinkHeld s).evprod = s.evprod := by
  unfold admitLinkHeld
  split
  · exact ⟨⟨[], (List.append_nil _).symm⟩, rfl, rfl⟩
  · exact ⟨⟨_, rfl⟩, rfl, rfl⟩

theorem Puts.evq {s t : State} (h : Puts s t) : t.evq = s.evq := by obtain ⟨_, _, _, _, _, _, rfl⟩ := h; rfl
theorem Puts.evprod {s t : State} (h : Puts s t) : t.evprod = s.evprod := by obtain ⟨_, _, _, _, _, _, rfl⟩ := h; rfl
theorem Puts.evpw {s t : State} (h : Puts s t) : t.evpw = s.evpw := by obtain ⟨_, _, _, _, _, _, rfl⟩ := h; rfl
theorem Puts.boot {s t : State} (h : Puts s t) : t.boot = s.boot := by obtain ⟨_, _, _, _, _, _, rfl⟩ := h; rfl

/-- The state whose oldest event is in the host ring, and whose queue holds the rest (R468). -/
def State.delivered (s : State) (rest : List EvRec) : State := { s with evq := rest, evprod := s.evprod + 1 }

theorem eventDelivery_delivers {s : State} {e : EvRec} {rest : List EvRec} (hq : s.evq = e :: rest) (hen : s.evrb.getLsbD 56 = true)
    (hroom : (s.evprod - s.evcons).toNat ≠ 2 ^ (s.evrb.toNat / 2 ^ 51 % 2 ^ 5)) (he : s.errs = []) :
    let at' := hostKey (s.evrb.toNat % 2 ^ 51 + 32 * (s.evprod.toNat % 2 ^ (s.evrb.toNat / 2 ^ 51 % 2 ^ 5)))
    Acts .eventDelivery s fun t => t.evprod = s.evprod + 1 ∧ (∃ more, t.evq = rest ++ more) ∧
      t.mem = memSetMany (memSetMany s.mem at' e.bytes) (hostKey (s.evpw.toNat % 2 ^ 51)) (bytesOf 8 (s.evprod + 1).toNat) := by
  intro at'
  have hp := State.put_puts he .hp at' e.bytes
  have hm := State.put_mem s .hp at' e.bytes he
  have hexec : exec .eventDelivery s = .next (admitLinkHeld (((s.put .hp at' e.bytes).delivered rest).put .hp
      (hostKey ((s.put .hp at' e.bytes).evpw.toNat % 2 ^ 51)) (bytesOf 8 ((s.put .hp at' e.bytes).evprod + 1).toNat))) := by
    rw [exec_eventDelivery, execEventDelivery, hq]
    dsimp only
    rw [bits_eq_div, if_neg (by rw [hen]; simpa using hroom)]
    rfl
  rw [hp.evprod, hp.evpw] at hexec
  generalize s.put .hp at' e.bytes = v at *
  have he' : (v.delivered rest).errs = [] := hp.errs.trans he
  have hp' := State.put_puts he' .hp (hostKey (s.evpw.toNat % 2 ^ 51)) (bytesOf 8 (s.evprod + 1).toNat)
  obtain ⟨⟨more, hmore⟩, hmem, hprod⟩ := admitLinkHeld_grows ((v.delivered rest).put .hp (hostKey (s.evpw.toNat % 2 ^ 51)) (bytesOf 8 (s.evprod + 1).toNat))
  refine ⟨_, hexec, ?_, ⟨more, hmore.trans (congrArg (· ++ more) hp'.evq)⟩, hmem.trans ((State.put_mem _ .hp _ _ he').trans ?_)⟩
  · exact hprod.trans (hp'.evprod.trans (congrArg (· + 1) hp.evprod))
  · exact congrArg (memSetMany · _ _) hm

theorem setStage_evq (s : State) (u : Nat) (g : Staging) : (s.setStage u g).evq = s.evq ∧ (s.setStage u g).mem = s.mem := by
  unfold State.setStage
  split <;> exact ⟨rfl, rfl⟩

theorem eventDrain_drains {s : State} {e : EvRec} {rest : List EvRec} (hn : s.arg.unit < 12) (hr : (s.bed s.arg.unit).stage.recs = e :: rest)
    (hroom : queueRoom s.evq = true) : Acts .eventDrain s fun t => t.evq = s.evq ++ [e] ∧ t.mem = s.mem := by
  have hstage : (s.stage s.arg.unit).recs = e :: rest := by rw [State.stage, if_pos hn, hr]
  have hexec : exec .eventDrain s = .next (wakeIf ({ s with evq := s.evq ++ [e] }.setStage s.arg.unit { (s.stage s.arg.unit) with recs := rest }.letIn)
      fun _ w => w == .event) := by
    rw [exec_eventDrain, execEventDrain]
    dsimp only
    rw [if_neg (by omega), if_neg (by simp [coresOf, hn]), hstage]
    dsimp only
    rw [if_pos hroom]
  exact ⟨_, hexec, (setStage_evq ..).1, (setStage_evq ..).2⟩

/-! ### Pieces of 64 bytes (R465) -/

/-- The first piece of bytes at an address, and the rest. -/
theorem blockPieces_cons (f : Nat) (pa : Word) {n : Nat} (h : 0 < n) : let k := min n (64 - pa.toNat % 64)
    blockPieces (f + 1) pa n = (pa, k) :: blockPieces f (pa + BitVec.ofNat 64 k) (n - k) := by
  intro k
  rw [blockPieces, if_neg (by omega)]

/-- A fold over the pieces of `n` bytes at an address: what holds of the first `i` bytes before the piece that begins there holds of all in the end. -/
theorem foldl_blockPieces {α : Type} (P : Nat → α → Prop) (g : α → Word × Nat → α) (a : Word) (n : Nat) (hn : a.toNat + n < 2 ^ 64)
    (hstep : ∀ i k x, i + k ≤ n → P i x → P (i + k) (g x (a + BitVec.ofNat 64 i, k))) (f i : Nat) (x : α) (hi : i ≤ n) (hx : P i x)
    (hf : i < n → n - i + (a.toNat + i) % 64 ≤ 64 * f) : P n ((blockPieces f (a + BitVec.ofNat 64 i) (n - i)).foldl g x) := by
  induction f generalizing i x with
  | zero =>
    obtain rfl : i = n := (Nat.eq_or_lt_of_le hi).resolve_right fun h => by have := hf h; omega
    exact hx
  | succ f ih =>
    rcases Nat.eq_or_lt_of_le hi with rfl | hlt
    · rw [Nat.sub_self, blockPieces, if_pos rfl]
      exact hx
    · have hat : (a + BitVec.ofNat 64 i).toNat = a.toNat + i := by rw [BitVec.toNat_add, BitVec.toNat_ofNat]; omega
      have hnext : ∀ k, a + BitVec.ofNat 64 i + BitVec.ofNat 64 k = a + BitVec.ofNat 64 (i + k) := fun k => by rw [BitVec.add_assoc, BitVec.ofNat_add]
      rw [blockPieces_cons f _ (by omega), hnext, hat, List.foldl_cons, Nat.sub_sub]
      exact ih _ _ (by omega) (hstep i _ x (by omega) hx) fun h => by have := hf hlt; omega

/-- The same of all of the pieces, with the steps that an access has for them. -/
theorem foldl_blockPieces_all {α : Type} (P : Nat → α → Prop) (g : α → Word × Nat → α) (a : Word) (n : Nat) (hn : a.toNat + n < 2 ^ 64)
    (hstep : ∀ i k x, i + k ≤ n → P i x → P (i + k) (g x (a + BitVec.ofNat 64 i, k))) {x : α} (hx : P 0 x) :
    P n ((blockPieces (n / 64 + 2) a n).foldl g x) := by
  have h := foldl_blockPieces P g a n hn hstep (n / 64 + 2) 0 x (Nat.zero_le n) hx fun _ => by omega
  rwa [Nat.sub_zero, show a + BitVec.ofNat 64 0 = a from BitVec.add_zero a] at h

/-- How far into an access a piece of it begins. -/
theorem piece_offset (a : Word) {i : Nat} (h : i < 2 ^ 64) : (a + BitVec.ofNat 64 i - a).toNat = i := by
  rw [BitVec.add_comm, BitVec.add_sub_cancel, BitVec.toNat_ofNat, Nat.mod_eq_of_lt h]

/-! ### A vault's bytes (R465) -/

theorem vaultKey_add (b v off n : Nat) : vaultKey b v (off + n) = vaultKey b v off + n := (Nat.add_assoc ..).symm

/-- A write to a vault is the write of its pieces. -/
theorem writeAt_vault {s : State} (h : s.errs = []) (unit b v off : Nat) (q : Path) (bs : List Byte) :
    Puts s (writeAt s unit q (.vault b v off) bs) ∧ (writeAt s unit q (.vault b v off) bs).mem = memSetMany s.mem (vaultKey b v off) bs := by
  have hpieces : writeAt s unit q (.vault b v off) bs = (piecesOf bs.length).foldl (fun t pc => t.putPiece q (vaultKey b v off) bs pc) s := by
    unfold writeAt
    rw [if_neg (by simp [Rng.isCtl])]
    simp only [State.keyOf, heal_noErrs s _ _ h, Rng.add, vaultKey_add, State.putPiece]
  obtain ⟨hp, hm⟩ := putPieces_mem h q (vaultKey b v off) bs ((bs.length + 15) / 16)
  rw [List.take_of_length_le (by omega)] at hm
  rw [hpieces]
  exact ⟨hp, hm⟩

/-- A read of a vault where every write is performed for its path reads the bytes as they stand. -/
theorem readAt_vault {s : State} (unit b v off n : Nat) (q : Path) (he : s.errs = []) (hl : s.lag.all (fun l => l.reader != q) = true) :
    readAt s unit q (.vault b v off) n = (s, some (memGetMany s.mem (vaultKey b v off) n)) := by
  have key : ∀ j, ((List.range j).map fun i => (16 * i, min 16 (n - 16 * i))).foldl (fun (acc : State × Option (List Byte)) pc =>
        match acc.1.keyOf unit ((Rng.vault b v off).add pc.1) with
        | none => (acc.1, acc.2.map fun bs => bs ++ List.replicate pc.2 0)
        | some k =>
          let (t, got) := acc.1.take q k pc.2 noCore
          (t, acc.2.bind fun bs => got.map fun g => bs ++ g)) (s, some []) = (s, some (memGetMany s.mem (vaultKey b v off) (min (16 * j) n))) := by
    intro j
    induction j with
    | zero => simp [memGetMany]
    | succ j ih =>
      rw [List.range_succ, List.map_append, List.foldl_append, ih]
      simp only [List.map_cons, List.map_nil, List.foldl_cons, List.foldl_nil, Rng.add, State.keyOf, State.take_noErrs _ _ _ _ _ he,
        Option.map_some, Option.bind_some, pathBytes_noLag hl, vaultKey_add]
      rcases Nat.le_total (16 * j) n with hj | hj
      · rw [show min (16 * (j + 1)) n = 16 * j + min 16 (n - 16 * j) by omega, Nat.min_eq_left hj, memGetMany_add]
      · rw [show min (16 * (j + 1)) n = n by omega, Nat.min_eq_right hj, show min 16 (n - 16 * j) = 0 by omega]
        simp [memGetMany]
  unfold readAt
  rw [if_neg (by simp [Rng.isCtl])]
  refine (key ((n + 15) / 16)).trans ?_
  rw [Nat.min_eq_right (by omega)]

/-- An access of the control node's to a vault is not an alias (R24). -/
theorem decodeOutside_vault {la b v off : Nat} (h : decodeLa 31 0 la = .vault b v off) : decodeOutside la = .vault b v off := by
  unfold decodeOutside
  split
  · next hs =>
    have hla : la / 2 ^ 44 = 0x0F := by simpa [isSelfAlias] using hs
    rw [decodeLa, if_neg (by omega), if_neg (by omega), if_pos hla] at h
    split at h
    · exact (decodeSelf_not_vault _ _ _ _ _ _ h).elim
    · exact absurd h Rng.noConfusion
  · exact h

theorem decodeOutside_hole {la : Nat} (h : decodeLa 31 0 la = .hole) : decodeOutside la = .hole := by
  unfold decodeOutside
  split
  · rfl
  · exact h

theorem vault_low {la b v off : Nat} (h : decodeLa 31 0 la = .vault b v off) : la < 2 ^ 51 := by
  by_contra hla
  rw [decodeLa, if_pos (by omega)] at h
  exact absurd h Rng.noConfusion

/-! ### The control node's accesses (R465) -/

section
variable {s : State} {b v off : Nat}

/-- An access to a vault of a READY bed is not refused. -/
theorem hpRefused_vault (hr : (s.bed b).rst.state = 0) {n : Nat} (h0 : 0 < n) (hn : off + n ≤ 2 ^ 26) : hpRefused s (.vault b v off) n = false := by
  have hreach : hpReach (.vault b v off) n = true := decide_eq_true hn
  simp [hpRefused, hreach, Rng.bed?, hr, Nat.ne_of_gt h0]

/-- The first `i` bytes of a write to a vault stand there. -/
structure VaultWritten (s : State) (b v off : Nat) (bs : List Byte) (i : Nat) (t : State) : Prop where
  puts : Puts s t
  mem : t.mem = memSetMany s.mem (vaultKey b v off) (bs.take i)

theorem VaultWritten.more {t : State} {bs : List Byte} (he : s.errs = []) {i k : Nat} (h : VaultWritten s b v off bs i t) (hk : i + k ≤ bs.length) :
    VaultWritten s b v off bs (i + k) (writeAt t 24 .hp ((Rng.vault b v off).add i) ((bs.drop i).take k)) := by
  obtain ⟨hp, hm⟩ := writeAt_vault (h.puts.errs.trans he) 24 b v (off + i) .hp ((bs.drop i).take k)
  refine ⟨h.puts.trans hp, hm.trans ?_⟩
  rw [h.mem, List.take_add, memSetMany_append, List.length_take, Nat.min_eq_left (by omega), vaultKey_add]

/-- A write of the control node's to a vault leaves its bytes there, and tells so. -/
theorem hpOne_writes {q : HpReq} (hw : q.write = true) (hla : decodeLa 31 0 q.addr = .vault b v off) (hr : (s.bed b).rst.state = 0) (he : s.errs = [])
    (hq : q.n = q.bytes.length) (h0 : 0 < q.n) (hn : off + q.n ≤ 2 ^ 26) : ∃ t, hpOne s q = (t.tell 2 [0], true) ∧ Puts s t ∧
      t.mem = memSetMany s.mem (vaultKey b v off) q.bytes := by
  have haddr := vault_low hla
  have hnat : (BitVec.ofNat 64 q.addr).toNat = q.addr := by rw [BitVec.toNat_ofNat]; omega
  obtain ⟨hp, hm⟩ := foldl_blockPieces_all (VaultWritten s b v off q.bytes) (fun t p => writeAt t 24 .hp ((Rng.vault b v off).add (p.1 - BitVec.ofNat 64 q.addr).toNat)
    ((q.bytes.drop (p.1 - BitVec.ofNat 64 q.addr).toNat).take p.2)) (BitVec.ofNat 64 q.addr) q.n (by omega)
    (fun i k t hik h => by dsimp only; rw [piece_offset _ (by omega)]; exact h.more he (by omega)) (x := s) ⟨.refl s, rfl⟩
  refine ⟨_, ?_, hp, hm.trans (by rw [hq, List.take_length])⟩
  unfold hpOne
  rw [decodeOutside_vault hla]
  dsimp only
  rw [hpRefused_vault hr h0 hn, hw]
  rfl

/-- A read of the control node's of a vault is told the bytes as they stand. -/
theorem hpOne_reads {q : HpReq} (hw : q.write = false) (hla : decodeLa 31 0 q.addr = .vault b v off) (hr : (s.bed b).rst.state = 0) (he : s.errs = [])
    (hl : s.lag.all (fun l => l.reader != .hp) = true) (h0 : 0 < q.n) (hn : off + q.n ≤ 2 ^ 26) :
    hpOne s q = (s.tell 3 (0 :: memGetMany s.mem (vaultKey b v off) q.n), true) := by
  have haddr := vault_low hla
  have hnat : (BitVec.ofNat 64 q.addr).toNat = q.addr := by rw [BitVec.toNat_ofNat]; omega
  have hall := foldl_blockPieces_all (fun i acc => acc = (s, some (memGetMany s.mem (vaultKey b v off) i))) (fun (acc : State × Option (List Byte)) p =>
    let (t, got) := readAt acc.1 24 .hp ((Rng.vault b v off).add (p.1 - BitVec.ofNat 64 q.addr).toNat) p.2
    (t, acc.2.bind fun bs => got.map fun g => bs ++ g)) (BitVec.ofNat 64 q.addr) q.n (by omega)
    (fun i k x hik h => by
      subst h
      dsimp only
      rw [piece_offset _ (by omega), Rng.add, readAt_vault _ _ _ _ _ _ he hl, vaultKey_add, memGetMany_add]
      rfl) (x := (s, some [])) rfl
  unfold hpOne
  rw [decodeOutside_vault hla]
  dsimp only
  rw [hpRefused_vault hr h0 hn, hw]
  show (match List.foldl _ (s, some []) (blockPieces (q.n / 64 + 2) (BitVec.ofNat 64 q.addr) q.n) with
    | (t, some bs) => (t.tell 3 (0 :: bs), true)
    | (t, none) => ((t.tell 3 (0 :: (List.range q.n).map fun i => (Config.freeAt t.free i).truncate 8)).tick, true)) = _
  rw [hall]

/-- An access outside the control node's reach is told RANGE. -/
theorem hpOne_hole {q : HpReq} (hla : decodeLa 31 0 q.addr = .hole) : hpOne s q = (s.tell (if q.write then 2 else 3) [1], true) := by
  unfold hpOne
  rw [decodeOutside_hole hla]
  dsimp only
  rw [if_pos (by simp [hpRefused, hpReach])]

/-- A lone access that is served as it arrives. -/
theorem hpEvent_alone (hf : s.arg.flag = false) (hf2 : s.arg.flag2 = false) (hq : s.hpq = []) (q : HpReq) {t : State} (h : hpOne { s with hpq := [q] } q = (t, true)) :
    hpEvent s q = { t with hpq := [] } := by
  unfold hpEvent
  rw [hf, if_neg Bool.false_ne_true]
  dsimp only
  rw [hf2, if_neg Bool.false_ne_true, hq, List.nil_append]
  show hpServe 1 { s with hpq := [q] } = _
  rw [hpServe]
  dsimp only
  rw [h]
  rfl

end

/-! ### The steps -/

section
variable {s : State} {b v off : Nat} (hf : s.arg.flag = false) (hf2 : s.arg.flag2 = false) (hq : s.hpq = [])
include hf hf2 hq

theorem hpWrite_vault (hla : decodeLa 31 0 s.arg.index = .vault b v off) (hr : (s.bed b).rst.state = 0) (he : s.errs = []) (h0 : s.arg.bytes ≠ [])
    (hn : off + s.arg.bytes.length ≤ 2 ^ 26) : Acts .hpWrite s fun t =>
      t.mem = memSetMany s.mem (vaultKey b v off) s.arg.bytes ∧ t.boot.answers = s.boot.answers ++ [(2, [0])] := by
  let q : HpReq := { write := true, addr := s.arg.index, n := s.arg.bytes.length, bytes := s.arg.bytes }
  obtain ⟨t, ht, hp, hm⟩ := hpOne_writes (s := { s with hpq := [q] }) (q := q) rfl hla hr he rfl (List.length_pos_iff.2 h0) hn
  exact ⟨_, congrArg Host.Outcome.next (hpEvent_alone hf hf2 hq q ht), hm, congrArg (fun x : Boot => x.answers ++ [(2, [0])]) hp.boot⟩

theorem hpRead_vault (hla : decodeLa 31 0 s.arg.index = .vault b v off) (hr : (s.bed b).rst.state = 0) (he : s.errs = []) (h0 : 0 < s.arg.aux)
    (hn : off + s.arg.aux ≤ 2 ^ 26) (hl : s.lag.all (fun l => l.reader != .hp) = true) : Acts .hpRead s fun t =>
      t.mem = s.mem ∧ t.boot.answers = s.boot.answers ++ [(3, 0 :: memGetMany s.mem (vaultKey b v off) s.arg.aux)] := by
  let q : HpReq := { write := false, addr := s.arg.index, n := s.arg.aux, bytes := [] }
  have ht := hpOne_reads (s := { s with hpq := [q] }) (q := q) rfl hla hr he hl h0 hn
  exact ⟨_, congrArg Host.Outcome.next (hpEvent_alone hf hf2 hq q ht), rfl, rfl⟩

theorem hpWrite_hole (hla : decodeLa 31 0 s.arg.index = .hole) : Acts .hpWrite s fun t => t.mem = s.mem ∧ t.boot.answers = s.boot.answers ++ [(2, [1])] := by
  let q : HpReq := { write := true, addr := s.arg.index, n := s.arg.bytes.length, bytes := s.arg.bytes }
  exact ⟨_, congrArg Host.Outcome.next (hpEvent_alone hf hf2 hq q (hpOne_hole (s := { s with hpq := [q] }) (q := q) hla)), rfl, rfl⟩

end

theorem hostAccessTimeout_answers {s : State} {q : Pkt} (hd : Due s q) (hl : q.loc = .atLink 0) {a k : Nat} (hr : q.rng = .host a) {f : Bool} (hb : q.body = .load k f) :
    Acts .hostAccessTimeout s fun t => Nacks s q t 2 ∧ t.mem = s.mem := by
  refine ⟨nackPkt (s.making q) s.arg.index q 2, ?_, nackPkt_answers q 2 rfl, rfl⟩
  rw [exec_hostAccessTimeout, execHostAccessTimeout, serving_due hd, hl, hr, hb]
  rfl

/-- Settles O35: the codes by the rules a record passes, the ring by its two writes, and the control node's accesses by the pieces they are made in. -/
theorem hostPortSteps : Obligations.HostPortSteps := by
  unfold Obligations.HostPortSteps
  intro s n v off e rest q
  dsimp only
  refine ⟨?queued, ?noBed, ?full, ?resetting, fun h6 h20 hen => evrbWrite_stores h6 h20 hen, fun hq hen hroom he => eventDelivery_delivers hq hen hroom he, ?drains,
    ?vaults, ?hole, fun a k f hd hl hr hb => hostAccessTimeout_answers hd hl hr hb⟩
  case queued =>
    rintro ⟨hbed, hbad, hany, hctx⟩ hl hr
    exact launchSubmission_queues (by rw [submitCode_named hbed hbad hany, if_neg (by simp [hr]), if_neg (by rw [hctx]; decide), if_neg (by omega)])
  case noBed => exact fun hbed => launchSubmission_refused (submitCode_bed hbed _) (by decide)
  case full =>
    rintro ⟨hbed, hbad, hany, hctx⟩ hl hr
    exact launchSubmission_refused (c := 2) (by rw [submitCode_named hbed hbad hany, if_neg (by simp [hr]), if_neg (by rw [hctx]; decide), if_pos hl]) (by decide)
  case resetting =>
    rintro ⟨hbed, hbad, hany⟩ hr
    exact launchSubmission_refused (c := 3) (by rw [submitCode_named hbed hbad hany, if_pos hr]) (by decide)
  case drains =>
    rintro hn rfl hr hroom
    exact eventDrain_drains hn hr hroom
  case vaults =>
    rintro ⟨hf, hf2, hq⟩ hla hr he
    exact ⟨hpWrite_vault hf hf2 hq hla hr he, hpRead_vault hf hf2 hq hla hr he⟩
  case hole =>
    rintro ⟨hf, hf2, hq⟩ hla
    exact hpWrite_hole hf hf2 hq hla

end Sys2Proof.Machine
end

section
/-! PROOFS. A freeze image in a memory that lists one address twice: `mload` marks the image used, and its word 1 does not read so. -/

namespace Sys2Proof.Machine

/-! ### What a write leaves pending for its own path (R200) -/

/-- Every write is performed for a path. -/
def PerformedFor (p : Path) (s : State) : Prop := s.lag.all (fun l => l.reader != p) = true

theorem PerformedFor.of_lag {p : Path} {s t : State} (h : t.lag = s.lag) (hs : PerformedFor p s) : PerformedFor p t := by rw [PerformedFor, h]; exact hs

theorem PerformedFor.putByte {p : Path} {s : State} (h : PerformedFor p s) (k : Nat) (b : Byte) : PerformedFor p (putByte s p k b) := by
  simp only [PerformedFor, List.all_eq_true, bne_iff_ne] at h ⊢
  intro l hl
  rcases List.mem_append.1 hl with hl | hl
  · exact h l (List.mem_of_mem_filter hl)
  · obtain ⟨q, hq, rfl⟩ := List.mem_map.1 hl
    simpa using (List.mem_filter.1 hq).2

theorem PerformedFor.putWords {p : Path} (f : Nat) {s : State} (h : PerformedFor p s) (he : s.errs = []) (k : Nat) (bs : List Byte) :
    PerformedFor p (putWords s p f k bs) := by
  induction f generalizing s k bs with
  | zero => exact h
  | succ f ih =>
    rw [Machine.putWords]
    split
    · exact h
    · refine ih ?_ ((putWord_puts he p k _).errs.trans he) _ _
      simp only [putWord, errOf_noErrs s k he, correct_noErrs s k _ he]
      exact List.foldlRecOn (motive := PerformedFor p) _ _ h fun _ ht i _ => ht.putByte ..

theorem written_lag (t : State) (p : Path) (k n : Nat) : (t.written p k n).lag = t.lag := by
  have hwake : (wakeWords (endResv t k n) k n).lag = t.lag :=
    List.foldlRecOn (motive := fun u : State => u.lag = t.lag) _ _ rfl fun _ h _ _ => h
  have hroute : ∀ u : State, (wakeRoute u k).lag = u.lag := fun u => by
    unfold wakeRoute
    split
    · rfl
    · split <;> rfl
  have hstore : ∀ u : State, (releaseStore u k n).lag = u.lag := fun u => by unfold releaseStore; split <;> rfl
  unfold State.written
  dsimp only
  split
  · exact (hstore _).trans ((hroute _).trans hwake)
  · exact (hroute _).trans hwake

/-- A write is performed for its own path at once. -/
theorem PerformedFor.put {p : Path} {s : State} (h : PerformedFor p s) (he : s.errs = []) (k : Nat) (bs : List Byte) : PerformedFor p (s.put p k bs) := by
  by_cases hb : bs = []
  · subst hb; exact h
  · rw [s.put_eq p k bs hb, heal_noErrs s k _ he]
    exact (h.putWords _ he k bs).of_lag (written_lag ..)

/-! ### `mload` of an image that passes its checks (R258, R387) -/

section
variable {s : State} {k : Nat}

/-- Word 1 of an image, as its load leaves it (R258). -/
def usedMark (s : State) (k : Nat) : List Byte := wordsBytes [loadImage.setBits8 (ofBytes (imgBytes s (wholeAt k) 8 8))]

theorem meetImg_noErrs (he : s.errs = []) (g : Img) : meetImg s g = s :=
  List.foldlRecOn (motive := (· = s)) g _ rfl fun t ht e _ => by rw [ht, meet_noErrs s _ _ he]

theorem mload_loads {a : BitVec 5} {g : Img} (hb : s.here.blk = none) (he : s.errs = []) (hat : ∀ f, imageAt s (s.opG a) .matrix f = f s g)
    (hr : imageRefused s s.cur.place.unit s.cur.place.core g s.ctx = none) (hd : Resp.done ∉ s.here.resp) (hp : s.cur.part = 0) (ho : s.mx.own = none)
    (hA : Admitted (.mload a) s) : exec (.mload a) s = .next (endLoad (ownUnit s s.cur.place (some g)) s.cur.place).retired := by
  rw [exec_mload, execMload, word_admitted hA, if_neg (by simp [hb])]
  dsimp only
  rw [hat, if_neg (by simpa using hd)]
  simp only [checkImage, meetImg_noErrs he, hr, ho, hp, Option.isSome_none, Bool.false_eq_true, if_false, if_true, done_ok]

/-- An image in one piece is marked used by a write of its word 1. -/
theorem putImg_whole (t : State) (k : Nat) (w : Word) : putImg t (wholeAt k) 8 (wordsBytes [w]) = t.put .mx (k + 8) (wordsBytes [w]) := by
  have hlen : (wordsBytes [w]).length = 8 := length_wordsBytes _
  have htake : (wordsBytes [w]).take 8 = wordsBytes [w] := List.take_of_length_le (by omega)
  rw [putImg, hlen]
  show State.put t .mx (k + 8) ((wordsBytes [w]).take 8) = _
  rw [htake]

/-- What the load of an image leaves in memory, and for path MX (R258). -/
theorem loadImage_whole (he : s.errs = []) (hl : PerformedFor .mx s) (u c : Nat) (ctx : BitVec 12) :
    (loadImage s u c (wholeAt k) ctx).mem = memSetMany s.mem (k + 8) (usedMark s k) ∧ PerformedFor .mx (loadImage s u c (wholeAt k) ctx) := by
  unfold loadImage
  dsimp only
  rw [putImg_whole]
  refine ⟨State.put_mem _ .mx _ _ he, ?_⟩
  apply PerformedFor.put
  · exact hl
  · exact he

theorem endLoad_loading {p : Place} {g : Img} (h : (s.coreAt p).mx.loading = some g) :
    endLoad s p = wakeMatrix (loadImage s p.unit p.core g (s.slot p).th.ctx) p.unit p.core := by
  rw [endLoad, h]

theorem State.retired_mem_lag (s : State) : s.retired.mem = s.mem ∧ s.retired.lag = s.lag := by
  unfold State.retired State.retireTo
  split <;> exact ⟨rfl, rfl⟩

/-- The same of the load that `mload` begins and ends. -/
theorem endLoad_whole (he : s.errs = []) (hl : PerformedFor .mx s) (p : Place) : let u := (endLoad (ownUnit s p (some (wholeAt k))) p).retired
    u.mem = memSetMany s.mem (k + 8) (usedMark s k) ∧ PerformedFor .mx u := by
  have hloading : ((ownUnit s p (some (wholeAt k))).coreAt p).mx.loading = some (wholeAt k) := congrArg (fun c : Core => c.mx.loading) (State.coreAt_modCoreAt s p _)
  obtain ⟨hm, hx⟩ := loadImage_whole (s := ownUnit s p (some (wholeAt k))) (k := k) he hl p.unit p.core (s.slot p).th.ctx
  obtain ⟨hmem, hlag⟩ := (endLoad (ownUnit s p (some (wholeAt k))) p).retired_mem_lag
  intro u
  have hend := endLoad_loading hloading
  rw [hend] at hmem hlag
  simp only [u, hend]
  exact ⟨hmem.trans ((wakeMatrix_mem ..).trans hm), hx.of_lag (hlag.trans (wakeMatrix_lag ..))⟩

end

/-! ### The CRC-32C -/

theorem crcByte_lt (v : Nat) (b : Byte) (h : v < 2 ^ 32) : crcByte v b < 2 ^ 32 := by
  unfold crcByte
  refine List.foldlRecOn (motive := (· < 2 ^ 32)) _ _ (Nat.xor_lt_two_pow h (b.isLt.trans (by decide))) fun x hx _ _ => ?_
  dsimp only
  split
  · exact Nat.xor_lt_two_pow (by omega) (by decide)
  · omega

theorem crc32c_lt (bs : List Byte) : crc32c bs < 2 ^ 32 :=
  Nat.xor_lt_two_pow (List.foldlRecOn (motive := (· < 2 ^ 32)) bs _ (by decide) fun v h b _ => crcByte_lt v b h) (by decide)

/-! ### Images in one piece (R257) -/

theorem imgBytes_whole (s : State) {k o n : Nat} (h : o + n ≤ 20480) (hn : n ≠ 0) : imgBytes s (wholeAt k) o n = pathBytes s .mx (k + o) n := by
  rw [imgBytes, wholeAt, Img.parts, if_neg hn, if_pos (by omega), Nat.min_eq_left (by omega), Nat.sub_eq_zero_of_le (by omega), Img.parts]
  exact List.flatMap_singleton ..

theorem imgBad_noErrs {s : State} (h : s.errs = []) (g : Img) : imgBad s g = false :=
  List.any_eq_false.2 fun e _ => by simp [anyBad_noErrs s _ _ h]

/-- An image whose header names the unit, its context and its state, with no bad word and the CRC-32C of its body, passes its checks (R258). -/
theorem imageRefused_none {s : State} {u c : Nat} {g : Img} {ctx : BitVec 12} {w : Nat → Nat} (hw : ∀ j < 5, ofBytes (imgBytes s g (8 * j) 8) = w j)
    (hform : w 0 % 65536 = 1 ∧ bits (w 0) 63 32 = 20480) (himpl : bits (w 0) 23 16 = Config.impl) (hunit : bits (w 2) 11 0 = ctx.toNat ∧ bits (w 2) 23 12 = u * 128 + c)
    (hfrozen : (w 1).testBit 8 = true) (hbad : imgBad s g = false) (hcrc : bits (w 4) 31 0 = crc32c (imgBytes s g 64 20416)) : imageRefused s u c g ctx = none := by
  simp only [imageRefused, hw 0 (by decide), hw 1 (by decide), hw 2 (by decide), hw 4 (by decide), hform, himpl, hunit, hfrozen, hbad, hcrc, ne_eq, not_true_eq_false,
    or_self, if_false, Bool.true_eq_false, Bool.false_eq_true]

/-! ### The counterexample

`imageMem` holds a freeze image of context 0 on core 0 of bed 0, not yet used and of zeros, with the byte 1 at 0x10009, which is FROZEN. `listedTwice` lists two entries for
that byte before it. A read finds the first, 1, and so every byte reads as without them; the byte 0 that clears FROZEN is the default there, so its write only drops the
first entry, and the byte reads 7 after it. -/

/-- A memory with two entries more for the byte at 0x10009. -/
def listedTwice (m : List Host.Cell) : List Host.Cell := (0x10009, 1) :: (0x10009, 7) :: m

/-- Where that byte is 1, every byte reads as without the two entries. -/
theorem memGet_listedTwice {m : List Host.Cell} (hm : memGet m 0x10009 = 1) (j : Nat) : memGet (listedTwice m) j = memGet m j := by
  rw [listedTwice, memGet]
  split
  · next h => rw [← h, hm]
  · next h => rw [memGet, if_neg h]

/-- The write that clears FROZEN leaves 7 in its byte. -/
theorem memGet_used (m : List Host.Cell) : memGet (memSetMany (listedTwice m) 0x10008 (List.replicate 8 0)) 0x10009 = 7 := rfl

/-- The words of the image's header, with the CRC-32C of its body (R257). -/
def imageHeader (crc : Nat) : List Word := [0x500000010001, 0x100, 0, 0, BitVec.ofNat 64 crc]

def imageMem (crc : Nat) : List Host.Cell := memSetMany [] 0x10000 (wordsBytes (imageHeader crc))

/-- Slot h0 of core 0 of bed 0 in system mode, with the image's address in g1. -/
def imageState (m : List Host.Cell) : State :=
  { State.reset with
    mem := m
    slots := [(0, { Slot.empty with st := .run, th := { Thread.zero with mode := true, g := (Vector.replicate 32 0).set 1 0xF000F00000010000 } })]
    feat := BitVec.allOnes 256
    cur := Cur.none }

theorem imageState_errs (m : List Host.Cell) : (imageState m).errs = [] := rfl
theorem imageState_performed (m : List Host.Cell) : PerformedFor .mx (imageState m) := rfl
theorem imageState_mem (m : List Host.Cell) : (imageState m).mem = m := rfl

section
variable (crc : Nat)

theorem imageMem_word {j : Nat} (h : j < 5) : memGetMany (imageMem crc) (0x10000 + 8 * j) 8 = bytesOf 8 ((imageHeader crc).getD j 0).toNat :=
  memGetMany_wordsBytes (memGetMany_memSetMany [] 0x10000 _ rfl) h

theorem imageMem_body : memGetMany (imageMem crc) (0x10000 + 64) 20416 = List.replicate 20416 0 := by
  refine List.eq_replicate_iff.2 ⟨length_memGetMany .., fun b hb => ?_⟩
  obtain ⟨i, hi, rfl⟩ := List.mem_map.1 hb
  have hi := List.mem_range.1 hi
  rw [imageMem, memGet_memSetMany_other _ _ _ _ (.inr (by rw [length_wordsBytes]; exact Nat.le_trans (by decide : 0x10000 + 8 * 5 ≤ 0x10000 + 64) (Nat.le_add_right ..)))]
  unfold memGet memDefault
  simp only [show ¬ (0xFC800 ≤ (65536 + 64 + i) % 2 ^ 24 ∧ (65536 + 64 + i) % 2 ^ 24 < 0xFCC00) by omega,
    show ¬ (0xFCC00 ≤ (65536 + 64 + i) % 2 ^ 24 ∧ (65536 + 64 + i) % 2 ^ 24 < 0xFCC10) by omega, if_false, ite_self]

theorem imageMem_frozen : memGet (imageMem crc) 0x10009 = 1 :=
  (memGet_memSetMany_same (wordsBytes (imageHeader crc)) [] 0x10000 9 rfl (by rw [length_wordsBytes]; exact (by decide : 9 < 40))).trans rfl

/-- The bytes of the image. -/
theorem imgBytes_image {o n : Nat} (h : o + n ≤ 20480) (hn : n ≠ 0) :
    imgBytes (imageState (listedTwice (imageMem crc))) (wholeAt 0x10000) o n = memGetMany (imageMem crc) (0x10000 + o) n := by
  rw [imgBytes_whole _ h hn, pathBytes_noLag (imageState_performed _), imageState_mem]
  exact List.map_congr_left fun i _ => memGet_listedTwice (imageMem_frozen crc) _

theorem imgBytes_imageWord {j : Nat} (h : j < 5) : ofBytes (imgBytes (imageState (listedTwice (imageMem crc))) (wholeAt 0x10000) (8 * j) 8) =
    ((imageHeader crc).getD j 0).toNat := by
  rw [imgBytes_image crc (by omega) (by decide), imageMem_word crc h, ofBytes_bytesOf]
  exact Nat.mod_eq_of_lt (BitVec.isLt _)

variable {crc}

/-- The image passes its checks (R258). -/
theorem imageRefused_image (hc : crc = crc32c (List.replicate 20416 0)) : imageRefused (imageState (listedTwice (imageMem crc))) 0 0 (wholeAt 0x10000) 0 = none := by
  have hbits : bits (BitVec.ofNat 64 crc).toNat 31 0 = crc := by
    have := hc ▸ crc32c_lt (List.replicate 20416 0)
    rw [bits_eq_div, BitVec.toNat_ofNat]
    omega
  refine imageRefused_none (fun j hj => imgBytes_imageWord crc hj) ⟨(by decide : 0x500000010001 % 65536 = 1), (by decide : bits 0x500000010001 63 32 = 20480)⟩
    (by decide : bits 0x500000010001 23 16 = Config.impl) ⟨rfl, (by decide : bits 0 23 12 = 0)⟩ (by decide : Nat.testBit 256 8 = true)
    (imgBad_noErrs (imageState_errs _) _) ?_
  rw [imgBytes_image crc (by decide) (by decide), imageMem_body, ← hc]
  exact hbits

/-- Word 1 of the image with FROZEN 0. -/
theorem usedMark_image : usedMark (imageState (listedTwice (imageMem crc))) 0x10000 = List.replicate 8 0 := by
  rw [usedMark, show ofBytes (imgBytes _ _ 8 8) = _ from imgBytes_imageWord crc (j := 1) (by decide)]
  exact (by decide : wordsBytes [loadImage.setBits8 256] = List.replicate 8 0)

end

theorem imageState_place (m : List Host.Cell) (f : State → Img → Res) : imageAt (imageState m) ((imageState m).opG 1) .matrix f = f (imageState m) (wholeAt 0x10000) := by
  have hpa : (imageState m).opG 1 = 0xF000F00000010000 := rfl
  have hcheck : addressCheck (imageState m) (imageState m).cur.place 0xF000F00000010000 20480 1 .matrix false =
      .ok (imageState m) (ownAcc ⟨0, 0, 0⟩ 0xF000F00000010000 0 0x10000) :=
    addressCheck_own (show OwnAt ⟨0, 0, 0⟩ 0xF000F00000010000 20480 1 0 0x10000 by unfold OwnAt; decide +kernel) (by decide) (by decide)
  have hnat : (0xF000F00000010000 : Word).toNat = 0xF000F00000010000 := rfl
  rw [hpa, imageAt, if_neg (by rw [hnat]; decide)]
  simp only [imagePieces, hnat]
  rw [if_neg (by decide), show min 20480 (65536 - 0xF000F00000010000 % 65536) = 20480 from rfl, hcheck]
  simp only [ownAcc_rng, Nat.sub_self, if_true, Option.all_none, Bool.and_true, List.nil_append]
  rfl

theorem imageState_admitted (m : List Host.Cell) : Admitted (.mload 1) (imageState m) := ⟨(by decide : (BitVec.allOnes 256).getLsbD (gateOf (.mload 1)).feature = true), .inr (.inl rfl), fun _ => rfl⟩

/-- A number of bytes that is 0 has no other byte. -/
theorem eq_zero_of_ofBytes {l : List Byte} (h : ofBytes l = 0) : ∀ b ∈ l, b = 0 := by
  induction l with
  | nil => exact fun _ hb => absurd hb List.not_mem_nil
  | cons c l ih =>
    rw [ofBytes] at h
    intro b hb
    rcases List.mem_cons.1 hb with rfl | hb
    · exact BitVec.eq_of_toNat_eq (by simpa using (by omega : b.toNat = 0))
    · exact ih (by omega) b hb

/-- After the load the image's word 1 is not 0. -/
theorem word1_used {u : State} {m : List Host.Cell} (hm : u.mem = memSetMany (listedTwice m) 0x10008 (List.replicate 8 0)) (hl : PerformedFor .mx u) :
    ofBytes (imgBytes u (wholeAt 0x10000) 8 8) ≠ 0 := by
  intro h
  rw [imgBytes_whole u (by decide) (by decide), pathBytes_noLag hl] at h
  have hbyte := eq_zero_of_ofBytes h (memGet u.mem 0x10009) (List.mem_map.2 ⟨1, by decide, rfl⟩)
  rw [hm, memGet_used] at hbyte
  exact absurd hbyte (by decide)

/-- Refutes O32: nothing says that memory is in its canonical form where `mload` clears FROZEN. Where it lists two entries for that byte before the image, the image passes
its checks, the load drops the first entry, and word 1 reads 7 * 2^8 after it where it read 2^8. -/
theorem not_matrixUnit : ¬ Obligations.MatrixUnit := by
  unfold Obligations.MatrixUnit
  rintro ⟨-, hcaps⟩
  obtain ⟨crc, hcrc⟩ : ∃ c, c = crc32c (List.replicate 20416 0) := ⟨_, rfl⟩
  let s := imageState (listedTwice (imageMem crc))
  obtain ⟨-, -, -, -, hmload⟩ := hcaps s 0 1 0 (wholeAt 0x10000) rfl rfl
  obtain ⟨u, hu, -, -, hword, -⟩ := hmload (imageState_place _) (imageRefused_image hcrc) List.not_mem_nil rfl rfl (imageState_admitted _)
  have hloads : exec (.mload 1) s = _ := mload_loads rfl rfl (imageState_place _) (imageRefused_image hcrc) List.not_mem_nil rfl rfl (imageState_admitted _)
  obtain rfl := Host.Outcome.next.inj (hu.symm.trans hloads)
  obtain ⟨hm, hl⟩ := endLoad_whole (s := s) (k := 0x10000) rfl (imageState_performed _) ⟨0, 0, 0⟩
  rw [usedMark_image] at hm
  exact word1_used hm hl (Nat.add_eq_right.1 (hword.trans (imgBytes_imageWord crc (j := 1) (by decide))))

end Sys2Proof.Machine
end

section
/-! PROOFS. The scalar floating-point words, and what an `fcvi` lists. -/

namespace Sys2Proof.Machine

/-! ### The exception list (R270, R271) -/

/-- Of floating-point values only a NaN is listed as it becomes an integer (R269). -/
theorem Val.toIntTy_listed (v : Val) (mode : Mode) (signed : Bool) (w : Nat) : (v.toIntTy mode signed w).2 = v.isNan := by
  cases v <;> rfl

/-- A NaN becomes the integer 0 (R269). -/
theorem Val.toIntTy_nan {v : Val} (h : v.isNan = true) (mode : Mode) (signed : Bool) (w : Nat) : (v.toIntTy mode signed w).1 = 0 := by
  cases v
  case nan => rfl
  all_goals cases h

/-- The entries that a list of outcomes adds to the thread's list, and the counter after them (R271). -/
def State.listed (s : State) (out : List (Nat × Nat)) : List (Nat × Nat) × Word :=
  out.foldl (fun acc e => listOne s s.opTh (atHome s) acc.1 acc.2 e.1 e.2) ([], s.opTh.xlc)

/-- A word that lists nothing goes on. -/
theorem listing_nil (s : State) (f : State → Res) : listing s [] f = f s := if_pos rfl

/-- With every earlier store of the thread performed, the entries are written and the counter advances. -/
theorem listing_lists {s : State} {out : List (Nat × Nat)} (ho : out ≠ []) (hp : storesPending s s.cur.place = false) (f : State → Res) :
    listing s out f = f ((writeEntries s s.cur.place (s.listed out).1).modTh fun t => { t with xlc := (s.listed out).2 }) := by
  simp [listing, ho, hp, State.listed]

/-! ### `fcvi` (R312) -/

/-- A number is converted and nothing listed. -/
theorem fcvi_number {s : State} {a : BitVec 5} {t : BitVec 2} (h : (readF t (s.opG a)).isNan = false) (d : BitVec 5) (r : BitVec 2) (i : BitVec 3) :
    Gives (.fcvi d a t r i) d s (BitVec.ofInt 64 ((readF t (s.opG a)).toIntTy (Mode.ofCode r) (intSigned i) (intWidth i)).1) := by
  intro ha
  rw [exec_fcvi, execFcvi, word_admitted ha]
  simp only [State.opF, Val.toIntTy_listed, h, Bool.false_eq_true, if_false, listing_nil, done_ok]

/-- A NaN gives 0, and lane 0 and element 0 are listed. -/
theorem fcvi_nan {s : State} {d a : BitVec 5} {t r : BitVec 2} {i : BitVec 3} (h : (readF t (s.opG a)).isNan = true)
    (hp : storesPending s s.cur.place = false) (ha : Admitted (.fcvi d a t r i) s) :
    exec (.fcvi d a t r i) s = .next (((writeEntries s s.cur.place (s.listed [(0, 0)]).1).modTh fun t => { t with xlc := (s.listed [(0, 0)]).2 }).setG d 0).retired := by
  rw [exec_fcvi, execFcvi, word_admitted ha]
  simp only [State.opF, Val.toIntTy_listed, h, if_true, Val.toIntTy_nan h, listing_lists (List.cons_ne_nil _ _) hp, done_ok]
  rfl

/-- The entry of lane 0 and element 0 is the low half of the word's address (R271). -/
theorem writeEntries_first (s : State) :
    writeEntries s s.cur.place (s.listed [(0, 0)]).1 =
      if s.away s.cur.place = false ∧ s.opTh.xlc.toNat < s.opTh.xll.toNat ∧ s.opTh.xlb.toNat + 8 * s.opTh.xlc.toNat + 8 ≤ listLimit s.cur.place.unit
      then s.put .ls (coreKey s.cur.place.unit s.cur.place.core (s.opTh.xlb.toNat + 8 * s.opTh.xlc.toNat)) (bytesOf 8 (s.wordPc.toNat % 2 ^ 32)) else s := by
  simp only [State.listed, List.foldl_cons, List.foldl_nil, listOne, atHome, Bool.not_eq_true', Nat.zero_mod, Nat.zero_mul, Nat.add_zero, List.nil_append]
  split <;> rfl

/-- A truth value as a register holds it. -/
theorem truth_eq (b : Bool) : truth b = if b then 1 else 0 := by cases b <;> rfl

/-- Settles O3: every word but `fcvi` is a register operation, and `fcvi` lists what is a NaN. -/
theorem floatResults : Obligations.FloatResults := by
  unfold Obligations.FloatResults
  refine ⟨fun s d a b x t r c e i => ?_, fun s d a t r i => ⟨fun h => fcvi_number h d r i, fun h ha hs hn => ?_⟩⟩
  · exact ⟨gives_regOp (exec_fadd ..) rfl, gives_regOp (exec_fsub ..) rfl, gives_regOp (exec_fmul ..) rfl, gives_regOp (exec_fdiv ..) rfl,
      gives_regOp (exec_fsqrt ..) rfl, gives_regOp (exec_fma ..) rfl, gives_regOp (exec_fmin ..) rfl, gives_regOp (exec_fmax ..) rfl,
      gives_regOp (exec_fcmp ..) (truth_eq _), gives_regOp (exec_fcvt ..) rfl, gives_regOp (exec_ficv ..) rfl, gives_regOp (exec_fclass ..) rfl,
      gives_regOp (exec_fneg ..) rfl, gives_regOp (exec_fabs ..) rfl⟩
  · have hp : storesPending s s.cur.place = false := by simp [storesPending, hs, hn]
    have hlow : (BitVec.ofNat 64 (s.wordPc.toNat % 2 ^ 32)).toNat = s.wordPc.toNat % 2 ^ 32 := by
      rw [BitVec.toNat_ofNat]; omega
    rw [fcvi_nan h hp ha, writeEntries_first, hlow]
    rfl

end Sys2Proof.Machine
end

section
/-! PROOFS. Lanes of vector registers: their widths and integers, a lane of a register made from lanes, and what fits an integer type. -/

namespace Sys2Proof.Machine

/-! ### Widths and lanes (R348) -/

/-- A lane has at least 4 bits. -/
theorem four_le_laneWidth (t : BitVec 4) : 4 ≤ laneWidth t := by
  revert t; decide

/-- The number that lanes make, before it is cut to a register. -/
def packLanes (w : Nat) (l : List Nat) : Nat := l.foldr (fun x n => x % 2 ^ w + 2 ^ w * n) 0

theorem packLanes_cons (w x : Nat) (l : List Nat) : packLanes w (x :: l) = x % 2 ^ w + 2 ^ w * packLanes w l := rfl

theorem ofLanes_eq (w : Nat) (l : List Nat) : ofLanes w l = BitVec.ofNat 512 (packLanes w l) := rfl

/-- A lane of a number put together from lanes. -/
theorem packLanes_lane (w : Nat) (l : List Nat) (k : Nat) : packLanes w l / 2 ^ (w * k) % 2 ^ w = l.getD k 0 % 2 ^ w := by
  induction l generalizing k with
  | nil => simp [packLanes]
  | cons x l ih =>
    cases k with
    | zero => simp [packLanes_cons]
    | succ k =>
      have hx : packLanes w (x :: l) / 2 ^ w = packLanes w l := by
        rw [packLanes_cons, Nat.add_mul_div_left _ _ (Nat.two_pow_pos w), Nat.div_eq_of_lt (Nat.mod_lt _ (Nat.two_pow_pos w)), Nat.zero_add]
      rw [Nat.mul_succ, Nat.add_comm (w * k), Nat.pow_add, ← Nat.div_div_eq_div_mul, hx, ih, List.getD_cons_succ]

/-- A lane that lies whole in the register is the one it was made from. -/
theorem lane_ofLanes {w k : Nat} (l : List Nat) (h : w * k + w ≤ 512) : lane w k (ofLanes w l) = l.getD k 0 % 2 ^ w := by
  rw [lane, ofLanes_eq, BitVec.toNat_ofNat, show 512 = w * k + (512 - w * k) by omega, Nat.pow_add, Nat.mod_mul_right_div_self,
    Nat.mod_mod_of_dvd _ (Nat.pow_dvd_pow 2 (by omega)), packLanes_lane]

/-- The lanes below the number of lanes lie whole in the register. -/
theorem lane_fits {w k : Nat} (h : k < 512 / w) : w * k + w ≤ 512 := by
  have : w * (k + 1) ≤ w * (512 / w) := Nat.mul_le_mul_left w h
  exact this.trans (Nat.mul_div_le 512 w)

theorem lane_lt (w k : Nat) (v : VReg) : lane w k v < 2 ^ w := Nat.mod_lt _ (Nat.two_pow_pos w)

/-- Lane `k` of a register made by a function of the lane's number. -/
theorem lane_ofLanes_map {w k : Nat} (f : Nat → Nat) (h : k < 512 / w) : lane w k (ofLanes w ((List.range (512 / w)).map f)) = f k % 2 ^ w := by
  rw [lane_ofLanes _ (lane_fits h), List.getD_eq_getElem _ _ (by simpa using h), List.getElem_map, List.getElem_range]

/-! ### Integers of a type (R268) -/

theorem two_pow_pred {w : Nat} (h : 0 < w) : 2 ^ w = 2 * 2 ^ (w - 1) := by
  obtain ⟨n, rfl⟩ : ∃ n, w = n + 1 := ⟨w - 1, by omega⟩
  rw [Nat.add_sub_cancel, Nat.pow_succ']

/-- A number fits an integer type. -/
def FitsInt (signed : Bool) (w : Nat) (i : Int) : Prop := intMin signed w ≤ i ∧ i ≤ intMax signed w

/-- A number read as two's complement fits. -/
theorem sintN_fits {w : Nat} (h : 0 < w) (v : Nat) : FitsInt true w (sintN w v) := by
  have hm := Nat.mod_lt v (Nat.two_pow_pos w)
  have hp := two_pow_pred h
  simp only [FitsInt, intMin, intMax, if_true, sintN]
  split <;> omega

/-- The integer of a lane fits its type (R348). -/
theorem laneInt_fits (t : BitVec 4) (k : Nat) (v : VReg) : FitsInt (t.toNat < 4) (laneWidth t) (laneInt t (lane (laneWidth t) k v)) := by
  have hl := lane_lt (laneWidth t) k v
  have hw := four_le_laneWidth t
  unfold laneInt
  split
  · next h => rw [decide_eq_true h]; exact sintN_fits (by omega) _
  · next h => rw [decide_eq_false h]; simp only [FitsInt, intMin, intMax, Bool.false_eq_true, if_false]; omega

/-- The least and the greatest integer of a type fit it. -/
theorem fitsInt_bounds (signed : Bool) {w : Nat} (h : 0 < w) : FitsInt signed w (intMin signed w) ∧ FitsInt signed w (intMax signed w) := by
  have hp := two_pow_pred h
  have hq := Nat.two_pow_pos (w - 1)
  cases signed <;> simp only [FitsInt, intMin, intMax, if_true, Bool.false_eq_true, if_false] <;> omega

/-- The bounds of a type of lanes. -/
theorem lane_bounds (t : BitVec 4) :
    FitsInt (t.toNat < 4) (laneWidth t) (intMin (t.toNat < 4) (laneWidth t)) ∧ FitsInt (t.toNat < 4) (laneWidth t) (intMax (t.toNat < 4) (laneWidth t)) :=
  fitsInt_bounds _ (by have := four_le_laneWidth t; omega)

/-- The bits of an integer are a number of the width. -/
theorem wrap_lt (w : Nat) (i : Int) : wrap w i < 2 ^ w := by
  have hp : (0 : Int) < (2 ^ w : Nat) := Int.natCast_pos.2 (Nat.two_pow_pos w)
  exact (Int.toNat_lt_of_ne_zero (Nat.two_pow_pos w).ne').2 (Int.emod_lt_of_pos i hp)

/-- What fits a signed type is read back from its bits. -/
theorem sintN_wrap {w : Nat} (h : 0 < w) {i : Int} (hi : FitsInt true w i) : sintN w (wrap w i) = i := by
  have hp := two_pow_pred h
  obtain ⟨hlo, hhi⟩ := hi
  simp only [intMin, intMax, if_true] at hlo hhi
  have hw : (wrap w i : Int) = i % (2 ^ w : Nat) := Int.toNat_of_nonneg (Int.emod_nonneg _ (by have := Nat.two_pow_pos w; omega))
  rw [sintN, Nat.mod_eq_of_lt (wrap_lt w i)]
  by_cases h0 : 0 ≤ i
  · rw [Int.emod_eq_of_lt h0 (by omega)] at hw
    rw [if_pos (by omega)]; exact hw
  · rw [← Int.add_emod_right, Int.emod_eq_of_lt (by omega) (by omega)] at hw
    rw [if_neg (by omega), hw]; omega

/-- What fits an unsigned type is its bits. -/
theorem wrap_unsigned {w : Nat} {i : Int} (hi : FitsInt false w i) : (wrap w i : Int) = i := by
  obtain ⟨hlo, hhi⟩ := hi
  simp only [intMin, intMax, Bool.false_eq_true, if_false] at hlo hhi
  rw [wrap, Int.emod_eq_of_lt hlo (by omega), Int.toNat_of_nonneg hlo]

/-- A lane that holds a number of its type gives a general register that number (R363). -/
theorem laneWord_wrap (t : BitVec 4) {i : Int} (hi : FitsInt (t.toNat < 4) (laneWidth t) i) : laneWord t (wrap (laneWidth t) i) = BitVec.ofInt 64 i := by
  have hw := four_le_laneWidth t
  unfold laneWord
  split
  · next h => rw [decide_eq_true h] at hi; rw [signExt, sintN_wrap (by omega) hi]
  · next h => rw [decide_eq_false h] at hi; rw [← BitVec.ofInt_natCast, wrap_unsigned hi]

/-- A clamp is the greater of the lower bound and what the upper bound leaves. -/
theorem clampInt_eq {lo hi : Int} (h : lo ≤ hi) (i : Int) : clampInt lo hi i = max lo (min hi i) := by
  unfold clampInt
  split
  · omega
  · split <;> omega

end Sys2Proof.Machine
end

section
/-! PROOFS. Comparisons of lanes, the mask words, and reductions of lanes. -/

namespace Sys2Proof.Machine

/-! ### Masks (R349, R358, R365) -/

/-- The number whose low `n` bits are given. -/
def bitsFrom (f : Nat → Bool) (n : Nat) : Nat := (List.range n).foldl (fun a i => a + b2n (f i) * 2 ^ i) 0

theorem bitsFrom_succ (f : Nat → Bool) (n : Nat) : bitsFrom f (n + 1) = bitsFrom f n + b2n (f n) * 2 ^ n := by
  rw [bitsFrom, List.range_succ, List.foldl_append]; rfl

theorem bitsFrom_lt (f : Nat → Bool) (n : Nat) : bitsFrom f n < 2 ^ n := by
  induction n with
  | zero => exact Nat.one_pos
  | succ n ih =>
    have hb : b2n (f n) * 2 ^ n ≤ 2 ^ n := by cases f n <;> simp [b2n]
    rw [bitsFrom_succ, Nat.pow_succ]
    omega

/-- Its bits are those given, and none above them. -/
theorem testBit_bitsFrom (f : Nat → Bool) (n k : Nat) : (bitsFrom f n).testBit k = (decide (k < n) && f k) := by
  induction n with
  | zero => simp [bitsFrom]
  | succ n ih =>
    rw [bitsFrom_succ, Nat.add_comm, Nat.mul_comm, Nat.testBit_two_pow_mul_add _ (bitsFrom_lt f n), ih]
    rcases Nat.lt_trichotomy k n with h | rfl | h
    · simp [h, Nat.lt_succ_of_lt h]
    · cases f k <;> simp [b2n]
    · have hj : 1 ≤ k - n := by omega
      have hb : (b2n (f n)).testBit (k - n) = false :=
        Nat.testBit_lt_two_pow (by
          have := Nat.pow_le_pow_right (n := 2) (by decide) hj
          have : b2n (f n) ≤ 1 := by cases f n <;> decide
          omega)
      simp [show ¬k < n by omega, show ¬k < n + 1 by omega, hb]

/-- What `vcmp` leaves in the bit of a lane. -/
def cmpBit (s : State) (d m : BitVec 3) (va vb : BitVec 5) (t : BitVec 4) (o : BitVec 2) (k : Nat) : Bool :=
  if (s.opM m).getLsbD k then laneRel t o (lane (laneWidth t) k (s.opV va)) (lane (laneWidth t) k (s.opV vb)) else (s.opM d).getLsbD k

/-- A comparison writes the bits of its lanes (R358). -/
theorem vcmp_writes {s : State} {d m : BitVec 3} {va vb : BitVec 5} {t : BitVec 4} {o : BitVec 2} (ha : Admitted (.vcmp d va vb m t o) s) :
    exec (.vcmp d va vb m t o) s = .next (s.setM d (BitVec.ofNat 64 (bitsFrom (cmpBit s d m va vb t o) (512 / laneWidth t)))).retired := by
  rw [exec_vcmp, execVcmp, word_admitted ha, done_ok]
  rfl

/-- A word that only writes a mask or a general register completes with it. -/
theorem exec_ok {i : Instr} {s : State} {f : State → Res} {t : State} (h : exec i s = word i s f) (hf : f s = .ok t) (ha : Admitted i s) :
    exec i s = .next t.retired := by
  rw [h, word_admitted ha, hf, done_ok]

/-! ### Reductions of lanes (R279, R364) -/

/-- The least of some numbers and a first one, taken one after another. -/
theorem foldl_min_eq {α : Type} [LinearOrder α] (l : List α) {i v : α} (hmem : v = i ∨ v ∈ l) (hi : v ≤ i) (hl : ∀ u ∈ l, v ≤ u) : l.foldl min i = v := by
  induction l generalizing i with
  | nil => exact (hmem.resolve_right List.not_mem_nil).symm
  | cons x l ih =>
    have hx := hl x List.mem_cons_self
    refine ih ?_ (le_min hi hx) fun u hu => hl u (List.mem_cons_of_mem x hu)
    rcases hmem with rfl | hmem
    · exact .inl (min_eq_left hx).symm
    · rcases List.mem_cons.1 hmem with rfl | hmem
      · exact .inl (min_eq_right hi).symm
      · exact .inr hmem

/-- The greatest of some numbers and a first one. -/
theorem foldl_max_eq {α : Type} [LinearOrder α] (l : List α) {i v : α} (hmem : v = i ∨ v ∈ l) (hi : i ≤ v) (hl : ∀ u ∈ l, u ≤ v) : l.foldl max i = v :=
  foldl_min_eq (α := αᵒᵈ) l hmem hi hl

/-- The integers of a register's active lanes. -/
def activeInts (t : BitVec 4) (m : Word) (v : VReg) : List Int := (activeLanes (laneWidth t) m v).map (laneInt t)

theorem activeInts_eq (t : BitVec 4) (m : Word) (v : VReg) : activeInts t m v =
    ((List.range (512 / laneWidth t)).filter fun k => m.getLsbD k).map fun k => laneInt t (lane (laneWidth t) k v) := List.map_map

theorem activeInts_fits {t : BitVec 4} {m : Word} {v : VReg} {i : Int} (h : i ∈ activeInts t m v) : FitsInt (t.toNat < 4) (laneWidth t) i := by
  rw [activeInts_eq] at h
  obtain ⟨k, -, rfl⟩ := List.mem_map.1 h
  exact laneInt_fits t k v

/-- The smallest active lane, or the type's greatest number where no lane is active (R364). -/
theorem redMinMax_min {t : BitVec 4} (h : t.toNat < 8) {m : Word} {v : VReg} {i : Int}
    (hi : (i ∈ activeInts t m v ∧ ∀ u ∈ activeInts t m v, i ≤ u) ∨ (activeInts t m v = [] ∧ i = intMax (t.toNat < 4) (laneWidth t))) :
    redMinMax t false (activeLanes (laneWidth t) m v) = BitVec.ofInt 64 i := by
  obtain ⟨hfit, hfold⟩ : FitsInt (t.toNat < 4) (laneWidth t) i ∧ (activeInts t m v).foldl min (intMax (t.toNat < 4) (laneWidth t)) = i := by
    rcases hi with ⟨hmem, hle⟩ | ⟨hnil, rfl⟩
    · have hfit := activeInts_fits hmem
      exact ⟨hfit, foldl_min_eq _ (.inr hmem) hfit.2 hle⟩
    · exact ⟨(lane_bounds t).2, by rw [hnil]; rfl⟩
  rw [activeInts, List.foldl_map] at hfold
  simp only [redMinMax, if_pos h, Bool.false_eq_true, if_false, hfold, laneWord_wrap t hfit]

/-- The largest active lane, or the type's least number where no lane is active (R364). -/
theorem redMinMax_max {t : BitVec 4} (h : t.toNat < 8) {m : Word} {v : VReg} {i : Int}
    (hi : (i ∈ activeInts t m v ∧ ∀ u ∈ activeInts t m v, u ≤ i) ∨ (activeInts t m v = [] ∧ i = intMin (t.toNat < 4) (laneWidth t))) :
    redMinMax t true (activeLanes (laneWidth t) m v) = BitVec.ofInt 64 i := by
  obtain ⟨hfit, hfold⟩ : FitsInt (t.toNat < 4) (laneWidth t) i ∧ (activeInts t m v).foldl max (intMin (t.toNat < 4) (laneWidth t)) = i := by
    rcases hi with ⟨hmem, hle⟩ | ⟨hnil, rfl⟩
    · have hfit := activeInts_fits hmem
      exact ⟨hfit, foldl_max_eq _ (.inr hmem) hfit.1 hle⟩
    · exact ⟨(lane_bounds t).1, by rw [hnil]; rfl⟩
  rw [activeInts, List.foldl_map] at hfold
  simp only [redMinMax, if_pos h, if_true, hfold, laneWord_wrap t hfit]

/-- The least or the greatest of floating-point lanes, in the order of R266. -/
theorem redMinMax_float {t : BitVec 4} (h : 8 ≤ t.toNat) (mx : Bool) (m : Word) (v : VReg) :
    redMinMax t mx (activeLanes (laneWidth t) m v) = BitVec.ofNat 64 ((laneFmt t).round .rne
      ((((List.range (512 / laneWidth t)).filter fun k => m.getLsbD k).map fun k => (laneFmt t).decode (lane (laneWidth t) k v)).foldl
        (if mx then Val.max else Val.min) .nan)) := by
  simp only [redMinMax, if_neg (show ¬t.toNat < 8 by omega), activeLanes, List.foldl_map]
  cases mx <;> rfl

/-- A sum of lanes (R364). -/
theorem foldl_laneInt (t : BitVec 4) (l : List Nat) : l.foldl (fun n x => n + laneInt t x) 0 = (l.map (laneInt t)).sum := by
  rw [List.sum_eq_foldl, List.foldl_map]

/-- Settles O5: a comparison bit by bit, the mask words as they stand, and each reduction by its fold over the active lanes. -/
theorem maskResults : Obligations.MaskResults := by
  unfold Obligations.MaskResults
  refine ⟨fun s g d a b m va vb t o => ?_, fun s d a m t => ?_⟩
  · intro w n
    refine ⟨fun ht ha => ⟨_, vcmp_writes ha, fun k hk => ?_⟩, fun ha => exec_ok (exec_mand ..) rfl ha, fun ha => exec_ok (exec_mor ..) rfl ha,
      fun ha => exec_ok (exec_mnot ..) rfl ha, fun ha => exec_ok (exec_vmovGToM ..) rfl ha, fun ha => exec_ok (exec_vmovMToG ..) rfl ha, fun ha => ?_⟩
    · rw [BitVec.getLsbD_ofNat, testBit_bitsFrom, decide_eq_true hk, Bool.true_and]
      rfl
    · rw [exec_ok (exec_mcnt ..) rfl ha, List.countP_eq_length_filter]
  · intro w act xs
    have hxs : xs = activeInts t (s.opM m) (s.opV a) := (activeInts_eq ..).symm
    refine ⟨fun ht => ⟨fun ha => ?_, fun v hv ha => ?_, fun v hv ha => ?_⟩, fun ht _ => ?_⟩
    · rw [exec_ok (exec_vredAdd ..) rfl ha, foldl_laneInt, hxs]
      rfl
    · rw [hxs] at hv
      rw [exec_ok (exec_vredMin ..) rfl ha, redMinMax_min ht hv]
    · rw [hxs] at hv
      rw [exec_ok (exec_vredMax ..) rfl ha, redMinMax_max ht hv]
    · intro vs
      refine ⟨fun ha => ?_, fun ha => ?_, fun ha => exec_ok (exec_vredFadd ..) rfl ha⟩
      · rw [exec_ok (exec_vredMin ..) rfl ha, redMinMax_float ht]
        rfl
      · rw [exec_ok (exec_vredMax ..) rfl ha, redMinMax_float ht]
        rfl

end Sys2Proof.Machine
end

section
/-! PROOFS. `vcvt`: the conversions of its types, and what they list. -/

namespace Sys2Proof.Machine

/-! ### Several entries of the exception list (R271) -/

/-- The thread's list has room for one more entry after `i` of them, and the thread stands in its home slot. -/
abbrev State.ListRoom (s : State) (i : Nat) : Prop :=
  s.away s.cur.place = false ∧ s.opTh.xlc.toNat + i < s.opTh.xll.toNat ∧ s.opTh.xlb.toNat + 8 * (s.opTh.xlc.toNat + i) + 8 ≤ listLimit s.cur.place.unit

/-- The entry of an outcome: the low half of the word's address, its lane and its element. -/
def State.listEntry (s : State) (e : Nat × Nat) : Nat := s.wordPc.toNat % 2 ^ 32 + e.1 * 2 ^ 32 + e.2 * 2 ^ 40

/-- The entries of the first `n` outcomes, each where there is room for it. -/
def State.withListed (s : State) (out : List (Nat × Nat)) (n : Nat) : State :=
  (List.range n).foldl (fun u i => if s.ListRoom i then
    u.put .ls (coreKey s.cur.place.unit s.cur.place.core (s.opTh.xlb.toNat + 8 * (s.opTh.xlc.toNat + i))) (bytesOf 8 (s.listEntry (out.getD i (0, 0)))) else u) s

theorem State.withListed_succ (s : State) (out : List (Nat × Nat)) (n : Nat) : s.withListed out (n + 1) = if s.ListRoom n then
    (s.withListed out n).put .ls (coreKey s.cur.place.unit s.cur.place.core (s.opTh.xlb.toNat + 8 * (s.opTh.xlc.toNat + n))) (bytesOf 8 (s.listEntry (out.getD n (0, 0))))
    else s.withListed out n := by
  rw [State.withListed, List.range_succ, List.foldl_append]; rfl

theorem writeEntries_append (s : State) (p : Place) (es : List (Nat × Nat)) (e : Nat × Nat) :
    writeEntries s p (es ++ [e]) = (writeEntries s p es).put .ls (coreKey p.unit p.core e.1) (bytesOf 8 e.2) := by
  rw [writeEntries, List.foldl_append]; rfl

/-- One outcome more. -/
theorem State.listed_append (s : State) (out : List (Nat × Nat)) (e : Nat × Nat) :
    s.listed (out ++ [e]) = listOne s s.opTh (atHome s) (s.listed out).1 (s.listed out).2 e.1 e.2 := by
  rw [State.listed, List.foldl_append]; rfl

/-- Outcomes whose lanes and elements fit an entry are listed in their order, and the counter advances for each. -/
theorem writeEntries_listed {s : State} {out : List (Nat × Nat)} (hsmall : ∀ e ∈ out, e.1 < 256 ∧ e.2 < 2 ^ 24)
    (hc : s.opTh.xlc.toNat + out.length < 2 ^ 64) {n : Nat} (hn : n ≤ out.length) :
    (s.listed (out.take n)).2 = s.opTh.xlc + BitVec.ofNat 64 n ∧ writeEntries s s.cur.place (s.listed (out.take n)).1 = s.withListed out n := by
  induction n with
  | zero => exact ⟨(BitVec.add_zero _).symm, rfl⟩
  | succ n ih =>
    obtain ⟨hcount, hstate⟩ := ih (by omega)
    have hlt : n < out.length := hn
    obtain ⟨hlane, helem⟩ := hsmall _ (List.getElem_mem hlt)
    have hnat : (s.opTh.xlc + BitVec.ofNat 64 n).toNat = s.opTh.xlc.toNat + n := by
      rw [BitVec.toNat_add, BitVec.toNat_ofNat]; omega
    have hne : s.opTh.xlc + BitVec.ofNat 64 n ≠ BitVec.allOnes 64 := fun h => by
      have := congrArg BitVec.toNat h
      rw [hnat, BitVec.toNat_allOnes] at this
      omega
    have hget : out.getD n (0, 0) = out[n] := List.getD_eq_getElem _ _ hlt
    rw [List.take_succ_eq_append_getElem hlt, State.listed_append, hcount, State.withListed_succ, ← hstate, hget]
    refine ⟨?_, ?_⟩
    · rw [listOne, if_neg hne, BitVec.add_assoc, BitVec.ofNat_add]; rfl
    · simp only [listOne, hnat, atHome, Bool.not_eq_true', Nat.mod_eq_of_lt hlane, Nat.mod_eq_of_lt helem]
      split
      · exact writeEntries_append ..
      · rfl

/-! ### The conversion of a lane (R359, R360) -/

/-- Positions of a list made by a function are told by the function. -/
theorem filter_getD_map (n : Nat) (f : Nat → Nat × Bool) :
    (List.range n).filter (fun k => (((List.range n).map f).getD k (0, false)).2) = (List.range n).filter fun k => (f k).2 :=
  List.filter_congr fun k hk => by
    rw [List.getD_eq_getElem _ _ (by simpa using hk), List.getElem_map, List.getElem_range]

/-- Numbers below a bound, among those below a greater one. -/
theorem filter_range_lt {q n : Nat} (h : q ≤ n) (f : Nat → Bool) : (List.range n).filter (fun k => decide (k < q) && f k) = (List.range q).filter f := by
  obtain ⟨j, rfl⟩ := Nat.exists_eq_add_of_le h
  have hlow : (List.range q).filter (fun k => decide (k < q) && f k) = (List.range q).filter f :=
    List.filter_congr fun k hk => by rw [decide_eq_true (List.mem_range.1 hk), Bool.true_and]
  have hhigh : ((List.range j).map (q + ·)).filter (fun k => decide (k < q) && f k) = [] :=
    List.filter_eq_nil_iff.2 fun k hk => by
      obtain ⟨i, -, rfl⟩ := List.mem_map.1 hk
      simp
  rw [List.range_add, List.filter_append, hlow, hhigh, List.append_nil]

/-- What `vcvt` makes of lane `k` where the destination is an integer type, and whether it is listed. -/
def intLane (s : State) (p : Place) (dt st : BitVec 4) (m : Word) (old src : VReg) (k : Nat) : Nat × Bool :=
  if m.getLsbD k = false then (lane (laneWidth dt) k old, false)
  else if Nat.min (512 / laneWidth dt) (512 / laneWidth st) ≤ k then (0, false)
  else destElt [] [] dt (sourceElt s p st src k)

/-- An element-wise conversion to an integer type, lane by lane. -/
theorem convert_int {dt : BitVec 4} (h : dt.toNat < 8) (s : State) (p : Place) (st : BitVec 4) (m : Word) (old src : VReg) :
    convert s p dt st m old src = (ofLanes (laneWidth dt) ((List.range (512 / laneWidth dt)).map fun k => (intLane s p dt st m old src k).1),
      ((List.range (512 / laneWidth dt)).filter fun k => (intLane s p dt st m old src k).2).map fun k => (k, k)) := by
  have h12 : dt ≠ 12 := by rintro rfl; exact absurd h (by decide)
  have h13 : dt ≠ 13 := by rintro rfl; exact absurd h (by decide)
  simp only [convert, if_neg h12, if_neg h13, List.map_map, filter_getD_map]
  rfl

/-- Lanes and elements that a conversion lists fit an entry. -/
theorem convert_small (s : State) (p : Place) (dt st : BitVec 4) (m : Word) (old src : VReg) :
    ∀ e ∈ (convert s p dt st m old src).2, e.1 < 256 ∧ e.2 < 2 ^ 24 := by
  intro e he
  obtain ⟨k, hk, rfl⟩ := List.mem_map.1 he
  have hk := List.mem_range.1 (List.mem_of_mem_filter hk)
  have h128 : 512 / laneWidth dt ≤ 512 / 4 := Nat.div_le_div_left (four_le_laneWidth dt) (by decide)
  exact ⟨by omega, by omega⟩

/-- A floating-point lane that becomes an integer is listed where it is active and holds a NaN (R269, R360). -/
theorem intLane_listed {dt st : BitVec 4} (hd : dt.toNat < 8) (h8 : 8 ≤ st.toNat) (h12 : st.toNat < 12) (s : State) (p : Place) (m : Word) (old src : VReg)
    (k : Nat) : (intLane s p dt st m old src k).2 = (decide (k < Nat.min (512 / laneWidth dt) (512 / laneWidth st)) &&
      (m.getLsbD k && ((laneFmt st).decode (lane (laneWidth st) k src)).isNan)) := by
  unfold intLane
  split
  · next h => rw [h, Bool.false_and, Bool.and_false]
  · next h =>
    split
    · next hk => rw [decide_eq_false (by omega), Bool.false_and]
    · next hk =>
      have hact : m.getLsbD k = true := Bool.eq_true_of_not_eq_false h
      rw [decide_eq_true (by omega), hact, Bool.true_and, Bool.true_and]
      simp only [destElt, if_pos hd, sourceElt, if_neg (show ¬st.toNat < 8 by omega), if_pos h12, Val.toIntTy_listed]

/-- What a conversion from a floating-point to an integer type lists. -/
theorem convert_nans {dt st : BitVec 4} (hd : dt.toNat < 8) (h8 : 8 ≤ st.toNat) (h12 : st.toNat < 12) (s : State) (p : Place) (m : Word) (old src : VReg) :
    (convert s p dt st m old src).2 = ((List.range (Nat.min (512 / laneWidth dt) (512 / laneWidth st))).filter fun k =>
      m.getLsbD k && ((laneFmt st).decode (lane (laneWidth st) k src)).isNan).map fun k => (k, k) := by
  simp only [convert_int hd, intLane_listed hd h8 h12, filter_range_lt (Nat.min_le_left _ _)]

/-- A lane of a conversion between integer types: the source's number, clamped. -/
theorem convert_ints {dt st : BitVec 4} (hd : dt.toNat < 8) (hs : st.toNat < 8) (s : State) (p : Place) (m : Word) (old src : VReg) {k : Nat}
    (hk : k < 512 / laneWidth dt) : lane (laneWidth dt) k (convert s p dt st m old src).1 =
      if m.getLsbD k = false then lane (laneWidth dt) k old
      else if 512 / laneWidth st ≤ k then 0
      else (max (intMin (dt.toNat < 4) (laneWidth dt)) (min (intMax (dt.toNat < 4) (laneWidth dt)) (laneInt st (lane (laneWidth st) k src)))
        % (2 ^ laneWidth dt : Nat)).toNat := by
  rw [convert_int hd, lane_ofLanes_map _ hk, intLane]
  split
  · exact Nat.mod_eq_of_lt (lane_lt ..)
  · have hle : Nat.min (512 / laneWidth dt) (512 / laneWidth st) ≤ k ↔ 512 / laneWidth st ≤ k := by
      rw [show Nat.min (512 / laneWidth dt) (512 / laneWidth st) = min (512 / laneWidth dt) (512 / laneWidth st) from rfl]; omega
    simp only [hle]
    split
    · exact Nat.zero_mod _
    · have hb := (lane_bounds dt).1.2
      simp only [destElt, if_pos hd, sourceElt, if_pos hs, clampInt_eq hb]
      exact Nat.mod_eq_of_lt (wrap_lt ..)

/-! ### The word (R359 to R362) -/

section
variable {s : State} {d a : BitVec 5} {c t : BitVec 4} {m : BitVec 3} (ha : Admitted (.vcvt d a c m t) s)
include ha

theorem vcvt_toMx (ht : 14 ≤ t.toNat) : exec (.vcvt d a c m t) s = .next (s.setV d (toMx (t == 15) c (s.opV a))).retired := by
  rw [exec_vcvt, execVcvt, word_admitted ha]
  simp only [if_pos ht, done_ok]

theorem vcvt_fromMx (ht : t.toNat < 14) (hc : 14 ≤ c.toNat) : exec (.vcvt d a c m t) s = .next (s.setV d (fromMx (c == 15) t (s.opV a))).retired := by
  rw [exec_vcvt, execVcvt, word_admitted ha]
  simp only [if_neg (show ¬14 ≤ t.toNat by omega), if_pos hc, done_ok]

/-- An element-wise conversion finds its tables at rest and without a soft error, and lists what it must. -/
theorem vcvt_converts (ht : t.toNat < 14) (hc : c.toNat < 14) (hready : t = 12 ∨ t = 13 ∨ c = 12 ∨ c = 13 →
      tablesBusy s s.cur.place (if t = 12 then List.range 256 else if c = 12 then fields 8 64 (s.opV a).toNat else []) = none ∧ s.errs = []) :
    exec (.vcvt d a c m t) s = done (listing s (convert s s.cur.place t c (s.opM m) (s.opV d) (s.opV a)).2
      fun u => .ok (u.setV d (convert s s.cur.place t c (s.opM m) (s.opV d) (s.opV a)).1)) := by
  have hbusy : (if t = 12 ∨ t = 13 ∨ c = 12 ∨ c = 13 then
      tablesBusy s s.cur.place (if t = 12 then List.range 256 else if c = 12 then fields 8 64 (s.opV a).toNat else []) else none) = none := by
    split
    · next h => exact (hready h).1
    · rfl
  have hmeet : meetTables s s.cur.place (if t = 12 then List.range 256 else if c = 12 then fields 8 64 (s.opV a).toNat else [])
      (if t = 13 then List.range 16 else if c = 13 then fields 4 128 (s.opV a).toNat else []) = (s, none) := by
    by_cases h : t = 12 ∨ t = 13 ∨ c = 12 ∨ c = 13
    · exact if_pos (hready h).2
    · obtain ⟨h1, h2, h3, h4⟩ : t ≠ 12 ∧ t ≠ 13 ∧ c ≠ 12 ∧ c ≠ 13 := by simpa using h
      rw [if_neg h1, if_neg h3, if_neg h2, if_neg h4]
      exact ite_self _
  rw [exec_vcvt, execVcvt, word_admitted ha]
  simp only [if_neg (show ¬14 ≤ t.toNat by omega), if_neg (show ¬14 ≤ c.toNat by omega), hbusy, hmeet]

end

/-- Settles O6: the MX forms by their own functions, the others by `convert` and the list of what it names. -/
theorem vectorConversions : Obligations.VectorConversions := by
  unfold Obligations.VectorConversions
  intro s d a c t m ha p r x ready
  refine ⟨fun ht => vcvt_toMx ha (by omega), fun ht hc => vcvt_fromMx ha ht hc, fun ht hc hr hnil => ?_, fun ht hc hr hlist hp hx => ?_,
    fun hd h8 h12 => convert_nans hd h8 h12 .., fun hd hs k hk => convert_ints hd hs s p _ _ _ hk⟩
  · rw [vcvt_converts ha ht hc hr, hnil, listing_nil, done_ok]
  · obtain ⟨hcount, hstate⟩ := writeEntries_listed (convert_small s p t c (s.opM m) (s.opV d) (s.opV a)) hx le_rfl
    rw [List.take_length] at hcount hstate
    rw [vcvt_converts ha ht hc hr, listing_lists hlist hp, hcount, hstate, done_ok]
    rfl

end Sys2Proof.Machine
end

section
/-! PROOFS. Reductions: those made in the core's own memory, those sent to another home, and the limit of sixteen. -/

namespace Sys2Proof.Machine

/-! ### Operands and results (R330) -/

/-- What the element's size makes of g[B] (R330). -/
def State.redOperand (s : State) (b : BitVec 5) (dbl : Bool) : Word := if dbl then s.opG b else s.opG b &&& 0xFFFFFFFF

/-- The bytes that a reduction reads and writes: a group's descriptor word, or its element (R280, R330). -/
def redBytes (dbl group : Bool) : Nat := if dbl || group then 8 else 4

/-- The alignment that a reduction asks for: that of a group's descriptor, or of its element. -/
def redAlign (dbl group : Bool) : Nat := if group then 64 else redBytes dbl group

/-- The low 32 bits of a register. -/
theorem toNat_and_low32 (x : Word) : (x &&& 0xFFFFFFFF).toNat = x.toNat % 2 ^ 32 := by
  rw [BitVec.toNat_and]; exact Nat.and_two_pow_sub_one_eq_mod x.toNat 32

/-- An element takes the low bits of g[B]. -/
theorem State.redOperand_mod (s : State) (b : BitVec 5) (dbl : Bool) :
    (s.redOperand b dbl).toNat % 2 ^ (8 * redBytes dbl false) = (s.opG b).toNat % 2 ^ (8 * redBytes dbl false) := by
  cases dbl
  case true => rfl
  case false => rw [State.redOperand, if_neg (by decide), toNat_and_low32]; exact Nat.mod_mod _ _

/-- The smaller of two elements. -/
theorem redNew_min (w m x : Nat) : redNew 1 w m x = if sintN w x < sintN w m then x else m := by
  simp only [← not_le, ite_not]; rfl

/-- The larger of two elements. -/
theorem redNew_max (w m x : Nat) : redNew 2 w m x = if sintN w m < sintN w x then x else m := by
  simp only [← not_le, ite_not]; rfl

/-- A reduction of an element of the core's own memory, where every write is performed and no word holds a soft error. -/
theorem reduceHome_plain {s : State} (he : s.errs = []) (hl : Performed s) (u c w off op who : Nat) (dbl : Bool) (x : Word) :
    reduceHome s u (.core u c w off) op dbl false who x = s.put .ls (coreKey u c off) (bytesOf (redBytes dbl false)
      (redNew op (8 * redBytes dbl false) (ofBytes (memGetMany s.mem (coreKey u c off) (redBytes dbl false))) (x.toNat % 2 ^ (8 * redBytes dbl false)))) := by
  have hn : (if dbl then 8 else 4) = redBytes dbl false := by rw [redBytes, Bool.or_false]
  simp only [reduceHome, Bool.false_eq_true, if_false, State.keyOf, redApply, State.take_noErrs _ _ _ _ _ he, pathBytes_noLag hl, hn]

/-- The state once a reduction has gone out: one more is unacknowledged (R332). -/
def State.reducing (s : State) (q : Pkt) : State :=
  (({ s with pkts := s.pkts ++ [q] } : State).modSlot s.cur.place fun x => { x with redOut := x.redOut + 1 }).tick

theorem State.slot_reducing (s : State) (q : Pkt) : (s.reducing q).slot s.cur.place = { s.here with redOut := s.here.redOut + 1 } :=
  Tbl.get_set_same _ _ _ _

/-! ### What a reduction does (R330 to R332) -/

section
variable {s : State} {i : Instr} {a b : BitVec 5} {op : Nat} {dbl group : Bool} {who : State → Nat}

/-- A reduction neither traps nor migrates for a cross range (R330). -/
theorem accessing_red {pa : Word} {n al : Nat} {acc : Acc} (h : addressCheck s s.cur.place pa n al .red false = .ok s acc) (f : State → Acc → Res) :
    accessing s pa n al .red false f = f s acc := by
  simp [accessing, h, crossing]

/-- With sixteen reductions unacknowledged, a further one waits outside a timed block. -/
theorem reduce_waits {acc : Acc} (hc : addressCheck s s.cur.place (s.opG a) (redBytes dbl group) (redAlign dbl group) .red false = .ok s acc)
    (hb : s.here.blk = none) (hr : 16 ≤ s.here.redOut) (hi : Admitted i s) : reduce i op a b dbl group who s = done (.wait s .drain true) := by
  have hw : s.waitAt .drain true acc.pa = .wait s .drain true := by simp [State.waitAt, hb]
  rw [reduce, word_admitted hi]
  refine congrArg done ((accessing_red hc _).trans ?_)
  rw [if_pos hr, hw]

/-- Memory below the system area holds no decode table. -/
theorem tableHeld_below {u c w off n : Nat} (ho : off + n ≤ sysOff u) : tableHeld s (.core u c w off) n = false := by
  simp only [tableHeld]
  unfold sysOff at ho
  split at ho
  · simp [show ¬(off < 0xFCC10 ∧ 0xFC800 < off + n) by omega]
  · next h => simp [h]

variable (hs : (s.coreAt s.cur.place).sbuf.all (fun e => e.slot != s.cur.place.slot) = true) (hr : s.here.redOut < 16)
include hs hr

/-- A reduction in the core's own memory is made as the word completes. -/
theorem reduce_makes (hb : s.here.blk = none) {w off : Nat} (ho : OwnAt s.cur.place (s.opG a) (redBytes dbl group) (redAlign dbl group) w off) (hi : Admitted i s) :
    reduce i op a b dbl group who s = .next (reduceHome s s.cur.place.unit (.core s.cur.place.unit s.cur.place.core w off) op dbl group
      (min (who s) 0xFFFF) (s.redOperand b dbl)).retired := by
  have hf : ∀ k n, forwards s s.cur.place k n = false := fun k n => sbuf_none_own hs _
  have hrs : routeStored s s.cur.place = false := sbuf_none_own hs _
  have ht : tableHeld s (.core s.cur.place.unit s.cur.place.core w off) (redBytes dbl group) = false := by
    obtain ⟨-, -, -, hbelow, -⟩ := ho
    exact tableHeld_below hbelow
  rw [← done_ok, reduce, word_admitted hi]
  refine congrArg done ((accessing_own (kind := .red) ho nofun nofun _).trans ?_)
  rw [if_neg (by omega), if_neg (by simp [hf, hrs]), ownAcc_own, if_pos rfl, ownAcc_rng]
  refine (if_neg (by rw [← redBytes, ht]; decide)).trans ?_
  simp only [blockAccess_noBlock hb, State.redOperand]

/-- A reduction of another home leaves as one packet and is counted. -/
theorem reduce_sends {acc : Acc} (hc : addressCheck s s.cur.place (s.opG a) (redBytes dbl group) (redAlign dbl group) .red false = .ok s acc)
    (ho : acc.own = false) (hg : Routed s acc.rng) (hp : s.cur.place.ok = true) (hi : Admitted i s) :
    ∃ q, reduce i op a b dbl group who s = .next (s.reducing q).retired ∧ q.kind = 4 ∧ q.dest = acc.la ∧
      q.body = .red op dbl group (min (who s) 0xFFFF) (s.redOperand b dbl) ∧ q.place = s.cur.place := by
  have hf : ∀ k n, forwards s s.cur.place k n = false := fun k n => sbuf_none_own hs _
  have hrs : routeStored s s.cur.place = false := sbuf_none_own hs _
  obtain ⟨q, hq, hkind, hdest, hbody, hsrc, hslot, -, -⟩ := inject_routed hg
    { mkPkt s s.cur.place 4 1 acc.la (.red op dbl group (min (who s) 0xFFFF) (s.redOperand b dbl)) with
      info := redInfo op dbl group (who s), rstamp := s.stampFor s.cur.place.unit acc.rng }
  have hplace : q.place = (mkPkt s s.cur.place 4 1 acc.la .none).place := by simp only [Pkt.place, hsrc, hslot]; rfl
  refine ⟨q, ?_, hkind, hdest, hbody, hplace.trans (mkPkt_place s hp ..)⟩
  rw [← done_ok, reduce, word_admitted hi]
  refine congrArg done ((accessing_red hc _).trans ?_)
  rw [if_neg (by omega), if_neg (by simp [hf, hrs]), if_neg (by simp [ho])]
  simp only [State.redOperand] at hq
  simp only [hq]
  rfl

end

/-- Settles O16: each word is a reduction of its operation and element, made in the own memory or sent, and waits with sixteen out. -/
theorem reductions : Obligations.Reductions := by
  unfold Obligations.Reductions
  refine ⟨fun s d a b z acc w off => ?_, fun s d a b z acc => ?_⟩
  · intro p hb hs hr hp n f x g k m lt makes sends
    have hn : redBytes (z == 1) false = n := by simp [redBytes, n]
    have hgroup : g.toNat % 2 ^ 32 = g.toNat := Nat.mod_eq_of_lt (by rw [toNat_and_low32]; exact Nat.mod_lt _ (by decide))
    have hv : s.redOperand b (z == 1) = if z = 1 then s.opG b else g := by simp [State.redOperand, g]
    refine ⟨fun ho he hl => ?_, fun ho hi => ?_, fun hc hown hg => ?_, fun hc hown hg => ?_⟩
    · have hmake {i : Instr} {op v : Nat} (hx : exec i s = reduce i op a b (z == 1) false (fun _ => 0) s) (h : redNew op (8 * n) m x = v) : makes i v := by
        intro hi
        rw [hx, reduce_makes hs hr hb (by rwa [redAlign, if_neg (by decide), hn]) hi, reduceHome_plain he hl, State.redOperand_mod, hn]
        exact congrArg (fun v => Host.Outcome.next (s.put .ls k (bytesOf n v)).retired) h
      have hf : (if 8 * n = 32 then fp32 else fp64) = f := by
        by_cases hz : z = 1 <;> simp [n, f, hz]
      exact ⟨hmake (exec_redAdd ..) rfl, hmake (exec_redMin ..) (redNew_min ..), hmake (exec_redMax ..) (redNew_max ..),
        hmake (exec_redFadd ..) (congrArg (fun f => addRound f m x) hf)⟩
    · rw [exec_redFaddGroup, execRedFaddGroup, reduce_makes hs hr hb ho hi, reduceHome, if_pos rfl, State.redOperand, if_neg (by decide), hgroup]
    · intro v
      have hcheck : addressCheck s p (s.opG a) (redBytes (z == 1) false) (redAlign (z == 1) false) .red false = .ok s acc := by
        rwa [redAlign, if_neg (by decide), hn]
      have hsend {i : Instr} (op : Nat) (hx : exec i s = reduce i op a b (z == 1) false (fun _ => 0) s) : sends i op (z == 1) false 0 v := by
        intro hi
        obtain ⟨q, hq, hkind, hdest, hbody, hplace⟩ := reduce_sends hs hr hcheck hown hg hp hi
        exact ⟨s.reducing q, q, hx.trans hq, rfl, hkind, hdest, hbody.trans (by rw [hv]; rfl), hplace, s.slot_reducing q, rfl⟩
      exact ⟨hsend 0 (exec_redAdd ..), hsend 1 (exec_redMin ..), hsend 2 (exec_redMax ..), hsend 3 (exec_redFadd ..)⟩
    · intro hi
      obtain ⟨q, hq, hkind, hdest, hbody, hplace⟩ := reduce_sends (dbl := false) (group := true) hs hr hc hown hg hp hi
      exact ⟨s.reducing q, q, (exec_redFaddGroup ..).trans hq, rfl, hkind, hdest, hbody, hplace, s.slot_reducing q, rfl⟩
  · intro n hb hr waits
    have hn : redBytes (z == 1) false = n := by simp [redBytes, n]
    have hwait {i : Instr} (op : Nat) (hx : exec i s = reduce i op a b (z == 1) false (fun _ => 0) s)
        (hc : addressCheck s s.cur.place (s.opG a) n n .red false = .ok s acc) : waits i := fun hi =>
      hx.trans (reduce_waits (by rwa [redAlign, if_neg (by decide), hn]) hb hr hi)
    refine ⟨fun hc => ?_, fun hc hi => ?_⟩
    · exact ⟨hwait 0 (exec_redAdd ..) hc, hwait 1 (exec_redMin ..) hc, hwait 2 (exec_redMax ..) hc, hwait 3 (exec_redFadd ..) hc⟩
    · exact (exec_redFaddGroup ..).trans (reduce_waits hc hb hr hi)

end Sys2Proof.Machine
end
